-- ==== Sys2Proof/Word.lean ====
section
/-! DEFINITION. The word types of the device (R4): a register or memory word of 32 bits and a byte. -/

namespace Sys2Proof

/-- A 32-bit word: a register, a Mukalu general register, an FD word. -/
abbrev Word := BitVec 32

/-- One byte of memory. -/
abbrev Byte := BitVec 8

end Sys2Proof
end

