-- ==== Sys2Proof/Syntax.lean ====
section
/-! DEFINITION. The commands of the device: one constructor per row of spec/opcode_table.json, in the table's order,
with the row's operands. The table gives its rows no operand fields (log entry 1): an operand names the unit that the
step happens at, the value that the step carries, or the outside fact that it reports. -/

namespace Sys2Proof

/-- Lane number 0 to 127 (R54). -/
abbrev LaneId := Fin 128
/-- Thread ID: 8n + t of Nib n, or 0x400 to 0x403 for the Steward (R104). -/
abbrev Tid := Fin 1028
/-- Device Nib 0 to 127; 128 is the Steward (R385). -/
abbrev NibId := Fin 129
/-- Partition 0 to 15. -/
abbrev PartId := Fin 16
/-- Quill 0 to 15. -/
abbrev QuillId := Fin 16
/-- Skovub port 0 to 31. -/
abbrev PortId := Fin 32
/-- DRAM channel 0 to 3. -/
abbrev ChanId := Fin 4
/-- Ligature slot 0 to 16,383 (R43). -/
abbrev SlotId := Fin 16384
/-- Master ID (R3). -/
abbrev Mid := BitVec 8

/-- The role and follow fields of a HEARTBEAT body (R289). -/
structure HeartbeatBody where
  role : Fin 4
  active : Bool
  follows : Fin 4
  plost : Bool
  lat : BitVec 16
  deriving DecidableEq, Repr

/-- A decision record, words d0 to d3 (R215). -/
structure DR where
  d0 : Word
  d1 : Word
  d2 : Word
  d3 : Word
  deriving DecidableEq, Repr

/-- A 66-bit block as the link layer sees it, without its scrambling: its sync header and its eight bytes (R58). -/
structure Block where
  sync : BitVec 2
  bytes : List Byte
  deriving DecidableEq, Repr

/-- A link frame as its lane receives it: the blocks of a Stroke link from its SOF block on (R58, R59), or the bytes that
an Ethernet PCS delivers and whether a code error ended them (R57, R60). -/
inductive LinkFrame where
  | blocks (l : List Block)
  | bytes (l : List Byte) (codeErr : Bool)
  deriving DecidableEq, Repr

/-- RS codewords of a lane since its link's last frame end: corrected and uncorrectable ones (R60, R68). -/
structure FecCount where
  corr : Nat := 0
  uncorr : Nat := 0
  deriving DecidableEq, Repr

/-- A lane and the sync headers that its receiver has seen, newest last (R60). -/
structure LaneHeaders where
  lane : LaneId
  headers : List (BitVec 2)
  deriving DecidableEq, Repr

/-- Why a lane's receiver may lose block lock: the sync headers that it has seen, newest last, and the loss of its signal
(R60). -/
structure LockLoss where
  lane : LaneId
  headers : List (BitVec 2)
  noSignal : Bool
  deriving DecidableEq, Repr

/-- A lane whose locks have been held for 10 µs: without alignment lock `align` is none, else it is the skew in ns between
the lanes of a 100GBASE-R link (R68, R69). -/
structure LaneLocks where
  lane : LaneId
  align : Option Nat
  deriving DecidableEq, Repr

/-- The commands. -/
inductive Instr where
  -- Machine phase (R7–R35)
  | crossingTick
  | substTick
  | mclkFreqUpdate (khz : BitVec 19)
  | mclkLost
  | mclkOk
  | morbMarker
  | missingMarker
  | phCtlArm
  | realignNow
  | substEnable
  | substDisable
  | mcmdLockAcquired
  | mcmdLockLost
  | mcmdFrame (word : BitVec 16) (check : Byte) (codeErr : Bool)
  | mcmdNop
  | crossingReset
  | orbitReset
  | orbitResetApply
  | runStart
  | runStop
  | admissionStart
  | admissionStop
  | calWindow
  | calWindowOpen
  | calWindowClose
  | testPulse
  | testPulseCrossing
  | hold
  | resume
  | syncCheck
  | mcmdReservedType
  | cmdInject (word : BitVec 16)
  | orbitLenWrite (v : Word)
  | orbitLenApply
  | decisionLatWrite (v : Word)
  | guardWrite (v : Word)
  | alarmFire (n : Fin 16)
  | alarmWait (t : Tid) (w : Word)
  | phasePortOut (t : Tid) (w : Word)
  | phasePortIn (t : Tid) (w : Word)
  | phaseTargetReached (t : Tid)
  | ptpCaptureRead
  -- Frame path, Ligature, Ruling, lanes (R36–R73, R211–R214, R226–R231)
  | headerCapture (lane : LaneId) (head : List Byte)
  | stylusClassify (lane : LaneId)
  | frameEnd (lane : LaneId) (frame : LinkFrame) (fec : FecCount) (fecOdd : FecCount)
  | dispatch (cls : Fin 16)
  | ligatureCompletion (slot : SlotId)
  | ligTimeout (slot : SlotId)
  | ligatureRelease (slot : SlotId)
  | rulingSelect (lane : LaneId)
  | egressFrameEnd (lane : LaneId)
  | shaperRefill
  | gateListEnable (v : BitVec 8)
  | laneEnable (lane : LaneId)
  | laneDisable (lane : LaneId)
  | blockLockAcquired (seen : LaneHeaders)
  | laneUp (locks : LaneLocks)
  | laneDown (lane : LaneId) (signalLost : Bool)
  | helloSend (lane : LaneId)
  | helloReceive (lane : LaneId) (hello : Option Block) (remoteFault : Bool)
  | rlTokenRefill
  -- Copybook commands (R92–R100): the slot and the CBC_CMD word written
  | cbNop (p : PartId) (cmd : Word)
  | cbLookup (p : PartId) (cmd : Word)
  | cbRead (p : PartId) (cmd : Word) (authority : Bool)
  | cbInsert (p : PartId) (cmd : Word)
  | cbReplace (p : PartId) (cmd : Word)
  | cbDelete (p : PartId) (cmd : Word)
  | cbDeleteIdx (p : PartId) (cmd : Word) (authority : Bool)
  | cbClearHits (p : PartId) (cmd : Word)
  | cbMove (p : PartId) (cmd : Word) (authority : Bool)
  | cbReservedCmd (p : PartId) (cmd : Word)
  | learnServe
  | agingScan
  | cbMigrateSet
  | cbMigrateClear
  | cbSwap
  | cbEventPop
  -- Mukalu (R103–R141): the thread that issues and the instruction word
  | add (t : Tid) (w : Word)
  | addc (t : Tid) (w : Word)
  | sub (t : Tid) (w : Word)
  | subb (t : Tid) (w : Word)
  | and (t : Tid) (w : Word)
  | or (t : Tid) (w : Word)
  | xor (t : Tid) (w : Word)
  | andn (t : Tid) (w : Word)
  | shl (t : Tid) (w : Word)
  | shr (t : Tid) (w : Word)
  | sar (t : Tid) (w : Word)
  | rot (t : Tid) (w : Word)
  | cmp (t : Tid) (w : Word)
  | tst (t : Tid) (w : Word)
  | mov (t : Tid) (w : Word)
  | not (t : Tid) (w : Word)
  | neg (t : Tid) (w : Word)
  | abs (t : Tid) (w : Word)
  | min (t : Tid) (w : Word)
  | max (t : Tid) (w : Word)
  | minu (t : Tid) (w : Word)
  | maxu (t : Tid) (w : Word)
  | addi (t : Tid) (w : Word)
  | andi (t : Tid) (w : Word)
  | ori (t : Tid) (w : Word)
  | xori (t : Tid) (w : Word)
  | shli (t : Tid) (w : Word)
  | shri (t : Tid) (w : Word)
  | sari (t : Tid) (w : Word)
  | roti (t : Tid) (w : Word)
  | cmpi (t : Tid) (w : Word)
  | tsti (t : Tid) (w : Word)
  | cmpui (t : Tid) (w : Word)
  | movi (t : Tid) (w : Word)
  | movhi (t : Tid) (w : Word)
  | br (t : Tid) (w : Word)
  | nop (t : Tid) (w : Word)
  | jr (t : Tid) (w : Word)
  | jalr (t : Tid) (w : Word)
  | brk (t : Tid) (w : Word)
  | rte (t : Tid) (w : Word)
  | mwait (t : Tid) (w : Word)
  | fence (t : Tid) (w : Word)
  | ifence (t : Tid) (w : Word)
  | ist (t : Tid) (w : Word)
  | ild (t : Tid) (w : Word)
  | clc (t : Tid) (w : Word)
  | sec (t : Tid) (w : Word)
  | mfs (t : Tid) (w : Word)
  | mts (t : Tid) (w : Word)
  | lb (t : Tid) (w : Word)
  | lh (t : Tid) (w : Word)
  | lw (t : Tid) (w : Word)
  | lbs (t : Tid) (w : Word)
  | lhs (t : Tid) (w : Word)
  | sb (t : Tid) (w : Word)
  | sh (t : Tid) (w : Word)
  | sw (t : Tid) (w : Word)
  | loadDataReturn (t : Tid)
  | atomTas (t : Tid) (w : Word)
  | atomCas (t : Tid) (w : Word)
  | atomAdd (t : Tid) (w : Word)
  | atomSwp (t : Tid) (w : Word)
  | wcpy (t : Tid) (w : Word)
  | wfil (t : Tid) (w : Word)
  | wcmp (t : Tid) (w : Word)
  | wsrch (t : Tid) (w : Word)
  | muls (t : Tid) (w : Word)
  | mulu (t : Tid) (w : Word)
  | macs (t : Tid) (w : Word)
  | divs (t : Tid) (w : Word)
  | divu (t : Tid) (w : Word)
  | productLand (t : Tid)
  | quotientLand (t : Tid)
  | dadd (t : Tid) (w : Word)
  | daddc (t : Tid) (w : Word)
  | dsub (t : Tid) (w : Word)
  | dsubb (t : Tid) (w : Word)
  | dca (t : Tid) (w : Word)
  | dcs (t : Tid) (w : Word)
  | dshl (t : Tid) (w : Word)
  | dshr (t : Tid) (w : Word)
  | dcvb (t : Tid) (w : Word)
  | dcvd (t : Tid) (w : Word)
  | dchk (t : Tid) (w : Word)
  | rpt (t : Tid) (w : Word)
  | ext (t : Tid) (w : Word)
  -- Fused operations and helpers (R167–R187)
  | bfx (t : Tid) (w : Word)
  | bfxs (t : Tid) (w : Word)
  | bfi (t : Tid) (w : Word)
  | psat4 (t : Tid) (w : Word)
  | wsum4 (t : Tid) (w : Word)
  | wsum4u (t : Tid) (w : Word)
  | clzp (t : Tid) (w : Word)
  | crcc (t : Tid) (w : Word)
  | crcc1 (t : Tid) (w : Word)
  | crcc2 (t : Tid) (w : Word)
  | crcc3 (t : Tid) (w : Word)
  | mth (t : Tid) (w : Word)
  | mfh (t : Tid) (w : Word)
  | hop (t : Tid) (w : Word)
  | hstat (t : Tid) (w : Word)
  | sort (q : QuillId) (n : Fin 8)
  | sortd (q : QuillId) (n : Fin 8)
  | sortki (q : QuillId) (n : Fin 8)
  | topk (q : QuillId) (n : Fin 8)
  | msort (q : QuillId) (n : Fin 8)
  | cc4 (q : QuillId) (n : Fin 8)
  | cc8 (q : QuillId) (n : Fin 8)
  | histClear (q : QuillId) (n : Fin 8)
  | acc (q : QuillId) (n : Fin 8)
  | accw (q : QuillId) (n : Fin 8)
  | peak (q : QuillId) (n : Fin 8)
  | dump (q : QuillId) (n : Fin 8)
  | h12 (q : QuillId) (n : Fin 8)
  | hashLookup (q : QuillId) (n : Fin 8)
  | hashCrc (q : QuillId) (n : Fin 8)
  | helperComplete (q : QuillId) (ty : Fin 4) (n : Fin 8)
  | helperMessageRelease (q : QuillId) (ty : Fin 4) (n : Fin 8)
  | hwait (t : Tid) (w : Word)
  -- Thread control, ports, channels, locks (R142–R166)
  | thrStart (t : Tid)
  | thrReset (t : Tid)
  | thrPark (t : Tid)
  | thrUnpark (t : Tid)
  | thrHalt (t : Tid)
  | thrResume (t : Tid)
  | thrStep (t : Tid)
  | thrDiscardStage (t : Tid)
  | dbgDataAccess (n : NibId) (write : Option Word)
  | chReceive (t : Tid) (w : Word)
  | rxInfo (t : Tid) (w : Word)
  | rxDrop (t : Tid) (w : Word)
  | txDest (t : Tid) (w : Word)
  | txData (t : Tid) (w : Word)
  | txStat (t : Tid) (w : Word)
  | txAbort (t : Tid) (w : Word)
  | messageDeliver (src : Tid) (dest : NibId) (ch : Fin 32)
  | fdSubmit (t : Tid) (w : Word)
  | fdStat (t : Tid) (w : Word)
  | lkAcq (t : Tid) (w : Word)
  | lkRel (t : Tid) (w : Word)
  | lkTry (t : Tid) (w : Word)
  | lkTryRes (t : Tid) (w : Word)
  | lockForceRelease (q : QuillId) (k : Fin 256)
  | tmrSet (t : Tid) (w : Word)
  | tmrWait (t : Tid) (w : Word)
  | timerExpiry (t : Tid) (i : Fin 2)
  | noticeDeliver (n : NibId)
  | deadlockDetect (p : PartId)
  -- Ductus (R188–R210)
  | templateEnable (k : Fin 256)
  | templateCheckDone (k : Fin 256)
  | templateDisable (k : Fin 256)
  | operationReady (inst : Fin 32768) (node : Fin 64)
  | instanceClose (inst : Fin 32768)
  | instanceEnd (inst : Fin 32768)
  | ductusNoticeDeliver (n : NibId)
  | dxPull (t : Tid) (w : Word)
  | dxDeliver (n : NibId)
  | dxOpread (t : Tid) (w : Word)
  | dxTgt (t : Tid) (w : Word)
  | dxTsps (t : Tid) (w : Word)
  | dxTdata (t : Tid) (w : Word)
  | dxStat (t : Tid) (w : Word)
  | dxDone (t : Tid) (w : Word)
  | dxDecide (t : Tid) (w : Word)
  | dxStart (t : Tid) (w : Word)
  | dxAbort (t : Tid) (w : Word)
  | spillRefill (p : PartId)
  | spillRingEnable (p : PartId) (v : Word)
  | dxSpillMaxClear (p : PartId) (v : Word)
  | dxLoadWindowEnd
  -- Decisions and readout (R215–R225), Scroll and host memory (R234–R241)
  | decisionSlotClose (p : PartId)
  | decisionRelease (p : PartId) (throttleN : Bool)
  | accOutDrive
  | copyStart
  | copyDone
  | scrollExtentFree
  | hostBar4Write (off : BitVec 28) (v : Word)
  | hostFetchadd (off : BitVec 28) (addend : Word) (bytes : Nat)
  | hostSwap (off : BitVec 28) (v : Word) (bytes : Nat)
  | hostCas (off : BitVec 28) (compare : Word) (v : Word) (bytes : Nat)
  -- Inkwell (R242–R251, R414)
  | iwAllocS (r : Sum (Tid × Word) (PartId × Bool))
  | iwAllocD (r : Sum (Tid × Word) (PartId × Bool))
  | iwArg (t : Tid) (w : Word)
  | iwFree (r : Sum (Tid × Word) (PartId × Bool))
  | iwShare (r : Sum (Tid × Word) (PartId × Bool))
  | iwRelease (r : Sum (Tid × Word) (PartId × Bool))
  | iwQuery (r : Sum (Tid × Word) (PartId × Bool))
  | iwStat (t : Tid) (w : Word)
  | iwHcmdReserved (p : PartId)
  | iwRefill
  | iwSpill
  | iwDcfgEnable (v : Word)
  | iwFillDone
  | iwDcfgDisable
  -- DRAM controllers (R252–R265)
  | ddrEnable (c : ChanId)
  | ddrTrain (c : ChanId)
  | ddrTrainDone (c : ChanId) (failedStep : Fin 9)
  | ddrRestore (c : ChanId)
  | ddrRestoreDone (c : ChanId) (checkPassed : Bool)
  | ddrRefresh (c : ChanId) (rank : Fin 2)
  | ddrTempPoll (c : ChanId) (celsius : Int)
  | ddrCommandIssue (c : ChanId) (sub : Fin 2)
  | ddrPowerDown (c : ChanId) (rank : Fin 2)
  | ddrScrubRead (c : ChanId) (errorBits : Fin 3)
  | ddrRankLost (c : ChanId) (rank : Fin 2)
  | ddrRemapDone (c : ChanId)
  | drRegionWrite (r : Fin 16) (reg : Fin 3) (v : Word)
  | ddrImodeWrite (v : Word)
  | ddrSpareEnable (c : ChanId) (v : Word)
  | ddrSpareReady (c : ChanId)
  -- Partitions and windows (R266–R282)
  | partNop (p : PartId)
  | partCreate (p : PartId)
  | partCommit (p : PartId)
  | partStart (p : PartId)
  | partAdmissionStart (p : PartId)
  | partStop (p : PartId)
  | partFreeze (p : PartId)
  | partDrainEnd (p : PartId)
  | partThaw (p : PartId)
  | partSave (p : PartId)
  | partSaveDone (p : PartId)
  | partRestore (p : PartId) (image : List Byte)
  | partRestoreDone (p : PartId)
  | partReset (p : PartId)
  | partResetDone (p : PartId)
  | partDestroy (p : PartId)
  | partReservedCmd (p : PartId)
  | rxEntryWrite (p : PartId) (bufAddr : BitVec 64)
  | rxConsDoorbell (p : PartId) (v : Word)
  | rxbDoorbell (p : PartId) (v : Word)
  | txDoorbell (p : PartId) (v : Word)
  | txEntryProcess (p : PartId) (entry : List Byte) (data : List Byte)
  | partSwirq (p : PartId) (v : BitVec 4)
  -- Skovub link and hierarchy (R283–R300)
  | skTrain (k : PortId)
  | echoReqReceive (k : PortId) (tag : BitVec 16)
  | echoRspReceive (k : PortId) (tag : BitVec 16) (roundTrip : BitVec 16)
  | flitSend (k : PortId)
  | flitReceive (k : PortId) (head : Block) (data : List Block)
  | ackReceive (k : PortId) (ackValid : Bool) (acked : BitVec 12) (credits0 : Byte) (credits1 : Byte)
  | nakReceive (k : PortId) (expected : BitVec 12)
  | flitReplayTimeout (k : PortId)
  | heartbeatSend (k : PortId)
  | heartbeat (k : PortId) (sps : Word) (body : HeartbeatBody)
  | phaseCheck (k : PortId) (ps : BitVec 64)
  | fragment (k : PortId) (sps : Word) (dr : DR)
  | event (k : PortId) (sps : Word) (dr : DR)
  | regReq (k : PortId) (tag : Word) (write : Bool) (be : BitVec 4) (slice : BitVec 6) (off : BitVec 26) (data : Word)
  | regRsp (k : PortId) (tag : Word) (status : Byte) (data : Word)
  | bulk (k : PortId) (tag : Word) (write : Bool) (response : Bool) (off : BitVec 28) (data : List Word) (len : Nat)
  | skReservedMessage (k : PortId) (ty : Byte)
  | mergeClose (p : PartId)
  | heartbeatMissed (k : PortId)
  | standbyTakeover
  | skHandback
  | enterOrphan
  | leaveOrphan
  | remoteWindowRead (k : PortId) (off : BitVec 20)
  | remoteWindowWrite (k : PortId) (off : BitVec 20) (data : List Word)
  | remoteReadTimeout (k : PortId)
  | folioRemotePoll
  -- Signet (R301–R320)
  | sigDipBegin (mv : Nat)
  | sigDipEnd (sigclk : Nat) (lowestMv : Nat)
  | sigDipLong (sigclk : Nat) (lowestMv : Nat)
  | signetPowerOn (journalBytes : Option Nat) (torn : Bool)
  | journalWrite (ok : Bool)
  | checkpointDue
  | sigTallyRead
  | sigSessionOpen (code : Word)
  | sigSessionExpire
  | seal (confirm : BitVec 16)
  | unseal (confirm : BitVec 16)
  | sigCmdNop
  | sigCmdReserved (op : Fin 16)
  | sigCfgWrite (v : Word)
  | audReadStat
  | audSelectTally (sel : Byte) (index : Byte)
  | audReadTally
  | audSelectRecord (n : Word)
  | audReadRecord
  | audReadHead
  | audReadKey
  | audReadId
  | audStartReading (p : PartId)
  | audReadReading
  | signedReadingDone
  -- Blotter (R321–R338)
  | errorReport (page : Nat) (source : Byte) (access : Fin 16) (mid : Mid) (addr : BitVec 64)
  | hangSample
  | nibFence (n : Fin 128)
  | faultIntervalClose
  | recoveryTimeout
  | errStickyClear (page : Nat) (v : Word)
  | firstErrorRearm
  | aliveToggle
  | aliveCtlWrite (v : Word)
  | wdtEnable (v : Word)
  | wdtKick
  | wdtExpire
  | injectEnable (v : Word)
  | injectArm (page : Nat) (v : Word)
  -- Modes, power and start-up (R339–R357)
  | requestCold (steward : Bool)
  | requestBoot (steward : Bool)
  | requestStandalone (steward : Bool)
  | requestConfig (steward : Bool)
  | requestRun (steward : Bool)
  | requestDrain (steward : Bool)
  | requestOrphan (steward : Bool)
  | requestTest (steward : Bool)
  | modeTransitionEnd
  | drainComplete
  | pdCtlWrite (v : Word)
  | domainSwitchDone
  | domainTimeout
  | porAssert
  | porRelease (role : BitVec 2) (bootsel : BitVec 2) (lanedef : BitVec 2)
  | bootRomStart
  | bootRomSequence (flash : Option (List Byte))
  | bootHostTimeout
  | btHostLoad (v : Word)
  | btSvnBurn (v : Word)
  | rstCold (v : Word)
  | rstWarm (v : Word)
  | vcoreReset (sigclkBelow : Nat)
  | supplyDipEnd
  | supplyDipLong
  | tempSample (hottest : Fin 8) (sixteenths : Int)
  | tempLimitWrite (v : Word)
  | functionLevelReset
  -- Performance counters (R358–R367)
  | pcSelWrite (page : Nat) (i : Fin 8) (v : Word)
  | counterRead (page : Nat) (i : Fin 8)
  | counterWrite (page : Nat) (i : Fin 8) (high : Bool) (v : Word)
  | pcSampleClear (n : NibId) (v : Word)
  | pcFreeze (n : NibId) (on : Bool)
  | pfFreeze (on : Bool)
  | pfWinWrite (v : Word)
  | pfWindowEnd
  | pfBwRead (i : Fin 64)
  -- Host, management, board, test (R368–R382)
  | mbToHostWrite (i : Fin 4) (v : Word)
  | mbToStwWrite (i : Fin 4) (v : Word)
  | mailboxDeliver (i : Fin 4)
  | mgtFrameReceive (frame : List Byte) (fcsOk : Bool)
  | mgtFrameTransmit
  | mnAdjStep (v : Word)
  | brdReadId
  | brdReadMode
  | brdReadEnv
  | brdSelectLane (v : Byte)
  | brdReadLane
  | brdSetOffset (v : Word)
  | brdReadRegister
  | extest
  | samplePreload
  | idcode
  | extestPulse
  | extestTrain
  | bistReg (write : Option Word)
  | bypass (code : Byte)
  | lbistDomain
  | mbistDomain
  | mbistAll
  | lbistAll
  | bistAbort
  | testCmdReserved (op : Fin 16)
  | bistDomainDone
  -- Pages (R383–R400)
  | pgEnable (page : Nat) (on : Bool)
  | pgFreeze (page : Nat) (on : Bool)
  | pageFrozen (page : Nat)
  | pgSoftReset (page : Nat)
  | pgLock (page : Nat) (v : Bool)
  | irqRawClear (page : Nat) (v : Word)
  | registerWrite (mid : Mid) (addr : Nat) (v : Word)
  | blockLockLost (why : LockLoss)
  | supplyDipBegin (mv : Nat)
  | reservedOpcode (t : Tid) (w : Word)
  | storeBufferDrain (t : Tid)
  | caParityError (c : ChanId) (rank : Fin 2)
  | pcieLinkUp (width : Fin 16) (speed : Fin 16)
  deriving DecidableEq, Repr

end Sys2Proof
end

