-- ==== Sys2Proof/Config.lean ====
section
/-! DEFINITION. What one die or one implementation fixes and the spec does not state, and the free values: constants
with no body, so that nothing can be proved about which value they have. -/

namespace Sys2Proof.Config

/-- UNIQUE_ID, read from one-time memory (R311, UNIQUE_ID_LO/HI). -/
opaque uniqueId : BitVec 64

/-- The auditor's public key, X then Y, 96 bytes, created at manufacture (R317, pointer 0x06 of R318). -/
opaque publicKey : List Byte

/-- The 96-byte ECDSA P-384 signature (r then s) that the island's private key makes of a SHA-384 digest (R317); the number
stands for the signature's nonce. -/
opaque signReading : Nat → List Byte → List Byte

/-- Whether an ECDSA P-384 signature (third) verifies a SHA-384 digest (second) under a public key (first) (R377). -/
opaque ecdsaVerifies : List Byte → List Byte → List Byte → Bool

/-- SHA-384 of the owner key held in one-time memory (R377). -/
opaque ownerKeyHash : List Byte

/-- The MISR signature that a BIST run yields: domain, kind (1 LBIST, 2 MBIST), run number (R380). -/
opaque misrSignature : Nat → Nat → Nat → BitVec 64

/-- The one-time memory's signature entry of a domain and kind (R380). -/
opaque misrExpected : Nat → Nat → BitVec 64

/-- A free 16-bit value: the instruction distance of a performance sample, which R364 leaves between 0 and 6. -/
opaque freePc : Nat → BitVec 16

/-- A free word, for a value that a rule leaves open; applied to State.free, which every use advances. -/
opaque freeWord : Nat → Word

/-- The parity byte over a device DRAM line's address, of which R256 does not say which address bits each parity bit
covers. -/
opaque addrParity : Nat → BitVec 8

end Sys2Proof.Config
end

