-- ==== Sys2Proof/Machine/Bits.lean ====
section
/-! DEFINITION. Bit fields, byte orders and check codes (R4, R12, R59, R64, R86, R169), shared by every block. -/

namespace Sys2Proof.Machine

/-- Bits `[hi:lo]` of a word, as a number. -/
def bits {n : Nat} (w : BitVec n) (hi lo : Nat) : Nat := (w.toNat >>> lo) % 2 ^ (hi + 1 - lo)

/-- Bit `i` of a word. -/
def bit {n : Nat} (w : BitVec n) (i : Nat) : Bool := w.getLsbD i

/-- The mask of bits `[hi:lo]`. -/
def fieldMask (n hi lo : Nat) : BitVec n := BitVec.ofNat n ((2 ^ (hi + 1 - lo) - 1) <<< lo)

/-- The word with `v` in bits `[hi:lo]`. -/
def setBits {n : Nat} (w : BitVec n) (hi lo v : Nat) : BitVec n :=
  (w &&& ~~~(fieldMask n hi lo)) ||| (BitVec.ofNat n ((v % 2 ^ (hi + 1 - lo)) <<< lo))

/-- The word with bit `i` set to `b`. -/
def setBit {n : Nat} (w : BitVec n) (i : Nat) (b : Bool) : BitVec n := setBits w i i b.toNat

/-- A word from a number. -/
def word (v : Nat) : Word := BitVec.ofNat 32 v

/-- The number of ones of the low `n` bits. -/
def popCount {w : Nat} (x : BitVec w) : Nat := ((List.range w).filter (fun i => x.getLsbD i)).length

/-- Byte `i` of a number, little-endian (R4). -/
def byteOf (v i : Nat) : Byte := BitVec.ofNat 8 (v >>> (8 * i))

/-- The `n` bytes of a number, least significant first (R4). -/
def leBytes (n v : Nat) : List Byte := (List.range n).map (byteOf v)

/-- The `n` bytes of a number in network byte order (R4). -/
def beBytes (n v : Nat) : List Byte := (leBytes n v).reverse

/-- The number that little-endian bytes spell. -/
def leNat : List Byte → Nat
  | [] => 0
  | b :: bs => b.toNat + 256 * leNat bs

/-- The number that bytes in network order spell. -/
def beNat (bs : List Byte) : Nat := leNat bs.reverse

/-- The bytes `[off, off + n)` of a list; bytes past its end read 0. -/
def slice (bs : List Byte) (off n : Nat) : List Byte := (List.range n).map (fun i => bs.getD (off + i) 0)

/-- Network-order number at bytes `[off, off + n)`. -/
def beAt (bs : List Byte) (off n : Nat) : Nat := beNat (slice bs off n)

/-- One bit step of a reflected 32-bit CRC with polynomial `p` (reflected). -/
def crcBit (p : BitVec 32) (c : BitVec 32) : BitVec 32 := if c.getLsbD 0 then (c >>> 1) ^^^ p else c >>> 1

/-- One byte of a reflected 32-bit CRC, least significant bit first. -/
def crcByte (p c : BitVec 32) (b : Byte) : BitVec 32 :=
  Nat.repeat (crcBit p) 8 (c ^^^ b.setWidth 32)

/-- The CRC-32C step of a running value over bytes: no initial or final inversion (R169). -/
def crcc (c : BitVec 32) (bs : List Byte) : BitVec 32 := bs.foldl (crcByte 0x82F63B78) c

/-- CRC-32C over bytes (R86, R48 carry check). -/
def crc32c (bs : List Byte) : BitVec 32 := ~~~ crcc 0xFFFFFFFF bs

/-- CRC-32 of R59 (reflected, polynomial 0x04C1_1DB7) over bytes; the Ethernet FCS is the same. -/
def crc32 (bs : List Byte) : BitVec 32 := ~~~ (bs.foldl (crcByte 0xEDB88320) 0xFFFFFFFF)

/-- One bit step of CRC-16/CCITT-FALSE. -/
def crc16Bit (c : BitVec 16) : BitVec 16 := if c.getLsbD 15 then (c <<< 1) ^^^ 0x1021 else c <<< 1

/-- CRC-16/CCITT-FALSE over bytes: the CFH header check (R64). -/
def crc16 (bs : List Byte) : BitVec 16 :=
  bs.foldl (fun (c : BitVec 16) (b : Byte) => Nat.repeat crc16Bit 8 (c ^^^ ((BitVec.setWidth 16 b) <<< (8 : Nat)))) 0xFFFF

/-- One bit step of CRC-8, polynomial 0x07. -/
def crc8Bit (c : BitVec 8) : BitVec 8 := if c.getLsbD 7 then (c <<< 1) ^^^ 0x07 else c <<< 1

/-- CRC-8 over bytes: the MCMD check byte and the SMBus PEC (R12, R318). -/
def crc8 (bs : List Byte) : BitVec 8 := bs.foldl (fun c b => Nat.repeat crc8Bit 8 (c ^^^ b)) 0

/-- A packed-decimal image of `n` digits of `v`, digit 0 in the low nibble (R128, R303). -/
def packDec : Nat → Nat → Nat
  | 0, _ => 0
  | n + 1, v => v % 10 + 16 * packDec n (v / 10)

/-- `x` capped at `m`: a saturating count. -/
def sat (m x : Nat) : Nat := if x ≤ m then x else m

/-- Ceiling division. -/
def cdiv (a b : Nat) : Nat := (a + b - 1) / b

end Sys2Proof.Machine
end

