-- ==== Sys2Proof/Machine/RegMap.lean ====
section
/-! DEFINITION. The register map: where every page and every register lies (R383, R384, R395, R396, R273), and for
each register its reset value and which of its bits software may write (the register tables of the chapters). -/

namespace Sys2Proof.Machine

/-- Block kinds that own a page layout (R398); `window` is a partition's BAR2 window (R273). -/
inductive PageKind where
  | root | mgt | phase | blotter | signet | pcie | mgtnet | boot | test | perf | sgroup | lane | stylus | copybook
  | ductus | ligature | ruling | inkwell | scroll | copyist | ddr | part | skovub | quill | nib | locks | helper | window
  deriving DecidableEq, Repr

namespace Reg

/-! Page bases, as BAR0 byte offsets (R395, R396). -/

/-- ROOT page (R395). -/
def rootPage : Nat := 0
/-- MGT page (R395). -/
def mgtPage : Nat := 0x1000
/-- PHASE page (R395). -/
def phasePage : Nat := 0x2000
/-- BLOTTER page (R395). -/
def blotterPage : Nat := 0x3000
/-- SIGNET page (R395). -/
def signetPage : Nat := 0x4000
/-- PCIE page (R395). -/
def pciePage : Nat := 0x5000
/-- MGTNET page (R395). -/
def mgtnetPage : Nat := 0x6000
/-- BOOT page (R395). -/
def bootPage : Nat := 0x7000
/-- TEST page (R395). -/
def testPage : Nat := 0x8000
/-- PERF page (R395). -/
def perfPage : Nat := 0x9000
/-- The Steward's NIB page (R395). -/
def stewardPage : Nat := 0xA000
/-- SGROUP g (R395). -/
def sgroupPage (g : Nat) : Nat := 0x10000 + 0x1000 * g
/-- LANE n (R395). -/
def lanePage (n : Nat) : Nat := 0x20000 + 0x1000 * n
/-- STYLUS page (R395). -/
def stylusPage : Nat := 0xA0000
/-- COPYBOOK page (R395). -/
def copybookPage : Nat := 0xA1000
/-- DUCTUS page (R395). -/
def ductusPage : Nat := 0xB0000
/-- LIGATURE page (R395). -/
def ligaturePage : Nat := 0xB1000
/-- RULING page (R395). -/
def rulingPage : Nat := 0xB2000
/-- INKWELL page (R395). -/
def inkwellPage : Nat := 0xB3000
/-- SCROLL page (R395). -/
def scrollPage : Nat := 0xB4000
/-- COPYIST page (R395). -/
def copyistPage : Nat := 0xB5000
/-- DDR c (R395). -/
def ddrPage (c : Nat) : Nat := 0xC0000 + 0x1000 * c
/-- PART p (R395). -/
def partPage (p : Nat) : Nat := 0xD0000 + 0x1000 * p
/-- SKOVUB k (R395). -/
def skovubPage (k : Nat) : Nat := 0xE0000 + 0x1000 * k
/-- QUILL q Folio page (R396). -/
def quillPage (q : Nat) : Nat := 0x100000 + 0x10000 * q
/-- NIB page of device Nib n; n = 128 is the Steward (R385, R395, R396). -/
def nibPage (n : Nat) : Nat := if n < 128 then 0x101000 + 0x10000 * (n / 8) + 0x1000 * (n % 8) else stewardPage
/-- LOCKS page of Quill q (R396). -/
def locksPage (q : Nat) : Nat := 0x109000 + 0x10000 * q
/-- HELPER page of Quill q and type t (R396). -/
def helperPage (q t : Nat) : Nat := 0x10A000 + 0x10000 * q + 0x1000 * t
/-- Window registers of partition p: BAR2 + p × 0x10_0000 (R273). The model keys BAR2 above the 64 MiB of BAR0. -/
def windowPage (p : Nat) : Nat := 0x10000000 + 0x100000 * p

/-! Common header registers, at these offsets of every page (R384). -/

/-- Header offset (R384). -/
def PG_ID (page : Nat) : Nat := page + 0x0
/-- Header offset (R384). -/
def PG_VER (page : Nat) : Nat := page + 0x4
/-- Header offset (R384). -/
def PG_CHILD (page : Nat) : Nat := page + 0x8
/-- Header offset (R384). -/
def PG_CTL (page : Nat) : Nat := page + 0xC
/-- Header offset (R384). -/
def PG_STAT (page : Nat) : Nat := page + 0x10
/-- Header offset (R384). -/
def PG_IRQ_RAW (page : Nat) : Nat := page + 0x14
/-- Header offset (R384). -/
def PG_IRQ_EN (page : Nat) : Nat := page + 0x18
/-- Header offset (R384). -/
def PG_IRQ_OUT (page : Nat) : Nat := page + 0x1C
/-- Header offset (R384). -/
def PG_ERR_STICKY (page : Nat) : Nat := page + 0x20
/-- Header offset (R384). -/
def PG_ERR_MODE (page : Nat) : Nat := page + 0x24
/-- Header offset (R384). -/
def PG_FERR_SRC (page : Nat) : Nat := page + 0x28
/-- Header offset (R384). -/
def PG_FERR_ADDR_LO (page : Nat) : Nat := page + 0x2C
/-- Header offset (R384). -/
def PG_FERR_ADDR_HI (page : Nat) : Nat := page + 0x30
/-- Header offset (R384). -/
def PG_FERR_PHASE_LO (page : Nat) : Nat := page + 0x34
/-- Header offset (R384). -/
def PG_FERR_PHASE_HI (page : Nat) : Nat := page + 0x38
/-- Header offset (R384). -/
def PG_INJECT (page : Nat) : Nat := page + 0x3C

/-! Block registers, each as a BAR0 (or model BAR2) byte address. -/

/-- `01_machine_phase.md`, offset 0x100. -/
def PH_CTL : Nat := 0x2100
/-- `01_machine_phase.md`, offset 0x104. -/
def ORBIT_LEN : Nat := 0x2104
/-- `01_machine_phase.md`, offset 0x108. -/
def DECISION_LAT : Nat := 0x2108
/-- `01_machine_phase.md`, offset 0x10C. -/
def GUARD : Nat := 0x210C
/-- `01_machine_phase.md`, offset 0x118. -/
def MCLK_FREQ : Nat := 0x2118
/-- `01_machine_phase.md`, offset 0x11C. -/
def PH_STAT : Nat := 0x211C
/-- `01_machine_phase.md`, offset 0x120. -/
def CMD_LAST : Nat := 0x2120
/-- `01_machine_phase.md`, offset 0x124. -/
def CMD_CNT : Nat := 0x2124
/-- `01_machine_phase.md`, offset 0x128. -/
def ORB_ERR_CNT : Nat := 0x2128
/-- `01_machine_phase.md`, offset 0x12C. -/
def CAL_WIN : Nat := 0x212C
/-- `01_machine_phase.md`, offset 0x180. -/
def PTP_CAPTURE : Nat := 0x2180
/-- `01_machine_phase.md`, offset 0x198. -/
def SUBST_CTL : Nat := 0x2198
/-- `01_machine_phase.md`, offset 0x19C. -/
def CMD_INJECT : Nat := 0x219C
/-- `01_machine_phase.md`, offset 0x1A0. -/
def CMD_ERR_CNT : Nat := 0x21A0
/-- `01_machine_phase.md`, offset 0x1A4. -/
def XING_FCLK : Nat := 0x21A4
/-- `01_machine_phase.md`, offset 0x1A8. -/
def ALARM_STAT : Nat := 0x21A8
/-- `09_decisions_readout.md`, offset 0x130. -/
def ACC_OUT_CTL : Nat := 0x2130
/-- `09_decisions_readout.md`, offset 0x134. -/
def ACC_OUT_DELAY : Nat := 0x2134
/-- `09_decisions_readout.md`, offset 0x138. -/
def THROTTLE_CTL : Nat := 0x2138
/-- `09_decisions_readout.md`, offset 0x13C. -/
def DEFAULT_DECISION : Nat := 0x213C
/-- `01_machine_phase.md`, offset 0x110. -/
def PH_NOW_LO : Nat := 0x2110
/-- `01_machine_phase.md`, offset 0x114. -/
def PH_NOW_HI : Nat := 0x2114
/-- `01_machine_phase.md`, offset 0x140. -/
def PH_ALARM (i : Nat) : Nat := 0x2140 + 0x4 * i
/-- `01_machine_phase.md`, offset 0x184. -/
def PTP_CAP_ORBIT_LO : Nat := 0x2184
/-- `01_machine_phase.md`, offset 0x188. -/
def PTP_CAP_ORBIT_HI : Nat := 0x2188
/-- `01_machine_phase.md`, offset 0x18C. -/
def PTP_CAP_SEC_LO : Nat := 0x218C
/-- `01_machine_phase.md`, offset 0x190. -/
def PTP_CAP_SEC_HI : Nat := 0x2190
/-- `01_machine_phase.md`, offset 0x194. -/
def PTP_CAP_NS : Nat := 0x2194
/-- `03_lanes_links.md`, offset 0x100. -/
def LANE_CTL (n : Nat) : Nat := lanePage n + 0x100
/-- `03_lanes_links.md`, offset 0x104. -/
def LANE_STAT (n : Nat) : Nat := lanePage n + 0x104
/-- `03_lanes_links.md`, offset 0x108. -/
def LANE_ETH_DA_LO (n : Nat) : Nat := lanePage n + 0x108
/-- `03_lanes_links.md`, offset 0x10C. -/
def LANE_ETH_DA_HI (n : Nat) : Nat := lanePage n + 0x10C
/-- `03_lanes_links.md`, offset 0x110. -/
def LANE_ETH_SA_LO (n : Nat) : Nat := lanePage n + 0x110
/-- `03_lanes_links.md`, offset 0x114. -/
def LANE_ETH_SA_HI (n : Nat) : Nat := lanePage n + 0x114
/-- `03_lanes_links.md`, offset 0x118. -/
def LANE_VLAN (n : Nat) : Nat := lanePage n + 0x118
/-- `03_lanes_links.md`, offset 0x120. -/
def RX_FRAMES (n : Nat) : Nat := lanePage n + 0x120
/-- `03_lanes_links.md`, offset 0x124. -/
def TX_FRAMES (n : Nat) : Nat := lanePage n + 0x124
/-- `03_lanes_links.md`, offset 0x128. -/
def DROP_NO_PHASE (n : Nat) : Nat := lanePage n + 0x128
/-- `03_lanes_links.md`, offset 0x12C. -/
def DROP_STALE (n : Nat) : Nat := lanePage n + 0x12C
/-- `03_lanes_links.md`, offset 0x130. -/
def DROP_FUTURE (n : Nat) : Nat := lanePage n + 0x130
/-- `03_lanes_links.md`, offset 0x134. -/
def DROP_LINK_CHECK (n : Nat) : Nat := lanePage n + 0x134
/-- `03_lanes_links.md`, offset 0x138. -/
def DROP_SCROLL_FULL (n : Nat) : Nat := lanePage n + 0x138
/-- `03_lanes_links.md`, offset 0x13C. -/
def DROP_DISPATCH_FULL (n : Nat) : Nat := lanePage n + 0x13C
/-- `03_lanes_links.md`, offset 0x140. -/
def DROP_OVERSIZE (n : Nat) : Nat := lanePage n + 0x140
/-- `03_lanes_links.md`, offset 0x144. -/
def RUNT (n : Nat) : Nat := lanePage n + 0x144
/-- `03_lanes_links.md`, offset 0x148. -/
def PARSE_FAIL (n : Nat) : Nat := lanePage n + 0x148
/-- `03_lanes_links.md`, offset 0x14C. -/
def LATE_FRAMES (n : Nat) : Nat := lanePage n + 0x14C
/-- `03_lanes_links.md`, offset 0x150. -/
def STOMPED (n : Nat) : Nat := lanePage n + 0x150
/-- `03_lanes_links.md`, offset 0x154. -/
def OTHER_ETYPE (n : Nat) : Nat := lanePage n + 0x154
/-- `03_lanes_links.md`, offset 0x158. -/
def FEC_CORR (n : Nat) : Nat := lanePage n + 0x158
/-- `03_lanes_links.md`, offset 0x15C. -/
def FEC_UNCORR (n : Nat) : Nat := lanePage n + 0x15C
/-- `03_lanes_links.md`, offset 0x160. -/
def DOWN_EVENTS (n : Nat) : Nat := lanePage n + 0x160
/-- `20_package_electrical.md`, offset 0x170. -/
def LANE_TXEQ (n : Nat) : Nat := lanePage n + 0x170
/-- `03_lanes_links.md`, offset 0x100. -/
def SG_CTL (n : Nat) : Nat := sgroupPage n + 0x100
/-- `03_lanes_links.md`, offset 0x104. -/
def SG_STAT (n : Nat) : Nat := sgroupPage n + 0x104
/-- `03_lanes_links.md`, offset 0x108. -/
def SG_LANE_UP (n : Nat) : Nat := sgroupPage n + 0x108
/-- `04_stylus_copybook.md`, offset 0x104. -/
def ST_EXC_DEST : Nat := 0xA0104
/-- `04_stylus_copybook.md`, offset 0x108. -/
def ST_RL_INTERVAL : Nat := 0xA0108
/-- `04_stylus_copybook.md`, offset 0x10C. -/
def ST_RL_BURST : Nat := 0xA010C
/-- `04_stylus_copybook.md`, offset 0x110. -/
def ST_RL_TOKENS : Nat := 0xA0110
/-- `04_stylus_copybook.md`, offset 0x114. -/
def ST_RL_DROP_MISS : Nat := 0xA0114
/-- `04_stylus_copybook.md`, offset 0x118. -/
def ST_RL_DROP_PARSE : Nat := 0xA0118
/-- `04_stylus_copybook.md`, offset 0x11C. -/
def ST_RL_DROP_COPY : Nat := 0xA011C
/-- `04_stylus_copybook.md`, offset 0x120. -/
def ST_CLASS_DENIED : Nat := 0xA0120
/-- `04_stylus_copybook.md`, offset 0x124. -/
def ST_DROP_ACTION : Nat := 0xA0124
/-- `04_stylus_copybook.md`, offset 0x128. -/
def ST_CH3_DROP : Nat := 0xA0128
/-- `04_stylus_copybook.md`, offset 0x140. -/
def ST_CLASS (i : Nat) : Nat := 0xA0140 + 0x4 * i
/-- `04_stylus_copybook.md`, offset 0x100. -/
def CB_CTL : Nat := 0xA1100
/-- `04_stylus_copybook.md`, offset 0x104. -/
def CB_SEED_A0 : Nat := 0xA1104
/-- `04_stylus_copybook.md`, offset 0x108. -/
def CB_SEED_A1 : Nat := 0xA1108
/-- `04_stylus_copybook.md`, offset 0x10C. -/
def CB_SEED_B0 : Nat := 0xA110C
/-- `04_stylus_copybook.md`, offset 0x110. -/
def CB_SEED_B1 : Nat := 0xA1110
/-- `04_stylus_copybook.md`, offset 0x114. -/
def CB_USED : Nat := 0xA1114
/-- `04_stylus_copybook.md`, offset 0x118. -/
def CB_MIGRATE_LEFT : Nat := 0xA1118
/-- `04_stylus_copybook.md`, offset 0x11C. -/
def CB_EVENT : Nat := 0xA111C
/-- `04_stylus_copybook.md`, offset 0x120. -/
def CB_EVENT_LOST : Nat := 0xA1120
/-- `04_stylus_copybook.md`, offset 0x124. -/
def CB_LEARN_DROP : Nat := 0xA1124
/-- `04_stylus_copybook.md`, offset 0x128. -/
def CB_AGE_PACE : Nat := 0xA1128
/-- `04_stylus_copybook.md`, offset 0x12C. -/
def CB_ROT : Nat := 0xA112C
/-- `04_stylus_copybook.md`, offset 0x140. -/
def CB_PLIM (i : Nat) : Nat := 0xA1140 + 0x4 * i
/-- `04_stylus_copybook.md`, offset 0x200. -/
def CBC_CMD (i : Nat) : Nat := 0xA1200 + 0x40 * i
/-- `04_stylus_copybook.md`, offset 0x204. -/
def CBC_RESULT (i : Nat) : Nat := 0xA1204 + 0x40 * i
/-- `04_stylus_copybook.md`, offset 0x208. -/
def CBC_USE (i : Nat) : Nat := 0xA1208 + 0x40 * i
/-- `04_stylus_copybook.md`, offset 0x210. -/
def CBC_DATA0 (i : Nat) : Nat := 0xA1210 + 0x40 * i
/-- `04_stylus_copybook.md`, offset 0x214. -/
def CBC_DATA1 (i : Nat) : Nat := 0xA1214 + 0x40 * i
/-- `04_stylus_copybook.md`, offset 0x218. -/
def CBC_DATA2 (i : Nat) : Nat := 0xA1218 + 0x40 * i
/-- `04_stylus_copybook.md`, offset 0x21C. -/
def CBC_DATA3 (i : Nat) : Nat := 0xA121C + 0x40 * i
/-- `04_stylus_copybook.md`, offset 0x220. -/
def CBC_DATA4 (i : Nat) : Nat := 0xA1220 + 0x40 * i
/-- `04_stylus_copybook.md`, offset 0x224. -/
def CBC_DATA5 (i : Nat) : Nat := 0xA1224 + 0x40 * i
/-- `04_stylus_copybook.md`, offset 0x228. -/
def CBC_DATA6 (i : Nat) : Nat := 0xA1228 + 0x40 * i
/-- `04_stylus_copybook.md`, offset 0x22C. -/
def CBC_DATA7 (i : Nat) : Nat := 0xA122C + 0x40 * i
/-- `04_stylus_copybook.md`, offset 0x230. -/
def CBC_LEARN (i : Nat) : Nat := 0xA1230 + 0x40 * i
/-- `04_stylus_copybook.md`, offset 0x234. -/
def CBC_AGE (i : Nat) : Nat := 0xA1234 + 0x40 * i
/-- `06_nibs_threads.md`, offset 0x100. -/
def NIB_CTL (n : Nat) : Nat := nibPage n + 0x100
/-- `06_nibs_threads.md`, offset 0x104. -/
def NIB_STAT (n : Nat) : Nat := nibPage n + 0x104
/-- `06_nibs_threads.md`, offset 0x108. -/
def NIB_PID (n : Nat) : Nat := nibPage n + 0x108
/-- `06_nibs_threads.md`, offset 0x10C. -/
def NIB_SHARE (n : Nat) : Nat := nibPage n + 0x10C
/-- `06_nibs_threads.md`, offset 0x110. -/
def DL_CTL (n : Nat) : Nat := nibPage n + 0x110
/-- `07_helpers.md`, offset 0x148. -/
def HLP_EN (n : Nat) : Nat := nibPage n + 0x148
/-- `06_nibs_threads.md`, offset 0x114. -/
def DL_COUNT (n : Nat) : Nat := nibPage n + 0x114
/-- `06_nibs_threads.md`, offset 0x118. -/
def MSG_DISCARD (n : Nat) : Nat := nibPage n + 0x118
/-- `06_nibs_threads.md`, offset 0x11C. -/
def NOTICE_HELD (n : Nat) : Nat := nibPage n + 0x11C
/-- `06_nibs_threads.md`, offset 0x120. -/
def DWIN (n : Nat) (i : Nat) : Nat := nibPage n + 0x120 + 0x4 * i
/-- `06_nibs_threads.md`, offset 0x140. -/
def WATCH_ADDR (n : Nat) : Nat := nibPage n + 0x140
/-- `06_nibs_threads.md`, offset 0x144. -/
def WATCH_CTL (n : Nat) : Nat := nibPage n + 0x144
/-- `06_nibs_threads.md`, offset 0x180. -/
def THR_CTL (n : Nat) (i : Nat) : Nat := nibPage n + 0x180 + 0x20 * i
/-- `06_nibs_threads.md`, offset 0x184. -/
def THR_STAT (n : Nat) (i : Nat) : Nat := nibPage n + 0x184 + 0x20 * i
/-- `06_nibs_threads.md`, offset 0x190. -/
def THR_USE (n : Nat) (i : Nat) : Nat := nibPage n + 0x190 + 0x20 * i
/-- `06_nibs_threads.md`, offset 0x188. -/
def THR_ENTRY (n : Nat) (i : Nat) : Nat := nibPage n + 0x188 + 0x20 * i
/-- `06_nibs_threads.md`, offset 0x18C. -/
def THR_PC (n : Nat) (i : Nat) : Nat := nibPage n + 0x18C + 0x20 * i
/-- `06_nibs_threads.md`, offset 0x280. -/
def DBG_SEL (n : Nat) : Nat := nibPage n + 0x280
/-- `06_nibs_threads.md`, offset 0x284. -/
def DBG_DATA (n : Nat) : Nat := nibPage n + 0x284
/-- `17_observability.md`, offset 0x300. -/
def PC_CTL (n : Nat) : Nat := nibPage n + 0x300
/-- `17_observability.md`, offset 0x304. -/
def PC_OVF (n : Nat) : Nat := nibPage n + 0x304
/-- `17_observability.md`, offset 0x308. -/
def PC_SAMPLE_PC (n : Nat) : Nat := nibPage n + 0x308
/-- `17_observability.md`, offset 0x30C. -/
def PC_SAMPLE_INFO (n : Nat) : Nat := nibPage n + 0x30C
/-- `17_observability.md`, offset 0x320. -/
def PC_SEL (n : Nat) (i : Nat) : Nat := nibPage n + 0x320 + 0x4 * i
/-- `17_observability.md`, offset 0x340. -/
def PC_CNT_LO (n : Nat) (i : Nat) : Nat := nibPage n + 0x340 + 0x8 * i
/-- `17_observability.md`, offset 0x344. -/
def PC_CNT_HI (n : Nat) (i : Nat) : Nat := nibPage n + 0x344 + 0x8 * i
/-- `06_nibs_threads.md`, offset 0x100. -/
def LK_PIDMAP (n : Nat) (i : Nat) : Nat := locksPage n + 0x100 + 0x4 * i
/-- `06_nibs_threads.md`, offset 0x108. -/
def LK_BROKEN_CNT (n : Nat) : Nat := locksPage n + 0x108
/-- `06_nibs_threads.md`, offset 0x10C. -/
def LK_BADREL_CNT (n : Nat) : Nat := locksPage n + 0x10C
/-- `06_nibs_threads.md`, offset 0x110. -/
def LK_DENIED_CNT (n : Nat) : Nat := locksPage n + 0x110
/-- `06_nibs_threads.md`, offset 0x400. -/
def LK_STATE (n : Nat) (i : Nat) : Nat := locksPage n + 0x400 + 0x4 * i
/-- `07_helpers.md`, offset 0x100. -/
def HP_CTX_STAT (q t : Nat) (i : Nat) : Nat := helperPage q t + 0x100 + 0x4 * i
/-- `07_helpers.md`, offset 0x120. -/
def HP_OPS (q t : Nat) : Nat := helperPage q t + 0x120
/-- `07_helpers.md`, offset 0x124. -/
def HP_REFUSED (q t : Nat) : Nat := helperPage q t + 0x124
/-- `07_helpers.md`, offset 0x128. -/
def HP_STALE (q t : Nat) : Nat := helperPage q t + 0x128
/-- `07_helpers.md`, offset 0x12C. -/
def HP_BUSY (q t : Nat) : Nat := helperPage q t + 0x12C
/-- `08_ductus.md`, offset 0x100. -/
def DX_CTL : Nat := 0xB0100
/-- `08_ductus.md`, offset 0x104. -/
def DX_TPL_EN (i : Nat) : Nat := 0xB0104 + 0x4 * i
/-- `08_ductus.md`, offset 0x124. -/
def DX_TPL_ERR : Nat := 0xB0124
/-- `08_ductus.md`, offset 0x128. -/
def DX_INST_USED : Nat := 0xB0128
/-- `08_ductus.md`, offset 0x12C. -/
def DX_INST_DROP : Nat := 0xB012C
/-- `08_ductus.md`, offset 0x130. -/
def DX_TOKEN_USED : Nat := 0xB0130
/-- `08_ductus.md`, offset 0x134. -/
def DX_TOKEN_FULL : Nat := 0xB0134
/-- `08_ductus.md`, offset 0x138. -/
def DX_LOAD_WIN : Nat := 0xB0138
/-- `08_ductus.md`, offset 0x140. -/
def DX_OBS_SEL : Nat := 0xB0140
/-- `08_ductus.md`, offset 0x144. -/
def DX_OBS_DEPTH : Nat := 0xB0144
/-- `08_ductus.md`, offset 0x148. -/
def DX_OBS_OPS : Nat := 0xB0148
/-- `08_ductus.md`, offset 0x14C. -/
def DX_OBS_BUSY : Nat := 0xB014C
/-- `08_ductus.md`, offset 0x180. -/
def DX_OBS_HIST (i : Nat) : Nat := 0xB0180 + 0x4 * i
/-- `08_ductus.md`, offset 0x200. -/
def DX_SPILL_BASE (i : Nat) : Nat := 0xB0200 + 0x20 * i
/-- `08_ductus.md`, offset 0x204. -/
def DX_SPILL_SIZE (i : Nat) : Nat := 0xB0204 + 0x20 * i
/-- `08_ductus.md`, offset 0x208. -/
def DX_SPILL_DEPTH (i : Nat) : Nat := 0xB0208 + 0x20 * i
/-- `08_ductus.md`, offset 0x20C. -/
def DX_SPILL_MAX (i : Nat) : Nat := 0xB020C + 0x20 * i
/-- `08_ductus.md`, offset 0x210. -/
def DX_PLIM (i : Nat) : Nat := 0xB0210 + 0x20 * i
/-- `08_ductus.md`, offset 0x214. -/
def DX_PCANCEL (i : Nat) : Nat := 0xB0214 + 0x20 * i
/-- `08_ductus.md`, offset 0x218. -/
def DX_PDROP (i : Nat) : Nat := 0xB0218 + 0x20 * i
/-- `09_decisions_readout.md`, offset 0x100. -/
def LG_FREE : Nat := 0xB1100
/-- `09_decisions_readout.md`, offset 0x104. -/
def LG_HOLES : Nat := 0xB1104
/-- `09_decisions_readout.md`, offset 0x108. -/
def LG_UNORDERED : Nat := 0xB1108
/-- `09_decisions_readout.md`, offset 0x10C. -/
def LG_LATE_COMPL : Nat := 0xB110C
/-- `09_decisions_readout.md`, offset 0x110. -/
def LG_DISCARD : Nat := 0xB1110
/-- `09_decisions_readout.md`, offset 0x140. -/
def LG_CFG (i : Nat) : Nat := 0xB1140 + 0x8 * i
/-- `09_decisions_readout.md`, offset 0x144. -/
def LG_TMO (i : Nat) : Nat := 0xB1144 + 0x8 * i
/-- `09_decisions_readout.md`, offset 0x1C0. -/
def LG_USED (i : Nat) : Nat := 0xB11C0 + 0x4 * i
/-- `09_decisions_readout.md`, offset 0x100. -/
def CP_PEND : Nat := 0xB5100
/-- `09_decisions_readout.md`, offset 0x104. -/
def CP_EVENTS : Nat := 0xB5104
/-- `09_decisions_readout.md`, offset 0x108. -/
def CP_EXPIRED : Nat := 0xB5108
/-- `09_decisions_readout.md`, offset 0x10C. -/
def CP_TRUNC : Nat := 0xB510C
/-- `09_decisions_readout.md`, offset 0x110. -/
def CP_OVERFLOW : Nat := 0xB5110
/-- `09_decisions_readout.md`, offset 0x114. -/
def CP_NOBUF : Nat := 0xB5114
/-- `09_decisions_readout.md`, offset 0x200. -/
def CP_PCTL (i : Nat) : Nat := 0xB5200 + 0x40 * i
/-- `09_decisions_readout.md`, offset 0x204. -/
def CP_SEL0 (i : Nat) : Nat := 0xB5204 + 0x40 * i
/-- `09_decisions_readout.md`, offset 0x208. -/
def CP_SEL1 (i : Nat) : Nat := 0xB5208 + 0x40 * i
/-- `09_decisions_readout.md`, offset 0x20C. -/
def CP_SEL2 (i : Nat) : Nat := 0xB520C + 0x40 * i
/-- `09_decisions_readout.md`, offset 0x210. -/
def CP_SEL3 (i : Nat) : Nat := 0xB5210 + 0x40 * i
/-- `09_decisions_readout.md`, offset 0x214. -/
def CP_SEL4 (i : Nat) : Nat := 0xB5214 + 0x40 * i
/-- `09_decisions_readout.md`, offset 0x218. -/
def CP_SEL5 (i : Nat) : Nat := 0xB5218 + 0x40 * i
/-- `09_decisions_readout.md`, offset 0x21C. -/
def CP_SEL6 (i : Nat) : Nat := 0xB521C + 0x40 * i
/-- `09_decisions_readout.md`, offset 0x220. -/
def CP_SEL7 (i : Nat) : Nat := 0xB5220 + 0x40 * i
/-- `09_decisions_readout.md`, offset 0x100. -/
def RU_CTL : Nat := 0xB2100
/-- `09_decisions_readout.md`, offset 0x104. -/
def RU_QDROP : Nat := 0xB2104
/-- `09_decisions_readout.md`, offset 0x108. -/
def RU_DENIED : Nat := 0xB2108
/-- `09_decisions_readout.md`, offset 0x10C. -/
def RU_EXPIRED : Nat := 0xB210C
/-- `09_decisions_readout.md`, offset 0x110. -/
def RU_DEC_DROP : Nat := 0xB2110
/-- `09_decisions_readout.md`, offset 0x114. -/
def RU_QSEL : Nat := 0xB2114
/-- `09_decisions_readout.md`, offset 0x118. -/
def RU_QCFG : Nat := 0xB2118
/-- `09_decisions_readout.md`, offset 0x11C. -/
def RU_QLIM : Nat := 0xB211C
/-- `09_decisions_readout.md`, offset 0x120. -/
def RU_QDEPTH : Nat := 0xB2120
/-- `09_decisions_readout.md`, offset 0x124. -/
def RU_GSEL : Nat := 0xB2124
/-- `09_decisions_readout.md`, offset 0x128. -/
def RU_GWIN : Nat := 0xB2128
/-- `09_decisions_readout.md`, offset 0x12C. -/
def RU_GEN : Nat := 0xB212C
/-- `09_decisions_readout.md`, offset 0x130. -/
def RU_GPID : Nat := 0xB2130
/-- `09_decisions_readout.md`, offset 0x134. -/
def RU_DEC_STREAM : Nat := 0xB2134
/-- `09_decisions_readout.md`, offset 0x200. -/
def RU_SH_RATE (i : Nat) : Nat := 0xB2200 + 0x10 * i
/-- `09_decisions_readout.md`, offset 0x204. -/
def RU_SH_BURST (i : Nat) : Nat := 0xB2204 + 0x10 * i
/-- `09_decisions_readout.md`, offset 0x208. -/
def RU_SH_OVH (i : Nat) : Nat := 0xB2208 + 0x10 * i
/-- `09_decisions_readout.md`, offset 0x20C. -/
def RU_SH_TOK (i : Nat) : Nat := 0xB220C + 0x10 * i
/-- `10_scroll_inkwell.md`, offset 0x100. -/
def SC_COPY_HOLD : Nat := 0xB4100
/-- `10_scroll_inkwell.md`, offset 0x104. -/
def SC_FIT : Nat := 0xB4104
/-- `10_scroll_inkwell.md`, offset 0x108. -/
def SC_RATE : Nat := 0xB4108
/-- `10_scroll_inkwell.md`, offset 0x10C. -/
def SC_ALLOC : Nat := 0xB410C
/-- `10_scroll_inkwell.md`, offset 0x110. -/
def SC_FREE : Nat := 0xB4110
/-- `10_scroll_inkwell.md`, offset 0x114. -/
def SC_CIT_SEL : Nat := 0xB4114
/-- `10_scroll_inkwell.md`, offset 0x118. -/
def SC_CIT_DATA0 : Nat := 0xB4118
/-- `10_scroll_inkwell.md`, offset 0x11C. -/
def SC_CIT_DATA1 : Nat := 0xB411C
/-- `10_scroll_inkwell.md`, offset 0x120. -/
def SC_EXT_SEL : Nat := 0xB4120
/-- `10_scroll_inkwell.md`, offset 0x124. -/
def SC_EXT_DATA : Nat := 0xB4124
/-- `10_scroll_inkwell.md`, offset 0x128. -/
def SC_DROP_FULL : Nat := 0xB4128
/-- `10_scroll_inkwell.md`, offset 0x12C. -/
def SC_DEAD_FULL : Nat := 0xB412C
/-- `10_scroll_inkwell.md`, offset 0x130. -/
def SC_CORR : Nat := 0xB4130
/-- `10_scroll_inkwell.md`, offset 0x100. -/
def IW_CTL : Nat := 0xB3100
/-- `10_scroll_inkwell.md`, offset 0x104. -/
def IW_SFREE : Nat := 0xB3104
/-- `10_scroll_inkwell.md`, offset 0x108. -/
def IW_DFREE : Nat := 0xB3108
/-- `10_scroll_inkwell.md`, offset 0x10C. -/
def IW_DCFG : Nat := 0xB310C
/-- `10_scroll_inkwell.md`, offset 0x110. -/
def IW_DBUF_BASE : Nat := 0xB3110
/-- `10_scroll_inkwell.md`, offset 0x114. -/
def IW_DRING_BASE : Nat := 0xB3114
/-- `10_scroll_inkwell.md`, offset 0x118. -/
def IW_DSTATE_BASE : Nat := 0xB3118
/-- `10_scroll_inkwell.md`, offset 0x11C. -/
def IW_DCACHE : Nat := 0xB311C
/-- `10_scroll_inkwell.md`, offset 0x120. -/
def IW_QSEL : Nat := 0xB3120
/-- `10_scroll_inkwell.md`, offset 0x124. -/
def IW_QMID_S : Nat := 0xB3124
/-- `10_scroll_inkwell.md`, offset 0x128. -/
def IW_QMID_D : Nat := 0xB3128
/-- `10_scroll_inkwell.md`, offset 0x12C. -/
def IW_QUSE_S : Nat := 0xB312C
/-- `10_scroll_inkwell.md`, offset 0x130. -/
def IW_QUSE_D : Nat := 0xB3130
/-- `10_scroll_inkwell.md`, offset 0x134. -/
def IW_EMPTY : Nat := 0xB3134
/-- `10_scroll_inkwell.md`, offset 0x138. -/
def IW_OVERQ : Nat := 0xB3138
/-- `10_scroll_inkwell.md`, offset 0x13C. -/
def IW_NOTOWNER : Nat := 0xB313C
/-- `10_scroll_inkwell.md`, offset 0x140. -/
def IW_LOST : Nat := 0xB3140
/-- `10_scroll_inkwell.md`, offset 0x200. -/
def IW_QPART_S (i : Nat) : Nat := 0xB3200 + 0x10 * i
/-- `10_scroll_inkwell.md`, offset 0x204. -/
def IW_QPART_D (i : Nat) : Nat := 0xB3204 + 0x10 * i
/-- `10_scroll_inkwell.md`, offset 0x208. -/
def IW_PUSE_S (i : Nat) : Nat := 0xB3208 + 0x10 * i
/-- `10_scroll_inkwell.md`, offset 0x20C. -/
def IW_PUSE_D (i : Nat) : Nat := 0xB320C + 0x10 * i
/-- `10_scroll_inkwell.md`, offset 0x300. -/
def IW_HCMD (i : Nat) : Nat := 0xB3300 + 0x10 * i
/-- `10_scroll_inkwell.md`, offset 0x304. -/
def IW_HARG (i : Nat) : Nat := 0xB3304 + 0x10 * i
/-- `10_scroll_inkwell.md`, offset 0x308. -/
def IW_HRESULT (i : Nat) : Nat := 0xB3308 + 0x10 * i
/-- `11_dram.md`, offset 0x100. -/
def DDR_GEOM (n : Nat) : Nat := ddrPage n + 0x100
/-- `11_dram.md`, offset 0x104. -/
def DDR_CTL (n : Nat) : Nat := ddrPage n + 0x104
/-- `11_dram.md`, offset 0x108. -/
def DDR_STAT (n : Nat) : Nat := ddrPage n + 0x108
/-- `11_dram.md`, offset 0x10C. -/
def DDR_SCHED (n : Nat) : Nat := ddrPage n + 0x10C
/-- `11_dram.md`, offset 0x110. -/
def DDR_SCRUB (n : Nat) : Nat := ddrPage n + 0x110
/-- `11_dram.md`, offset 0x114. -/
def DDR_TRN_SEL (n : Nat) : Nat := ddrPage n + 0x114
/-- `11_dram.md`, offset 0x118. -/
def DDR_TRN_DATA (n : Nat) : Nat := ddrPage n + 0x118
/-- `11_dram.md`, offset 0x120. -/
def DDR_IMODE (n : Nat) : Nat := ddrPage n + 0x120
/-- `11_dram.md`, offset 0x124. -/
def DDR_SPARE (n : Nat) : Nat := ddrPage n + 0x124
/-- `11_dram.md`, offset 0x130. -/
def DDR_CORR (n : Nat) : Nat := ddrPage n + 0x130
/-- `11_dram.md`, offset 0x134. -/
def DDR_UNCORR (n : Nat) : Nat := ddrPage n + 0x134
/-- `11_dram.md`, offset 0x138. -/
def DDR_CAPAR (n : Nat) : Nat := ddrPage n + 0x138
/-- `11_dram.md`, offset 0x13C. -/
def DDR_SCRUB_PASS (n : Nat) : Nat := ddrPage n + 0x13C
/-- `11_dram.md`, offset 0x200. -/
def DR_BASE (n : Nat) (i : Nat) : Nat := ddrPage n + 0x200 + 0x10 * i
/-- `11_dram.md`, offset 0x204. -/
def DR_SIZE (n : Nat) (i : Nat) : Nat := ddrPage n + 0x204 + 0x10 * i
/-- `11_dram.md`, offset 0x208. -/
def DR_MAP (n : Nat) (i : Nat) : Nat := ddrPage n + 0x208 + 0x10 * i
/-- `12_partitions.md`, offset 0x100. -/
def PART_CMD (n : Nat) : Nat := partPage n + 0x100
/-- `12_partitions.md`, offset 0x104. -/
def PART_STAT (n : Nat) : Nat := partPage n + 0x104
/-- `12_partitions.md`, offset 0x108. -/
def PART_ERR (n : Nat) : Nat := partPage n + 0x108
/-- `12_partitions.md`, offset 0x10C. -/
def PART_EPOCH (n : Nat) : Nat := partPage n + 0x10C
/-- `12_partitions.md`, offset 0x110. -/
def PART_INFLIGHT (n : Nat) : Nat := partPage n + 0x110
/-- `12_partitions.md`, offset 0x114. -/
def PART_SHAPERS (n : Nat) : Nat := partPage n + 0x114
/-- `12_partitions.md`, offset 0x118. -/
def PART_PASID (n : Nat) : Nat := partPage n + 0x118
/-- `12_partitions.md`, offset 0x11C. -/
def PART_SWIRQ (n : Nat) : Nat := partPage n + 0x11C
/-- `12_partitions.md`, offset 0x120. -/
def PART_IMG_ADDR_LO (n : Nat) : Nat := partPage n + 0x120
/-- `12_partitions.md`, offset 0x124. -/
def PART_IMG_ADDR_HI (n : Nat) : Nat := partPage n + 0x124
/-- `12_partitions.md`, offset 0x128. -/
def PART_IMG_LEN (n : Nat) : Nat := partPage n + 0x128
/-- `12_partitions.md`, offset 0x12C. -/
def PART_IMG_NEED (n : Nat) : Nat := partPage n + 0x12C
/-- `12_partitions.md`, offset 0x0. -/
def PW_CTL (n : Nat) : Nat := windowPage n + 0x0
/-- `12_partitions.md`, offset 0x4. -/
def PW_STAT (n : Nat) : Nat := windowPage n + 0x4
/-- `12_partitions.md`, offset 0x8. -/
def PW_RXB_SIZE (n : Nat) : Nat := windowPage n + 0x8
/-- `12_partitions.md`, offset 0xC. -/
def PW_RX_DROP (n : Nat) : Nat := windowPage n + 0xC
/-- `12_partitions.md`, offset 0x100. -/
def PW_RING_BASE_LO (n : Nat) (i : Nat) : Nat := windowPage n + 0x100 + 0x20 * i
/-- `12_partitions.md`, offset 0x104. -/
def PW_RING_BASE_HI (n : Nat) (i : Nat) : Nat := windowPage n + 0x104 + 0x20 * i
/-- `12_partitions.md`, offset 0x108. -/
def PW_RING_CFG (n : Nat) (i : Nat) : Nat := windowPage n + 0x108 + 0x20 * i
/-- `12_partitions.md`, offset 0x10C. -/
def PW_RING_PROD (n : Nat) (i : Nat) : Nat := windowPage n + 0x10C + 0x20 * i
/-- `12_partitions.md`, offset 0x110. -/
def PW_RING_CONS (n : Nat) (i : Nat) : Nat := windowPage n + 0x110 + 0x20 * i
/-- `13_hierarchy.md`, offset 0x100. -/
def SK_PCFG (n : Nat) : Nat := skovubPage n + 0x100
/-- `13_hierarchy.md`, offset 0x104. -/
def SK_PSTAT (n : Nat) : Nat := skovubPage n + 0x104
/-- `13_hierarchy.md`, offset 0x110. -/
def SK_PMERGE (n : Nat) : Nat := skovubPage n + 0x110
/-- `13_hierarchy.md`, offset 0x114. -/
def RM_WBASE (n : Nat) : Nat := skovubPage n + 0x114
/-- `13_hierarchy.md`, offset 0x108. -/
def SK_RTT_FCLK (n : Nat) : Nat := skovubPage n + 0x108
/-- `13_hierarchy.md`, offset 0x10C. -/
def SK_PEER_LAT (n : Nat) : Nat := skovubPage n + 0x10C
/-- `13_hierarchy.md`, offset 0x120. -/
def SK_FLITS_TX (n : Nat) : Nat := skovubPage n + 0x120
/-- `13_hierarchy.md`, offset 0x124. -/
def SK_FLITS_RX (n : Nat) : Nat := skovubPage n + 0x124
/-- `13_hierarchy.md`, offset 0x128. -/
def SK_RESENDS (n : Nat) : Nat := skovubPage n + 0x128
/-- `13_hierarchy.md`, offset 0x12C. -/
def SK_CRC_ERR (n : Nat) : Nat := skovubPage n + 0x12C
/-- `13_hierarchy.md`, offset 0x130. -/
def SK_FRAG_RX (n : Nat) : Nat := skovubPage n + 0x130
/-- `13_hierarchy.md`, offset 0x134. -/
def SK_FRAG_LATE (n : Nat) : Nat := skovubPage n + 0x134
/-- `13_hierarchy.md`, offset 0x138. -/
def SK_HB_MISS (n : Nat) : Nat := skovubPage n + 0x138
/-- `13_hierarchy.md`, offset 0x13C. -/
def SK_REG_TMO (n : Nat) : Nat := skovubPage n + 0x13C
/-- `13_hierarchy.md`, offset 0x180. -/
def SK_ROLE : Nat := 0xE0180
/-- `13_hierarchy.md`, offset 0x184. -/
def SK_UPLINK : Nat := 0xE0184
/-- `13_hierarchy.md`, offset 0x200. -/
def MG_CTL (i : Nat) : Nat := 0xE0200 + 0x10 * i
/-- `13_hierarchy.md`, offset 0x204. -/
def MG_TMASK (i : Nat) : Nat := 0xE0204 + 0x10 * i
/-- `13_hierarchy.md`, offset 0x208. -/
def MG_DEADLINE (i : Nat) : Nat := 0xE0208 + 0x10 * i
/-- `13_hierarchy.md`, offset 0x20C. -/
def MG_TBASE (i : Nat) : Nat := 0xE020C + 0x10 * i
/-- `13_hierarchy.md`, offset 0x300. -/
def MG_STAT (i : Nat) : Nat := 0xE0300 + 0x4 * i
/-- `14_signet.md`, offset 0x100. -/
def SIG_STAT : Nat := 0x4100
/-- `14_signet.md`, offset 0x104. -/
def SIG_SESSION : Nat := 0x4104
/-- `14_signet.md`, offset 0x108. -/
def SIG_SEL : Nat := 0x4108
/-- `14_signet.md`, offset 0x118. -/
def SIG_JOURNAL_HEAD : Nat := 0x4118
/-- `14_signet.md`, offset 0x11C. -/
def SIG_SEAL_CMD : Nat := 0x411C
/-- `14_signet.md`, offset 0x120. -/
def SIG_CFG : Nat := 0x4120
/-- `14_signet.md`, offset 0x124. -/
def SIG_BREAKS : Nat := 0x4124
/-- `14_signet.md`, offset 0x10C. -/
def SIG_TALLY_D0 : Nat := 0x410C
/-- `14_signet.md`, offset 0x110. -/
def SIG_TALLY_D1 : Nat := 0x4110
/-- `14_signet.md`, offset 0x114. -/
def SIG_TALLY_D2 : Nat := 0x4114
/-- `14_signet.md`, offset 0x128. -/
def SIG_JOURNAL_TAIL : Nat := 0x4128
/-- `14_signet.md`, offset 0x12C. -/
def SIG_CHAIN_LO : Nat := 0x412C
/-- `14_signet.md`, offset 0x130. -/
def SIG_CHAIN_HI : Nat := 0x4130
/-- `15_blotter_faults.md`, offset 0x100. -/
def BL_CTL : Nat := 0x3100
/-- `15_blotter_faults.md`, offset 0x104. -/
def BL_SUMMARY : Nat := 0x3104
/-- `15_blotter_faults.md`, offset 0x134. -/
def BL_RECOVERY_STAT : Nat := 0x3134
/-- `15_blotter_faults.md`, offset 0x138. -/
def BL_INJECT_CTL : Nat := 0x3138
/-- `15_blotter_faults.md`, offset 0x108. -/
def BL_FIRST_PAGE : Nat := 0x3108
/-- `15_blotter_faults.md`, offset 0x10C. -/
def BL_FIRST_PHASE_LO : Nat := 0x310C
/-- `15_blotter_faults.md`, offset 0x110. -/
def BL_FIRST_PHASE_HI : Nat := 0x3110
/-- `15_blotter_faults.md`, offset 0x114. -/
def BL_FIRST_SRC : Nat := 0x3114
/-- `15_blotter_faults.md`, offset 0x118. -/
def BL_COUNT (i : Nat) : Nat := 0x3118 + 0x4 * i
/-- `15_blotter_faults.md`, offset 0x128. -/
def BL_LOG_HEAD : Nat := 0x3128
/-- `15_blotter_faults.md`, offset 0x12C. -/
def BL_LOG_TAIL : Nat := 0x312C
/-- `15_blotter_faults.md`, offset 0x130. -/
def BL_LOG_BASE : Nat := 0x3130
/-- `15_blotter_faults.md`, offset 0x13C. -/
def BL_WDT : Nat := 0x313C
/-- `15_blotter_faults.md`, offset 0x140. -/
def BL_WDT_LEFT : Nat := 0x3140
/-- `15_blotter_faults.md`, offset 0x128. -/
def ALIVE_CTL : Nat := 0x1128
/-- `16_modes_power_startup.md`, offset 0x100. -/
def MODE_CUR : Nat := 0x1100
/-- `16_modes_power_startup.md`, offset 0x104. -/
def MODE_REQ : Nat := 0x1104
/-- `16_modes_power_startup.md`, offset 0x108. -/
def MODE_HIST : Nat := 0x1108
/-- `16_modes_power_startup.md`, offset 0x10C. -/
def STRAPS : Nat := 0x110C
/-- `16_modes_power_startup.md`, offset 0x110. -/
def PD_CTL : Nat := 0x1110
/-- `16_modes_power_startup.md`, offset 0x114. -/
def PD_STAT : Nat := 0x1114
/-- `16_modes_power_startup.md`, offset 0x118. -/
def RST_CTL : Nat := 0x1118
/-- `16_modes_power_startup.md`, offset 0x11C. -/
def RST_CAUSE : Nat := 0x111C
/-- `16_modes_power_startup.md`, offset 0x120. -/
def SUPPLY_STAT : Nat := 0x1120
/-- `16_modes_power_startup.md`, offset 0x124. -/
def SUPPLY_WARN_CNT : Nat := 0x1124
/-- `16_modes_power_startup.md`, offset 0x12C. -/
def DEVICE_ID : Nat := 0x112C
/-- `16_modes_power_startup.md`, offset 0x130. -/
def UNIQUE_ID_LO : Nat := 0x1130
/-- `16_modes_power_startup.md`, offset 0x134. -/
def UNIQUE_ID_HI : Nat := 0x1134
/-- `16_modes_power_startup.md`, offset 0x138. -/
def TEMP_STAT : Nat := 0x1138
/-- `16_modes_power_startup.md`, offset 0x13C. -/
def TEMP_LIMIT : Nat := 0x113C
/-- `17_observability.md`, offset 0x100. -/
def QPC_SEL (n : Nat) (i : Nat) : Nat := quillPage n + 0x100 + 0x4 * i
/-- `17_observability.md`, offset 0x120. -/
def QPC_CNT_LO (n : Nat) (i : Nat) : Nat := quillPage n + 0x120 + 0x8 * i
/-- `17_observability.md`, offset 0x124. -/
def QPC_CNT_HI (n : Nat) (i : Nat) : Nat := quillPage n + 0x124 + 0x8 * i
/-- `17_observability.md`, offset 0x140. -/
def QPC_OVF (n : Nat) : Nat := quillPage n + 0x140
/-- `17_observability.md`, offset 0x100. -/
def PF_CTL : Nat := 0x9100
/-- `17_observability.md`, offset 0x104. -/
def PF_WIN : Nat := 0x9104
/-- `17_observability.md`, offset 0x108. -/
def PF_WSTAT : Nat := 0x9108
/-- `17_observability.md`, offset 0x110. -/
def PF_SAMPLE (i : Nat) : Nat := 0x9110 + 0x4 * i
/-- `17_observability.md`, offset 0x120. -/
def PF_SAMPLE_STW : Nat := 0x9120
/-- `17_observability.md`, offset 0x200. -/
def PF_BW_LO (i : Nat) : Nat := 0x9200 + 0x8 * i
/-- `17_observability.md`, offset 0x204. -/
def PF_BW_HI (i : Nat) : Nat := 0x9204 + 0x8 * i
/-- `18_host_boot_test.md`, offset 0x100. -/
def PCI_STAT : Nat := 0x5100
/-- `18_host_boot_test.md`, offset 0x104. -/
def MB_DROP : Nat := 0x5104
/-- `18_host_boot_test.md`, offset 0x110. -/
def MB_TO_HOST (i : Nat) : Nat := 0x5110 + 0x4 * i
/-- `18_host_boot_test.md`, offset 0x120. -/
def MB_TO_STW (i : Nat) : Nat := 0x5120 + 0x4 * i
/-- `18_host_boot_test.md`, offset 0x100. -/
def MN_CTL : Nat := 0x6100
/-- `18_host_boot_test.md`, offset 0x104. -/
def MN_STAT : Nat := 0x6104
/-- `18_host_boot_test.md`, offset 0x108. -/
def MN_RX_RING : Nat := 0x6108
/-- `18_host_boot_test.md`, offset 0x10C. -/
def MN_TX_RING : Nat := 0x610C
/-- `18_host_boot_test.md`, offset 0x110. -/
def MN_TOD_NS : Nat := 0x6110
/-- `18_host_boot_test.md`, offset 0x114. -/
def MN_TOD_SEC_LO : Nat := 0x6114
/-- `18_host_boot_test.md`, offset 0x118. -/
def MN_TOD_SEC_HI : Nat := 0x6118
/-- `18_host_boot_test.md`, offset 0x11C. -/
def MN_ADJ_RATE : Nat := 0x611C
/-- `18_host_boot_test.md`, offset 0x120. -/
def MN_ADJ_STEP : Nat := 0x6120
/-- `18_host_boot_test.md`, offset 0x100. -/
def BT_STAT : Nat := 0x7100
/-- `18_host_boot_test.md`, offset 0x104. -/
def BT_HOST_LOAD : Nat := 0x7104
/-- `18_host_boot_test.md`, offset 0x108. -/
def BT_SVN_BURN : Nat := 0x7108
/-- `18_host_boot_test.md`, offset 0x10C. -/
def BT_I2C : Nat := 0x710C
/-- `18_host_boot_test.md`, offset 0x100. -/
def TEST_CMD : Nat := 0x8100
/-- `18_host_boot_test.md`, offset 0x104. -/
def TEST_STAT : Nat := 0x8104
/-- `18_host_boot_test.md`, offset 0x108. -/
def TEST_SIG_LO : Nat := 0x8108
/-- `18_host_boot_test.md`, offset 0x10C. -/
def TEST_SIG_HI : Nat := 0x810C
/-- `18_host_boot_test.md`, offset 0x110. -/
def TEST_DOMAIN : Nat := 0x8110

/-! Storage behind a selector register: each selected item's registers have a home of their own, outside both BARs. -/

/-- RU_QCFG of egress queue q (R226; selected by RU_QSEL). -/
def queueCfg (q : Nat) : Nat := 0x20000000 + 4 * q
/-- RU_QLIM of egress queue q (R226). -/
def queueLim (q : Nat) : Nat := 0x20001000 + 4 * q
/-- RU_GWIN of window w of gate list g (R230). -/
def gateWin (g w : Nat) : Nat := 0x20002000 + 4 * (64 * g + w)
/-- IW_QMID_S of MID m (R245). -/
def midQuotaS (m : Nat) : Nat := 0x20003000 + 4 * m
/-- IW_QMID_D of MID m (R245). -/
def midQuotaD (m : Nat) : Nat := 0x20004000 + 4 * m
/-- Saved training word w of channel c (R254). -/
def trainWord (c w : Nat) : Nat := 0x20005000 + 4 * (256 * c + w)

end Reg

/-- One row of a register table: `count` registers `stride` bytes apart from offset `off`, their reset value, and the
bits that a plain write changes (`rw`), that a 1 clears (`w1c`), and that a plain write changes while unlocked (`rwl`). -/
structure RegRow where
  off : Nat
  count : Nat
  stride : Nat
  reset : Nat
  rw : Nat
  w1c : Nat
  rwl : Nat
  deriving DecidableEq, Repr

/-- Header rows: the fields that every page shares (R384). PG_CTL.enable and PG_ERR_MODE.capture reset to 1. -/
def headerRows : List RegRow :=
  [⟨0x00, 1, 4, 0x1, 0, 0, 0⟩, ⟨0x04, 1, 4, 0x10000, 0, 0, 0⟩, ⟨0x08, 1, 4, 0, 0, 0, 0⟩, ⟨0x0C, 1, 4, 0x1, 0, 0, 0⟩,
   ⟨0x10, 1, 4, 0, 0, 0, 0⟩, ⟨0x14, 1, 4, 0, 0, 0xFFFFFFFF, 0⟩, ⟨0x18, 1, 4, 0, 0xFFFFFFFF, 0, 0⟩, ⟨0x1C, 1, 4, 0, 0, 0, 0⟩,
   ⟨0x20, 1, 4, 0, 0, 0xFFFFFFFF, 0⟩, ⟨0x24, 1, 4, 0x1, 0x1, 0, 0⟩, ⟨0x28, 1, 4, 0, 0, 0, 0⟩, ⟨0x2C, 1, 4, 0, 0, 0, 0⟩,
   ⟨0x30, 1, 4, 0, 0, 0, 0⟩, ⟨0x34, 1, 4, 0, 0, 0, 0⟩, ⟨0x38, 1, 4, 0, 0, 0, 0⟩, ⟨0x3C, 1, 4, 0, 0x800300FF, 0, 0⟩]

/-- Block registers of a phase page (`01_machine_phase.md`). -/
def phaseRows : List RegRow :=
  [⟨0x100, 1, 0x4, 0xC, 0x1F, 0x0, 0x0⟩ /- PH_CTL -/,
   ⟨0x104, 1, 0x4, 0x1000, 0x1FFFF, 0x0, 0x0⟩ /- ORBIT_LEN -/,
   ⟨0x108, 1, 0x4, 0x100, 0x7FFF, 0x0, 0x0⟩ /- DECISION_LAT -/,
   ⟨0x10C, 1, 0x4, 0x4, 0xFF, 0x0, 0x0⟩ /- GUARD -/,
   ⟨0x118, 1, 0x4, 0x0, 0x0, 0x0, 0x0⟩ /- MCLK_FREQ -/,
   ⟨0x11C, 1, 0x4, 0x0, 0x0, 0x0, 0x0⟩ /- PH_STAT -/,
   ⟨0x120, 1, 0x4, 0x0, 0x0, 0x0, 0x0⟩ /- CMD_LAST -/,
   ⟨0x124, 1, 0x4, 0x0, 0x0, 0x0, 0x0⟩ /- CMD_CNT -/,
   ⟨0x128, 1, 0x4, 0x0, 0x0, 0x0, 0x0⟩ /- ORB_ERR_CNT -/,
   ⟨0x12C, 1, 0x4, 0x0, 0xFFFF, 0x0, 0x0⟩ /- CAL_WIN -/,
   ⟨0x180, 1, 0x4, 0x0, 0x0, 0x0, 0x0⟩ /- PTP_CAPTURE -/,
   ⟨0x198, 1, 0x4, 0x10, 0x7F, 0x0, 0x0⟩ /- SUBST_CTL -/,
   ⟨0x19C, 1, 0x4, 0x0, 0x0, 0x0, 0x0⟩ /- CMD_INJECT -/,
   ⟨0x1A0, 1, 0x4, 0x0, 0x0, 0x0, 0x0⟩ /- CMD_ERR_CNT -/,
   ⟨0x1A4, 1, 0x4, 0x0, 0x0, 0x0, 0x0⟩ /- XING_FCLK -/,
   ⟨0x1A8, 1, 0x4, 0x0, 0x0, 0xFFFF, 0x0⟩ /- ALARM_STAT -/,
   ⟨0x130, 1, 0x4, 0x0, 0xFFFFF, 0x0, 0x0⟩ /- ACC_OUT_CTL -/,
   ⟨0x134, 1, 0x4, 0x0, 0x3FF3F, 0x0, 0x0⟩ /- ACC_OUT_DELAY -/,
   ⟨0x138, 1, 0x4, 0x8000FFFF, 0x8000FFFF, 0x0, 0x0⟩ /- THROTTLE_CTL -/,
   ⟨0x13C, 1, 0x4, 0x0, 0x8000FFFF, 0x0, 0x0⟩ /- DEFAULT_DECISION -/,
   ⟨0x110, 1, 0x4, 0x0, 0x0, 0x0, 0x0⟩ /- PH_NOW_LO -/,
   ⟨0x114, 1, 0x4, 0x0, 0x0, 0x0, 0x0⟩ /- PH_NOW_HI -/,
   ⟨0x140, 16, 0x4, 0x0, 0xFC00FFFF, 0x0, 0x0⟩ /- PH_ALARM -/,
   ⟨0x184, 1, 0x4, 0x0, 0x0, 0x0, 0x0⟩ /- PTP_CAP_ORBIT_LO -/,
   ⟨0x188, 1, 0x4, 0x0, 0x0, 0x0, 0x0⟩ /- PTP_CAP_ORBIT_HI -/,
   ⟨0x18C, 1, 0x4, 0x0, 0x0, 0x0, 0x0⟩ /- PTP_CAP_SEC_LO -/,
   ⟨0x190, 1, 0x4, 0x0, 0x0, 0x0, 0x0⟩ /- PTP_CAP_SEC_HI -/,
   ⟨0x194, 1, 0x4, 0x0, 0x0, 0x0, 0x0⟩ /- PTP_CAP_NS -/]

/-- Block registers of a lane page (`03_lanes_links.md`). -/
def laneRows : List RegRow :=
  [⟨0x100, 1, 0x4, 0x9008, 0xFCFFFF, 0x0, 0x0⟩ /- LANE_CTL -/,
   ⟨0x104, 1, 0x4, 0x0, 0x0, 0x0, 0x0⟩ /- LANE_STAT -/,
   ⟨0x108, 1, 0x4, 0x0, 0xFFFFFFFF, 0x0, 0x0⟩ /- LANE_ETH_DA_LO -/,
   ⟨0x10C, 1, 0x4, 0x0, 0xFFFF, 0x0, 0x0⟩ /- LANE_ETH_DA_HI -/,
   ⟨0x110, 1, 0x4, 0x0, 0xFFFFFFFF, 0x0, 0x0⟩ /- LANE_ETH_SA_LO -/,
   ⟨0x114, 1, 0x4, 0x0, 0xFFFF, 0x0, 0x0⟩ /- LANE_ETH_SA_HI -/,
   ⟨0x118, 1, 0x4, 0x0, 0xFFFF, 0x0, 0x0⟩ /- LANE_VLAN -/,
   ⟨0x120, 1, 0x4, 0x0, 0x0, 0x0, 0x0⟩ /- RX_FRAMES -/,
   ⟨0x124, 1, 0x4, 0x0, 0x0, 0x0, 0x0⟩ /- TX_FRAMES -/,
   ⟨0x128, 1, 0x4, 0x0, 0x0, 0x0, 0x0⟩ /- DROP_NO_PHASE -/,
   ⟨0x12C, 1, 0x4, 0x0, 0x0, 0x0, 0x0⟩ /- DROP_STALE -/,
   ⟨0x130, 1, 0x4, 0x0, 0x0, 0x0, 0x0⟩ /- DROP_FUTURE -/,
   ⟨0x134, 1, 0x4, 0x0, 0x0, 0x0, 0x0⟩ /- DROP_LINK_CHECK -/,
   ⟨0x138, 1, 0x4, 0x0, 0x0, 0x0, 0x0⟩ /- DROP_SCROLL_FULL -/,
   ⟨0x13C, 1, 0x4, 0x0, 0x0, 0x0, 0x0⟩ /- DROP_DISPATCH_FULL -/,
   ⟨0x140, 1, 0x4, 0x0, 0x0, 0x0, 0x0⟩ /- DROP_OVERSIZE -/,
   ⟨0x144, 1, 0x4, 0x0, 0x0, 0x0, 0x0⟩ /- RUNT -/,
   ⟨0x148, 1, 0x4, 0x0, 0x0, 0x0, 0x0⟩ /- PARSE_FAIL -/,
   ⟨0x14C, 1, 0x4, 0x0, 0x0, 0x0, 0x0⟩ /- LATE_FRAMES -/,
   ⟨0x150, 1, 0x4, 0x0, 0x0, 0x0, 0x0⟩ /- STOMPED -/,
   ⟨0x154, 1, 0x4, 0x0, 0x0, 0x0, 0x0⟩ /- OTHER_ETYPE -/,
   ⟨0x158, 1, 0x4, 0x0, 0x0, 0x0, 0x0⟩ /- FEC_CORR -/,
   ⟨0x15C, 1, 0x4, 0x0, 0x0, 0x0, 0x0⟩ /- FEC_UNCORR -/,
   ⟨0x160, 1, 0x4, 0x0, 0x0, 0x0, 0x0⟩ /- DOWN_EVENTS -/,
   ⟨0x170, 1, 0x4, 0x10804, 0x33F3F, 0x0, 0x0⟩ /- LANE_TXEQ -/]

/-- Block registers of a sgroup page (`03_lanes_links.md`). -/
def sgroupRows : List RegRow :=
  [⟨0x100, 1, 0x4, 0x3, 0x3, 0x0, 0x0⟩ /- SG_CTL -/,
   ⟨0x104, 1, 0x4, 0x0, 0x0, 0x0, 0x0⟩ /- SG_STAT -/,
   ⟨0x108, 1, 0x4, 0x0, 0x0, 0x0, 0x0⟩ /- SG_LANE_UP -/]

/-- Block registers of a stylus page (`04_stylus_copybook.md`). -/
def stylusRows : List RegRow :=
  [⟨0x104, 1, 0x4, 0x0, 0xFFFF, 0x0, 0x0⟩ /- ST_EXC_DEST -/,
   ⟨0x108, 1, 0x4, 0x3E8, 0xFFFF, 0x0, 0x0⟩ /- ST_RL_INTERVAL -/,
   ⟨0x10C, 1, 0x4, 0x1000, 0xFFFF, 0x0, 0x0⟩ /- ST_RL_BURST -/,
   ⟨0x110, 1, 0x4, 0x1000, 0x0, 0x0, 0x0⟩ /- ST_RL_TOKENS -/,
   ⟨0x114, 1, 0x4, 0x0, 0x0, 0x0, 0x0⟩ /- ST_RL_DROP_MISS -/,
   ⟨0x118, 1, 0x4, 0x0, 0x0, 0x0, 0x0⟩ /- ST_RL_DROP_PARSE -/,
   ⟨0x11C, 1, 0x4, 0x0, 0x0, 0x0, 0x0⟩ /- ST_RL_DROP_COPY -/,
   ⟨0x120, 1, 0x4, 0x0, 0x0, 0x0, 0x0⟩ /- ST_CLASS_DENIED -/,
   ⟨0x124, 1, 0x4, 0x0, 0x0, 0x0, 0x0⟩ /- ST_DROP_ACTION -/,
   ⟨0x128, 1, 0x4, 0x0, 0x0, 0x0, 0x0⟩ /- ST_CH3_DROP -/,
   ⟨0x140, 16, 0x4, 0x0, 0x8FFFFF7F, 0x0, 0x0⟩ /- ST_CLASS -/]

/-- Block registers of a copybook page (`04_stylus_copybook.md`). -/
def copybookRows : List RegRow :=
  [⟨0x100, 1, 0x4, 0x0, 0x1, 0x0, 0x0⟩ /- CB_CTL -/,
   ⟨0x104, 1, 0x4, 0x0, 0x0, 0x0, 0x0⟩ /- CB_SEED_A0 -/,
   ⟨0x108, 1, 0x4, 0x9E3779B9, 0x0, 0x0, 0x0⟩ /- CB_SEED_A1 -/,
   ⟨0x10C, 1, 0x4, 0x0, 0xFFFFFFFF, 0x0, 0x0⟩ /- CB_SEED_B0 -/,
   ⟨0x110, 1, 0x4, 0x0, 0xFFFFFFFF, 0x0, 0x0⟩ /- CB_SEED_B1 -/,
   ⟨0x114, 1, 0x4, 0x0, 0x0, 0x0, 0x0⟩ /- CB_USED -/,
   ⟨0x118, 1, 0x4, 0x0, 0x0, 0x0, 0x0⟩ /- CB_MIGRATE_LEFT -/,
   ⟨0x11C, 1, 0x4, 0x0, 0x0, 0x0, 0x0⟩ /- CB_EVENT -/,
   ⟨0x120, 1, 0x4, 0x0, 0x0, 0x0, 0x0⟩ /- CB_EVENT_LOST -/,
   ⟨0x124, 1, 0x4, 0x0, 0x0, 0x0, 0x0⟩ /- CB_LEARN_DROP -/,
   ⟨0x128, 1, 0x4, 0x40, 0xFFFF, 0x0, 0x0⟩ /- CB_AGE_PACE -/,
   ⟨0x12C, 1, 0x4, 0x0, 0x0, 0x0, 0x0⟩ /- CB_ROT -/,
   ⟨0x140, 16, 0x4, 0x0, 0x3FFFFF, 0x0, 0x0⟩ /- CB_PLIM -/,
   ⟨0x200, 16, 0x40, 0x0, 0x0, 0x0, 0x0⟩ /- CBC_CMD -/,
   ⟨0x204, 16, 0x40, 0x0, 0x0, 0x40000000, 0x0⟩ /- CBC_RESULT -/,
   ⟨0x208, 16, 0x40, 0x0, 0x0, 0x0, 0x0⟩ /- CBC_USE -/,
   ⟨0x210, 16, 0x40, 0x0, 0xFFFFFFFF, 0x0, 0x0⟩ /- CBC_DATA0 -/,
   ⟨0x214, 16, 0x40, 0x0, 0xFFFFFFFF, 0x0, 0x0⟩ /- CBC_DATA1 -/,
   ⟨0x218, 16, 0x40, 0x0, 0xFFFFFFFF, 0x0, 0x0⟩ /- CBC_DATA2 -/,
   ⟨0x21C, 16, 0x40, 0x0, 0xFFFFFFFF, 0x0, 0x0⟩ /- CBC_DATA3 -/,
   ⟨0x220, 16, 0x40, 0x0, 0xFFFFFFFF, 0x0, 0x0⟩ /- CBC_DATA4 -/,
   ⟨0x224, 16, 0x40, 0x0, 0xFFFFFFFF, 0x0, 0x0⟩ /- CBC_DATA5 -/,
   ⟨0x228, 16, 0x40, 0x0, 0xFFFFFFFF, 0x0, 0x0⟩ /- CBC_DATA6 -/,
   ⟨0x22C, 16, 0x40, 0x0, 0xFFFFFFFF, 0x0, 0x0⟩ /- CBC_DATA7 -/,
   ⟨0x230, 16, 0x40, 0x0, 0x8FFFFF03, 0x0, 0x0⟩ /- CBC_LEARN -/,
   ⟨0x234, 16, 0x40, 0x0, 0xC0FFFFFF, 0x0, 0x0⟩ /- CBC_AGE -/]

/-- Block registers of a nib page (`06_nibs_threads.md`). -/
def nibRows : List RegRow :=
  [⟨0x100, 1, 0x4, 0x0, 0x0, 0x0, 0x100⟩ /- NIB_CTL -/,
   ⟨0x104, 1, 0x4, 0x0, 0x0, 0x0, 0x0⟩ /- NIB_STAT -/,
   ⟨0x108, 1, 0x4, 0x0, 0xF, 0x0, 0x0⟩ /- NIB_PID -/,
   ⟨0x10C, 1, 0x4, 0x0, 0x0, 0x0, 0xFFFF0F0F⟩ /- NIB_SHARE -/,
   ⟨0x110, 1, 0x4, 0x80010000, 0x80FFFFFF, 0x0, 0x0⟩ /- DL_CTL -/,
   ⟨0x148, 1, 0x4, 0x7FFF, 0x7FFF, 0x0, 0x0⟩ /- HLP_EN -/,
   ⟨0x114, 1, 0x4, 0x0, 0x0, 0x0, 0x0⟩ /- DL_COUNT -/,
   ⟨0x118, 1, 0x4, 0x0, 0x0, 0x0, 0x0⟩ /- MSG_DISCARD -/,
   ⟨0x11C, 1, 0x4, 0x0, 0x0, 0x0, 0x0⟩ /- NOTICE_HELD -/,
   ⟨0x120, 8, 0x4, 0x0, 0x80000FFF, 0x0, 0x0⟩ /- DWIN -/,
   ⟨0x140, 1, 0x4, 0x0, 0xFFFFFFFF, 0x0, 0x0⟩ /- WATCH_ADDR -/,
   ⟨0x144, 1, 0x4, 0x0, 0xFF001F07, 0x0, 0x0⟩ /- WATCH_CTL -/,
   ⟨0x180, 8, 0x20, 0x0, 0x0, 0x0, 0x0⟩ /- THR_CTL -/,
   ⟨0x184, 8, 0x20, 0x0, 0x0, 0x0, 0x0⟩ /- THR_STAT -/,
   ⟨0x190, 8, 0x20, 0x0, 0x0, 0x0, 0x0⟩ /- THR_USE -/,
   ⟨0x188, 8, 0x20, 0x0, 0xFFFF, 0x0, 0x0⟩ /- THR_ENTRY -/,
   ⟨0x18C, 8, 0x20, 0x0, 0x0, 0x0, 0x0⟩ /- THR_PC -/,
   ⟨0x280, 1, 0x4, 0x0, 0x1FFF, 0x0, 0x0⟩ /- DBG_SEL -/,
   ⟨0x284, 1, 0x4, 0x0, 0xFFFFFFFF, 0x0, 0x0⟩ /- DBG_DATA -/,
   ⟨0x300, 1, 0x4, 0x0, 0x1, 0x0, 0x0⟩ /- PC_CTL -/,
   ⟨0x304, 1, 0x4, 0x0, 0x0, 0xFF, 0x0⟩ /- PC_OVF -/,
   ⟨0x308, 1, 0x4, 0x0, 0x0, 0x0, 0x0⟩ /- PC_SAMPLE_PC -/,
   ⟨0x30C, 1, 0x4, 0x0, 0x0, 0xC0000000, 0x0⟩ /- PC_SAMPLE_INFO -/,
   ⟨0x320, 8, 0x4, 0xFF00, 0xF800FFFF, 0x0, 0x0⟩ /- PC_SEL -/,
   ⟨0x340, 8, 0x8, 0x0, 0xFFFFFFFF, 0x0, 0x0⟩ /- PC_CNT_LO -/,
   ⟨0x344, 8, 0x8, 0x0, 0xFFFF, 0x0, 0x0⟩ /- PC_CNT_HI -/]

/-- Block registers of a locks page (`06_nibs_threads.md`). -/
def locksRows : List RegRow :=
  [⟨0x100, 2, 0x4, 0x0, 0xFFFFFFFF, 0x0, 0x0⟩ /- LK_PIDMAP -/,
   ⟨0x108, 1, 0x4, 0x0, 0x0, 0x0, 0x0⟩ /- LK_BROKEN_CNT -/,
   ⟨0x10C, 1, 0x4, 0x0, 0x0, 0x0, 0x0⟩ /- LK_BADREL_CNT -/,
   ⟨0x110, 1, 0x4, 0x0, 0x0, 0x0, 0x0⟩ /- LK_DENIED_CNT -/,
   ⟨0x400, 256, 0x4, 0x0, 0x0, 0x80000000, 0x0⟩ /- LK_STATE -/]

/-- Block registers of a helper page (`07_helpers.md`). -/
def helperRows : List RegRow :=
  [⟨0x100, 8, 0x4, 0x0, 0x0, 0x0, 0x0⟩ /- HP_CTX_STAT -/,
   ⟨0x120, 1, 0x4, 0x0, 0x0, 0x0, 0x0⟩ /- HP_OPS -/,
   ⟨0x124, 1, 0x4, 0x0, 0x0, 0x0, 0x0⟩ /- HP_REFUSED -/,
   ⟨0x128, 1, 0x4, 0x0, 0x0, 0x0, 0x0⟩ /- HP_STALE -/,
   ⟨0x12C, 1, 0x4, 0x0, 0x0, 0x0, 0x0⟩ /- HP_BUSY -/]

/-- Block registers of a ductus page (`08_ductus.md`). -/
def ductusRows : List RegRow :=
  [⟨0x100, 1, 0x4, 0x1000001, 0x3FF0001, 0x0, 0x0⟩ /- DX_CTL -/,
   ⟨0x104, 8, 0x4, 0x0, 0xFFFFFFFF, 0x0, 0x0⟩ /- DX_TPL_EN -/,
   ⟨0x124, 1, 0x4, 0x0, 0x0, 0x80000000, 0x0⟩ /- DX_TPL_ERR -/,
   ⟨0x128, 1, 0x4, 0x0, 0x0, 0x0, 0x0⟩ /- DX_INST_USED -/,
   ⟨0x12C, 1, 0x4, 0x0, 0x0, 0x0, 0x0⟩ /- DX_INST_DROP -/,
   ⟨0x130, 1, 0x4, 0x0, 0x0, 0x0, 0x0⟩ /- DX_TOKEN_USED -/,
   ⟨0x134, 1, 0x4, 0x0, 0x0, 0x0, 0x0⟩ /- DX_TOKEN_FULL -/,
   ⟨0x138, 1, 0x4, 0x1000, 0xFFFF, 0x0, 0x0⟩ /- DX_LOAD_WIN -/,
   ⟨0x140, 1, 0x4, 0x0, 0x7F, 0x0, 0x0⟩ /- DX_OBS_SEL -/,
   ⟨0x144, 1, 0x4, 0x0, 0x0, 0x0, 0x0⟩ /- DX_OBS_DEPTH -/,
   ⟨0x148, 1, 0x4, 0x0, 0x0, 0x0, 0x0⟩ /- DX_OBS_OPS -/,
   ⟨0x14C, 1, 0x4, 0x0, 0x0, 0x0, 0x0⟩ /- DX_OBS_BUSY -/,
   ⟨0x180, 16, 0x4, 0x0, 0x0, 0x0, 0x0⟩ /- DX_OBS_HIST -/,
   ⟨0x200, 16, 0x20, 0x0, 0x3FFFFFF, 0x0, 0x0⟩ /- DX_SPILL_BASE -/,
   ⟨0x204, 16, 0x20, 0xC, 0x8000001F, 0x0, 0x0⟩ /- DX_SPILL_SIZE -/,
   ⟨0x208, 16, 0x20, 0x0, 0x0, 0x0, 0x0⟩ /- DX_SPILL_DEPTH -/,
   ⟨0x20C, 16, 0x20, 0x0, 0x0, 0x7FFFFF, 0x0⟩ /- DX_SPILL_MAX -/,
   ⟨0x210, 16, 0x20, 0x0, 0x1FFFF, 0x0, 0x0⟩ /- DX_PLIM -/,
   ⟨0x214, 16, 0x20, 0x0, 0x0, 0x0, 0x0⟩ /- DX_PCANCEL -/,
   ⟨0x218, 16, 0x20, 0x0, 0x0, 0x0, 0x0⟩ /- DX_PDROP -/]

/-- Block registers of a ligature page (`09_decisions_readout.md`). -/
def ligatureRows : List RegRow :=
  [⟨0x100, 1, 0x4, 0x4000, 0x0, 0x0, 0x0⟩ /- LG_FREE -/,
   ⟨0x104, 1, 0x4, 0x0, 0x0, 0x0, 0x0⟩ /- LG_HOLES -/,
   ⟨0x108, 1, 0x4, 0x0, 0x0, 0x0, 0x0⟩ /- LG_UNORDERED -/,
   ⟨0x10C, 1, 0x4, 0x0, 0x0, 0x0, 0x0⟩ /- LG_LATE_COMPL -/,
   ⟨0x110, 1, 0x4, 0x0, 0x0, 0x0, 0x0⟩ /- LG_DISCARD -/,
   ⟨0x140, 16, 0x8, 0x0, 0x80003FFF, 0x0, 0x0⟩ /- LG_CFG -/,
   ⟨0x144, 16, 0x8, 0x4000100, 0x3FFF3FFF, 0x0, 0x0⟩ /- LG_TMO -/,
   ⟨0x1C0, 16, 0x4, 0x0, 0x0, 0x0, 0x0⟩ /- LG_USED -/]

/-- Block registers of a copyist page (`09_decisions_readout.md`). -/
def copyistRows : List RegRow :=
  [⟨0x100, 1, 0x4, 0x0, 0x0, 0x0, 0x0⟩ /- CP_PEND -/,
   ⟨0x104, 1, 0x4, 0x0, 0x0, 0x0, 0x0⟩ /- CP_EVENTS -/,
   ⟨0x108, 1, 0x4, 0x0, 0x0, 0x0, 0x0⟩ /- CP_EXPIRED -/,
   ⟨0x10C, 1, 0x4, 0x0, 0x0, 0x0, 0x0⟩ /- CP_TRUNC -/,
   ⟨0x110, 1, 0x4, 0x0, 0x0, 0x0, 0x0⟩ /- CP_OVERFLOW -/,
   ⟨0x114, 1, 0x4, 0x0, 0x0, 0x0, 0x0⟩ /- CP_NOBUF -/,
   ⟨0x200, 16, 0x40, 0x0, 0xE00003FF, 0x0, 0x0⟩ /- CP_PCTL -/,
   ⟨0x204, 16, 0x40, 0x0, 0xFFFFFFFF, 0x0, 0x0⟩ /- CP_SEL0 -/,
   ⟨0x208, 16, 0x40, 0x0, 0xFFFFFFFF, 0x0, 0x0⟩ /- CP_SEL1 -/,
   ⟨0x20C, 16, 0x40, 0x0, 0xFFFFFFFF, 0x0, 0x0⟩ /- CP_SEL2 -/,
   ⟨0x210, 16, 0x40, 0x0, 0xFFFFFFFF, 0x0, 0x0⟩ /- CP_SEL3 -/,
   ⟨0x214, 16, 0x40, 0x0, 0xFFFFFFFF, 0x0, 0x0⟩ /- CP_SEL4 -/,
   ⟨0x218, 16, 0x40, 0x0, 0xFFFFFFFF, 0x0, 0x0⟩ /- CP_SEL5 -/,
   ⟨0x21C, 16, 0x40, 0x0, 0xFFFFFFFF, 0x0, 0x0⟩ /- CP_SEL6 -/,
   ⟨0x220, 16, 0x40, 0x0, 0xFFFFFFFF, 0x0, 0x0⟩ /- CP_SEL7 -/]

/-- Block registers of a ruling page (`09_decisions_readout.md`). -/
def rulingRows : List RegRow :=
  [⟨0x100, 1, 0x4, 0x40, 0x7FF, 0x0, 0x0⟩ /- RU_CTL -/,
   ⟨0x104, 1, 0x4, 0x0, 0x0, 0x0, 0x0⟩ /- RU_QDROP -/,
   ⟨0x108, 1, 0x4, 0x0, 0x0, 0x0, 0x0⟩ /- RU_DENIED -/,
   ⟨0x10C, 1, 0x4, 0x0, 0x0, 0x0, 0x0⟩ /- RU_EXPIRED -/,
   ⟨0x110, 1, 0x4, 0x0, 0x0, 0x0, 0x0⟩ /- RU_DEC_DROP -/,
   ⟨0x114, 1, 0x4, 0x0, 0xFF, 0x0, 0x0⟩ /- RU_QSEL -/,
   ⟨0x118, 1, 0x4, 0xA00, 0xBFFFDFFF, 0x0, 0x0⟩ /- RU_QCFG -/,
   ⟨0x11C, 1, 0x4, 0x400, 0x3FFF, 0x0, 0x0⟩ /- RU_QLIM -/,
   ⟨0x120, 1, 0x4, 0x0, 0x0, 0x0, 0x0⟩ /- RU_QDEPTH -/,
   ⟨0x124, 1, 0x4, 0x0, 0x3F07, 0x0, 0x0⟩ /- RU_GSEL -/,
   ⟨0x128, 1, 0x4, 0x0, 0xFFFFFFFF, 0x0, 0x0⟩ /- RU_GWIN -/,
   ⟨0x12C, 1, 0x4, 0x0, 0xFF, 0x0, 0x0⟩ /- RU_GEN -/,
   ⟨0x130, 1, 0x4, 0x0, 0xFFFFFFFF, 0x0, 0x0⟩ /- RU_GPID -/,
   ⟨0x134, 1, 0x4, 0x400000, 0x807FF0FF, 0x0, 0x0⟩ /- RU_DEC_STREAM -/,
   ⟨0x200, 32, 0x10, 0x32000, 0xFFFFFF, 0x0, 0x0⟩ /- RU_SH_RATE -/,
   ⟨0x204, 32, 0x10, 0x4000, 0xFFFFFF, 0x0, 0x0⟩ /- RU_SH_BURST -/,
   ⟨0x208, 32, 0x10, 0x14, 0x3F, 0x0, 0x0⟩ /- RU_SH_OVH -/,
   ⟨0x20C, 32, 0x10, 0x4000, 0x0, 0x0, 0x0⟩ /- RU_SH_TOK -/]

/-- Block registers of a scroll page (`10_scroll_inkwell.md`). -/
def scrollRows : List RegRow :=
  [⟨0x100, 1, 0x4, 0x400, 0x7FFF, 0x0, 0x0⟩ /- SC_COPY_HOLD -/,
   ⟨0x104, 1, 0x4, 0x0, 0x0, 0x0, 0x0⟩ /- SC_FIT -/,
   ⟨0x108, 1, 0x4, 0x0, 0x0, 0x0, 0x0⟩ /- SC_RATE -/,
   ⟨0x10C, 1, 0x4, 0x0, 0x0, 0x0, 0x0⟩ /- SC_ALLOC -/,
   ⟨0x110, 1, 0x4, 0x8000, 0x0, 0x0, 0x0⟩ /- SC_FREE -/,
   ⟨0x114, 1, 0x4, 0x0, 0x7FFF, 0x0, 0x0⟩ /- SC_CIT_SEL -/,
   ⟨0x118, 1, 0x4, 0x0, 0x0, 0x0, 0x0⟩ /- SC_CIT_DATA0 -/,
   ⟨0x11C, 1, 0x4, 0x0, 0x0, 0x0, 0x0⟩ /- SC_CIT_DATA1 -/,
   ⟨0x120, 1, 0x4, 0x0, 0x7FFF, 0x0, 0x0⟩ /- SC_EXT_SEL -/,
   ⟨0x124, 1, 0x4, 0x0, 0x0, 0x0, 0x0⟩ /- SC_EXT_DATA -/,
   ⟨0x128, 1, 0x4, 0x0, 0x0, 0x0, 0x0⟩ /- SC_DROP_FULL -/,
   ⟨0x12C, 1, 0x4, 0x0, 0x0, 0x0, 0x0⟩ /- SC_DEAD_FULL -/,
   ⟨0x130, 1, 0x4, 0x0, 0x0, 0x0, 0x0⟩ /- SC_CORR -/]

/-- Block registers of a inkwell page (`10_scroll_inkwell.md`). -/
def inkwellRows : List RegRow :=
  [⟨0x100, 1, 0x4, 0x1, 0x1, 0x0, 0x0⟩ /- IW_CTL -/,
   ⟨0x104, 1, 0x4, 0x4000, 0x0, 0x0, 0x0⟩ /- IW_SFREE -/,
   ⟨0x108, 1, 0x4, 0x0, 0x0, 0x0, 0x0⟩ /- IW_DFREE -/,
   ⟨0x10C, 1, 0x4, 0x0, 0x801FFFFF, 0x0, 0x0⟩ /- IW_DCFG -/,
   ⟨0x110, 1, 0x4, 0x0, 0xFFFFFF, 0x0, 0x0⟩ /- IW_DBUF_BASE -/,
   ⟨0x114, 1, 0x4, 0x0, 0x3FFFFFF, 0x0, 0x0⟩ /- IW_DRING_BASE -/,
   ⟨0x118, 1, 0x4, 0x0, 0x3FFFFFF, 0x0, 0x0⟩ /- IW_DSTATE_BASE -/,
   ⟨0x11C, 1, 0x4, 0xC040, 0xFFFF, 0x0, 0x0⟩ /- IW_DCACHE -/,
   ⟨0x120, 1, 0x4, 0x0, 0xFF, 0x0, 0x0⟩ /- IW_QSEL -/,
   ⟨0x124, 1, 0x4, 0x4000, 0x7FFF, 0x0, 0x0⟩ /- IW_QMID_S -/,
   ⟨0x128, 1, 0x4, 0x100000, 0x1FFFFF, 0x0, 0x0⟩ /- IW_QMID_D -/,
   ⟨0x12C, 1, 0x4, 0x0, 0x0, 0x0, 0x0⟩ /- IW_QUSE_S -/,
   ⟨0x130, 1, 0x4, 0x0, 0x0, 0x0, 0x0⟩ /- IW_QUSE_D -/,
   ⟨0x134, 1, 0x4, 0x0, 0x0, 0x0, 0x0⟩ /- IW_EMPTY -/,
   ⟨0x138, 1, 0x4, 0x0, 0x0, 0x0, 0x0⟩ /- IW_OVERQ -/,
   ⟨0x13C, 1, 0x4, 0x0, 0x0, 0x0, 0x0⟩ /- IW_NOTOWNER -/,
   ⟨0x140, 1, 0x4, 0x0, 0x0, 0x0, 0x0⟩ /- IW_LOST -/,
   ⟨0x200, 16, 0x10, 0x0, 0x7FFF, 0x0, 0x0⟩ /- IW_QPART_S -/,
   ⟨0x204, 16, 0x10, 0x0, 0x1FFFFF, 0x0, 0x0⟩ /- IW_QPART_D -/,
   ⟨0x208, 16, 0x10, 0x0, 0x0, 0x0, 0x0⟩ /- IW_PUSE_S -/,
   ⟨0x20C, 16, 0x10, 0x0, 0x0, 0x0, 0x0⟩ /- IW_PUSE_D -/,
   ⟨0x300, 16, 0x10, 0x0, 0x0, 0x0, 0x0⟩ /- IW_HCMD -/,
   ⟨0x304, 16, 0x10, 0x0, 0xFFFFFFFF, 0x0, 0x0⟩ /- IW_HARG -/,
   ⟨0x308, 16, 0x10, 0x0, 0xFFFF00, 0x0, 0x0⟩ /- IW_HRESULT -/]

/-- Block registers of a ddr page (`11_dram.md`). -/
def ddrRows : List RegRow :=
  [⟨0x100, 1, 0x4, 0x2, 0x131F, 0x0, 0x0⟩ /- DDR_GEOM -/,
   ⟨0x104, 1, 0x4, 0x0, 0x9, 0x0, 0x0⟩ /- DDR_CTL -/,
   ⟨0x108, 1, 0x4, 0x0, 0x0, 0x0, 0x0⟩ /- DDR_STAT -/,
   ⟨0x10C, 1, 0x4, 0x4000100, 0xFFFFFFFF, 0x0, 0x0⟩ /- DDR_SCHED -/,
   ⟨0x110, 1, 0x4, 0x80001000, 0x80FFFFFF, 0x0, 0x0⟩ /- DDR_SCRUB -/,
   ⟨0x114, 1, 0x4, 0x0, 0xFF, 0x0, 0x0⟩ /- DDR_TRN_SEL -/,
   ⟨0x118, 1, 0x4, 0x0, 0xFFFFFFFF, 0x0, 0x0⟩ /- DDR_TRN_DATA -/,
   ⟨0x120, 1, 0x4, 0x8000080F, 0x80000F0F, 0x0, 0x0⟩ /- DDR_IMODE -/,
   ⟨0x124, 1, 0x4, 0x0, 0x87FF03FF, 0x0, 0x0⟩ /- DDR_SPARE -/,
   ⟨0x130, 1, 0x4, 0x0, 0x0, 0x0, 0x0⟩ /- DDR_CORR -/,
   ⟨0x134, 1, 0x4, 0x0, 0x0, 0x0, 0x0⟩ /- DDR_UNCORR -/,
   ⟨0x138, 1, 0x4, 0x0, 0x0, 0x0, 0x0⟩ /- DDR_CAPAR -/,
   ⟨0x13C, 1, 0x4, 0x0, 0x0, 0x0, 0x0⟩ /- DDR_SCRUB_PASS -/,
   ⟨0x200, 16, 0x10, 0x0, 0x8F000FFF, 0x0, 0x0⟩ /- DR_BASE -/,
   ⟨0x204, 16, 0x10, 0x0, 0x7FF, 0x0, 0x0⟩ /- DR_SIZE -/,
   ⟨0x208, 16, 0x10, 0x0, 0x330003FF, 0x0, 0x0⟩ /- DR_MAP -/]

/-- Block registers of a part page (`12_partitions.md`). -/
def partRows : List RegRow :=
  [⟨0x100, 1, 0x4, 0x0, 0x0, 0x0, 0x0⟩ /- PART_CMD -/,
   ⟨0x104, 1, 0x4, 0x0, 0x0, 0x0, 0x0⟩ /- PART_STAT -/,
   ⟨0x108, 1, 0x4, 0x0, 0x0, 0x0, 0x0⟩ /- PART_ERR -/,
   ⟨0x10C, 1, 0x4, 0x0, 0x0, 0x0, 0x0⟩ /- PART_EPOCH -/,
   ⟨0x110, 1, 0x4, 0x0, 0x0, 0x0, 0x0⟩ /- PART_INFLIGHT -/,
   ⟨0x114, 1, 0x4, 0x0, 0xFFFFFFFF, 0x0, 0x0⟩ /- PART_SHAPERS -/,
   ⟨0x118, 1, 0x4, 0x0, 0x800FFFFF, 0x0, 0x0⟩ /- PART_PASID -/,
   ⟨0x11C, 1, 0x4, 0x0, 0x0, 0x0, 0x0⟩ /- PART_SWIRQ -/,
   ⟨0x120, 1, 0x4, 0x0, 0xFFFFFFC0, 0x0, 0x0⟩ /- PART_IMG_ADDR_LO -/,
   ⟨0x124, 1, 0x4, 0x0, 0xFFFFFFFF, 0x0, 0x0⟩ /- PART_IMG_ADDR_HI -/,
   ⟨0x128, 1, 0x4, 0x0, 0xFFFFFFFF, 0x0, 0x0⟩ /- PART_IMG_LEN -/,
   ⟨0x12C, 1, 0x4, 0x0, 0x0, 0x0, 0x0⟩ /- PART_IMG_NEED -/]

/-- Block registers of a window page (`12_partitions.md`). -/
def windowRows : List RegRow :=
  [⟨0x0, 1, 0x4, 0x0, 0x3, 0x0, 0x0⟩ /- PW_CTL -/,
   ⟨0x4, 1, 0x4, 0x0, 0x0, 0x80000000, 0x0⟩ /- PW_STAT -/,
   ⟨0x8, 1, 0x4, 0x2400, 0xFFFF, 0x0, 0x0⟩ /- PW_RXB_SIZE -/,
   ⟨0xC, 1, 0x4, 0x0, 0x0, 0x0, 0x0⟩ /- PW_RX_DROP -/,
   ⟨0x100, 3, 0x20, 0x0, 0xFFFFFFC0, 0x0, 0x0⟩ /- PW_RING_BASE_LO -/,
   ⟨0x104, 3, 0x20, 0x0, 0xFFFFFFFF, 0x0, 0x0⟩ /- PW_RING_BASE_HI -/,
   ⟨0x108, 3, 0x20, 0x6, 0x8000001F, 0x0, 0x0⟩ /- PW_RING_CFG -/,
   ⟨0x10C, 3, 0x20, 0x0, 0xFFFF, 0x0, 0x0⟩ /- PW_RING_PROD -/,
   ⟨0x110, 3, 0x20, 0x0, 0xFFFF, 0x0, 0x0⟩ /- PW_RING_CONS -/]

/-- Block registers of a skovub page (`13_hierarchy.md`). -/
def skovubRows : List RegRow :=
  [⟨0x100, 1, 0x4, 0x0, 0xC07F7F00, 0x0, 0x0⟩ /- SK_PCFG -/,
   ⟨0x104, 1, 0x4, 0x0, 0x0, 0x0, 0x0⟩ /- SK_PSTAT -/,
   ⟨0x110, 1, 0x4, 0x0, 0x0, 0x0, 0x800FFFFF⟩ /- SK_PMERGE -/,
   ⟨0x114, 1, 0x4, 0x0, 0x800000FF, 0x0, 0x0⟩ /- RM_WBASE -/,
   ⟨0x108, 1, 0x4, 0x0, 0x0, 0x0, 0x0⟩ /- SK_RTT_FCLK -/,
   ⟨0x10C, 1, 0x4, 0x0, 0x0, 0x0, 0x0⟩ /- SK_PEER_LAT -/,
   ⟨0x120, 1, 0x4, 0x0, 0x0, 0x0, 0x0⟩ /- SK_FLITS_TX -/,
   ⟨0x124, 1, 0x4, 0x0, 0x0, 0x0, 0x0⟩ /- SK_FLITS_RX -/,
   ⟨0x128, 1, 0x4, 0x0, 0x0, 0x0, 0x0⟩ /- SK_RESENDS -/,
   ⟨0x12C, 1, 0x4, 0x0, 0x0, 0x0, 0x0⟩ /- SK_CRC_ERR -/,
   ⟨0x130, 1, 0x4, 0x0, 0x0, 0x0, 0x0⟩ /- SK_FRAG_RX -/,
   ⟨0x134, 1, 0x4, 0x0, 0x0, 0x0, 0x0⟩ /- SK_FRAG_LATE -/,
   ⟨0x138, 1, 0x4, 0x0, 0x0, 0x0, 0x0⟩ /- SK_HB_MISS -/,
   ⟨0x13C, 1, 0x4, 0x0, 0x0, 0x0, 0x0⟩ /- SK_REG_TMO -/,
   ⟨0x180, 1, 0x4, 0x0, 0x0, 0x0, 0x0⟩ /- SK_ROLE -/,
   ⟨0x184, 1, 0x4, 0x0, 0x0, 0x0, 0xC01F1F0F⟩ /- SK_UPLINK -/,
   ⟨0x200, 16, 0x10, 0x0, 0xE03FFF00, 0x0, 0x0⟩ /- MG_CTL -/,
   ⟨0x204, 16, 0x10, 0xFFFF, 0xFFFF, 0x0, 0x0⟩ /- MG_TMASK -/,
   ⟨0x208, 16, 0x10, 0x0, 0x7FFF, 0x0, 0x0⟩ /- MG_DEADLINE -/,
   ⟨0x20C, 16, 0x10, 0x0, 0xFFFFFF80, 0x0, 0x0⟩ /- MG_TBASE -/,
   ⟨0x300, 16, 0x4, 0x0, 0x0, 0x0, 0x0⟩ /- MG_STAT -/]

/-- Block registers of a signet page (`14_signet.md`). -/
def signetRows : List RegRow :=
  [⟨0x100, 1, 0x4, 0x0, 0x0, 0x0, 0x0⟩ /- SIG_STAT -/,
   ⟨0x104, 1, 0x4, 0x0, 0x0, 0x0, 0x0⟩ /- SIG_SESSION -/,
   ⟨0x108, 1, 0x4, 0x0, 0xF11F, 0x0, 0x0⟩ /- SIG_SEL -/,
   ⟨0x118, 1, 0x4, 0x0, 0x0, 0x0, 0x0⟩ /- SIG_JOURNAL_HEAD -/,
   ⟨0x11C, 1, 0x4, 0x0, 0x0, 0x0, 0x0⟩ /- SIG_SEAL_CMD -/,
   ⟨0x120, 1, 0x4, 0x5A, 0xF0007F, 0x0, 0x0⟩ /- SIG_CFG -/,
   ⟨0x124, 1, 0x4, 0x0, 0x0, 0x0, 0x0⟩ /- SIG_BREAKS -/,
   ⟨0x10C, 1, 0x4, 0x0, 0x0, 0x0, 0x0⟩ /- SIG_TALLY_D0 -/,
   ⟨0x110, 1, 0x4, 0x0, 0x0, 0x0, 0x0⟩ /- SIG_TALLY_D1 -/,
   ⟨0x114, 1, 0x4, 0x0, 0x0, 0x0, 0x0⟩ /- SIG_TALLY_D2 -/,
   ⟨0x128, 1, 0x4, 0x0, 0x0, 0x0, 0x0⟩ /- SIG_JOURNAL_TAIL -/,
   ⟨0x12C, 1, 0x4, 0x0, 0x0, 0x0, 0x0⟩ /- SIG_CHAIN_LO -/,
   ⟨0x130, 1, 0x4, 0x0, 0x0, 0x0, 0x0⟩ /- SIG_CHAIN_HI -/]

/-- Block registers of a blotter page (`15_blotter_faults.md`). -/
def blotterRows : List RegRow :=
  [⟨0x100, 1, 0x4, 0x0, 0x1, 0x0, 0x0⟩ /- BL_CTL -/,
   ⟨0x104, 1, 0x4, 0x0, 0x0, 0x5000FFFF, 0x0⟩ /- BL_SUMMARY -/,
   ⟨0x134, 1, 0x4, 0x0, 0x0, 0x0, 0x0⟩ /- BL_RECOVERY_STAT -/,
   ⟨0x138, 1, 0x4, 0x0, 0x1, 0x0, 0x0⟩ /- BL_INJECT_CTL -/,
   ⟨0x108, 1, 0x4, 0x0, 0x0, 0x80000000, 0x0⟩ /- BL_FIRST_PAGE -/,
   ⟨0x10C, 1, 0x4, 0x0, 0x0, 0x0, 0x0⟩ /- BL_FIRST_PHASE_LO -/,
   ⟨0x110, 1, 0x4, 0x0, 0x0, 0x0, 0x0⟩ /- BL_FIRST_PHASE_HI -/,
   ⟨0x114, 1, 0x4, 0x0, 0x0, 0x0, 0x0⟩ /- BL_FIRST_SRC -/,
   ⟨0x118, 4, 0x4, 0x0, 0x0, 0x0, 0x0⟩ /- BL_COUNT -/,
   ⟨0x128, 1, 0x4, 0x0, 0x0, 0x0, 0x0⟩ /- BL_LOG_HEAD -/,
   ⟨0x12C, 1, 0x4, 0x0, 0xFFFFFFFF, 0x0, 0x0⟩ /- BL_LOG_TAIL -/,
   ⟨0x130, 1, 0x4, 0xFFF8000, 0x0, 0x0, 0x0⟩ /- BL_LOG_BASE -/,
   ⟨0x13C, 1, 0x4, 0xF4240, 0x80FFFFFF, 0x0, 0x0⟩ /- BL_WDT -/,
   ⟨0x140, 1, 0x4, 0x0, 0x0, 0x0, 0x0⟩ /- BL_WDT_LEFT -/]

/-- Block registers of a mgt page (`15_blotter_faults.md`). -/
def mgtRows : List RegRow :=
  [⟨0x128, 1, 0x4, 0x64, 0x3FF, 0x0, 0x0⟩ /- ALIVE_CTL -/,
   ⟨0x100, 1, 0x4, 0x0, 0x0, 0x0, 0x0⟩ /- MODE_CUR -/,
   ⟨0x104, 1, 0x4, 0x0, 0x0, 0x0, 0x0⟩ /- MODE_REQ -/,
   ⟨0x108, 1, 0x4, 0x0, 0x0, 0x0, 0x0⟩ /- MODE_HIST -/,
   ⟨0x10C, 1, 0x4, 0x0, 0x0, 0x0, 0x0⟩ /- STRAPS -/,
   ⟨0x110, 1, 0x4, 0x3, 0xFFFFF8, 0x0, 0x0⟩ /- PD_CTL -/,
   ⟨0x114, 1, 0x4, 0x3, 0x0, 0x0, 0x0⟩ /- PD_STAT -/,
   ⟨0x118, 1, 0x4, 0x0, 0x0, 0x0, 0x0⟩ /- RST_CTL -/,
   ⟨0x11C, 1, 0x4, 0x1, 0x0, 0x1F, 0x0⟩ /- RST_CAUSE -/,
   ⟨0x120, 1, 0x4, 0x0, 0x0, 0x3, 0x0⟩ /- SUPPLY_STAT -/,
   ⟨0x124, 1, 0x4, 0x0, 0x0, 0x0, 0x0⟩ /- SUPPLY_WARN_CNT -/,
   ⟨0x12C, 1, 0x4, 0x64400A01, 0x0, 0x0, 0x0⟩ /- DEVICE_ID -/,
   ⟨0x130, 1, 0x4, 0x0, 0x0, 0x0, 0x0⟩ /- UNIQUE_ID_LO -/,
   ⟨0x134, 1, 0x4, 0x0, 0x0, 0x0, 0x0⟩ /- UNIQUE_ID_HI -/,
   ⟨0x138, 1, 0x4, 0x0, 0x0, 0x0, 0x0⟩ /- TEMP_STAT -/,
   ⟨0x13C, 1, 0x4, 0x6E5F, 0xFFFF, 0x0, 0x0⟩ /- TEMP_LIMIT -/]

/-- Block registers of a quill page (`17_observability.md`). -/
def quillRows : List RegRow :=
  [⟨0x100, 4, 0x4, 0x0, 0xC00000FF, 0x0, 0x0⟩ /- QPC_SEL -/,
   ⟨0x120, 4, 0x8, 0x0, 0xFFFFFFFF, 0x0, 0x0⟩ /- QPC_CNT_LO -/,
   ⟨0x124, 4, 0x8, 0x0, 0xFFFF, 0x0, 0x0⟩ /- QPC_CNT_HI -/,
   ⟨0x140, 1, 0x4, 0x0, 0x0, 0xF, 0x0⟩ /- QPC_OVF -/]

/-- Block registers of a perf page (`17_observability.md`). -/
def perfRows : List RegRow :=
  [⟨0x100, 1, 0x4, 0x0, 0x1, 0x0, 0x0⟩ /- PF_CTL -/,
   ⟨0x104, 1, 0x4, 0x3B9ACA00, 0xFFFFFFFF, 0x0, 0x0⟩ /- PF_WIN -/,
   ⟨0x108, 1, 0x4, 0x0, 0x0, 0x0, 0x0⟩ /- PF_WSTAT -/,
   ⟨0x110, 4, 0x4, 0x0, 0x0, 0xFFFFFFFF, 0x0⟩ /- PF_SAMPLE -/,
   ⟨0x120, 1, 0x4, 0x0, 0x0, 0x1, 0x0⟩ /- PF_SAMPLE_STW -/,
   ⟨0x200, 64, 0x8, 0x0, 0x0, 0x0, 0x0⟩ /- PF_BW_LO -/,
   ⟨0x204, 64, 0x8, 0x0, 0x0, 0x0, 0x0⟩ /- PF_BW_HI -/]

/-- Block registers of a pcie page (`18_host_boot_test.md`). -/
def pcieRows : List RegRow :=
  [⟨0x100, 1, 0x4, 0x0, 0x0, 0x0, 0x0⟩ /- PCI_STAT -/,
   ⟨0x104, 1, 0x4, 0x0, 0x0, 0x0, 0x0⟩ /- MB_DROP -/,
   ⟨0x110, 4, 0x4, 0x0, 0xFFFFFFFF, 0x0, 0x0⟩ /- MB_TO_HOST -/,
   ⟨0x120, 4, 0x4, 0x0, 0xFFFFFFFF, 0x0, 0x0⟩ /- MB_TO_STW -/]

/-- Block registers of a mgtnet page (`18_host_boot_test.md`). -/
def mgtnetRows : List RegRow :=
  [⟨0x100, 1, 0x4, 0x1, 0x80000003, 0x0, 0x0⟩ /- MN_CTL -/,
   ⟨0x104, 1, 0x4, 0x0, 0x0, 0x0, 0x0⟩ /- MN_STAT -/,
   ⟨0x108, 1, 0x4, 0x40000000, 0xF1FFFFFF, 0x0, 0x0⟩ /- MN_RX_RING -/,
   ⟨0x10C, 1, 0x4, 0x40000000, 0xF1FFFFFF, 0x0, 0x0⟩ /- MN_TX_RING -/,
   ⟨0x110, 1, 0x4, 0x0, 0x0, 0x0, 0x0⟩ /- MN_TOD_NS -/,
   ⟨0x114, 1, 0x4, 0x0, 0xFFFFFFFF, 0x0, 0x0⟩ /- MN_TOD_SEC_LO -/,
   ⟨0x118, 1, 0x4, 0x0, 0xFFFF, 0x0, 0x0⟩ /- MN_TOD_SEC_HI -/,
   ⟨0x11C, 1, 0x4, 0x0, 0xFFFFFFFF, 0x0, 0x0⟩ /- MN_ADJ_RATE -/,
   ⟨0x120, 1, 0x4, 0x0, 0x0, 0x0, 0x0⟩ /- MN_ADJ_STEP -/]

/-- Block registers of a boot page (`18_host_boot_test.md`). -/
def bootRows : List RegRow :=
  [⟨0x100, 1, 0x4, 0x0, 0x0, 0x0, 0x0⟩ /- BT_STAT -/,
   ⟨0x104, 1, 0x4, 0x0, 0x1FFFFFF, 0x0, 0x0⟩ /- BT_HOST_LOAD -/,
   ⟨0x108, 1, 0x4, 0x0, 0x0, 0x0, 0x0⟩ /- BT_SVN_BURN -/,
   ⟨0x10C, 1, 0x4, 0x4C, 0x7F, 0x0, 0x0⟩ /- BT_I2C -/]

/-- Block registers of a test page (`18_host_boot_test.md`). -/
def testRows : List RegRow :=
  [⟨0x100, 1, 0x4, 0x0, 0x0, 0x0, 0x0⟩ /- TEST_CMD -/,
   ⟨0x104, 1, 0x4, 0x0, 0x0, 0x0, 0x0⟩ /- TEST_STAT -/,
   ⟨0x108, 1, 0x4, 0x0, 0x0, 0x0, 0x0⟩ /- TEST_SIG_LO -/,
   ⟨0x10C, 1, 0x4, 0x0, 0x0, 0x0, 0x0⟩ /- TEST_SIG_HI -/,
   ⟨0x110, 1, 0x4, 0x10000000, 0xF8000000, 0x0, 0x0⟩ /- TEST_DOMAIN -/]

/-- The rows of a page kind's block registers; the ROOT page has none (R383). -/
def blockRows : PageKind → List RegRow
  | .root => []
  | .phase => phaseRows
  | .lane => laneRows
  | .sgroup => sgroupRows
  | .stylus => stylusRows
  | .copybook => copybookRows
  | .nib => nibRows
  | .locks => locksRows
  | .helper => helperRows
  | .ductus => ductusRows
  | .ligature => ligatureRows
  | .copyist => copyistRows
  | .ruling => rulingRows
  | .scroll => scrollRows
  | .inkwell => inkwellRows
  | .ddr => ddrRows
  | .part => partRows
  | .window => windowRows
  | .skovub => skovubRows
  | .signet => signetRows
  | .blotter => blotterRows
  | .mgt => mgtRows
  | .quill => quillRows
  | .perf => perfRows
  | .pcie => pcieRows
  | .mgtnet => mgtnetRows
  | .boot => bootRows
  | .test => testRows

/-- The kind and instance of the page at a BAR0 page number, or `none` where no page lies (R395, R396). -/
def pageAt (pg : Nat) : Option (PageKind × Nat) :=
  if pg = 0 then some (.root, 0) else if pg = 1 then some (.mgt, 0) else if pg = 2 then some (.phase, 0)
  else if pg = 3 then some (.blotter, 0) else if pg = 4 then some (.signet, 0) else if pg = 5 then some (.pcie, 0)
  else if pg = 6 then some (.mgtnet, 0) else if pg = 7 then some (.boot, 0) else if pg = 8 then some (.test, 0)
  else if pg = 9 then some (.perf, 0) else if pg = 10 then some (.nib, 128)
  else if 0x10 ≤ pg ∧ pg < 0x14 then some (.sgroup, pg - 0x10)
  else if 0x20 ≤ pg ∧ pg < 0xA0 then some (.lane, pg - 0x20)
  else if pg = 0xA0 then some (.stylus, 0) else if pg = 0xA1 then some (.copybook, 0)
  else if pg = 0xB0 then some (.ductus, 0) else if pg = 0xB1 then some (.ligature, 0)
  else if pg = 0xB2 then some (.ruling, 0) else if pg = 0xB3 then some (.inkwell, 0)
  else if pg = 0xB4 then some (.scroll, 0) else if pg = 0xB5 then some (.copyist, 0)
  else if 0xC0 ≤ pg ∧ pg < 0xC4 then some (.ddr, pg - 0xC0)
  else if 0xD0 ≤ pg ∧ pg < 0xE0 then some (.part, pg - 0xD0)
  else if 0xE0 ≤ pg ∧ pg < 0x100 then some (.skovub, pg - 0xE0)
  else if 0x100 ≤ pg ∧ pg < 0x200 then
    let q := (pg - 0x100) / 0x10
    let k := pg % 0x10
    if k = 0 then some (.quill, q) else if k ≤ 8 then some (.nib, 8 * q + (k - 1)) else if k = 9 then some (.locks, q)
    else if k ≤ 13 then some (.helper, 4 * q + (k - 10)) else none
  else if 0x10000 ≤ pg ∧ pg < 0x11000 ∧ pg % 0x100 = 0 then some (.window, (pg - 0x10000) / 0x100)
  else none

/-- The row that covers offset `o`, with the index of the register within it. -/
def findRow (o : Nat) : List RegRow → Option (RegRow × Nat)
  | [] => none
  | r :: rs =>
    if r.off ≤ o ∧ (o - r.off) % r.stride = 0 ∧ (o - r.off) / r.stride < r.count then some (r, (o - r.off) / r.stride)
    else findRow o rs

/-- The row of the register at address `a`, with its page kind, page instance and index; `none` where no chapter
defines a register (R383). Registers that only SKOVUB 0 or DDR 0 has are `none` on the other instances. -/
def regRow (a : Nat) : Option (RegRow × PageKind × Nat × Nat) :=
  match pageAt (a / 0x1000) with
  | none => none
  | some (k, n) =>
    let o := a % 0x1000
    if k ≠ .window ∧ o < 0x100 then (findRow o headerRows).map (fun r => (r.1, k, n, r.2))
    else if k = .skovub ∧ n ≠ 0 ∧ 0x180 ≤ o then none
    else if k = .ddr ∧ n ≠ 0 ∧ (o = 0x120 ∨ 0x200 ≤ o) then none
    else if k = .nib ∧ n = 128 ∧ 4 ≤ (o - 0x180) / 0x20 ∧ 0x200 ≤ o ∧ o < 0x280 then none
    else (findRow o (blockRows k)).map (fun r => (r.1, k, n, r.2))

/-- Reset values that depend on the partition: partition 0 owns the whole device (R266; the tables' `p0:` entries). -/
def partitionReset (a : Nat) : Option Nat :=
  if a = Reg.CB_PLIM 0 then some 0x200000
  else if a = Reg.DX_PLIM 0 then some 0x10000
  else if a = Reg.IW_QPART_S 0 then some 0x4000
  else if a = Reg.IW_QPART_D 0 then some 0x100000
  else if a = Reg.PART_STAT 0 then some 0x20000
  else if a = Reg.PART_SHAPERS 0 then some 0xFFFFFFFF
  else none

/-- Reset values of the storage behind selectors (RU_QSEL, RU_GSEL, IW_QSEL, DDR_TRN_SEL). -/
def selectedReset (a : Nat) : Nat :=
  if a < 0x20001000 then 0xA00 else if a < 0x20002000 then 0x400 else if a < 0x20003000 then 0
  else if a < 0x20004000 then 0x4000 else if a < 0x20005000 then 0x100000 else 0

/-- What the register at address `a` reads before anything has written it: the reset value of its table; 0 where no
chapter defines a register (R383). -/
def regReset (a : Nat) : Word :=
  if 0x20000000 ≤ a then BitVec.ofNat 32 (selectedReset a)
  else match partitionReset a with
    | some v => BitVec.ofNat 32 v
    | none => match regRow a with
      | some (r, _) => BitVec.ofNat 32 r.reset
      | none => 0

end Sys2Proof.Machine
end

