-- ==== Sys2Proof/Machine/Table.lean ====
section
/-! DEFINITION. Sparse tables: the one representation of every large indexed store of the device (registers, memories,
register files, lanes, slots). A table lists only the entries that differ from what an unlisted key reads as. -/

namespace Sys2Proof.Machine

/-- A sparse table: (key, value) pairs, keys strictly rising, no entry equal to the default of its key. -/
abbrev Tbl (α : Type) := List (Nat × α)

namespace Tbl

/-- The value at key `k`; `d` gives what an unlisted key reads as. -/
def get {α : Type} (d : Nat → α) : Tbl α → Nat → α
  | [], k => d k
  | (j, v) :: t, k => if j = k then v else get d t k

/-- The table without any entry for `k`. -/
def erase {α : Type} : Tbl α → Nat → Tbl α
  | [], _ => []
  | (j, v) :: t, k => if j = k then erase t k else (j, v) :: erase t k

/-- The table with `(k, v)` put before the first larger key. -/
def insert {α : Type} : Tbl α → Nat → α → Tbl α
  | [], k, v => [(k, v)]
  | (j, u) :: t, k, v => if k < j then (k, v) :: (j, u) :: t else (j, u) :: insert t k v

/-- The table whose value at `k` is `v`; writing the default removes the entry. -/
def set {α : Type} [DecidableEq α] (d : Nat → α) (t : Tbl α) (k : Nat) (v : α) : Tbl α :=
  if v = d k then erase t k else insert (erase t k) k v

/-- Every key of the table is above `b`, and the keys rise strictly. -/
def rising {α : Type} : Nat → Tbl α → Bool
  | _, [] => true
  | b, (k, _) :: t => decide (b ≤ k) && rising (k + 1) t

/-- No entry equals its key's default. -/
def lean {α : Type} [DecidableEq α] (d : Nat → α) : Tbl α → Bool
  | [] => true
  | (k, v) :: t => !decide (v = d k) && lean d t

/-- The canonical form. -/
def wf {α : Type} [DecidableEq α] (d : Nat → α) (t : Tbl α) : Bool := rising 0 t && lean d t

end Tbl

/-- Byte-addressed memory: one table over the whole address space of the model (Host.Cell pairs). -/
abbrev Memory := Tbl Byte

/-- What a byte of memory that nothing has written reads as: 0. DESIGN CHOICE (log entry 3). -/
def memDefault (_ : Nat) : Byte := 0

/-- The canonical form of a memory. -/
abbrev Memory.wf (m : Memory) : Bool := Tbl.wf memDefault m

end Sys2Proof.Machine
end

