-- ==== Sys2Proof/Machine/State.lean ====
section
/-! DEFINITION. The state of the device as plain data, and the state right after reset. Registers live in one table by
address (RegMap); everything the spec gives a block beside its registers lives in that block's structure here. -/

namespace Sys2Proof.Machine

/-- A frame descriptor: eight words (R43). -/
structure FD where
  w0 : Word := 0
  w1 : Word := 0
  w2 : Word := 0
  w3 : Word := 0
  w4 : Word := 0
  w5 : Word := 0
  w6 : Word := 0
  w7 : Word := 0
  deriving DecidableEq, Repr

/-- A phase stamp: orbit number (48 bits) and crossing index (16 bits) (R8). -/
structure PS where
  orbit : Nat := 0
  index : Nat := 0
  deriving DecidableEq, Repr

/-! ## Machine phase (R7–R35) -/

/-- A command accepted from MCMD or CMD_INJECT and waiting for its action crossing (R13, R33). -/
structure SchedCmd where
  due : Nat
  injected : Bool
  word : BitVec 16
  deriving DecidableEq, Repr

/-- A run of labels: crossing `b` was labelled `ps`, and later ones run on from there at orbit length `len` (R8, R9). -/
structure LabelRun where
  b : Nat
  ps : PS
  len : Nat
  deriving DecidableEq, Repr

/-- The phase block beside its page (R7–R35). -/
structure Phase where
  /-- Elapsed crossings, never relabelled (R9). -/
  count : Nat := 0
  /-- Label of the current crossing (R8). -/
  now : PS := {}
  /-- A crossing exists: the count has started (R17). -/
  started : Bool := false
  /-- The count is advancing (R17, R21, R24). -/
  counting : Bool := false
  /-- The runs of labels since the first alignment, newest first (R9). -/
  runs : List LabelRun := []
  /-- PH_CTL.arm was written: the next marker aligns (R17). -/
  alignNext : Bool := false
  /-- The count restarts by itself, after a loss of MCLK or after the substitute phase (R22, R24). -/
  restart : Bool := false
  /-- That restart follows the substitute phase: with morb_en 0 an MCLK edge makes it (R24). -/
  edgeRestart : Bool := false
  /-- realign_now pending (R20). -/
  realignPending : Bool := false
  /-- A marker was seen in the running orbit (R18). -/
  markerSeen : Bool := false
  /-- The orbit that just ended passed with no marker (R18). -/
  missingDue : Bool := false
  /-- Count at which the MCMD lock was lost, until it is reported as lost for a whole orbit (R34). -/
  lockLostAt : Option Nat := none
  /-- Alarms armed for the current crossing that have not fired (R28). -/
  alarmsDue : List Nat := []
  /-- Count of the first of the consecutive misplaced markers (R19). -/
  misplacedFrom : Option Nat := none
  /-- First label counted since the last alignment (R40, STALE). -/
  firstLabel : PS := {}
  /-- Commands waiting for their action crossing, in order of arrival (R13). -/
  sched : List SchedCmd := []
  /-- ORBIT_RESET waiting for the first boundary after this count (R14, R33). -/
  orbitResetAt : Option (Nat × Nat) := none
  /-- RUN_STARTs (true) and RUN_STOPs (false) in order of arrival, each with the orbit boundaries still to pass until it
  acts (R14, R33). -/
  admissions : List (Nat × Bool) := []
  /-- A start (true) or stop (false) is due in this crossing-0 crossing (R14, R33). -/
  admissionDue : Option Bool := none
  /-- ORBIT_RESET value due now (R14). -/
  orbitResetDue : Option Nat := none
  /-- The orbit length in force; a written ORBIT_LEN waits for the next boundary, and that boundary has come (R27). -/
  len : Nat := 0x1000
  orbitLenStaged : Bool := false
  orbitLenDue : Bool := false
  /-- Calibration windows scheduled (opening count), the end of the open one, and test-pulse crossings (R14). -/
  calOpens : List Nat := []
  calEnd : Option Nat := none
  testPulses : List Nat := []
  /-- Admission was running when MCLK was lost (R22). -/
  wasRunning : Bool := false
  /-- The crossings of the running orbit are quality-suspect until the next boundary (R22). -/
  qsOrbit : Bool := false
  /-- The 1588 clock: seconds and nanoseconds (R31, R374). -/
  todSec : Nat := 0
  todNs : Nat := 0
  /-- The latest per-orbit capture (R31): label, seconds, nanoseconds. -/
  capture : Option (PS × Nat × Nat) := none
  deriving DecidableEq, Repr

/-! ## Nib threads (R103–R166) -/

/-- Thread states (R145). -/
inductive ThrState where
  | idle | running | blocked | parked | halted
  deriving DecidableEq, Repr

/-- A prefix word that waits for its instruction (R130). -/
inductive Prefix where
  | none
  | ext (hi : BitVec 18)
  | rpt (descending : Bool)
  deriving DecidableEq, Repr

/-- A posted store: memory key and bytes (R143). -/
structure PostedStore where
  key : Nat
  data : List Byte
  /-- Where a DRAM byte of the store is kept under the mapping in force at issue (R259, R264). -/
  home : Option Nat := none
  deriving DecidableEq, Repr

/-- A load from the shared range or DRAM whose data has not returned (R143): its D-space address, memory key, size,
extension and destination, the data as read in arrival order (R258), and whether the word is uncorrectable. -/
structure PendingLoad where
  addr : Nat
  key : Nat
  size : Nat
  signed : Bool
  d : Nat
  value : Nat
  bad : Bool
  deriving DecidableEq, Repr

/-- A thread timer (R151): off, running to a count, or expired with the SPS of its expiry. -/
inductive Timer where
  | off
  | run (due : Nat)
  | expired (sps : Word)
  deriving DecidableEq, Repr

/-- A claimed message: its channel, length and unread words (R155). -/
structure Claim where
  ch : Nat
  total : Nat
  words : List Word
  deriving DecidableEq, Repr

/-- A hardware thread (R103, R105, R145–R159, R201). -/
structure Thread where
  w : Tbl Word := []
  st : Word := 0
  cnt : Word := 0
  ph : Word := 0
  pl : Word := 0
  qu : Word := 0
  rm : Word := 0
  epc : Word := 0
  cause : Word := 0
  tinfo : Word := 0
  pageSel : Word := 0
  pc : BitVec 16 := 0
  state : ThrState := .idle
  /-- State to return to on resume (R145, R164). -/
  before : ThrState := .idle
  /-- THR_CTL.step: halt again after one instruction or iteration (R164). -/
  stepping : Bool := false
  /-- The port of a blocked IN and its destination register (R123, THR_STAT.port). -/
  waitPort : Option (Nat × Nat) := none
  pfx : Prefix := .none
  /-- The port of the IN or OUT under a repeat, once an iteration has taken it (R133). -/
  rptPort : Option Nat := none
  /-- Pending product writes (PH:PL) and quotient writes (QU, RM), oldest first (R126, R127). -/
  products : List (BitVec 64) := []
  quotients : List (Word × Word) := []
  /-- Posted stores, oldest first, at most 4 (R143). -/
  stbuf : List PostedStore := []
  load : Option PendingLoad := none
  claim : Option Claim := none
  /-- Staged message: TX_DEST word and the words so far (R157). -/
  staging : Option (Word × List Word) := none
  txStat : Byte := 0x02
  fdStage : List Word := []
  fdStat : Byte := 0x02
  lkRes : Byte := 0x02
  tmr0 : Timer := .off
  tmr1 : Timer := .off
  /-- Phase-port target SPS (R30). -/
  target : Option Word := none
  /-- FDs dealt to this thread and not yet read, oldest first (R154). -/
  ch0 : List FD := []
  /-- The held Ductus operation and the next word of its record (R202, R203). -/
  dxHeld : Option Nat := none
  dxPos : Nat := 0
  dxTgt : Option Word := none
  dxTsps : Word := 0
  dxData : List Word := []
  dxStat : Byte := 0x02
  /-- IW_ARG, the status of the last FREE, SHARE or RELEASE, and the state word of the last QUERY (R249). -/
  iwArg : Word := 0
  iwStat : Byte := 0x02
  iwQuery : Option Word := none
  deriving DecidableEq, Repr

/-- One channel FIFO of a Nib: waiting messages, messages claimed and not yet read out, and blocked readers in the
order in which they blocked (R154–R156). -/
structure Chan where
  msgs : List (List Word) := []
  claimed : Nat := 0
  readers : List Nat := []
  deriving DecidableEq, Repr

/-- A committed message in a send queue (R157, R158). -/
structure Send where
  src : Nat
  dest : Nat
  ch : Nat
  words : List Word
  deriving DecidableEq, Repr

/-- A Nib beside its page (R142–R166, R332, R333). -/
structure Nib where
  tvec : Word := 0
  fenced : Bool := false
  /-- Supervisor notices held for CH31, oldest first (R162). -/
  notices : List (List Word) := []
  /-- Ductus notices held for CH1 (R195). -/
  dxNotices : List (List Word) := []
  /-- Threads blocked on DX_PULL, in order (R199). -/
  pullers : List Nat := []
  /-- Consecutive hang samples with a running thread, and whether the Nib retired since the last (R332). -/
  hangRuns : Nat := 0
  retired : Bool := false
  /-- A hang or a pipeline check error has been found and the fence is due (R332, R333). -/
  fenceDue : Bool := false
  deriving DecidableEq, Repr

/-- A lock (R159, R160). -/
structure Lock where
  owner : Option Nat := none
  broken : Bool := false
  queue : List Nat := []
  deriving DecidableEq, Repr

/-! ## Helpers (R170–R187) -/

/-- A queued or running helper operation (R173). -/
structure HelperOp where
  fn : Nat
  param : Word
  tag : Nat
  notify : Bool
  tid : Nat
  /-- The partition that the HOP was accepted for, and its epoch (R185). -/
  pid : Nat
  epoch : Nat
  h : Tbl (BitVec 64)
  /-- Memory keys of the bytes that it may read, and of the words that it may write, as the HOP checked them (R179). -/
  rds : List Nat
  wrs : List Nat
  deriving DecidableEq, Repr

/-- What a helper operation will write when it completes (R173, R180). -/
structure HelperResult where
  status : Byte
  r : Word
  /-- Result registers: number, bits written, value. -/
  h : List (Nat × BitVec 64 × BitVec 64)
  /-- Words for the first of the keys of `HelperOp.wrs`. -/
  mem : List Word
  bins : Option (Tbl Word)
  deriving DecidableEq, Repr

/-- A helper context set of one Nib (R170). -/
structure Ctx where
  h : Tbl (BitVec 64) := []
  queue : List HelperOp := []
  running : Option (HelperOp × HelperResult) := none
  tags : Nat := 0
  /-- Tag, function and status of the last completion (HP_CTX_STAT). -/
  last : Nat × Nat × Byte := (0, 0, 0)
  /-- A completion message held for CH2 (R180). -/
  held : Option (List Word) := none
  /-- HIST bins (R177). -/
  bins : Tbl Word := []
  /-- H registers, queue and status clear when the running operation ends (R185). -/
  clearAfter : Bool := false
  deriving DecidableEq, Repr

/-! ## Frame path (R36–R83, R211–R214, R226–R240) -/

/-- Why a frame is not stored (R40). -/
inductive DropCause where
  | noPhase | stale | future | scrollFull | dispatchFull
  deriving DecidableEq, Repr

/-- The Stylus result of a frame (R76, R78, R353). -/
structure StylusResult where
  miss : Bool
  action : Nat
  cls : Nat
  eq : Nat
  mq : Nat
  copyFwd : Bool
  entry : Nat
  deriving DecidableEq, Repr

/-- How a frame ended: its link check with every other check of its end, the failing step of R74 with step 5, the stored
length, and the carry check (R40, R48, R74). -/
structure RxEnd where
  ok : Bool
  parse : Nat
  len : Nat
  carry : Word
  deriving DecidableEq, Repr

/-- A frame whose first 64 bytes have been held on a lane (R38–R41). -/
structure RxFrame where
  head : List Byte
  /-- The first failing step of R74, 0 when steps 1 to 4 pass. -/
  parse : Nat
  /-- Why it is not stored, judged when the first 64 bytes were held. -/
  cause : Option DropCause
  /-- Count of the crossing under which the frame is stored, and its label. -/
  b : Nat
  ps : PS
  /-- First Scroll line and number of lines taken (R236). -/
  line : Nat
  lines : Nat
  /-- Place in the order in which first 64 bytes were held (R77, R222). -/
  order : Nat
  result : Option StylusResult
  fin : Option RxEnd
  deriving DecidableEq, Repr

/-- A frame being sent on a lane (R50). -/
structure TxFrame where
  fd : FD
  queue : Nat
  b : Option Nat
  stomp : Bool
  deriving DecidableEq, Repr

/-- A lane beside its page (R54–R72). -/
structure Lane where
  /-- The lane buffer of a frame that is not held for the frame path: fewer than 64 bytes of it, or a frame of another
  EtherType (R38, R66). -/
  held : List Byte := []
  rx : Option RxFrame := none
  /-- Frames that ended before a Stylus pipe took them, oldest first (R77). -/
  ended : List RxFrame := []
  tx : Option TxFrame := none
  /-- Crossings of the lane's partition are marked QS: the lane left UP while enabled (R70). -/
  qsDown : Bool := false
  /-- Per priority, the queue after the one served last, for the round robin of equal priorities (R227). -/
  rr : Tbl Nat := []
  deriving DecidableEq, Repr

/-- A Ligature slot in use (R211–R213). -/
structure Slot where
  cls : Nat
  pid : Nat
  fd : FD
  b : Nat
  takenAt : Nat
  order : Nat
  unordered : Bool
  /-- The FD with its verdict once complete (R212). -/
  done : Option FD
  hole : Bool
  reserved : Bool
  /-- The thread to which the FD was dealt; none for class 15 and MIRROR slots. -/
  tid : Option Nat
  deriving DecidableEq, Repr

/-- A frame stored in the Scroll, as the Copyist sees it (R222). -/
structure Stored where
  lane : Nat
  pid : Nat
  chan : Nat
  line : Nat
  len : Nat
  parseFail : Bool
  good : Bool
  order : Nat
  /-- A word of it was read as uncorrectable (R49). -/
  chkerr : Bool := false
  deriving DecidableEq, Repr

/-- A crossing of the Crossing Index Table (R240), with the marks of R14, R19, R70 and R237. -/
structure Xing where
  b : Nat := 0
  ps : PS := {}
  first : Nat := 0
  last : Nat := 0
  extents : List Nat := []
  frames : List Stored := []
  openLines : Nat := 0
  cal : Bool := false
  tp : Bool := false
  /-- Partitions for which the crossing is quality-suspect, and those dead by SCROLL_FULL. -/
  qs : BitVec 16 := 0
  dead : BitVec 16 := 0
  /-- Partitions of which the first INGRESS FD of the crossing has been built (R192, FIRST_FRAME). -/
  fdSeen : BitVec 16 := 0
  copyHold : Bool := false
  txHolds : Nat := 0
  freed : Bool := false
  deriving DecidableEq, Repr

/-- An extent of the Scroll (R236, R240). -/
structure Extent where
  owner : Option Nat := none
  lines : Nat := 0
  next : Nat := 0
  tail : Bool := false
  deriving DecidableEq, Repr

/-- The tag of a Scroll line (R239). -/
structure LineTag where
  pid : Nat := 0
  good : Bool := false
  deriving DecidableEq, Repr

/-- The decision slot of a partition and crossing, held until its record is released (R204, R216, R217). -/
structure Decision where
  p : Nat
  b : Nat
  ps : PS
  bits : BitVec 16 := 0
  qs : Bool := false
  late : Bool := false
  closed : Bool := false
  complete : Bool := false
  /-- Instances of b with a final node, and how many of them have decided (R204). -/
  finals : Nat := 0
  decided : Nat := 0
  /-- Set when the deadline tick lies in a fault interval (R329). -/
  fault : Bool := false
  /-- Missing workers at the merge, once it has closed the crossing (R292). -/
  missing : Nat := 0
  merged : Bool := false
  deriving DecidableEq, Repr

/-- An accept waiting for the Copyist (R221). -/
structure Accept where
  p : Nat
  b : Nat
  ps : PS
  bits : BitVec 16
  qs : Bool
  defaulted : Bool
  seq : Word
  /-- The hold of R238 has been taken: the accept reached the queue head before retention ended. -/
  held : Bool := false
  epoch : Nat := 0
  deriving DecidableEq, Repr

/-- The copy in progress: the segment FDs that COPY_DONE will queue (R224, R225). -/
structure Copy where
  acc : Accept
  fds : List FD
  deriving DecidableEq, Repr

/-- A level change on ACC_OUT due at a crossing (R219). -/
structure AccOut where
  b : Nat
  bits : BitVec 8
  deriving DecidableEq, Repr

/-! ## Copybook (R84–R101) -/

/-- A Copybook entry: four 64-bit words (R84). -/
structure Entry where
  w0 : BitVec 64 := 0
  w1 : BitVec 64 := 0
  w2 : BitVec 64 := 0
  w3 : BitVec 64 := 0
  deriving DecidableEq, Repr

/-- A command written to CBC_CMD of a slot, not yet served: the word, whether the write counts as the partition
authority's (R93), and the slot's epoch when it was written. -/
structure CbWaiting where
  slot : Nat
  cmd : Word
  authority : Bool
  epoch : Nat
  /-- The master that wrote it (R3). -/
  mid : Nat := 0x90
  deriving DecidableEq, Repr

/-- The Copybook beside its page. -/
structure Copybook where
  entries : Tbl Entry := []
  /-- Keys of queued learn requests, oldest first, with the partition and its epoch (R95). -/
  learn : List (Nat × Word) := []
  events : List Word := []
  /-- Slots whose parity failure has been reported since they were last written (R97). -/
  reported : List Nat := []
  /-- Bucket that the aging scanner visits next (R96). -/
  scan : Nat := 0
  /-- Requester served last: 0–15 slots, 16 the learn queue (R93). -/
  served : Nat := 16
  waiting : List CbWaiting := []
  deriving DecidableEq, Repr

/-! ## Ductus (R188–R210) -/

/-- Where an operation is (R198–R203, R206). -/
inductive OpPlace where
  | list (nib : Nat)
  | ring (p : Nat)
  | held (tid : Nat)
  deriving DecidableEq, Repr

/-- A ready or delivered operation (R198). -/
structure Op where
  handle : Nat
  inst : Nat
  node : Nat
  /-- Its instance's partition (R207). -/
  pid : Nat
  place : OpPlace
  readyAt : Nat
  aborted : Bool
  epoch : Nat
  deriving DecidableEq, Repr

/-- A node of an instance (R193, R197). -/
inductive NodeState where
  | waiting | ready | done | cancelled
  deriving DecidableEq, Repr

/-- A token held for an input slot: payload words t0 to t7 (R196). -/
structure Token where
  node : Nat
  slot : Nat
  words : List Word
  deriving DecidableEq, Repr

/-- A graph instance (R193). -/
structure Inst where
  num : Nat
  tpl : Nat
  pid : Nat
  b : Nat
  ps : PS
  epoch : Nat
  nodes : List NodeState
  tokens : List Token
  decided : Bool
  closed : Bool
  cancelled : Nat
  deriving DecidableEq, Repr

/-- The Ductus beside its page and its template store. -/
structure Ductus where
  /-- Enabled templates, and templates under check (R190). -/
  enabled : List Nat := []
  checking : List Nat := []
  insts : List Inst := []
  ops : List Op := []
  /-- Per Nib, the handles of its list, oldest first; per partition, its spill ring, in which a cancelled operation leaves
  an empty entry (R198, R200). -/
  lists : Tbl (List Nat) := []
  rings : Tbl (List (Option Nat)) := []
  /-- Per partition, the place of its ring's head entry in DRAM (R200). -/
  ringAt : Tbl Nat := []
  /-- The Nib that last pulled an operation of a template node, by 64 × template + node (R198). -/
  puller : Tbl (Option Nat) := []
  /-- Per Nib: operations delivered and highest depth in the running window, and in the last one (R209). -/
  delivered : Tbl Nat := []
  deliveredLast : Tbl Nat := []
  depthMax : Tbl Nat := []
  depthMaxLast : Tbl Nat := []
  /-- The crossing in which the running window began; the Nibs whose threads held an operation in it; per Nib the busy FCLK
  of the last window (R209). -/
  winFrom : Nat := 0
  busyNibs : List Nat := []
  busyLast : Tbl Word := []
  /-- Waiting-time bins, by 16 × Nib + bin (R209). -/
  hist : Tbl Nat := []
  deriving DecidableEq, Repr

/-! ## Inkwell (R242–R250) -/

/-- The state word of a buffer (R242, R414): 0 free, 1 allocated, 2 free-pending; `tid` is the thread whose share holds
it (R148). -/
structure Buf where
  st : Nat := 0
  pid : Nat := 0
  owner : Nat := 0
  charged : Nat := 0
  refs : Nat := 0
  tid : Option Nat := none
  deriving DecidableEq, Repr

/-- The Inkwell beside its page. -/
structure Inkwell where
  /-- SRAM stack: buffers freed, top first, above the never-allocated buffers `sFresh` to 16,383 (R242). -/
  sStack : List Nat := []
  sFresh : Nat := 0
  /-- DRAM on-chip stack, top first (R242). -/
  dStack : List Nat := []
  /-- The DRAM ring at IW_DRING_BASE: the place of its head entry, and how many entries it holds (R242, R243). -/
  rHead : Nat := 0
  rLen : Nat := 0
  filling : Bool := false
  /-- States of the SRAM buffers by buffer handle; those of DRAM buffers stand in DRAM (R242). -/
  bufs : Tbl Buf := []
  /-- Charged buffers: 0x000 + MID, 0x100 + MID (DRAM), 0x200 + p, 0x210 + p (DRAM), 0x1000 + TID, 0x2000 + TID. -/
  uses : Tbl Nat := []
  deriving DecidableEq, Repr

/-! ## DRAM (R252–R264) -/

/-- A request waiting in a subchannel: channel offset and address order under the mapping in force when it was issued
(R258, R264). -/
structure DramReq where
  off : Nat
  order : Nat
  mid : Nat
  write : Bool
  deriving DecidableEq, Repr

/-- The remap of a lost rank: grain in bytes, the region extents that lay in the rank as channel offsets (rising), and
the spare windows that take them: channel, offset, bytes (R262). -/
structure Remap where
  rank : Nat
  grain : Nat
  extents : List (Nat × Nat)
  targets : List (Nat × Nat × Nat)
  deriving DecidableEq, Repr

/-- A DRAM channel beside its page. -/
structure Ddr where
  /-- Requests of subchannels 0 and 1, oldest first. -/
  reqs0 : List DramReq := []
  reqs1 : List DramReq := []
  /-- Open rows: (bank key, row). -/
  openRows : List (Nat × Nat) := []
  /-- Refresh intervals postponed per rank, 0 to 4 (R255). -/
  postponed0 : Nat := 0
  postponed1 : Nat := 0
  hot : Bool := false
  powerDown0 : Bool := false
  powerDown1 : Bool := false
  scrubLine : Nat := 0
  restoring : Bool := false
  /-- Consecutive uncorrectable reads per rank (R262) and parity retries of the running command (R256). -/
  bad0 : Nat := 0
  bad1 : Nat := 0
  parityTries : Nat := 0
  /-- Remaps of lost ranks (R262). -/
  remaps : List Remap := []
  /-- The spare window is being filled; once filled, the ranges of channel offsets of which every word reads as
  uncorrectable until it is written (R263). -/
  filling : Bool := false
  poison : List (Nat × Nat) := []
  deriving DecidableEq, Repr

/-! ## Partitions (R266–R282) -/

/-- A partition beside its page and window. -/
structure Part where
  /-- The partition admits crossings (R270, R272). -/
  admitting : Bool := false
  /-- START waits for an orbit boundary; the boundary has come (R270). -/
  startPend : Bool := false
  startDue : Bool := false
  /-- STOP or FREEZE waits for the next boundary (R272); DRAINING ends in FROZEN. -/
  stopPend : Bool := false
  toFrozen : Bool := false
  /-- FROZEN came from ACTIVE (R270), and the phase stamp at the end of its drain (R278). -/
  fromActive : Bool := false
  drainPs : PS := {}
  /-- A RESET has ended, and the epoch is unchanged since: RESET alone advances it (R270). -/
  resetDone : Bool := false
  /-- A SAVE or RESTORE is running (R270). -/
  saving : Bool := false
  restoring : Option (List Byte) := none
  /-- Decision sequence number (R215, d3). -/
  seq : Word := 0
  /-- FDs waiting for the host rings, with the PS of their crossing, oldest first (R276). -/
  rxPend : List (FD × PS) := []
  /-- Pass parity of the RX ring (R276). -/
  rxPhase : Bool := true
  /-- Count of the last admitted crossing (R272). -/
  lastAdmitted : Option Nat := none
  /-- Round robin of CP_PCTL.spread (R225). -/
  spread : Nat := 0
  deriving DecidableEq, Repr

/-! ## Skovub (R283–R299) -/

/-- One flit of a message: type, bytes 4–7 of its header, body words, and which of its flits this is (R287, R289). -/
structure SkMsg where
  ty : Nat
  hdr : Word
  body : List Word
  part : Nat := 0
  parts : Nat := 1
  deriving DecidableEq, Repr

/-- A flit kept for replay (R286). -/
structure Flit where
  seq : Nat
  cls : Nat
  msg : SkMsg
  deriving DecidableEq, Repr

/-- Who on this device reads through a remote window: the host, a Steward thread by an IN on an IO port of its register
window, or the board's I2C master (R111, R296, R378). -/
inductive Reader where
  | host
  | thread (t port : Nat)
  | board
  deriving DecidableEq, Repr

/-- A remote read waiting for its answer (R295): for the poll of R393, the word polled; for a request that came from the
device above, the port and tag to answer; else who reads. -/
structure RemoteReq where
  tag : Nat
  poll : Option Nat := none
  back : Option (Nat × Word) := none
  reader : Reader := .host
  deriving DecidableEq, Repr

/-- What the FLIT block of a received flit says beside its message marks (R285). -/
structure FlitHead where
  seq : BitVec 12
  cls : Fin 2
  ackValid : Bool
  acked : BitVec 12
  credits0 : BitVec 8
  credits1 : BitVec 8
  deriving DecidableEq, Repr

/-- A Skovub port beside its page. -/
structure Port where
  sendSeq : Nat := 0
  recvSeq : Nat := 0
  q0 : List SkMsg := []
  q1 : List SkMsg := []
  replay : List Flit := []
  /-- Replay flits to send again (R286). -/
  resend : List Flit := []
  resends : Nat := 0
  /-- Credits held of the peer's buffers, and credits to return to it (R287). -/
  cr0 : Nat := 0
  cr1 : Nat := 0
  ret0 : Nat := 0
  ret1 : Nat := 0
  /-- Training probes have been sent, and the tags of those not yet answered (R288). -/
  probing : Bool := false
  probes : List (BitVec 16) := []
  /-- A flit has been accepted since the training: acknowledgements are valid (R285). -/
  heard : Bool := false
  /-- Good flits of the other lane that came before the next expected one (R287). -/
  early : List FlitHead := []
  /-- Count at which the running heartbeat period began; consecutive missed periods (R297). -/
  hbSince : Nat := 0
  hbMissed : Nat := 0
  phaseMiss : Nat := 0
  /-- Fragments count as missing until a PHASE_CHECK matches (R327). -/
  disagree : Bool := false
  frags : List (Nat × DR) := []
  remotes : List RemoteReq := []
  nextTag : Nat := 0
  /-- Last ROOT words polled from the peer: PG_STAT, PG_IRQ_OUT, PG_ERR_STICKY, PG_FERR_SRC (R393). -/
  polled : List Word := []
  deriving DecidableEq, Repr

/-! ## Signet (R301–R320) -/

/-- A signed reading under way (R317): number, requester, bytes 0 to 207, and once its READING record has been written or
lost, the chain value of that record. -/
structure Reading where
  num : Nat
  who : Nat
  body : List Byte
  written : Option (Option (BitVec 64)) := none
  deriving DecidableEq, Repr

/-- The Signet island: kept by every reset but its own (R301). -/
structure Signet where
  /-- Tallies as exact counts, by 32 × set + index; set 16 is the device set (R303–R305). -/
  tallies : Tbl Nat := []
  /-- Pending QS counts per partition (R306). -/
  pendingQs : Tbl Nat := []
  /-- Supply-dip windows and re-alignment ranges: first and last count (R306, R307). -/
  windows : List (Nat × Nat) := []
  ranges : List (Nat × Nat) := []
  dipFrom : Option Nat := none
  dipLong : Bool := false
  /-- Records waiting: type, pid nibble, PS, data bytes 14–19 (R309, R310). -/
  queue : List (Nat × Nat × PS × List Byte) := []
  /-- The journal memory: its size and the records that it holds, newest first: place, number and 32 bytes; the next
  place (R310, R313). -/
  journalBytes : Nat := 0
  journal : List (Nat × Nat × List Byte) := []
  place : Nat := 0
  /-- SIG_JOURNAL_HEAD and the chain value of record head − 1 (R311). -/
  head : Nat := 0
  chain : BitVec 64 := Config.uniqueId
  /-- One-time memory: seal rows (SIG_CFG, code), newest first, and unseal steps burnt (R314). -/
  seals : List (Word × Word) := []
  breaks : Nat := 0
  session : Option Word := none
  /-- Counts of the last CHECKPOINT per partition (R312). -/
  lastCkpt : Tbl Nat := []
  /-- ORBITS of the device set where the running CHECKPOINT period began (R312, log entry 189). -/
  ckptAt : Nat := 0
  /-- Auditor port: selected set, index and record (R318). -/
  audSet : Nat := 0
  audIndex : Nat := 0
  audRec : Nat := 0
  /-- Signed readings made, those under way, and the last one finished per requester: 0 to 15 a SAVE of that partition,
  16 the auditor (R317). -/
  readings : Nat := 0
  making : List Reading := []
  finished : Tbl (List Byte) := []
  /-- SIGCLK value at MCLK loss is reported by the recovery (R312 MCLK_BACK). -/
  mclkLost : Bool := false
  deriving DecidableEq, Repr

/-! ## Blotter, modes, host (R321–R382) -/

/-- An open fault interval (R329): kind and unit of BL_RECOVERY_STAT, partitions, opening tick, and the count at which
the last step of its recovery was complete. -/
structure Interval where
  kind : Nat
  unit : Nat
  parts : BitVec 16
  opened : Nat
  done : Option Nat := none
  deriving DecidableEq, Repr

/-- The Blotter beside its page. -/
structure Blotter where
  intervals : List Interval := []
  /-- ALIVE toggles since the boot ROM started (R351), until it stopped (R335). -/
  aliveOn : Bool := false
  aliveStopped : Bool := false
  wdtLeft : Nat := 0
  deriving DecidableEq, Repr

/-- A pending mode sequence of R342, beside MODE_CUR. -/
inductive Seq where
  | s1 | s2 | s3 | s5 | s6 | s7 | s9
  deriving DecidableEq, Repr

/-- Where the boot ROM stands (R351). -/
inductive Boot where
  | held | ready | booting | awaitHost | waitHost | waitAny | done
  deriving DecidableEq, Repr

/-- Modes, power, start-up and supply beside the MGT page. -/
structure Mgt where
  seq : Option Seq := none
  /-- Domain switches still to run, first to last: bit and direction (R346). -/
  switches : List (Nat × Bool) := []
  /-- Who requested the running transition, as MODE_HIST.by. -/
  byWho : Nat := 0
  boot : Boot := .ready
  held : Bool := false
  /-- The MGT supply monitor's dip (R354). -/
  dip : Bool := false
  tempOver : Bool := false
  /-- The die's grade: true is YV6440-2916-E (R412). -/
  gradeE : Bool := false
  /-- One-time memory: secure_en and burnt security steps (R377). -/
  secureEn : Bool := false
  svn : Nat := 0
  /-- BIST runs still to do: domain and kind (R380). -/
  bist : List (Nat × Nat) := []
  bistRuns : Nat := 0
  /-- TEST_DOMAIN pass and fail bits by domain (R380). -/
  bistPass : BitVec 24 := 0
  bistFail : BitVec 24 := 0
  /-- JTAG instruction register: IDCODE after the reset of the TAP, as IEEE 1149.1 has it (R379; PRESUMED, log entry 153). -/
  tapIr : Byte := 0x02
  /-- Board I2C: selected lane and BAR0 offset (R378). -/
  brdLane : Nat := 0
  brdOff : Nat := 0
  /-- Mailbox messages held for Steward CH5 (R372). -/
  mbHeld : List (Nat × Word) := []
  mnRxAt : Nat := 0
  mnTxAt : Nat := 0
  /-- The primary is down for this standby: consecutive quorum reports (R298). -/
  quorumRuns : Nat := 0
  handback : Bool := false
  /-- A member quorum has followed this active standby (R298). -/
  sbFollowed : Bool := false
  deriving DecidableEq, Repr

/-- Performance-counter state beside the pages (R360–R365). -/
structure Perf where
  /-- Staged HI words and latched HI reads, by LO address (R362). -/
  staged : Tbl Word := []
  latched : Tbl Word := []
  /-- Bytes of the running window per port (R365). -/
  bytes : Tbl Nat := []
  /-- Result HI words behind PF_BW_HI latches. -/
  bwHi : Tbl Word := []
  deriving DecidableEq, Repr

/-- What leaves the device: one message at a pin, link or bus, in the order in which it left. -/
inductive Out where
  /-- An MSI-X vector fired (R370). -/
  | msix (vector : Nat)
  /-- ALIVE changed level (R335). -/
  | alive (level : Bool)
  /-- The ACC_OUT pairs took levels for a released crossing (R219). -/
  | accOut (b : Nat) (pairs : BitVec 8)
  /-- A frame left a lane: its FD, link frame bytes, their blocks on a Stroke link, stomped (R50, R58, R59, R67). -/
  | frame (lane : Nat) (fd : FD) (bytes : List Byte) (blocks : List Block) (stomped : Bool)
  /-- A HELLO block left a lane (R61). -/
  | hello (lane : Nat) (block : Block)
  /-- An Ethernet lane that is not UP signals Remote Fault (R57). -/
  | remoteFault (lane : Nat)
  /-- A flit left a lane of a Skovub port: what it carries, and its nine blocks (R285, R287). -/
  | flit (port lane : Nat) (f : Flit) (blocks : List Block)
  /-- An ACK, NAK, ECHO_REQ or ECHO_RSP block left a Skovub port (R285). -/
  | link (port : Nat) (block : Block)
  /-- A DMA write to host memory by a partition, with its PASID prefix (R274). -/
  | dma (p : Nat) (pasid : Option Nat) (addr : Nat) (bytes : List Byte)
  /-- A DMA read of `n` bytes of host memory by a partition, with its PASID prefix (R274). -/
  | dmaRead (p : Nat) (pasid : Option Nat) (addr n : Nat)
  /-- A management-port frame left (R373). -/
  | mgtFrame (bytes : List Byte)
  /-- A DRAM command was issued: channel, subchannel, request (R258). -/
  | dramCmd (c : Nat) (sub : Nat) (r : DramReq)
  | refresh (c : Nat) (rank : Nat)
  deriving DecidableEq, Repr

/-- The whole device. -/
structure State where
  /-- Commands waiting, first in first out. -/
  pending : List Instr
  regs : Tbl Word
  mem : Memory
  /-- Words of memory, by key ÷ 8, whose check bits do not match, so that a read is uncorrectable (R49, R108, R256); in
  a filled spare window of DRAM it lists the words that do match (R263). -/
  badWords : Tbl Bool
  /-- By kept DRAM word, 1 + the device line under whose address it was last written (R256); 0 never. -/
  addrTags : Tbl Nat
  phase : Phase
  threads : Tbl Thread
  nibs : Tbl Nib
  chans : Tbl Chan
  sends : List Send
  locks : Tbl Lock
  ctxs : Tbl Ctx
  /-- Context set served last by each helper, by 4q + t (R170). -/
  ctxServed : Tbl Nat
  lanes : Tbl Lane
  /-- Lanes whose frames wait for a Stylus pipe, in the order of their 64 bytes (R77). -/
  stylusQ : List Nat
  dispatchQ : List FD
  /-- Index of the next thread in each class's list (R42, R81). -/
  classNext : Tbl Nat
  slots : Tbl (Option Slot)
  /-- Slots last released as a HOLE and not taken since: partition and FD (R212). -/
  holes : Tbl (Option (Nat × FD))
  /-- Count of slots ever taken: the dispatch order (R51). -/
  slotOrder : Nat
  /-- Largest key released per class: SPS, lane, sequence (R51). -/
  maxKey : Tbl (Option (Word × Nat × Nat))
  /-- Completions on their way to their slots (R212). -/
  compl : List (Nat × FD)
  queues : Tbl (List FD)
  /-- Shapers: signed tokens, and the rate and burst in force (R228, R229). -/
  tokens : Tbl Int
  shapers : Tbl (Nat × Nat)
  /-- By gate list, the phase stamp of the tick that opened a window in the FCLK in which the list was enabled: that window
  opens from its next occurrence on (R232). -/
  gateSkip : Tbl (Option PS)
  xings : Tbl Xing
  extents : Tbl Extent
  lineTags : Tbl LineTag
  frameOrder : Nat
  decisions : List Decision
  decBatch : List (DR × PS)
  accepts : List Accept
  copy : Option Copy
  accOuts : List AccOut
  copybook : Copybook
  ductus : Ductus
  ink : Inkwell
  ddrs : Tbl Ddr
  parts : Tbl Part
  ports : Tbl Port
  signet : Signet
  blotter : Blotter
  mgt : Mgt
  perf : Perf
  /-- The model's own supply of free values: advanced at each use (Config.freeWord, Config.freePc). -/
  free : Nat
  /-- The register write under way, for the capture of its refusal: MID and BAR0 address. None while the command names no
  master: the MID is then free. -/
  writer : Option (Nat × Nat)
  /-- What the last command that returns data returned: words of a register read, bytes of a port transfer. -/
  resp : List Nat
  out : List Out
  deriving DecidableEq, Repr

/-- ST of a thread right after thread reset: the level of R104 in pl, everything else 0. -/
def stReset (t : Nat) : Word := if 1024 ≤ t then 0xC0000000 else if t % 8 = 0 then 0x40000000 else 0

/-- A thread right after reset (R103, R145, R146). -/
def threadReset (t : Nat) : Thread := { st := stReset t }

/-- Right after the power-on reset: COLD, every register at its reset value, memories empty, nothing in flight
(R8, R344, R349). The Signet stands as its own power-on left it, with nothing burnt and no journal memory. -/
def State.reset : State where
  pending := []
  regs := []
  mem := []
  badWords := []
  addrTags := []
  phase := {}
  threads := []
  nibs := []
  chans := []
  sends := []
  locks := []
  ctxs := []
  ctxServed := []
  lanes := []
  stylusQ := []
  dispatchQ := []
  classNext := []
  slots := []
  holes := []
  slotOrder := 0
  maxKey := []
  compl := []
  queues := []
  tokens := []
  shapers := []
  gateSkip := []
  xings := []
  extents := []
  lineTags := []
  frameOrder := 0
  decisions := []
  decBatch := []
  accepts := []
  copy := none
  accOuts := []
  copybook := {}
  ductus := {}
  ink := {}
  ddrs := []
  parts := []
  ports := []
  signet := {}
  blotter := {}
  mgt := {}
  perf := {}
  free := 0
  writer := none
  resp := []
  out := []

/-- Why the device stops. No command of the table stops the device in this model: every one has an effect, so no
meaning raises this; it is kept for the interface (safe). -/
inductive Fault where
  /-- Raised by nothing (safe). -/
  | none
  deriving DecidableEq, Repr

/-- Why a command has no meaning. -/
inductive Refusal where
  /-- A command of the table that the model does not model yet: answered by `exec` only (safe). -/
  | notModelled (mnemonic : String)
  deriving DecidableEq, Repr

end Sys2Proof.Machine
end

