-- ==== Sys2Proof/Machine/Ops.lean ====
section
/-! DEFINITION. The named operations that every block shares: registers and their fields, modes and domains, phase
stamps, memory bytes, threads and units, what leaves the device, page interrupts, and the recording of an error. -/

namespace Sys2Proof.Machine

/-! ## Status codes (R2) -/

abbrev stOk : Byte := 0x00
abbrev stBusy : Byte := 0x01
abbrev stEmpty : Byte := 0x02
abbrev stBroken : Byte := 0x03
abbrev stNotOwner : Byte := 0x04
abbrev stOverQuota : Byte := 0x05
abbrev stCancelled : Byte := 0x06
abbrev stAlready : Byte := 0x07
abbrev stStale : Byte := 0x08
abbrev stRefused : Byte := 0x09
abbrev stTimeout : Byte := 0x0A
abbrev stParity : Byte := 0x0B
abbrev stFull : Byte := 0x0C
abbrev stLate : Byte := 0x0D
abbrev stHole : Byte := 0x0E
abbrev stDenied : Byte := 0x0F

/-! ## Registers -/

/-- The stored value of the register at address `a`. -/
def reg (s : State) (a : Nat) : Word := Tbl.get regReset s.regs a

/-- The state with `v` stored at register address `a`. -/
def setReg (s : State) (a : Nat) (v : Word) : State := { s with regs := Tbl.set regReset s.regs a v }

/-- Field `[hi:lo]` of a register. -/
def fld (s : State) (a hi lo : Nat) : Nat := bits (reg s a) hi lo

/-- Bit `i` of a register. -/
def flag (s : State) (a i : Nat) : Bool := bit (reg s a) i

/-- Store `v` into field `[hi:lo]` of a register. -/
def setFld (s : State) (a hi lo v : Nat) : State := setReg s a (setBits (reg s a) hi lo v)

/-- Store bit `i` of a register. -/
def setFlag (s : State) (a i : Nat) (b : Bool) : State := setReg s a (setBit (reg s a) i b)

/-- Add `n` to a wrapping 32-bit counter. -/
def countN (s : State) (a n : Nat) : State := setReg s a (reg s a + word n)

/-- The bits of a register that a plain write changes. -/
def rwMask (a : Nat) : Word :=
  match regRow a with
  | some (r, _) => word r.rw
  | none => 0

/-- The value that a plain write of `v` leaves in the register at `a`. -/
def written (s : State) (a : Nat) (v : Word) : Word := (reg s a &&& ~~~rwMask a) ||| (v &&& rwMask a)

/-- A plain write of a register: its writable bits change (R383). -/
def plainWrite (s : State) (a : Nat) (v : Word) : State := setReg s a (written s a v)

/-- Count one event in a wrapping 32-bit counter. -/
def count (s : State) (a : Nat) : State := countN s a 1

/-- Count one event in a field that wraps. -/
def countFld (s : State) (a hi lo : Nat) : State := setFld s a hi lo (fld s a hi lo + 1)

/-- Count one event in a field that saturates. -/
def countSat (s : State) (a hi lo : Nat) : State := setFld s a hi lo (sat (2 ^ (hi + 1 - lo) - 1) (fld s a hi lo + 1))

/-! ## Modes, domains, faults (R339, R346, R326) -/

/-- MODE_CUR.mode (R339). -/
def mode (s : State) : Nat := fld s Reg.MODE_CUR 2 0
/-- RUN, DRAIN or ORPHAN: the modes in which configuration writes are refused (R27, R340). -/
def modeLocked (s : State) : Bool := mode s = 4 || mode s = 5 || mode s = 6
/-- RUN or ORPHAN: the modes that admit crossings of ACTIVE partitions (R339). -/
def modeAdmits (s : State) : Bool := mode s = 4 || mode s = 6
/-- FATAL has been taken (R326). -/
def fatal (s : State) : Bool := flag s Reg.BL_SUMMARY 31
/-- Domain `d` is on (PD_STAT). -/
def domainOn (s : State) (d : Nat) : Bool := bit (reg s Reg.PD_STAT) d
/-- A managing device: role Manager or Standby manager (R1, STRAPS). -/
def role (s : State) : Nat := fld s Reg.STRAPS 1 0

/-- The power domain of a page (R347). -/
def pageDomain : PageKind × Nat → Nat
  | (.root, _) | (.mgt, _) | (.blotter, _) | (.pcie, _) | (.mgtnet, _) | (.boot, _) | (.test, _) | (.perf, _) => 1
  | (.signet, _) => 0
  | (.sgroup, g) => 4 + g
  | (.lane, n) => 4 + n / 32
  | (.ddr, _) => 3
  | (.quill, q) => 8 + q
  | (.nib, n) => if n = 128 then 1 else 8 + n / 8
  | (.locks, q) => 8 + q
  | (.helper, k) => 8 + k / 4
  | _ => 2

/-- The page's domain is on. -/
def pageOn (s : State) (page : Nat) : Bool :=
  match pageAt (page / 0x1000) with
  | some k => domainOn s (pageDomain k)
  | none => true

/-- The block behind a page may begin an operation: its domain is on and the page is not frozen (R386). -/
def starts (s : State) (page : Nat) : Bool := pageOn s page && !flag s (Reg.PG_CTL page) 2

/-- An enable field of a block: 0 while the page's enable is 0 (R386). -/
def enField (s : State) (page a i : Nat) : Bool := flag s (Reg.PG_CTL page) 0 && flag s a i

/-! ## Phase stamps (R8) -/

/-- A phase stamp as its 64-bit word. -/
def psNat (p : PS) : Nat := (p.orbit % 2 ^ 48) * 65536 + p.index % 65536
/-- The short phase stamp: orbit [15:0], crossing index. -/
def spsOf (p : PS) : Word := word ((p.orbit % 65536) * 65536 + p.index % 65536)
/-- The current SPS. -/
def spsNow (s : State) : Word := spsOf s.phase.now
/-- The PS captured with an event; 0 while no phase exists (R310, R334). -/
def psEvent (s : State) : PS := if s.phase.started then s.phase.now else {}
/-- L (R26). -/
def lat (s : State) : Nat := fld s Reg.DECISION_LAT 14 0
/-- GUARD (R26). -/
def guard (s : State) : Nat := fld s Reg.GUARD 7 0
/-- COPY_HOLD (R238). -/
def copyHold (s : State) : Nat := fld s Reg.SC_COPY_HOLD 14 0
/-- The orbit length in force (R8, R27). -/
def orbitLen (s : State) : Nat := s.phase.len

/-- Orbit `o` of `k` bits behind the current orbit, as a signed distance. -/
def orbitsBehind (s : State) (k o : Nat) : Int :=
  let d := (s.phase.now.orbit % 2 ^ k + 2 ^ k - o % 2 ^ k) % 2 ^ k
  if 2 ^ (k - 1) ≤ d then (d : Int) - 2 ^ k else d

/-- The label with `o` orbits behind and index `i` stands in run `r` or after it. -/
def inRun (s : State) (o : Int) (i : Nat) (r : LabelRun) : Bool :=
  o < orbitsBehind s 48 r.ps.orbit || (o = orbitsBehind s 48 r.ps.orbit && r.ps.index ≤ i)

/-- Age of a crossing label with an orbit number of `k` bits: the current crossing count minus that of the crossing with
that label, in the newest run of labels that reaches it (R9, R30, R40; DEDUCED, log entry 158). -/
def ageOf (s : State) (k o i : Nat) : Int :=
  let d := orbitsBehind s k o
  match (s.phase.runs.find? (inRun s d i)).or s.phase.runs.getLast? with
  | some r => (s.phase.count : Int) - r.b - (orbitsBehind s 48 r.ps.orbit - d) * r.len - i + r.ps.index
  | none => d * orbitLen s + (s.phase.now.index : Int) - i

/-- The internal count of the crossing that is `age` crossings old. -/
def countAt (s : State) (age : Int) : Int := (s.phase.count : Int) - age

/-- The full label of an SPS (R8, R30). -/
def psOfSps (s : State) (w : Word) : PS :=
  { orbit := (((s.phase.now.orbit : Int) - orbitsBehind s 16 (bits w 31 16)) % 2 ^ 48).toNat, index := bits w 15 0 }

/-! ## Units -/

/-- The Nib of a thread; 128 is the Steward (R104). -/
def nibOf (t : Nat) : Nat := if 1024 ≤ t then 128 else t / 8
/-- The number of a thread on its Nib. -/
def idxOf (t : Nat) : Nat := if 1024 ≤ t then t - 1024 else t % 8
/-- The thread `i` of Nib `n`. -/
def tidOf (n i : Nat) : Nat := if n = 128 then 1024 + i else 8 * n + i
/-- The MID of a Nib (R3). -/
def nibMid (n : Nat) : Nat := n
/-- The partition of a Nib; 0 for the Steward (R105). -/
def nibPid (s : State) (n : Nat) : Nat := if n = 128 then 0 else fld s (Reg.NIB_PID n) 3 0
/-- The partition of a thread. -/
def tidPid (s : State) (t : Nat) : Nat := nibPid s (nibOf t)
/-- The owner of a lane (R266). -/
def lanePid (s : State) (n : Nat) : Nat := fld s (Reg.LANE_CTL n) 7 4
/-- The state of a partition (R269). -/
def partState (s : State) (p : Nat) : Nat := fld s (Reg.PART_STAT p) 18 16
/-- A resource may move between partitions `p` and `q`: each of them other than partition 0 is CREATING or IDLE (R267). -/
def mayMove (s : State) (p q : Nat) : Bool := [p, q].all (fun x => x = 0 || partState s x = 1 || partState s x = 2)
/-- The epoch of a partition. -/
def partEpoch (s : State) (p : Nat) : Nat := fld s (Reg.PART_EPOCH p) 15 0

/-- A thread. -/
def thread (s : State) (t : Nat) : Thread := Tbl.get threadReset s.threads t
/-- Store a thread. -/
def setThread (s : State) (t : Nat) (v : Thread) : State := { s with threads := Tbl.set threadReset s.threads t v }
/-- Change a thread. -/
def modThread (s : State) (t : Nat) (f : Thread → Thread) : State := setThread s t (f (thread s t))
/-- A Nib. -/
def nib (s : State) (n : Nat) : Nib := Tbl.get (fun _ => {}) s.nibs n
/-- Change a Nib. -/
def modNib (s : State) (n : Nat) (f : Nib → Nib) : State := { s with nibs := Tbl.set (fun _ => {}) s.nibs n (f (nib s n)) }
/-- Channel `c` of Nib `n`. -/
def chan (s : State) (n c : Nat) : Chan := Tbl.get (fun _ => {}) s.chans (32 * n + c)
/-- Change a channel. -/
def modChan (s : State) (n c : Nat) (f : Chan → Chan) : State :=
  { s with chans := Tbl.set (fun _ => {}) s.chans (32 * n + c) (f (chan s n c)) }
/-- Lock `k` of Quill `q`. -/
def lock (s : State) (q k : Nat) : Lock := Tbl.get (fun _ => {}) s.locks (256 * q + k)
/-- Change a lock. -/
def modLock (s : State) (q k : Nat) (f : Lock → Lock) : State :=
  { s with locks := Tbl.set (fun _ => {}) s.locks (256 * q + k) (f (lock s q k)) }
/-- A partition. -/
def part (s : State) (p : Nat) : Part := Tbl.get (fun _ => {}) s.parts p
/-- Change a partition. -/
def modPart (s : State) (p : Nat) (f : Part → Part) : State := { s with parts := Tbl.set (fun _ => {}) s.parts p (f (part s p)) }
/-- A lane. -/
def lane (s : State) (n : Nat) : Lane := Tbl.get (fun _ => {}) s.lanes n
/-- Change a lane. -/
def modLane (s : State) (n : Nat) (f : Lane → Lane) : State := { s with lanes := Tbl.set (fun _ => {}) s.lanes n (f (lane s n)) }
/-- A Skovub port. -/
def port (s : State) (k : Nat) : Port := Tbl.get (fun _ => {}) s.ports k
/-- Change a Skovub port. -/
def modPort (s : State) (k : Nat) (f : Port → Port) : State := { s with ports := Tbl.set (fun _ => {}) s.ports k (f (port s k)) }
/-- A DRAM channel. -/
def ddr (s : State) (c : Nat) : Ddr := Tbl.get (fun _ => {}) s.ddrs c
/-- Change a DRAM channel. -/
def modDdr (s : State) (c : Nat) (f : Ddr → Ddr) : State := { s with ddrs := Tbl.set (fun _ => {}) s.ddrs c (f (ddr s c)) }
/-- The entry of the Crossing Index Table for internal count `b` (R240). -/
def xing (s : State) (b : Nat) : Xing := Tbl.get (fun _ => {}) s.xings b
/-- Change a crossing's entry. -/
def modXing (s : State) (b : Nat) (f : Xing → Xing) : State := { s with xings := Tbl.set (fun _ => {}) s.xings b (f (xing s b)) }
/-- A Ligature slot. -/
def slot (s : State) (k : Nat) : Option Slot := Tbl.get (fun _ => none) s.slots k
/-- Store a Ligature slot. -/
def setSlot (s : State) (k : Nat) (v : Option Slot) : State := { s with slots := Tbl.set (fun _ => none) s.slots k v }
/-- An egress queue, head first. -/
def queue (s : State) (q : Nat) : List FD := Tbl.get (fun _ => []) s.queues q
/-- Store an egress queue. -/
def setQueue (s : State) (q : Nat) (v : List FD) : State := { s with queues := Tbl.set (fun _ => []) s.queues q v }

/-- Every listed thread number that satisfies `f`; an unlisted thread is IDLE and holds nothing. -/
def listedThreads (s : State) (f : Nat → Bool) : List Nat := (s.threads.map Prod.fst).filter f

/-- The lowest-numbered unfenced Nib of a partition: its thread 0 supervises the partition (R162, R333). -/
def supervisorNib (s : State) (p : Nat) : Option Nat :=
  (List.range 128).find? (fun n => nibPid s n = p && !(nib s n).fenced)

/-! ## Frame descriptors and buffer handles (R43, R242) -/

def fdKind (f : FD) : Nat := bits f.w0 31 28
def fdPid (f : FD) : Nat := bits f.w0 27 24
def fdClass (f : FD) : Nat := bits f.w0 23 20
def fdLane (f : FD) : Nat := bits f.w0 19 12
def fdFlags (f : FD) : Nat := bits f.w0 11 0
def fdAction (f : FD) : Nat := bits f.w1 31 24
def fdChannel (f : FD) : Nat := bits f.w1 23 0
def fdSeq (f : FD) : Nat := bits f.w3 31 16
def fdLen (f : FD) : Nat := bits f.w3 15 0
def fdUser (f : FD) : Nat := bits f.w7 31 14
/-- user[31:24]: the egress queue. -/
def fdQueue (f : FD) : Nat := bits f.w7 31 24
def fdSlot (f : FD) : Nat := bits f.w7 13 0
/-- The FD with flag bit `i` set. -/
def fdSetFlag (f : FD) (i : Nat) : FD := { f with w0 := setBit f.w0 i true }

/-- Pool of a buffer handle: 0 Scroll, 1 SRAM, 2 DRAM, 3 none (R242). -/
def bhPool (bh : Word) : Nat := bits bh 31 30
/-- Index of a buffer handle in its pool. -/
def bhIndex (bh : Word) : Nat := bits bh 29 0

/-! ## DRAM mapping (R252, R259–R263) -/

/-- 64 MiB, the unit of regions, windows and capacities. -/
def dramUnit : Nat := 0x4000000

/-- A geometry word names a supported configuration (R252). -/
def geomOk (g : Word) : Bool :=
  (bits g 9 8 = 1 || bits g 9 8 = 2) && decide (bits g 3 2 < 2) && decide (bits g 1 0 < 3) && !(bit g 4 && bits g 3 2 = 1)

/-- Units of one rank, and of the channel (R252). -/
def rankUnits (s : State) (c : Nat) : Nat :=
  if geomOk (reg s (Reg.DDR_GEOM c)) then (if fld s (Reg.DDR_GEOM c) 3 2 = 0 ∧ ¬ flag s (Reg.DDR_GEOM c) 4 then 256 else 512) else 0
def capUnits (s : State) (c : Nat) : Nat := fld s (Reg.DDR_GEOM c) 9 8 * rankUnits s c

/-- DDR_IMODE.mode: 1 interleave (R261). -/
def imode (s : State) : Bool := flag s (Reg.DDR_IMODE 0) 31
/-- The channels of DDR_IMODE.chmask, upward. -/
def imodeChans (s : State) : List Nat := (List.range 4).filter (fun c => flag s (Reg.DDR_IMODE 0) c)
/-- The least of a list of numbers; 0 for none. -/
def least : List Nat → Nat
  | [] => 0
  | [x] => x
  | x :: xs => min x (least xs)
/-- The interleave decode limit in bytes (R261). -/
def imodeLimit (s : State) : Nat := (imodeChans s).length * least ((imodeChans s).map (capUnits s)) * dramUnit

/-- Region fields (R259). -/
def drValid (s : State) (r : Nat) : Bool := flag s (Reg.DR_BASE 0 r) 31
def drRegionPid (s : State) (r : Nat) : Nat := fld s (Reg.DR_BASE 0 r) 27 24
def drBase (s : State) (r : Nat) : Nat := fld s (Reg.DR_BASE 0 r) 11 0 * dramUnit
def drSize (s : State) (r : Nat) : Nat := fld s (Reg.DR_SIZE 0 r) 10 0 * dramUnit
def drChan (s : State) (r : Nat) : Nat := fld s (Reg.DR_MAP 0 r) 25 24
def drOff (s : State) (r : Nat) : Nat := fld s (Reg.DR_MAP 0 r) 9 0 * dramUnit

/-- The valid region of a device address. -/
def dramRegion (s : State) (a : Nat) : Option Nat :=
  (List.range 16).find? (fun r => drValid s r && decide (drBase s r ≤ a ∧ a < drBase s r + drSize s r))

/-- The channel and channel offset that a device address is mapped to, or none for a decode error (R259, R261). -/
def dramMap (s : State) (a : Nat) : Option (Nat × Nat) :=
  if imode s then
    let g := 2 ^ fld s (Reg.DDR_IMODE 0) 11 8
    let n := (imodeChans s).length
    if a < imodeLimit s then some ((imodeChans s).getD (a / g % n) 0, a / g / n * g + a % g) else none
  else match dramRegion s a with
    | some r => some (drChan s r, drOff s r + (a - drBase s r))
    | none => none

/-- The partition that a device address belongs to: partition 0 in interleave mode (R259, R261). -/
def dramPid (s : State) (a : Nat) : Option Nat :=
  if imode s then (if a < imodeLimit s then some 0 else none) else (dramRegion s a).map (drRegionPid s)

/-- The rank of a channel offset. -/
def rankOf (s : State) (c off : Nat) : Nat := if rankUnits s c = 0 then 0 else off / (rankUnits s c * dramUnit)
/-- DDR_STAT.lost of a rank (R262). -/
def rankLost (s : State) (c k : Nat) : Bool := bit (reg s (Reg.DDR_STAT c)) (8 + k)
/-- Both ranks of a channel are healthy. -/
def chanHealthy (s : State) (c : Nat) : Bool := fld s (Reg.DDR_STAT c) 9 8 = 0
/-- Put an extent into a list of extents in rising order. -/
def putExtent (e : Nat × Nat) : List (Nat × Nat) → List (Nat × Nat)
  | [] => [e]
  | x :: xs => if e.1 < x.1 then e :: x :: xs else x :: putExtent e xs

/-- The region extents of a channel, as rising channel offsets: in interleave mode every address below the decode limit
counts as an address of a region (R259, R261). -/
def regionExtents (s : State) (c : Nat) : List (Nat × Nat) :=
  if imode s then
    if (imodeChans s).contains c then [(0, imodeLimit s / (imodeChans s).length)] else []
  else (List.range 16).foldl (fun l r =>
    if drValid s r ∧ drChan s r = c then putExtent (drOff s r, drOff s r + drSize s r) l else l) []

/-- The parts of extents that lie in `[lo, hi)`. -/
def clipExtents (l : List (Nat × Nat)) (lo hi : Nat) : List (Nat × Nat) :=
  (l.map (fun e => (max e.1 lo, min e.2 hi))).filter (fun e => decide (e.1 < e.2))

/-- Region extents in rank `k` of a channel. -/
def rankExtents (s : State) (c k : Nat) : List (Nat × Nat) :=
  clipExtents (regionExtents s c) (k * (rankUnits s c * dramUnit)) ((k + 1) * (rankUnits s c * dramUnit))

/-- Bytes of a list of extents. -/
def extentBytes (l : List (Nat × Nat)) : Nat := (l.map (fun e => e.2 - e.1)).sum

/-- DDR_STAT.recov_ok: the ready spare windows of the other three channels hold the region bytes of the larger rank of
channel `c` (R263). Of a channel that is not READY it reads 0, its reset value (DEDUCED, log entry 154). -/
def recovOk (s : State) (c : Nat) : Bool :=
  fld s (Reg.DDR_STAT c) 1 0 = 2 && decide (max (extentBytes (rankExtents s c 0)) (extentBytes (rankExtents s c 1)) ≤
    (((List.range 4).filter (fun d => d ≠ c && flag s (Reg.DDR_SPARE d) 30)).map
      (fun d => fld s (Reg.DDR_SPARE d) 26 16 * dramUnit)).sum)

/-- Position of a channel offset among extents, counted in rising channel offset. -/
def extentPos : List (Nat × Nat) → Nat → Option Nat
  | [], _ => none
  | e :: l, off =>
    if e.1 ≤ off ∧ off < e.2 then some (off - e.1)
    else (extentPos l off).map (fun n => n + (e.2 - e.1))

/-- Grain `u` of a remapped rank by interleave over spare windows: each pass goes round the windows that still have room,
until the smallest of them is full (DEDUCED, log entry 21). `used` grains of each window are taken. -/
def interleave (grain : Nat) : Nat → List (Nat × Nat × Nat) → Nat → Nat → Option (Nat × Nat)
  | 0, _, _, _ => none
  | fuel + 1, l, used, u =>
    let l := l.filter (fun w => used < w.2.2 / grain)
    let m := least (l.map (fun w => w.2.2 / grain)) - used
    if l = [] then none
    else if u < m * l.length then (l[u % l.length]?).map (fun w => (w.1, w.2.1 + (used + u / l.length) * grain))
    else interleave grain fuel l (used + m) (u - m * l.length)

/-- The bytes that `n` grains by `interleave` take of each window, with its channel. -/
def takenBy (grain : Nat) : Nat → List (Nat × Nat × Nat) → Nat → Nat → List (Nat × Nat)
  | 0, _, _, _ => []
  | fuel + 1, l, used, n =>
    let full := (l.filter (fun w => w.2.2 / grain ≤ used)).map (fun w => (w.1, w.2.2 / grain * grain))
    let l := l.filter (fun w => used < w.2.2 / grain)
    let m := least (l.map (fun w => w.2.2 / grain)) - used
    full ++ if l = [] then []
      else if n < m * l.length then l.zipIdx.map (fun e => (e.1.1, (used + n / l.length + (decide (e.2 < n % l.length)).toNat) * grain))
      else takenBy grain fuel l (used + m) (n - m * l.length)

/-- The end of what a remap takes of the spare window of channel `d`. -/
def remapEnd (r : Remap) (d : Nat) : Nat :=
  match r.targets.find? (fun w => w.1 = d), (takenBy r.grain 4 r.targets 0 ((extentBytes r.extents + r.grain - 1) / r.grain)).find? (fun e => e.1 = d) with
  | some w, some e => w.2.1 + e.2
  | _, _ => 0

/-- The first offset of the spare window of channel `d` that no remap has taken. -/
def spareFrom (s : State) (d : Nat) : Nat :=
  (s.ddrs.flatMap (fun e => e.2.remaps)).foldl (fun n r => max n (remapEnd r d)) (fld s (Reg.DDR_SPARE d) 9 0 * dramUnit)

/-- The spare windows that take a lost rank of channel `c`, less what earlier remaps have taken: those ready on the other
channels whose ranks are all healthy (R262). -/
def spareTargets (s : State) (c : Nat) : List (Nat × Nat × Nat) :=
  ((List.range 4).filter (fun d => d ≠ c && chanHealthy s d && flag s (Reg.DDR_SPARE d) 30)).map
    (fun d => (d, spareFrom s d, (fld s (Reg.DDR_SPARE d) 9 0 + fld s (Reg.DDR_SPARE d) 26 16) * dramUnit - spareFrom s d))

/-- Where a channel offset of a lost rank lies after the remap; none while nothing takes it (R262). -/
def spareOf (s : State) (c off : Nat) : Option (Nat × Nat) :=
  match (ddr s c).remaps.find? (fun r => r.rank = rankOf s c off) with
  | none => none
  | some r => match extentPos r.extents off with
    | none => none
    | some pos => match interleave r.grain 4 r.targets 0 (pos / r.grain) with
      | none => none
      | some (d, o) => if rankLost s d (rankOf s d o) then none else some (d, o + pos % r.grain)

/-- Where the byte at a channel offset is kept: none when its rank is lost and not remapped. -/
def dramHome (s : State) (c off : Nat) : Option (Nat × Nat) :=
  if rankLost s c (rankOf s c off) then spareOf s c off else some (c, off)

/-- Where the byte of a device address is kept: none when it does not decode or its rank is lost and not remapped. -/
def dramLoc (s : State) (a : Nat) : Option (Nat × Nat) :=
  match dramMap s a with
  | none => none
  | some (c, off) => dramHome s c off

/-! ## Rows, banks and columns (R260) -/

/-- Column bits above the burst bits, and row bits, of the configuration. -/
def columnBits (s : State) (c : Nat) : Nat := if flag s (Reg.DDR_GEOM c) 4 then 7 else 6
def rowBits (s : State) (c : Nat) : Nat := if fld s (Reg.DDR_GEOM c) 3 2 = 1 then 17 else 16

/-- Field of an offset: `n` bits from bit `lo`. -/
def offField (off lo n : Nat) : Nat := off / 2 ^ lo % 2 ^ n

/-- Bank, bank group and row of a channel offset under an order. -/
def bankRow (s : State) (c order off : Nat) : Nat × Nat × Nat :=
  let w := columnBits s c
  let r := rowBits s c
  match order with
  | 1 => (offField off 9 2, offField off 11 3, offField off (12 + w) r)
  | 2 => (offField off (7 + w + r) 2, offField off (9 + w + r) 3, offField off (7 + w) r)
  | 3 => (offField off (10 + w) 2, offField off 7 3, offField off (12 + w) r)
  | _ => (offField off (7 + w) 2, offField off (9 + w) 3, offField off (12 + w) r)

/-- Column of a channel offset under an order. -/
def columnOf (s : State) (c order off : Nat) : Nat :=
  let w := columnBits s c
  match order with
  | 1 => offField off 7 2 + 4 * offField off 14 (w - 2)
  | 3 => offField off 10 w
  | _ => offField off 7 w

/-- The cell that a channel offset names under an order, as the channel offset that ORDER_A gives that cell. -/
def cellOf (s : State) (c order off : Nat) : Nat :=
  if order = 0 then off
  else
    let w := columnBits s c
    let top := 12 + w + rowBits s c
    let (b, g, row) := bankRow s c order off
    off % 2 ^ 7 + columnOf s c order off * 2 ^ 7 + b * 2 ^ (7 + w) + g * 2 ^ (9 + w) + row * 2 ^ (12 + w) + off / 2 ^ top * 2 ^ top

/-- The address order of a device address: ORDER_A in interleave mode, else its region's (R260, R261). -/
def orderAt (s : State) (a : Nat) : Nat :=
  if imode s then 0
  else match dramRegion s a with
    | some r => fld s (Reg.DR_MAP 0 r) 29 28
    | none => 0

/-- The channel and cell that keep the byte of a device address; a spare window's cells follow ORDER_A (R260, R262). -/
def dramCell (s : State) (a : Nat) : Option (Nat × Nat) :=
  match dramMap s a with
  | none => none
  | some (c, off) => if rankLost s c (rankOf s c off) then spareOf s c off else some (c, cellOf s c (orderAt s a) off)

/-- The channel and offset that answer for a device address: where it is kept, or the lost rank that it decodes to. -/
def dramPort (s : State) (a : Nat) : Option (Nat × Nat) :=
  match dramLoc s a with
  | some l => some l
  | none => dramMap s a

/-! ## Memory

One key space: BAR4 offsets below 2^28 (R397), the Steward's I-space and local data above it (R347), device DRAM
addresses from 2^40. DRAM bytes are kept by channel and cell, so that a new mapping or order finds what lies there. -/

/-- Key of byte 0 of a Nib's I-space (R397, R347). -/
def ispace (n : Nat) : Nat := if n = 128 then 0x10000000 else 0xE000000 + 0x30000 * n
/-- Key of byte 0 of a Nib's local data. -/
def localData (n : Nat) : Nat := if n = 128 then 0x10010000 else 0xE010000 + 0x30000 * n
/-- Key of device DRAM address 0. -/
def dramBase : Nat := 0x10000000000
/-- Key of a device DRAM address. -/
def dramKey (a : Nat) : Nat := dramBase + a

/-- Where a key's byte is kept: SRAM keys as they are, DRAM by channel and cell; none where no memory answers. -/
def memKey (s : State) (k : Nat) : Option Nat :=
  if k < dramBase then some k
  else (dramCell s (k - dramBase)).map (fun l => dramBase + l.1 * 2 ^ 37 + l.2)

/-- One byte of memory. -/
def rd (s : State) (k : Nat) : Byte :=
  match memKey s k with
  | some j => Tbl.get memDefault s.mem j
  | none => memDefault k
/-- Write one byte of memory; a write that no memory answers is dropped (R264). -/
def wr (s : State) (k : Nat) (b : Byte) : State :=
  match memKey s k with
  | some j => { s with mem := Tbl.set memDefault s.mem j b }
  | none => s
/-- The `n` bytes from key `k`. -/
def rdBytes (s : State) (k n : Nat) : List Byte := (List.range n).map (fun i => rd s (k + i))
/-- The little-endian number of the `n` bytes from key `k`. -/
def rdLe (s : State) (k n : Nat) : Nat := leNat (rdBytes s k n)
/-- The 32-bit word at key `k`. -/
def rdWord (s : State) (k : Nat) : Word := word (rdLe s k 4)

/-- A kept DRAM key lies in a filled spare window of its channel. -/
def inPoison (s : State) (j : Nat) : Bool :=
  dramBase ≤ j && (ddr s ((j - dramBase) / 2 ^ 37)).poison.any
    (fun e => decide (e.1 ≤ (j - dramBase) % 2 ^ 37 ∧ (j - dramBase) % 2 ^ 37 < e.2))

/-- The line of 64 bytes of a device address, which the parity byte of its words covers (R256). -/
def lineOf (k : Nat) : Nat := (k - dramBase) / 64

/-- The kept DRAM word of key `j` was written under another device address than key `k`'s, and the parity bytes of the two
differ: the rule does not say which address bits a parity bit covers, so whether they differ is free (R256, log entry
178). -/
def wrongAddr (s : State) (j k : Nat) : Bool :=
  let tag := Tbl.get (fun _ => 0) s.addrTags (j / 8)
  dramBase ≤ j && tag ≠ 0 && tag - 1 ≠ lineOf k && Config.addrParity (tag - 1) ≠ Config.addrParity (lineOf k)

/-- The 64-bit word that holds key `k` reads as uncorrectable (R49, R108, R256, R262). -/
def badAt (s : State) (k : Nat) : Bool :=
  match memKey s k with
  | some j => xor (Tbl.get (fun _ => false) s.badWords (j / 8)) (inPoison s j) || wrongAddr s j k
  | none => true

/-- The kept word of key `j` is written for key `k` with good check bits, which cover the device address. -/
def renewKept (s : State) (j k : Nat) : State :=
  { s with
    badWords := Tbl.set (fun _ => false) s.badWords (j / 8) (inPoison s j)
    addrTags := if dramBase ≤ j then Tbl.set (fun _ => 0) s.addrTags (j / 8) (lineOf k + 1) else s.addrTags }

/-- Make the 64-bit word that holds key `k` read as uncorrectable, or good again. -/
def setBad (s : State) (k : Nat) (b : Bool) : State :=
  match memKey s k with
  | some j => if b then { s with badWords := Tbl.set (fun _ => false) s.badWords (j / 8) (!inPoison s j) } else renewKept s j k
  | none => s

/-- Write bytes from key `k` up. -/
def wrBytes (s : State) (k : Nat) : List Byte → State
  | [] => s
  | b :: bs => wrBytes (wr s k b) (k + 1) bs

/-- Write a 32-bit word; the check bits of the 64-bit word that holds it are new (DESIGN CHOICE, log entry 165). -/
def wrWord (s : State) (k : Nat) (v : Word) : State := setBad (wrBytes s k (leBytes 4 v.toNat)) k false

/-- Write bytes from key `k` up, with new check bits for every word that they reach. -/
def wrClean (s : State) (k : Nat) (bs : List Byte) : State :=
  (List.range ((k % 8 + bs.length + 7) / 8)).foldl (fun s i => setBad s (k - k % 8 + 8 * i) false) (wrBytes s k bs)

/-- BL_RECOVERY_STAT shows the latest recovery: kind 1 a Nib, 2 a lane, 3 a DRAM rank, 4 an SRAM word; active says whether
a fault interval is open (R331). -/
def showRecovery (s : State) (kind unit : Nat) : State :=
  setReg s Reg.BL_RECOVERY_STAT (word ((!s.blotter.intervals.isEmpty).toNat * 2 ^ 31
    + fld s Reg.BL_RECOVERY_STAT 30 30 * 2 ^ 30 + kind * 2 ^ 24 + unit * 2 ^ 16))

/-! ## Outputs, free values -/

/-- Something leaves the device. -/
def emit (s : State) (o : Out) : State := { s with out := s.out ++ [o] }

/-- A free word, and the state with the supply of free values advanced. -/
def fresh (s : State) : Word × State := (Config.freeWord s.free, { s with free := s.free + 1 })

/-- `n` free bytes. -/
def freshBytes (s : State) : Nat → List Byte × State
  | 0 => ([], s)
  | n + 1 =>
    let (w, s) := fresh s
    let (bs, s) := freshBytes s n
    (byteOf w.toNat 0 :: bs, s)

/-- The state with the data that a command returns. -/
def respond (s : State) (l : List Nat) : State := { s with resp := l }

/-! ## Page interrupts (R384, R391) -/

/-- `c` is a child page of the QUILL Folio `page`, or of ROOT (R388). -/
def isChild (page c : Nat) : Bool :=
  if page = 0 then c != 0 && c < 0x200000 && (c < 0x100000 || c % 0x10000 = 0)
  else page < c && c < page + 0xE000

/-- PG_STAT.fault of a page that is no Folio: the unit is fenced, lost or FAULTED, or it reported FATAL (R384). -/
def pageFault (s : State) (page : Nat) : Bool :=
  flag s (Reg.PG_STAT page) 3 ||
  match pageAt (page / 0x1000) with
  | some (.nib, n) => (nib s n).fenced
  | some (.part, p) => partState s p = 7
  | some (.ddr, c) => fld s (Reg.DDR_STAT c) 9 8 ≠ 0
  | _ => false

/-- The pages that can hold a fault: those with a listed PG_STAT, a listed Nib, PART_STAT or DRAM channel. -/
def faultPages (s : State) : List Nat :=
  ((s.regs.map Prod.fst).filter (fun a => a % 0x1000 = 0x10 && a < 0x1000000)).map (fun a => a - 0x10)
  ++ (s.nibs.map Prod.fst).map Reg.nibPage ++ (List.range 16).map Reg.partPage ++ (List.range 4).map Reg.ddrPage

/-- PG_IRQ_RAW of a QUILL Folio (R391). -/
def quillRaw (s : State) (page : Nat) : Word :=
  word ((s.regs.any (fun e => isChild page (e.1 - e.1 % 0x1000) && e.1 % 0x1000 = 0x14 && decide (e.2 &&& reg s (e.1 + 4) ≠ 0))).toNat
    + 2 * (s.regs.any (fun e => isChild page (e.1 - e.1 % 0x1000) && e.1 % 0x1000 = 0x20)).toNat
    + 4 * ((faultPages s).any (fun p => isChild page p && pageFault s p)).toNat)

/-- PG_IRQ_OUT of a page that is not ROOT. -/
def irqOutLocal (s : State) (page : Nat) : Word :=
  match pageAt (page / 0x1000) with
  | some (.quill, _) => quillRaw s page &&& reg s (Reg.PG_IRQ_EN page)
  | _ => reg s (Reg.PG_IRQ_RAW page) &&& reg s (Reg.PG_IRQ_EN page)

/-- The pages with a listed interrupt register, and the QUILL Folios with an interrupt enabled. -/
def irqPages (s : State) : List Nat :=
  ((s.regs.map Prod.fst).filter (fun a => a % 0x1000 = 0x14 && a < 0x1000000)).map (fun a => a - 0x14)
  ++ ((s.regs.map Prod.fst).filter (fun a => a % 0x10000 = 0x18 && 0x100000 ≤ a && a < 0x1000000)).map (fun a => a - 0x18)

/-- A window's peer is declared down: a member port of a manager whose link has gone down (R296). -/
def peerDown (s : State) (k : Nat) : Bool := flag s (Reg.SK_PMERGE k) 31 && flag s (Reg.SK_PSTAT k) 29

/-- Word `i` of the ROOT status last polled from the peer of port `k`, while it is a member and not declared down: 0
PG_STAT, 1 PG_IRQ_OUT, 2 PG_ERR_STICKY, 3 PG_FERR_SRC (R393). -/
def polledWord (s : State) (k i : Nat) : Word :=
  if flag s (Reg.SK_PMERGE k) 31 ∧ ¬ flag s (Reg.SK_PSTAT k) 29 then (port s k).polled.getD i 0 else 0

/-- PG_IRQ_RAW of ROOT (R391). -/
def rootRaw (s : State) : Word :=
  let peers := s.ports.map Prod.fst
  word (((irqPages s).any (fun p => isChild 0 p && decide (irqOutLocal s p ≠ 0)) || peers.any (fun k => polledWord s k 1 ≠ 0)).toNat
    + 2 * (s.regs.any (fun e => isChild 0 (e.1 - e.1 % 0x1000) && e.1 % 0x1000 = 0x20) || peers.any (fun k => polledWord s k 2 ≠ 0)).toNat
    + 4 * ((faultPages s).any (fun p => decide (p ≠ 0) && pageFault s p) || peers.any (fun k => bit (polledWord s k 0) 3 || peerDown s k)).toNat
    + 8 * ((s.ports.map Prod.fst).any (fun k => peerDown s k)).toNat)

/-- PG_IRQ_OUT of a page (R384, R391). -/
def irqOut (s : State) (page : Nat) : Word :=
  if page = 0 then rootRaw s &&& reg s (Reg.PG_IRQ_EN 0) else irqOutLocal s page

/-- The vector of a page that has one of its own (R391). -/
def pageVector (page : Nat) : Option Nat :=
  match pageAt (page / 0x1000) with
  | some (.mgt, _) => some 1
  | some (.phase, _) => some 2
  | some (.signet, _) => some 3
  | some (.perf, _) => some 8
  | some (.part, p) => some (64 + 8 * p + 2)
  | _ => none

/-- Some page without a vector of its own has an interrupt out (vector 9 of R391). -/
def sharedIrq (s : State) : Bool :=
  decide (irqOut s 0 ≠ 0) || (irqPages s).any (fun p => (pageVector p).isNone && decide (irqOutLocal s p ≠ 0))

/-- Run `f` and fire the vectors whose condition rises over it: each page's own, and vector 9 (R391). -/
def withIrq (f : State → State) (s : State) : State :=
  let s' := f s
  let own := (irqPages s').filterMap (fun p =>
    match pageVector p with
    | some v => if irqOutLocal s p = 0 ∧ irqOutLocal s' p ≠ 0 then some (Out.msix v) else none
    | none => none)
  let shared := if !sharedIrq s && sharedIrq s' then [Out.msix 9] else []
  { s' with out := s'.out ++ own ++ shared }

/-- Set PG_IRQ_RAW bit `i` of a page. -/
def irq (s : State) (page i : Nat) : State := withIrq (fun s => setFlag s (Reg.PG_IRQ_RAW page) i true) s

/-- PH_STAT.running changes: interrupt bit 4 or 5 (R35). -/
def setRunning (s : State) (b : Bool) : State :=
  if flag s Reg.PH_STAT 3 = b then s else irq (setFlag s Reg.PH_STAT 3 b) Reg.phasePage (if b then 4 else 5)

/-! ## Error records (R321–R324, R334, R392) -/

/-- PG_ID.type of a page kind (R398); a window's registers belong to its PART page. -/
def kindType : PageKind → Nat
  | .root => 0x0001 | .mgt => 0x0010 | .phase => 0x0011 | .blotter => 0x0012 | .signet => 0x0013 | .pcie => 0x0014
  | .mgtnet => 0x0015 | .boot => 0x0016 | .test => 0x0017 | .perf => 0x0018 | .lane => 0x0020 | .sgroup => 0x0021
  | .stylus => 0x0030 | .copybook => 0x0031 | .quill => 0x0040 | .nib => 0x0041 | .locks => 0x0042 | .helper => 0x0043
  | .ductus => 0x0050 | .ligature => 0x0051 | .ruling => 0x0052 | .inkwell => 0x0053 | .scroll => 0x0054
  | .copyist => 0x0055 | .ddr => 0x0056 | .part => 0x0060 | .window => 0x0060 | .skovub => 0x0061

/-- PG_ID.instance of a page (R385). -/
def kindNumber : PageKind × Nat → Nat
  | (.helper, k) => k / 4
  | (_, n) => n

/-- Index of a page's entry in the ROOT child table (R388); a page inside a Quill counts as its QUILL page. -/
def rootIndex : PageKind × Nat → Nat
  | (.mgt, _) => 0 | (.phase, _) => 1 | (.blotter, _) => 2 | (.signet, _) => 3 | (.pcie, _) => 4 | (.mgtnet, _) => 5
  | (.boot, _) => 6 | (.test, _) => 7 | (.perf, _) => 8 | (.sgroup, g) => 10 + g | (.lane, n) => 14 + n
  | (.stylus, _) => 142 | (.copybook, _) => 143 | (.ductus, _) => 144 | (.ligature, _) => 145 | (.ruling, _) => 146
  | (.inkwell, _) => 147 | (.scroll, _) => 148 | (.copyist, _) => 149 | (.ddr, c) => 150 + c | (.part, p) => 154 + p
  | (.window, p) => 154 + p | (.skovub, k) => 170 + k | (.quill, q) => 202 + q | (.locks, q) => 202 + q
  | (.helper, k) => 202 + k / 4 | (.nib, n) => if n = 128 then 9 else 202 + n / 8 | (.root, _) => 0

/-- Index of a page's entry in its QUILL table, with the Quill (R388). -/
def quillIndex : PageKind × Nat → Option (Nat × Nat)
  | (.nib, n) => if n = 128 then none else some (n / 8, n % 8)
  | (.locks, q) => some (q, 8)
  | (.helper, k) => some (k / 4, 9 + k % 4)
  | _ => none

/-- An error as a page reports it (R321). -/
structure Report where
  page : Nat
  src : Nat
  sev : Nat := 0
  access : Nat := 5
  mid : Nat := 0
  addr : Nat := 0
  /-- The partition that the error is attributed to. -/
  pid : Option Nat := none
  deriving DecidableEq, Repr

/-- The partition that a page's errors are attributed to, where it has one. -/
def pagePid (s : State) (page : Nat) : Option Nat :=
  match pageAt (page / 0x1000) with
  | some (.nib, n) => if n = 128 then none else some (nibPid s n)
  | some (.lane, n) => some (lanePid s n)
  | some (.part, p) => some p
  | some (.window, p) => some p
  | _ => none

/-- The partition of a report. -/
def Report.part (r : Report) (s : State) : Option Nat := match r.pid with
  | some p => some p
  | none => pagePid s r.page

/-- The page header that a report of `page` reaches: a window's errors are its PART page's (R282). -/
def headerPage (page : Nat) : Nat :=
  match pageAt (page / 0x1000) with
  | some (.window, p) => Reg.partPage p
  | _ => page

/-- Capture a report in a page's first-error registers while none is held (R322); `src` is the code stored. -/
def capture (s : State) (page src : Nat) (r : Report) : State :=
  if flag s (Reg.PG_FERR_SRC page) 31 then s
  else if flag s (Reg.PG_ERR_MODE page) 0 then
    let s := setReg s (Reg.PG_FERR_SRC page) (word (0x80000000 + (r.access % 16) * 65536 + (r.mid % 256) * 256 + src % 256))
    let s := setReg s (Reg.PG_FERR_ADDR_LO page) (word r.addr)
    let s := setReg s (Reg.PG_FERR_ADDR_HI page) (word (r.addr / 2 ^ 32))
    let ps := psNat (psEvent s)
    setReg (setReg s (Reg.PG_FERR_PHASE_LO page) (word ps)) (Reg.PG_FERR_PHASE_HI page) (word (ps / 2 ^ 32))
  else
    let s := setReg s (Reg.PG_FERR_SRC page) (word (0x80000000 + src % 256))
    let s := setReg (setReg s (Reg.PG_FERR_ADDR_LO page) 0) (Reg.PG_FERR_ADDR_HI page) 0
    setReg (setReg s (Reg.PG_FERR_PHASE_LO page) 0) (Reg.PG_FERR_PHASE_HI page) 0

/-- Sticky bit, capture and severity count of one report on one page (R321, R322). -/
def recordOn (s : State) (page : Nat) (r : Report) : State :=
  let s := setFlag s (Reg.PG_ERR_STICKY page) (if r.src < 31 then r.src else 31) true
  let s := capture s page r.src r
  count s (Reg.BL_COUNT r.sev)

/-- The Folios above a page capture its report under their own child index (R392). -/
def recordFolios (s : State) (r : Report) : State :=
  match pageAt (r.page / 0x1000) with
  | none => s
  | some k =>
    if k.1 = .root then s else
    let s := match quillIndex k with
      | some (q, i) => capture (setFlag s (Reg.PG_ERR_STICKY (Reg.quillPage q)) r.sev true) (Reg.quillPage q) i r
      | none => s
    capture (setFlag s (Reg.PG_ERR_STICKY 0) r.sev true) 0 (rootIndex k) r

/-- The Blotter's first report of CONTAIN or higher (R324). -/
def recordFirst (s : State) (r : Report) : State :=
  if r.sev = 0 ∨ flag s Reg.BL_FIRST_PAGE 31 then s
  else
    let ps := psNat (psEvent s)
    let s := setReg s Reg.BL_FIRST_PAGE (word (0x80000000 + r.sev * 65536 + r.page / 0x1000 % 0x4000))
    let s := setReg (setReg s Reg.BL_FIRST_PHASE_LO (word ps)) Reg.BL_FIRST_PHASE_HI (word (ps / 2 ^ 32))
    setReg s Reg.BL_FIRST_SRC (reg s (Reg.PG_FERR_SRC r.page))

/-- The 32 bytes of a log record (R334). -/
def logRecord (s : State) (r : Report) : List Byte :=
  let k := (pageAt (r.page / 0x1000)).getD (.root, 0)
  let at8 : Nat := match r.part s with
    | some p => 0x80 + p
    | none => 0
  let body := leBytes 4 (reg s Reg.BL_LOG_HEAD).toNat ++ leBytes 2 (kindType k.1) ++ leBytes 1 (kindNumber k)
    ++ leBytes 1 r.src ++ leBytes 1 r.sev ++ leBytes 1 r.access ++ leBytes 1 r.mid ++ leBytes 1 at8
    ++ leBytes 8 r.addr ++ leBytes 8 (psNat (psEvent s))
  body ++ leBytes 4 (crc32c body).toNat

/-- Write a report to the log, or set log_lost and record source 0x07 (R334, R347). -/
def recordLog (s : State) (r : Report) : State :=
  if r.sev = 0 ∧ ¬ flag s Reg.BL_CTL 0 then s
  else
    let head := (reg s Reg.BL_LOG_HEAD).toNat
    if domainOn s 2 ∧ (head + 2 ^ 32 - (reg s Reg.BL_LOG_TAIL).toNat) % 2 ^ 32 < 1024 then
      setReg (wrBytes s (0xFFF8000 + 32 * (head % 1024)) (logRecord s r)) Reg.BL_LOG_HEAD (word (head + 1))
    else recordOn (setFlag s Reg.BL_SUMMARY 28 true) Reg.blotterPage { page := Reg.blotterPage, src := 0x07 }

/-- PG_IRQ_RAW bit that a page's source sets, where its chapter ties one to it (R166, R187, R210, R233, R251, R265, R282,
R320, R357, R382). -/
def irqOfSource : PageKind → Nat → Option Nat
  | .nib, 0 => some 0 | .nib, 1 => some 1
  | .locks, 1 => some 0
  | .helper, 1 => some 0
  | .ductus, 2 => some 0 | .ductus, 3 => some 1 | .ductus, 5 => some 2
  | .ligature, n => if n < 2 then some n else none
  | .copyist, n => if n < 2 then some n else none
  | .ruling, n => if n < 2 then some n else none
  | .scroll, 3 => some 0
  | .inkwell, 1 => some 0
  | .ddr, 4 => some 1 | .ddr, 1 => some 2
  | .part, 5 => some 2 | .window, 5 => some 2
  | .signet, 0 => some 0 | .signet, 3 => some 2 | .signet, 4 => some 2
  | .mgt, 2 => some 1
  | .pcie, n => if n < 3 then some n else none
  | .mgtnet, n => if n < 2 then some n else none
  | .boot, n => if n < 2 then some n else none
  | .test, n => if n < 2 then some n else none
  | _, _ => none

/-- Everything that a report records, before the reaction of its severity: sticky bit, captures, counts, the first
report, the log, the page interrupt (R321, R322, R324, R334, R392). -/
def record (s : State) (r : Report) : State :=
  let r := { r with page := headerPage r.page }
  withIrq (fun s =>
    let s := recordOn s r.page r
    let s := recordFolios s r
    let s := recordLog (recordFirst s r) r
    match pageAt (r.page / 0x1000) with
    | some (k, _) => match irqOfSource k r.src with
      | some i => setFlag s (Reg.PG_IRQ_RAW r.page) i true
      | none => s
    | none => s) s

/-- A NOTE of a page (R325). A check or a timer that no master's access meets captures MID 0x00 (DESIGN CHOICE, log entry
173). -/
def note (s : State) (page src : Nat) (access : Nat := 5) (mid : Nat := 0) (addr : Nat := 0) : State :=
  record s { page := page, src := src, access := access, mid := mid, addr := addr }

/-- The MIDs that R3 gives a master, in order: 251 of them. -/
def masterMid (k : Nat) : Nat := if k < 135 then k else if k < 139 then k + 1 else k + 5

/-- The master of the write under way. A command that stands for a register write names none: its MID is then free among
the masters of R3 (log entry 8). -/
def writerMid (s : State) : Nat × State :=
  match s.writer with
  | some (mid, _) => (mid, s)
  | none =>
    let (f, s) := fresh s
    (masterMid (f.toNat % 251), s)

/-- A register write refused: a NOTE of access type 6 with its master and address (R3, R323). -/
def refuseWrite (s : State) (page src : Nat) (a : Nat := 0) : State :=
  let addr := match s.writer with
    | some (_, addr) => addr
    | none => a
  let (mid, s) := writerMid s
  note s page src 6 mid addr

/-- Take an armed injection of a check source of a page: whether the next access to that check fails, and its flip code
(R337). -/
def takeInjection (s : State) (page src : Nat) : Option Nat × State :=
  let w := reg s (Reg.PG_INJECT page)
  if bit w 31 ∧ bits w 7 0 = src then (some (bits w 17 16), setFlag s (Reg.PG_INJECT page) 31 false) else (none, s)

/-! ## Signet journal queue and tallies (R303, R309, R312) -/

/-- Count `n` in a tally of set `set` (16 is the device set); a tally stops at twenty nines (R303). -/
def tally (s : State) (set i n : Nat) : State :=
  let k := 32 * set + i
  { s with signet := { s.signet with
      tallies := Tbl.set (fun _ => 0) s.signet.tallies k (sat 99999999999999999999 (Tbl.get (fun _ => 0) s.signet.tallies k + n)) } }

/-- A journal record that is lost: JOURNAL_LOST and source 0x00 (R309). -/
def journalLost (s : State) : State := note (tally s 16 5 1) Reg.signetPage 0x00

/-- Queue a journal record for partition nibble `pid` (0xF the device) with its six data bytes (R309, R310). -/
def journal (s : State) (ty pid : Nat) (data : List Byte) : State :=
  if ¬ flag s Reg.SIG_STAT 28 ∨ 64 ≤ s.signet.queue.length then journalLost s
  else { s with signet := { s.signet with queue := s.signet.queue ++ [(ty, pid, psEvent s, slice data 0 6)] } }

/-! ## Threads: leaving waits, parking, waking (R145–R147, R153) -/

/-- Thread `t` leaves every reader order and lock queue (R146, R147). -/
def leaveWaits (s : State) (t : Nat) : State :=
  let n := nibOf t
  { s with
    chans := s.chans.foldl (fun c e => if e.1 / 32 = n then
        Tbl.set (fun _ => {}) c e.1 { e.2 with readers := e.2.readers.filter (· ≠ t) } else c) s.chans
    locks := s.locks.foldl (fun l e => if e.1 / 256 = n / 8 then
        Tbl.set (fun _ => {}) l e.1 { e.2 with queue := e.2.queue.filter (· ≠ t) } else l) s.locks
    nibs := if (nib s n).pullers.contains t then
        Tbl.set (fun _ => {}) s.nibs n { nib s n with pullers := (nib s n).pullers.filter (· ≠ t) } else s.nibs }

/-- Park a thread at its instruction boundary: a blocked IN is abandoned and THR_PC addresses it (R147). A HALTED
thread leaves its waits too, and returns to PARKED when resumed (DEDUCED, log entry 12). -/
def parkThread (s : State) (t : Nat) : State :=
  match (thread s t).state with
  | .running => modThread s t (fun th => { th with state := .parked, pfx := .none, load := none, stepping := false })
  | .blocked => modThread (leaveWaits s t) t (fun th => { th with state := .parked, waitPort := none, pfx := .none, stepping := false })
  | .halted => modThread (leaveWaits s t) t (fun th => { th with before := .parked, waitPort := none, pfx := .none })
  | _ => s

/-- Park every thread of a partition (R147, R270, R272). -/
def parkPartition (s : State) (p : Nat) : State :=
  (listedThreads s (fun t => t < 1024 && tidPid s t = p)).foldl parkThread s

end Sys2Proof.Machine
end

