-- ==== Sys2Proof/Machine/DuctusOps.lean ====
section
/-! DEFINITION. The Ductus as other blocks see it: template words, instances, tokens, lists and rings, cancelling and
closing (R188–R208). The Ductus port and its own events are in Ductus.lean. -/

namespace Sys2Proof.Machine

/-- A free choice among the numbers below `n` that `used` does not hold: the spec says that an unused number is taken
and not which, so the search starts at a free value (log entry 9). -/
def pick (s : State) (n : Nat) (used : Nat → Bool) : Option Nat × State :=
  let start := (Config.freeWord s.free).toNat % n
  (((List.range n).map (fun i => (start + i) % n)).find? (fun k => !used k), { s with free := s.free + 1 })

/-! ## Templates (R188, R189) -/

/-- Memory key of template `t`. -/
def tplBase (t : Nat) : Nat := 0xF800000 + 0x800 * t
/-- Header word `i` of template `t`. -/
def tplWord (s : State) (t i : Nat) : Word := rdWord s (tplBase t + 4 * i)
/-- Word `i` of node `n` of template `t`. -/
def nodeWord (s : State) (t n i : Nat) : Word := rdWord s (tplBase t + 0x40 + 16 * n + 4 * i)
/-- h0.pid. -/
def tplPid (s : State) (t : Nat) : Nat := bits (tplWord s t 0) 27 24
/-- h0.last. -/
def tplLast (s : State) (t : Nat) : Nat := bits (tplWord s t 0) 21 16
/-- h3.tmask. -/
def tplMask (s : State) (t : Nat) : Nat := bits (tplWord s t 3) 31 16
/-- Node field inputs. -/
def nodeInputs (s : State) (t n : Nat) : Nat := bits (nodeWord s t n 0) 26 23
/-- Node field final. -/
def nodeFinal (s : State) (t n : Nat) : Bool := bit (nodeWord s t n 0) 30
/-- Node field hint. -/
def nodeHint (s : State) (t n : Nat) : Nat := bits (nodeWord s t n 0) 29 27
/-- Node field home. -/
def nodeHome (s : State) (t n : Nat) : Nat := bits (nodeWord s t n 0) 22 16
/-- Node field not_before. -/
def nodeNotBefore (s : State) (t n : Nat) : Nat := bits (nodeWord s t n 3) 13 0
/-- Edge `i` (0 to 3) of a node as its 16 bits: edge 0 in w1 [15:0], edge 1 in w1 [31:16], and so on. -/
def nodeEdge (s : State) (t n i : Nat) : Nat := bits (nodeWord s t n (1 + i / 2)) (16 * (i % 2) + 15) (16 * (i % 2))
/-- The edge's valid bit, input slot and target node. -/
def edgeValid (e : Nat) : Bool := (e >>> 15) % 2 = 1
def edgeSlot (e : Nat) : Nat := (e >>> 8) % 8
def edgeNode (e : Nat) : Nat := e % 64
/-- Some node of the template is final. -/
def tplFinal (s : State) (t : Nat) : Bool := (List.range (tplLast s t + 1)).any (nodeFinal s t)

/-- The deadline of crossing `b` (R26). -/
def deadline (s : State) (b : Nat) : Nat := b + lat s - guard s

/-- From its deadline on an instance's EMIT, DECIDE and tokens are late (R194, R208). -/
def instLate (s : State) (x : Inst) : Bool := x.closed || decide (deadline s x.b ≤ s.phase.count)

/-- The Ductus takes what comes to it: its domain is on and its page is not frozen (R386). -/
def dxTakes (s : State) : Bool := starts s Reg.ductusPage
/-- Its enable fields act: PG_CTL.enable is 1 (R386). -/
def dxEnabled (s : State) : Bool := flag s (Reg.PG_CTL Reg.ductusPage) 0

/-! ## Decision slots -/

/-- Change the decision slot of partition `p` and crossing `b`. -/
def modDecision (s : State) (p b : Nat) (f : Decision → Decision) : State :=
  { s with decisions := s.decisions.map (fun d => if d.p = p ∧ d.b = b then f d else d) }

/-- The decision slot of partition `p` and crossing `b`, while its record is unreleased. -/
def findDecision (s : State) (p b : Nat) : Option Decision := s.decisions.find? (fun d => d.p = p && d.b = b)

/-! ## Instances -/

/-- Instance number `i`. -/
def findInst (s : State) (i : Nat) : Option Inst := s.ductus.insts.find? (fun x => x.num = i)
/-- Change instance number `i`. -/
def modInst (s : State) (i : Nat) (f : Inst → Inst) : State :=
  { s with ductus := { s.ductus with insts := s.ductus.insts.map (fun x => if x.num = i then f x else x) } }
/-- The operation with handle `h`. -/
def findOp (s : State) (h : Nat) : Option Op := s.ductus.ops.find? (fun o => o.handle = h)
/-- Change the operation with handle `h`. -/
def modOp (s : State) (h : Nat) (f : Op → Op) : State :=
  { s with ductus := { s.ductus with ops := s.ductus.ops.map (fun o => if o.handle = h then f o else o) } }
/-- The list of a Nib, oldest first. -/
def dxList (s : State) (n : Nat) : List Nat := Tbl.get (fun _ => []) s.ductus.lists n
/-- Store the list of a Nib. -/
def setDxList (s : State) (n : Nat) (l : List Nat) : State :=
  { s with ductus := { s.ductus with lists := Tbl.set (fun _ => []) s.ductus.lists n l } }
/-- The spill ring of a partition, oldest first: each entry's operation, or none once that is cancelled. -/
def dxRing (s : State) (p : Nat) : List (Option Nat) := Tbl.get (fun _ => []) s.ductus.rings p
/-- Store the spill ring of a partition. -/
def setDxRing (s : State) (p : Nat) (l : List (Option Nat)) : State :=
  { s with ductus := { s.ductus with rings := Tbl.set (fun _ => []) s.ductus.rings p l } }

/-- Tokens in the token store: those of every instance but for the operations whose tokens a ring holds (R196, R200). -/
def tokensUsed (s : State) : Nat :=
  (s.ductus.insts.map (fun x => (x.tokens.filter (fun k => !s.ductus.ops.any (fun o => o.inst = x.num && o.node = k.node &&
    (match o.place with | .ring _ => true | _ => false)))).length)).sum

/-- Resident operations of a partition: those on lists (R198). -/
def resident (s : State) (p : Nat) : Nat :=
  (s.ductus.ops.filter (fun o => match o.place with
    | .list n => nibPid s n = p
    | _ => false)).length

/-- Create an instance of template `t` for crossing `b`, with its status (R192, R193, R205). -/
def createInst (s : State) (t b : Nat) (ps : PS) : State × Byte :=
  if s.ductus.insts.any (fun x => x.tpl = t && x.b = b) then (s, stAlready)
  else match pick s 32768 (fun k => s.ductus.insts.any (fun x => x.num = k)) with
    | (none, s) => (note (count s Reg.DX_INST_DROP) Reg.ductusPage 0x03, stFull)
    | (some k, s) =>
      let p := tplPid s t
      let x : Inst := { num := k, tpl := t, pid := p, b := b, ps := ps, epoch := partEpoch s p,
                        nodes := List.replicate (tplLast s t + 1) .waiting, tokens := [], decided := false,
                        closed := false, cancelled := 0 }
      let s := { s with ductus := { s.ductus with insts := s.ductus.insts ++ [x] } }
      (if tplFinal s t then modDecision s p b (fun d => { d with finals := d.finals + 1 }) else s, stOk)

/-- Take an operation out of the list or ring that holds it; its ring entry keeps its place until refill discards it (R200;
DEDUCED, log entry 181). -/
def unplace (s : State) (o : Op) : State :=
  match o.place with
  | .list n => setDxList s n ((dxList s n).filter (· ≠ o.handle))
  | .ring p => setDxRing s p ((dxRing s p).map (fun e => if e = some o.handle then none else e))
  | .held _ => s

/-- Remove an operation for good: its handle is free (R203). -/
def dropOp (s : State) (o : Op) : State :=
  let s := unplace s o
  { s with ductus := { s.ductus with ops := s.ductus.ops.filter (fun q => q.handle ≠ o.handle) } }

/-- Set the state of one node. -/
def setNode (x : Inst) (n : Nat) (v : NodeState) : Inst := { x with nodes := x.nodes.set n v }

/-- Cancel an undelivered operation: counted as never run (R194, R206). -/
def cancelOp (s : State) (o : Op) : State :=
  let s := dropOp s o
  match findInst s o.inst with
  | none => s
  | some x => count (modInst s o.inst (fun x => { setNode x o.node .cancelled with
      tokens := x.tokens.filter (fun k => k.node ≠ o.node), cancelled := x.cancelled + 1 })) (Reg.DX_PCANCEL x.pid)

/-- Cancel node `n` of an instance, if it has not been delivered (R194). -/
def cancelNode (i : Nat) (s : State) (n : Nat) : State :=
  match findInst s i with
  | none => s
  | some x =>
    match x.nodes.getD n .done with
    | .waiting => count (modInst s i (fun x => { setNode x n .cancelled with
        tokens := x.tokens.filter (fun k => k.node ≠ n), cancelled := x.cancelled + 1 })) (Reg.DX_PCANCEL x.pid)
    | .ready => match s.ductus.ops.find? (fun o => o.inst = i && o.node = n) with
      | some o => match o.place with
        | .held _ => s
        | _ => cancelOp s o
      | none => s
    | _ => s

/-- Close an instance: everything not yet delivered is cancelled, and from now on its EMIT, DECIDE and tokens are late
(R194). -/
def closeInst (s : State) (i : Nat) : State :=
  match findInst s i with
  | none => s
  | some x => modInst ((List.range x.nodes.length).foldl (cancelNode i) s) i (fun x => { x with closed := true })

/-- Close every open instance that `f` selects. -/
def closeInsts (s : State) (f : Inst → Bool) : State :=
  ((s.ductus.insts.filter (fun x => f x && !x.closed)).map (·.num)).foldl closeInst s

/-- Commit a token into an instance, with its status (R194, R196, R197). -/
def putToken (s : State) (i node slot : Nat) (words : List Word) : State × Byte :=
  match findInst s i with
  | none => (s, stRefused)
  | some x =>
    if instLate s x then (s, stLate)
    else if nodeInputs s x.tpl node ≤ slot ∨ x.nodes.length ≤ node then (s, stRefused)
    else if x.tokens.any (fun k => k.node = node && k.slot = slot) then (s, stAlready)
    else if x.nodes.getD node .done ≠ .waiting then (s, stRefused)
    else if 131072 ≤ tokensUsed s then (note (count s Reg.DX_TOKEN_FULL) Reg.ductusPage 0x04, stFull)
    else (modInst s i (fun x => { x with tokens := x.tokens ++ [{ node := node, slot := slot, words := words }] }), stOk)

/-- The unfenced Nibs of a partition. -/
def liveNibs (s : State) (p : Nat) : List Nat :=
  (List.range 128).filter (fun n => nibPid s n = p && !(nib s n).fenced)

/-- The first of a list of Nibs with the least value of `f`. -/
def argMin (f : Nat → Nat) : List Nat → Option Nat
  | [] => none
  | n :: ns => match argMin f ns with
    | none => some n
    | some m => if f n ≤ f m then some n else some m

/-- The first of a list of Nibs with the greatest value of `f`. -/
def argMax (f : Nat → Nat) : List Nat → Option Nat
  | [] => none
  | n :: ns => match argMax f ns with
    | none => some n
    | some m => if f m ≤ f n then some n else some m

/-- Note a Nib's list depth for the load window (R209). -/
def noteDepth (s : State) (n : Nat) : State :=
  let d := (dxList s n).length
  if Tbl.get (fun _ => 0) s.ductus.depthMax n < d then
    { s with ductus := { s.ductus with depthMax := Tbl.set (fun _ => 0) s.ductus.depthMax n d } }
  else s

/-- Put a ready operation on the tail (or head) of a Nib's list. -/
def putOnList (s : State) (h n : Nat) (atHead : Bool) : State :=
  let s := modOp s h (fun o => { o with place := .list n })
  noteDepth (setDxList s n (if atHead then h :: dxList s n else dxList s n ++ [h])) n

end Sys2Proof.Machine
end

