-- ==== Sys2Proof/Machine/Faults.lean ====
section
/-! DEFINITION. Severities and reactions: what a report of CONTAIN, DEGRADE or FATAL does beside being recorded
(R325–R328), and the severity of every page's sources. -/

namespace Sys2Proof.Machine

/-- ALIVE stops at its present level: the Signet counts ALIVE_STOPS and writes the record once per stop (R305, R326,
R335). `code` is 1 FATAL, 2 Steward watchdog, 3 reset held. -/
def stopAlive (s : State) (code : Nat) : State :=
  if s.blotter.aliveStopped then s
  else
    let s := { s with blotter := { s.blotter with aliveStopped := true } }
    journal (tally s 16 1 1) 0x0A 0xF [byteOf code 0]

/-- Crossings of partition `p` are admitted: the device admits (PH_STAT.running, R14) and the partition does (R270). -/
def admits (s : State) (p : Nat) : Bool := flag s Reg.PH_STAT 3 && (part s p).admitting

/-- The ACC_OUT pairs drive 0 (R23, R326). -/
def accZero (s : State) : State := emit { s with accOuts := [] } (.accOut s.phase.count 0)

/-- The reaction to FATAL (R326): admission ends, the frames being sent are stomped, the ACC_OUT pairs drive 0, ALIVE stops. That no Nib issues, no
record is released, no flit is sent and no frame selected follows from BL_SUMMARY.fatal. -/
def fatalReaction (s : State) : State :=
  if fatal s then s
  else
    let s := setFlag s Reg.BL_SUMMARY 31 true
    let s := { s with lanes := s.lanes.map (fun e => (e.1, { e.2 with tx := e.2.tx.map (fun f => { f with stomp := true }) }))
                      mgt := { s.mgt with seq := none, switches := [] } }
    let s := setFlag s Reg.MODE_CUR 31 false
    stopAlive (setRunning (accZero s) false) 1

/-- A CONTAIN fault makes an ACTIVE, DRAINING or FROZEN partition FAULTED: admission stops, its threads are parked, its
Ductus instances are cancelled, PART source 0x05 is recorded (R270, R325, R345). -/
def faultPartition (s : State) (p : Nat) : State :=
  let s := setFlag s Reg.BL_SUMMARY p true
  if partState s p = 3 ∨ partState s p = 4 ∨ partState s p = 5 then
    let s := setFld s (Reg.PART_STAT p) 18 16 7
    let s := setFlag s (Reg.PART_STAT p) 31 false
    let s := modPart s p (fun q => { q with admitting := false, startPend := false, startDue := false, stopPend := false,
                                             toFrozen := false, saving := false, restoring := none })
    let s := parkPartition s p
    let s := closeInsts s (fun x => x.pid = p)
    let s := record s { page := Reg.partPage p, src := 0x05, sev := 1, pid := some p }
    irq s (Reg.partPage p) 1
  else s

/-- Record an error and take the reaction of its severity (R325, R326). -/
def report (s : State) (r : Report) : State :=
  let s := record s r
  match r.sev with
  | 0 => s
  | 1 => match r.part s with
    | some p => faultPartition s p
    | none => s
  | 2 => emit (setFlag s Reg.BL_SUMMARY 30 true) (.msix 0)
  | _ => emit (fatalReaction (setFlag s (Reg.PG_STAT r.page) 3 true)) (.msix 0)

/-- BL_RECOVERY_STAT.active follows the open fault intervals (R331). -/
def intervalShown (s : State) : State := setFlag s Reg.BL_RECOVERY_STAT 31 (!s.blotter.intervals.isEmpty)

/-- Tick `t` lies in a fault interval: from its opening to the tick after its last step, both included (R329). -/
def inside (i : Interval) (t : Nat) : Bool := decide (i.opened ≤ t) && i.done.all (fun c => decide (t ≤ c + 1))

/-- A slot whose deadline falls on a tick of an open interval of its partition is released with cause FAULT (R329). -/
def faultMarked (s : State) (d : Decision) : Decision :=
  { d with fault := d.fault || s.blotter.intervals.any (fun i => bit i.parts d.p && inside i (d.b + lat s - guard s)) }

/-- A recovery opens a fault interval at the crossing tick of its detection (R329, R331). -/
def openInterval (s : State) (kind unit : Nat) (parts : BitVec 16) : State :=
  let s := { s with blotter := { s.blotter with intervals := s.blotter.intervals ++
      [{ kind := kind, unit := unit, parts := parts, opened := s.phase.count }] } }
  showRecovery s kind unit

/-- The last step of a recovery is complete: its interval closes at a coming tick (R329). The time that it took is not
modelled, so BL_RECOVERY_STAT.elapsed is free (log entry 39). -/
def recoveryDone (s : State) (kind unit : Nat) : State :=
  let (e, s) := fresh s
  let s := { s with blotter := { s.blotter with intervals := s.blotter.intervals.map (fun i =>
    if i.kind = kind ∧ i.unit = unit ∧ i.done.isNone then { i with done := some s.phase.count } else i) } }
  if fld s Reg.BL_RECOVERY_STAT 27 24 = kind ∧ fld s Reg.BL_RECOVERY_STAT 23 16 = unit then
    setFld s Reg.BL_RECOVERY_STAT 15 0 (bits e 15 0) else s

/-- The severity of a page's source (R34, R73, R263, R282, R300, R327, R328, R346, R357). PHASE 0x02 after a whole
orbit without lock, and NIB 0x00 of the supervisor thread (R162), name their severity in their own reports. -/
def severity (s : State) (page src : Nat) : Nat :=
  let run := mode s = 4
  match pageAt (page / 0x1000) with
  | some (.phase, _) => if run ∧ (src = 8 ∨ src = 9) then 2 else 0
  | some (.lane, _) => if run ∧ (src = 0 ∨ src = 1 ∨ src = 6) then 2 else 0
  | some (.skovub, _) => if run ∧ (src = 2 ∨ src = 3) then 2 else 0
  | some (.ddr, c) => if src = 4 then (if recovOk s c then 2 else 3) else 0
  | some (.part, _) => if src = 5 then 1 else 0
  | some (.mgt, _) => if src = 3 ∨ src = 4 then 3 else 0
  | some (.blotter, _) =>
    if src = 1 ∨ src = 2 ∨ src = 5 then 2 else if src = 3 ∨ src = 6 ∨ src = 9 then 3 else if src = 0x0A then 1 else 0
  | _ => 0

/-- Report a source of a page with the severity that the catalogue gives it. -/
def fault (s : State) (page src : Nat) (access : Nat := 5) (mid : Nat := 0) (addr : Nat := 0) (pid : Option Nat := none) : State :=
  report s { page := page, src := src, sev := severity s page src, access := access, mid := mid, addr := addr, pid := pid }

end Sys2Proof.Machine
end

