-- ==== Sys2Proof/Machine/Access.lean ====
section
/-! DEFINITION. What an access to memory meets beside its bytes: bandwidth counting, the check bits, the requests before
the DRAM controllers, and the reads and writes of the hardware's engines (R49, R108, R256, R258, R259, R337, R365). -/

namespace Sys2Proof.Machine

/-! ## Bandwidth (R365) -/

/-- PF_CTL.freeze (R361). -/
def frozenAll (s : State) : Bool := flag s Reg.PF_CTL 0

/-- `k` bytes pass bandwidth port `i` (R365). -/
def bw (s : State) (i k : Nat) : State :=
  if frozenAll s then s
  else { s with perf := { s.perf with
    bytes := Tbl.set (fun _ => 0) s.perf.bytes i ((Tbl.get (fun _ => 0) s.perf.bytes i + k) % 2 ^ 48) } }

/-- The bandwidth port of a Nib: its Quill's, or the Steward's (R365). -/
def nibPort (n : Nat) : Nat := if n = 128 then 16 else n / 8

/-- Bytes that an access to a memory key moves, on the port of the memory it reaches (R365). -/
def bwKey (s : State) (k n : Nat) (write : Bool) : State :=
  if k < 0x8000000 then bw s (if write then 19 else 20) n
  else if k < 0xC000000 then bw s 21 n
  else if k < 0xE000000 then bw s 22 n
  else if k < 0xF800000 then s
  else if k < 0x10000000 then bw s 23 n
  else match (if k < dramBase then none else dramLoc s (k - dramBase)) with
    | some (c, _) => bw s ((if write then 28 else 24) + c) n
    | none => s

/-! ## Check bits (R49, R108, R256, R337) -/

/-- The page that reports a memory's check errors, its source for a corrected word, and the one for an uncorrectable
word where it has one. -/
def checkPage (s : State) (k : Nat) : Option (Nat × Nat × Option Nat) :=
  if k < 0x8000000 then some (Reg.scrollPage, 0, some 1)
  else if k < 0xC000000 then some (Reg.copybookPage, 1, none)
  else if k < 0xE000000 then some (Reg.inkwellPage, 0, none)
  else if k < 0xF800000 then some (Reg.nibPage ((k - 0xE000000) / 0x30000), 5, none)
  else if k < 0xF880000 then some (Reg.ductusPage, 0, none)
  else if k < 0x10000000 then none
  else if k < dramBase then some (Reg.stewardPage, 5, none)
  else match dramPort s (k - dramBase) with
    | some (c, _) => some (Reg.ddrPage c, 0, some 1)
    | none => none

/-- Consecutive uncorrectable reads after one more read; four of them have condemned the rank (R262). -/
def nextBad (n : Nat) (bad : Bool) : Nat := if 4 ≤ n then n else if bad then n + 1 else 0

/-- Count the consecutive uncorrectable reads of a rank (R262). -/
def countRank (s : State) (c k : Nat) (bad : Bool) : State :=
  modDdr s c (fun d => if k = 0 then { d with bad0 := nextBad d.bad0 bad } else { d with bad1 := nextBad d.bad1 bad })

/-- The buffer of an FD is Scroll memory that holds key `k`. -/
def fdCovers (f : FD) (k : Nat) : Bool :=
  bhPool f.w4 = 0 && decide (64 * bhIndex f.w4 ≤ k ∧ k < 64 * bhIndex f.w4 + fdLen f)

/-- The FD, with CHKERR where its frame holds key `k`. -/
def chkFd (k : Nat) (f : FD) : FD := if fdCovers f k then fdSetFlag f 5 else f

/-- An uncorrectable Scroll word sets CHKERR on its frame, wherever the frame's FD waits, or on the FD yet to be built
(R46, R49). -/
def markChk (s : State) (k : Nat) : State :=
  { s with
    dispatchQ := s.dispatchQ.map (chkFd k)
    slots := s.slots.map (fun e => (e.1, e.2.map (fun x => { x with fd := chkFd k x.fd, done := x.done.map (chkFd k) })))
    queues := s.queues.map (fun e => (e.1, e.2.map (chkFd k)))
    xings := s.xings.map (fun e => (e.1, { e.2 with frames := e.2.frames.map (fun g =>
      if 64 * g.line ≤ k ∧ k < 64 * g.line + g.len then { g with chkerr := true } else g) })) }

/-- Count a corrected or uncorrectable word of a DRAM channel, and the consecutive uncorrectable reads of its rank
(R262); an uncorrectable SRAM word is a recovery of kind 4, for which the rules name no unit: 0 (R331; DESIGN CHOICE, log
entry 179). -/
def countCheck (s : State) (k : Nat) (corrected bad : Bool) : State :=
  if k < dramBase then
    let s := if bad then showRecovery s 4 0 else s
    if 0x8000000 ≤ k then s
    else if corrected then count s Reg.SC_CORR
    else if bad then markChk s k else s
  else match dramPort s (k - dramBase) with
  | none => s
  | some (c, off) =>
    let s := if corrected then count s (Reg.DDR_CORR c) else s
    let s := if bad then count s (Reg.DDR_UNCORR c) else s
    countRank s c (rankOf s c off) bad

/-- The check of the word at key `k` as a master reads it with access type `acc` (R323): whether it is uncorrectable, and
what that records. An injection armed on the memory's page meets it (R337): one bit is corrected, more are not. -/
def checkRead (s : State) (k mid : Nat) (acc : Nat := 0) : Bool × State :=
  match checkPage s k with
  | none => (badAt s k, s)
  | some (page, cor, unc) =>
    let report := fun (s : State) (acc : Nat) => match unc with
      | some u => note s page u acc mid k
      | none => s
    let injected := fun (s : State) (flip : Nat) =>
      if flip = 0 then (false, countCheck (note s page cor (8 + acc) mid k) k true false)
      else (true, countCheck (report s (8 + acc)) k false true)
    if badAt s k then (true, countCheck (report s acc) k false true)
    else match takeInjection s page cor with
      | (some flip, s) => injected s flip
      | (none, s) => match unc with
        | none => (false, s)
        | some u => match takeInjection s page u with
          | (some flip, s) => injected s flip
          | (none, s) => (false, countCheck s k false false)

/-! ## DRAM requests (R258) -/

/-- The subchannel of a channel offset: bit 6 (R260). -/
def subOf (off : Nat) : Nat := off / 64 % 2

/-- A key's DRAM channel and offset, if DRAM answers for it. -/
def dramPlace (s : State) (k : Nat) : Option (Nat × Nat) := if k < dramBase then none else dramLoc s (k - dramBase)

/-- The requests of a subchannel. -/
def subReqs (s : State) (c sub : Nat) : List DramReq := if sub = 0 then (ddr s c).reqs0 else (ddr s c).reqs1

/-- Room in the subchannel that an access needs: 64 requests. -/
def dramRoom (s : State) (k : Nat) : Bool :=
  match dramPlace s k with
  | some (c, off) => (subReqs s c (subOf off)).length < 64
  | none => true

/-- Put an access before its DRAM controller. -/
def dramRequest (s : State) (k mid : Nat) (write : Bool) : State :=
  match dramPlace s k with
  | none => s
  | some (c, off) =>
    let r : DramReq := { off := off, order := orderAt s (k - dramBase), mid := mid, write := write }
    modDdr s c (fun d => if subOf off = 0 then { d with reqs0 := d.reqs0 ++ [r] } else { d with reqs1 := d.reqs1 ++ [r] })

/-! ## Engines (R256, R258, R259) -/

/-- The requests of an engine's access to `n` bytes from key `k`: one for each line of 64 bytes. An engine with more lines
than its subchannel has room for presents the others later, which time decides (log entry 145). -/
def dramTraffic (s : State) (k n mid : Nat) (write : Bool) : State :=
  if k < dramBase then s
  else (List.range ((k % 64 + n + 63) / 64)).foldl (fun s i =>
    let j := k - k % 64 + 64 * i
    if dramRoom s j then dramRequest s j mid write else s) s

/-- An engine's access to `n` bytes from key `k`: counted, put before the DRAM controllers, and a decode error of source
0x05 where a DRAM address decodes to nothing. -/
def engineAccess (s : State) (k n mid : Nat) (write : Bool) : State :=
  let s := dramTraffic (bwKey s k n write) k n mid write
  if 0 < n ∧ dramBase ≤ k ∧ (dramMap s (k - dramBase)).isNone then
    note s (Reg.ddrPage 0) 0x05 (if write then 1 else 0) mid (k - dramBase) else s

/-- The check of the 64-bit words that hold `n` bytes from key `k`: whether one is uncorrectable, and what the checks
record. -/
def checkRange (s : State) (k n mid : Nat) (acc : Nat := 0) : Bool × State :=
  (List.range ((k % 8 + n + 7) / 8)).foldl (fun r i =>
    let (b, t) := checkRead r.2 (k - k % 8 + 8 * i) mid acc
    (r.1 || b, t)) (false, s)

/-- An engine reads `n` bytes from key `k`: whether a word is uncorrectable, the bytes, and the state. -/
def engineRead (s : State) (k n mid : Nat) : Bool × List Byte × State :=
  let (bad, s) := checkRange (engineAccess s k n mid false) k n mid
  (bad, rdBytes s k n, s)

/-- An engine writes bytes from key `k` up, with new check bits. -/
def engineWrite (s : State) (k : Nat) (bs : List Byte) (mid : Nat) : State :=
  wrClean (engineAccess s k bs.length mid true) k bs

end Sys2Proof.Machine
end

