-- ==== Sys2Proof/Machine/Buffers.lean ====
section
/-! DEFINITION. The Inkwell's pools: allocation, freeing, sharing, ownership and quotas (R242–R247, R414). -/

namespace Sys2Proof.Machine

/-- The handle of SRAM buffer `i`. -/
def bhS (i : Nat) : Word := word (0x40000000 + i)
/-- The handle of DRAM buffer `i`. -/
def bhD (i : Nat) : Word := word (0x80000000 + i)
/-- Memory key of byte 0 of a buffer (R242). -/
def bufKey (s : State) (bh : Word) : Nat :=
  match bhPool bh with
  | 0 => 64 * bhIndex bh
  | 1 => 0xC000000 + 0x800 * bhIndex bh
  | _ => dramKey (fld s Reg.IW_DBUF_BASE 23 0 * 0x4000 + 0x4000 * bhIndex bh)

/-! ## Buffer states (R242, R414) -/

/-- The state word that QUERY returns. -/
def bufWord (b : Buf) : Word :=
  if b.st = 0 then 0 else word (b.st * 2 ^ 30 + b.pid * 2 ^ 26 + b.owner * 2 ^ 16 + b.charged * 2 ^ 8 + b.refs)

/-- The eight bytes of a DRAM buffer's state: its state word, then 1 + the thread whose share holds it, or 0 (DESIGN CHOICE,
log entry 114). -/
def bufBytes (b : Buf) : List Byte :=
  leBytes 4 (bufWord b).toNat ++ leBytes 4 (match b.tid with | some t => t + 1 | none => 0)

/-- The state that eight bytes hold. -/
def bufOf (w t : Word) : Buf :=
  { st := bits w 31 30, pid := bits w 29 26, owner := bits w 23 16, charged := bits w 15 8, refs := bits w 7 0
    tid := if t = 0 then none else some (t.toNat - 1) }

/-- Memory key of the state of DRAM buffer `i`. -/
def stateKey (s : State) (i : Nat) : Nat := dramKey (fld s Reg.IW_DSTATE_BASE 25 0 * 0x1000 + 8 * i)

/-- The state of a buffer: an SRAM buffer's on chip, a DRAM buffer's in DRAM. -/
def buf (s : State) (bh : Word) : Buf :=
  if bhPool bh = 2 then bufOf (rdWord s (stateKey s (bhIndex bh))) (rdWord s (stateKey s (bhIndex bh) + 4))
  else Tbl.get (fun _ => {}) s.ink.bufs bh.toNat

/-- Store the state of a buffer. -/
def setBuf (s : State) (bh : Word) (v : Buf) : State :=
  if bhPool bh = 2 then engineWrite s (stateKey s (bhIndex bh)) (bufBytes v) 0x86
  else { s with ink := { s.ink with bufs := Tbl.set (fun _ => {}) s.ink.bufs bh.toNat v } }

/-- A corrected or uncorrectable error of the Inkwell's own stores by injection: none, corrected, uncorrectable (R337). -/
def inkInjected (s : State) : Bool × State :=
  match takeInjection s Reg.inkwellPage 0 with
  | (some 0, s) => (false, note s Reg.inkwellPage 0x00 8)
  | (some _, s) => (true, s)
  | (none, s) => match takeInjection s Reg.inkwellPage 1 with
    | (some 0, s) => (false, note s Reg.inkwellPage 0x00 8)
    | (some _, s) => (true, s)
    | (none, s) => (false, s)

/-- A buffer is lost by an uncorrectable word: IW_LOST counts, source 0x01 (R251). -/
def inkLost (s : State) (acc : Nat) : State := note (count s Reg.IW_LOST) Reg.inkwellPage 0x01 acc 0x86

/-- A command reads the state of a buffer: an uncorrectable word loses the buffer, which stays free-pending with no
reference for good (R251; DESIGN CHOICE, log entry 180). -/
def stateCheck (s : State) (bh : Word) : Bool × State :=
  let lose := fun (s : State) (acc : Nat) => (true, setBuf (inkLost s acc) bh { buf s bh with st := 2, refs := 0 })
  match inkInjected s with
  | (true, s) => lose s 8
  | (false, s) =>
    if bhPool bh = 2 then match engineRead s (stateKey s (bhIndex bh)) 8 0x86 with
      | (true, _, s) => lose s 0
      | (false, _, s) => (false, s)
    else (false, s)
/-- A use count (keys as State.lean says). -/
def use (s : State) (k : Nat) : Nat := Tbl.get (fun _ => 0) s.ink.uses k
/-- Store a use count. -/
def setUse (s : State) (k v : Nat) : State := { s with ink := { s.ink with uses := Tbl.set (fun _ => 0) s.ink.uses k v } }

/-- Keys of the use counts of a MID, a partition and a thread; `d` selects the DRAM pool (R247, R148). -/
def midKey (d : Bool) (mid : Nat) : Nat := (if d then 0x100 else 0) + mid
def partKey (d : Bool) (p : Nat) : Nat := (if d then 0x210 else 0x200) + p
def tidKey (d : Bool) (t : Nat) : Nat := (if d then 0x2000 else 0x1000) + t

/-- A partition's and a MID's quota of a pool (R245). -/
def partQuota (s : State) (d : Bool) (p : Nat) : Nat :=
  if d then fld s (Reg.IW_QPART_D p) 20 0 else fld s (Reg.IW_QPART_S p) 14 0
def midQuota (s : State) (d : Bool) (mid : Nat) : Nat :=
  if d then fld s (Reg.midQuotaD mid) 20 0 else fld s (Reg.midQuotaS mid) 14 0

/-- Threads of a Nib: 8, or 4 on the Steward. -/
def threadsOf (n : Nat) : Nat := if n = 128 then 4 else 8

/-- A thread's share of a Nib resource of `size`, of which it holds `held i` and its threads are reserved `min` each, is
full (R148). -/
def shareFull (s : State) (n i size min : Nat) (held : Nat → Nat) : Bool :=
  if flag s (Reg.NIB_CTL n) 8 then
    let pool := ((List.range (threadsOf n)).map (fun j => held j - min)).sum
    min ≤ held i && size - threadsOf n * min ≤ pool
  else size / threadsOf n ≤ held i

/-- The Inkwell share of thread `t` in a pool is full (R148). -/
def inkFull (s : State) (d : Bool) (t : Nat) : Bool :=
  let n := nibOf t
  shareFull s n (idxOf t) (midQuota s d (nibMid n)) (fld s (Reg.NIB_SHARE n) 31 16) (fun j => use s (tidKey d (tidOf n j)))

/-- The next free buffer of a pool and the state without it in the free store (R242, R245). -/
def popFree (s : State) (d : Bool) : Option (Word × State) :=
  if d then
    if enField s Reg.inkwellPage Reg.IW_DCFG 31 && flag s Reg.IW_DCFG 30 then
      match s.ink.dStack with
      | [] => none
      | i :: r => some (bhD i, { s with ink := { s.ink with dStack := r } })
    else none
  else if enField s Reg.inkwellPage Reg.IW_CTL 0 then
    match s.ink.sStack with
    | i :: r => some (bhS i, { s with ink := { s.ink with sStack := r } })
    | [] => if s.ink.sFresh < 16384 then some (bhS s.ink.sFresh, { s with ink := { s.ink with sFresh := s.ink.sFresh + 1 } }) else none
  else none

/-- An injected error of the free store meets an ALLOC: an uncorrectable entry loses its buffer (R251, R337). -/
def storeCheck (s : State) (d : Bool) : State :=
  match inkInjected s with
  | (false, s) => s
  | (true, s) =>
    let s := inkLost s 8
    match popFree s d with
    | some (_, s) => s
    | none => s

/-- ALLOC from a pool for requester `mid` of partition `p`, and thread `t` where one asks: status, handle (R244, R245). -/
def iwAlloc (s : State) (d : Bool) (mid p : Nat) (t : Option Nat) : Byte × Word × State :=
  if partQuota s d p ≤ use s (partKey d p) ∨ midQuota s d mid ≤ use s (midKey d mid) ∨ (t.any (inkFull s d)) then
    (stOverQuota, 0, count s Reg.IW_OVERQ)
  else match popFree (storeCheck s d) d with
    | none => (stEmpty, 0, count s Reg.IW_EMPTY)
    | some (bh, s) =>
      let s := setUse s (partKey d p) (use s (partKey d p) + 1)
      let s := setUse s (midKey d mid) (use s (midKey d mid) + 1)
      let s := match t with
        | some t => setUse s (tidKey d t) (use s (tidKey d t) + 1)
        | none => s
      (stOk, bh, setBuf s bh { st := 1, pid := p, owner := mid, charged := mid, refs := 0, tid := t })

/-- A buffer returns to its pool: its charges end and it goes on top of its free store (R242, R244, R246). -/
def iwReturn (s : State) (bh : Word) : State :=
  let b := buf s bh
  let d := bhPool bh = 2
  let s := setUse s (partKey d b.pid) (use s (partKey d b.pid) - 1)
  let s := setUse s (midKey d b.charged) (use s (midKey d b.charged) - 1)
  let s := match b.tid with
    | some t => setUse s (tidKey d t) (use s (tidKey d t) - 1)
    | none => s
  let s := setBuf s bh {}
  if d then { s with ink := { s.ink with dStack := bhIndex bh :: s.ink.dStack } }
  else { s with ink := { s.ink with sStack := bhIndex bh :: s.ink.sStack } }

/-- FREE by the owner, or by the engine that owns it: return it, or hold it free-pending while referenced (R244). -/
def iwRelinquish (s : State) (bh : Word) : State :=
  if (buf s bh).refs = 0 then iwReturn s bh else setBuf s bh { buf s bh with st := 2 }

/-- The handle names a buffer of a pool (check 1 of R244). -/
def bhValid (s : State) (bh : Word) : Bool :=
  (bhPool bh = 1 && bhIndex bh < 16384) || (bhPool bh = 2 && bhIndex bh < fld s Reg.IW_DCFG 20 0)

/-- MIDs 0x80 to 0x8F act for every partition (R244). -/
def midFree (mid : Nat) : Bool := 0x80 ≤ mid && mid < 0x90

/-- Checks 1 and 2 of R244. A free buffer belongs to no partition (DEDUCED, log entry 14). -/
def iwCheck (s : State) (bh : Word) (mid p : Nat) : Option Byte :=
  if ¬ bhValid s bh then some stRefused
  else if (buf s bh).st ≠ 0 ∧ (buf s bh).pid ≠ p ∧ ¬ midFree mid then some stDenied
  else none

/-- A command on a buffer: REFUSED for a handle outside its pool, PARITY where the state word that it reads is
uncorrectable, else what `f` does (R244, R251; DESIGN CHOICE, log entry 180). -/
def onBuffer (s : State) (bh : Word) (f : State → Byte × State) : Byte × State :=
  if ¬ bhValid s bh then (stRefused, s)
  else match stateCheck s bh with
    | (true, s) => (stParity, s)
    | (false, s) => f s

/-- FREE (R244). -/
def iwFreeCmd (s : State) (bh : Word) (mid p : Nat) : Byte × State := onBuffer s bh fun s =>
  match iwCheck s bh mid p with
  | some e => (e, s)
  | none =>
    if (buf s bh).st ≠ 1 then (stAlready, s)
    else if (buf s bh).owner ≠ mid then (stNotOwner, note (count s Reg.IW_NOTOWNER) Reg.inkwellPage 0x02 6 mid bh.toNat)
    else (stOk, iwRelinquish s bh)

/-- SHARE (R244). A free buffer has no owner; a free-pending one keeps its owner (DEDUCED, log entry 14). -/
def iwShareCmd (s : State) (bh : Word) (mid p n owner : Nat) : Byte × State := onBuffer s bh fun s =>
  match iwCheck s bh mid p with
  | some e => (e, s)
  | none =>
    let b := buf s bh
    if b.st = 0 ∨ b.owner ≠ mid then (stNotOwner, note (count s Reg.IW_NOTOWNER) Reg.inkwellPage 0x02 6 mid bh.toNat)
    else if n = 0 then (stRefused, s)
    else if ¬ ((owner < 128 ∧ nibPid s owner = b.pid) ∨ owner = 0x90 + b.pid ∨ midFree owner) then (stDenied, s)
    else if 255 < b.refs + n then (stFull, s)
    else (stOk, setBuf s bh { b with refs := b.refs + n, owner := owner })

/-- RELEASE (R244). -/
def iwReleaseCmd (s : State) (bh : Word) (mid p : Nat) : Byte × State := onBuffer s bh fun s =>
  match iwCheck s bh mid p with
  | some e => (e, s)
  | none =>
    let b := buf s bh
    if b.refs = 0 then (stRefused, s)
    else
      let s := setBuf s bh { b with refs := b.refs - 1 }
      (stOk, if b.st = 2 ∧ b.refs = 1 then iwReturn s bh else s)

/-- QUERY: its status; with OK the buffer's state word is what it returns (R244, R414). -/
def iwQueryCmd (s : State) (bh : Word) (mid p : Nat) : Byte × State := onBuffer s bh fun s =>
  match iwCheck s bh mid p with
  | some e => (e, s)
  | none => (stOk, s)

/-- The buffer that an FD carries, if it is an Inkwell buffer. -/
def fdBuffer (f : FD) : Option Word := if bhPool f.w4 = 1 ∨ bhPool f.w4 = 2 then some f.w4 else none

/-- An engine frees the buffer that an FD holds (R246). -/
def freeFd (s : State) (f : FD) : State :=
  match fdBuffer f with
  | some bh => if bhValid s bh ∧ (buf s bh).st = 1 then iwRelinquish s bh else s
  | none => s

/-- Ownership of an FD's buffer passes to `mid` (R246). -/
def ownFd (s : State) (f : FD) (mid : Nat) : State :=
  match fdBuffer f with
  | some bh => if bhValid s bh ∧ (buf s bh).st = 1 then setBuf s bh { buf s bh with owner := mid } else s
  | none => s

/-- Return every buffer that partition `p` holds by one of the MIDs that `f` selects; referenced ones become
free-pending (R280, R333). -/
def freeHeld (s : State) (f : Buf → Bool) : State :=
  let sram := (s.ink.bufs.filter (fun e => e.2.st = 1 && f e.2)).map (fun e => word e.1)
  let dram := ((List.range (fld s Reg.IW_DCFG 20 0)).map bhD).filter (fun bh =>
    flag s Reg.IW_DCFG 30 && decide ((buf s bh).st = 1) && f (buf s bh))
  (sram ++ dram).foldl iwRelinquish s

end Sys2Proof.Machine
end

