-- ==== Sys2Proof/Machine/Egress.lean ====
section
/-! DEFINITION. Frame descriptors and where they wait: egress queues (R226), host rings (R276), and the send queues of
Skovub ports (R287, R289). -/

namespace Sys2Proof.Machine

/-- An FD from its fields; `slot` 0x3FFF for the kinds that hold none (R43). -/
def mkFd (kind pid cls lane flags action chan : Nat) (sps : Word) (seq len : Nat) (bh carry : Word) (hints entry queue slot : Nat) : FD :=
  { w0 := word (kind * 2 ^ 28 + pid * 2 ^ 24 + cls * 2 ^ 20 + lane * 2 ^ 12 + flags)
    w1 := word (action * 2 ^ 24 + chan % 2 ^ 24)
    w2 := sps
    w3 := word (seq * 65536 + len % 65536)
    w4 := bh
    w5 := carry
    w6 := word (hints * 2 ^ 21 + entry)
    w7 := word (queue * 2 ^ 24 + slot) }

/-! ## Egress queues (R226) -/

/-- Owner, lane, priority and limit of queue `q`. -/
def queuePid (s : State) (q : Nat) : Nat := fld s (Reg.queueCfg q) 27 24
def queueLane (s : State) (q : Nat) : Nat := fld s (Reg.queueCfg q) 6 0
def queueOn (s : State) (q : Nat) : Bool := enField s Reg.rulingPage (Reg.queueCfg q) 31

/-- FDs in all queues: the store of 16,384 (R226). -/
def storeUsed (s : State) : Nat := (s.queues.map (fun e => e.2.length)).sum

/-- Queue an FD of partition `p` on queue `q`; `mid` is the master that queues it (R226, R246). A disabled queue takes
nothing (DEDUCED, log entry 15). -/
def enqueue (s : State) (q p : Nat) (f : FD) (mid : Nat := 0x84) : State :=
  if queuePid s q ≠ p then freeFd (note (count s Reg.RU_DENIED) Reg.rulingPage 0x01 1 mid) f
  else if ¬ queueOn s q ∨ fld s (Reg.queueLim q) 13 0 ≤ (queue s q).length ∨ 16384 ≤ storeUsed s then
    freeFd (note (count s Reg.RU_QDROP) Reg.rulingPage 0x00 1 mid) f
  else ownFd (setQueue s q (queue s q ++ [f])) f 0x85

/-! ## Host rings (R275, R276) -/

/-- An FD goes to the host ring of partition `p`, where RX_ENTRY_WRITE makes its entry. -/
def toRing (s : State) (p : Nat) (f : FD) (ps : PS) : State :=
  modPart s p (fun q => { q with rxPend := q.rxPend ++ [(f, ps)] })

/-! ## Skovub messages (R287, R289) -/

/-- Port state: 0 OFF, 1 TRAIN, 2 UP, 3 DOWN. -/
def portState (s : State) (k : Nat) : Nat := fld s (Reg.SK_PSTAT k) 31 30

/-- Flits of a message: a BULK takes one for every 60 bytes of its header, body header and data (R289). -/
def flitCount (ty : Nat) (body : List Word) : Nat := if ty = 7 then cdiv (8 + 4 * body.length) 60 else 1

/-- Queue a message of type `ty` on port `k`: types 0x01 to 0x04 are class 0, the rest class 1 (R287, R289). -/
def skSend (s : State) (k ty : Nat) (hdr : Word) (body : List Word) : State :=
  let n := flitCount ty body
  let m := (List.range n).map (fun i => ({ ty := ty, hdr := hdr, body := body, part := i, parts := n } : SkMsg))
  modPort s k (fun p => if ty ≤ 4 then { p with q0 := p.q0 ++ m } else { p with q1 := p.q1 ++ m })

/-- The ports in state UP, among those the tables list. -/
def upPorts (s : State) : List Nat := (List.range 32).filter (fun k => portState s k = 2)

/-- Member ports of partition `p`'s merge (R291, R292). -/
def memberPorts (s : State) (p : Nat) : List Nat :=
  (List.range 32).filter (fun k => flag s (Reg.SK_PMERGE k) 31 && fld s (Reg.SK_PMERGE k) 19 16 = p)

/-- The manager that a worker follows: 0 none, 1 primary, 2 standby (R298). -/
def follows (s : State) : Nat := fld s Reg.SK_ROLE 9 8
/-- The port of the manager that the device follows. -/
def uplinkPort (s : State) : Option Nat :=
  if enField s (Reg.skovubPage 0) Reg.SK_UPLINK 31 then
    if follows s = 1 then some (fld s Reg.SK_UPLINK 12 8) else if follows s = 2 then some (fld s Reg.SK_UPLINK 20 16) else none
  else none

end Sys2Proof.Machine
end

