-- ==== Sys2Proof/Machine/Scroll.lean ====
section
/-! DEFINITION. The Scroll: extents, lines, the Crossing Index Table, retention, and the capacity check (R236–R241). -/

namespace Sys2Proof.Machine

/-- An extent of the ring. -/
def extent (s : State) (e : Nat) : Extent := Tbl.get (fun _ => {}) s.extents e
/-- Store an extent. -/
def setExtent (s : State) (e : Nat) (v : Extent) : State := { s with extents := Tbl.set (fun _ => {}) s.extents e v }
/-- The allocation pointer (R237). -/
def scrollPtr (s : State) : Nat := fld s Reg.SC_ALLOC 14 0

/-- Lines that a frame takes: by its payload length, or 144 when the length field exceeds 9,184 or steps 1 to 4 of R74
failed (R236). -/
def frameLines (len : Nat) (failed : Bool) : Nat := if failed ∨ 9184 < len then 144 else (32 + len + 63) / 64

/-- The extents of a run of `n` at the pointer: those up to the ring's end that it passes over, and the run itself
(R236). -/
def runAt (ptr n : Nat) : List Nat × List Nat :=
  if ptr + n ≤ 32768 then ([], (List.range n).map (ptr + ·)) else ((List.range (32768 - ptr)).map (ptr + ·), List.range n)

/-- Chain a list of extents after `prev` for crossing `b`, and mark the last one (R240). -/
def chainExtents (s : State) (b : Nat) : Option Nat → List Nat → State
  | _, [] => s
  | prev, e :: es =>
    let s := match prev with
      | some q => setExtent s q { extent s q with next := e, tail := false }
      | none => s
    chainExtents (setExtent s e { owner := some b, lines := 0, next := e, tail := true }) b (some e) es

/-- Give lines used to the extents of a run: 64 each, the rest in the last (R240). -/
def fillRun (s : State) : Nat → List Nat → State
  | _, [] => s
  | lines, e :: es =>
    let s := setExtent s e { (extent s e) with lines := sat 64 lines }
    fillRun s (lines - 64) es

/-- Place `lines` lines of crossing `b`: the first line's number, or none for SCROLL_FULL (R236, R237). -/
def scrollPlace (s : State) (b : Nat) (ps : PS) (lines : Nat) : Option Nat × State :=
  let x := xing s b
  if ¬ x.extents.isEmpty ∧ lines ≤ x.openLines then
    let s1 := setExtent s x.last { extent s x.last with lines := 64 - x.openLines + lines }
    (some (64 * x.last + (64 - x.openLines)), modXing s1 b (fun x => { x with openLines := x.openLines - lines }))
  else
    let n := (lines + 63) / 64
    let (skip, run) := runAt (scrollPtr s) n
    if (skip ++ run).all (fun e => (extent s e).owner.isNone) then
      let first := run.headD 0
      let last := run.getLastD 0
      let s := fillRun (chainExtents s b (if x.extents.isEmpty then none else some x.last) (skip ++ run)) lines run
      let s := setFld s Reg.SC_ALLOC 14 0 ((last + 1) % 32768)
      (some (64 * first), modXing s b (fun x => { x with
        b := b, ps := ps, first := if x.extents.isEmpty then (skip ++ run).headD 0 else x.first, last := last,
        extents := x.extents ++ skip ++ run, openLines := 64 * n - lines }))
    else (none, s)

/-- What a frame of `n` bytes leaves unwritten of its line `i`, where the line was another partition's: it becomes 0, so
that no byte of that partition is read under the new tag (R239; what it becomes: DESIGN CHOICE, log entry 182). -/
def clearRest (line pid n : Nat) (s : State) (i : Nat) : State :=
  let done := min 64 (n - 64 * i)
  if (Tbl.get (fun _ => {}) s.lineTags (line + i) : LineTag).pid = pid then s
  else wrBytes s (64 * (line + i) + done) (List.replicate (64 - done) 0)

/-- Write a frame's stored bytes and tag its lines with the partition, the good bit still 0 (R38, R239). -/
def scrollWrite (s : State) (line lines pid : Nat) (bytes : List Byte) : State :=
  let s := wrClean ((List.range lines).foldl (clearRest line pid bytes.length) s) (64 * line) bytes
  { s with lineTags := (List.range lines).foldl (fun t i => Tbl.set (fun _ => {}) t (line + i) { pid := pid, good := false }) s.lineTags }

/-- The tags with the good bit of line `l` set. -/
def markGood (t : Tbl LineTag) (l : Nat) : Tbl LineTag :=
  let g : LineTag := Tbl.get (fun _ => {}) t l
  Tbl.set (fun _ => {}) t l { g with good := true }

/-- Set the good bit of a frame's lines: its link check passed (R239). -/
def scrollGood (s : State) (line lines : Nat) : State :=
  { s with lineTags := (List.range lines).foldl (fun t i => markGood t (line + i)) s.lineTags }

/-- The retention tick of crossing `b` has come (R238). -/
def retentionOver (s : State) (b : Nat) : Bool := b + lat s + copyHold s ≤ s.phase.count

/-- The copy in progress, or an accept at the queue's head before the tick, holds crossing `b` (R238). -/
def copyHolds (s : State) (b : Nat) : Bool :=
  (match s.copy with | some c => c.acc.b = b && c.acc.held | none => false) ||
  (match s.accepts with | a :: _ => a.b = b && a.held | [] => false)

/-- Free the extents of crossing `b` (R238). -/
def freeXing (s : State) (b : Nat) : State :=
  let x := xing s b
  let s := { s with extents := x.extents.foldl (fun t e => Tbl.set (fun _ => {}) t e {}) s.extents }
  modXing s b (fun x => { x with extents := [], openLines := 0, freed := true })

/-- Free the extents of every crossing whose retention has ended and that nothing holds (R238). -/
def freeDue (s : State) : State :=
  ((s.xings.filter (fun e => !e.2.extents.isEmpty && retentionOver s e.1 && e.2.txHolds = 0 && !copyHolds s e.1)).map Prod.fst).foldl freeXing s

/-! ## Capacity (R241) -/

/-- Line rate of a rate code, in kb/s (R55). -/
def lineRate (c : Nat) : Nat :=
  match c with
  | 0 => 1250000 | 1 => 2500000 | 2 => 3125000 | 3 => 5000000 | 4 => 6250000 | 5 => 10312500 | 6 => 12500000
  | 7 => 25781250 | 8 => 28125000 | 9 => 53125000 | 10 => 56250000 | _ => 0

/-- Payload rate of a lane in kb/s × 66 for its LANE_CTL word (R241). -/
def payloadRate (w : Word) : Nat :=
  match bits w 11 8 with
  | 1 => if bit w 3 ∧ 9 ≤ bits w 15 12 then (if bits w 15 12 = 9 then 50000000 else 52941000) * 66 else lineRate (bits w 15 12) * 64
  | 2 => (if bits w 15 12 = 5 then 10000000 else if bits w 15 12 = 7 then 25000000 else 50000000) * 66
  | 3 => 100000000 * 66
  | _ => 0

/-- Sum of the payload rates of the lanes enabled in modes STROKE, ETH and ETH100, in 10^6 bytes per second; `ctl`
gives the LANE_CTL word of a lane (R241). -/
def sumRate (ctl : Nat → Word) : Nat :=
  ((List.range 128).map (fun n => if bit (ctl n) 0 then payloadRate (ctl n) else 0)).sum / 528000

/-- max_lat for a rate and an MCLK in kHz: B is the load of one crossing in bytes (R241). -/
def maxLat (rate khz : Nat) : Nat := sat 16384 (134217728 * khz / (rate * 1000 + 4096 * khz))

/-- max_lat for a rate: 0 while no MCLK measurement exists (R241). -/
def maxLatOf (s : State) (rate : Nat) : Nat :=
  if flag s Reg.MCLK_FREQ 31 then maxLat rate (fld s Reg.MCLK_FREQ 18 0) else 0

/-- A lane's LANE_CTL word as the sum sees it: its enable acts as 0 while its page is disabled (R241, R386). -/
def rateWord (s : State) (n : Nat) (w : Word) : Word := if flag s (Reg.PG_CTL (Reg.lanePage n)) 0 then w else 0

/-- Recompute SC_RATE and SC_FIT (R241). -/
def refit (s : State) : State :=
  let rate := sumRate (fun n => rateWord s n (reg s (Reg.LANE_CTL n)))
  let m := maxLatOf s rate
  let s := setReg s Reg.SC_RATE (word rate)
  setReg s Reg.SC_FIT (word ((decide (lat s ≤ m)).toNat * 2 ^ 31 + (decide (lat s + copyHold s ≤ m)).toNat * 2 ^ 30 + m))

end Sys2Proof.Machine
end

