-- ==== Sys2Proof/Machine/Account.lean ====
section
/-! DEFINITION. What the Signet counts from a released decision record and from the phase (R304–R307). -/

namespace Sys2Proof.Machine

/-- d1 of a record (R215). -/
def drCause (r : DR) : Nat := bits r.d1 23 20
def drBits (r : DR) : Nat := bits r.d1 15 0
def drQs (r : DR) : Bool := bit r.d1 24
def drPid (r : DR) : Nat := bits r.d1 19 16

/-- Crossing `b` lies in a supply-dip window or a re-alignment range (R306, R307). -/
def inMarkedRange (s : State) (b : Nat) : Bool :=
  (s.signet.windows ++ s.signet.ranges).any (fun w => w.1 ≤ b && b ≤ w.2) || (match s.signet.dipFrom with | some d => d ≤ b | none => false)

/-- Add to the pending QS count of a partition (R306). -/
def pendQs (s : State) (p : Nat) : State :=
  { s with signet := { s.signet with
      pendingQs := Tbl.set (fun _ => 0) s.signet.pendingQs p (Tbl.get (fun _ => 0) s.signet.pendingQs p + 1) } }

/-- The dead tally of a record, if it is dead: by cause and DEFAULT_DECISION.accept (R304). -/
def deadTally (cause : Nat) (accept : Bool) : Option Nat :=
  match cause with
  | 1 => if accept then none else some 3
  | 2 => if accept then none else some 4
  | 3 => if accept then none else some 7
  | 4 => some 6
  | 5 => some 2
  | 6 => some 5
  | 7 => some 7
  | _ => none

/-- Count one tally for each of the trigger bits 0 to 7 (R304). -/
def tallyBits (s : State) (p b : Nat) : State :=
  (List.range 8).foldl (fun s k => if (b >>> k) % 2 = 1 then tally s p (9 + k) 1 else s) s

/-- What source 0x03 or 0x04 leaves beside its record in the page: SIG_STAT.tally_err and a TALLY_ERR record (R312,
R320). -/
def tallyRecord (s : State) (src : Nat) : State :=
  journal (setFlag s Reg.SIG_STAT 26 true) 0x0D 0xF [byteOf src 0]

/-- A check error of the Signet, met on an access: `src` 0x03 or 0x04 (R320). -/
def tallyErr (s : State) (src : Nat) : State := tallyRecord (note s Reg.signetPage src 0xD) src

/-- An access to the tally storage takes an armed injection of source 0x04 (R320, R337). -/
def tallyCheck (s : State) : State :=
  match takeInjection s Reg.signetPage 4 with
  | (some _, s) => tallyErr s 0x04
  | (none, s) => s

/-- Count a record released for partition `p` and crossing `b` (R304, R306, R320). -/
def signetCount (s : State) (p b : Nat) (r : DR) : State :=
  let (bad, s) := takeInjection s Reg.signetPage 3
  let s := tally s p 0 1
  let s := if drQs r ∨ inMarkedRange s b then tally s p 8 1
    else match s.phase.misplacedFrom with
      | some m => if m ≤ b then pendQs s p else s
      | none => s
  if bad.isSome then tallyErr s 0x03
  else
    let s := match deadTally (drCause r) (flag s Reg.DEFAULT_DECISION 31) with
      | some i => tally s p i 1
      | none => s
    tallyCheck (tallyBits s p (drBits r))

end Sys2Proof.Machine
end

