-- ==== Sys2Proof/Machine/Decisions.lean ====
section
/-! DEFINITION. Decision slots, the release of decision records with their causes, and where a record goes
(R215–R221, R291, R294). -/

namespace Sys2Proof.Machine

/-- Partition `p` begins crossing `b` with an open decision slot (R204, R217). -/
def openDecision (s : State) (p b : Nat) (ps : PS) : State :=
  { s with decisions := s.decisions ++ [{ p := p, b := b, ps := ps }] }

/-- Close a slot: it is complete if every instance of its crossing with a final node has decided (R204, R217). -/
def closedSlot (d : Decision) : Decision :=
  if d.closed then d else { d with closed := true, complete := d.decided = d.finals }

/-- Records are released as in ORPHAN: in that mode, and by a worker that follows no manager in DRAIN (R216, R344). -/
def orphaned (s : State) : Bool := mode s = 6 || (mode s = 5 && role s = 1 && follows s = 0)

/-- The cause of a record, the highest code that applies (R216); `throttle` is the level of THROTTLE_N or HOLD at the
release tick, as it applies to the partition. -/
def causeOf (s : State) (d : Decision) (throttle : Bool) : Nat :=
  if orphaned s then 6
  else if throttle then 5
  else if bit (xing s d.b).dead d.p then 4
  else if d.fault then 3
  else if ¬ d.complete ∧ d.late then 2
  else if ¬ d.complete then 1
  else 0

/-- DEFAULT_DECISION as trigger bits (R216). -/
def defaultBits (s : State) : Nat := if flag s Reg.DEFAULT_DECISION 31 then fld s Reg.DEFAULT_DECISION 15 0 else 0

/-- The trigger bits that a cause releases (R216). -/
def releasedBits (s : State) (d : Decision) (cause : Nat) : Nat :=
  if cause = 0 then d.bits.toNat else if cause ≤ 3 then defaultBits s else 0

/-- The QS flag of a record (R216, R22, R70, R204). -/
def qsFlag (s : State) (d : Decision) : Bool := d.qs || bit (xing s d.b).qs d.p

/-- THROTTLE_N or HOLD is in force for partition `p` (R218, R14). -/
def throttled (s : State) (p : Nat) (throttleN : Bool) : Bool :=
  flag s Reg.THROTTLE_CTL 31 && flag s Reg.THROTTLE_CTL p && (throttleN || flag s Reg.PH_STAT 4)

/-- The decision record of a slot for a cause (R215). -/
def makeDr (s : State) (d : Decision) (cause : Nat) (throttle : Bool) : DR :=
  { d0 := spsOf d.ps
    d1 := word (throttle.toNat * 2 ^ 28 + (orphaned s).toNat * 2 ^ 27 + d.late.toNat * 2 ^ 26
      + (decide (1 ≤ cause ∧ cause ≤ 3)).toNat * 2 ^ 25 + (qsFlag s d).toNat * 2 ^ 24 + cause * 2 ^ 20 + d.p * 2 ^ 16
      + releasedBits s d cause)
    d2 := word d.missing
    d3 := (part s d.p).seq }

/-! ## The decision stream (R220) -/

/-- The stored bytes of a batch: header and records in network byte order. -/
def batchBytes (rs : List (DR × PS)) : List Byte :=
  let first := rs.headD ({ d0 := 0, d1 := 0, d2 := 0, d3 := 0 }, {})
  beBytes 2 0xDEC5 ++ [0x01] ++ beBytes 1 rs.length ++ beBytes 4 first.1.d3.toNat ++ beBytes 8 (psNat first.2)
    ++ rs.flatMap (fun r => beBytes 4 r.1.d0.toNat ++ beBytes 4 r.1.d1.toNat ++ beBytes 4 r.1.d2.toNat ++ beBytes 4 r.1.d3.toNat)

/-- Build a batch as a frame in an SRAM buffer under MID 0x85 and queue it; without a buffer it is dropped (R220). R220
gives its FD no fields beside queue, buffer and length: the rest is log entry 166 (DESIGN CHOICE). -/
def sendBatch (s : State) (rs : List (DR × PS)) : State :=
  let p := fld s Reg.RU_DEC_STREAM 15 12
  match iwAlloc s false 0x85 p none with
  | (0x00, bh, s) =>
    let bytes := batchBytes rs
    let s := engineWrite s (bufKey s bh) bytes 0x85
    enqueue s (fld s Reg.RU_DEC_STREAM 7 0) p
      (mkFd 5 p 0 0xFF 0 0 0 (spsOf (rs.headD ({ d0 := 0, d1 := 0, d2 := 0, d3 := 0 }, {})).2) 0 bytes.length bh (crc32c bytes) 0 0
        (fld s Reg.RU_DEC_STREAM 7 0) 0x3FFF) 0x85
  | (_, _, s) => count s Reg.RU_DEC_DROP

/-- Collect a record of the streamed partition; a full batch is sent (R220). -/
def streamDr (s : State) (p : Nat) (r : DR) (ps : PS) : State :=
  if enField s Reg.rulingPage Reg.RU_DEC_STREAM 31 ∧ fld s Reg.RU_DEC_STREAM 15 12 = p then
    let rs := s.decBatch ++ [(r, ps)]
    if fld s Reg.RU_DEC_STREAM 22 16 ≤ rs.length then sendBatch { s with decBatch := [] } rs else { s with decBatch := rs }
  else s

/-! ## Accepts (R221, R291, R294) -/

/-- The accept at the head of the queue holds its crossing's extents if it arrived there before the retention tick
(R223, R238). -/
def markHead (s : State) : State :=
  match s.accepts with
  | a :: r => if a.held ∨ retentionOver s a.b then s else { s with accepts := { a with held := true } :: r }
  | [] => s

/-- The Copyist acts for a partition that is ACTIVE in RUN or DRAIN, or DRAINING (R345). -/
def copyistRuns (s : State) (p : Nat) : Bool := (partState s p = 3 && (mode s = 4 || mode s = 5)) || partState s p = 4

/-- Queue an accept for the Copyist (R221). A partition whose readout is disabled, or that the Copyist does not act for,
starts none (R345). -/
def pushAccept (s : State) (a : Accept) : State :=
  if ¬ enField s Reg.copyistPage (Reg.CP_PCTL a.p) 31 ∨ ¬ copyistRuns s a.p then s
  else if 1024 ≤ s.accepts.length then note (count s Reg.CP_OVERFLOW) Reg.copyistPage 0x02
  else markHead { s with accepts := s.accepts ++ [a] }

/-- The device decides for partition `p` itself: it is no worker, and `p` does not go up to a manager (R221, R283). -/
def decidesHere (s : State) (p : Nat) : Bool :=
  role s != 1 && !(enField s (Reg.skovubPage 0) Reg.SK_UPLINK 31 && fld s Reg.SK_UPLINK 3 0 = p)

/-- A manager's EVENT for an accepting record, on every UP member port of the partition (R294). -/
def sendEvents (s : State) (p : Nat) (r : DR) : State :=
  if 2 ≤ role s ∧ flag s Reg.SK_ROLE 4 then
    ((memberPorts s p).filter (fun k => portState s k = 2)).foldl (fun s k => skSend s k 0x04 r.d0 [r.d0, r.d1, r.d2, r.d3]) s
  else s

/-- A worker's or mid-level manager's FRAGMENT for a record of SK_UPLINK.pid, to the manager it follows; a standby sends as
a manager once it is active (R283, R291, R298). -/
def sendFragment (s : State) (p : Nat) (r : DR) : State :=
  if 1 ≤ role s ∧ (role s ≠ 3 ∨ flag s Reg.SK_ROLE 4) ∧ fld s Reg.SK_UPLINK 3 0 = p then
    match uplinkPort s with
    | some k => skSend s k 0x03 r.d0 [r.d0, r.d1, r.d2, r.d3]
    | none => s
  else s

/-- Release the record of slot `d` with a cause: Signet, stream, manager, ACC_OUT, Copyist; the slot is gone and the
partition's sequence number advances (R215, R217, R219, R221). `live` is false for the records flushed at the loss of
MCLK, which ACC_OUT does not carry (R23). -/
def releaseDr (s : State) (d : Decision) (cause : Nat) (throttle live : Bool) : State :=
  let r := makeDr s d cause throttle
  let s := { s with decisions := s.decisions.filter (fun e => !(e.p = d.p && e.b = d.b)) }
  let s := modPart s d.p (fun q => { q with seq := q.seq + 1 })
  let s := signetCount s d.p d.b r
  let s := streamDr s d.p r d.ps
  let s := sendFragment s d.p r
  let s := if live ∧ fld s Reg.ACC_OUT_CTL 19 16 = d.p then
      { s with accOuts := s.accOuts ++ [{ b := d.b + lat s + 2 + fld s Reg.ACC_OUT_DELAY 17 8, bits := BitVec.ofNat 8 (drBits r) }] }
    else s
  if drBits r ≠ 0 ∧ decidesHere s d.p then
    let s := if cause ≠ 6 then sendEvents s d.p r else s
    pushAccept s { p := d.p, b := d.b, ps := d.ps, bits := BitVec.ofNat 16 (drBits r), qs := drQs r,
                   defaulted := bit r.d1 25, seq := r.d3, epoch := partEpoch s d.p }
  else s

/-- The first slot of partition `p` that `f` selects. -/
def firstSlot (s : State) (p : Nat) (f : Decision → Bool) : Option Decision :=
  s.decisions.find? (fun d => d.p = p && f d)

/-- Flush every unreleased record with cause MCLK_LOST, in crossing order (R23). -/
def flushDecisions (s : State) : State :=
  if fatal s then s
  else s.decisions.foldl (fun s d => releaseDr s (closedSlot d) 7 false false) s

/-- DECISION_SLOT_CLOSE (R204, R217): the partition's oldest open slot whose deadline has come closes. -/
def slotClose (p : Nat) (s : State) : State :=
  match firstSlot s p (fun d => !d.closed && deadline s d.b ≤ s.phase.count) with
  | none => s
  | some d => modDecision s p d.b closedSlot

/-- DECISION_RELEASE (R217, R329): the partition's oldest slot whose release tick has come; a deadline that fell on a tick
of a fault interval gives it the cause FAULT. -/
def decisionRelease (p : Nat) (throttleN : Bool) (s : State) : State :=
  if fatal s then s
  else match firstSlot s p (fun d => d.b + lat s ≤ s.phase.count) with
    | none => s
    | some d =>
      let d := faultMarked s (closedSlot d)
      let th := throttled s p throttleN
      releaseDr s d (causeOf s d th) th true

/-- The levels of the ACC_OUT pairs for released bits: a pair with en 0 drives 0, inv inverts (R219). -/
def accPairs (s : State) (b : BitVec 8) : BitVec 8 :=
  BitVec.ofNat 8 (fld s Reg.ACC_OUT_CTL 7 0) &&& (b ^^^ BitVec.ofNat 8 (fld s Reg.ACC_OUT_CTL 15 8))

/-- ACC_OUT_DRIVE (R219): the edge that opens the crossing of the oldest level change. -/
def accOutDrive (s : State) : State :=
  match s.accOuts with
  | [] => s
  | a :: r => if fatal s ∨ s.phase.count < a.b then s else emit { s with accOuts := r } (.accOut a.b (accPairs s a.bits))

/-- DECISION_SLOT_CLOSE. -/
def execDecisionSlotClose (p : PartId) (s : State) : Host.Outcome State Fault Refusal := .next (slotClose p s)
/-- DECISION_RELEASE. -/
def execDecisionRelease (p : PartId) (throttleN : Bool) (s : State) : Host.Outcome State Fault Refusal :=
  .next (decisionRelease p throttleN s)
/-- ACC_OUT_DRIVE. -/
def execAccOutDrive (s : State) : Host.Outcome State Fault Refusal := .next (accOutDrive s)

end Sys2Proof.Machine
end

