-- ==== Sys2Proof/Machine/Copybook.lean ====
section
/-! DEFINITION. The Copybook: entries and their parity, hashes, lookups, the command engine, learning, aging, rehash
and events (R84–R102). -/

namespace Sys2Proof.Machine

/-! ## Entries (R84, R85) -/

/-- The four parity bits that an entry's words need (R85). -/
def entryParity (e : Entry) : Nat :=
  popCount e.w0 % 2 + 2 * (popCount e.w1 % 2) + 4 * (popCount e.w2 % 2) + 8 * (popCount (e.w3.setWidth 60) % 2)

/-- The entry with its parity written. -/
def sealEntry (e : Entry) : Entry := { e with w3 := setBits e.w3 63 60 (entryParity e) }

/-- The entry's four parity bits check (R85). -/
def parityOk (e : Entry) : Bool := bits e.w3 63 60 = entryParity e

def entryValid (e : Entry) : Bool := bit e.w0 28
def entryLearned (e : Entry) : Bool := bit e.w0 29
def entryPid (e : Entry) : Nat := bits e.w0 27 24
def entryAction (e : Entry) : Nat := bits e.w0 39 32
def entryClass (e : Entry) : Nat := bits e.w0 43 40
def entryCopyFwd (e : Entry) : Bool := bit e.w0 44
def entryEq (e : Entry) : Nat := bits e.w0 55 48
def entryMq (e : Entry) : Nat := bits e.w0 63 56
/-- The key value x of an entry (R86). -/
def entryKey (e : Entry) : Word := word (bits e.w0 27 0)
/-- The key value x of partition `p` and channel `c` (R86). -/
def cbKey (p c : Nat) : Word := word (p * 2 ^ 24 + c % 2 ^ 24)

/-- The entry at an index; a slot that nothing has written is all zeros. -/
def entry (s : State) (i : Nat) : Entry := Tbl.get (fun _ => {}) s.copybook.entries i
/-- A slot is free: not valid, and its parity checks (R85). -/
def slotFree (s : State) (i : Nat) : Bool := !entryValid (entry s i) && parityOk (entry s i)

/-- The eight 32-bit words of an entry, in the order of CBC_DATA0 to 7. -/
def entryWords (e : Entry) : List Word :=
  [e.w0.setWidth 32, (e.w0 >>> 32).setWidth 32, e.w1.setWidth 32, (e.w1 >>> 32).setWidth 32,
   e.w2.setWidth 32, (e.w2 >>> 32).setWidth 32, e.w3.setWidth 32, (e.w3 >>> 32).setWidth 32]

/-! ## Hashes (R86) -/

/-- CRC32C(x XOR seed)[18:0]. -/
def cbHash (seed x : Word) : Nat := bits (crc32c (leBytes 4 (x ^^^ seed).toNat)) 18 0

/-- The two buckets of a key for a seed set: h2 moves to g XOR 1 when the hashes meet. -/
def cbBuckets (seed1 seed2 x : Word) : Nat × Nat :=
  let h := cbHash seed1 x
  let g := cbHash seed2 x
  (h, if g = h then g ^^^ 1 else g)

/-- CB_CTL.migrate (R98). -/
def migrating (s : State) : Bool := flag s Reg.CB_CTL 0
/-- Buckets by the current seed set. -/
def bucketsA (s : State) (x : Word) : Nat × Nat := cbBuckets (reg s Reg.CB_SEED_A0) (reg s Reg.CB_SEED_A1) x
/-- Buckets by the next seed set. -/
def bucketsB (s : State) (x : Word) : Nat × Nat := cbBuckets (reg s Reg.CB_SEED_B0) (reg s Reg.CB_SEED_B1) x
/-- Buckets in which an entry is placed now (R98). -/
def bucketsIn (s : State) (x : Word) : Nat × Nat := if migrating s then bucketsB s x else bucketsA s x

/-- The four slots of a bucket. -/
def waysOf (b : Nat) : List Nat := [4 * b, 4 * b + 1, 4 * b + 2, 4 * b + 3]

/-- The slots that a lookup of key `x` reads: both buckets, of both seed sets while migrating (R89, R98). -/
def cbProbe (s : State) (x : Word) : List Nat :=
  let a := bucketsA s x
  let l := waysOf a.1 ++ waysOf a.2
  if migrating s then waysOf (bucketsB s x).1 ++ waysOf (bucketsB s x).2 ++ l else l

/-- The slot that matches key `x` (R89). -/
def cbFind (s : State) (x : Word) : Option Nat :=
  (cbProbe s x).find? (fun i => entryValid (entry s i) && decide (entryKey (entry s i) = x) && parityOk (entry s i))

/-! ## Events and parity failures (R97, R100) -/

/-- Post an event (R100). -/
def cbPost (s : State) (ty data : Nat) : State :=
  if 256 ≤ s.copybook.events.length then
    irq (note (count s Reg.CB_EVENT_LOST) Reg.copybookPage 0x03) Reg.copybookPage 1
  else irq { s with copybook := { s.copybook with events := s.copybook.events ++ [word (ty * 2 ^ 28 + data)] } } Reg.copybookPage 0

/-- An event's data with a pid and an index. -/
def cbAt (s : State) (i : Nat) : Nat := entryPid (entry s i) * 2 ^ 21 + i

/-- A slot that a lookup or scan found with failing parity: reported once until it is written (R97). `access` is 5, or
0xD for an injected failure. -/
def cbBadSlot (s : State) (i access : Nat) : State :=
  if s.copybook.reported.contains i then s
  else note (cbPost { s with copybook := { s.copybook with reported := s.copybook.reported ++ [i] } } 4 (cbAt s i))
    Reg.copybookPage 0x00 access

/-- Report every failing slot among those that an access reads (R97). -/
def cbReportBad (s : State) (l : List Nat) : State :=
  (l.filter (fun i => !parityOk (entry s i))).foldl (fun s i => cbBadSlot s i 5) s

/-- An armed injection of source 0x00 or 0x01 meets this access to a slot: whether the slot fails parity for it (R337). A
single flipped bit of a SECDED word is corrected; anything else fails the slot (R97). -/
def cbInjected (s : State) (i : Nat) : Bool × State :=
  match takeInjection s Reg.copybookPage 0 with
  | (some _, s) => (true, cbBadSlot s i 0xD)
  | (none, s) => match takeInjection s Reg.copybookPage 1 with
    | (some 0, s) => (false, note s Reg.copybookPage 0x01 0xD)
    | (some _, s) => (true, cbBadSlot s i 0xD)
    | (none, s) => (false, s)

/-- A lookup of key `x`: the slot found, and the state with what it reported (R89, R97). An injection meets the slot that
matches, or the first one read where none does (DESIGN CHOICE, log entry 174). -/
def cbLookup (s : State) (x : Word) : Option Nat × State :=
  let s := cbReportBad s (cbProbe s x)
  match cbFind s x with
  | none => (none, (cbInjected s ((cbProbe s x).headD 0)).2)
  | some i => match cbInjected s i with
    | (true, s) => (none, s)
    | (false, s) => (some i, s)

/-! ## Writing a slot -/

/-- The entry stands in a bucket of the next set (R98). -/
def inNext (s : State) (i : Nat) (e : Entry) : Bool :=
  let b := bucketsB s (entryKey e)
  i / 4 = b.1 || i / 4 = b.2

/-- 1 when the slot's entry counts in CB_MIGRATE_LEFT (R98). -/
def leftCount (s : State) (i : Nat) (e : Entry) : Nat := (migrating s && entryValid e && !inNext s i e).toNat

/-- Write all 32 bytes of a slot (R89); its parity failure may be reported again (R97); CB_USED and CB_MIGRATE_LEFT
follow. -/
def cbPut (s : State) (i : Nat) (e : Entry) : State :=
  let old := entry s i
  let s := setFld s Reg.CB_USED 21 0 (fld s Reg.CB_USED 21 0 + (entryValid e).toNat - (entryValid old).toNat)
  let s := setFld s Reg.CB_MIGRATE_LEFT 21 0 (fld s Reg.CB_MIGRATE_LEFT 21 0 + leftCount s i e - leftCount s i old)
  { s with copybook := { s.copybook with entries := Tbl.set (fun _ => {}) s.copybook.entries i e,
                                         reported := s.copybook.reported.filter (· ≠ i) } }

/-- Entries that partition `p` uses (R93). -/
def cbUsed (s : State) (p : Nat) : Nat := fld s (Reg.CBC_USE p) 21 0
/-- Add to the entries of a partition. -/
def cbUse (s : State) (p : Nat) (d : Int) : State := setFld s (Reg.CBC_USE p) 21 0 (cbUsed s p + d).toNat

/-- Delete the entry of a slot: it counts against its partition no longer (R93). -/
def cbClear (s : State) (i : Nat) : State :=
  let p := entryPid (entry s i)
  cbUse (cbPut s i {}) p (-1)

/-- A hit that passed its link check (R91): at the slot that holds the key now (R90). -/
def cbHit (s : State) (x : Word) : State :=
  match cbFind s x with
  | none => s
  | some i =>
    let e := entry s i
    let hits := sat 0xFFFFFFFF (bits e.w2 63 32 + 1)
    cbPut s i (sealEntry { e with w2 := BitVec.ofNat 64 (hits * 2 ^ 32 + s.phase.now.orbit % 2 ^ 32) })

/-! ## Placing an entry (R94) -/

/-- The lowest free way of a bucket. -/
def freeWay (s : State) (b : Nat) : Option Nat := (waysOf b).find? (slotFree s)

/-- The other bucket of the entry in a slot of bucket `b`. -/
def otherBucket (s : State) (i b : Nat) : Nat :=
  let h := bucketsIn s (entryKey (entry s i))
  if b = h.1 then h.2 else h.1

/-- The displacement victim of a bucket at a step: the ways (CB_ROT + step + j) mod 4 in turn (R94). -/
def victim (s : State) (b step : Nat) (path : List (Nat × Nat)) : Option Nat :=
  ((List.range 4).map (fun j => 4 * b + (fld s Reg.CB_ROT 1 0 + step + j) % 4)).find? (fun i =>
    entryValid (entry s i) && parityOk (entry s i) && !(path.any (fun q => q.1 = i)) && (!migrating s || inNext s i (entry s i)))

/-- The path of displacements: (slot, alternate bucket), nearest to h1 first; `fuel` steps are left of 8 (R94). -/
def cbPath (s : State) : Nat → Nat → Nat → List (Nat × Nat) → Option (List (Nat × Nat))
  | 0, _, _, _ => none
  | fuel + 1, step, b, path =>
    match victim s b step path with
    | none => none
    | some v =>
      let a := otherBucket s v b
      let path := path ++ [(v, a)]
      if (freeWay s a).isSome then some path else cbPath s fuel (step + 1) a path

/-- Move the entry of slot `v` into a free way of bucket `a`, destination first (R90). -/
def cbDisplace (s : State) (q : Nat × Nat) : State :=
  match freeWay s q.2 with
  | none => s
  | some d =>
    let e := entry s q.1
    cbPut (cbPut s d e) q.1 {}

/-- Place an entry with a valid key: its slot and the number of displacements, or none for FULL (R94). -/
def cbPlace (s : State) (e : Entry) : Option (Nat × Nat) × State :=
  let h := bucketsIn s (entryKey e)
  match (freeWay s h.1).or (freeWay s h.2) with
  | some i => (some (i, 0), cbPut s i e)
  | none => match cbPath s 8 1 h.1 [] with
    | none => (none, s)
    | some path =>
      let s := path.reverse.foldl cbDisplace s
      let i := (path.headD (0, 0)).1
      (some (i, path.length), countFld (cbPut s i e) Reg.CB_ROT 1 0)

/-! ## The command engine (R92, R93) -/

/-- A command's index field, and its force as the rule lets it act: slot 0, by the partition authority (R93). -/
def cmdIndex (w : Word) : Nat := bits w 28 8
def cmdForce (c : CbWaiting) : Bool := bit c.cmd 29 && c.slot = 0 && c.authority

/-- CBC_DATA words of a slot as an entry image. -/
def cbData (s : State) (p : Nat) : Entry :=
  let d := fun i => (reg s (Reg.CBC_DATA0 p + 4 * i)).toNat
  let q := fun k => BitVec.ofNat 64 (d (2 * k) + d (2 * k + 1) * 2 ^ 32)
  { w0 := q 0, w1 := q 1, w2 := q 2, w3 := q 3 }

/-- Put an entry image into CBC_DATA0 to 7. -/
def cbShow (s : State) (p : Nat) (e : Entry) : State :=
  (entryWords e).zipIdx.foldl (fun s w => setReg s (Reg.CBC_DATA0 p + 4 * w.2) w.1) s

/-- The key in CBC_DATA0 of a slot; the pid is the slot number (R92). -/
def cbDataKey (s : State) (p : Nat) : Word := cbKey p (fld s (Reg.CBC_DATA0 p) 23 0)

/-- The entry that INSERT or REPLACE writes for partition `p`: reserved bits 0, pid the slot, `learned` and word 2 as
given, parity new (R84, R92). -/
def cbCompose (img : Entry) (p : Nat) (learned : Bool) (w2 : BitVec 64) : Entry :=
  let w0 := setBit (setBits (setBits (setBit img.w0 28 true) 27 24 p) 31 30 0) 29 learned
  sealEntry { w0 := setBits w0 47 45 0, w1 := img.w1, w2 := w2, w3 := BitVec.ofNat 64 (bits img.w3 31 0) }

/-- Word 2 of a new entry: hits 0, last_seen the current orbit (R92). -/
def cbNewSeen (s : State) : BitVec 64 := BitVec.ofNat 64 (s.phase.now.orbit % 2 ^ 32)

/-- The action is reserved, or the class is neither 15 nor owned by the partition (R93). -/
def cbRefused (s : State) (p action cls : Nat) : Bool :=
  decide (3 < action) || (cls != 15 && fld s (Reg.ST_CLASS cls) 27 24 != p)

/-- What a command answers: its status, the index found or written, and the state. -/
abbrev CbAnswer := Byte × Option Nat × State

/-- LOOKUP. -/
def cbDoLookup (c : CbWaiting) (s : State) : CbAnswer :=
  match cbLookup s (cbDataKey s c.slot) with
  | (none, s) => (stEmpty, none, s)
  | (some i, s) => (stOk, some i, cbShow s c.slot (entry s i))

/-- READ: NOT_OWNER, PARITY, EMPTY, OK, checked in that order. -/
def cbDoRead (c : CbWaiting) (s : State) : CbAnswer :=
  let i := cmdIndex c.cmd
  if entryPid (entry s i) ≠ c.slot ∧ ¬ cmdForce c then (stNotOwner, some i, s)
  else match cbInjected (cbShow s c.slot (entry s i)) i with
    | (bad, s) =>
      (if bad ∨ ¬ parityOk (entry s i) then stParity else if ¬ entryValid (entry s i) then stEmpty else stOk, some i, s)

/-- INSERT: REFUSED, ALREADY_DONE, OVER_QUOTA and FULL, checked in that order (R93, R94; DESIGN CHOICE, log entry 171). -/
def cbDoInsert (c : CbWaiting) (s : State) : CbAnswer :=
  let p := c.slot
  let img := cbData s p
  let s := setFld s (Reg.CBC_USE p) 31 28 0
  if cbRefused s p (entryAction img) (entryClass img) then (stRefused, none, s)
  else match cbLookup s (cbDataKey s p) with
    | (some i, s) => (stAlready, some i, s)
    | (none, s) =>
      if fld s (Reg.CB_PLIM p) 21 0 ≤ cbUsed s p then (stOverQuota, none, s)
      else match cbPlace s (cbCompose img p false (cbNewSeen s)) with
        | (none, s) => (stFull, none, cbPost s 1 (cbDataKey s p).toNat)
        | (some (i, n), s) => (stOk, some i, setFld (cbUse s p 1) (Reg.CBC_USE p) 31 28 n)

/-- REPLACE: learned, hits and last_seen stay (R92); REFUSED is checked before EMPTY (DESIGN CHOICE, log entry 171). -/
def cbDoReplace (c : CbWaiting) (s : State) : CbAnswer :=
  let p := c.slot
  let img := cbData s p
  if cbRefused s p (entryAction img) (entryClass img) then (stRefused, none, s)
  else match cbLookup s (cbDataKey s p) with
    | (none, s) => (stEmpty, none, s)
    | (some i, s) => (stOk, some i, cbPut s i (cbCompose img p (entryLearned (entry s i)) (entry s i).w2))

/-- DELETE. -/
def cbDoDelete (c : CbWaiting) (s : State) : CbAnswer :=
  match cbLookup s (cbDataKey s c.slot) with
  | (none, s) => (stEmpty, none, s)
  | (some i, s) => (stOk, some i, cbClear s i)

/-- DELETE_IDX: also clears a slot whose parity fails (R92, R93). -/
def cbDoDeleteIdx (c : CbWaiting) (s : State) : CbAnswer :=
  let i := cmdIndex c.cmd
  if entryPid (entry s i) ≠ c.slot ∧ ¬ cmdForce c then (stNotOwner, some i, s)
  else if slotFree s i then (stEmpty, some i, s)
  else (stOk, some i, cbClear s i)

/-- CLEAR_HITS. -/
def cbDoClearHits (c : CbWaiting) (s : State) : CbAnswer :=
  match cbLookup s (cbDataKey s c.slot) with
  | (none, s) => (stEmpty, none, s)
  | (some i, s) => (stOk, some i, cbPut s i (sealEntry { entry s i with w2 := setBits (entry s i).w2 63 32 0 }))

/-- MOVE (R92, R98, R99): outside a migration there is no next set to move to, and a slot whose parity fails has no key
to trust (DEDUCED, log entry 19). -/
def cbDoMove (c : CbWaiting) (s : State) : CbAnswer :=
  let i := cmdIndex c.cmd
  let e := entry s i
  if entryPid e ≠ c.slot ∧ ¬ cmdForce c then (stNotOwner, some i, s)
  else if slotFree s i then (stEmpty, some i, s)
  else if ¬ parityOk e ∨ ¬ migrating s then (stRefused, some i, s)
  else if inNext s i e then (stAlready, some i, s)
  else match cbPlace s e with
    | (none, s) => (stFull, some i, cbPost s 1 (entryKey e).toNat)
    | (some (d, _), s) => (stOk, some d, cbPut s i {})

/-- The requester whose turn it is: the first after the one served last with something waiting (R93). -/
def cbTurn (s : State) : Option Nat :=
  ((List.range 17).map (fun j => (s.copybook.served + 1 + j) % 17)).find? (fun r =>
    if r = 16 then !s.copybook.learn.isEmpty else s.copybook.waiting.any (fun c => c.slot = r))

/-- The end of a command: CBC_RESULT holds the status, STALE_EPOCH when the partition's epoch advanced meanwhile, and
the index found or written, or the one that the command gave (DESIGN CHOICE, log entry 172); busy clears. A command
refused records source 0x04 with its master (R3, R92, R93, R102). -/
def cbFinish (c : CbWaiting) (a : CbAnswer) : State :=
  let (st, ix, s) := a
  let s := if st = stRefused then note s Reg.copybookPage 0x04 6 c.mid (Reg.CBC_CMD c.slot) else s
  let st := if partEpoch s c.slot = c.epoch then st else stStale
  let s := setFld (setFlag s (Reg.CBC_RESULT c.slot) 31 false) (Reg.CBC_RESULT c.slot) 7 0 st.toNat
  let s := match ix with
    | some i => setFld s (Reg.CBC_RESULT c.slot) 28 8 i
    | none => s
  irq s Reg.copybookPage 2

/-- A write of CBC_CMD: it waits for the engine, or is refused while the slot is busy (R92) and, with status REFUSED, while
the partition is RESETTING (R280). -/
def cbSubmit (p : Nat) (cmd : Word) (authority : Bool) (s : State) : State :=
  if flag s (Reg.CBC_RESULT p) 31 then refuseWrite (setFlag s (Reg.CBC_RESULT p) 30 true) Reg.copybookPage 0x04 (Reg.CBC_CMD p)
  else
    let (mid, s) := writerMid s
    let c : CbWaiting := { slot := p, cmd := cmd, authority := authority, epoch := partEpoch s p, mid := mid }
    if partState s p = 6 then cbFinish c (stRefused, none, s)
    else
      let s := setFlag s (Reg.CBC_RESULT p) 31 true
      { s with copybook := { s.copybook with waiting := s.copybook.waiting ++ [c] } }

/-- The engine serves the waiting command of slot `p`, if it is that slot's turn and the command's op satisfies `ty`
(R93). What waits was written before any freeze, so it is served on a frozen page too (R386). -/
def cbServe (p : Nat) (ty : Nat → Bool) (run : CbWaiting → State → CbAnswer) (s : State) : State :=
  match s.copybook.waiting.find? (fun c => c.slot = p && ty (bits c.cmd 3 0)) with
  | none => s
  | some c =>
    if cbTurn s = some p ∧ pageOn s Reg.copybookPage then
      let s := { s with copybook := { s.copybook with served := p, waiting := s.copybook.waiting.erase c } }
      cbFinish c (run c s)
    else s

/-- A command row: where nothing waits in the slot, CBC_CMD is written with op `op` first; then the engine serves the
slot if it is its turn. -/
def cbCommand (p : Nat) (cmd : Word) (authority : Bool) (op : Nat) (run : CbWaiting → State → CbAnswer) (s : State) : State :=
  let s := if s.copybook.waiting.any (fun c => c.slot = p) ∨ ¬ starts s Reg.copybookPage then s
    else cbSubmit p (setBits cmd 3 0 op) authority s
  cbServe p (· = op) run s

/-- A reserved command code, 0x9 to 0xF; a word with another op is taken as 0x9. -/
def cbReserved (p : Nat) (cmd : Word) (s : State) : State :=
  let op := if 9 ≤ bits cmd 3 0 then bits cmd 3 0 else 9
  let s := if s.copybook.waiting.any (fun c => c.slot = p) ∨ ¬ starts s Reg.copybookPage then s
    else cbSubmit p (setBits cmd 3 0 op) false s
  cbServe p (9 ≤ ·) (fun _ s => (stRefused, none, s)) s

/-! ## Learning (R95) -/

/-- A miss of partition `p` whose link check passed requests an insert. -/
def cbLearnRequest (s : State) (p : Nat) (x : Word) : State :=
  if ¬ enField s Reg.copybookPage (Reg.CBC_LEARN p) 31 then s
  else if 64 ≤ s.copybook.learn.length then count s Reg.CB_LEARN_DROP
  else { s with copybook := { s.copybook with learn := s.copybook.learn ++ [(p, x)] } }

/-- The entry of partition `p`'s template for key `x`. -/
def cbTemplateEntry (s : State) (p : Nat) (x : Word) : Entry :=
  let t := reg s (Reg.CBC_LEARN p)
  let img : Entry := { w0 := BitVec.ofNat 64 (bits t 23 16 * 2 ^ 56 + bits t 15 8 * 2 ^ 48 + bits t 27 24 * 2 ^ 40
                        + bits t 1 0 * 2 ^ 32 + bits x 23 0) }
  cbCompose img p true (cbNewSeen s)

/-- LEARN_SERVE (R93, R95). -/
def learnServe (s : State) : State :=
  match s.copybook.learn with
  | [] => s
  | (p, x) :: rest =>
    if cbTurn s ≠ some 16 ∨ ¬ pageOn s Reg.copybookPage then s
    else
      let s := { s with copybook := { s.copybook with served := 16, learn := rest } }
      match cbLookup s x with
      | (some _, s) => s
      | (none, s) =>
        if cbRefused s p (fld s (Reg.CBC_LEARN p) 1 0) (fld s (Reg.CBC_LEARN p) 27 24) then
          note (count s Reg.CB_LEARN_DROP) Reg.copybookPage 0x04
        else if fld s (Reg.CB_PLIM p) 21 0 ≤ cbUsed s p then cbPost s 3 x.toNat
        else match cbPlace s (cbTemplateEntry s p x) with
          | (none, s) => cbPost (cbPost s 2 x.toNat) 1 x.toNat
          | (some _, s) => cbUse s p 1

/-! ## Aging (R96) -/

/-- An entry is stale. -/
def cbStale (s : State) (e : Entry) : Bool :=
  let a := Reg.CBC_AGE (entryPid e)
  enField s Reg.copybookPage a 31
    && decide (fld s a 23 0 < (s.phase.now.orbit % 2 ^ 32 + 2 ^ 32 - bits e.w2 31 0) % 2 ^ 32)

/-- The scanner looks at one slot (R96, R97). -/
def ageSlot (s : State) (i : Nat) : State :=
  let e := entry s i
  if ¬ parityOk e then cbBadSlot s i 5
  else
  let (bad, s) := cbInjected s i
  if bad then s
  else if ¬ entryValid e ∨ ¬ cbStale s e then s
  else if flag s (Reg.CBC_AGE (entryPid e)) 30 then cbPost (cbClear s i) 6 (cbAt s i)
  else cbPost s 5 (cbAt s i)

/-- AGING_SCAN: one bucket, then the next. -/
def agingScan (s : State) : State :=
  if ¬ starts s Reg.copybookPage then s
  else
    let b := s.copybook.scan
    let s := (waysOf b).foldl ageSlot s
    { s with copybook := { s.copybook with scan := (b + 1) % 524288 } }

/-! ## Rehash (R98) -/

/-- The valid entries that do not stand in a bucket of the next set. -/
def cbLeft (s : State) : Nat := (s.copybook.entries.filter (fun e => entryValid e.2 && !inNext s e.1 e.2)).length

/-- Recompute CB_MIGRATE_LEFT; the rule allows one scan pass for it (log entry 20). -/
def cbRecount (s : State) : State := setFld s Reg.CB_MIGRATE_LEFT 21 0 (cbLeft s)

/-- CB_MIGRATE_SET. -/
def migrateSet (s : State) : State := if migrating s then s else cbRecount (setFlag s Reg.CB_CTL 0 true)

/-- Exchange the two seed sets. -/
def swapSeeds (s : State) : State :=
  let a0 := reg s Reg.CB_SEED_A0
  let a1 := reg s Reg.CB_SEED_A1
  let s' := setReg (setReg s Reg.CB_SEED_A0 (reg s Reg.CB_SEED_B0)) Reg.CB_SEED_A1 (reg s Reg.CB_SEED_B1)
  setReg (setReg s' Reg.CB_SEED_B0 a0) Reg.CB_SEED_B1 a1

/-- CB_MIGRATE_CLEAR: refused while the count is not 0; the next set becomes the current one. -/
def migrateClear (s : State) : State :=
  if ¬ migrating s then s
  else if fld s Reg.CB_MIGRATE_LEFT 21 0 ≠ 0 then refuseWrite s Reg.copybookPage 0x04 Reg.CB_CTL
  else setReg (setReg (setFlag s Reg.CB_CTL 0 false) Reg.CB_SEED_A0 (reg s Reg.CB_SEED_B0)) Reg.CB_SEED_A1 (reg s Reg.CB_SEED_B1)

/-- CB_SWAP. -/
def cbSwap (s : State) : State := if migrating s then cbRecount (swapSeeds s) else s

/-- CB_EVENT_POP: the read of CB_EVENT (R100). -/
def cbEventPop (s : State) : State :=
  match s.copybook.events with
  | [] => respond s [0]
  | e :: r => respond { s with copybook := { s.copybook with events := r } } [e.toNat]

/-! ## The commands -/

/-- CB_NOP. -/
def execCbNop (p : PartId) (cmd : Word) (s : State) : Host.Outcome State Fault Refusal :=
  .next (cbCommand p cmd false 0 (fun _ s => (stOk, none, s)) s)
/-- CB_LOOKUP. -/
def execCbLookup (p : PartId) (cmd : Word) (s : State) : Host.Outcome State Fault Refusal :=
  .next (cbCommand p cmd false 1 cbDoLookup s)
/-- CB_READ. -/
def execCbRead (p : PartId) (cmd : Word) (authority : Bool) (s : State) : Host.Outcome State Fault Refusal :=
  .next (cbCommand p cmd authority 2 cbDoRead s)
/-- CB_INSERT. -/
def execCbInsert (p : PartId) (cmd : Word) (s : State) : Host.Outcome State Fault Refusal :=
  .next (cbCommand p cmd false 3 cbDoInsert s)
/-- CB_REPLACE. -/
def execCbReplace (p : PartId) (cmd : Word) (s : State) : Host.Outcome State Fault Refusal :=
  .next (cbCommand p cmd false 4 cbDoReplace s)
/-- CB_DELETE. -/
def execCbDelete (p : PartId) (cmd : Word) (s : State) : Host.Outcome State Fault Refusal :=
  .next (cbCommand p cmd false 5 cbDoDelete s)
/-- CB_DELETE_IDX. -/
def execCbDeleteIdx (p : PartId) (cmd : Word) (authority : Bool) (s : State) : Host.Outcome State Fault Refusal :=
  .next (cbCommand p cmd authority 6 cbDoDeleteIdx s)
/-- CB_CLEAR_HITS. -/
def execCbClearHits (p : PartId) (cmd : Word) (s : State) : Host.Outcome State Fault Refusal :=
  .next (cbCommand p cmd false 7 cbDoClearHits s)
/-- CB_MOVE. -/
def execCbMove (p : PartId) (cmd : Word) (authority : Bool) (s : State) : Host.Outcome State Fault Refusal :=
  .next (cbCommand p cmd authority 8 cbDoMove s)
/-- CB_RESERVED_CMD. -/
def execCbReservedCmd (p : PartId) (cmd : Word) (s : State) : Host.Outcome State Fault Refusal := .next (cbReserved p cmd s)
/-- LEARN_SERVE. -/
def execLearnServe (s : State) : Host.Outcome State Fault Refusal := .next (learnServe s)
/-- AGING_SCAN. -/
def execAgingScan (s : State) : Host.Outcome State Fault Refusal := .next (agingScan s)
/-- CB_MIGRATE_SET. -/
def execCbMigrateSet (s : State) : Host.Outcome State Fault Refusal := .next (migrateSet s)
/-- CB_MIGRATE_CLEAR. -/
def execCbMigrateClear (s : State) : Host.Outcome State Fault Refusal := .next (migrateClear s)
/-- CB_SWAP. -/
def execCbSwap (s : State) : Host.Outcome State Fault Refusal := .next (cbSwap s)
/-- CB_EVENT_POP. -/
def execCbEventPop (s : State) : Host.Outcome State Fault Refusal := .next (cbEventPop s)

end Sys2Proof.Machine
end

