-- ==== Sys2Proof/Machine/Counting.lean ====
section
/-! DEFINITION. What the performance counters count of an event, samples, bandwidth bytes, and supervisor notices
(R161, R162, R360–R366). Cycle counts are left out (log entry 22). -/

namespace Sys2Proof.Machine

/-- A FIFO of channel `c` of Nib `n` has room for a message: 16 messages, those claimed and not read out included
(R154, R155). -/
def chanRoom (s : State) (n c : Nat) : Bool := (chan s n c).msgs.length + (chan s n c).claimed < 16

/-- The room of CH31 of Nib `n` for notices: only they enter it, so those on their way take it in order (R154, R161). -/
def noticeRoom (s : State) (n : Nat) : Nat := 16 - ((chan s n 31).msgs.length + (chan s n 31).claimed)

/-- The notices of Nib `n` that find CH31 full: they are held at their source (R162; DEDUCED, log entry 176). -/
def noticesHeld (s : State) (n : Nat) : Nat := (nib s n).notices.length - noticeRoom s n

/-- A hardware notice for CH31 of Nib `n`: it waits at its source for NOTICE_DELIVER, and is held when CH31 is full
(R161, R162, R166). -/
def postNotice (s : State) (n : Nat) (words : List Word) : State :=
  let s := if (nib s n).notices.length < noticeRoom s n then s else irq s (Reg.nibPage n) 2
  modNib s n (fun b => { b with notices := b.notices ++ [words] })

/-- Add to a 48-bit counter at LO address `a`; whether it wrapped (R362). -/
def add48 (s : State) (a k : Nat) : Bool × State :=
  let v := (reg s a).toNat + fld s (a + 4) 15 0 * 2 ^ 32 + k
  (2 ^ 48 ≤ v, setFld (setReg s a (word v)) (a + 4) 15 0 (v / 2 ^ 32))

/-- Take a sample of thread `t` for counter `i` of Nib `n` (R364): the PC that is recorded lies 0 to 6 instructions
after the causing one and the rule leaves which, so it is free (log entry 23). -/
def takeSample (s : State) (n i t : Nat) : State :=
  if flag s (Reg.PC_SAMPLE_INFO n) 31 then setFlag s (Reg.PC_SAMPLE_INFO n) 30 true
  else
    let pc := Config.freePc s.free
    let s := { s with free := s.free + 1 }
    let s := setReg s (Reg.PC_SAMPLE_PC n) (pc.setWidth 32)
    let s := setReg s (Reg.PC_SAMPLE_INFO n)
      (word (2 ^ 31 + fld s (Reg.PC_SAMPLE_INFO n) 30 30 * 2 ^ 30 + i * 2 ^ 10 + t % 1024))
    match fld s (Reg.PC_SEL n i) 28 27 with
    | 1 => postNotice s n [word (4 * 2 ^ 24 + t % 1024), pc.setWidth 32, word i, spsNow s, 0, 0, 0, 0]
    | 2 => irq (if n = 128 then setFlag s Reg.PF_SAMPLE_STW 0 true else setFlag s (Reg.PF_SAMPLE (n / 32)) (n % 32) true)
        Reg.perfPage 0
    | _ => s

/-- Counter `i` of Nib `n` meets `k` events of code `evt` of thread `t` (R360–R364). -/
def pcCount (n t evt k : Nat) (s : State) (i : Nat) : State :=
  let sel := reg s (Reg.PC_SEL n i)
  if bit sel 31 ∧ bits sel 7 0 = evt ∧ bits sel 15 8 / 2 ^ idxOf t % 2 = 1 then
    match add48 s (Reg.PC_CNT_LO n i) (if bit sel 30 then 1 else k) with
    | (false, s) => s
    | (true, s) =>
      let s := setFlag s (Reg.PC_OVF n) i true
      if bit sel 29 then takeSample s n i t else s
  else s

/-- `k` events of code `evt` of thread `t` (the codes marked T of R366). -/
def pcEvent (s : State) (t evt : Nat) (k : Nat := 1) : State :=
  let n := nibOf t
  if k = 0 ∨ ¬ flag s (Reg.PG_CTL (Reg.nibPage n)) 0 ∨ (nib s n).fenced ∨ flag s (Reg.PC_CTL n) 0 ∨ frozenAll s ∨ (thread s t).state = .halted then s
  else (List.range 8).foldl (pcCount n t evt k) s

/-- Counter `i` of Quill `q` meets an event (R360). -/
def qpcCount (q evt : Nat) (s : State) (i : Nat) : State :=
  let sel := reg s (Reg.QPC_SEL q i)
  if bit sel 31 ∧ bits sel 7 0 = evt then
    match add48 s (Reg.QPC_CNT_LO q i) 1 with
    | (false, s) => s
    | (true, s) => setFlag s (Reg.QPC_OVF q) i true
  else s

/-- An event of a Quill (codes 0x40 to 0x4B of R366). -/
def qpcEvent (s : State) (q evt : Nat) : State := if frozenAll s ∨ ¬ flag s (Reg.PG_CTL (Reg.quillPage q)) 0 then s else (List.range 4).foldl (qpcCount q evt) s

end Sys2Proof.Machine
end

