-- ==== Sys2Proof/Machine/Memory.lean ====
section
/-! DEFINITION. D-space: what a thread may reach, what it reads there, the check bits of memory, posted stores and the
requests that accesses put before the DRAM controllers (R88, R106–R109, R143, R239, R256, R258). -/

namespace Sys2Proof.Machine

/-- The privilege level of a thread: 3 M, 1 S, 0 U (R104). -/
def level (s : State) (t : Nat) : Nat := bits (thread s t).st 31 30

/-- Power domain of a Nib (R346). -/
def nibDomain (n : Nat) : Nat := if n = 128 then 1 else 8 + n / 8

/-- The device DRAM address behind a D-space address, through its window (R107). -/
def windowAddr (s : State) (n addr : Nat) : Option Nat :=
  let d := reg s (Reg.DWIN n (addr / dramUnit % 8))
  if bit d 31 then some (bits d 11 0 * dramUnit + addr % dramUnit) else none

/-- Where a D-space access of thread `t` goes: its memory key, or none for DACC (R107, R348). -/
def route (s : State) (t addr : Nat) (write : Bool) : Option Nat :=
  let n := nibOf t
  let l := level s t
  let off := addr - 0x10000000
  if addr < 0x20000 then some (localData n + addr)
  else if addr < 0x10000000 then none
  else if addr < 0x1E000000 then if domainOn s 2 ∧ (¬ write ∨ 0xC000000 ≤ off) then some off else none
  else if addr < 0x1F800000 then
    let m := (off - 0xE000000) / 0x30000
    let own := l = 3 ∨ nibPid s m = tidPid s t
    if ¬ domainOn s (nibDomain m) ∨ ¬ own then none
    else if (off - 0xE000000) % 0x30000 < 0x10000 then (if write ∨ l = 0 then none else some off)
    else some off
  else if addr < 0x20000000 then if domainOn s 2 ∧ (l = 3 ∨ (l = 1 ∧ ¬ write)) then some off else none
  else if addr < 0x40000000 then
    match windowAddr s n addr with
    | some a =>
      if domainOn s 3 ∧ (dramPid s a = some (tidPid s t) ∨ (l = 3 ∧ imode s ∧ (dramPid s a).isSome)) then some (dramKey a) else none
    | none => none
  else none

/-- A DRAM access whose address decodes to nothing is also a decode error of the controller, of access type `acc` (R259,
R323). -/
def noteDecode (s : State) (t addr acc : Nat) : State :=
  if 0x20000000 ≤ addr ∧ addr < 0x40000000 then
    match windowAddr s (nibOf t) addr with
    | some a => if domainOn s 3 ∧ (dramPid s a).isNone then
        note s (Reg.ddrPage 0) 0x05 acc (nibMid (nibOf t)) a else s
    | none => s
  else s

/-- The byte of the Copybook region at key `k` (R87). -/
def entryByte (s : State) (k : Nat) : Byte :=
  byteOf ((entryWords (entry s ((k - 0x8000000) / 32))).getD (k % 32 / 4) 0).toNat (k % 4)

/-- One byte as thread `t` reads it from a key: a Copybook entry of another partition reads 0 at every level (R88), a Scroll
line of one below M (R239), and so does a Blotter record below M that is not attributed to the thread's partition (R334). -/
def seeByte (s : State) (t k : Nat) : Byte :=
  let p := tidPid s t
  let m := level s t = 3
  if k < 0x8000000 then
    if m ∨ (Tbl.get (fun _ => {}) s.lineTags (k / 64) : LineTag).pid = p then rd s k else 0
  else if k < 0xC000000 then
    if entryPid (entry s ((k - 0x8000000) / 32)) = p then entryByte s k else 0
  else if 0xFFF8000 ≤ k ∧ k < 0x10000000 then
    if m ∨ rd s (k - k % 32 + 11) = BitVec.ofNat 8 (0x80 + p) then rd s k else 0
  else rd s k

/-- A key as the thread's own posted stores leave it, newest first (R109). -/
def posted (l : List PostedStore) (k : Nat) : Option Byte :=
  match l.reverse.find? (fun e => decide (e.key ≤ k ∧ k < e.key + e.data.length)) with
  | some e => some (e.data.getD (k - e.key) 0)
  | none => none

/-- The byte that a load of thread `t` sees: its own posted stores over memory. -/
def loadByte (s : State) (t k : Nat) : Byte := (posted (thread s t).stbuf k).getD (seeByte s t k)

/-- A posted full-word store of the thread renews the check bits of the 64-bit word that holds key `k` (R109, log entry
165). -/
def renewed (l : List PostedStore) (k : Nat) : Bool := l.any (fun e => e.data.length = 4 && e.key / 8 = k / 8)

/-- The little-endian number of `size` bytes. -/
def loadValue (s : State) (t k size : Nat) : Nat := leNat ((List.range size).map (fun i => loadByte s t (k + i)))

/-- The check that a load or another read of thread `t` meets: none where its own earlier store renews the word (R109). -/
def checkLoad (s : State) (t k : Nat) (acc : Nat := 0) : Bool × State :=
  if renewed (thread s t).stbuf k then (false, s) else checkRead s k (nibMid (nibOf t)) acc

/-- An access that crosses the fabric meets an injection armed on its parity check, source 0x06 (R328, R337; log entry
50). -/
def fabricCheck (s : State) (mid k : Nat) : State :=
  match takeInjection s Reg.blotterPage 6 with
  | (some _, s) => fault s Reg.blotterPage 0x06 0xD mid k
  | (none, s) => s

/-- A read or write of a shared or DRAM key by thread `t`: bytes counted, DRAM requested. -/
def sharedAccess (s : State) (t k n : Nat) (write : Bool) : State :=
  let s := fabricCheck s (nibMid (nibOf t)) k
  let s := bwKey (bw s (nibPort (nibOf t)) n) k n write
  dramRequest s k (nibMid (nibOf t)) write

/-! ## Stores -/

/-- A template that is enabled, or under check, and covers a key (R191). -/
def templateLocked (s : State) (k : Nat) : Bool :=
  0xF800000 ≤ k && k < 0xF880000 &&
    (s.ductus.enabled.contains ((k - 0xF800000) / 0x800) || s.ductus.checking.contains ((k - 0xF800000) / 0x800))

/-- A store to a template's h0 that moves the template between partitions that may not move it (R188, R267). The page has
no source for such a write, which is dropped (R210; DEDUCED, log entry 184). -/
def movesTemplate (s : State) (k : Nat) (bs : List Byte) : Bool :=
  let o := (k - 0xF800000) % 0x800
  0xF800000 ≤ k && k < 0xF880000 && decide (o ≤ 3 ∧ 3 < o + bs.length) &&
    (let old := bits (rd s (k - o + 3)) 3 0
     let new := bits (bs.getD (3 - o) 0) 3 0
     old != new && !mayMove s old new)

/-- A store of up to four aligned bytes for key `k` reaches the memory that keeps it at `j`. The check bits of a whole word
are new (log entry 165); so are those of a DRAM word that is good, which a smaller store makes again (R256). -/
def storeKept (s : State) (j k : Nat) (bs : List Byte) : State :=
  let s' := { s with mem := (bs.zipIdx.foldl (fun m e => Tbl.set memDefault m (j + e.2) e.1) s.mem) }
  if bs.length = 4 ∨ (dramBase ≤ j ∧ ¬ (xor (Tbl.get (fun _ => false) s.badWords (j / 8)) (inPoison s j) ∨ wrongAddr s j k)) then
    renewKept s' j k else s'

/-- A store reaches memory: template words follow R191, other store words above them are dropped (R234, log entry 24). -/
def storeBytes (s : State) (k : Nat) (bs : List Byte) (mid : Nat) : State :=
  if templateLocked s k then note s Reg.ductusPage 0x07 1 mid k
  else if movesTemplate s k bs ∨ 0xF880000 ≤ k ∧ k < 0x10000000 then s
  else match memKey s k with
    | some j => storeKept s j k bs
    | none => s

/-- A kept DRAM byte lies in a lost rank. -/
def keptLost (s : State) (j : Nat) : Bool :=
  dramBase ≤ j && rankLost s ((j - dramBase) / 2 ^ 37) (rankOf s ((j - dramBase) / 2 ^ 37) ((j - dramBase) % 2 ^ 37))

/-- The store buffer has room: 4 entries (R143). -/
def storeRoom (s : State) (t : Nat) : Bool := (thread s t).stbuf.length < 4

/-- Post a store (R143). -/
def postStore (s : State) (t k : Nat) (bs : List Byte) : State :=
  modThread s t (fun th => { th with stbuf := th.stbuf ++ [{ key := k, data := bs, home := if k < dramBase then none else memKey s k }] })

/-- A key lies in a Nib's own local data. -/
def isLocal (n k : Nat) : Bool := localData n ≤ k && k < localData n + 0x20000

/-- The oldest posted store of a thread is written: in DRAM where the mapping at its issue put it, unless that rank has been
lost since (R259, R264). -/
def drainOne (s : State) (t : Nat) : State :=
  match (thread s t).stbuf with
  | [] => s
  | e :: r =>
    let s := modThread s t (fun th => { th with stbuf := r })
    let s := if isLocal (nibOf t) e.key then s else sharedAccess s t e.key e.data.length true
    match e.home with
    | some j => if keptLost s j then s else storeKept s j e.key e.data
    | none => if e.key < dramBase then storeBytes s e.key e.data (nibMid (nibOf t)) else s

/-- STORE_BUFFER_DRAIN (R143): the oldest entry is written; a DRAM write waits for room at its subchannel. -/
def storeBufferDrain (t : Nat) (s : State) : State :=
  match (thread s t).stbuf with
  | [] => s
  | e :: _ => if dramRoom s e.key then drainOne s t else s

/-- STORE_BUFFER_DRAIN. -/
def execStoreBufferDrain (t : Tid) (s : State) : Host.Outcome State Fault Refusal := .next (storeBufferDrain t s)

end Sys2Proof.Machine
end

