-- ==== Sys2Proof/Machine/Operands.lean ====
section
/-! DEFINITION. Mukalu instruction words: formats, fields, operands and the forms an operand takes (R103, R112, R113,
R120, R123, R131). -/

namespace Sys2Proof.Machine

/-! ## Fields (R112) -/

/-- Major opcode. -/
def wOp (w : Word) : Nat := bits w 31 26
/-- d, a and b register fields. -/
def wD (w : Word) : Nat := bits w 25 21
def wA (w : Word) : Nat := bits w 20 16
def wB (w : Word) : Nat := bits w 15 11
/-- fn of format F3. -/
def wFn (w : Word) : Nat := bits w 10 0
/-- s of FI, sz of FM. -/
def wS (w : Word) : Nat := bits w 15 14
/-- imm of FI, disp of FM. -/
def wImm (w : Word) : Nat := bits w 13 0
/-- sub of FX. -/
def wSub (w : Word) : Nat := bits w 15 8
/-- x of FX. -/
def wX (w : Word) : Nat := bits w 7 0
/-- cond, link and offset of FB. -/
def wCond (w : Word) : Nat := bits w 25 22
def wLink (w : Word) : Bool := bit w 21
def wOff (w : Word) : Nat := bits w 19 0
/-- port of FP. -/
def wPort (w : Word) : Nat := bits w 15 0

/-- Sign extension of the low `n` bits to a word. -/
def sext (n v : Nat) : Word := word (if v / 2 ^ (n - 1) % 2 = 1 then v % 2 ^ n + 2 ^ 32 - 2 ^ n else v % 2 ^ n)

/-! ## Registers (R103) -/

/-- W register `i` of thread `t`. -/
def wreg (s : State) (t i : Nat) : Word := Tbl.get (fun _ => 0) (thread s t).w i
/-- Store W register `i`. -/
def setW (s : State) (t i : Nat) (v : Word) : State := modThread s t (fun th => { th with w := Tbl.set (fun _ => 0) th.w i v })
/-- Store ST. -/
def setSt (s : State) (t : Nat) (v : Word) : State := modThread s t (fun th => { th with st := v })

/-! ## Operand values -/

/-- The hi field of the EXT word that stands before the instruction. -/
def extHi (s : State) (t : Nat) : Option (BitVec 18) :=
  match (thread s t).pfx with
  | .ext hi => some hi
  | _ => none

/-- The sign-extended immediate, or the 32-bit value under EXT (R117, R131). -/
def immS (s : State) (t : Nat) (w : Word) : Word :=
  match extHi s t with
  | some hi => word (hi.toNat * 2 ^ 14 + wImm w)
  | none => sext 14 (wImm w)

/-- The zero-extended immediate, or the 32-bit value under EXT (R117, R131). -/
def immZ (s : State) (t : Nat) (w : Word) : Word :=
  match extHi s t with
  | some hi => word (hi.toNat * 2 ^ 14 + wImm w)
  | none => word (wImm w)

/-- The address of an FM access (R120). -/
def effAddr (s : State) (t : Nat) (w : Word) : Nat := (wreg s t (wA w) + immS s t w).toNat

/-- The port of an FP instruction (R123); through a repeat it stays the port of its first iteration (R133). -/
def portOf (s : State) (t : Nat) (w : Word) : Nat :=
  match (thread s t).pfx, (thread s t).rptPort with
  | .rpt _, some p => p
  | _, _ => if wA w = 31 then wPort w else (wPort w + (wreg s t (wA w)).toNat) % 65536

/-- A repeat takes its port. -/
def holdPort (s : State) (t p : Nat) : State :=
  match (thread s t).pfx with
  | .rpt _ => modThread s t (fun th => { th with rptPort := some p })
  | _ => s

/-- The PC of the instruction word itself: after its prefix, where it has one. -/
def instrPc (s : State) (t : Nat) : Nat :=
  let th := thread s t
  match th.pfx with
  | .none => th.pc.toNat
  | _ => (th.pc.toNat + 4) % 65536

/-- The PC of the word after the unit. -/
def nextPc (s : State) (t : Nat) : Nat := (instrPc s t + 4) % 65536

/-! ## Which word an instruction is, and its unused fields (R113) -/

/-- The word is of format F3 with this op and fn. -/
def isF3 (op fn : Nat) (w : Word) : Bool := wOp w = op && wFn w = fn
/-- The word is of format FI or FM with this op and s or sz. -/
def isFI (op sel : Nat) (w : Word) : Bool := wOp w = op && wS w = sel
/-- The word is of format FX with this op and sub. -/
def isFX (op sub : Nat) (w : Word) : Bool := wOp w = op && wSub w = sub

/-- The register fields that an instruction uses; `raw` for the words without register fields (BR and the prefixes), `dIdx`
for an FP word whose a field is 31, no index register (R103, R112). -/
inductive Fields where
  | raw | none | d | dIdx | a | da | ab | dab | db
  deriving DecidableEq, Repr

/-- A register field of 24 to 31 among those used: UD sub-cause 0x02 (R103). -/
def badReg (f : Fields) (w : Word) : Bool :=
  let d := 24 ≤ wD w
  let a := 24 ≤ wA w
  let b := 24 ≤ wB w
  match f with
  | .raw => false
  | .none => false
  | .d => d
  | .dIdx => d
  | .a => a
  | .da => d || a
  | .ab => a || b
  | .dab => d || a || b
  | .db => d || b

/-- A register field that is not used and not 0: UD sub-cause 0x03 (R113). `three` says that the format has a b field. -/
def badUnused (f : Fields) (three : Bool) (w : Word) : Bool :=
  let d := wD w ≠ 0
  let a := wA w ≠ 0
  let b := three && wB w ≠ 0
  match f with
  | .raw => false
  | .none => d || a || b
  | .d => a || b
  | .dIdx => b
  | .a => d || b
  | .da => b
  | .ab => d
  | .dab => false
  | .db => a

end Sys2Proof.Machine
end

