-- ==== Sys2Proof/Machine/Flags.lean ====
section
/-! DEFINITION. Every flag computation of the instruction set: what an operation leaves in ST and in its destination
(R115–R117, R122, R124, R126, R128, R129, R167, R168). -/

namespace Sys2Proof.Machine

/-! ## ST bits (R105) -/

def stZ (st : Word) : Bool := bit st 0
def stN (st : Word) : Bool := bit st 1
def stC (st : Word) : Bool := bit st 2
def stV (st : Word) : Bool := bit st 3
/-- NC bit `i`. -/
def stNc (st : Word) (i : Nat) : Bool := bit st (8 + i)
def stVs (st : Word) : Bool := bit st 16
def stDz (st : Word) : Bool := bit st 17
def stBi (st : Word) : Bool := bit st 18
def stEr (st : Word) : Bool := bit st 19
def stBct (st : Word) : Bool := bit st 21
def stDzt (st : Word) : Bool := bit st 22
def stOvt (st : Word) : Bool := bit st 23
def stTl (st : Word) : Bool := bit st 29

/-- Z and N from a result. -/
def setZN (st r : Word) : Word := setBit (setBit st 0 (r = 0)) 1 (bit r 31)
/-- Z alone. -/
def setZ (st : Word) (b : Bool) : Word := setBit st 0 b
/-- C. -/
def setC (st : Word) (b : Bool) : Word := setBit st 2 b
/-- V, and vs with it when V is set. -/
def setV (st : Word) (b : Bool) : Word := if b then setBit (setBit st 3 true) 16 true else setBit st 3 false
/-- The eight NC bits. -/
def setNC (st : Word) (v : Nat) : Word := setBits st 15 8 v

/-- What an operation leaves: its result, ST, and the trap that it takes after completion (OVF 0x07, BCD 0x08). -/
structure Alu where
  d : Option Word
  st : Word
  trap : Option Nat := none
  deriving DecidableEq, Repr

/-- OVF when V was set and ovt is 1 (R115, R124). -/
def ovf (v : Bool) (st : Word) : Option Nat := if v && stOvt st then some 7 else none

/-! ## Add and subtract (R115, R116) -/

/-- The nibble carries of a + b + c. -/
def addNc (a b : Word) (c : Nat) : Nat :=
  ((List.range 8).map (fun i => if 16 ^ (i + 1) ≤ a.toNat % 16 ^ (i + 1) + b.toNat % 16 ^ (i + 1) + c then 2 ^ i else 0)).sum

/-- The nibble borrows of a − b − c. -/
def subNc (a b : Word) (c : Nat) : Nat :=
  ((List.range 8).map (fun i => if a.toNat % 16 ^ (i + 1) < b.toNat % 16 ^ (i + 1) + c then 2 ^ i else 0)).sum

/-- Signed overflow of an exact value. -/
def overflows (x : Int) : Bool := decide (x < -2147483648 ∨ 2147483647 < x)

/-- a + b + c with all its flags. -/
def aluAdd (st a b : Word) (c : Nat) : Alu :=
  let r := a + b + word c
  let v := overflows (a.toInt + b.toInt + c)
  { d := some r
    st := setNC (setV (setC (setZN st r) (2 ^ 32 ≤ a.toNat + b.toNat + c)) v) (addNc a b c)
    trap := ovf v st }

/-- a − b − c with all its flags. -/
def aluSub (st a b : Word) (c : Nat) : Alu :=
  let r := a - b - word c
  let v := overflows (a.toInt - b.toInt - c)
  { d := some r
    st := setNC (setV (setC (setZN st r) (decide (a.toNat < b.toNat + c))) v) (subNc a b c)
    trap := ovf v st }

/-- The comparison a − b: the flags of a subtraction, no result, no trap (R115). -/
def aluCmp (st a b : Word) : Alu := { aluSub st a b 0 with d := none, trap := none }

/-- The comparison of WCMP and WSRCH: as CMP, NC unchanged (R122). -/
def strCmp (st x y : Word) : Word := setNC (aluSub st x y 0).st (bits st 15 8)

/-! ## Logic, minimum, maximum, sign -/

/-- A result that sets Z and N alone. -/
def aluLogic (st r : Word) : Alu := { d := some r, st := setZN st r }
/-- A test: Z and N, no result. -/
def aluTest (st r : Word) : Alu := { d := none, st := setZN st r }
/-- A move: no flags. -/
def aluMove (st r : Word) : Alu := { d := some r, st := st }

/-- ABS: ZN and V (R115, R124). -/
def aluAbs (st a : Word) : Alu :=
  let r := if a.toInt < 0 then -a else a
  let v := decide (a = 0x80000000)
  { d := some r, st := setV (setZN st r) v, trap := ovf v st }

/-- Signed and unsigned minimum and maximum. -/
def minS (a b : Word) : Word := if a.toInt ≤ b.toInt then a else b
def maxS (a b : Word) : Word := if a.toInt ≤ b.toInt then b else a
def minU (a b : Word) : Word := if a.toNat ≤ b.toNat then a else b
def maxU (a b : Word) : Word := if a.toNat ≤ b.toNat then b else a

/-! ## Shifts (R124) -/

/-- SHL. -/
def aluShl (st a n : Word) : Alu :=
  let k := n.toNat
  let r := if k < 32 then a <<< k else 0
  let c := if k = 0 then stC st else if k < 32 then a.getLsbD (32 - k) else if k = 32 then a.getLsbD 0 else false
  { d := some r, st := setC (setZN st r) c }

/-- SHR. -/
def aluShr (st a n : Word) : Alu :=
  let k := n.toNat
  let r := if k < 32 then a >>> k else 0
  let c := if k = 0 then stC st else if k < 32 then a.getLsbD (k - 1) else if k = 32 then a.getLsbD 31 else false
  { d := some r, st := setC (setZN st r) c }

/-- SAR. -/
def aluSar (st a n : Word) : Alu :=
  let k := n.toNat
  let r := if k < 32 then a.sshiftRight k else if a.getLsbD 31 then 0xFFFFFFFF else 0
  let c := if k = 0 then stC st else if k < 32 then a.getLsbD (k - 1) else a.getLsbD 31
  { d := some r, st := setC (setZN st r) c }

/-- ROT: rotated left by the count mod 32; C ← d[0], unless the effective count is 0. -/
def aluRot (st a n : Word) : Alu :=
  let k := n.toNat % 32
  let r := a.rotateLeft k
  { d := some r, st := setC (setZN st r) (if k = 0 then stC st else r.getLsbD 0) }

/-! ## Division (R124, R126) -/

/-- A quotient and remainder, ST after the division, and its trap (DZ 0x06, OVF 0x07). -/
structure Quot where
  qu : Word
  rm : Word
  st : Word
  trap : Option Nat
  deriving DecidableEq, Repr

/-- Division by 0: QU 0, RM dividend, dz; V unchanged. -/
def divZero (st a : Word) : Quot :=
  { qu := 0, rm := a, st := setBit st 17 true, trap := if stDzt st then some 6 else none }

/-- DIVS: truncated toward 0. -/
def divSigned (st a b : Word) : Quot :=
  if b = 0 then divZero st a
  else
    let v := decide (a = 0x80000000 ∧ b = 0xFFFFFFFF)
    let q : Word := BitVec.ofInt 32 (a.toInt.tdiv b.toInt)
    { qu := q, rm := BitVec.ofInt 32 (a.toInt.tmod b.toInt), st := setV st v, trap := ovf v st }

/-- DIVU. -/
def divUnsigned (st a b : Word) : Quot :=
  if b = 0 then divZero st a
  else { qu := word (a.toNat / b.toNat), rm := word (a.toNat % b.toNat), st := setV st false, trap := none }

/-! ## Packed decimal (R128, R129) -/

/-- Digit `i` of a word. -/
def digit (a : Word) (i : Nat) : Nat := bits a (4 * i + 3) (4 * i)
/-- Every digit is 0 to 9. -/
def decOk (a : Word) : Bool := (List.range 8).all (fun i => decide (digit a i ≤ 9))
/-- The number that eight digits spell. -/
def decVal (a : Word) : Nat := ((List.range 8).map (fun i => digit a i * 10 ^ i)).sum
/-- The mask of invalid digits. -/
def decMask (a : Word) : Nat := ((List.range 8).map (fun i => if 9 < digit a i then 2 ^ i else 0)).sum

/-- An invalid digit in a decimal input: neither d nor the flags; bi; BCD when bct is set. -/
def decBad (st : Word) : Alu := { d := none, st := setBit st 18 true, trap := if stBct st then some 8 else none }

/-- Flags of a decimal sum: Z, C; N and V 0. -/
def decFlags (st r : Word) (c : Bool) : Word := setBit (setBit (setC (setZ st (r = 0)) c) 1 false) 3 false

/-- DADD and DADDC with carry in `c`. -/
def decAdd (st a b : Word) (c : Nat) : Alu :=
  if decOk a && decOk b then
    let v := decVal a + decVal b + c
    let r := word (packDec 8 (v % 100000000))
    { d := some r, st := decFlags st r (100000000 ≤ v) }
  else decBad st

/-- DSUB and DSUBB with borrow in `c`: ten's complement on borrow. -/
def decSub (st a b : Word) (c : Nat) : Alu :=
  if decOk a && decOk b then
    let borrow := decide (decVal a < decVal b + c)
    let r := word (packDec 8 ((decVal a + 100000000 - decVal b - c) % 100000000))
    { d := some r, st := decFlags st r borrow }
  else decBad st

/-- One step of the correction of R129: (digits so far, k, prev) through nibble `i`. -/
def adjustStep (x : Word) (st : Word) (sub : Bool) (acc : Nat × Nat × Nat) (i : Nat) : Nat × Nat × Nat :=
  let (ds, k, prev) := acc
  let nc := (stNc st i).toNat
  if sub then
    let t : Int := (digit x i : Int) - 16 * nc + prev - k
    if t < 0 then (ds + ((t + 10).emod 16).toNat * 16 ^ i, 1, nc) else (ds + (t.emod 16).toNat * 16 ^ i, 0, nc)
  else
    let t : Int := (digit x i : Int) + 16 * nc - prev + k
    if 10 ≤ t then (ds + ((t - 10).emod 16).toNat * 16 ^ i, 1, nc) else (ds + (t.emod 16).toNat * 16 ^ i, 0, nc)

/-- DCA and DCS (R129). -/
def decAdjust (st a : Word) (sub : Bool) : Alu :=
  let (ds, k, _) := (List.range 8).foldl (adjustStep a st sub) (0, 0, 0)
  { d := some (word ds), st := decFlags st (word ds) (k = 1) }

/-- DSHL and DSHR. -/
def decShl (st a b : Word) : Alu :=
  if decOk a then let r := if b.toNat < 8 then a <<< (4 * b.toNat) else 0; { d := some r, st := setZ st (r = 0) } else decBad st
def decShr (st a b : Word) : Alu :=
  if decOk a then let r := if b.toNat < 8 then a >>> (4 * b.toNat) else 0; { d := some r, st := setZ st (r = 0) } else decBad st

/-- DCVB. -/
def decToBin (st a : Word) : Alu :=
  if decOk a then let r := word (decVal a); { d := some r, st := setZ st (r = 0) } else decBad st

/-- DCVD. -/
def decFromBin (st a : Word) : Alu :=
  let r := word (packDec 8 (a.toNat % 100000000))
  let v := decide (99999999 < a.toNat)
  { d := some r, st := setV (setZ st (r = 0)) v, trap := ovf v st }

/-- DCHK. -/
def decCheck (st a : Word) : Alu := { d := some (word (decMask a)), st := setZ st (decMask a = 0) }

/-! ## Fused operations (R167–R169) -/

/-- Position and width of a field operand (R168). -/
def fieldPos (b : Word) : Nat := bits b 4 0
def fieldWidth (b : Word) : Nat := if bits b 12 8 = 0 then 32 else sat 32 (bits b 12 8)

/-- BFX. -/
def fuseBfx (st a b : Word) : Alu := aluLogic st (word (a.toNat / 2 ^ fieldPos b % 2 ^ fieldWidth b))

/-- BFXS: extended from the field's top bit, or from bit 31 − p when the field passes bit 31. -/
def fuseBfxs (st a b : Word) : Alu :=
  let n := min (fieldWidth b) (32 - fieldPos b)
  aluLogic st (sext n (a.toNat / 2 ^ fieldPos b % 2 ^ n))

/-- BFI: bits above 31 are not written. -/
def fuseBfi (st d a b : Word) : Alu :=
  let n := min (fieldWidth b) (32 - fieldPos b)
  aluLogic st (setBits d (fieldPos b + n - 1) (fieldPos b) a.toNat)

/-- Byte and signed or unsigned halfword `i` of a word. -/
def byteAt (a : Word) (i : Nat) : Nat := bits a (8 * i + 7) (8 * i)
def halfU (a : Word) (i : Nat) : Nat := bits a (16 * i + 15) (16 * i)
def halfS (a : Word) (i : Nat) : Word := sext 16 (halfU a i)

/-- PSAT4. -/
def fusePsat4 (st a b : Word) : Alu :=
  let l := (List.range 4).map (fun i => byteAt a i + byteAt b i)
  let r := word (leNat (l.map (fun x => BitVec.ofNat 8 (sat 255 x))))
  { d := some r, st := setC (setZ st (r = 0)) (l.any (fun x => decide (255 < x))) }

/-- WSUM4. -/
def fuseWsum4 (st a b : Word) : Alu := aluLogic st (halfS a 0 + halfS a 1 + halfS b 0 + halfS b 1)
/-- WSUM4U. -/
def fuseWsum4u (st a b : Word) : Alu :=
  let r := word (halfU a 0 + halfU a 1 + halfU b 0 + halfU b 1)
  { d := some r, st := setZ st (r = 0) }

/-- Leading zeros of a word. -/
def leadingZeros (a : Word) : Nat := ((List.range 32).takeWhile (fun i => !a.getLsbD (31 - i))).length

/-- CLZP. -/
def fuseClzp (st a : Word) : Alu := { d := some (word (popCount a * 65536 + leadingZeros a)), st := setZ st (a = 0) }

/-- CRCC over the first `n` bytes of b: no flags. -/
def fuseCrcc (st a b : Word) (n : Nat) : Alu := aluMove st (crcc a (leBytes n b.toNat))

/-! ## Branch conditions (R118) -/

/-- The test of a condition code; 0xF is reserved. -/
def condHolds (c : Nat) (st : Word) : Bool :=
  let z := stZ st
  let n := stN st
  let cy := stC st
  let v := stV st
  match c with
  | 0 => true | 1 => z | 2 => !z | 3 => n != v | 4 => n == v | 5 => z || n != v | 6 => !z && n == v
  | 7 => cy | 8 => !cy | 9 => cy || z | 10 => !cy && !z | 11 => n | 12 => !n | 13 => v | 14 => !v | _ => false

end Sys2Proof.Machine
end

