-- ==== Sys2Proof/Machine/Threads.lean ====
section
/-! DEFINITION. What every Mukalu instruction shares: when a thread may issue, the order of the trap causes, trap entry
and return, faults, completion, repeats, ports and blocked INs (R103–R141, R145, R149, R153, R161–R164). -/

namespace Sys2Proof.Machine

/-! ## Traps and faults (R125, R135–R138, R161, R162) -/

/-- The Nib whose CH31 gets a record about thread `t`: its own for threads 1 to 7, the partition's supervisor's for a
thread 0 (R162). -/
def noticeNib (s : State) (t : Nat) : Nat :=
  if idxOf t ≠ 0 then nibOf t else (supervisorNib s (tidPid s t)).getD (nibOf t)

/-- Thread `t` is its partition's supervisor thread (R162). -/
def isSupervisor (s : State) (t : Nat) : Bool := t < 1024 && idxOf t = 0 && supervisorNib s (tidPid s t) = some (nibOf t)

/-- CAUSE as trap entry writes it (R105, R137). -/
def causeWord (s : State) (t code sub : Nat) : Word :=
  let th := thread s t
  let e := match th.pfx with | .ext _ => 1 | _ => 0
  let r := match th.pfx with | .rpt _ => 1 | _ => 0
  word (e * 2 ^ 23 + r * 2 ^ 22 + bits th.st 31 30 * 2 ^ 20 + sub * 2 ^ 8 + code)

/-- A fault: the thread parks with its state as at the trap, its next PC at `pc`, and the record goes to the supervisor
thread, or to the Blotter for the Steward and for the supervisor itself (R138, R161, R162). The record carries what
the trap would have written (DEDUCED, log entry 25). -/
def threadFault (s : State) (t : Nat) (cause epc tinfo : Word) (pc : Nat) : State :=
  let n := nibOf t
  let sup := isSupervisor s t
  let words := [word (2 ^ 24 + t % 1024), cause, epc, tinfo, spsNow s, (thread s t).st, word pc, 0]
  let s := modThread s t (fun th => { th with state := .parked, pc := BitVec.ofNat 16 pc, pfx := .none, waitPort := none,
                                              stepping := false, load := none })
  let s := if n = 128 then s else postNotice s (noticeNib s t) words
  report s { page := Reg.nibPage n, src := 0x00, sev := if sup then 1 else 0, access := 7, mid := nibMid n,
             pid := if n = 128 then none else some (tidPid s t) }

/-- Trap entry (R137), or a fault when TVEC.en is 0, ST.tl is 1, or the vector cannot be fetched (R138). `epc` is what
EPC gets and `pc` the PC that a fault leaves. -/
def takeTrap (s : State) (t code sub : Nat) (tinfo : Word) (epc pc : Nat) : State :=
  let n := nibOf t
  let s := pcEvent s t 0x0A
  let th := thread s t
  let cause := causeWord s t code sub
  let tvec := (nib s n).tvec
  let vec := bits tvec 15 10 * 0x400 + 0x40 * code
  if ¬ bit tvec 0 ∨ stTl th.st ∨ badAt s (ispace n + vec) then threadFault s t cause (word epc) tinfo pc
  else
    let lvl := if bits th.st 31 30 = 3 then 3 else 1
    modThread s t (fun th => { th with
      epc := word epc, cause := cause, tinfo := tinfo, st := setBits (setBit th.st 29 true) 31 30 lvl,
      pc := BitVec.ofNat 16 vec, pfx := .none, load := none })

/-- RTE: PC ← EPC, ST.pl ← CAUSE.pp, tl cleared (R139). -/
def trapReturn (s : State) (t : Nat) : State :=
  modThread s t (fun th => { th with st := setBits (setBit th.st 29 false) 31 30 (bits th.cause 21 20),
                                     pc := th.epc.setWidth 16 })

/-! ## When a thread issues (R142, R326, R333) -/

/-- The thread may issue: RUNNING, no load outstanding, its Nib on, enabled, not frozen, not fenced, and no FATAL. -/
def canIssue (s : State) (t : Nat) : Bool :=
  let n := nibOf t
  (thread s t).state = .running && (thread s t).load.isNone && !(nib s n).fenced && !(nib s n).fenceDue && !fatal s
    && starts s (Reg.nibPage n) && flag s (Reg.PG_CTL (Reg.nibPage n)) 0

/-- After an instruction or iteration of a stepped thread it is HALTED again (R164). -/
def stepEnd (s : State) (t : Nat) : State :=
  if (thread s t).stepping then
    modThread s t (fun th => { th with stepping := false, before := th.state, state := .halted,
                                       pfx := if th.state = .blocked then th.pfx else .none })
  else s

/-- An instruction or iteration completed: it is counted, and the Nib has retired (R332, R366). -/
def retire (s : State) (t : Nat) : State := modNib (pcEvent s t 0x01) (nibOf t) (fun b => { b with retired := true })

/-- The unit completed: the thread runs on at `pc`. -/
def advancePc (s : State) (t pc : Nat) : State := modThread s t (fun th => { th with pc := BitVec.ofNat 16 pc, pfx := .none })

/-! ## What an instruction does -/

/-- How an instruction, or an iteration of a repeat, ends. -/
inductive Res where
  /-- It completed. -/
  | done (s : State)
  /-- It completed and ends the repeat it stands in (R133). -/
  | stop (s : State)
  /-- It completed, then traps with this cause (R125). -/
  | late (s : State) (code : Nat)
  /-- It completed and continues at this PC. -/
  | jump (s : State) (pc : Nat)
  /-- It has no effect and traps: code, sub-cause, TINFO; the state holds what was recorded beside it. -/
  | trap (s : State) (code sub : Nat) (tinfo : Word)
  /-- It waits: a blocked IN, a load whose data has not returned. -/
  | wait (s : State)
  /-- The thread is not ready for it: nothing happens. -/
  | hold

/-- An instruction row: its encoding, its fields, the checks that come before its effect, and its effect. -/
structure Row where
  /-- The words that are this instruction. -/
  is : Word → Bool
  /-- The register fields it uses, and whether the format has a b field. -/
  fields : Word → Fields
  three : Bool := false
  /-- Unused fields that are not registers are all 0 (R113). -/
  clean : Word → Bool := fun _ => true
  /-- Further UD and PRIV causes, as (code, sub-cause). -/
  early : State → Nat → Word → Option (Nat × Nat) := fun _ _ _ => none
  /-- Which prefixes it admits (R131, R132). -/
  rpt : Bool := false
  ext : Bool := false
  decimal : Bool := false
  cntWrite : Word → Bool := fun _ => false
  run : Nat → Word → State → Res

/-- The PREFIX sub-cause that a prefix meets before this instruction (R132). -/
def prefixTrap (r : Row) (w : Word) : Prefix → Option Nat
  | .none => none
  | .ext _ => if r.ext then none else some 3
  | .rpt dir => if r.cntWrite w then some 1 else if !r.rpt then some 0 else if dir && r.decimal then some 2 else none

/-- The causes that come before an instruction's own, in the order of R136: UD, PRIV, PREFIX. -/
def earlyTrap (r : Row) (s : State) (t : Nat) (w : Word) : Option (Nat × Nat) :=
  if badReg (r.fields w) w then some (0, 2)
  else if badUnused (r.fields w) r.three w ∨ ¬ r.clean w then some (0, 3)
  else match r.early s t w with
    | some e => some e
    | none => (prefixTrap r w (thread s t).pfx).map (fun k => (5, k))

/-- One iteration of a repeat is over: CNT counts down, and at 0 the unit is complete (R133). -/
def countIteration (s : State) (t : Nat) : State :=
  let s := modThread s t (fun th => { th with cnt := th.cnt - 1 })
  if (thread s t).cnt = 0 then advancePc s t (nextPc s t) else s

/-- Apply how an instruction ended. -/
def applyRes (s : State) (t : Nat) (repeated : Bool) : Res → State
  | .done s' => stepEnd (retire (if repeated then countIteration s' t else advancePc s' t (nextPc s' t)) t) t
  | .stop s' =>
    let s' := if repeated then modThread s' t (fun th => { th with cnt := th.cnt - 1 }) else s'
    stepEnd (retire (advancePc s' t (nextPc s' t)) t) t
  | .late s' code =>
    let own := instrPc s t
    let next := nextPc s t
    stepEnd (takeTrap (retire s' t) t code 0 (word own) next next) t
  | .jump s' pc => stepEnd (retire (advancePc s' t (pc % 65536)) t) t
  | .trap s' code sub tinfo => stepEnd (takeTrap s' t code sub tinfo (thread s t).pc.toNat (thread s t).pc.toNat) t
  | .wait s' => if (thread s' t).state = .blocked then stepEnd s' t else s'
  | .hold => s

/-- A Nib fails, by a pipeline check error or a hang: the report, the fault interval of its partition, and the fence that
is now due (R327–R331); the Steward is not fenced (DEDUCED, log entry 51). -/
def nibFails (s : State) (n src access : Nat) : State :=
  let s := report s { page := Reg.blotterPage, src := src, sev := 2, access := access, mid := nibMid n, addr := n }
  if n = 128 then s
  else openInterval (modNib s n (fun b => { b with fenceDue := true })) 1 n (BitVec.ofNat 16 (2 ^ nibPid s n))

/-- A pipeline check error is armed on the Nib (R337): it is reported and the Nib is to be fenced (R327). -/
def pipelineCheck (s : State) (t : Nat) : Option State :=
  match takeInjection s (Reg.nibPage (nibOf t)) 0xFF with
  | (some _, s) => some (nibFails s (nibOf t) 0x01 0xD)
  | (none, _) => none

/-- Thread `t` issues the word `w`, which is this row's instruction: the causes in the order of R136, then its effect.
With CNT at 0 a repeat has no iteration (R133). A word that is not this row's, or a thread that may not issue, changes
nothing. -/
def issue (r : Row) (t : Nat) (w : Word) (s : State) : State :=
  if ¬ r.is w ∨ ¬ canIssue s t then s
  else match pipelineCheck s t with
    | some s => s
    | none =>
      let rep := match (thread s t).pfx with | .rpt _ => true | _ => false
      match checkRead s (ispace (nibOf t) + instrPc s t) (nibMid (nibOf t)) 3 with
      | (true, s) => applyRes s t rep (.trap s 4 0 (word (instrPc s t)))
      | (false, s) => match earlyTrap r s t w with
        | some (code, sub) => applyRes s t rep (.trap s code sub w)
        | none =>
          if rep ∧ (thread s t).cnt = 0 then applyRes s t false (.done s)
          else applyRes s t rep (r.run t w s)

/-! ## Rows by shape -/

/-- An instruction of registers alone: what `f` leaves of ST and the destination. -/
def aluRes (s : State) (t d : Nat) (o : Alu) : Res :=
  let s := setSt s t o.st
  let s := match o.d with
    | some v => setW s t d v
    | none => s
  match o.trap with
  | some code => .late s code
  | none => .done s

/-! ## Checks of memory accesses (R107, R108, R136) -/

/-- The watchpoint of a Nib matches an access of thread `t` (R135, WATCH_CTL). -/
def watched (s : State) (t addr : Nat) (rdA wrA : Bool) : Bool :=
  let n := nibOf t
  let c := reg s (Reg.WATCH_CTL n)
  bit c 0 && (bits c 31 24 / 2 ^ idxOf t % 2 = 1) && ((rdA && bit c 1) || (wrA && bit c 2))
    && decide (addr / 2 ^ bits c 12 8 = (reg s (Reg.WATCH_ADDR n)).toNat / 2 ^ bits c 12 8)

/-- A D-space access that an instruction makes. -/
structure Access where
  addr : Nat
  size : Nat
  rd : Bool
  wr : Bool
  /-- An atomic's access. -/
  atom : Bool := false
  deriving DecidableEq, Repr

/-- The access type that a failed access records (R323). -/
def Access.code (a : Access) : Nat := if a.atom then 2 else if a.wr then 1 else 0

/-- The ALIGN or DACC trap of the first access that fails one, over all of them in turn (R136). -/
def accessFault (s : State) (t : Nat) (l : List Access) : Option Res :=
  match l.find? (fun a => a.addr % a.size ≠ 0) with
  | some a => some (.trap s 2 0 (word a.addr))
  | none => (l.find? (fun a => (route s t a.addr a.wr).isNone)).map
      (fun a => .trap (noteDecode s t a.addr a.code) 3 0 (word a.addr))

/-- The WATCH trap of the first access that the watchpoint matches (R136). -/
def watchTrap (s : State) (t : Nat) (l : List Access) : Option Res :=
  (l.find? (fun a => watched s t a.addr a.rd a.wr)).map (fun a => .trap s 0x0B 0 (word a.addr))

/-- The trap of the first access that fails a check: ALIGN, DACC, WATCH over all of them in turn (R136). -/
def accessTrap (s : State) (t : Nat) (l : List Access) : Option Res := (accessFault s t l).or (watchTrap s t l)

/-- Where a checked access goes. -/
def keyOf (s : State) (t : Nat) (a : Access) : Nat := (route s t a.addr a.wr).getD 0

/-- The address of the word that holds an address, which a CHKERR trap records (R135; DEDUCED, log entry 175). -/
def wordAddr (a : Nat) : Word := word (a - a % 4)

/-- Read the words of checked accesses: their values, or the address of the first uncorrectable one (CHKERR). -/
def readWords (t : Nat) : List Access → State → Except (Nat × State) (List Nat × State)
  | [], s => .ok ([], s)
  | a :: l, s =>
    let k := keyOf s t a
    let s := if isLocal (nibOf t) k then s else sharedAccess s t k a.size false
    match checkLoad s t k a.code with
    | (true, s) => .error (a.addr, s)
    | (false, s) => match readWords t l s with
      | .error e => .error e
      | .ok (vs, s') => .ok (loadValue s t k a.size :: vs, s')

/-- Run an instruction that reads `rds`, then stores what `f` gives for the values read: checks first, then room in the
store buffer and at the DRAM controllers, then the reads, then the stores (R108, R136, R143). `denied` is the DACC of a
port that the instruction may not reach: it stands with the accesses' own, before WATCH. -/
def memRes (s : State) (t : Nat) (rds wrs : List Access) (f : List Nat → State → Res) (denied : Option Res := none) : Res :=
  match ((accessFault s t (rds ++ wrs)).or denied).or (watchTrap s t (rds ++ wrs)) with
  | some r => r
  | none =>
    if (¬ wrs.isEmpty ∧ ¬ storeRoom s t) ∨ ¬ (rds.all (fun a => dramRoom s (keyOf s t a))) then .hold
    else match readWords t rds s with
      | .error (addr, s) => .trap s 0x0A 0 (wordAddr addr)
      | .ok (vs, s) => f vs s

/-- Post the store of a checked access. -/
def storeAt (s : State) (t : Nat) (a : Access) (v : Nat) : State := postStore s t (keyOf s t a) (leBytes a.size v)

/-! ## Ports (R123, R149, R153) -/

/-- What a port gives an IN, with the flags of R149. -/
inductive PortVal where
  /-- A word; the flags stay. -/
  | plain (v : Word)
  /-- A word of a port that can fail: C ← 0. -/
  | data (v : Word)
  /-- A status that is all the port returns: C says that the operation was not done, Z that the status is OK. -/
  | status (st : Byte) (done : Bool)
  /-- The operation of a data port was not done: C ← 1 and d holds the status. -/
  | fail (st : Byte)
  deriving DecidableEq, Repr

/-- The word that reaches d. -/
def PortVal.value : PortVal → Word
  | .plain v => v
  | .data v => v
  | .status st _ => st.setWidth 32
  | .fail st => st.setWidth 32

/-- ST after the port's answer. -/
def PortVal.flags (st : Word) : PortVal → Word
  | .plain _ => st
  | .data _ => setC st false
  | .status x done => setZ (setC st (!done)) (x = stOk)
  | .fail _ => setC st true

/-- The step of a repeat's pointer. -/
def stepOf (dir : Bool) : Word := if dir then 0xFFFFFFFC else 4

/-- What `f` adds to an instruction that completes. -/
def Res.also (f : State → State) : Res → Res
  | .done s => .done (f s)
  | .stop s => .stop (f s)
  | .late s c => .late (f s) c
  | r => r

/-- An IN delivers: d ← value, or under RPT mem[d] ← value and d steps (R123, R133, R149). -/
def putIn (s : State) (t d : Nat) (v : PortVal) : State :=
  let s := setSt s t (v.flags (thread s t).st)
  match (thread s t).pfx with
  | .rpt dir =>
    let a := (wreg s t d).toNat
    let s := match route s t a true with
      | some k => postStore s t k (leBytes 4 v.value.toNat)
      | none => s
    setW s t d (wreg s t d + stepOf dir)
  | _ => setW s t d v.value

/-- What a port does with an IN. -/
inductive InRes where
  | give (s : State) (v : PortVal)
  | block (s : State)
  /-- The access is refused with DACC. -/
  | deny (s : State)
  deriving DecidableEq, Repr

/-- A port that is reached with no right: DACC with the port in TINFO (R110). -/
def portDenied (s : State) (p : Nat) : Res := .trap s 3 0 (word p)

/-- The store that an IN under RPT makes. -/
def inStore (s : State) (t d : Nat) : List Access :=
  match (thread s t).pfx with
  | .rpt _ => [{ addr := (wreg s t d).toNat, size := 4, rd := false, wr := true }]
  | _ => []

/-- IN from a port: `f` is what the port does. A thread that must wait is BLOCKED on the port (R145). -/
def inRow (ports : Nat → Bool) (f : Nat → Nat → State → InRes) (t : Nat) (w : Word) (s : State) : Res :=
  let p := portOf s t w
  let s := holdPort s t p
  if ¬ ports p then .hold
  else memRes s t [] (inStore s t (wD w)) (fun _ s =>
    match f t p s with
    | .give s v => .done (putIn s t (wD w) v)
    | .block s => .wait (modThread s t (fun th => { th with state := .blocked, waitPort := some (p, wD w) }))
    | .deny s => portDenied s p)
    (match f t p s with
    | .deny s => some (portDenied s p)
    | _ => none)

/-- The word that an OUT sends: W[d], or under RPT mem[d] (R133). Whether `f` denies the port does not depend on the word. -/
def outRow (ports : Nat → Bool) (f : Nat → Nat → Word → State → Option State) (t : Nat) (w : Word) (s : State) : Res :=
  let p := portOf s t w
  let d := wD w
  let s := holdPort s t p
  if ¬ ports p then .hold
  else match (thread s t).pfx with
    | .rpt dir =>
      memRes s t [{ addr := (wreg s t d).toNat, size := 4, rd := true, wr := false }] [] (fun vs s =>
        match f t p (word (vs.headD 0)) s with
        | some s => .done (setW s t d (wreg s t d + stepOf dir))
        | none => portDenied s p)
        (if (f t p (wreg s t d) s).isNone then some (portDenied s p) else none)
    | _ => match f t p (wreg s t d) s with
      | some s => .done s
      | none => portDenied s p

/-- Register fields of an FP word: a of 31 is no register (R103). -/
def fpFields (w : Word) : Fields := if wA w = 31 then .dIdx else .da

/-- The row of an IN whose ports `ports` selects. -/
def inSpec (ports : Nat → Bool) (f : Nat → Nat → State → InRes) : Row where
  is := fun w => wOp w = 0x0D
  fields := fpFields
  rpt := true
  run := inRow ports f

/-- A row whose block takes nothing while `ok` fails: its page is frozen or its domain off, and the thread waits (R386). -/
def whileOk (ok : State → Bool) (r : Row) : Row := { r with run := fun t w s => if ok s then r.run t w s else .hold }

/-- A port in this range is a U thread's PRIV (R111). -/
def windowPriv (s : State) (t : Nat) (w : Word) : Option (Nat × Nat) :=
  if 0x8000 ≤ portOf s t w ∧ level s t = 0 then some (1, 0) else none

/-! ## Blocked INs that end (R153, R156, R164) -/

/-- The thread waits on a port, running or HALTED meanwhile. -/
def waitsOn (s : State) (t : Nat) : Option (Nat × Nat) := (thread s t).waitPort

/-- Deliver to a blocked thread: the IN completes. A HALTED thread stays HALTED with the result in d, and goes on with a
repeat from its prefix (R134, R164). -/
def deliverIn (s : State) (t : Nat) (v : PortVal) : State :=
  match waitsOn s t with
  | none => s
  | some (_, d) =>
    let rep := match (thread s t).pfx with | .rpt _ => true | _ => false
    let s := putIn s t d v
    let s := modThread s t (fun th => { th with
      waitPort := none
      state := if th.state = .blocked then .running else th.state
      before := if th.state = .halted then .running else th.before })
    let s := if rep then countIteration s t else advancePc s t (nextPc s t)
    let s := if (thread s t).state = .halted then modThread s t (fun th => { th with pfx := .none }) else s
    stepEnd (retire s t) t

/-- A thread is blocked on exactly this port. -/
def blockedOn (s : State) (t p : Nat) : Bool :=
  match waitsOn s t with
  | some (q, _) => q = p
  | none => false

/-! ## Prefix words (R130–R132) -/

/-- A prefix word after a prefix: UD when it has a reserved field, else PREFIX 0x04 (R132, R136). -/
def doublePrefix (bad : Option Nat) (s : State) (t : Nat) : Option (Nat × Nat) :=
  if (thread s t).pfx = .none then none else some (match bad with | some sub => (0, sub) | none => (5, 4))

/-- A prefix issues: it waits for its instruction. With a reserved field it traps UD, as the unit that begins with it
(R130, CAUSE.pfx_rpt and pfx_ext). -/
def prefixRun (p : Word → Prefix) (bad : Word → Option Nat) (t : Nat) (w : Word) (s : State) : Res :=
  let s := modThread s t (fun th => { th with pfx := p w, rptPort := none })
  match bad w with
  | some sub => .trap s 0 sub w
  | none => .wait s

/-- The UD sub-causes of the prefix words (R113, R130). -/
def rptBad (w : Word) : Option Nat := if 2 ≤ bits w 25 24 then some 1 else if bits w 23 0 ≠ 0 then some 3 else none
def extBad (w : Word) : Option Nat := if bits w 25 18 ≠ 0 then some 3 else none

/-- RPT. -/
def rptRow : Row where
  is := fun w => wOp w = 0x3E
  fields := fun _ => .raw
  early := fun s t w => doublePrefix (rptBad w) s t
  rpt := true
  ext := true
  run := prefixRun (fun w => .rpt (bit w 24)) rptBad

/-- EXT. -/
def extRow : Row where
  is := fun w => wOp w = 0x3F
  fields := fun _ => .raw
  early := fun s t w => doublePrefix (extBad w) s t
  rpt := true
  ext := true
  run := prefixRun (fun w => .ext (BitVec.ofNat 18 (bits w 17 0))) extBad

/-- RPT. -/
def execRpt (t : Tid) (w : Word) (s : State) : Host.Outcome State Fault Refusal := .next (issue rptRow t w s)
/-- EXT. -/
def execExt (t : Tid) (w : Word) (s : State) : Host.Outcome State Fault Refusal := .next (issue extRow t w s)

end Sys2Proof.Machine
end

