-- ==== Sys2Proof/Machine/Mukalu.lean ====
section
/-! DEFINITION. The Mukalu instructions: integer, branches, system, memory, atomics, strings, product and quotient,
packed decimal, and the fused operations (R115–R134, R139, R141, R167). -/

namespace Sys2Proof.Machine

/-! ## Rows of one shape -/

/-- A register-to-register instruction: `f` gets ST and the values of W[d], W[a] and W[b]. -/
def regRun (f : Word → Word → Word → Word → Alu) (t : Nat) (w : Word) (s : State) : Res :=
  aluRes s t (wD w) (f (thread s t).st (wreg s t (wD w)) (wreg s t (wA w)) (wreg s t (wB w)))

/-- An ALU instruction of two operands, of one operand, and a comparison (R115). -/
def alu2 (fn : Nat) (f : Word → Word → Word → Alu) : Row where
  is := isF3 0x01 fn
  fields := fun _ => .dab
  three := true
  run := regRun (fun st _ a b => f st a b)
def alu1 (fn : Nat) (f : Word → Word → Alu) : Row where
  is := isF3 0x01 fn
  fields := fun _ => .da
  three := true
  run := regRun (fun st _ a _ => f st a)
def aluTestRow (fn : Nat) (f : Word → Word → Word → Alu) : Row where
  is := isF3 0x01 fn
  fields := fun _ => .ab
  three := true
  run := regRun (fun st _ a b => f st a b)

/-- An instruction with an immediate: `imm` says how it extends (R117, R131). -/
def immRow (op sel : Nat) (fields : Fields) (ext : Bool) (imm : State → Nat → Word → Word) (f : Word → Word → Word → Alu) : Row where
  is := isFI op sel
  fields := fun _ => fields
  ext := ext
  run := fun t w s => aluRes s t (wD w) (f (thread s t).st (wreg s t (wA w)) (imm s t w))

/-- A fused operation: UD 0x04 while its class is disabled at the thread's level (R167, R182). -/
def hlpClassOn (s : State) (t cls : Nat) : Bool :=
  flag s (Reg.HLP_EN (nibOf t)) (3 * cls + (if level s t = 3 then 2 else if level s t = 1 then 1 else 0))
def fuseRow (fn : Nat) (fields : Fields) (f : Word → Word → Word → Word → Alu) : Row where
  is := isF3 0x12 fn
  fields := fun _ => fields
  three := true
  early := fun s t _ => if hlpClassOn s t 0 then none else some (0, 4)
  run := regRun f

/-- A SYS instruction. -/
def sysRow (sub : Nat) (fields : Fields) (run : Nat → Word → State → Res) : Row where
  is := isFX 0x15 sub
  fields := fun _ => fields
  clean := fun w => wX w = 0
  run := run

/-- PRIV at U (R119). -/
def privAtU (s : State) (t : Nat) : Option (Nat × Nat) := if level s t = 0 then some (1, 0) else none

/-! ## Branches and system (R118, R119, R139) -/

/-- The target of a branch: its own PC plus four times the offset, modulo 2^16. -/
def branchTarget (s : State) (t : Nat) (w : Word) : Nat := ((word (instrPc s t)) + 4 * sext 20 (wOff w)).toNat % 65536

/-- BR. -/
def brRow : Row where
  is := fun w => wOp w = 0x10 && wCond w != 15
  fields := fun _ => .raw
  clean := fun w => !bit w 20
  run := fun t w s =>
    let s' := if wLink w then setW s t 23 (word (nextPc s t)) else s
    if condHolds (wCond w) (thread s t).st then .jump (pcEvent s' t 0x09) (branchTarget s t w) else .done s'

/-- A jump to W[a][15:0]: ALIGN unless it is a word address. -/
def jumpTo (s : State) (t : Nat) (w : Word) (f : State → State) : Res :=
  let target := (wreg s t (wA w)).toNat % 65536
  if target % 4 ≠ 0 then .trap s 2 0 (word target) else .jump (f s) target

/-- JR and JALR. -/
def jrRow : Row := sysRow 0x01 .a (fun t w s => jumpTo s t w id)
def jalrRow : Row := sysRow 0x02 .da (fun t w s => jumpTo s t w (fun s => setW s t (wD w) (word (nextPc s t))))

/-- BRK. -/
def brkRow : Row where
  is := isFX 0x15 0x03
  fields := fun _ => .none
  run := fun _ w s => .trap s 9 0 (word (wX w))

/-- RTE: UD 0x01 with tl at 0; PRIV at U, and for a return to M on another Nib than the Steward. -/
def rteRow : Row where
  is := isFX 0x15 0x04
  fields := fun _ => .none
  clean := fun w => wX w = 0
  early := fun s t _ =>
    if ¬ stTl (thread s t).st then some (0, 1)
    else if level s t = 0 ∨ (bits (thread s t).cause 21 20 = 3 ∧ t < 1024) then some (1, 0) else none
  run := fun t _ s => .jump (trapReturn s t) (thread s t).epc.toNat

/-- MWAIT: not ready while a product or quotient write is pending. -/
def mwaitRow : Row := sysRow 0x05 .none (fun t _ s =>
  if (thread s t).products.isEmpty && (thread s t).quotients.isEmpty then .done s else .hold)

/-- FENCE: completes when every earlier store of the thread has been written (R109). -/
def fenceRow : Row := sysRow 0x06 .none (fun t _ s => if (thread s t).stbuf.isEmpty then .done s else .hold)

/-- NOP, IFENCE: no effect. A fetch's word comes with the command, so IFENCE has nothing to wait for. -/
def nopRow (sub : Nat) : Row := sysRow sub .none (fun _ _ s => .done s)

/-- CLC, SEC. -/
def carryRow (sub : Nat) (b : Bool) : Row := sysRow sub .none (fun t _ s => .done (setSt s t (setC (thread s t).st b)))

/-- IST: the I-space word of the thread's own Nib. -/
def istRow : Row :=
  { sysRow 0x08 .da (fun t w s =>
      let a := (wreg s t (wA w)).toNat % 65536
      if a % 4 ≠ 0 then .trap s 2 0 (word a) else .done (wrWord s (ispace (nibOf t) + a) (wreg s t (wD w)))) with
    early := fun s t _ => privAtU s t }

/-- ILD: the word that holds a[15:0] (DEDUCED, log entry 26). -/
def ildRow : Row :=
  { sysRow 0x09 .da (fun t w s =>
      let a := (wreg s t (wA w)).toNat % 65536
      let k := ispace (nibOf t) + (a - a % 4)
      match checkRead s k (nibMid (nibOf t)) with
      | (true, s) => .trap s 0x0A 0 (wordAddr a)
      | (false, s) => .done (setW s t (wD w) (rdWord s k))) with
    early := fun s t _ => privAtU s t }

/-! ## Special registers (R105, R127) -/

/-- The special registers that exist; those that U may not touch; those that MTS may not write. -/
def sprKnown (x : Nat) : Bool := [0, 1, 2, 3, 4, 5, 8, 9, 0xA, 0xC, 0xD, 0xE, 0x10, 0x11].contains x
def sprPriv (x : Nat) : Bool := [8, 9, 0xA, 0x10, 0x11].contains x
def sprReadOnly (x : Nat) : Bool := [0xC, 0xD, 0xE].contains x

/-- Contents of a special register. -/
def sprRead (s : State) (t x : Nat) : Word :=
  let th := thread s t
  match x with
  | 0x00 => th.st | 0x01 => th.cnt | 0x02 => th.ph | 0x03 => th.pl | 0x04 => th.qu | 0x05 => th.rm
  | 0x08 => th.epc | 0x09 => th.cause | 0x0A => th.tinfo | 0x0C => word (t % 1024) | 0x0D => word (tidPid s t)
  | 0x0E => spsNow s | 0x10 => (nib s (nibOf t)).tvec | 0x11 => th.pageSel | _ => 0

/-- A pending product write hides PH and PL, a pending quotient write QU and RM. -/
def sprPending (s : State) (t x : Nat) : Bool :=
  ((x = 2 || x = 3) && !(thread s t).products.isEmpty) || ((x = 4 || x = 5) && !(thread s t).quotients.isEmpty)

/-- The fields of ST, CAUSE and TVEC that MTS writes. -/
def stWritable : Word := 0x00EFFF0F
def causeWritable : Word := 0x00F0FFFF
def tvecWritable : Word := 0x0000FC01

/-- Write a special register. -/
def sprWrite (s : State) (t x : Nat) (v : Word) : State :=
  match x with
  | 0x00 => modThread s t (fun th => { th with st := (th.st &&& ~~~stWritable) ||| (v &&& stWritable) })
  | 0x01 => modThread s t (fun th => { th with cnt := v })
  | 0x02 => modThread s t (fun th => { th with ph := v })
  | 0x03 => modThread s t (fun th => { th with pl := v })
  | 0x04 => modThread s t (fun th => { th with qu := v })
  | 0x05 => modThread s t (fun th => { th with rm := v })
  | 0x08 => modThread s t (fun th => { th with epc := v &&& 0xFFFF })
  | 0x09 => modThread s t (fun th => { th with cause := v &&& causeWritable })
  | 0x0A => modThread s t (fun th => { th with tinfo := v })
  | 0x10 => modNib s (nibOf t) (fun n => { n with tvec := v &&& tvecWritable })
  | 0x11 => modThread s t (fun th => { th with pageSel := v &&& 0x3FFF })
  | _ => s

/-- The causes of MFS and MTS: UD 0x01 for a reserved number, UD 0x05 for a read-only one, PRIV. -/
def sprEarly (write : Bool) (s : State) (t : Nat) (w : Word) : Option (Nat × Nat) :=
  if ¬ sprKnown (wX w) then some (0, 1)
  else if write ∧ sprReadOnly (wX w) then some (0, 5)
  else if sprPriv (wX w) then privAtU s t else none

/-- MFS: the old contents while a write is pending, and er (R127). -/
def mfsRow : Row where
  is := isFX 0x14 0x00
  fields := fun _ => .d
  early := sprEarly false
  run := fun t w s =>
    let v := sprRead s t (wX w)
    let s := if sprPending s t (wX w) then pcEvent (setSt s t (setBit (thread s t).st 19 true)) t 0x15 else s
    .done (setW s t (wD w) v)

/-- MTS. -/
def mtsRow : Row where
  is := isFX 0x14 0x01
  fields := fun _ => .a
  early := sprEarly true
  cntWrite := fun w => wX w = 1
  run := fun t w s => .done (sprWrite s t (wX w) (wreg s t (wA w)))

/-! ## Loads and stores (R120, R143) -/

/-- A value of `size` bytes as d receives it. -/
def loadExtend (signed : Bool) (size v : Nat) : Word := if signed then sext (8 * size) v else word v

/-- A load: own local data at once; the shared range and DRAM when the data returns. -/
def loadRun (size : Nat) (signed : Bool) (t : Nat) (w : Word) (s : State) : Res :=
  let a : Access := { addr := effAddr s t w, size := size, rd := true, wr := false }
  match accessTrap s t [a] with
  | some r => r
  | none =>
    let k := keyOf s t a
    if isLocal (nibOf t) k then
      match checkLoad s t k with
      | (true, s) => .trap s 0x0A 0 (wordAddr a.addr)
      | (false, s) => .done (setW s t (wD w) (loadExtend signed size (loadValue s t k size)))
    else if ¬ dramRoom s k then .hold
    else
      let s := pcEvent (sharedAccess s t k size false) t (if k < dramBase then 0x0B else 0x0C)
      let (bad, s) := checkLoad s t k
      .wait (modThread s t (fun th => { th with
        load := some { addr := a.addr, key := k, size := size, signed := signed, d := wD w,
                       value := loadValue s t k size, bad := bad } }))

/-- A load row. -/
def loadRow (op sz size : Nat) (signed : Bool) : Row where
  is := isFI op sz
  fields := fun _ => .da
  ext := true
  run := loadRun size signed

/-- A store row: posted to the store buffer. -/
def storeRow (sz size : Nat) : Row where
  is := isFI 0x0A sz
  fields := fun _ => .da
  ext := true
  run := fun t w s =>
    let a : Access := { addr := effAddr s t w, size := size, rd := false, wr := true }
    memRes s t [] [a] (fun _ s => .done (storeAt s t a (wreg s t (wD w)).toNat))

/-- A DRAM request of the load is still waiting at its controller. -/
def loadWaiting (s : State) (t : Nat) (l : PendingLoad) : Bool :=
  match dramPlace s l.key with
  | some (c, off) => (subReqs s c (subOf off)).any (fun r => r.off = off && r.mid = nibMid (nibOf t) && !r.write)
  | none => false

/-- LOAD_DATA_RETURN (R108, R143). -/
def loadDataReturn (t : Nat) (s : State) : State :=
  match (thread s t).load with
  | none => s
  | some l =>
    if loadWaiting s t l then s
    else
      let s := modThread s t (fun th => { th with load := none })
      if l.bad then applyRes s t false (.trap s 0x0A 0 (wordAddr l.addr))
      else applyRes s t false (.done (setW s t l.d (loadExtend l.signed l.size l.value)))

/-! ## Atomics (R109, R121) -/

/-- An atomic: `f` gets the old word, W[d] and W[b], and gives the word to write and Z where it is set. A FENCE stands
on each side, so earlier stores come first. -/
def atomRun (f : Word → Word → Word → Option Word × Option Bool) (t : Nat) (w : Word) (s : State) : Res :=
  let a : Access := { addr := (wreg s t (wA w)).toNat, size := 4, rd := false, wr := true, atom := true }
  match accessTrap s t [a] with
  | some r => r
  | none =>
    if ¬ (thread s t).stbuf.isEmpty ∨ ¬ dramRoom s (keyOf s t a) then .hold
    else match readWords t [a] s with
      | .error (addr, s) => .trap s 0x0A 0 (wordAddr addr)
      | .ok (vs, s) =>
        let old := word (vs.headD 0)
        let (new, z) := f old (wreg s t (wD w)) (wreg s t (wB w))
        let s := match new with
          | some v => storeBytes s (keyOf s t a) (leBytes 4 v.toNat) (nibMid (nibOf t))
          | none => s
        let s := match z with
          | some b => setSt s t (setZ (thread s t).st b)
          | none => s
        .done (setW s t (wD w) old)

/-- An atomic row. -/
def atomRow (fn : Nat) (fields : Fields) (f : Word → Word → Word → Option Word × Option Bool) : Row where
  is := isF3 0x0B fn
  fields := fun _ => fields
  three := true
  run := atomRun f

/-! ## Strings (R122, R133) -/

/-- The step of a string instruction: −4 under RPT with dir 1. -/
def strStep (s : State) (t : Nat) : Word :=
  match (thread s t).pfx with
  | .rpt dir => stepOf dir
  | _ => 4

/-- A read or a write of the word that W[i] addresses. -/
def wordRd (s : State) (t i : Nat) : Access := { addr := (wreg s t i).toNat, size := 4, rd := true, wr := false }
def wordWr (s : State) (t i : Nat) : Access := { addr := (wreg s t i).toNat, size := 4, rd := false, wr := true }

/-- Step the pointers of registers `i` and `j`, each once. -/
def stepTwo (s : State) (t i j : Nat) (k : Word) : State :=
  let s := setW s t i (wreg s t i + k)
  if i = j then s else setW s t j (wreg s t j + k)

/-- WCPY. -/
def wcpyRun (t : Nat) (w : Word) (s : State) : Res :=
  let dst := wordWr s t (wD w)
  memRes s t [wordRd s t (wA w)] [dst] (fun vs s =>
    .done (stepTwo (storeAt s t dst (vs.headD 0)) t (wD w) (wA w) (strStep s t)))

/-- WFIL. -/
def wfilRun (t : Nat) (w : Word) (s : State) : Res :=
  let dst := wordWr s t (wD w)
  memRes s t [] [dst] (fun _ s =>
    let s' := storeAt s t dst (wreg s t (wB w)).toNat
    .done (setW s' t (wD w) (wreg s t (wD w) + strStep s t)))

/-- WCMP and WSRCH: `ends` says on which Z a repeat ends. -/
def strCmpRun (ends : Bool) (t : Nat) (w : Word) (s : State) : Res :=
  memRes s t [wordRd s t (wD w), wordRd s t (wA w)] [] (fun vs s =>
    let st := strCmp (thread s t).st (word (vs.headD 0)) (word (vs.getD 1 0))
    let s' := stepTwo (setSt s t st) t (wD w) (wA w) (strStep s t)
    if stZ st = ends then .stop s' else .done s')

/-- A string row. -/
def strRow (fn : Nat) (fields : Fields) (run : Nat → Word → State → Res) : Row where
  is := isF3 0x0C fn
  fields := fun _ => fields
  three := true
  rpt := true
  run := run

/-! ## Product and quotient (R126, R127) -/

/-- PH:PL as every earlier product operation of the thread leaves it. -/
def latestProduct (s : State) (t : Nat) : BitVec 64 :=
  ((thread s t).products.getLast?).getD ((thread s t).ph ++ (thread s t).pl)

/-- A product row: the result waits for PRODUCT_LAND. -/
def productRow (fn : Nat) (f : State → Nat → Word → Word → BitVec 64) : Row where
  is := isF3 0x06 fn
  fields := fun _ => .ab
  three := true
  run := fun t w s =>
    let p := f s t (wreg s t (wA w)) (wreg s t (wB w))
    .done (modThread s t (fun th => { th with products := th.products ++ [p] }))

/-- Signed and unsigned products. -/
def mulS (a b : Word) : BitVec 64 := BitVec.ofInt 64 (a.toInt * b.toInt)
def mulU (a b : Word) : BitVec 64 := BitVec.ofNat 64 (a.toNat * b.toNat)

/-- A division row: V, dz, vs and the trap at issue; the result waits for QUOTIENT_LAND. -/
def quotientRow (fn : Nat) (f : Word → Word → Word → Quot) : Row where
  is := isF3 0x06 fn
  fields := fun _ => .ab
  three := true
  run := fun t w s =>
    let q := f (thread s t).st (wreg s t (wA w)) (wreg s t (wB w))
    let s := modThread s t (fun th => { th with st := q.st, quotients := th.quotients ++ [(q.qu, q.rm)] })
    match q.trap with
    | some code => .late s code
    | none => .done s

/-- PRODUCT_LAND: the oldest pending product write, over any MTS (R127, R141). -/
def productLand (t : Nat) (s : State) : State :=
  match (thread s t).products with
  | [] => s
  | p :: r => modThread s t (fun th => { th with products := r, ph := (p >>> 32).setWidth 32, pl := p.setWidth 32 })

/-- QUOTIENT_LAND. -/
def quotientLand (t : Nat) (s : State) : State :=
  match (thread s t).quotients with
  | [] => s
  | (q, m) :: r => modThread s t (fun th => { th with quotients := r, qu := q, rm := m })

/-- The thread with its pending product and quotient writes landed, the newest last: so it stands before it runs again
after a reset, a park or a halt (R141). -/
def landed (th : Thread) : Thread :=
  { th with
    products := [], quotients := []
    ph := match th.products.getLast? with | some p => (p >>> 32).setWidth 32 | none => th.ph
    pl := match th.products.getLast? with | some p => p.setWidth 32 | none => th.pl
    qu := match th.quotients.getLast? with | some q => q.1 | none => th.qu
    rm := match th.quotients.getLast? with | some q => q.2 | none => th.rm }

/-! ## Packed decimal (R128, R133, R134) -/

/-- A decimal row on registers. -/
def decRow (fn : Nat) (fields : Fields) (f : Word → Word → Word → Alu) : Row where
  is := isF3 0x07 fn
  fields := fun _ => fields
  three := true
  run := fun t w s => (regRun (fun st _ a b => f st a b) t w s).also (fun s => pcEvent s t 0x16)

/-- One iteration of a decimal repeat: mem[d] ← mem[a] op mem[b] with C in and out, then all three pointers advance. An
invalid digit leaves the word and the flags; with bct at 0 the repeat goes on (DEDUCED, log entry 27). -/
def decIteration (f : Word → Word → Word → Nat → Alu) (t : Nat) (w : Word) (s : State) : Res :=
  let dst := wordWr s t (wD w)
  memRes s t [wordRd s t (wA w), wordRd s t (wB w)] [dst] (fun vs s =>
    let st := (thread s t).st
    let o := f st (word (vs.headD 0)) (word (vs.getD 1 0)) (stC st).toNat
    let s' := setSt s t o.st
    match o.trap with
    | some code => .late s' code
    | none =>
      let s' := match o.d with
        | some v => storeAt s' t dst v.toNat
        | none => s'
      let s' := stepTwo s' t (wD w) (wA w) 4
      .done (if wB w = wD w ∨ wB w = wA w then s' else setW s' t (wB w) (wreg s' t (wB w) + 4)))

/-- DADD, DADDC, DSUB and DSUBB: on registers with carry in `cin`, or on memory under RPT. -/
def decSumRow (fn : Nat) (f : Word → Word → Word → Nat → Alu) (cin : Word → Nat) : Row where
  is := isF3 0x07 fn
  fields := fun _ => .dab
  three := true
  rpt := true
  decimal := true
  run := fun t w s =>
    (match (thread s t).pfx with
    | .rpt _ => decIteration f t w s
    | _ => regRun (fun st _ a b => f st a b (cin st)) t w s).also (fun s => pcEvent s t 0x16)

/-! ## The instructions -/

/-- ADD. -/
def execAdd (t : Tid) (w : Word) (s : State) : Host.Outcome State Fault Refusal := .next (issue (alu2 0x000 (fun st a b => aluAdd st a b 0)) t w s)
/-- ADDC. -/
def execAddc (t : Tid) (w : Word) (s : State) : Host.Outcome State Fault Refusal := .next (issue (alu2 0x001 (fun st a b => aluAdd st a b (stC st).toNat)) t w s)
/-- SUB. -/
def execSub (t : Tid) (w : Word) (s : State) : Host.Outcome State Fault Refusal := .next (issue (alu2 0x002 (fun st a b => aluSub st a b 0)) t w s)
/-- SUBB. -/
def execSubb (t : Tid) (w : Word) (s : State) : Host.Outcome State Fault Refusal := .next (issue (alu2 0x003 (fun st a b => aluSub st a b (stC st).toNat)) t w s)
/-- AND. -/
def execAnd (t : Tid) (w : Word) (s : State) : Host.Outcome State Fault Refusal := .next (issue (alu2 0x004 (fun st a b => aluLogic st (a &&& b))) t w s)
/-- OR. -/
def execOr (t : Tid) (w : Word) (s : State) : Host.Outcome State Fault Refusal := .next (issue (alu2 0x005 (fun st a b => aluLogic st (a ||| b))) t w s)
/-- XOR. -/
def execXor (t : Tid) (w : Word) (s : State) : Host.Outcome State Fault Refusal := .next (issue (alu2 0x006 (fun st a b => aluLogic st (a ^^^ b))) t w s)
/-- ANDN. -/
def execAndn (t : Tid) (w : Word) (s : State) : Host.Outcome State Fault Refusal := .next (issue (alu2 0x007 (fun st a b => aluLogic st (a &&& ~~~b))) t w s)
/-- SHL. -/
def execShl (t : Tid) (w : Word) (s : State) : Host.Outcome State Fault Refusal := .next (issue (alu2 0x008 aluShl) t w s)
/-- SHR. -/
def execShr (t : Tid) (w : Word) (s : State) : Host.Outcome State Fault Refusal := .next (issue (alu2 0x009 aluShr) t w s)
/-- SAR. -/
def execSar (t : Tid) (w : Word) (s : State) : Host.Outcome State Fault Refusal := .next (issue (alu2 0x00A aluSar) t w s)
/-- ROT. -/
def execRot (t : Tid) (w : Word) (s : State) : Host.Outcome State Fault Refusal := .next (issue (alu2 0x00B aluRot) t w s)
/-- CMP. -/
def execCmp (t : Tid) (w : Word) (s : State) : Host.Outcome State Fault Refusal := .next (issue (aluTestRow 0x00C aluCmp) t w s)
/-- TST. -/
def execTst (t : Tid) (w : Word) (s : State) : Host.Outcome State Fault Refusal := .next (issue (aluTestRow 0x00D (fun st a b => aluTest st (a &&& b))) t w s)
/-- MOV. -/
def execMov (t : Tid) (w : Word) (s : State) : Host.Outcome State Fault Refusal := .next (issue (alu1 0x00E aluMove) t w s)
/-- NOT. -/
def execNot (t : Tid) (w : Word) (s : State) : Host.Outcome State Fault Refusal := .next (issue (alu1 0x00F (fun st a => aluLogic st (~~~a))) t w s)
/-- NEG. -/
def execNeg (t : Tid) (w : Word) (s : State) : Host.Outcome State Fault Refusal := .next (issue (alu1 0x010 (fun st a => aluSub st 0 a 0)) t w s)
/-- ABS. -/
def execAbs (t : Tid) (w : Word) (s : State) : Host.Outcome State Fault Refusal := .next (issue (alu1 0x011 aluAbs) t w s)
/-- MIN. -/
def execMin (t : Tid) (w : Word) (s : State) : Host.Outcome State Fault Refusal := .next (issue (alu2 0x012 (fun st a b => aluLogic st (minS a b))) t w s)
/-- MAX. -/
def execMax (t : Tid) (w : Word) (s : State) : Host.Outcome State Fault Refusal := .next (issue (alu2 0x013 (fun st a b => aluLogic st (maxS a b))) t w s)
/-- MINU. -/
def execMinu (t : Tid) (w : Word) (s : State) : Host.Outcome State Fault Refusal := .next (issue (alu2 0x014 (fun st a b => aluLogic st (minU a b))) t w s)
/-- MAXU. -/
def execMaxu (t : Tid) (w : Word) (s : State) : Host.Outcome State Fault Refusal := .next (issue (alu2 0x015 (fun st a b => aluLogic st (maxU a b))) t w s)
/-- ADDI. -/
def execAddi (t : Tid) (w : Word) (s : State) : Host.Outcome State Fault Refusal := .next (issue (immRow 0x02 0 .da true immS (fun st a i => aluAdd st a i 0)) t w s)
/-- ANDI. -/
def execAndi (t : Tid) (w : Word) (s : State) : Host.Outcome State Fault Refusal := .next (issue (immRow 0x02 1 .da true immZ (fun st a i => aluLogic st (a &&& i))) t w s)
/-- ORI. -/
def execOri (t : Tid) (w : Word) (s : State) : Host.Outcome State Fault Refusal := .next (issue (immRow 0x02 2 .da true immZ (fun st a i => aluLogic st (a ||| i))) t w s)
/-- XORI. -/
def execXori (t : Tid) (w : Word) (s : State) : Host.Outcome State Fault Refusal := .next (issue (immRow 0x02 3 .da true immZ (fun st a i => aluLogic st (a ^^^ i))) t w s)
/-- SHLI. -/
def execShli (t : Tid) (w : Word) (s : State) : Host.Outcome State Fault Refusal := .next (issue (immRow 0x03 0 .da true immZ aluShl) t w s)
/-- SHRI. -/
def execShri (t : Tid) (w : Word) (s : State) : Host.Outcome State Fault Refusal := .next (issue (immRow 0x03 1 .da true immZ aluShr) t w s)
/-- SARI. -/
def execSari (t : Tid) (w : Word) (s : State) : Host.Outcome State Fault Refusal := .next (issue (immRow 0x03 2 .da true immZ aluSar) t w s)
/-- ROTI. -/
def execRoti (t : Tid) (w : Word) (s : State) : Host.Outcome State Fault Refusal := .next (issue (immRow 0x03 3 .da true immZ aluRot) t w s)
/-- CMPI. -/
def execCmpi (t : Tid) (w : Word) (s : State) : Host.Outcome State Fault Refusal := .next (issue (immRow 0x04 0 .a true immS aluCmp) t w s)
/-- TSTI. -/
def execTsti (t : Tid) (w : Word) (s : State) : Host.Outcome State Fault Refusal := .next (issue (immRow 0x04 1 .a true immZ (fun st a i => aluTest st (a &&& i))) t w s)
/-- CMPUI. -/
def execCmpui (t : Tid) (w : Word) (s : State) : Host.Outcome State Fault Refusal := .next (issue (immRow 0x04 2 .a true immZ aluCmp) t w s)
/-- MOVI. -/
def execMovi (t : Tid) (w : Word) (s : State) : Host.Outcome State Fault Refusal := .next (issue (immRow 0x05 0 .d true immS (fun st _ i => aluMove st i)) t w s)
/-- MOVHI. -/
def execMovhi (t : Tid) (w : Word) (s : State) : Host.Outcome State Fault Refusal := .next (issue (immRow 0x05 1 .d false immZ (fun st _ i => aluMove st (i <<< 18))) t w s)
/-- BR. -/
def execBr (t : Tid) (w : Word) (s : State) : Host.Outcome State Fault Refusal := .next (issue (brRow) t w s)
/-- NOP. -/
def execNop (t : Tid) (w : Word) (s : State) : Host.Outcome State Fault Refusal := .next (issue (nopRow 0x00) t w s)
/-- JR. -/
def execJr (t : Tid) (w : Word) (s : State) : Host.Outcome State Fault Refusal := .next (issue (jrRow) t w s)
/-- JALR. -/
def execJalr (t : Tid) (w : Word) (s : State) : Host.Outcome State Fault Refusal := .next (issue (jalrRow) t w s)
/-- BRK. -/
def execBrk (t : Tid) (w : Word) (s : State) : Host.Outcome State Fault Refusal := .next (issue (brkRow) t w s)
/-- RTE. -/
def execRte (t : Tid) (w : Word) (s : State) : Host.Outcome State Fault Refusal := .next (issue (rteRow) t w s)
/-- MWAIT. -/
def execMwait (t : Tid) (w : Word) (s : State) : Host.Outcome State Fault Refusal := .next (issue (mwaitRow) t w s)
/-- FENCE. -/
def execFence (t : Tid) (w : Word) (s : State) : Host.Outcome State Fault Refusal := .next (issue (fenceRow) t w s)
/-- IFENCE. -/
def execIfence (t : Tid) (w : Word) (s : State) : Host.Outcome State Fault Refusal := .next (issue (nopRow 0x07) t w s)
/-- IST. -/
def execIst (t : Tid) (w : Word) (s : State) : Host.Outcome State Fault Refusal := .next (issue (istRow) t w s)
/-- ILD. -/
def execIld (t : Tid) (w : Word) (s : State) : Host.Outcome State Fault Refusal := .next (issue (ildRow) t w s)
/-- CLC. -/
def execClc (t : Tid) (w : Word) (s : State) : Host.Outcome State Fault Refusal := .next (issue (carryRow 0x0A false) t w s)
/-- SEC. -/
def execSec (t : Tid) (w : Word) (s : State) : Host.Outcome State Fault Refusal := .next (issue (carryRow 0x0B true) t w s)
/-- MFS. -/
def execMfs (t : Tid) (w : Word) (s : State) : Host.Outcome State Fault Refusal := .next (issue (mfsRow) t w s)
/-- MTS. -/
def execMts (t : Tid) (w : Word) (s : State) : Host.Outcome State Fault Refusal := .next (issue (mtsRow) t w s)
/-- LB. -/
def execLb (t : Tid) (w : Word) (s : State) : Host.Outcome State Fault Refusal := .next (issue (loadRow 0x08 0 1 false) t w s)
/-- LH. -/
def execLh (t : Tid) (w : Word) (s : State) : Host.Outcome State Fault Refusal := .next (issue (loadRow 0x08 1 2 false) t w s)
/-- LW. -/
def execLw (t : Tid) (w : Word) (s : State) : Host.Outcome State Fault Refusal := .next (issue (loadRow 0x08 2 4 false) t w s)
/-- LBS. -/
def execLbs (t : Tid) (w : Word) (s : State) : Host.Outcome State Fault Refusal := .next (issue (loadRow 0x09 0 1 true) t w s)
/-- LHS. -/
def execLhs (t : Tid) (w : Word) (s : State) : Host.Outcome State Fault Refusal := .next (issue (loadRow 0x09 1 2 true) t w s)
/-- SB. -/
def execSb (t : Tid) (w : Word) (s : State) : Host.Outcome State Fault Refusal := .next (issue (storeRow 0 1) t w s)
/-- SH. -/
def execSh (t : Tid) (w : Word) (s : State) : Host.Outcome State Fault Refusal := .next (issue (storeRow 1 2) t w s)
/-- SW. -/
def execSw (t : Tid) (w : Word) (s : State) : Host.Outcome State Fault Refusal := .next (issue (storeRow 2 4) t w s)
/-- LOAD_DATA_RETURN. -/
def execLoadDataReturn (t : Tid) (s : State) : Host.Outcome State Fault Refusal := .next (loadDataReturn t s)
/-- ATOM.TAS. -/
def execAtomTas (t : Tid) (w : Word) (s : State) : Host.Outcome State Fault Refusal := .next (issue (atomRow 0x000 .da (fun old _ _ => (some 1, some (old = 0)))) t w s)
/-- ATOM.CAS. -/
def execAtomCas (t : Tid) (w : Word) (s : State) : Host.Outcome State Fault Refusal := .next (issue (atomRow 0x001 .dab (fun old d b => (if old = d then some b else none, some (old = d)))) t w s)
/-- ATOM.ADD. -/
def execAtomAdd (t : Tid) (w : Word) (s : State) : Host.Outcome State Fault Refusal := .next (issue (atomRow 0x002 .dab (fun old _ b => (some (old + b), none))) t w s)
/-- ATOM.SWP. -/
def execAtomSwp (t : Tid) (w : Word) (s : State) : Host.Outcome State Fault Refusal := .next (issue (atomRow 0x003 .dab (fun _ _ b => (some b, none))) t w s)
/-- WCPY. -/
def execWcpy (t : Tid) (w : Word) (s : State) : Host.Outcome State Fault Refusal := .next (issue (strRow 0x000 .da wcpyRun) t w s)
/-- WFIL. -/
def execWfil (t : Tid) (w : Word) (s : State) : Host.Outcome State Fault Refusal := .next (issue (strRow 0x001 .db wfilRun) t w s)
/-- WCMP. -/
def execWcmp (t : Tid) (w : Word) (s : State) : Host.Outcome State Fault Refusal := .next (issue (strRow 0x002 .da (strCmpRun false)) t w s)
/-- WSRCH. -/
def execWsrch (t : Tid) (w : Word) (s : State) : Host.Outcome State Fault Refusal := .next (issue (strRow 0x003 .da (strCmpRun true)) t w s)
/-- MULS. -/
def execMuls (t : Tid) (w : Word) (s : State) : Host.Outcome State Fault Refusal := .next (issue (productRow 0x000 (fun _ _ a b => mulS a b)) t w s)
/-- MULU. -/
def execMulu (t : Tid) (w : Word) (s : State) : Host.Outcome State Fault Refusal := .next (issue (productRow 0x001 (fun _ _ a b => mulU a b)) t w s)
/-- MACS. -/
def execMacs (t : Tid) (w : Word) (s : State) : Host.Outcome State Fault Refusal := .next (issue (productRow 0x002 (fun s t a b => latestProduct s t + mulS a b)) t w s)
/-- DIVS. -/
def execDivs (t : Tid) (w : Word) (s : State) : Host.Outcome State Fault Refusal := .next (issue (quotientRow 0x004 divSigned) t w s)
/-- DIVU. -/
def execDivu (t : Tid) (w : Word) (s : State) : Host.Outcome State Fault Refusal := .next (issue (quotientRow 0x005 divUnsigned) t w s)
/-- PRODUCT_LAND. -/
def execProductLand (t : Tid) (s : State) : Host.Outcome State Fault Refusal := .next (productLand t s)
/-- QUOTIENT_LAND. -/
def execQuotientLand (t : Tid) (s : State) : Host.Outcome State Fault Refusal := .next (quotientLand t s)
/-- DADD. -/
def execDadd (t : Tid) (w : Word) (s : State) : Host.Outcome State Fault Refusal := .next (issue (decSumRow 0x000 decAdd (fun _ => 0)) t w s)
/-- DADDC. -/
def execDaddc (t : Tid) (w : Word) (s : State) : Host.Outcome State Fault Refusal := .next (issue (decSumRow 0x001 decAdd (fun st => (stC st).toNat)) t w s)
/-- DSUB. -/
def execDsub (t : Tid) (w : Word) (s : State) : Host.Outcome State Fault Refusal := .next (issue (decSumRow 0x002 decSub (fun _ => 0)) t w s)
/-- DSUBB. -/
def execDsubb (t : Tid) (w : Word) (s : State) : Host.Outcome State Fault Refusal := .next (issue (decSumRow 0x003 decSub (fun st => (stC st).toNat)) t w s)
/-- DCA. -/
def execDca (t : Tid) (w : Word) (s : State) : Host.Outcome State Fault Refusal := .next (issue (decRow 0x004 .da (fun st a _ => decAdjust st a false)) t w s)
/-- DCS. -/
def execDcs (t : Tid) (w : Word) (s : State) : Host.Outcome State Fault Refusal := .next (issue (decRow 0x005 .da (fun st a _ => decAdjust st a true)) t w s)
/-- DSHL. -/
def execDshl (t : Tid) (w : Word) (s : State) : Host.Outcome State Fault Refusal := .next (issue (decRow 0x006 .dab decShl) t w s)
/-- DSHR. -/
def execDshr (t : Tid) (w : Word) (s : State) : Host.Outcome State Fault Refusal := .next (issue (decRow 0x007 .dab decShr) t w s)
/-- DCVB. -/
def execDcvb (t : Tid) (w : Word) (s : State) : Host.Outcome State Fault Refusal := .next (issue (decRow 0x008 .da (fun st a _ => decToBin st a)) t w s)
/-- DCVD. -/
def execDcvd (t : Tid) (w : Word) (s : State) : Host.Outcome State Fault Refusal := .next (issue (decRow 0x009 .da (fun st a _ => decFromBin st a)) t w s)
/-- DCHK. -/
def execDchk (t : Tid) (w : Word) (s : State) : Host.Outcome State Fault Refusal := .next (issue (decRow 0x00A .da (fun st a _ => decCheck st a)) t w s)
/-- BFX. -/
def execBfx (t : Tid) (w : Word) (s : State) : Host.Outcome State Fault Refusal := .next (issue (fuseRow 0x000 .dab (fun st _ a b => fuseBfx st a b)) t w s)
/-- BFXS. -/
def execBfxs (t : Tid) (w : Word) (s : State) : Host.Outcome State Fault Refusal := .next (issue (fuseRow 0x001 .dab (fun st _ a b => fuseBfxs st a b)) t w s)
/-- BFI. -/
def execBfi (t : Tid) (w : Word) (s : State) : Host.Outcome State Fault Refusal := .next (issue (fuseRow 0x002 .dab fuseBfi) t w s)
/-- PSAT4. -/
def execPsat4 (t : Tid) (w : Word) (s : State) : Host.Outcome State Fault Refusal := .next (issue (fuseRow 0x003 .dab (fun st _ a b => fusePsat4 st a b)) t w s)
/-- WSUM4. -/
def execWsum4 (t : Tid) (w : Word) (s : State) : Host.Outcome State Fault Refusal := .next (issue (fuseRow 0x004 .dab (fun st _ a b => fuseWsum4 st a b)) t w s)
/-- WSUM4U. -/
def execWsum4u (t : Tid) (w : Word) (s : State) : Host.Outcome State Fault Refusal := .next (issue (fuseRow 0x005 .dab (fun st _ a b => fuseWsum4u st a b)) t w s)
/-- CLZP. -/
def execClzp (t : Tid) (w : Word) (s : State) : Host.Outcome State Fault Refusal := .next (issue (fuseRow 0x006 .da (fun st _ a _ => fuseClzp st a)) t w s)
/-- CRCC. -/
def execCrcc (t : Tid) (w : Word) (s : State) : Host.Outcome State Fault Refusal := .next (issue (fuseRow 0x008 .dab (fun st _ a b => fuseCrcc st a b 4)) t w s)
/-- CRCC1. -/
def execCrcc1 (t : Tid) (w : Word) (s : State) : Host.Outcome State Fault Refusal := .next (issue (fuseRow 0x009 .dab (fun st _ a b => fuseCrcc st a b 1)) t w s)
/-- CRCC2. -/
def execCrcc2 (t : Tid) (w : Word) (s : State) : Host.Outcome State Fault Refusal := .next (issue (fuseRow 0x00A .dab (fun st _ a b => fuseCrcc st a b 2)) t w s)
/-- CRCC3. -/
def execCrcc3 (t : Tid) (w : Word) (s : State) : Host.Outcome State Fault Refusal := .next (issue (fuseRow 0x00B .dab (fun st _ a b => fuseCrcc st a b 3)) t w s)

end Sys2Proof.Machine
end

