-- ==== Sys2Proof/Machine/Channels.lean ====
section
/-! DEFINITION. Thread control and the debugger, channels and messages, locks, timers, supervisor notices, the deadlock
detector, and the phase ports (R28–R30, R145–R165). -/

namespace Sys2Proof.Machine

/-! ## Claims and channels (R154–R156) -/

/-- Words discarded: counted, and source 0x02 (R155, R166). -/
def discardWords (s : State) (n k : Nat) : State :=
  if k = 0 then s else note (countN s (Reg.MSG_DISCARD n) k) (Reg.nibPage n) 0x02

/-- The claimed message of a thread is over: its FIFO slot is free. -/
def freeClaim (s : State) (t : Nat) : State :=
  match (thread s t).claim with
  | none => s
  | some c =>
    let s := if c.ch = 0 then s else modChan s (nibOf t) c.ch (fun ch => { ch with claimed := ch.claimed - 1 })
    modThread s t (fun th => { th with claim := none })

/-- The unread words of a claimed message are discarded; `counted` says whether MSG_DISCARD counts them. -/
def dropClaim (s : State) (t : Nat) (counted : Bool) : State :=
  match (thread s t).claim with
  | none => s
  | some c => freeClaim (if counted then discardWords s (nibOf t) c.words.length else s) t

/-- Thread `t` claims a message of channel `ch`: its word 0, and the rest to read (R155). -/
def claimMsg (s : State) (t ch : Nat) (msg : List Word) : Word × State :=
  let s := pcEvent s t (if ch = 0 then 0x0F else 0x11)
  let rest := msg.drop 1
  let s := if rest.isEmpty ∨ ch = 0 then s else modChan s (nibOf t) ch (fun c => { c with claimed := c.claimed + 1 })
  (msg.headD 0, modThread s t (fun th => { th with
    claim := if rest.isEmpty then none else some { ch := ch, total := msg.length, words := rest } }))

/-- The words of an FD. -/
def fdWords (f : FD) : List Word := [f.w0, f.w1, f.w2, f.w3, f.w4, f.w5, f.w6, f.w7]
/-- The FD that eight words spell. -/
def fdOf (l : List Word) : FD :=
  { w0 := l.getD 0 0, w1 := l.getD 1 0, w2 := l.getD 2 0, w3 := l.getD 3 0, w4 := l.getD 4 0, w5 := l.getD 5 0,
    w6 := l.getD 6 0, w7 := l.getD 7 0 }

/-- An IN on channel `ch` (R154–R156). -/
def chanIn (t ch : Nat) (s : State) : InRes :=
  match (thread s t).claim with
  | some c =>
    if c.ch = ch then
      let s1 := modThread s t (fun th => { th with claim := some { c with words := c.words.drop 1 } })
      .give (if c.words.length ≤ 1 then freeClaim s1 t else s1) (.plain (c.words.headD 0))
    else take (dropClaim s t true)
  | none => take s
where
  /-- Claim the message at the head, or wait. -/
  take (s : State) : InRes :=
    if ch = 0 then
      match (thread s t).ch0 with
      | [] => .block s
      | f :: r =>
        let (v, s) := claimMsg (modThread s t (fun th => { th with ch0 := r })) t 0 (fdWords f)
        .give s (.plain v)
    else match (chan s (nibOf t) ch).msgs with
      | [] => .block (modChan s (nibOf t) ch (fun c => { c with readers := c.readers ++ [t] }))
      | m :: r =>
        let (v, s) := claimMsg (modChan s (nibOf t) ch (fun c => { c with msgs := r })) t ch m
        .give s (.plain v)

/-- A message reaches channel `ch` of Nib `n`, which has room: it goes to the thread that blocked first, or waits
(R156). A fenced Nib's messages are discarded (R333). -/
def chanPut (s : State) (n ch : Nat) (msg : List Word) : State :=
  if (nib s n).fenced then discardWords s n msg.length
  else match (chan s n ch).readers with
    | [] => modChan s n ch (fun c => { c with msgs := c.msgs ++ [msg] })
    | t :: r =>
      let (v, s) := claimMsg (modChan s n ch (fun c => { c with readers := r })) t ch msg
      deliverIn s t (.plain v)

/-- An FD is dealt to thread `t` (R154). -/
def dealFd (s : State) (t : Nat) (f : FD) : State :=
  if blockedOn s t 0 ∧ (thread s t).ch0.isEmpty ∧ (thread s t).claim.isNone then
    let (v, s) := claimMsg s t 0 (fdWords f)
    deliverIn s t (.plain v)
  else modThread s t (fun th => { th with ch0 := th.ch0 ++ [f] })

/-- FDs that a thread holds in CH0, one being read included (R154). -/
def ch0Held (s : State) (t : Nat) : Nat :=
  (thread s t).ch0.length + (match (thread s t).claim with | some c => if c.ch = 0 then 1 else 0 | none => 0)

/-- The CH0 share of thread `t` is full (R148). -/
def ch0Full (s : State) (t : Nat) : Bool :=
  shareFull s (nibOf t) (idxOf t) 64 (fld s (Reg.NIB_SHARE (nibOf t)) 3 0) (fun j => ch0Held s (tidOf (nibOf t) j))

/-- CH_RECEIVE: ports 0x0000 to 0x001F. -/
def chReceiveRow : Row := inSpec (· < 0x20) (fun t p s => chanIn t p s)

/-- RX_INFO. -/
def rxInfoRow : Row := inSpec (· = 0x20) (fun t _ s => .give s (.plain (match (thread s t).claim with
  | some c => word (2 ^ 31 + c.ch * 2 ^ 16 + c.total * 2 ^ 8 + c.words.length)
  | none => 0)))

/-- The row of an OUT whose ports `ports` selects. -/
def outSpec (ports : Nat → Bool) (f : Nat → Nat → Word → State → Option State) : Row where
  is := fun w => wOp w = 0x0E
  fields := fpFields
  rpt := true
  run := outRow ports f

/-- RX_DROP: a chosen discard, which MSG_DISCARD does not count (DEDUCED, log entry 28). -/
def rxDropRow : Row := outSpec (· = 0x21) (fun t _ _ s => some (dropClaim s t false))

/-! ## Sending (R157, R158) -/

/-- A send or submission refused: source 0x03 (R166). -/
def refuseSend (s : State) (t : Nat) : State := note s (Reg.nibPage (nibOf t)) 0x03 1 (nibMid (nibOf t))

/-- Messages of a thread in the send queue. -/
def sendHeld (s : State) (t : Nat) : Nat := (s.sends.filter (fun m => m.src = t)).length

/-- The send share of thread `t` is full (R148). -/
def sendFull (s : State) (t : Nat) : Bool :=
  shareFull s (nibOf t) (idxOf t) 64 (fld s (Reg.NIB_SHARE (nibOf t)) 11 8) (fun j => sendHeld s (tidOf (nibOf t) j))

/-- The status of a TX_DEST word: the word count is 1 to 8 and the Nib exists, the destination lies in the sender's
partition, the channel is one that the thread writes (R154, R157). -/
def destStatus (s : State) (t : Nat) (v : Word) : Byte :=
  let n := bits v 19 16
  let d := bits v 15 8
  let ch := bits v 4 0
  if n = 0 ∨ 8 < n ∨ 128 < d then stRefused
  else if t < 1024 ∧ d < 128 ∧ nibPid s d ≠ tidPid s t then stDenied
  else if 30 < ch ∨ ch < (if t < 1024 ∧ d < 128 then 3 else 4) then stRefused
  else stOk

/-- TX_DEST. -/
def txDestRow : Row := outSpec (· = 0x24) (fun t _ v s =>
  let s := match (thread s t).staging with
    | some (_, ws) => discardWords s (nibOf t) ws.length
    | none => s
  let st := destStatus s t v
  let s := modThread s t (fun th => { th with staging := if st = stOk then some (v, []) else none, txStat := st })
  some (if st = stOk then s else refuseSend s t))

/-- TX_DATA: stage a word; the last one commits, or returns FULL. -/
def txDataRow : Row := outSpec (· = 0x25) (fun t _ v s =>
  match (thread s t).staging with
  | none => some (refuseSend (modThread s t (fun th => { th with txStat := stRefused })) t)
  | some (d, ws) =>
    let ws := ws ++ [v]
    if ws.length < bits d 19 16 then some (modThread s t (fun th => { th with staging := some (d, ws) }))
    else if sendFull s t then some (refuseSend (modThread s t (fun th => { th with staging := none, txStat := stFull })) t)
    else
      let s := modThread s t (fun th => { th with staging := none, txStat := stOk })
      some (pcEvent { s with sends := s.sends ++ [{ src := t, dest := bits d 15 8, ch := bits d 4 0, words := ws }] } t 0x10))

/-- TX_STAT. -/
def txStatRow : Row := inSpec (· = 0x26) (fun t _ s => .give s (.status (thread s t).txStat ((thread s t).txStat = stOk)))

/-- TX_ABORT: a chosen discard, which MSG_DISCARD does not count (DEDUCED, log entry 28). -/
def txAbortRow : Row := outSpec (· = 0x27) (fun t _ _ s => some (modThread s t (fun th => { th with staging := none })))

/-- MESSAGE_DELIVER: the oldest message of thread `src` to a channel, once the FIFO has room (R158). -/
def messageDeliver (src dest ch : Nat) (s : State) : State :=
  match s.sends.find? (fun m => m.src = src && m.dest = dest && m.ch = ch) with
  | none => s
  | some m =>
    if chanRoom s dest ch ∨ (nib s dest).fenced then chanPut { s with sends := s.sends.erase m } dest ch m.words else s

/-! ## Locks (R159, R160) -/

/-- The partition of the group of lock `k` (LK_PIDMAP). -/
def lockPid (s : State) (q k : Nat) : Nat := fld s (Reg.LK_PIDMAP q (k / 128)) (4 * (k / 16 % 8) + 3) (4 * (k / 16 % 8))

/-- Lock `k` passes to thread `t`: BROKEN if it was broken. -/
def lockGrant (s : State) (q k t : Nat) : Byte × State :=
  let broken := (lock s q k).broken
  let s := qpcEvent (modLock s q k (fun l => { l with owner := some t, broken := false })) q 0x40
  if broken then
    (stBroken, qpcEvent (note (count s (Reg.LK_BROKEN_CNT q)) (Reg.locksPage q) 0x01) q 0x42)
  else (stOk, s)

/-- A lock is released, as broken where `broken` says so: to the head of its queue, or free. -/
def lockRelease (s : State) (q k : Nat) (broken : Bool) : State :=
  let s := modLock s q k (fun l => { l with owner := none, broken := l.broken || broken })
  match (lock s q k).queue with
  | [] => s
  | t :: r =>
    let (st, s) := lockGrant (modLock s q k (fun l => { l with queue := r })) q k t
    deliverIn s t (.status st true)

/-- A thread's lock port is refused: another partition's group (R159, R166). -/
def lockDenied (s : State) (q : Nat) : State := note (count s (Reg.LK_DENIED_CNT q)) (Reg.locksPage q) 0x02

/-- LK_ACQ: ports 0x0100 to 0x01FF. The Steward has no Quill and no lock unit. -/
def lkAcqRow : Row := inSpec (fun p => p / 256 = 1) (fun t p s =>
  let q := nibOf t / 8
  let k := p % 256
  if 1024 ≤ t then .deny s
  else if lockPid s q k ≠ tidPid s t then .give (lockDenied s q) (.status stDenied false)
  else match (lock s q k).owner with
    | none => let (st, s) := lockGrant s q k t; .give s (.status st true)
    | some o =>
      if o = t then .give s (.status stAlready false)
      else .block (qpcEvent (modLock s q k (fun l => { l with queue := l.queue ++ [t] })) q 0x41))

/-- LK_REL. -/
def lkRelRow : Row := outSpec (fun p => p / 256 = 1) (fun t p _ s =>
  let q := nibOf t / 8
  let k := p % 256
  if 1024 ≤ t then none
  else if (lock s q k).owner = some t then some (lockRelease s q k false)
  else some (note (count s (Reg.LK_BADREL_CNT q)) (Reg.locksPage q) 0x00))

/-- LK_TRY. -/
def lkTryRow : Row := outSpec (· = 0x2A) (fun t _ v s =>
  let q := nibOf t / 8
  let k := bits v 7 0
  if 1024 ≤ t then none
  else
    let (st, s) : Byte × State :=
      if lockPid s q k ≠ tidPid s t then (stDenied, lockDenied s q)
      else match (lock s q k).owner with
        | none => lockGrant s q k t
        | some o => (if o = t then stAlready else stBusy, s)
    some (modThread s t (fun th => { th with lkRes := st })))

/-- LK_TRY_RES. -/
def lkTryResRow : Row := inSpec (· = 0x2B) (fun t _ s =>
  .give s (.status (thread s t).lkRes ((thread s t).lkRes = stOk || (thread s t).lkRes = stBroken)))

/-- LOCK_FORCE_RELEASE: LK_STATEk.held written 1 (R160). -/
def lockForceRelease (q k : Nat) (s : State) : State := if (lock s q k).owner.isSome then lockRelease s q k true else s

/-- Every lock that thread `t` owns is released as broken (R160). -/
def breakLocks (s : State) (t : Nat) : State :=
  (s.locks.filter (fun e => e.2.owner = some t && e.1 / 256 = nibOf t / 8)).foldl (fun s e => lockRelease s (e.1 / 256) (e.1 % 256) true) s

/-- Every thread of Nib `n` leaves the orders that it waits in, so that nothing passes to one of them while they are reset
or fenced together. -/
def nibLeaves (s : State) (n : Nat) : State := (List.range 8).foldl (fun s i => leaveWaits s (tidOf n i)) s

/-! ## Thread control (R145–R147, R161, R164) -/

/-- THR_START: IDLE only. -/
def thrStart (t : Nat) (s : State) : State :=
  if (thread s t).state = .idle then
    modThread s t (fun th => { (landed th) with
      state := .running, pfx := .none, pc := (reg s (Reg.THR_ENTRY (nibOf t) (idxOf t))).setWidth 16 })
  else s

/-- What thread reset does to a thread (R146): what the rule does not name is kept. -/
def resetThread (s : State) (t : Nat) : State :=
  let s := dropClaim (breakLocks (leaveWaits s t) t) t false
  modThread s t (fun th => { th with
    w := [], st := stReset t, cnt := 0, ph := 0, pl := 0, qu := 0, rm := 0, epc := 0, cause := 0, tinfo := 0, pageSel := 0,
    pc := 0, state := .idle, before := .idle, stepping := false, waitPort := none, pfx := .none, load := none,
    staging := none })

/-- THR_RESET: thread reset, and the RESET_DONE notice (R161). -/
def thrReset (t : Nat) (s : State) : State :=
  let words := [word (3 * 2 ^ 24 + t % 1024), (thread s t).pc.setWidth 32, 0, 0, spsNow s, 0, 0, 0]
  let s := resetThread s t
  if t < 1024 then postNotice s (noticeNib s t) words else s

/-- THR_UNPARK. -/
def thrUnpark (t : Nat) (s : State) : State :=
  if (thread s t).state = .parked then modThread s t (fun th => { (landed th) with state := .running }) else s

/-- THR_HALT: at an instruction boundary; a blocked thread keeps its place (R164). -/
def thrHalt (t : Nat) (s : State) : State :=
  match (thread s t).state with
  | .running => modThread s t (fun th => { th with state := .halted, before := .running, pfx := .none, load := none })
  | .blocked => modThread s t (fun th => { th with state := .halted, before := .blocked })
  | _ => s

/-- THR_RESUME. -/
def thrResume (t : Nat) (s : State) : State :=
  if (thread s t).state = .halted then modThread s t (fun th => { (landed th) with state := th.before, stepping := false }) else s

/-- THR_STEP: HALTED only; one instruction or iteration, then HALTED again. -/
def thrStep (t : Nat) (s : State) : State :=
  if (thread s t).state = .halted then modThread s t (fun th => { (landed th) with state := th.before, stepping := true }) else s

/-- THR_DISCARD_STAGE: HALTED only. -/
def thrDiscardStage (t : Nat) (s : State) : State :=
  match (thread s t).state, (thread s t).staging with
  | .halted, some (_, ws) => discardWords (modThread s t (fun th => { th with staging := none })) (nibOf t) ws.length
  | _, _ => s

/-- The register that DBG_SEL names, read. -/
def dbgRead (s : State) (t cls num : Nat) : Word :=
  match cls with
  | 0 => if num < 24 then wreg s t num else 0
  | 1 => sprRead s t num
  | 2 => (thread s t).pc.setWidth 32
  | _ => 0

/-- The register that DBG_SEL names, written. -/
def dbgWrite (s : State) (t cls num : Nat) (v : Word) : State :=
  match cls with
  | 0 => if num < 24 then setW s t num v else s
  | 1 => sprWrite s t num v
  | 2 => modThread s t (fun th => { th with pc := v.setWidth 16 })
  | _ => s

/-- DBG_DATA_ACCESS (R164): a HALTED thread only. -/
def dbgDataAccess (n : Nat) (write : Option Word) (s : State) : State :=
  let sel := reg s (Reg.DBG_SEL n)
  let i := bits sel 12 10
  let t := tidOf n i
  let ok := i < threadsOf n ∧ (thread s t).state = .halted
  match write with
  | none => respond s [if ok then (dbgRead s t (bits sel 9 8) (bits sel 7 0)).toNat else 0]
  | some v => if ok then dbgWrite s t (bits sel 9 8) (bits sel 7 0) v else refuseWrite s (Reg.nibPage n) 0x04 (Reg.DBG_DATA n)

/-! ## Timers, alarms, the phase port (R28–R30, R151) -/

/-- The timer of a thread. -/
def timer (s : State) (t i : Nat) : Timer := if i = 0 then (thread s t).tmr0 else (thread s t).tmr1
/-- Store a timer. -/
def setTimer (s : State) (t i : Nat) (v : Timer) : State :=
  modThread s t (fun th => if i = 0 then { th with tmr0 := v } else { th with tmr1 := v })

/-- The internal count of the `k`-th crossing tick from now: the first tick of a count that has not begun makes crossing
0 (R9, R151). -/
def dueTick (s : State) (k : Nat) : Nat := if s.phase.started then s.phase.count + k else k - 1

/-- TMR_SET: ports 0x0030 and 0x0031; 0 stops. -/
def tmrSetRow : Row := outSpec (fun p => p = 0x30 || p = 0x31) (fun t p v s =>
  some (setTimer s t (p - 0x30) (if bits v 23 0 = 0 then .off else .run (dueTick s (bits v 23 0)))))

/-- TMR_WAIT. -/
def tmrWaitRow : Row := inSpec (fun p => p = 0x30 || p = 0x31) (fun t p s =>
  match timer s t (p - 0x30) with
  | .off => .give s (.fail stEmpty)
  | .run _ => .block s
  | .expired sps => .give (setTimer s t (p - 0x30) .off) (.data sps))

/-- TIMER_EXPIRY: the k-th crossing tick has come. -/
def timerExpiry (t i : Nat) (s : State) : State :=
  match timer s t i with
  | .run due =>
    if s.phase.count < due ∨ ¬ s.phase.started then s
    else if blockedOn s t (0x30 + i) then deliverIn (setTimer s t i .off) t (.data (spsNow s))
    else setTimer s t i (.expired (spsNow s))
  | _ => s

/-- The owner of alarm `n`. -/
def alarmPid (s : State) (n : Nat) : Nat := fld s (Reg.PH_ALARM n) 29 26

/-- ALARM_WAIT: ports 0x0040 to 0x004F. -/
def alarmWaitRow : Row := inSpec (fun p => p / 16 = 4) (fun t p s =>
  if alarmPid s (p % 16) = tidPid s t then .block s else .give s (.fail stDenied))

/-- ALARM_FIRE (R28, R29, R35). -/
def alarmFire (n : Nat) (s : State) : State :=
  if ¬ s.phase.alarmsDue.contains n ∨ ¬ flag s (Reg.PH_ALARM n) 31 then s
  else
    let s := { s with phase := { s.phase with alarmsDue := s.phase.alarmsDue.filter (· ≠ n) } }
    let s := irq (setFlag s Reg.ALARM_STAT n true) Reg.phasePage 7
    let s := if flag s (Reg.PH_ALARM n) 30 then s else setFlag s (Reg.PH_ALARM n) 31 false
    (listedThreads s (fun t => blockedOn s t (0x40 + n) && tidPid s t = alarmPid s n)).foldl
      (fun s t => deliverIn s t (.data (spsNow s))) s

/-- The current phase has reached a target SPS (R30). -/
def targetReached (s : State) (target : Word) : Bool :=
  let d := (s.phase.now.orbit % 65536 + 65536 - bits target 31 16) % 65536
  (1 ≤ d && d ≤ 32767) || (d = 0 && bits target 15 0 ≤ s.phase.now.index)

/-- PHASE_PORT_OUT and PHASE_PORT_IN: port 0x0320. -/
def phaseOutRow : Row := outSpec (· = 0x320) (fun t _ v s => some (modThread s t (fun th => { th with target := some v })))
def phaseInRow : Row := inSpec (· = 0x320) (fun t _ s =>
  match (thread s t).target with
  | none => .give s (.plain (spsNow s))
  | some v => if targetReached s v then .give (modThread s t (fun th => { th with target := none })) (.plain (spsNow s)) else .block s)

/-- PHASE_TARGET_REACHED. -/
def phaseTargetReached (t : Nat) (s : State) : State :=
  match (thread s t).target with
  | none => s
  | some v =>
    if blockedOn s t 0x320 ∧ targetReached s v then
      deliverIn (modThread s t (fun th => { th with target := none })) t (.plain (spsNow s))
    else s

/-! ## Notices and the deadlock detector (R161–R163) -/

/-- NOTICE_DELIVER: the oldest notice of a Nib, once CH31 has room. -/
def noticeDeliver (n : Nat) (s : State) : State :=
  match (nib s n).notices with
  | [] => s
  | m :: r =>
    if chanRoom s n 31 ∨ (nib s n).fenced then chanPut (modNib s n (fun b => { b with notices := r })) n 31 m else s

/-- The threads of partition `p` that count for the detector: neither IDLE nor PARKED, on no fenced Nib (R163, R333). -/
def dlCand (s : State) (p : Nat) : List Nat :=
  listedThreads s (fun t => t < 1024 && tidPid s t = p && !(nib s (nibOf t)).fenced && (thread s t).state != .idle
    && (thread s t).state != .parked)

/-- Blocked on a channel, on a lock port. -/
def onChannel (s : State) (t : Nat) : Bool :=
  (thread s t).state = .blocked && (match waitsOn s t with | some (p, _) => p < 0x20 | none => false)
def onLock (s : State) (t : Nat) : Bool :=
  (thread s t).state = .blocked && (match waitsOn s t with | some (p, _) => p / 256 = 1 | none => false)

/-- A timer runs. -/
def timerRuns : Timer → Bool
  | .run _ => true
  | _ => false

/-- pending(p) of R163. -/
def dlPending (s : State) (p : Nat) : Bool :=
  (part s p).saving || (part s p).restoring.isSome || !(part s p).rxPend.isEmpty
  || (match s.copy with | some c => c.acc.p = p | none => false)
  || s.ctxs.any (fun e => nibPid s (e.1 / 32 * 8 + e.1 % 8) = p && (!e.2.queue.isEmpty || e.2.running.isSome))
  || s.compl.any (fun e => fdPid e.2 = p)
  || (listedThreads s (fun t => tidPid s t = p && t < 1024 && (timerRuns (thread s t).tmr0 || timerRuns (thread s t).tmr1))).length != 0
  || (List.range 16).any (fun n => flag s (Reg.PH_ALARM n) 31 && alarmPid s n = p)
  || s.dispatchQ.any (fun f => fdPid f = p)
  || (flag s (Reg.PW_RING_CFG p 2) 31 && fld s (Reg.PW_RING_PROD p 2) 15 0 != fld s (Reg.PW_RING_CONS p 2) 15 0)
  || s.ductus.ops.any (fun o => match o.place with | .list n => nibPid s n = p | _ => false)
  || s.sends.any (fun m => (nibPid s m.dest = p || tidPid s m.src = p) && chanRoom s m.dest m.ch)

/-- A DEADLOCK notice of partition `p`. -/
def isDeadlock (p : Nat) (m : List Word) : Bool := bits (m.headD 0) 31 24 = 2 && m.getD 6 0 = word p

/-- A DEADLOCK notice of partition `p` is unread: it waits at its source or in a CH31 (R163). -/
def dlUnread (s : State) (p : Nat) : Bool :=
  s.nibs.any (fun e => e.2.notices.any (isDeadlock p))
  || s.chans.any (fun e => e.1 % 32 = 31 && e.2.msgs.any (isDeadlock p))

/-- DEADLOCK_DETECT: the partition has been quiet for DL_CTL.window (R163). -/
def deadlockDetect (p : Nat) (s : State) : State :=
  match supervisorNib s p with
  | none => s
  | some n =>
    let c := dlCand s p
    if ¬ enField s (Reg.nibPage n) (Reg.DL_CTL n) 31 ∨ c.isEmpty ∨ ¬ c.all (fun t => onChannel s t || onLock s t) ∨ dlPending s p
      ∨ dlUnread s p then s
    else
      let t := 8 * n
      let words := [word (2 * 2 ^ 24 + t), word c.length, word (c.filter (onChannel s)).length, word (c.filter (onLock s)).length,
                    spsNow s, word (fld s (Reg.DL_CTL n) 23 0), word p, 0]
      let s := note (count (postNotice s n words) (Reg.DL_COUNT n)) (Reg.nibPage n) 0x01
      match waitsOn s t with
      | some (p, _) => deliverIn (leaveWaits s t) t (if p / 256 = 1 then .status stTimeout false else .fail stTimeout)
      | none => s

/-! ## The commands -/

/-- THR_START. -/
def execThrStart (t : Tid) (s : State) : Host.Outcome State Fault Refusal := .next (thrStart t s)
/-- THR_RESET. -/
def execThrReset (t : Tid) (s : State) : Host.Outcome State Fault Refusal := .next (thrReset t s)
/-- THR_UNPARK. -/
def execThrUnpark (t : Tid) (s : State) : Host.Outcome State Fault Refusal := .next (thrUnpark t s)
/-- THR_HALT. -/
def execThrHalt (t : Tid) (s : State) : Host.Outcome State Fault Refusal := .next (thrHalt t s)
/-- THR_RESUME. -/
def execThrResume (t : Tid) (s : State) : Host.Outcome State Fault Refusal := .next (thrResume t s)
/-- THR_STEP. -/
def execThrStep (t : Tid) (s : State) : Host.Outcome State Fault Refusal := .next (thrStep t s)
/-- THR_DISCARD_STAGE. -/
def execThrDiscardStage (t : Tid) (s : State) : Host.Outcome State Fault Refusal := .next (thrDiscardStage t s)
/-- PHASE_TARGET_REACHED. -/
def execPhaseTargetReached (t : Tid) (s : State) : Host.Outcome State Fault Refusal := .next (phaseTargetReached t s)
/-- THR_PARK. -/
def execThrPark (t : Tid) (s : State) : Host.Outcome State Fault Refusal := .next (parkThread s t)
/-- DBG_DATA_ACCESS. -/
def execDbgDataAccess (n : NibId) (write : Option Word) (s : State) : Host.Outcome State Fault Refusal :=
  .next (dbgDataAccess n write s)
/-- MESSAGE_DELIVER. -/
def execMessageDeliver (src : Tid) (dest : NibId) (ch : Fin 32) (s : State) : Host.Outcome State Fault Refusal :=
  .next (messageDeliver src dest ch s)
/-- LOCK_FORCE_RELEASE. -/
def execLockForceRelease (q : QuillId) (k : Fin 256) (s : State) : Host.Outcome State Fault Refusal :=
  .next (lockForceRelease q k s)
/-- TIMER_EXPIRY. -/
def execTimerExpiry (t : Tid) (i : Fin 2) (s : State) : Host.Outcome State Fault Refusal := .next (timerExpiry t i s)
/-- NOTICE_DELIVER. -/
def execNoticeDeliver (n : NibId) (s : State) : Host.Outcome State Fault Refusal := .next (noticeDeliver n s)
/-- DEADLOCK_DETECT. -/
def execDeadlockDetect (p : PartId) (s : State) : Host.Outcome State Fault Refusal := .next (deadlockDetect p s)
/-- ALARM_FIRE. -/
def execAlarmFire (n : Fin 16) (s : State) : Host.Outcome State Fault Refusal := .next (alarmFire n s)
/-- ALARM_WAIT. -/
def execAlarmWait (t : Tid) (w : Word) (s : State) : Host.Outcome State Fault Refusal := .next (issue alarmWaitRow t w s)
/-- PHASE_PORT_OUT. -/
def execPhasePortOut (t : Tid) (w : Word) (s : State) : Host.Outcome State Fault Refusal := .next (issue phaseOutRow t w s)
/-- PHASE_PORT_IN. -/
def execPhasePortIn (t : Tid) (w : Word) (s : State) : Host.Outcome State Fault Refusal := .next (issue phaseInRow t w s)
/-- CH_RECEIVE. -/
def execChReceive (t : Tid) (w : Word) (s : State) : Host.Outcome State Fault Refusal := .next (issue chReceiveRow t w s)
/-- RX_INFO. -/
def execRxInfo (t : Tid) (w : Word) (s : State) : Host.Outcome State Fault Refusal := .next (issue rxInfoRow t w s)
/-- RX_DROP. -/
def execRxDrop (t : Tid) (w : Word) (s : State) : Host.Outcome State Fault Refusal := .next (issue rxDropRow t w s)
/-- TX_DEST. -/
def execTxDest (t : Tid) (w : Word) (s : State) : Host.Outcome State Fault Refusal := .next (issue txDestRow t w s)
/-- TX_DATA. -/
def execTxData (t : Tid) (w : Word) (s : State) : Host.Outcome State Fault Refusal := .next (issue txDataRow t w s)
/-- TX_STAT. -/
def execTxStat (t : Tid) (w : Word) (s : State) : Host.Outcome State Fault Refusal := .next (issue txStatRow t w s)
/-- TX_ABORT. -/
def execTxAbort (t : Tid) (w : Word) (s : State) : Host.Outcome State Fault Refusal := .next (issue txAbortRow t w s)
/-- LK_ACQ. -/
def execLkAcq (t : Tid) (w : Word) (s : State) : Host.Outcome State Fault Refusal := .next (issue lkAcqRow t w s)
/-- LK_REL. -/
def execLkRel (t : Tid) (w : Word) (s : State) : Host.Outcome State Fault Refusal := .next (issue lkRelRow t w s)
/-- LK_TRY. -/
def execLkTry (t : Tid) (w : Word) (s : State) : Host.Outcome State Fault Refusal := .next (issue lkTryRow t w s)
/-- LK_TRY_RES. -/
def execLkTryRes (t : Tid) (w : Word) (s : State) : Host.Outcome State Fault Refusal := .next (issue lkTryResRow t w s)
/-- TMR_SET. -/
def execTmrSet (t : Tid) (w : Word) (s : State) : Host.Outcome State Fault Refusal := .next (issue tmrSetRow t w s)
/-- TMR_WAIT. -/
def execTmrWait (t : Tid) (w : Word) (s : State) : Host.Outcome State Fault Refusal := .next (issue tmrWaitRow t w s)

end Sys2Proof.Machine
end

