-- ==== Sys2Proof/Machine/Helpers.lean ====
section
/-! DEFINITION. The attached helpers SORTER, CLUSTER, HIST and HASH: the HLP instructions, the functions, completion and
HWAIT (R170–R187). -/

namespace Sys2Proof.Machine

/-! ## Context sets (R170–R173) -/

/-- The context set of Nib `n` of Quill `q` at the helper of type `ty`. -/
def ctx (s : State) (q ty n : Nat) : Ctx := Tbl.get (fun _ => {}) s.ctxs (32 * q + 8 * ty + n)
/-- Change a context set. -/
def modCtx (s : State) (q ty n : Nat) (f : Ctx → Ctx) : State :=
  { s with ctxs := Tbl.set (fun _ => {}) s.ctxs (32 * q + 8 * ty + n) (f (ctx s q ty n)) }

/-- Register H[i] of a copy. -/
def hReg (h : Tbl (BitVec 64)) (i : Nat) : BitVec 64 := Tbl.get (fun _ => 0) h i
/-- The status word (HP_CTX_STAT, R172). -/
def ctxStat (c : Ctx) : Word :=
  word (c.running.isSome.toNat * 2 ^ 31 + c.queue.length * 2 ^ 29 + c.last.1 * 2 ^ 16 + c.last.2.1 * 2 ^ 8 + c.last.2.2.toNat)
/-- Nothing runs and nothing is queued (R181). -/
def ctxIdle (c : Ctx) : Bool := c.running.isNone && c.queue.isEmpty
/-- Key lane `j` (R171). -/
def keyLane (h : Tbl (BitVec 64)) (j : Nat) : Nat := bits (hReg h (j / 4)) (16 * (j % 4) + 15) (16 * (j % 4))
/-- The low word of a register: a memory address. -/
def hAddr (h : Tbl (BitVec 64)) (i : Nat) : Nat := bits (hReg h i) 31 0
/-- The MID of a helper (R179). -/
def helperMid (q ty : Nat) : Nat := 0xC0 + 4 * q + ty

/-! ## HLP instructions (R172, R179, R182–R184) -/

/-- The helper type of an HLP word. -/
def hlpType (w : Word) : Nat := bits (word (wX w)) 7 6
/-- UD 0x04: the class is disabled at the thread's level, or the thread is the Steward's (R182). -/
def hlpEarly (s : State) (t : Nat) (w : Word) : Option (Nat × Nat) :=
  if 1024 ≤ t ∨ ¬ hlpClassOn s t (1 + hlpType w) then some (0, 4) else none

/-- The Quill of a thread, and the number of its Nib there. -/
def quillOf (t : Nat) : Nat := nibOf t / 8
def nibIn (t : Nat) : Nat := nibOf t % 8

/-- Half `k` of a register. -/
def halfOf (v : BitVec 64) (k : Nat) : Word := (v >>> (32 * k)).setWidth 32

/-- MTH. -/
def mthRow : Row where
  is := isFX 0x13 0x00
  fields := fun _ => .a
  clean := fun w => !bit w 5
  early := hlpEarly
  run := fun t w s =>
    let k := bits w 4 4
    .done (modCtx s (quillOf t) (hlpType w) (nibIn t) (fun c => { c with
      h := Tbl.set (fun _ => 0) c.h (bits w 3 0) (setBits (hReg c.h (bits w 3 0)) (32 * k + 31) (32 * k) (wreg s t (wA w)).toNat) }))

/-- MFH. -/
def mfhRow : Row where
  is := isFX 0x13 0x01
  fields := fun _ => .d
  clean := fun w => !bit w 5
  early := hlpEarly
  run := fun t w s =>
    .done (setW s t (wD w) (halfOf (hReg (ctx s (quillOf t) (hlpType w) (nibIn t)).h (bits w 3 0)) (bits w 4 4)))

/-- HSTAT. -/
def hstatRow : Row where
  is := isFX 0x13 0x03
  fields := fun _ => .d
  clean := fun w => bits w 5 0 = 0
  early := hlpEarly
  run := fun t w s => .done (setW s t (wD w) (ctxStat (ctx s (quillOf t) (hlpType w) (nibIn t))))

/-- Function codes that exist, by helper type (R175–R178). -/
def fnCount (ty : Nat) : Nat := match ty with
  | 0 => 5
  | 1 => 2
  | 2 => 5
  | _ => 3

/-- A HOP is refused: an unsupported code, or two operations queued (R183). -/
def hopRefused (s : State) (t : Nat) (w : Word) : Bool :=
  fnCount (hlpType w) ≤ bits w 4 0 || 2 ≤ (ctx s (quillOf t) (hlpType w) (nibIn t)).queue.length

/-- The UD causes of HOP. -/
def hopEarly (s : State) (t : Nat) (w : Word) : Option (Nat × Nat) :=
  match hlpEarly s t w with
  | some e => some e
  | none => if hopRefused s t w then some (0, 0xC) else none

/-- What a function reads and writes: D-space address and bytes read, address and words written, and the alignment. An
operation that will complete REFUSED names no range; CC4 and CC8 name room for 64 records (DEDUCED, log entry 29). -/
def fnRanges (ty fn : Nat) (p : Word) (h : Tbl (BitVec 64)) : (Nat × Nat) × (Nat × Nat) × Nat :=
  match ty, fn with
  | 0, 4 =>
    let n := bits p 6 0
    if n = 0 ∨ 64 < n then ((0, 0), (0, 0), 1) else ((hAddr h 0, 4 * n), (hAddr h 1, n), 4)
  | 1, _ =>
    let n := bits p 6 0
    if n = 0 ∨ 64 < n then ((0, 0), (0, 0), 1) else ((hAddr h 0, 8 * n), (hAddr h 1, 128), 4)
  | 2, 4 =>
    let m := bits p 20 10
    if m = 0 ∨ 1024 < bits p 9 0 + m then ((0, 0), (0, 0), 1) else ((0, 0), (hAddr h 0, m), 4)
  | 3, 2 =>
    let n := bits p 13 0
    if n = 0 ∨ 9216 < n then ((0, 0), (0, 0), 1) else ((hAddr h 0, n), (0, 0), 1)
  | _, _ => ((0, 0), (0, 0), 1)

/-- The addresses of `n` units of `size` from `a`. -/
def unitsFrom (a n size : Nat) : List Nat := (List.range n).map (fun i => (a + size * i) % 2 ^ 32)

/-- The first address of `l` that the thread may not access. -/
def firstDenied (s : State) (t : Nat) (write : Bool) (l : List Nat) : Option Nat := l.find? (fun a => (route s t a write).isNone)

/-- The trap of a HOP's ranges: ALIGN, then DACC, each at its first failing address (R179). -/
def rangeTrap (s : State) (t ra rn wa wn al : Nat) : Option Res :=
  if rn ≠ 0 ∧ ra % al ≠ 0 then some (.trap s 2 0 (word ra))
  else if wn ≠ 0 ∧ wa % al ≠ 0 then some (.trap s 2 0 (word wa))
  else match firstDenied s t false (unitsFrom ra rn 1) with
    | some a => some (.trap (noteDecode s t a 0) 3 0 (word a))
    | none => match firstDenied s t true (unitsFrom wa wn 4) with
      | some a => some (.trap (noteDecode s t a 1) 3 0 (word a))
      | none => none

/-- HOP: the operation is queued with a copy of the registers; d ← tag, the count of HOPs accepted with this one
(DEDUCED, log entry 30). A frozen helper accepts none yet (R386). -/
def hopRun (t : Nat) (w : Word) (s : State) : Res :=
  let q := quillOf t
  let ty := hlpType w
  let c := ctx s q ty (nibIn t)
  let p := wreg s t (wA w)
  let fn := bits w 4 0
  let ((ra, rn), (wa, wn), al) := fnRanges ty fn p c.h
  if ¬ starts s (Reg.helperPage q ty) then .hold
  else match rangeTrap s t ra rn wa wn al with
    | some r => r
    | none =>
      let tag := (c.tags + 1) % 256
      let op : HelperOp := { fn := fn, param := p, tag := tag, notify := bit w 5, tid := t, pid := tidPid s t,
                             epoch := partEpoch s (tidPid s t), h := c.h,
                             rds := (unitsFrom ra rn 1).map (fun a => (route s t a false).getD 0),
                             wrs := (unitsFrom wa wn 4).map (fun a => (route s t a true).getD 0) }
      let s := pcEvent (modCtx s q ty (nibIn t) (fun c => { c with queue := c.queue ++ [op], tags := tag })) t 0x14
      .done (setW s t (wD w) (word tag))

/-- HOP. -/
def hopRow : Row where
  is := isFX 0x13 0x02
  fields := fun _ => .da
  early := hopEarly
  run := hopRun

/-- The word traps UD 0x0C as this thread's HOP. -/
def hopTurnedAway (s : State) (t : Nat) (w : Word) : Bool :=
  hopRow.is w && canIssue s t && (takeInjection s (Reg.nibPage (nibOf t)) 0xFF).1.isNone
    && !(checkRead s (ispace (nibOf t) + instrPc s t) (nibMid (nibOf t)) 3).1 && earlyTrap hopRow s t w = some (0, 0xC)

/-- HOP, with what its refusal counts; its access type is that of a refused submission (R183, R187; DESIGN CHOICE, log
entry 177). -/
def hop (t : Nat) (w : Word) (s : State) : State :=
  let s' := if hopTurnedAway s t w then
      let q := quillOf t
      let ty := hlpType w
      qpcEvent (note (count s (Reg.HP_REFUSED q ty)) (Reg.helperPage q ty) 0x03 1 (nibMid (nibOf t))) q 0x4B
    else s
  issue hopRow t w s'

/-! ## Functions (R175–R178) -/

/-- A result without effect: a status other than OK. -/
def failed (st : Byte) : HelperResult := { status := st, r := 0, h := [], mem := [], bins := none }

/-- Put `x` before the first element that it must not follow. -/
def insertSorted (before : Nat → Nat → Bool) (x : Nat) : List Nat → List Nat
  | [] => [x]
  | y :: ys => if before x y then x :: y :: ys else y :: insertSorted before x ys
/-- A stable sort. -/
def sortBy (before : Nat → Nat → Bool) (l : List Nat) : List Nat := l.foldr (insertSorted before) []
/-- Ascending and descending order. -/
def ascending (l : List Nat) : List Nat := sortBy (fun a b => decide (a ≤ b)) l
def descending (l : List Nat) : List Nat := sortBy (fun a b => decide (b ≤ a)) l

/-- Keys 0 to n − 1 as register writes: only their lanes. -/
def writeKeys (l : List Nat) : List (Nat × BitVec 64 × BitVec 64) :=
  (List.range ((l.length + 3) / 4)).map (fun r =>
    let ks := (l.drop (4 * r)).take 4
    (r, BitVec.ofNat 64 (2 ^ (16 * ks.length) - 1), BitVec.ofNat 64 ((ks.zipIdx.map (fun k => k.1 * 2 ^ (16 * k.2))).sum)))

/-- Keys 0 to n − 1 of an operation. -/
def keysOf (o : HelperOp) (n : Nat) : List Nat := (List.range n).map (keyLane o.h)

/-- A SORTER function on n = P[6:0] keys. -/
def sortKeys (o : HelperOp) (f : List Nat → List Nat) : HelperResult :=
  let n := bits o.param 6 0
  if n = 0 ∨ 64 < n then failed stRefused
  else { failed stOk with r := word n, h := writeKeys (f (keysOf o n)) }

/-- SORTKI: bits [5:0] of key j are j. -/
def tagKeys (l : List Nat) : List Nat := l.zipIdx.map (fun k => k.1 / 64 * 64 + k.2)

/-- TOPK. -/
def topKeys (o : HelperOp) : HelperResult :=
  let n := bits o.param 6 0
  let k := bits o.param 14 8
  if k = 0 ∨ n < k ∨ 64 < n then failed stRefused
  else { failed stOk with r := word k, h := writeKeys ((descending (keysOf o n)).take k ++ List.replicate (n - k) 0) }

/-- The bytes at an operation's keys, as its thread reads them. -/
def helperBytes (s : State) (o : HelperOp) : List Byte := o.rds.map (seeByte s o.tid)

/-- The little-endian numbers of `size` bytes each. -/
def chunks (size n : Nat) (l : List Byte) : List Nat := (List.range n).map (fun i => leNat ((l.drop (size * i)).take size))

/-- MSORT. -/
def sortWords (o : HelperOp) (bs : List Byte) : HelperResult :=
  let n := bits o.param 6 0
  if n = 0 ∨ 64 < n then failed stRefused
  else { failed stOk with r := word n, mem := (ascending (chunks 4 n bs)).map word }

/-- Edge neighbours; edge and corner neighbours. -/
def near4 (a b : Nat × Nat) : Bool :=
  (a.1 = b.1 && (a.2 = b.2 + 1 || b.2 = a.2 + 1)) || (a.2 = b.2 && (a.1 = b.1 + 1 || b.1 = a.1 + 1))
def near8 (a b : Nat × Nat) : Bool := decide (a.1 ≤ b.1 + 1 ∧ b.1 ≤ a.1 + 1 ∧ a.2 ≤ b.2 + 1 ∧ b.2 ≤ a.2 + 1)

/-- Grow a component by its neighbours among the hits that are left, ring by ring. -/
def grow (adj : Nat × Nat → Nat × Nat → Bool) : Nat → List (Nat × Nat) → List (Nat × Nat) → List (Nat × Nat) × List (Nat × Nat)
  | 0, comp, rest => (comp, rest)
  | fuel + 1, comp, rest =>
    let new := rest.filter (fun c => comp.any (adj c))
    if new.isEmpty then (comp, rest) else grow adj fuel (comp ++ new) (rest.filter (fun c => !comp.any (adj c)))

/-- The components of the hits, which come in scan order, by their first hits. -/
def components (adj : Nat × Nat → Nat × Nat → Bool) : Nat → List (Nat × Nat) → List (List (Nat × Nat))
  | 0, _ => []
  | _, [] => []
  | fuel + 1, c :: cs => (grow adj cs.length [c] cs).1 :: components adj fuel (grow adj cs.length [c] cs).2

/-- The greatest of a list of numbers; 0 for none. -/
def greatest (l : List Nat) : Nat := l.foldl Nat.max 0

/-- The two words of a component's record. -/
def componentWords (k : List (Nat × Nat) × Nat) : List Word :=
  let rows := k.1.map Prod.fst
  let cols := k.1.map Prod.snd
  [word (least rows + greatest rows * 2 ^ 8 + least cols * 2 ^ 16 + greatest cols * 2 ^ 24),
   word (k.1.length + k.2 % 2 ^ 16 * 2 ^ 16)]

/-- The hits of a map in scan order. -/
def hitsOf (rows : List Nat) : List (Nat × Nat) :=
  rows.zipIdx.flatMap (fun r => (List.range 64).filterMap (fun c => if r.1.testBit c then some (r.2, c) else none))

/-- CC4 and CC8. -/
def cluster (adj : Nat × Nat → Nat × Nat → Bool) (o : HelperOp) (bs : List Byte) : HelperResult :=
  let n := bits o.param 6 0
  if n = 0 ∨ 64 < n then failed stRefused
  else
    let hits := hitsOf (chunks 8 n bs)
    let cs := components adj hits.length hits
    let all : BitVec 64 := BitVec.allOnes 64
    { status := if 64 < cs.length then stFull else stOk
      r := word cs.length
      h := [(2, all, BitVec.ofNat 64 cs.length), (3, all, BitVec.ofNat 64 (sat 64 cs.length))]
      mem := (cs.zipIdx.take 64).flatMap componentWords
      bins := none }

/-- A HIST bin. -/
def binOf (b : Tbl Word) (i : Nat) : Word := Tbl.get (fun _ => 0) b i
/-- Add to a bin, saturating. -/
def addBin (b : Tbl Word) (i k : Nat) : Tbl Word := Tbl.set (fun _ => 0) b i (word (sat 0xFFFFFFFF ((binOf b i).toNat + k)))

/-- ACC. -/
def histAcc (o : HelperOp) (b : Tbl Word) : HelperResult :=
  let n := bits o.param 6 0
  if n = 0 ∨ 64 < n then failed stRefused
  else { failed stOk with r := word n, bins := some ((keysOf o n).foldl (fun b k => addBin b (k % 1024) 1) b) }

/-- ACCW. -/
def histAccw (o : HelperOp) (b : Tbl Word) : HelperResult :=
  let n := bits o.param 5 0
  if n = 0 ∨ 32 < n then failed stRefused
  else { failed stOk with
    r := word n
    bins := some ((List.range n).foldl (fun b j => addBin b (keyLane o.h j % 1024) (keyLane o.h (j + 32))) b) }

/-- PEAK. -/
def histPeak (b : Tbl Word) : HelperResult :=
  let i := (argMin (fun k => 2 ^ 32 - (binOf b k).toNat) (List.range 1024)).getD 0
  let all : BitVec 64 := BitVec.allOnes 64
  { failed stOk with
    r := word i
    h := [(0, all, BitVec.ofNat 64 i), (1, all, (binOf b i).setWidth 64),
          (2, all, BitVec.ofNat 64 (sat (2 ^ 64 - 1) ((b.map (fun e => e.2.toNat)).sum)))] }

/-- DUMP. -/
def histDump (o : HelperOp) (b : Tbl Word) : HelperResult :=
  let f := bits o.param 9 0
  let m := bits o.param 20 10
  if m = 0 ∨ 1024 < f + m then failed stRefused
  else { failed stOk with r := word m, mem := (List.range m).map (fun i => binOf b (f + i)) }

/-- The key of a HASH operation: the pid is the thread's (R178). -/
def hashKey (s : State) (o : HelperOp) : Word := cbKey (tidPid s o.tid) (hAddr o.h 0)

/-- Both hashes as H1 or H2 shows them. -/
def hashWord (b : Nat × Nat) : BitVec 64 := BitVec.ofNat 64 (b.1 + b.2 * 2 ^ 32)

/-- H12. -/
def hash12 (s : State) (o : HelperOp) : HelperResult :=
  let x := hashKey s o
  let lanes : BitVec 64 := 0x0007FFFF0007FFFF
  { failed stOk with
    r := word (bucketsA s x).1
    h := [(1, lanes, hashWord (bucketsA s x)),
          if migrating s then (2, lanes, hashWord (bucketsB s x)) else (2, BitVec.allOnes 64, 0)] }

/-- LOOKUP. -/
def hashFind (s : State) (o : HelperOp) : HelperResult × State :=
  match cbLookup s (hashKey s o) with
  | (none, s) => (failed stEmpty, s)
  | (some i, s) =>
    let e := entry s i
    let all : BitVec 64 := BitVec.allOnes 64
    ({ failed stOk with r := word i, h := [(1, 0x1FFFFF, BitVec.ofNat 64 i), (4, all, e.w0), (5, all, e.w1), (6, all, e.w2), (7, all, e.w3)] }, s)

/-- CRC. -/
def hashBytes (o : HelperOp) (bs : List Byte) : HelperResult :=
  let n := bits o.param 13 0
  if n = 0 ∨ 9216 < n then failed stRefused
  else { failed stOk with r := crc32c bs, h := [(1, 0xFFFFFFFF, (crc32c bs).setWidth 64)] }

/-- Run a function on an operation. -/
def runFunction (s : State) (ty : Nat) (o : HelperOp) (b : Tbl Word) : HelperResult × State :=
  let bs := helperBytes s o
  match ty, o.fn with
  | 0, 0 => (sortKeys o ascending, s)
  | 0, 1 => (sortKeys o descending, s)
  | 0, 2 => (sortKeys o (fun l => ascending (tagKeys l)), s)
  | 0, 3 => (topKeys o, s)
  | 0, _ => (sortWords o bs, s)
  | 1, 0 => (cluster near4 o bs, s)
  | 1, _ => (cluster near8 o bs, s)
  | 2, 0 => ({ failed stOk with bins := some [] }, s)
  | 2, 1 => (histAcc o b, s)
  | 2, 2 => (histAccw o b, s)
  | 2, 3 => (histPeak b, s)
  | 2, _ => (histDump o b, s)
  | _, 0 => (hash12 s o, s)
  | _, 1 => hashFind s o
  | _, _ => (hashBytes o bs, s)

/-! ## Start and completion (R170, R174, R179, R180, R185) -/

/-- A context set may start: an operation is queued, and no completion message is held (R180). -/
def ctxReady (c : Ctx) : Bool := !c.queue.isEmpty && c.held.isNone && c.running.isNone

/-- The context set whose turn it is: round robin after the one served last (R170). -/
def helperTurn (s : State) (q ty : Nat) : Option Nat :=
  let last := Tbl.get (fun _ => 7) s.ctxServed (4 * q + ty)
  ((List.range 8).map (fun i => (last + 1 + i) % 8)).find? (fun n => ctxReady (ctx s q ty n))

/-- Some context set of the helper runs an operation. -/
def helperBusy (s : State) (q ty : Nat) : Bool := (List.range 8).any (fun n => (ctx s q ty n).running.isSome)

/-- A helper's access to units of `size` bytes at the keys: their bytes counted at its Quill and at the memory they reach
(R365), and one request for each DRAM line, under the helper's MID (R179, R258). -/
def helperTraffic (q ty size : Nat) (write : Bool) (l : List Nat) (s : State) : State :=
  l.foldl (fun s k =>
    let s := bwKey s k size write
    if (k % 64 < size ∨ some k = l.head?) ∧ dramRoom s k then dramRequest s k (helperMid q ty) write else s)
    (bw s (nibPort (8 * q)) (size * l.length))

/-- The words that an operation reads, checked: an uncorrectable one ends it with PARITY (R179). -/
def checkWords (q ty : Nat) : List Nat → Bool × State → Bool × State
  | [], r => r
  | k :: l, (bad, s) =>
    if bad then (true, s)
    else match checkRead s k (helperMid q ty) with
      | (true, s) => checkWords q ty l (true, note s (Reg.helperPage q ty) 0x01 0 (helperMid q ty))
      | (false, s) => checkWords q ty l (false, s)

/-- A word of the helper store met by an armed injection (R187, R337): uncorrectable or not. -/
def helperStore (s : State) (q ty : Nat) : Bool × State :=
  match takeInjection s (Reg.helperPage q ty) 0 with
  | (some 0, s) => (false, note s (Reg.helperPage q ty) 0x00 0xD (helperMid q ty))
  | (some _, s) => (true, note s (Reg.helperPage q ty) 0x01 0xD (helperMid q ty))
  | (none, s) => match takeInjection s (Reg.helperPage q ty) 1 with
    | (some 0, s) => (false, note s (Reg.helperPage q ty) 0x00 0xD (helperMid q ty))
    | (some _, s) => (true, note s (Reg.helperPage q ty) 0x01 0xD (helperMid q ty))
    | (none, s) => (false, s)

/-- The operation at the head of context set `n` starts, if it is of function `fn` and its turn has come: what it reads
it reads now, what it writes it writes when it completes. -/
def helperStart (q ty n fn : Nat) (s : State) : State :=
  let c := ctx s q ty n
  match c.queue with
  | [] => s
  | o :: rest =>
    if o.fn ≠ fn ∨ helperBusy s q ty ∨ helperTurn s q ty ≠ some n ∨ ¬ pageOn s (Reg.helperPage q ty) then s
    else
      let s := { s with ctxServed := Tbl.set (fun _ => 7) s.ctxServed (4 * q + ty) n }
      let s := helperTraffic q ty 1 false o.rds s
      let (bad, s) := checkWords q ty ((o.rds.filter (fun k => k % 8 = 0 || some k = o.rds.head?)).map (fun k => k - k % 8)) (helperStore s q ty)
      let (r, s) := if bad then (failed stParity, s) else runFunction s ty o c.bins
      modCtx s q ty n (fun c => { c with queue := rest, running := some (o, r) })

/-- The completion message (R180). -/
def completionMsg (ty n : Nat) (o : HelperOp) (r : HelperResult) : List Word :=
  [word (ty * 2 ^ 30 + o.fn * 2 ^ 20 + o.tag * 2 ^ 12 + n * 2 ^ 8 + r.status.toNat), r.r]

/-- Write the result registers. -/
def landRegs (h : Tbl (BitVec 64)) (l : List (Nat × BitVec 64 × BitVec 64)) : Tbl (BitVec 64) :=
  l.foldl (fun h e => Tbl.set (fun _ => 0) h e.1 ((hReg h e.1 &&& ~~~e.2.1) ||| (e.2.2 &&& e.2.1))) h

/-- Write the result words. -/
def landWords (s : State) (mid : Nat) : List Nat → List Word → State
  | k :: ks, v :: vs => landWords (storeBytes s k (leBytes 4 v.toNat) mid) mid ks vs
  | _, _ => s

/-- Clear a context set: H0 to H15, the queue and the status word (R185). -/
def clearCtx (c : Ctx) : Ctx := { c with h := [], queue := [], last := (0, 0, 0), clearAfter := false }

/-- HWAIT of every thread that waits for an idle context set ends (R181). -/
def wakeHwait (s : State) (q ty n : Nat) : State :=
  if ctxIdle (ctx s q ty n) then
    (listedThreads s (fun t => nibOf t = 8 * q + n && blockedOn s t (0x200 + ty))).foldl
      (fun s t => deliverIn s t (.plain (ctxStat (ctx s q ty n)))) s
  else s

/-- A completion message is written, or held when CH2 is full. -/
def sendCompletion (s : State) (q ty n : Nat) (m : List Word) : State :=
  if chanRoom s (8 * q + n) 2 ∨ (nib s (8 * q + n)).fenced then chanPut s (8 * q + n) 2 m
  else modCtx s q ty n (fun c => { c with held := some m })

/-- HELPER_COMPLETE: results land in one step; a completion of an old epoch, or of a fenced Nib, is discarded (R180, R185,
R333). -/
def helperComplete (q ty n : Nat) (s : State) : State :=
  let c := ctx s q ty n
  match c.running with
  | none => s
  | some (o, r) =>
    let stale := o.epoch ≠ partEpoch s o.pid
    let fenced := (nib s (8 * q + n)).fenced
    let s := qpcEvent (count s (Reg.HP_OPS q ty)) q (0x47 + ty)
    let s := if stale then note (count s (Reg.HP_STALE q ty)) (Reg.helperPage q ty) 0x02 5 (helperMid q ty)
      else if fenced then s else
        let s := modCtx s q ty n (fun c => { c with h := landRegs c.h r.h, last := (o.tag, o.fn, r.status), bins := r.bins.getD c.bins })
        landWords (helperTraffic q ty 4 true (o.wrs.take r.mem.length) s) (helperMid q ty) o.wrs r.mem
    let s := modCtx s q ty n (fun c =>
      let c := { c with running := none }
      if c.clearAfter then clearCtx c else c)
    let s := if o.notify ∧ ¬ stale then sendCompletion s q ty n (completionMsg ty n o r) else s
    wakeHwait s q ty n

/-- HELPER_MESSAGE_RELEASE. -/
def helperMessageRelease (q ty n : Nat) (s : State) : State :=
  match (ctx s q ty n).held with
  | none => s
  | some m =>
    if chanRoom s (8 * q + n) 2 ∨ (nib s (8 * q + n)).fenced then
      chanPut (modCtx s q ty n (fun c => { c with held := none })) (8 * q + n) 2 m
    else s

/-- Nib reset or partition reset of Nib `n`'s context sets: at once, or when the running operation has completed; a
partition reset clears the bins too (R177, R185). -/
def resetCtxs (s : State) (n : Nat) (bins : Bool) : State :=
  (List.range 4).foldl (fun s ty => modCtx s (n / 8) ty (n % 8) (fun c =>
    let c := if bins then { c with bins := [] } else c
    if c.running.isSome then { c with queue := [], clearAfter := true } else clearCtx c)) s

/-- HWAIT: ports 0x0200 to 0x0203. -/
def hwaitRow : Row := inSpec (fun p => p / 4 = 0x80) (fun t p s =>
  if 1024 ≤ t then .deny s
  else
    let c := ctx s (quillOf t) (p % 4) (nibIn t)
    if ctxIdle c then .give s (.plain (ctxStat c)) else .block s)

/-! ## The commands -/

/-- MTH. -/
def execMth (t : Tid) (w : Word) (s : State) : Host.Outcome State Fault Refusal := .next (issue mthRow t w s)
/-- MFH. -/
def execMfh (t : Tid) (w : Word) (s : State) : Host.Outcome State Fault Refusal := .next (issue mfhRow t w s)
/-- HOP. -/
def execHop (t : Tid) (w : Word) (s : State) : Host.Outcome State Fault Refusal := .next (hop t w s)
/-- HSTAT. -/
def execHstat (t : Tid) (w : Word) (s : State) : Host.Outcome State Fault Refusal := .next (issue hstatRow t w s)
/-- SORT. -/
def execSort (q : QuillId) (n : Fin 8) (s : State) : Host.Outcome State Fault Refusal := .next (helperStart q 0 n 0 s)
/-- SORTD. -/
def execSortd (q : QuillId) (n : Fin 8) (s : State) : Host.Outcome State Fault Refusal := .next (helperStart q 0 n 1 s)
/-- SORTKI. -/
def execSortki (q : QuillId) (n : Fin 8) (s : State) : Host.Outcome State Fault Refusal := .next (helperStart q 0 n 2 s)
/-- TOPK. -/
def execTopk (q : QuillId) (n : Fin 8) (s : State) : Host.Outcome State Fault Refusal := .next (helperStart q 0 n 3 s)
/-- MSORT. -/
def execMsort (q : QuillId) (n : Fin 8) (s : State) : Host.Outcome State Fault Refusal := .next (helperStart q 0 n 4 s)
/-- CC4. -/
def execCc4 (q : QuillId) (n : Fin 8) (s : State) : Host.Outcome State Fault Refusal := .next (helperStart q 1 n 0 s)
/-- CC8. -/
def execCc8 (q : QuillId) (n : Fin 8) (s : State) : Host.Outcome State Fault Refusal := .next (helperStart q 1 n 1 s)
/-- HIST_CLEAR. -/
def execHistClear (q : QuillId) (n : Fin 8) (s : State) : Host.Outcome State Fault Refusal := .next (helperStart q 2 n 0 s)
/-- ACC. -/
def execAcc (q : QuillId) (n : Fin 8) (s : State) : Host.Outcome State Fault Refusal := .next (helperStart q 2 n 1 s)
/-- ACCW. -/
def execAccw (q : QuillId) (n : Fin 8) (s : State) : Host.Outcome State Fault Refusal := .next (helperStart q 2 n 2 s)
/-- PEAK. -/
def execPeak (q : QuillId) (n : Fin 8) (s : State) : Host.Outcome State Fault Refusal := .next (helperStart q 2 n 3 s)
/-- DUMP. -/
def execDump (q : QuillId) (n : Fin 8) (s : State) : Host.Outcome State Fault Refusal := .next (helperStart q 2 n 4 s)
/-- H12. -/
def execH12 (q : QuillId) (n : Fin 8) (s : State) : Host.Outcome State Fault Refusal := .next (helperStart q 3 n 0 s)
/-- HASH_LOOKUP. -/
def execHashLookup (q : QuillId) (n : Fin 8) (s : State) : Host.Outcome State Fault Refusal := .next (helperStart q 3 n 1 s)
/-- HASH_CRC. -/
def execHashCrc (q : QuillId) (n : Fin 8) (s : State) : Host.Outcome State Fault Refusal := .next (helperStart q 3 n 2 s)
/-- HELPER_COMPLETE. -/
def execHelperComplete (q : QuillId) (ty : Fin 4) (n : Fin 8) (s : State) : Host.Outcome State Fault Refusal :=
  .next (helperComplete q ty n s)
/-- HELPER_MESSAGE_RELEASE. -/
def execHelperMessageRelease (q : QuillId) (ty : Fin 4) (n : Fin 8) (s : State) : Host.Outcome State Fault Refusal :=
  .next (helperMessageRelease q ty n s)
/-- HWAIT. -/
def execHwait (t : Tid) (w : Word) (s : State) : Host.Outcome State Fault Refusal := .next (issue hwaitRow t w s)

end Sys2Proof.Machine
end

