-- ==== Sys2Proof/Machine/Ductus.lean ====
section
/-! DEFINITION. The Ductus: template checks, readiness, delivery and stealing, the Ductus ports, closing and ending of
instances, spill rings and observables (R190–R210). -/

namespace Sys2Proof.Machine

/-! ## Template checks (R190) -/

/-- The valid edges of a node. -/
def nodeEdges (s : State) (t n : Nat) : List Nat := ((List.range 4).map (nodeEdge s t n)).filter edgeValid

/-- The nodes that can be reached from a list of nodes, in `fuel` steps. -/
def reach (s : State) (t : Nat) : Nat → List Nat → List Nat
  | 0, l => l
  | fuel + 1, l => reach s t fuel ((l ++ l.flatMap (fun n => (nodeEdges s t n).map edgeNode)).dedup)

/-- The first node of 0 to last that fails a check, with the reason. -/
def nodeFails (s : State) (t reason : Nat) (f : Nat → Bool) : Option (Nat × Nat) :=
  ((List.range (tplLast s t + 1)).find? f).map (fun n => (reason, n))

/-- A header check that fails is recorded for node 0 (DEDUCED, log entry 31). -/
def headFails (reason : Nat) (b : Bool) : Option (Nat × Nat) := if b then some (reason, 0) else none

/-- The checks of R190 in the order of their reasons: the reason and node of the first failure. -/
def tplCheck (s : State) (t : Nat) : Option (Nat × Nat) :=
  let last := tplLast s t
  let w := fun n => nodeWord s t n
  let h := tplWord s t
  let p := tplPid s t
  let finals := (List.range (last + 1)).filter (nodeFinal s t)
  let valid := (List.range 64).find? (fun n => xor (bit (w n 0) 31) (decide (n ≤ last)))
  (valid.map (fun n => (0x01, n)))
  |>.or (nodeFails s t 0x02 (fun n => 8 < nodeInputs s t n || 4 < nodeHint s t n))
  |>.or (nodeFails s t 0x03 (fun n => (nodeEdges s t n).any (fun e =>
      last < edgeNode e || nodeInputs s t (edgeNode e) ≤ edgeSlot e)))
  |>.or (nodeFails s t 0x04 (fun n => (reach s t 64 ((nodeEdges s t n).map edgeNode)).contains n))
  |>.or (if 1 < finals.length then some (0x05, finals.getD 1 0) else headFails 0x05 (finals.isEmpty && tplMask s t ≠ 0))
  |>.or (nodeFails s t 0x06 (fun n => nibPid s (nodeHome s t n) ≠ p))
  |>.or (headFails 0x06 (bit (h 0) 15 && nibPid s (bits (h 0) 14 8) ≠ p))
  |>.or (headFails 0x07 (4 < bits (h 1) 31 29 || bits (h 1) 28 27 = 3 || bits (h 1) 26 25 = 3
      || (bits (h 1) 31 29 = 2 && bits (h 2) 31 16 = 0) || (bits (h 1) 31 29 = 3 && 24 < bits (h 1) 4 0)))
  |>.or (headFails 0x08 (bits (h 0) 31 28 ≠ 0 || bits (h 0) 23 22 ≠ 0 || bits (h 0) 7 0 ≠ 0 || bits (h 1) 24 5 ≠ 0
      || bits (h 3) 15 0 ≠ 0))
  |>.or (nodeFails s t 0x08 (fun n => bits (w n 0) 1 0 ≠ 0 || bits (w n 3) 15 14 ≠ 0
      || (List.range 4).any (fun i => (nodeEdge s t n i >>> 11) % 16 ≠ 0 || (nodeEdge s t n i >>> 6) % 4 ≠ 0)))

/-- TEMPLATE_ENABLE: the check of a template starts. -/
def templateEnable (k : Nat) (s : State) : State :=
  if s.ductus.enabled.contains k ∨ s.ductus.checking.contains k ∨ ¬ dxTakes s then s
  else { s with ductus := { s.ductus with checking := s.ductus.checking ++ [k] } }

/-- TEMPLATE_CHECK_DONE: enabled, or the first failure recorded. -/
def templateCheckDone (k : Nat) (s : State) : State :=
  if ¬ s.ductus.checking.contains k then s
  else
    let s := { s with ductus := { s.ductus with checking := s.ductus.checking.filter (· ≠ k) } }
    match tplCheck s k with
    | none => setFlag { s with ductus := { s.ductus with enabled := s.ductus.enabled ++ [k] } } (Reg.DX_TPL_EN (k / 32)) (k % 32) true
    | some (reason, n) =>
      let s := if flag s Reg.DX_TPL_ERR 31 then s
        else setReg s Reg.DX_TPL_ERR (word (2 ^ 31 + k * 2 ^ 16 + n * 2 ^ 8 + reason))
      refuseWrite s Reg.ductusPage 0x02 (Reg.DX_TPL_EN (k / 32))

/-- TEMPLATE_DISABLE: no new instances; open ones run on (R191). -/
def templateDisable (k : Nat) (s : State) : State :=
  setFlag { s with ductus := { s.ductus with enabled := s.ductus.enabled.filter (· ≠ k),
                                             checking := s.ductus.checking.filter (· ≠ k) } }
    (Reg.DX_TPL_EN (k / 32)) (k % 32) false

/-! ## Readiness, closing, ending (R193–R198) -/

/-- The entry point and handle that DX_PULL returns: word 0 of the record (R201, R202). -/
def opWord (s : State) (o : Op) : Word :=
  match findInst s o.inst with
  | none => word (o.handle * 2 ^ 16)
  | some x => word (o.handle * 2 ^ 16 + bits (nodeWord s x.tpl o.node 0) 15 0)

/-- The record of an operation (R202). -/
def opRecord (s : State) (o : Op) : List Word :=
  match findInst s o.inst with
  | none => []
  | some x =>
    let toks := (List.range 8).flatMap (fun k => x.tokens.filter (fun q => q.node = o.node && q.slot = k))
    [opWord s o, spsOf x.ps, word (x.tpl * 2 ^ 24 + o.node * 2 ^ 18 + toks.length * 2 ^ 14 + nodeHint s x.tpl o.node * 2 ^ 11),
     word (bits (nodeWord s x.tpl o.node 3) 31 16 * 2 ^ 16 + x.num)] ++ toks.flatMap (·.words)

/-! ## Spill rings (R200) -/

/-- Memory key of place `i` of a partition's spill ring. -/
def spillKey (s : State) (p i : Nat) : Nat :=
  dramKey (fld s (Reg.DX_SPILL_BASE p) 25 0 * 0x1000 + 320 * (i % 2 ^ fld s (Reg.DX_SPILL_SIZE p) 4 0))

/-- Place of the head entry of a partition's ring. -/
def ringAt (s : State) (p : Nat) : Nat := Tbl.get (fun _ => 0) s.ductus.ringAt p

/-- The 80 words of an operation's ring entry: its record's header, then its tokens from word 16 on. What else the entry
holds the rules do not say: those words are free (log entry 181). -/
def spillWords (s : State) (o : Op) : List Word :=
  let r := opRecord s o
  let l := r.take 4 ++ (List.range 12).map (fun i => Config.freeWord (s.free + i)) ++ r.drop 4
  l ++ (List.range (80 - l.length)).map (fun i => Config.freeWord (s.free + 12 + i))

/-- An operation is written to the tail of its partition's ring, as MID 0x83. -/
def spillOp (s : State) (o : Op) (p : Nat) : State :=
  let bs := (spillWords s o).flatMap (fun w => leBytes 4 w.toNat)
  let s := engineWrite { s with free := s.free + 80 } (spillKey s p (ringAt s p + (dxRing s p).length)) bs 0x83
  let s := setDxRing (modOp s o.handle (fun o => { o with place := .ring p })) p (dxRing s p ++ [some o.handle])
  let d := (dxRing s p).length
  if fld s (Reg.DX_SPILL_MAX p) 22 0 < d then setFld s (Reg.DX_SPILL_MAX p) 22 0 d else s

/-- The head entry leaves a partition's ring. -/
def popRing (s : State) (p : Nat) : State :=
  let head := (ringAt s p + 1) % 2 ^ fld s (Reg.DX_SPILL_SIZE p) 4 0
  let s := setDxRing s p ((dxRing s p).drop 1)
  { s with ductus := { s.ductus with ringAt := Tbl.set (fun _ => 0) s.ductus.ringAt p head } }

/-- The tokens of an operation as its ring entry holds them. -/
def loadTokens (s : State) (o : Op) (bs : List Byte) : State :=
  modInst s o.inst (fun x => { x with tokens := x.tokens.map (fun k =>
    let i := (x.tokens.filter (fun q => q.node = o.node && q.slot < k.slot)).length
    if k.node = o.node then { k with words := (List.range 8).map (fun j => word (leNat (slice bs (64 + 32 * i + 4 * j) 4))) } else k) })

/-- Place a ready operation: the list of the Nib that last pulled its node, or of its home Nib, or the shortest list when
that Nib is fenced or has left the partition; else the partition's spill ring; else it is cancelled for a full ring, which
both counts of cancelled operations show (R198, R200, R333). A ring that is not enabled has no room (DEDUCED, log entries
13 and 77). -/
def placeOp (s : State) (o : Op) (t p : Nat) : State :=
  let want := (Tbl.get (fun _ => none) s.ductus.puller (64 * t + o.node)).getD (nodeHome s t o.node)
  let n := if (nib s want).fenced ∨ nibPid s want ≠ p then (argMin (fun m => (dxList s m).length) (liveNibs s p)).getD want else want
  if (dxList s n).length < 512 ∧ resident s p < fld s (Reg.DX_PLIM p) 16 0 then putOnList s o.handle n false
  else if enField s Reg.ductusPage (Reg.DX_SPILL_SIZE p) 31 ∧ (dxRing s p).length < 2 ^ fld s (Reg.DX_SPILL_SIZE p) 4 0 then spillOp s o p
  else cancelOp (note (count s (Reg.DX_PDROP p)) Reg.ductusPage 0x05) o

/-! ## Readiness -/

/-- OPERATION_READY: every input holds a token, the crossing count has reached b + not_before, the instance is open
(R197). The handle is one that is not in use (log entry 9); while none is free the operation waits. -/
def operationReady (i n : Nat) (s : State) : State :=
  match findInst s i with
  | none => s
  | some x =>
    if x.nodes.getD n .done ≠ .waiting ∨ instLate s x ∨ s.phase.count < x.b + nodeNotBefore s x.tpl n
      ∨ (x.tokens.filter (fun k => k.node = n)).length < nodeInputs s x.tpl n ∨ ¬ dxTakes s then s
    else match pick s 65536 (fun h => s.ductus.ops.any (fun o => o.handle = h)) with
      | (none, s) => s
      | (some h, s) =>
        let o : Op := { handle := h, inst := i, node := n, pid := x.pid, place := .held 0, readyAt := s.phase.count, aborted := false,
                        epoch := x.epoch }
        let s := modInst s i (fun x => setNode x n .ready)
        placeOp { s with ductus := { s.ductus with ops := s.ductus.ops ++ [o] } } o x.tpl x.pid

/-- INSTANCE_CLOSE: the deadline of an open instance has come (R194). -/
def instanceClose (i : Nat) (s : State) : State :=
  match findInst s i with
  | none => s
  | some x => if deadline s x.b ≤ s.phase.count ∧ ¬ x.closed then closeInst s i else s

/-- Every node has completed or been cancelled. -/
def instOver (x : Inst) : Bool := x.nodes.all (fun n => n = .done || n = .cancelled)

/-- The notice of an instance that ends: DONE when every node completed before the deadline, else CLOSED (R195). -/
def instNotice (x : Inst) : List Word :=
  let ty := if x.nodes.all (fun n => n = .done) ∧ ¬ x.closed then 1 else 2
  [word (x.tpl * 2 ^ 24 + ty * 2 ^ 16 + x.decided.toNat * 2 ^ 15 + x.num), word (sat 0xFFFF x.cancelled * 2 ^ 16 + x.ps.index)]

/-- INSTANCE_END: the record is freed and the notice sent, or held for room in CH1 (R193, R195). -/
def instanceEnd (i : Nat) (s : State) : State :=
  match findInst s i with
  | none => s
  | some x =>
    if ¬ instOver x then s
    else
      let s' := { s with ductus := { s.ductus with insts := s.ductus.insts.filter (fun y => y.num ≠ i) } }
      if ¬ bit (tplWord s x.tpl 0) 15 then s'
      else
        let n := bits (tplWord s x.tpl 0) 14 8
        if (nib s n).dxNotices.isEmpty ∧ (chanRoom s n 1 ∨ (nib s n).fenced) then chanPut s' n 1 (instNotice x)
        else modNib s' n (fun b => { b with dxNotices := b.dxNotices ++ [instNotice x] })

/-- DUCTUS_NOTICE_DELIVER: the oldest held notice, once CH1 has room. -/
def ductusNoticeDeliver (n : Nat) (s : State) : State :=
  match (nib s n).dxNotices with
  | [] => s
  | m :: r =>
    if chanRoom s n 1 ∨ (nib s n).fenced then chanPut (modNib s n (fun b => { b with dxNotices := r })) n 1 m else s

/-! ## Pulling and stealing (R199, R209, R210) -/

/-- A hint is met by Nib `n`: 0, or its helper in the Nib's Quill has nothing running or queued in any context set. -/
def hintMet (s : State) (n hint : Nat) : Bool :=
  hint = 0 || (List.range 8).all (fun i => ctxIdle (ctx s (n / 8) (hint - 1) i))

/-- The hint of the node of an operation. -/
def opHint (s : State) (h : Nat) : Nat :=
  match findOp s h with
  | none => 0
  | some o => match findInst s o.inst with
    | none => 0
    | some x => nodeHint s x.tpl o.node

/-- The deadline of an operation's instance has come: it is cancelled and never delivered (R194, R208). -/
def opLate (s : State) (h : Nat) : Bool :=
  match (findOp s h).bind (fun o => findInst s o.inst) with
  | none => true
  | some x => instLate s x

/-- The operations of a Nib's list that may be delivered, oldest first. -/
def liveList (s : State) (n : Nat) : List Nat := (dxList s n).filter (fun h => !opLate s h)

/-- The operation that a thread of Nib `n` takes: the oldest of its own list, else by stealing from the longest list of
the partition. The Steward belongs to no partition. -/
def pullFrom (s : State) (n : Nat) : Option Nat :=
  if n = 128 ∨ ¬ dxTakes s then none
  else match liveList s n with
    | h :: _ => some h
    | [] =>
      if ¬ enField s Reg.ductusPage Reg.DX_CTL 0 then none
      else match argMax (fun m => (liveList s m).length) (liveNibs s (nibPid s n)) with
        | none => none
        | some m => ((liveList s m).take 8).find? (fun h => hintMet s n (opHint s h)) |>.or (liveList s m).head?

/-- The bin of a waiting time in crossings (R209). -/
def waitBin (w : Nat) : Nat := if w = 0 then 0 else sat 15 (Nat.log2 w + 1)

/-- Add to a count of the Ductus tables, saturating at 32 bits. -/
def bump (t : Tbl Nat) (k : Nat) : Tbl Nat := Tbl.set (fun _ => 0) t k (sat 0xFFFFFFFF (Tbl.get (fun _ => 0) t k + 1))

/-- A token or the instance record of an operation read with an injected error: the operation is cancelled for an
uncorrectable one (R210, R337). -/
def dxCheck (s : State) : Bool × State :=
  match takeInjection s Reg.ductusPage 0 with
  | (some 0, s) => (false, note s Reg.ductusPage 0x00 0xD 0x83)
  | (some _, s) => (true, note s Reg.ductusPage 0x01 0xD 0x83)
  | (none, s) => match takeInjection s Reg.ductusPage 1 with
    | (some 0, s) => (false, note s Reg.ductusPage 0x00 0xD 0x83)
    | (some _, s) => (true, note s Reg.ductusPage 0x01 0xD 0x83)
    | (none, s) => (false, s)

/-- Operation `o` is delivered to thread `t`. -/
def takeOp (s : State) (t : Nat) (o : Op) : State :=
  let n := nibOf t
  let key := match findInst s o.inst with
    | some x => 64 * x.tpl + o.node
    | none => 0
  let s := modOp (unplace s o) o.handle (fun o => { o with place := .held t })
  let s := { s with ductus := { s.ductus with
    puller := Tbl.set (fun _ => none) s.ductus.puller key (some n)
    delivered := bump s.ductus.delivered n
    busyNibs := if s.ductus.busyNibs.contains n then s.ductus.busyNibs else s.ductus.busyNibs ++ [n]
    hist := bump s.ductus.hist (16 * n + waitBin (s.phase.count - o.readyAt)) } }
  pcEvent (modThread s t (fun th => { th with dxHeld := some o.handle, dxPos := 0 })) t 0x13

/-- Take an operation for thread `t`: its word, or nothing when none is ready or the one taken is cancelled. -/
def pullOp (s : State) (t : Nat) : Option Word × State :=
  match (pullFrom s (nibOf t)).bind (findOp s) with
  | none => (none, s)
  | some o => match dxCheck s with
    | (true, s) => (none, cancelOp s o)
    | (false, s) => (some (opWord s o), takeOp s t o)

/-- The operation that a thread holds. -/
def heldOp (s : State) (t : Nat) : Option Op := (thread s t).dxHeld.bind (findOp s)

/-- The operation belongs to a partition epoch that is over (R207). -/
def opStale (s : State) (o : Op) : Bool := o.epoch ≠ partEpoch s o.pid

/-- DONE of the held operation: its tokens are consumed and its handle is free (R203). -/
def completeOp (s : State) (t : Nat) : State :=
  match heldOp s t with
  | none => modThread s t (fun th => { th with dxHeld := none })
  | some o =>
    let s := modThread s t (fun th => { th with dxHeld := none, dxPos := 0 })
    let stale := opStale s o
    let s := dropOp s o
    if stale then s
    else modInst s o.inst (fun x => { setNode x o.node .done with tokens := x.tokens.filter (fun k => k.node ≠ o.node) })

/-- DX_PULL: any held operation completes; then the thread takes one, or waits behind those that wait already. -/
def dxPullRow : Row := whileOk dxTakes (inSpec (· = 0x300) (fun t _ s =>
  let s := completeOp s t
  let n := nibOf t
  if ¬ (nib s n).pullers.isEmpty then .block (modNib s n (fun b => { b with pullers := b.pullers ++ [t] }))
  else match pullOp s t with
    | (some v, s) => .give s (.plain v)
    | (none, s) => .block (modNib s n (fun b => { b with pullers := b.pullers ++ [t] }))))

/-- DX_DELIVER: the thread of Nib `n` that blocked first gets an operation. -/
def dxDeliver (n : Nat) (s : State) : State :=
  match (nib s n).pullers with
  | [] => s
  | t :: r => match pullOp s t with
    | (none, s) => s
    | (some v, s) => deliverIn (modNib s n (fun b => { b with pullers := r })) t (.plain v)

/-! ## Ductus ports (R201–R206) -/

/-- DX_OPREAD. -/
def dxOpreadRow : Row := whileOk dxTakes (inSpec (· = 0x301) (fun t _ s =>
  match heldOp s t with
  | none => .give s (.fail stEmpty)
  | some o => match (opRecord s o)[(thread s t).dxPos]? with
    | none => .give s (.fail stEmpty)
    | some v => .give (modThread s t (fun th => { th with dxPos := th.dxPos + 1 })) (.data v)))

/-- DX_TGT. -/
def dxTgtRow : Row := whileOk dxTakes (outSpec (· = 0x302) (fun t _ v s =>
  some (modThread s t (fun th => { th with dxTgt := some v, dxData := [] }))))

/-- DX_TSPS. -/
def dxTspsRow : Row := whileOk dxTakes (outSpec (· = 0x303) (fun t _ v s => some (modThread s t (fun th => { th with dxTsps := v }))))

/-- The thread may act on template `k`: its own partition's; the Steward acts for every partition (DEDUCED, log entry
32). -/
def ownTemplate (s : State) (t k : Nat) : Bool := 1024 ≤ t || tplPid s k = tidPid s t

/-- The internal count of an SPS, as the thread means it. -/
def spsCount (s : State) (w : Word) : Int := countAt s (ageOf s 16 (bits w 31 16) (bits w 15 0))

/-- The two leading words of a token and its payload (R196). -/
def tokenWords (tpl node slot src : Nat) (ext : Bool) (sps : Word) (data : List Word) : List Word :=
  [word (tpl * 2 ^ 24 + node * 2 ^ 18 + slot * 2 ^ 15 + ext.toNat * 2 ^ 14 + src * 2 ^ 8), sps] ++ data

/-- An external token. For an instance that does not exist it is LATE from the deadline on and REFUSED before (DEDUCED,
log entry 33). -/
def putExternal (s : State) (t : Nat) (v : Word) (data : List Word) : State × Byte :=
  let k := bits v 30 23
  let c := spsCount s (thread s t).dxTsps
  if ¬ ownTemplate s t k then (s, stDenied)
  else match s.ductus.insts.find? (fun x => x.tpl = k && (x.b : Int) = c) with
    | none => (s, if c + lat s - guard s ≤ s.phase.count then stLate else stRefused)
    | some x => putToken s x.num (bits v 22 17) (bits v 16 14)
        (tokenWords k (bits v 22 17) (bits v 16 14) 0x3F true (spsOf x.ps) data)

/-- One token of an emit: an edge that is not valid is REFUSED (DEDUCED, log entry 34). -/
def emitEdge (x : Inst) (node : Nat) (data : List Word) (r : State × Byte) (e : Nat) : State × Byte :=
  let (s, st) := if edgeValid e then putToken r.1 x.num (edgeNode e) (edgeSlot e)
      (tokenWords x.tpl (edgeNode e) (edgeSlot e) node false (spsOf x.ps) data) else (r.1, stRefused)
  (s, if r.2 = stOk then st else r.2)

/-- An emit by the held operation: to one edge or to all valid ones, with the first status other than OK (R203). -/
def emitTokens (s : State) (t : Nat) (v : Word) (data : List Word) : State × Byte :=
  match heldOp s t with
  | none => (s, stRefused)
  | some o =>
    if opStale s o then (s, stStale)
    else if o.aborted then (s, stCancelled)
    else match findInst s o.inst with
      | none => (s, stRefused)
      | some x =>
        if instLate s x then (s, stLate)
        else
          let es := if bit v 2 then nodeEdges s x.tpl o.node else [nodeEdge s x.tpl o.node (bits v 1 0)]
          es.foldl (emitEdge x o.node data) (s, stOk)

/-- Store a status for DX_STAT. -/
def dxStatus (s : State) (t : Nat) (st : Byte) : State := modThread s t (fun th => { th with dxStat := st })

/-- DX_TDATA: the sixth payload word commits; without a token started it is REFUSED. -/
def dxTdataRow : Row := whileOk dxTakes (outSpec (· = 0x304) (fun t _ v s =>
  let data := (thread s t).dxData ++ [v]
  if data.length < 6 then some (modThread s t (fun th => { th with dxData := data }))
  else
    let s := modThread s t (fun th => { th with dxData := [] })
    let (s, st) : State × Byte := match (thread s t).dxTgt with
      | none => (s, stRefused)
      | some v => if bit v 31 then putExternal s t v data else emitTokens s t v data
    some (dxStatus s t st)))

/-- DX_STAT. -/
def dxStatRow : Row := whileOk dxTakes (inSpec (· = 0x305) (fun t _ s =>
  .give s (.status (thread s t).dxStat ((thread s t).dxStat = stOk))))

/-- DX_DONE: without a held operation it is REFUSED (DEDUCED, log entry 34); an old epoch's is STALE_EPOCH (R207). -/
def dxDoneRow : Row := whileOk dxTakes (outSpec (· = 0x306) (fun t _ _ s =>
  let st := match heldOp s t with
    | none => stRefused
    | some o => if opStale s o then stStale else stOk
  some (dxStatus (completeOp s t) t st)))

/-- The decision slot of an instance's crossing is closed. -/
def slotClosed (s : State) (x : Inst) : Bool :=
  match findDecision s x.pid x.b with
  | some d => d.closed
  | none => true

/-- DECIDE (R204): one after the close is discarded and marks the record late while it is unreleased (R215, R216); one
that meets the close, from the tick of the deadline until the slot closes, is LATE and marks nothing (R208, R232). -/
def decideWord (s : State) (t : Nat) (v : Word) : State × Byte :=
  match heldOp s t with
  | none => (s, stRefused)
  | some o =>
    if opStale s o then (s, stStale)
    else if o.aborted then (s, stCancelled)
    else match findInst s o.inst with
      | none => (s, stRefused)
      | some x =>
        if ¬ nodeFinal s x.tpl o.node then (s, stRefused)
        else if slotClosed s x then (modDecision s x.pid x.b (fun d => { d with late := true }), stLate)
        else if instLate s x then (s, stLate)
        else if x.decided then (s, stAlready)
        else
          let s := modInst s x.num (fun x => { x with decided := true })
          (modDecision s x.pid x.b (fun d => { d with
            bits := d.bits ||| BitVec.ofNat 16 (bits v 15 0 &&& tplMask s x.tpl)
            qs := d.qs || bit v 16
            decided := d.decided + 1 }), stOk)

/-- DX_DECIDE. -/
def dxDecideRow : Row := whileOk dxTakes (outSpec (· = 0x307) (fun t _ v s =>
  let (s, st) := decideWord s t v
  some (dxStatus s t st)))

/-- START (R192, R205). A crossing whose partition does not admit gets no instance: REFUSED (DEDUCED, log entry 35). -/
def startInst (s : State) (t k : Nat) : State × Byte :=
  let c := spsCount s (thread s t).dxTsps
  if ¬ ownTemplate s t k then (s, stDenied)
  else if ¬ s.ductus.enabled.contains k ∨ ¬ dxEnabled s ∨ (s.phase.count : Int) < c ∨ ¬ s.phase.started then (s, stRefused)
  else if c + lat s - guard s ≤ s.phase.count then (s, stLate)
  else if s.ductus.insts.any (fun x => x.tpl = k && (x.b : Int) = c) then (s, stAlready)
  else if c < 0 ∨ partState s (tplPid s k) ≠ 3 ∨ ¬ admits s (tplPid s k) then (s, stRefused)
  else createInst s k c.toNat (psOfSps s (thread s t).dxTsps)

/-- DX_START. -/
def dxStartRow : Row := whileOk dxTakes (outSpec (· = 0x308) (fun t _ v s =>
  let (s, st) := startInst s t (bits v 7 0)
  some (dxStatus s t st)))

/-- ABORT (R206). -/
def abortOp (s : State) (t h : Nat) : State × Byte :=
  match findOp s h with
  | none => (s, stAlready)
  | some o => match findInst s o.inst with
    | none => (s, stAlready)
    | some x =>
      if t < 1024 ∧ x.pid ≠ tidPid s t then (s, stDenied)
      else match o.place with
        | .held _ => (modOp s h (fun o => { o with aborted := true }), stOk)
        | _ => (cancelOp s o, stOk)

/-- DX_ABORT. -/
def dxAbortRow : Row := whileOk dxTakes (outSpec (· = 0x309) (fun t _ v s =>
  let (s, st) := abortOp s t (bits v 15 0)
  some (dxStatus s t st)))

/-- A Nib is fenced: its list and the operations that its threads hold go to the head of the longest other list of the
partition (R207). One whose deadline has passed, or of an old epoch, is not made ready but cancelled (R194, R208); with no
other live Nib the operations wait on the Nib's own list, where the partition's fault cancels them. -/
def requeueNib (s : State) (n : Nat) : State :=
  let p := nibPid s n
  let held := s.ductus.ops.filter (fun o => match o.place with | .held t => t < 1024 && nibOf t = n | _ => false)
  let moved := dxList s n ++ held.map (·.handle)
  let s := { s with threads := s.threads.map (fun e => if nibOf e.1 = n then (e.1, { e.2 with dxHeld := none }) else e) }
  let m := (argMax (fun m => (dxList s m).length) ((liveNibs s p).filter (· ≠ n))).getD n
  moved.reverse.foldl (fun s h =>
    match findOp s h with
    | none => s
    | some o =>
      if opLate s h ∨ opStale s o then cancelOp (modOp s h (fun o => { o with place := .list n })) { o with place := .list n }
      else putOnList s h m true) (setDxList s n [])

/-! ## Spill rings and observables (R200, R209) -/

/-- Device DRAM bytes [a, a + n) lie in one DRAM region of partition `p`; in interleave mode any below the decode limit do
(R200, R243, R261). -/
def inRegionOf (s : State) (p a n : Nat) : Bool :=
  if imode s then decide (a + n ≤ imodeLimit s)
  else (List.range 16).any (fun r => drValid s r && drRegionPid s r = p && decide (drBase s r ≤ a ∧ a + n ≤ drBase s r + drSize s r))

/-- An injected error meets a ring entry that is read (R337). -/
def ringCheck (s : State) : Bool × State :=
  match takeInjection s Reg.ductusPage 6 with
  | (some 0, s) => (false, note s Reg.ductusPage 0x00 8 0x83)
  | (some _, s) => (true, note s Reg.ductusPage 0x06 8 0x83)
  | (none, s) => (false, s)

/-- The Ductus reads the head entry of a ring as MID 0x83: whether a word is uncorrectable (source 0x06), and its bytes
(R200, R210). -/
def ringEntry (s : State) (p : Nat) : Bool × List Byte × State :=
  let (bad, bs, s) := engineRead s (spillKey s p (ringAt s p)) 320 0x83
  if bad then (true, bs, note s Reg.ductusPage 0x06 0 0x83)
  else
    let (inj, s) := ringCheck s
    (inj, bs, s)

/-- SPILL_REFILL: the head entry moves to the shortest list below DX_CTL.refill; an entry whose operation is cancelled is
discarded. -/
def spillRefill (p : Nat) (s : State) : State :=
  let low := (liveNibs s p).filter (fun m => (dxList s m).length < fld s Reg.DX_CTL 25 16)
  match dxRing s p, argMin (fun m => (dxList s m).length) low with
  | e :: _, some m =>
    if ¬ dxTakes s then s
    else match e.bind (findOp s) with
      | none => popRing s p
      | some o =>
        if opLate s o.handle then popRing (cancelOp s o) p
        else match ringEntry s p with
          | (true, _, s) => popRing (cancelOp s o) p
          | (false, bs, s) => putOnList (loadTokens (popRing s p) o bs) o.handle m false
  | _, _ => s

/-- The fields of DX_SPILL_SIZE. -/
def spillSizeMask : Word := 0x8000001F

/-- SPILL_RING_ENABLE: a write of DX_SPILL_SIZE. An enable is refused for a ring misplaced or of an unsupported size. -/
def spillRingEnable (p : Nat) (v : Word) (s : State) : State :=
  let n := bits v 4 0
  if bit v 31 ∧ (n < 12 ∨ 22 < n ∨ ¬ inRegionOf s p (fld s (Reg.DX_SPILL_BASE p) 25 0 * 0x1000) (320 * 2 ^ n)) then s
  else setReg s (Reg.DX_SPILL_SIZE p) (v &&& spillSizeMask)

/-- DX_SPILL_MAX_CLEAR. -/
def dxSpillMaxClear (p : Nat) (v : Word) (s : State) : State :=
  if bit v 0 then setFld s (Reg.DX_SPILL_MAX p) 22 0 (dxRing s p).length else s

/-- The Nibs whose threads hold an operation. -/
def holdingNibs (s : State) : List Nat :=
  (s.ductus.ops.filterMap (fun o => match o.place with | .held t => some (nibOf t) | _ => none)).dedup

/-- DX_LOAD_WINDOW_END: DX_LOAD_WIN crossings after its begin the observables of the window are published and a new one
starts. How many FCLK a Nib with operations was busy time decides: that is free (log entry 22). -/
def dxLoadWindowEnd (s : State) : State :=
  if s.phase.count < s.ductus.winFrom + fld s Reg.DX_LOAD_WIN 15 0 then s
  else { s with free := s.free + 128, ductus := { s.ductus with
      winFrom := s.phase.count
      busyNibs := holdingNibs s
      busyLast := s.ductus.busyNibs.foldl (fun m n => Tbl.set (fun _ => 0) m n (Config.freeWord (s.free + n))) []
      deliveredLast := s.ductus.delivered
      delivered := []
      depthMaxLast := s.ductus.depthMax
      depthMax := s.ductus.lists.foldl (fun m e => Tbl.set (fun _ => 0) m e.1 e.2.length) [] } }

/-! ## The commands -/

/-- TEMPLATE_ENABLE. -/
def execTemplateEnable (k : Fin 256) (s : State) : Host.Outcome State Fault Refusal := .next (templateEnable k s)
/-- TEMPLATE_CHECK_DONE. -/
def execTemplateCheckDone (k : Fin 256) (s : State) : Host.Outcome State Fault Refusal := .next (templateCheckDone k s)
/-- TEMPLATE_DISABLE. -/
def execTemplateDisable (k : Fin 256) (s : State) : Host.Outcome State Fault Refusal := .next (templateDisable k s)
/-- OPERATION_READY. -/
def execOperationReady (inst : Fin 32768) (node : Fin 64) (s : State) : Host.Outcome State Fault Refusal := .next (operationReady inst node s)
/-- INSTANCE_CLOSE. -/
def execInstanceClose (inst : Fin 32768) (s : State) : Host.Outcome State Fault Refusal := .next (instanceClose inst s)
/-- INSTANCE_END. -/
def execInstanceEnd (inst : Fin 32768) (s : State) : Host.Outcome State Fault Refusal := .next (instanceEnd inst s)
/-- DUCTUS_NOTICE_DELIVER. -/
def execDuctusNoticeDeliver (n : NibId) (s : State) : Host.Outcome State Fault Refusal := .next (ductusNoticeDeliver n s)
/-- DX_PULL. -/
def execDxPull (t : Tid) (w : Word) (s : State) : Host.Outcome State Fault Refusal := .next (issue dxPullRow t w s)
/-- DX_DELIVER. -/
def execDxDeliver (n : NibId) (s : State) : Host.Outcome State Fault Refusal := .next (dxDeliver n s)
/-- DX_OPREAD. -/
def execDxOpread (t : Tid) (w : Word) (s : State) : Host.Outcome State Fault Refusal := .next (issue dxOpreadRow t w s)
/-- DX_TGT. -/
def execDxTgt (t : Tid) (w : Word) (s : State) : Host.Outcome State Fault Refusal := .next (issue dxTgtRow t w s)
/-- DX_TSPS. -/
def execDxTsps (t : Tid) (w : Word) (s : State) : Host.Outcome State Fault Refusal := .next (issue dxTspsRow t w s)
/-- DX_TDATA. -/
def execDxTdata (t : Tid) (w : Word) (s : State) : Host.Outcome State Fault Refusal := .next (issue dxTdataRow t w s)
/-- DX_STAT. -/
def execDxStat (t : Tid) (w : Word) (s : State) : Host.Outcome State Fault Refusal := .next (issue dxStatRow t w s)
/-- DX_DONE. -/
def execDxDone (t : Tid) (w : Word) (s : State) : Host.Outcome State Fault Refusal := .next (issue dxDoneRow t w s)
/-- DX_DECIDE. -/
def execDxDecide (t : Tid) (w : Word) (s : State) : Host.Outcome State Fault Refusal := .next (issue dxDecideRow t w s)
/-- DX_START. -/
def execDxStart (t : Tid) (w : Word) (s : State) : Host.Outcome State Fault Refusal := .next (issue dxStartRow t w s)
/-- DX_ABORT. -/
def execDxAbort (t : Tid) (w : Word) (s : State) : Host.Outcome State Fault Refusal := .next (issue dxAbortRow t w s)
/-- SPILL_REFILL. -/
def execSpillRefill (p : PartId) (s : State) : Host.Outcome State Fault Refusal := .next (spillRefill p s)
/-- SPILL_RING_ENABLE. -/
def execSpillRingEnable (p : PartId) (v : Word) (s : State) : Host.Outcome State Fault Refusal := .next (spillRingEnable p v s)
/-- DX_SPILL_MAX_CLEAR. -/
def execDxSpillMaxClear (p : PartId) (v : Word) (s : State) : Host.Outcome State Fault Refusal := .next (dxSpillMaxClear p v s)
/-- DX_LOAD_WINDOW_END. -/
def execDxLoadWindowEnd (s : State) : Host.Outcome State Fault Refusal := .next (dxLoadWindowEnd s)

end Sys2Proof.Machine
end

