-- ==== Sys2Proof/Machine/Inkwell.lean ====
section
/-! DEFINITION. The Inkwell's ports and host slots, and the DRAM pool's ring: refill, spill, enabling and disabling
(R242–R251, R414). -/

namespace Sys2Proof.Machine

/-- The Inkwell takes requests (R386). -/
def iwTakes (s : State) : Bool := starts s Reg.inkwellPage

/-! ## Thread ports (R249) -/

/-- An ALLOC by a thread: the BH, or the status. The Steward's threads allocate for partition 0, which their PID reads
(DEDUCED, log entry 36). -/
def allocRow (port : Nat) (d : Bool) : Row := whileOk iwTakes (inSpec (· = port) (fun t _ s =>
  match iwAlloc s d (nibMid (nibOf t)) (tidPid s t) (some t) with
  | (0x00, bh, s) => .give s (.data bh)
  | (st, _, s) => .give s (.fail st)))

/-- Keep the status of a FREE, SHARE or RELEASE for IW_STAT. -/
def iwDone (t : Nat) (r : Byte × State) : State := modThread r.2 t (fun th => { th with iwStat := r.1, iwQuery := none })

/-- IW_ARG, with its bit 31 a QUERY is to follow: the next OUT to IW_ARG carries the BH. -/
def iwArgRow : Row := whileOk (fun s => iwTakes s) (outSpec (· = 0x312) (fun t _ v s =>
  some (modThread s t (fun th => { th with iwArg := v }))))

/-- The last OUT on IW_ARG announced a QUERY. -/
def queryNext (s : State) (t : Nat) : Bool := bit (thread s t).iwArg 31

/-- The OUT on IW_ARG that carries the BH of a QUERY. -/
def iwQueryRow : Row := whileOk iwTakes (outSpec (· = 0x312) (fun t _ v s =>
  let (st, s) := iwQueryCmd s v (nibMid (nibOf t)) (tidPid s t)
  some (modThread s t (fun th => { th with
    iwArg := setBit th.iwArg 31 false
    iwStat := st
    iwQuery := if st = stOk then some (bufWord (buf s v)) else none }))))

/-- IW_FREE, IW_SHARE, IW_RELEASE. -/
def iwFreeRow : Row := whileOk iwTakes (outSpec (· = 0x313) (fun t _ v s =>
  some (iwDone t (iwFreeCmd s v (nibMid (nibOf t)) (tidPid s t)))))
def iwShareRow : Row := whileOk iwTakes (outSpec (· = 0x314) (fun t _ v s =>
  let a := (thread s t).iwArg
  some (iwDone t (iwShareCmd s v (nibMid (nibOf t)) (tidPid s t) (bits a 7 0) (bits a 15 8)))))
def iwReleaseRow : Row := whileOk iwTakes (outSpec (· = 0x315) (fun t _ v s =>
  some (iwDone t (iwReleaseCmd s v (nibMid (nibOf t)) (tidPid s t)))))

/-- IW_STAT: every command has been resolved by the time it is read. -/
def iwStatRow : Row := inSpec (· = 0x316) (fun t _ s =>
  let th := thread s t
  match th.iwQuery with
  | some w => .give s (.data w)
  | none => .give s (.status th.iwStat (th.iwStat = stOk)))

/-! ## Host slots (R244, R249) -/

/-- The requester MID of slot `p`. -/
def slotMid (p : Nat) (steward : Bool) : Nat := if steward then 0x80 else 0x90 + p

/-- The result of a slot's command. -/
def slotResult (s : State) (p : Nat) (st : Byte) : State := setFld s (Reg.IW_HRESULT p) 7 0 st.toNat

/-- ALLOC_S and ALLOC_D by a slot; new submissions of a partition that is RESETTING are REFUSED (R280). -/
def slotAlloc (d : Bool) (p : Nat) (steward : Bool) (s : State) : State :=
  if ¬ iwTakes s then s
  else if partState s p = 6 then slotResult s p stRefused
  else match iwAlloc s d (slotMid p steward) p none with
    | (0x00, bh, s) => slotResult (setReg s (Reg.IW_HARG p) bh) p stOk
    | (st, _, s) => slotResult s p st

/-- A command on the BH in HARG that returns only a status. -/
def slotCmd (f : State → Word → Nat → Nat → Byte × State) (p : Nat) (steward : Bool) (s : State) : State :=
  if ¬ iwTakes s then s
  else if partState s p = 6 then slotResult s p stRefused
  else
    let r := f s (reg s (Reg.IW_HARG p)) (slotMid p steward) p
    slotResult r.2 p r.1

/-- SHARE with the n and new owner of HRESULT. -/
def slotShare (s : State) (bh : Word) (mid p : Nat) : Byte × State :=
  iwShareCmd s bh mid p (fld s (Reg.IW_HRESULT p) 23 16) (fld s (Reg.IW_HRESULT p) 15 8)

/-- QUERY: HARG gets the state word. -/
def slotQuery (s : State) (bh : Word) (mid p : Nat) : Byte × State :=
  match iwQueryCmd s bh mid p with
  | (0x00, s) => (stOk, setReg s (Reg.IW_HARG p) (bufWord (buf s bh)))
  | (st, s) => (st, s)

/-- Ops 6 and 7. -/
def slotReserved (p : Nat) (s : State) : State := if iwTakes s then slotResult s p stRefused else s

/-! ## The DRAM pool (R242, R243) -/

/-- Free buffers of the DRAM pool (IW_DFREE) and of the SRAM pool (IW_SFREE). -/
def dFree (s : State) : Nat := s.ink.dStack.length + s.ink.rLen
def sFree (s : State) : Nat := s.ink.sStack.length + (16384 - s.ink.sFresh)

/-- The pool is enabled and filled. -/
def dReady (s : State) : Bool := enField s Reg.inkwellPage Reg.IW_DCFG 31 && flag s Reg.IW_DCFG 30

/-- Memory key of ring place `i`, which wraps at the buffer count. -/
def ringKey (s : State) (i : Nat) : Nat := dramKey (fld s Reg.IW_DRING_BASE 25 0 * 0x1000 + 4 * (i % fld s Reg.IW_DCFG 20 0))

/-- The Inkwell's accesses to `n` ring places from `i`: one run of words, or two where the ring wraps. -/
def ringAccess (s : State) (i n : Nat) (write : Bool) : State :=
  let count := fld s Reg.IW_DCFG 20 0
  let first := min n (count - i % count)
  let s := engineAccess s (ringKey s i) (4 * first) 0x86 write
  if first < n then engineAccess s (ringKey s 0) (4 * (n - first)) 0x86 write else s

/-- A DRAM error of a refill or spill (R251). -/
def ringError (s : State) (acc : Nat) : State := note s Reg.inkwellPage 0x04 acc 0x86

/-- An injection on source 0x04 meets a refill or spill: whether its first word is uncorrectable (R337). -/
def ringInjected (s : State) : Bool × State :=
  match takeInjection s Reg.inkwellPage 4 with
  | (some 0, s) => (false, note s Reg.inkwellPage 0x00 8 0x86)
  | (some _, s) => (true, ringError s 8)
  | (none, s) => (false, s)

/-- Read `n` entries from the ring's head: the good ones, the first read first. An entry on an uncorrectable word is lost;
`bad` says that the first one is. -/
def ringRead : Nat → Bool → State → List Nat × State
  | 0, _, s => ([], s)
  | n + 1, bad, s =>
    let k := ringKey s s.ink.rHead
    let (b, s) := checkRange s k 4 0x86
    let i := (rdWord s k).toNat
    let s := { s with ink := { s.ink with rHead := (s.ink.rHead + 1) % fld s Reg.IW_DCFG 20 0, rLen := s.ink.rLen - 1 } }
    if bad then ringRead n false (inkLost s 8)
    else if b then ringRead n false (inkLost (ringError s 0) 0)
    else
      let (l, s) := ringRead n false s
      (i :: l, s)

/-- Write entries behind the ring's tail, in order. -/
def ringWrite : List Nat → State → State
  | [], s => s
  | i :: l, s =>
    let s := wrWord s (ringKey s (s.ink.rHead + s.ink.rLen)) (word i)
    ringWrite l { s with ink := { s.ink with rLen := s.ink.rLen + 1 } }

/-- IW_REFILL: 64 entries from the ring's head go below the stack's. -/
def iwRefill (s : State) : State :=
  if ¬ dReady s ∨ ¬ iwTakes s ∨ fld s Reg.IW_DCACHE 7 0 ≤ s.ink.dStack.length ∨ s.ink.rLen = 0 then s
  else
    let n := min 64 s.ink.rLen
    let (bad, s) := ringInjected s
    let (l, s) := ringRead n bad (ringAccess s s.ink.rHead n false)
    { s with ink := { s.ink with dStack := s.ink.dStack ++ l } }

/-- IW_SPILL: the 64 oldest entries of the stack go to the ring's tail, the oldest first. -/
def iwSpill (s : State) : State :=
  if ¬ dReady s ∨ ¬ iwTakes s ∨ s.ink.dStack.length ≤ fld s Reg.IW_DCACHE 15 8 then s
  else
    let (_, s) := ringInjected s
    let keep := s.ink.dStack.length - 64
    let l := (s.ink.dStack.drop keep).reverse
    ringWrite l (ringAccess { s with ink := { s.ink with dStack := s.ink.dStack.take keep } } (s.ink.rHead + s.ink.rLen) l.length true)

/-- The placement and thresholds of the DRAM pool allow it to be enabled with `n` buffers. -/
def dcfgOk (s : State) (n : Nat) : Bool :=
  n ≤ 1048576 && decide (fld s Reg.IW_DCACHE 7 0 + 64 ≤ fld s Reg.IW_DCACHE 15 8)
    && inRegionOf s 0 (fld s Reg.IW_DBUF_BASE 23 0 * 0x4000) (0x4000 * n)
    && inRegionOf s 0 (fld s Reg.IW_DRING_BASE 25 0 * 0x1000) (4 * n)
    && inRegionOf s 0 (fld s Reg.IW_DSTATE_BASE 25 0 * 0x1000) (8 * n)

/-- IW_DCFG_ENABLE: a write of IW_DCFG with en 1. The fill starts and the states are clear. -/
def iwDcfgEnable (v : Word) (s : State) : State :=
  let n := bits v 20 0
  if flag s Reg.IW_DCFG 31 then
    if n = fld s Reg.IW_DCFG 20 0 then s else refuseWrite s Reg.inkwellPage 0x03 Reg.IW_DCFG
  else if ¬ dcfgOk s n then refuseWrite s Reg.inkwellPage 0x03 Reg.IW_DCFG
  else
    let s := engineWrite s (stateKey s 0) (List.replicate (8 * n) 0) 0x86
    { setReg s Reg.IW_DCFG (word (2 ^ 31 + n)) with ink := { s.ink with dStack := [], rHead := 0, rLen := 0, filling := true } }

/-- IW_FILL_DONE: the ring holds the indexes 0 to count − 1. -/
def iwFillDone (s : State) : State :=
  if ¬ s.ink.filling then s
  else
    let s := setFlag { s with ink := { s.ink with filling := false, rHead := 0, rLen := 0 } } Reg.IW_DCFG 30 true
    ringWrite (List.range (fld s Reg.IW_DCFG 20 0)) (ringAccess s 0 (fld s Reg.IW_DCFG 20 0) true)

/-- IW_DCFG_DISABLE: a write of IW_DCFG with en 0, refused unless every buffer is free. -/
def iwDcfgDisable (s : State) : State :=
  if dFree s ≠ fld s Reg.IW_DCFG 20 0 then refuseWrite s Reg.inkwellPage 0x03 Reg.IW_DCFG
  else { setFld s Reg.IW_DCFG 31 30 0 with ink := { s.ink with dStack := [], rHead := 0, rLen := 0, filling := false } }

/-! ## The commands -/

/-- IW_ALLOC_S. -/
def execIwAllocS (r : Sum (Tid × Word) (PartId × Bool)) (s : State) : Host.Outcome State Fault Refusal :=
  match r with
  | .inl (t, w) => .next (issue (allocRow 0x310 false) t w s)
  | .inr (p, stw) => .next (slotAlloc false p stw s)
/-- IW_ALLOC_D. -/
def execIwAllocD (r : Sum (Tid × Word) (PartId × Bool)) (s : State) : Host.Outcome State Fault Refusal :=
  match r with
  | .inl (t, w) => .next (issue (allocRow 0x311 true) t w s)
  | .inr (p, stw) => .next (slotAlloc true p stw s)
/-- IW_ARG: while the BH of a QUERY is awaited, the OUT is IW_QUERY's. -/
def execIwArg (t : Tid) (w : Word) (s : State) : Host.Outcome State Fault Refusal :=
  .next (issue (whileOk (fun s => !queryNext s t) iwArgRow) t w s)
/-- IW_FREE. -/
def execIwFree (r : Sum (Tid × Word) (PartId × Bool)) (s : State) : Host.Outcome State Fault Refusal :=
  match r with
  | .inl (t, w) => .next (issue iwFreeRow t w s)
  | .inr (p, stw) => .next (slotCmd iwFreeCmd p stw s)
/-- IW_SHARE. -/
def execIwShare (r : Sum (Tid × Word) (PartId × Bool)) (s : State) : Host.Outcome State Fault Refusal :=
  match r with
  | .inl (t, w) => .next (issue iwShareRow t w s)
  | .inr (p, stw) => .next (slotCmd slotShare p stw s)
/-- IW_RELEASE. -/
def execIwRelease (r : Sum (Tid × Word) (PartId × Bool)) (s : State) : Host.Outcome State Fault Refusal :=
  match r with
  | .inl (t, w) => .next (issue iwReleaseRow t w s)
  | .inr (p, stw) => .next (slotCmd iwReleaseCmd p stw s)
/-- IW_QUERY. -/
def execIwQuery (r : Sum (Tid × Word) (PartId × Bool)) (s : State) : Host.Outcome State Fault Refusal :=
  match r with
  | .inl (t, w) => .next (issue (whileOk (fun s => queryNext s t) iwQueryRow) t w s)
  | .inr (p, stw) => .next (slotCmd slotQuery p stw s)
/-- IW_STAT. -/
def execIwStat (t : Tid) (w : Word) (s : State) : Host.Outcome State Fault Refusal := .next (issue iwStatRow t w s)
/-- IW_HCMD_RESERVED. -/
def execIwHcmdReserved (p : PartId) (s : State) : Host.Outcome State Fault Refusal := .next (slotReserved p s)
/-- IW_REFILL. -/
def execIwRefill (s : State) : Host.Outcome State Fault Refusal := .next (iwRefill s)
/-- IW_SPILL. -/
def execIwSpill (s : State) : Host.Outcome State Fault Refusal := .next (iwSpill s)
/-- IW_DCFG_ENABLE. -/
def execIwDcfgEnable (v : Word) (s : State) : Host.Outcome State Fault Refusal := .next (iwDcfgEnable v s)
/-- IW_FILL_DONE. -/
def execIwFillDone (s : State) : Host.Outcome State Fault Refusal := .next (iwFillDone s)
/-- IW_DCFG_DISABLE. -/
def execIwDcfgDisable (s : State) : Host.Outcome State Fault Refusal := .next (iwDcfgDisable s)

end Sys2Proof.Machine
end

