-- ==== Sys2Proof/Machine/Ddr.lean ====
section
/-! DEFINITION. The DRAM controllers: configuration, training, refresh, scheduling, scrubbing, regions, loss of a rank
and its remap (R252–R265). -/

namespace Sys2Proof.Machine

/-- DDR_STAT.state: 0 OFF, 1 TRAINING, 2 READY, 3 FAILED. -/
def ddrState (s : State) (c : Nat) : Nat := fld s (Reg.DDR_STAT c) 1 0
def setDdrState (s : State) (c v : Nat) : State := setFld s (Reg.DDR_STAT c) 1 0 v
/-- DDR_CTL.en, 0 while the page is disabled. -/
def ddrEn (s : State) (c : Nat) : Bool := enField s (Reg.ddrPage c) (Reg.DDR_CTL c) 0
/-- The channel begins work of its own: READY, enabled, and the page may begin an operation. -/
def ddrServes (s : State) (c : Nat) : Bool := ddrState s c = 2 && ddrEn s c && starts s (Reg.ddrPage c)
/-- The channel works on what it has accepted: READY, its domain on (R386). -/
def ddrWorks (s : State) (c : Nat) : Bool := ddrState s c = 2 && pageOn s (Reg.ddrPage c)
/-- A configuration write of channel `c` is refused: source 0x06. -/
def ddrRefuse (s : State) (c a : Nat) : State := refuseWrite s (Reg.ddrPage c) 0x06 a

/-! ## Training (R252–R254) -/

/-- DDR_ENABLE: a write of DDR_CTL.en 1. -/
def ddrEnable (c : Nat) (s : State) : State :=
  if geomOk (reg s (Reg.DDR_GEOM c)) then setFlag s (Reg.DDR_CTL c) 0 true else ddrRefuse s c (Reg.DDR_CTL c)

/-- A full training starts. -/
def trainStart (c : Nat) (s : State) : State :=
  modDdr (setFlag (setDdrState s c 1) (Reg.DDR_STAT c) 10 false) c (fun d => { d with restoring := false })

/-- DDR_TRAIN. -/
def ddrTrain (c : Nat) (s : State) : State := if ddrEn s c then trainStart c s else ddrRefuse s c (Reg.DDR_CTL c)

/-- CRC-32C over training words 0 to 254 and DDR_GEOM (R254). -/
def trainCrc (s : State) (c : Nat) : Word :=
  crc32c ((List.range 255).flatMap (fun w => leBytes 4 (reg s (Reg.trainWord c w)).toNat) ++ leBytes 4 (reg s (Reg.DDR_GEOM c)).toNat)

/-- The settings that a training finds are its own: free words, closed by their CRC. -/
def trainWords (s : State) (c : Nat) : State :=
  let s := (List.range 255).foldl (fun s w =>
    let (v, s) := fresh s
    setReg s (Reg.trainWord c w) v) s
  setReg s (Reg.trainWord c 255) (trainCrc s c)

/-- DDR_TRAIN_DONE: `step` is the failing step, 0 when every step passed. -/
def ddrTrainDone (c step : Nat) (s : State) : State :=
  if ddrState s c ≠ 1 ∨ (ddr s c).restoring then s
  else
    let s := if step = 0 then setDdrState (trainWords s c) c 2
      else note (setDdrState s c 3) (Reg.ddrPage c) 0x03 (addr := step)
    irq s (Reg.ddrPage c) 0

/-- A restore is rejected: source 0x07 and a full training at once. -/
def restoreRejected (c : Nat) (s : State) : State := trainStart c (note s (Reg.ddrPage c) 0x07)

/-- DDR_RESTORE. -/
def ddrRestore (c : Nat) (s : State) : State :=
  if ¬ ddrEn s c then ddrRefuse s c (Reg.DDR_CTL c)
  else if reg s (Reg.trainWord c 255) = trainCrc s c then
    modDdr (trainStart c s) c (fun d => { d with restoring := true })
  else restoreRejected c s

/-- DDR_RESTORE_DONE. -/
def ddrRestoreDone (c : Nat) (pass : Bool) (s : State) : State :=
  if ddrState s c ≠ 1 ∨ ¬ (ddr s c).restoring then s
  else if pass then
    let s := modDdr s c (fun d => { d with restoring := false })
    irq (setFlag (setDdrState s c 2) (Reg.DDR_STAT c) 10 true) (Reg.ddrPage c) 0
  else restoreRejected c s

/-! ## Rows and banks (R260) -/

/-- The bank of an offset, by 64 × subchannel + 32 × rank + 4 × bank group + bank. -/
def bankKey (s : State) (c : Nat) (r : DramReq) : Nat :=
  let (b, g, _) := bankRow s c r.order r.off
  64 * subOf r.off + 32 * rankOf s c r.off + 4 * g + b

/-- The bank and row that a request needs open. -/
def needs (s : State) (c : Nat) (r : DramReq) : Nat × Nat := (bankKey s c r, (bankRow s c r.order r.off).2.2)

/-- A request hits an open row. -/
def rowHit (s : State) (c : Nat) (r : DramReq) : Bool := (ddr s c).openRows.contains (needs s c r)

/-- Every request of a channel. -/
def chanReqs (s : State) (c : Nat) : List DramReq := (ddr s c).reqs0 ++ (ddr s c).reqs1

/-- The requests of a rank. -/
def rankReqs (s : State) (c k : Nat) : List DramReq := (chanReqs s c).filter (fun r => rankOf s c r.off = k)

/-- Close open rows. -/
def closeRows (s : State) (c : Nat) (f : Nat → Bool) : State :=
  modDdr s c (fun d => { d with openRows := d.openRows.filter (fun e => !f e.1) })

/-- A bank key is of rank `k`. -/
def keyRank (key k : Nat) : Bool := key / 32 % 2 = k

/-! ## Refresh, temperature, power-down (R255, R258) -/

def postponed (d : Ddr) (k : Nat) : Nat := if k = 0 then d.postponed0 else d.postponed1
def setPostponed (s : State) (c k n : Nat) : State :=
  modDdr s c (fun d => if k = 0 then { d with postponed0 := n } else { d with postponed1 := n })
def setPowerDown (s : State) (c k : Nat) (b : Bool) : State :=
  modDdr s c (fun d => if k = 0 then { d with powerDown0 := b } else { d with powerDown1 := b })

/-- A rank's refresh is issued: it leaves power-down and its rows close. Same-bank refresh covers one bank of all bank
groups, and the rule does not say which: it is free. -/
def refreshNow (s : State) (c k : Nat) : State :=
  let s := setPowerDown (setPostponed s c k 0) c k false
  let s := emit s (.refresh c k)
  if flag s (Reg.DDR_CTL c) 3 then
    let (v, s) := fresh s
    closeRows s c (fun key => keyRank key k && decide (key % 4 = bits v 1 0))
  else closeRows s c (fun key => keyRank key k)

/-- DDR_REFRESH: the refresh interval of a rank expires. -/
def ddrRefresh (c k : Nat) (s : State) : State :=
  if ¬ ddrServes s c ∨ fld s (Reg.DDR_GEOM c) 9 8 ≤ k then s
  else if (rankReqs s c k).any (rowHit s c) ∧ postponed (ddr s c) k < 4 then setPostponed s c k (postponed (ddr s c) k + 1)
  else refreshNow s c k

/-- DDR_TEMP_POLL: above 85 °C the refresh interval halves. -/
def ddrTempPoll (c : Nat) (celsius : Int) (s : State) : State :=
  if ddrServes s c then modDdr s c (fun d => { d with hot := decide (85 < celsius) }) else s

/-- DDR_POWER_DOWN: an idle rank enters precharge power-down; a request wins (R264). -/
def ddrPowerDown (c k : Nat) (s : State) : State :=
  if ddrServes s c ∧ fld s (Reg.DDR_SCHED c) 15 0 ≠ 0 ∧ k < fld s (Reg.DDR_GEOM c) 9 8 ∧ rankReqs s c k = [] then
    closeRows (setPowerDown s c k true) c (fun key => keyRank key k)
  else s

/-! ## Scheduling (R258) -/

/-- The rank whose refresh has been postponed four times. -/
def refreshDue (s : State) (c : Nat) : Option Nat := (List.range 2).find? (fun k => postponed (ddr s c) k = 4)

/-- Store the requests of a subchannel. -/
def setSubReqs (s : State) (c sub : Nat) (l : List DramReq) : State :=
  modDdr s c (fun d => if sub = 0 then { d with reqs0 := l } else { d with reqs1 := l })

/-- The index of the request that a subchannel selects: the oldest if it has waited longer than age_max, which time
decides and is free here (log entry 39); else the oldest row hit; else the oldest. -/
def selectRequest (s : State) (c : Nat) (l : List DramReq) (aged : Bool) : Nat :=
  if aged then 0 else match l.findIdx? (rowHit s c) with
    | some i => i
    | none => 0

/-- Issue request `i` of a subchannel. -/
def issueRequest (s : State) (c sub i : Nat) : State :=
  let l := subReqs s c sub
  match l[i]? with
  | none => s
  | some r =>
    let s := setPowerDown (setSubReqs s c sub (l.eraseIdx i)) c (rankOf s c r.off) false
    let (key, row) := needs s c r
    let s := modDdr s c (fun d => { d with
      openRows := (key, row) :: d.openRows.filter (fun e => e.1 ≠ key)
      parityTries := 0 })
    emit s (.dramCmd c sub r)

/-- CA_PARITY_ERROR: two retries, each counted and recorded; a third error persists, and the rank is to be lost (R262). -/
def caParityError (c k : Nat) (s : State) (access : Nat := 5) : State :=
  if ¬ ddrWorks s c ∨ ¬ flag s (Reg.DDR_GEOM c) 12 ∨ fld s (Reg.DDR_GEOM c) 9 8 ≤ k then s
  else if (ddr s c).parityTries < 2 then
    let s := modDdr s c (fun d => { d with parityTries := d.parityTries + 1 })
    note (count s (Reg.DDR_CAPAR c)) (Reg.ddrPage c) 0x02 access
  else modDdr s c (fun d => if k = 0 then { d with bad0 := 4, parityTries := 0 } else { d with bad1 := 4, parityTries := 0 })

/-- DDR_COMMAND_ISSUE; an armed injection of source 0x02 meets the parity check of the command (R337). -/
def ddrCommandIssue (c sub : Nat) (s : State) : State :=
  if ¬ ddrWorks s c then s
  else match refreshDue s c with
    | some k => refreshNow s c k
    | none =>
      let (v, s) := fresh s
      let i := selectRequest s c (subReqs s c sub) (bit v 0)
      match (subReqs s c sub)[i]?, flag s (Reg.DDR_GEOM c) 12 with
      | some r, true => match takeInjection s (Reg.ddrPage c) 2 with
        | (some _, s) => caParityError c (rankOf s c r.off) s 0xD
        | (none, s) => issueRequest s c sub i
      | _, _ => issueRequest s c sub i

/-! ## Scrubbing and parity (R256, R257) -/

/-- The memory key of the kept byte at a channel offset. -/
def keptKey (c off : Nat) : Nat := dramBase + c * 2 ^ 37 + off

/-- The kept word at a channel offset reads as uncorrectable. -/
def keptBad (s : State) (c off : Nat) : Bool :=
  rankLost s c (rankOf s c off) || xor (Tbl.get (fun _ => false) s.badWords (keptKey c off / 8)) (inPoison s (keptKey c off))

/-- A 64-byte line holds an uncorrectable word. -/
def lineBad (s : State) (c off : Nat) : Bool := (List.range 16).any (fun i => keptBad s c (off + 4 * i))

/-- What a scrub read finds: 0 a clean line, 1 a corrected word, 2 an uncorrectable word; an injection armed on the page
meets it first. -/
def scrubFinds (s : State) (c off errs : Nat) : Nat × Nat × State :=
  if lineBad s c off then (2, 5, s)
  else match takeInjection s (Reg.ddrPage c) 0 with
    | (some 0, s) => (1, 8, s)
    | (some _, s) => (2, 8, s)
    | (none, s) => match takeInjection s (Reg.ddrPage c) 1 with
      | (some 0, s) => (1, 8, s)
      | (some _, s) => (2, 8, s)
      | (none, s) => (errs, 5, s)

/-- A word of the line has lost more bits than its code corrects: which one is free. -/
def spoilWord (s : State) (c off : Nat) : State :=
  if lineBad s c off then s
  else
    let (v, s) := fresh s
    let j := keptKey c (off + 4 * bits v 3 0)
    { s with badWords := Tbl.set (fun _ => false) s.badWords (j / 8) (!inPoison s j) }

/-- The scrubber goes on to the next line of the populated ranks. -/
def scrubNext (s : State) (c off : Nat) : State :=
  if capUnits s c * dramUnit ≤ off + 64 then modDdr (count s (Reg.DDR_SCRUB_PASS c)) c (fun d => { d with scrubLine := 0 })
  else modDdr s c (fun d => { d with scrubLine := off / 64 + 1 })

/-- The scrubber's access to a line before its subchannel, under its MID; it walks the cells, which ORDER_A decodes. -/
def scrubRequest (s : State) (c off : Nat) (write : Bool) : State :=
  let s := bw s ((if write then 28 else 24) + c) 64
  if (subReqs s c (subOf off)).length < 64 then
    setSubReqs s c (subOf off) (subReqs s c (subOf off) ++ [{ off := off, order := 0, mid := 0x88 + c, write := write }])
  else s

/-- DDR_SCRUB_READ: `errs` says what the line's check bits show, 0 nothing, 1 a correctable word, 2 an uncorrectable
word. A corrected line is written back. -/
def ddrScrubRead (c errs : Nat) (s : State) : State :=
  let page := Reg.ddrPage c
  if ¬ ddrServes s c ∨ ¬ enField s page (Reg.DDR_SCRUB c) 31 ∨ capUnits s c = 0 then s
  else
    let off := 64 * (ddr s c).scrubLine
    let mid := 0x88 + c
    let (f, acc, s) := scrubFinds (scrubRequest s c off false) c off errs
    let s := match f with
      | 0 => s
      | 1 => scrubRequest (count (note s page 0x00 acc mid off) (Reg.DDR_CORR c)) c off true
      | _ => count (note (spoilWord s c off) page 0x01 acc mid off) (Reg.DDR_UNCORR c)
    scrubNext (countRank s c (rankOf s c off) (decide (2 ≤ f))) c off

/-! ## Loss of a rank (R262, R263) -/

/-- A memory key decodes to a rank. -/
def keyInRank (s : State) (c k key : Nat) : Bool :=
  dramBase ≤ key && match dramLoc s (key - dramBase) with
    | some (d, off) => d = c && rankOf s d off = k
    | none => false

/-- The outstanding reads of a rank complete as uncorrectable, and its requests are gone. -/
def endRank (s : State) (c k : Nat) : State :=
  let hit := fun (th : Thread) => match th.load with
    | some l => keyInRank s c k l.key
    | none => false
  let gone := fun (l : List DramReq) => l.filter (fun r => rankOf s c r.off ≠ k)
  let s := (listedThreads s (fun t => hit (thread s t))).foldl (fun s t =>
    modThread s t (fun th => { th with load := th.load.map (fun l => { l with bad := true }) })) s
  let s := modDdr s c (fun d => { d with reqs0 := gone d.reqs0, reqs1 := gone d.reqs1 })
  closeRows s c (fun key => keyRank key k)

/-- The partitions that are ACTIVE. -/
def activeParts (s : State) : BitVec 16 :=
  BitVec.ofNat 16 (((List.range 16).filter (fun p => partState s p = 3)).map (2 ^ ·)).sum

/-- DDR_RANK_LOST: the outstanding reads of the rank complete uncorrectable, source 0x04 is recorded with the severity of
R263, and the fault interval of the recovery opens (R331). -/
def ddrRankLost (c k : Nat) (s : State) : State :=
  let d := ddr s c
  if fld s (Reg.DDR_GEOM c) 9 8 ≤ k ∨ rankLost s c k ∨ (if k = 0 then d.bad0 else d.bad1) < 4 then s
  else
    let s := endRank s c k
    let s := fault s (Reg.ddrPage c) 0x04
    let s := setFlag s (Reg.DDR_STAT c) (8 + k) true
    if fatal s then s else openInterval s 3 (2 * c + k) (activeParts s)

/-- The Inkwell DRAM buffers that lay in a rank of channel `c`. -/
def buffersIn (s : State) (c k : Nat) : Nat :=
  if ¬ flag s Reg.IW_DCFG 31 then 0
  else ((List.range (fld s Reg.IW_DCFG 20 0)).filter (fun i =>
    (List.range 64).any (fun j => match dramMap s (fld s Reg.IW_DBUF_BASE 23 0 * 0x4000 + 0x4000 * i + 0x100 * j) with
      | some (d, off) => d = c && rankOf s d off = k
      | none => false))).length

/-- The Inkwell reports buffers lost (R251, R263). -/
def reportLost (s : State) (n : Nat) : State :=
  if n = 0 then s else note (countN s Reg.IW_LOST n) Reg.inkwellPage 0x01

/-- Remap a lost rank: its region extents go to the spare windows, at DDR_IMODE.grain. -/
def remapRank (s : State) (c k : Nat) : State :=
  let m : Remap := { rank := k, grain := 2 ^ fld s (Reg.DDR_IMODE 0) 11 8, extents := rankExtents s c k, targets := spareTargets s c }
  recoveryDone (reportLost (modDdr s c (fun d => { d with remaps := d.remaps ++ [m] })) (buffersIn s c k)) 3 (2 * c + k)

/-- DDR_REMAP_DONE: the lost ranks of the channel that are not remapped yet. -/
def ddrRemapDone (c : Nat) (s : State) : State :=
  if fatal s then s
  else ((List.range 2).filter (fun k => rankLost s c k && !(ddr s c).remaps.any (fun r => r.rank = k))).foldl
    (fun s k => remapRank s c k) s

/-! ## Regions (R259, R267) -/

/-- Two half-open ranges overlap. -/
def meets (a b c d : Nat) : Bool := decide (a < d ∧ c < b)

/-- The descriptor of region `r` may be valid with words `b`, `z`, `m`. -/
def regionOk (s : State) (r : Nat) (b z m : Word) : Bool :=
  let lo := bits b 11 0 * dramUnit
  let n := bits z 10 0 * dramUnit
  let c := bits m 25 24
  let off := bits m 9 0 * dramUnit
  n ≠ 0 && decide (off + n ≤ capUnits s c * dramUnit) && (List.range 16).all (fun x => x = r || !drValid s x ||
    (!meets lo (lo + n) (drBase s x) (drBase s x + drSize s x) &&
      !(drChan s x = c && meets off (off + n) (drOff s x) (drOff s x + drSize s x))))

/-- The ranges of device addresses that the device itself uses: DWIN windows, spill rings, the Inkwell's DRAM pool. -/
def dramUsers (s : State) : List (Nat × Nat) :=
  ((List.range 129).flatMap (fun n => (List.range 8).filterMap (fun i =>
    let d := reg s (Reg.DWIN n i)
    if bit d 31 then some (bits d 11 0 * dramUnit, dramUnit) else none)))
  ++ ((List.range 16).filterMap (fun p =>
    if flag s (Reg.DX_SPILL_SIZE p) 31 then some (fld s (Reg.DX_SPILL_BASE p) 25 0 * 0x1000, 320 * 2 ^ fld s (Reg.DX_SPILL_SIZE p) 4 0)
    else none))
  ++ (if flag s Reg.IW_DCFG 31 then
    let n := fld s Reg.IW_DCFG 20 0
    [(fld s Reg.IW_DBUF_BASE 23 0 * 0x4000, 0x4000 * n), (fld s Reg.IW_DRING_BASE 25 0 * 0x1000, 4 * n),
     (fld s Reg.IW_DSTATE_BASE 25 0 * 0x1000, 8 * n)] else [])

/-- Region `r` is in use. -/
def regionInUse (s : State) (r : Nat) : Bool :=
  (dramUsers s).any (fun e => meets e.1 (e.1 + e.2) (drBase s r) (drBase s r + drSize s r))

/-- The owner of a descriptor: its pid while valid, else partition 0, which owns what is not given away (R266). -/
def regionOwner (b : Word) : Nat := if bit b 31 then bits b 27 24 else 0

/-- A descriptor write that leaves the words `b`, `z`, `m` is allowed. -/
def regionWriteOk (s : State) (r : Nat) (b z m : Word) : Bool :=
  let old := reg s (Reg.DR_BASE 0 r)
  (!bit b 31 || regionOk s r b z m)
    && !(bit old 31 && (!bit b 31 || bits old 27 24 ≠ bits b 27 24) && regionInUse s r)
    && (regionOwner old = regionOwner b || mayMove s (regionOwner old) (regionOwner b))

/-- The address of word `i` of region `r`: DR_BASE, DR_SIZE, DR_MAP. -/
def drWord (r i : Nat) : Nat := match i with
  | 0 => Reg.DR_BASE 0 r
  | 1 => Reg.DR_SIZE 0 r
  | _ => Reg.DR_MAP 0 r

/-- DR_REGION_WRITE: a write of word `i` of region `r`. -/
def drRegionWrite (r i : Nat) (v : Word) (s : State) : State :=
  let s' := plainWrite s (drWord r i) v
  if regionWriteOk s r (reg s' (Reg.DR_BASE 0 r)) (reg s' (Reg.DR_SIZE 0 r)) (reg s' (Reg.DR_MAP 0 r)) then s'
  else ddrRefuse s 0 (drWord r i)

/-- Interleave mode is accepted in BOOT, CONFIG, STANDALONE and TEST (R261). -/
def imodeAllowed (s : State) : Bool := mode s = 1 || mode s = 2 || mode s = 3 || mode s = 7

/-- DDR_IMODE_WRITE. A grain outside 8 to 16 is refused. -/
def ddrImodeWrite (v : Word) (s : State) : State :=
  if (bit v 31 ∧ ¬ imodeAllowed s) ∨ bits v 11 8 < 8 then ddrRefuse s 0 (Reg.DDR_IMODE 0)
  else plainWrite s (Reg.DDR_IMODE 0) v

/-- A spare window lies within the channel and in no region (R263). -/
def spareOk (s : State) (c : Nat) (v : Word) : Bool :=
  let lo := bits v 9 0 * dramUnit
  let hi := lo + bits v 26 16 * dramUnit
  decide (hi ≤ capUnits s c * dramUnit) && (regionExtents s c).all (fun e => !meets lo hi e.1 e.2)

/-- DDR_SPARE_ENABLE: a write of DDR_SPARE with en 1 starts the fill. -/
def ddrSpareEnable (c : Nat) (v : Word) (s : State) : State :=
  if ¬ bit v 31 then modDdr (setFlag (plainWrite s (Reg.DDR_SPARE c) v) (Reg.DDR_SPARE c) 30 false) c (fun d => { d with filling := false })
  else if ¬ spareOk s c v then ddrRefuse s c (Reg.DDR_SPARE c)
  else modDdr (setFlag (plainWrite s (Reg.DDR_SPARE c) v) (Reg.DDR_SPARE c) 30 false) c (fun d => { d with filling := true })

/-- The parts of `e` outside `[lo, hi)`. -/
def cutRange (lo hi : Nat) (e : Nat × Nat) : List (Nat × Nat) :=
  [(e.1, min e.2 lo), (max e.1 hi, e.2)].filter (fun x => decide (x.1 < x.2))

/-- DDR_SPARE_READY: every word of the window reads as uncorrectable. -/
def ddrSpareReady (c : Nat) (s : State) : State :=
  if ¬ (ddr s c).filling then s
  else
    let lo := fld s (Reg.DDR_SPARE c) 9 0 * dramUnit
    let hi := lo + fld s (Reg.DDR_SPARE c) 26 16 * dramUnit
    let s := { s with badWords := s.badWords.filter (fun e => !decide (keptKey c lo ≤ 8 * e.1 ∧ 8 * e.1 < keptKey c hi)) }
    setFlag (modDdr s c (fun d => { d with
      filling := false
      poison := d.poison.flatMap (cutRange lo hi) ++ [(lo, hi)] })) (Reg.DDR_SPARE c) 30 true

/-! ## The commands -/

/-- DDR_ENABLE. -/
def execDdrEnable (c : ChanId) (s : State) : Host.Outcome State Fault Refusal := .next (ddrEnable c s)
/-- DDR_TRAIN. -/
def execDdrTrain (c : ChanId) (s : State) : Host.Outcome State Fault Refusal := .next (ddrTrain c s)
/-- DDR_TRAIN_DONE. -/
def execDdrTrainDone (c : ChanId) (failedStep : Fin 9) (s : State) : Host.Outcome State Fault Refusal := .next (ddrTrainDone c failedStep s)
/-- DDR_RESTORE. -/
def execDdrRestore (c : ChanId) (s : State) : Host.Outcome State Fault Refusal := .next (ddrRestore c s)
/-- DDR_RESTORE_DONE. -/
def execDdrRestoreDone (c : ChanId) (checkPassed : Bool) (s : State) : Host.Outcome State Fault Refusal := .next (ddrRestoreDone c checkPassed s)
/-- DDR_REFRESH. -/
def execDdrRefresh (c : ChanId) (rank : Fin 2) (s : State) : Host.Outcome State Fault Refusal := .next (ddrRefresh c rank s)
/-- DDR_TEMP_POLL. -/
def execDdrTempPoll (c : ChanId) (celsius : Int) (s : State) : Host.Outcome State Fault Refusal := .next (ddrTempPoll c celsius s)
/-- DDR_COMMAND_ISSUE. -/
def execDdrCommandIssue (c : ChanId) (sub : Fin 2) (s : State) : Host.Outcome State Fault Refusal := .next (ddrCommandIssue c sub s)
/-- DDR_POWER_DOWN. -/
def execDdrPowerDown (c : ChanId) (rank : Fin 2) (s : State) : Host.Outcome State Fault Refusal := .next (ddrPowerDown c rank s)
/-- DDR_SCRUB_READ. -/
def execDdrScrubRead (c : ChanId) (errorBits : Fin 3) (s : State) : Host.Outcome State Fault Refusal := .next (ddrScrubRead c errorBits s)
/-- DDR_RANK_LOST. -/
def execDdrRankLost (c : ChanId) (rank : Fin 2) (s : State) : Host.Outcome State Fault Refusal := .next (ddrRankLost c rank s)
/-- DDR_REMAP_DONE. -/
def execDdrRemapDone (c : ChanId) (s : State) : Host.Outcome State Fault Refusal := .next (ddrRemapDone c s)
/-- DR_REGION_WRITE. -/
def execDrRegionWrite (r : Fin 16) (reg : Fin 3) (v : Word) (s : State) : Host.Outcome State Fault Refusal := .next (drRegionWrite r reg v s)
/-- DDR_IMODE_WRITE. -/
def execDdrImodeWrite (v : Word) (s : State) : Host.Outcome State Fault Refusal := .next (ddrImodeWrite v s)
/-- DDR_SPARE_ENABLE. -/
def execDdrSpareEnable (c : ChanId) (v : Word) (s : State) : Host.Outcome State Fault Refusal := .next (ddrSpareEnable c v s)
/-- DDR_SPARE_READY. -/
def execDdrSpareReady (c : ChanId) (s : State) : Host.Outcome State Fault Refusal := .next (ddrSpareReady c s)
/-- CA_PARITY_ERROR. -/
def execCaParityError (c : ChanId) (rank : Fin 2) (s : State) : Host.Outcome State Fault Refusal :=
  .next (caParityError c rank s)

end Sys2Proof.Machine
end

