-- ==== Sys2Proof/Machine/Phase.lean ====
section
/-! DEFINITION. Machine phase: ticks, markers, MCLK, the command channel, alignment, latency registers and the
wall-clock capture (R7–R35). The steps that wake threads are in Channels.lean. -/

namespace Sys2Proof.Machine

/-- Change the phase block. -/
def modPhase (s : State) (f : Phase → Phase) : State := { s with phase := f s.phase }

/-- PH_STAT bits: 0 mclk_ok, 1 aligned, 2 mcmd_lock, 3 running, 4 held, 5 cal_active, 6 orbit_suspect, 7 sync_err. -/
def phStat (s : State) (i : Nat) : Bool := flag s Reg.PH_STAT i
/-- Set a PH_STAT bit. -/
def setPhStat (s : State) (i : Nat) (b : Bool) : State := setFlag s Reg.PH_STAT i b
/-- PH_CTL.subst_en. -/
def substOn (s : State) : Bool := enField s Reg.phasePage Reg.PH_CTL 1
/-- PH_CTL.morb_en. -/
def morbOn (s : State) : Bool := enField s Reg.phasePage Reg.PH_CTL 3

/-- The 1588 clock moves by a free time: how long passed since it was last looked at is in no command (R374, log entry
17). -/
def passTime (s : State) : State :=
  let ns := s.phase.todNs + (Config.freeWord s.free).toNat
  let sec := s.phase.todSec + ns / 1000000000 + (Config.freeWord (s.free + 1)).toNat
  { s with phase := { s.phase with todNs := ns % 1000000000, todSec := sec % 2 ^ 48 }, free := s.free + 2 }

/-! ## Marks of a crossing (R14, R22, R70) -/

/-- Crossing `b` lies in a calibration window (R14). -/
def calMark (s : State) (b : Nat) : Bool :=
  s.phase.calOpens.any (fun o => o ≤ b && b < o + fld s Reg.CAL_WIN 15 0)
  || (match s.phase.calEnd with | some e => b < e | none => false)

/-- Crossing `b` is a test-pulse crossing (R14). -/
def tpMark (s : State) (b : Nat) : Bool := s.phase.testPulses.contains b

/-- The partitions whose lanes are down, as a mask (R70). -/
def downMask (s : State) : BitVec 16 :=
  s.lanes.foldl (fun m e => if e.2.qsDown then m ||| (1#16 <<< lanePid s e.1) else m) 0

/-- Write the marks of the current crossing, if it has any (R14, R22, R70). -/
def markXing (s : State) : State :=
  let b := s.phase.count
  let q : BitVec 16 := (if s.phase.qsOrbit then 0xFFFF else 0) ||| downMask s
  if calMark s b ∨ tpMark s b ∨ q ≠ 0 then
    modXing s b (fun x => { x with b := b, ps := s.phase.now, cal := calMark s b, tp := tpMark s b, qs := x.qs ||| q })
  else s

/-! ## Scheduled instances (R192) -/

/-- A cal or tp filter admits a crossing: 0 any, 1 only marked ones, 2 never those. -/
def filterOk (f : Nat) (m : Bool) : Bool := f = 0 || (f = 1 && m) || (f = 2 && !m)

/-- Listed position `i` of a template (R188). -/
def listedPos (s : State) (t i : Nat) : Nat := bits (tplWord s t (4 + i / 2)) (16 * (i % 2) + 15) (16 * (i % 2))

/-- The calibration mark of crossing `b`: as written at its tick, or as scheduled for one that has not begun (R14). -/
def calOf (s : State) (b : Nat) : Bool := if b ≤ s.phase.count then (xing s b).cal else calMark s b

/-- The test-pulse mark of crossing `b` (R14). -/
def tpOf (s : State) (b : Nat) : Bool := if b ≤ s.phase.count then (xing s b).tp else tpMark s b

/-- The filters of template `t` admit crossing `b` (R192). -/
def tplFilters (s : State) (t b : Nat) : Bool :=
  filterOk (bits (tplWord s t 1) 28 27) (calOf s b) && filterOk (bits (tplWord s t 1) 26 25) (tpOf s b)

/-- Modes 1 to 3 select the crossing with index `idx` (R192). -/
def tplSelects (s : State) (t idx : Nat) : Bool :=
  match bits (tplWord s t 1) 31 29 with
  | 1 => true
  | 2 => idx % bits (tplWord s t 2) 31 16 = bits (tplWord s t 2) 15 0
  | 3 => (List.range (bits (tplWord s t 1) 4 0)).any (fun i => listedPos s t i = idx)
  | _ => false

/-- Create the instances that the schedules of partition `p`'s enabled templates select for the current crossing (R192). -/
def scheduleInsts (s : State) (p : Nat) : State :=
  if partState s p ≠ 3 ∨ ¬ dxTakes s ∨ ¬ dxEnabled s then s
  else (s.ductus.enabled.filter (fun t => tplPid s t = p && tplSelects s t s.phase.now.index && tplFilters s t s.phase.count)).foldl
    (fun s t => (createInst s t s.phase.count s.phase.now).1) s

/-- Admit the current crossing for partition `p`: its decision slot opens and its instances are created (R192, R204). -/
def admitNow (s : State) (p : Nat) : State :=
  let s := modPart (openDecision s p s.phase.count s.phase.now) p (fun q => { q with lastAdmitted := some s.phase.count })
  scheduleInsts s p

/-- Admit the current crossing for every partition that admits. -/
def admitAll (s : State) : State :=
  if s.phase.admissionDue = some false ∨ fatal s then s
  else ((List.range 16).filter (fun p => admits s p && (findDecision s p s.phase.count).isNone)).foldl admitNow s

/-! ## Orbit boundaries -/

/-- At an orbit boundary a partition's pending START is due and its pending STOP or FREEZE stops admission (R270, R272). -/
def boundaryParts (s : State) : State :=
  { s with parts := s.parts.foldl (fun m e =>
      Tbl.set (fun _ => {}) m e.1 { e.2 with startDue := e.2.startDue || e.2.startPend, startPend := false,
                                             admitting := e.2.admitting && !e.2.stopPend, stopPend := false }) s.parts }

/-- In STANDALONE with MCLK, partition 0 admits from crossing 0 of the first orbit after alignment (R353). -/
def standaloneAdmission (s : State) : State :=
  if mode s = 2 ∧ phStat s 1 ∧ ¬ substOn s ∧ ¬ admits s 0 ∧ ¬ fatal s then
    modPart (setRunning s true) 0 (fun q => { q with admitting := true })
  else s

/-- Every UP port sends a PHASE_CHECK: the PS of this crossing in network byte order (R4, R289, R290). -/
def sendPhaseCheck (s : State) : State :=
  (upPorts s).foldl (fun s k => skSend s k 0x02 0 [word (psNat s.phase.now / 2 ^ 32), word (psNat s.phase.now)]) s

/-- The time of this crossing 0 is captured with its PS (R31). -/
def captureTime (s : State) : State :=
  if flag s Reg.PH_CTL 4 then
    let s := passTime s
    let s := modPhase s (fun ph => { ph with capture := some (ph.now, ph.todSec, ph.todNs) })
    setFlag (countFld s Reg.PTP_CAPTURE 15 0) Reg.PTP_CAPTURE 31 true
  else s

/-- The RUN_STARTs and RUN_STOPs at an orbit boundary: of those for this boundary the one that arrived last is due, and
the others have one boundary less to pass (R14, R33). -/
def admissionsPass (ph : Phase) : Phase :=
  { ph with
    admissionDue := ((ph.admissions.filter (fun e => e.1 ≤ 1)).getLast?.map Prod.snd).or ph.admissionDue
    admissions := (ph.admissions.filter (fun e => 1 < e.1)).map (fun e => (e.1 - 1, e.2)) }

/-- What crossing 0 of an orbit brings: the pending ORBIT_RESET, RUN_START and RUN_STOP fall due, a staged ORBIT_LEN
too, the capture latches, ORBITS counts, every UP port sends PHASE_CHECK, after an ORBIT_RESET that is due (R14, R18, R27,
R31, R290, R305). `wrapped` says that an orbit was completed. -/
def boundary (wrapped : Bool) (s : State) : State :=
  let ph := admissionsPass s.phase
  let ph := { ph with
    missingDue := ph.missingDue || (wrapped && !ph.markerSeen && morbOn s && !substOn s), markerSeen := false
    orbitResetDue := match ph.orbitResetAt with
      | some (c, v) => if c < ph.count then some v else ph.orbitResetDue
      | none => ph.orbitResetDue
    orbitResetAt := match ph.orbitResetAt with
      | some (c, v) => if c < ph.count then none else some (c, v)
      | none => none
    orbitLenDue := ph.orbitLenDue || ph.orbitLenStaged
    qsOrbit := ph.qsOrbit && !wrapped }
  let s := { s with phase := ph }
  let s := boundaryParts s
  let s := if wrapped then standaloneAdmission s else s
  let s := tally s 16 0 1
  captureTime (if s.phase.orbitResetDue.isSome then s else sendPhaseCheck s)

/-- Alarms armed for the current crossing (R28). -/
def dueAlarms (s : State) : List Nat :=
  (List.range 16).filter (fun i => flag s (Reg.PH_ALARM i) 31 && fld s (Reg.PH_ALARM i) 15 0 = s.phase.now.index
    && decide (s.phase.now.index < orbitLen s))

/-- A DEGRADE report once the MCMD lock has stayed lost for a whole orbit in RUN (R34); an orbit is ORBIT_LEN crossings
(DEDUCED, log entry 18). -/
def lockWatch (s : State) : State :=
  match s.phase.lockLostAt with
  | some c =>
    if c + orbitLen s ≤ s.phase.count then
      let s := modPhase s (fun ph => { ph with lockLostAt := none })
      if mode s = 4 then report s { page := Reg.phasePage, src := 0x02, sev := 2 } else s
    else s
  | none => s

/-- Members of the merge that answer and for which `f` holds (R298). -/
def membersWith (s : State) (f : Nat → Bool) : Nat :=
  ((List.range 32).filter (fun k => flag s (Reg.SK_PMERGE k) 31 && !flag s (Reg.SK_PSTAT k) 29 && f k)).length

/-- A member quorum (R298). -/
def quorum (s : State) : Nat := ((List.range 32).filter (fun k => flag s (Reg.SK_PMERGE k) 31)).length / 2 + 1

/-- Every 256 crossings a standby manager sees whether a member quorum reports the primary lost (R298). -/
def quorumWatch (s : State) : State :=
  if role s = 3 ∧ s.phase.count % 256 = 0 then
    let all := decide (quorum s ≤ membersWith s (fun k => flag s (Reg.SK_PSTAT k) 23))
    { s with mgt := { s.mgt with quorumRuns := if all then s.mgt.quorumRuns + 1 else 0 } }
  else s

/-- SK_ROLE.active changes: bit 2 of the SKOVUB 0 page (R300). -/
def setActive (s : State) (b : Bool) : State :=
  if flag s Reg.SK_ROLE 4 = b then s else irq (setFlag s Reg.SK_ROLE 4 b) (Reg.skovubPage 0) 2

/-- At an orbit boundary a handback makes the standby inactive (R298). -/
def handbackNow (s : State) : State :=
  if s.mgt.handback then setActive { s with mgt := { s.mgt with handback := false, sbFollowed := false } } false else s

/-- The current crossing has a new label and, at crossing 0, a new orbit: what every block does in the tick (R10). -/
def enterCrossing (wrapped zero : Bool) (s : State) : State :=
  let s := if zero then handbackNow (boundary wrapped s) else s
  let s := quorumWatch (lockWatch (markXing s))
  let s := modPhase s (fun ph => { ph with alarmsDue := dueAlarms s })
  admitAll s

/-- The label after `now` (R8). -/
def nextLabel (s : State) : PS :=
  if orbitLen s ≤ s.phase.now.index + 1 then { orbit := (s.phase.now.orbit + 1) % 2 ^ 48, index := 0 }
  else { s.phase.now with index := s.phase.now.index + 1 }

/-- Begin the next crossing (R8, R9, R10). -/
def advance (s : State) : State :=
  let l := nextLabel s
  enterCrossing (l.index = 0) (l.index = 0) (modPhase s (fun ph => { ph with count := ph.count + 1, now := l }))

/-- A new run of labels begins with the current crossing (R9). -/
def newRun (s : State) : State :=
  modPhase s (fun ph => { ph with runs := { b := ph.count, ps := ph.now, len := ph.len } :: ph.runs.filter (fun r => r.b ≠ ph.count) })

/-- Start or restart the count with the crossing labelled `l` (R17, R22, R24). A range of misplaced markers that no
re-alignment closed is given up (R19, R306). -/
def startCount (s : State) (l : PS) (zero : Bool) : State :=
  let s := modPhase s (fun ph => { ph with
    count := if ph.started then ph.count + 1 else ph.count, now := l, started := true, counting := true, alignNext := false,
    restart := false, edgeRestart := false, firstLabel := l, misplacedFrom := none })
  let s := newRun { s with signet := { s.signet with pendingQs := [] } }
  let s := setFld (irq (setPhStat s 1 true) Reg.phasePage 0) Reg.ORB_ERR_CNT 1 0 0
  enterCrossing false zero s

/-- The label of a restart: crossing 0 of the orbit after the last one counted; orbit 0 when none was (R8, R22, R24). -/
def restartLabel (s : State) : PS :=
  if s.phase.started then { orbit := (s.phase.now.orbit + 1) % 2 ^ 48, index := 0 } else {}

/-- Restart after a loss of MCLK or after the substitute phase (R22, R24): at a marker the orbit is suspect. In RUN
admission resumes at that crossing 0 and its whole orbit is quality-suspect. -/
def restartCount (marker : Bool) (s : State) : State :=
  let resume := s.phase.wasRunning && decide (mode s = 4) && !fatal s
  let s := if marker then setPhStat s 6 true else s
  let s := modPhase s (fun ph => { ph with qsOrbit := resume, wasRunning := false })
  startCount (if resume then setRunning s true else s) (restartLabel s) true

/-- CROSSING_TICK (R10): a rising MCLK edge. After the substitute phase, with morb_en 0, an edge restarts the count (R24).
In the substitute phase MCLK is ignored. -/
def crossingTick (s : State) : State :=
  if substOn s ∨ ¬ phStat s 0 then s
  else if s.phase.counting then advance s
  else if s.phase.restart ∧ s.phase.edgeRestart ∧ ¬ morbOn s then restartCount false s
  else s

/-- SUBST_TICK (R24): the substitute phase's own tick; the first one is crossing 0 of orbit 0 if the count was never
aligned. -/
def substTick (s : State) : State :=
  if ¬ substOn s ∨ ¬ domainOn s 2 then s
  else if s.phase.counting then advance s
  else if s.phase.started then
    let l := nextLabel s
    startCount s l (l.index = 0)
  else startCount s {} true

/-! ## MCLK (R21–R24) -/

/-- The Ductus closes every open instance, and the Ruling releases one MCLK_LOST record per unreleased admitted crossing
of each partition; ACC_OUT drives 0 (R23). A second loss before the count has resumed keeps what was running at the first
(R22). -/
def lossFlush (s : State) : State :=
  let s := closeInsts s (fun _ => true)
  let s := modPhase s (fun ph => { ph with wasRunning := ph.wasRunning || flag s Reg.PH_STAT 3, counting := false, admissionDue := none })
  accZero (flushDecisions (setRunning (setPhStat s 1 false) false))

/-- MCLK_LOST (R21, R23). -/
def mclkLost (s : State) : State :=
  if ¬ phStat s 0 then s
  else
    let s := setPhStat s 0 false
    let s := irq (fault s Reg.phasePage 0x08) Reg.phasePage 2
    let s := journal { s with signet := { s.signet with mclkLost := true } } 0x05 0xF []
    if substOn s then s else lossFlush s

/-- MCLK_OK (R22): 1,024 in-range periods have passed. A count that was started restarts at the next marker. -/
def mclkOk (s : State) : State :=
  if phStat s 0 then s
  else
    let s := irq (setPhStat s 0 true) Reg.phasePage 3
    let s := if s.signet.mclkLost then
        let (w, s) := fresh s
        journal { s with signet := { s.signet with mclkLost := false } } 0x06 0xF (beBytes 4 w.toNat)
      else s
    modPhase s (fun ph => { ph with restart := ph.restart || (ph.started && !ph.counting) })

/-- The round trip of a port in crossings, rounded up and saturating (R288). -/
def rttCrossings (s : State) (fclk : Nat) : Nat :=
  let x := (reg s Reg.XING_FCLK).toNat
  if x = 0 then 0 else sat 255 ((fclk * 65536 + x - 1) / x)

/-- MCLK_FREQ_UPDATE (R21, R25, R241, R288): a measurement over 1 ms. -/
def mclkFreqUpdate (khz : BitVec 19) (s : State) : State :=
  let s := setReg s Reg.MCLK_FREQ (word (0x80000000 + khz.toNat))
  let s := setReg s Reg.XING_FCLK (word (if khz = 0 then 0 else 1000000 * 65536 / khz.toNat))
  let s := (upPorts s).foldl (fun s k => setFld s (Reg.SK_PSTAT k) 15 8 (rttCrossings s (fld s (Reg.SK_RTT_FCLK k) 15 0))) (refit s)
  if khz.toNat < 10000 ∨ 400000 < khz.toNat then mclkLost s else s

/-! ## Orbit markers (R17–R20) -/

/-- Add the pending QS counts to the tallies (R306). -/
def settleQs (s : State) : State :=
  let pend := s.signet.pendingQs
  let s := { s with signet := { s.signet with pendingQs := [] } }
  pend.foldl (fun s e => tally s e.1 8 e.2) s

/-- The current crossing takes the label `l`, and with it its decision slots, its instances and its capture (R9). -/
def relabel (l : PS) (s : State) : State :=
  let b := s.phase.count
  let s := modPhase s (fun ph => { ph with now := l, capture := ph.capture.map (fun c => if c.1 = ph.now then (l, c.2) else c) })
  let s := if xing s b = {} then s else modXing s b (fun x => { x with ps := l })
  newRun { s with decisions := s.decisions.map (fun d => if d.b = b then { d with ps := l } else d)
                  ductus := { s.ductus with insts := s.ductus.insts.map (fun x => if x.b = b then { x with ps := l } else x) } }

/-- Undo the creation of instance `x` of the current crossing: a schedule that its new label does not meet (R192). -/
def dropInst (s : State) (x : Inst) : State :=
  let s := (s.ductus.ops.filter (fun o => o.inst = x.num)).foldl dropOp s
  let s := { s with ductus := { s.ductus with insts := s.ductus.insts.filter (fun y => y.num ≠ x.num) } }
  if tplFinal s x.tpl then modDecision s x.pid x.b (fun d => { d with finals := d.finals - 1 }) else s

/-- The schedules of the current crossing meet its new label (R33, R192). -/
def reschedule (s : State) : State :=
  let gone := s.ductus.insts.filter (fun x => x.b = s.phase.count && (bits (tplWord s x.tpl 1) 31 29 = 2 || bits (tplWord s x.tpl 1) 31 29 = 3)
    && !tplSelects s x.tpl s.phase.now.index)
  ((List.range 16).filter (fun p => admits s p)).foldl scheduleInsts (gone.foldl dropInst s)

/-- Re-align: the marker's crossing becomes crossing 0 of the next orbit; the journal record and the QS range of the
misplaced markers, where there were some (R19, R20). -/
def realign (s : State) : State :=
  let b := s.phase.count
  let s := match s.phase.misplacedFrom with
    | some m =>
      let s := journal s 0x04 0xF (beBytes 4 (b - m + 1))
      settleQs { s with signet := { s.signet with ranges := s.signet.ranges ++ [(m, b)] } }
    | none => journal s 0x04 0xF (beBytes 4 0)
  let s := countSat (setFld s Reg.ORB_ERR_CNT 1 0 0) Reg.ORB_ERR_CNT 7 4
  let s := irq (note s Reg.phasePage 0x07) Reg.phasePage 1
  let s := modPhase s (fun ph => { ph with misplacedFrom := none, realignPending := false, alignNext := false })
  let s := reschedule (relabel { orbit := (s.phase.now.orbit + 1) % 2 ^ 48, index := 0 } s)
  let s := boundary false s
  modPhase s (fun ph => { ph with markerSeen := true, alarmsDue := dueAlarms s })

/-- A marker that is judged while the count runs (R18, R19, R20). -/
def judgeMarker (s : State) : State :=
  if s.phase.now.index = 0 then
    let s := modPhase s (fun ph => { ph with markerSeen := true, misplacedFrom := none, realignPending := false, alignNext := false })
    setFld { s with signet := { s.signet with pendingQs := [] } } Reg.ORB_ERR_CNT 1 0 0
  else if s.phase.realignPending ∨ s.phase.alignNext ∨ fld s Reg.ORB_ERR_CNT 1 0 = 3 then realign s
  else
    let first := fld s Reg.ORB_ERR_CNT 1 0 = 0
    let s := countFld (countFld s Reg.ORB_ERR_CNT 31 16) Reg.ORB_ERR_CNT 1 0
    let s := modPhase s (fun ph => { ph with markerSeen := true, misplacedFrom := if first then some ph.count else ph.misplacedFrom })
    note s Reg.phasePage 0x05

/-- MORB_MARKER (R17, R18, R19, R20, R22, R24). A marker that finds the count stopped ends the wait of realign_now too. -/
def morbMarker (s : State) : State :=
  if substOn s ∨ ¬ phStat s 0 then s
  else if s.phase.counting then (if morbOn s ∨ s.phase.realignPending ∨ s.phase.alignNext then judgeMarker s else s)
  else
    let s := modPhase s (fun ph => { ph with realignPending := false })
    if s.phase.restart ∧ (morbOn s ∨ ¬ s.phase.edgeRestart) then
      modPhase (restartCount true s) (fun ph => { ph with markerSeen := true })
    else if s.phase.alignNext then
      modPhase (startCount s (restartLabel s) true) (fun ph => { ph with markerSeen := true })
    else s

/-- MISSING_MARKER (R18): the orbit that ended had no marker. -/
def missingMarker (s : State) : State :=
  if s.phase.missingDue then
    note (countSat (modPhase s (fun ph => { ph with missingDue := false })) Reg.ORB_ERR_CNT 15 8) Reg.phasePage 0x06
  else s

/-- PH_CTL_ARM (R17): with mclk_ok at 1 the next marker starts the count. -/
def phCtlArm (s : State) : State :=
  let s := setFlag s Reg.PH_CTL 0 true
  if phStat s 0 then modPhase s (fun ph => { ph with alignNext := true }) else s

/-- REALIGN_NOW (R20). The bit reads 0 also while the re-alignment is pending (DESIGN CHOICE, log entry 163). -/
def realignNow (s : State) : State := modPhase s (fun ph => { ph with realignPending := true })

/-- SUBST_ENABLE (R24): available only in STANDALONE and TEST. -/
def substEnable (s : State) : State :=
  if mode s = 2 ∨ mode s = 7 then
    if flag s Reg.PH_CTL 1 then s
    else setPhStat (setFlag (modPhase s (fun ph => { ph with counting := false, restart := false })) Reg.PH_CTL 1 true) 1 true
  else refuseWrite s Reg.phasePage 0x0A Reg.PH_CTL

/-- SUBST_DISABLE (R24): the count stops, keeps its labels, and restarts at the next marker or edge. -/
def substDisable (s : State) : State :=
  if flag s Reg.PH_CTL 1 then
    let s := setPhStat (setFlag s Reg.PH_CTL 1 false) 1 false
    modPhase s (fun ph => { ph with counting := false, restart := true, edgeRestart := true })
  else s

/-! ## The command channel (R11–R16) -/

/-- MCMD_LOCK_ACQUIRED (R11). -/
def mcmdLockAcquired (s : State) : State := modPhase (setPhStat s 2 true) (fun ph => { ph with lockLostAt := none })

/-- MCMD_LOCK_LOST (R11, R34). -/
def mcmdLockLost (s : State) : State :=
  if phStat s 2 then
    note (modPhase (setPhStat s 2 false) (fun ph => { ph with lockLostAt := some ph.count })) Reg.phasePage 0x02
  else s

/-- MCMD_FRAME (R12, R13, R33): a frame's last bit has arrived. `codeErr` says that a character had a code or disparity
error or was not a data character; a frame during which MCLK was lost is discarded as one. Without lock no frame is seen;
with mcmd_en 0 good frames are not executed and bad ones are counted (DEDUCED, log entry 159). A good frame while the count
is stopped acts 16 crossings after the last one counted (DEDUCED, log entry 160). -/
def mcmdFrame (w : BitVec 16) (check : Byte) (codeErr : Bool) (s : State) : State :=
  if substOn s then s
  else if ¬ phStat s 0 then note (countSat s Reg.CMD_ERR_CNT 31 24) Reg.phasePage 0x00
  else if ¬ phStat s 2 then s
  else if codeErr then note (countSat s Reg.CMD_ERR_CNT 31 24) Reg.phasePage 0x00
  else if crc8 (beBytes 2 w.toNat) ≠ check then note (countSat s Reg.CMD_ERR_CNT 23 16) Reg.phasePage 0x01
  else match takeInjection s Reg.phasePage 1 with
  | (some _, s) => note (countSat s Reg.CMD_ERR_CNT 23 16) Reg.phasePage 0x01 0xD
  | (none, s) =>
    if ¬ enField s Reg.phasePage Reg.PH_CTL 2 then s
    else modPhase s (fun ph => { ph with sched := ph.sched ++ [{ due := ph.count + 16, injected := false, word := w }] })

/-- The first of the commands that are due, an MCMD command before an injected one of the same crossing (R13, R33). -/
def firstDue (s : State) : Option SchedCmd :=
  s.phase.sched.foldl (fun (m : Option SchedCmd) c =>
    if ¬ s.phase.counting ∨ s.phase.count < c.due then m
    else match m with
      | none => some c
      | some d => if c.due < d.due ∨ (c.due = d.due ∧ d.injected ∧ ¬ c.injected) then some c else some d) none

/-- A command whose type is not allowed now, or whose argument must be 0 and is not (R15). -/
def refuseCmd (s : State) : State := note (countSat s Reg.CMD_ERR_CNT 7 0) Reg.phasePage 0x04

/-- Command type, argument. -/
def cmdType (w : BitVec 16) : Nat := bits w 15 12
def cmdArg (w : BitVec 16) : Nat := bits w 11 0

/-- An executed command: counted, recorded as the last one, interrupt bit 6 (R14, R35). -/
def executed (s : State) (w : BitVec 16) : State :=
  irq (setReg (count s Reg.CMD_CNT) Reg.CMD_LAST (word (s.phase.now.index * 65536 + w.toNat))) Reg.phasePage 6

/-- Run the due command if its type satisfies `ty`: refused unless `ok`, else executed with effect `f` (R13, R15). A good
command that arrived under lock acts also when the lock is lost meanwhile (DEDUCED, log entry 161). -/
def actCmd (ty : Nat → Bool) (ok : State → Nat → Bool) (f : Nat → State → State) (s : State) : State :=
  match firstDue s with
  | none => s
  | some c =>
    if ¬ ty (cmdType c.word) then s
    else
      let s := modPhase s (fun ph => { ph with sched := ph.sched.erase c })
      if ok s (cmdArg c.word) then executed (f (cmdArg c.word) s) c.word else refuseCmd s

/-- The argument is 0. -/
def argZero (_ : State) (a : Nat) : Bool := a = 0
/-- Allowed outside RUN, DRAIN and ORPHAN (R14, R340). -/
def unlockedMode (s : State) (_ : Nat) : Bool := !modeLocked s

/-- CROSSING_RESET's effect (R14): its crossing is a crossing 0, whose alarms, capture and PHASE_CHECK follow the new
label; the orbit goes on, so it is no orbit boundary (DEDUCED, log entry 162). -/
def crossingResetEffect (s : State) : State :=
  if s.phase.now.index = 0 then s
  else
    let s := captureTime (sendPhaseCheck (relabel { s.phase.now with index := 0 } s))
    modPhase s (fun ph => { ph with alarmsDue := dueAlarms s })
/-- RUN_START's effect: `k` extra orbits (R14). -/
def runStartEffect (k : Nat) (s : State) : State := modPhase s (fun ph => { ph with admissions := ph.admissions ++ [(k + 1, true)] })
/-- RUN_STOP's effect (R14). -/
def runStopEffect (s : State) : State := modPhase s (fun ph => { ph with admissions := ph.admissions ++ [(1, false)] })
/-- CAL_WINDOW's effect (R14): a window of CAL_WIN.len crossings opens `o` crossings on; length 0 opens nothing. -/
def calWindowEffect (o : Nat) (s : State) : State :=
  if fld s Reg.CAL_WIN 15 0 = 0 then s
  else markXing (modPhase s (fun ph => { ph with calOpens := ph.calOpens ++ [ph.count + o] }))
/-- TEST_PULSE's effect (R14). -/
def testPulseEffect (o : Nat) (s : State) : State :=
  markXing (modPhase s (fun ph => { ph with testPulses := ph.testPulses ++ [ph.count + o] }))
/-- SYNC_CHECK's effect (R16). -/
def syncCheckEffect (a : Nat) (s : State) : State :=
  if a = s.phase.now.orbit % 4096 then setPhStat s 7 false else fault (setPhStat s 7 true) Reg.phasePage 0x09

/-- MCMD_RESERVED_TYPE (R14): nothing but a count. -/
def reservedCmd (s : State) : State :=
  match firstDue s with
  | none => s
  | some c =>
    if cmdType c.word < 10 then s
    else note (countSat (modPhase s (fun ph => { ph with sched := ph.sched.erase c })) Reg.CMD_ERR_CNT 15 8) Reg.phasePage 0x03

/-- ORBIT_RESET_APPLY (R14): at the boundary the orbit number becomes the argument; the PHASE_CHECK of this crossing 0
carries it. -/
def orbitResetApply (s : State) : State :=
  match s.phase.orbitResetDue with
  | some v =>
    let s := relabel { s.phase.now with orbit := v } (modPhase s (fun ph => { ph with orbitResetDue := none }))
    sendPhaseCheck (setPhStat s 6 false)
  | none => s

/-- ADMISSION_START (R14): the boundary of a RUN_START has come in RUN. -/
def admissionStart (s : State) : State :=
  if s.phase.admissionDue = some true then
    let s := modPhase s (fun ph => { ph with admissionDue := none })
    if mode s = 4 ∧ ¬ fatal s then admitAll (setRunning s true) else s
  else s

/-- ADMISSION_STOP (R14): the boundary of a RUN_STOP has come. -/
def admissionStop (s : State) : State :=
  if s.phase.admissionDue = some false then
    setRunning (modPhase s (fun ph => { ph with admissionDue := none })) false
  else s

/-- CAL_WINDOW_OPEN (R14). CAL_WIN.len is taken when the window opens (DESIGN CHOICE, log entry 164). -/
def calWindowOpen (s : State) : State :=
  match s.phase.calOpens.find? (fun o => o ≤ s.phase.count) with
  | some o =>
    let e := o + fld s Reg.CAL_WIN 15 0
    setPhStat (modPhase s (fun ph => { ph with calOpens := ph.calOpens.erase o, calEnd := some (max e (ph.calEnd.getD 0)) })) 5 true
  | none => s

/-- CAL_WINDOW_CLOSE (R14). -/
def calWindowClose (s : State) : State :=
  match s.phase.calEnd with
  | some e => if e ≤ s.phase.count then setPhStat (modPhase s (fun ph => { ph with calEnd := none })) 5 false else s
  | none => s

/-- TEST_PULSE_CROSSING (R14): the marked crossing has come; its mark stands in the crossing's entry. -/
def testPulseCrossing (s : State) : State :=
  if s.phase.testPulses.any (fun c => c ≤ s.phase.count) then
    let s := modXing s s.phase.count (fun x => { x with tp := x.tp || s.phase.testPulses.contains s.phase.count })
    modPhase s (fun ph => { ph with testPulses := ph.testPulses.filter (fun c => ph.count < c) })
  else s

/-- CMD_INJECT (R14, R24, R33): a command whose action crossing is the next crossing plus 16; refused in RUN, DRAIN and
ORPHAN. -/
def cmdInject (w : BitVec 16) (s : State) : State :=
  if modeLocked s then refuseCmd s
  else modPhase s (fun ph => { ph with sched := ph.sched ++ [{ due := ph.count + 17, injected := true, word := w }] })

/-! ## Latency registers (R26, R27) -/

/-- ORBIT_LEN_WRITE (R27). -/
def orbitLenWrite (v : Word) (s : State) : State :=
  let n := bits v 16 0
  if modeLocked s ∨ n < 1 ∨ 65536 < n then refuseWrite s Reg.phasePage 0x0A Reg.ORBIT_LEN
  else modPhase (plainWrite s Reg.ORBIT_LEN v) (fun ph => { ph with orbitLenStaged := true })

/-- ORBIT_LEN_APPLY (R27, R231): the accepted value takes effect at the boundary, and every gate list is disabled. -/
def orbitLenApply (s : State) : State :=
  if s.phase.orbitLenDue then
    let n := fld s Reg.ORBIT_LEN 16 0
    let s := newRun (modPhase s (fun ph => { ph with len := n, orbitLenStaged := false, orbitLenDue := false }))
    setReg s Reg.RU_GEN 0
  else s

/-- A transition to RUN is pending (R33). -/
def runPending (s : State) : Bool := flag s Reg.MODE_CUR 31 && fld s Reg.MODE_CUR 30 28 = 4

/-- DECISION_LAT_WRITE (R26, R27, R241). -/
def decisionLatWrite (v : Word) (s : State) : State :=
  let n := bits v 14 0
  if modeLocked s ∨ runPending s ∨ n < 64 ∨ 16384 < n ∨ n < guard s + 32 then
    refuseWrite s Reg.phasePage 0x0A Reg.DECISION_LAT
  else refit (plainWrite s Reg.DECISION_LAT v)

/-- GUARD_WRITE (R26, R27). -/
def guardWrite (v : Word) (s : State) : State :=
  let n := bits v 7 0
  if modeLocked s ∨ n < 1 ∨ lat s < n + 32 then refuseWrite s Reg.phasePage 0x0A Reg.GUARD
  else plainWrite s Reg.GUARD v

/-- PTP_CAPTURE_READ (R32): the read returns PTP_CAPTURE and copies the latest capture into the five words. -/
def ptpCaptureRead (s : State) : State :=
  let s := respond s [(reg s Reg.PTP_CAPTURE).toNat]
  match s.phase.capture with
  | none => s
  | some (ps, sec, ns) =>
    let s := setReg (setReg s Reg.PTP_CAP_ORBIT_LO (word ps.orbit)) Reg.PTP_CAP_ORBIT_HI (word (ps.orbit / 2 ^ 32 % 65536))
    let s := setReg (setReg s Reg.PTP_CAP_SEC_LO (word sec)) Reg.PTP_CAP_SEC_HI (word (sec / 2 ^ 32 % 65536))
    setReg s Reg.PTP_CAP_NS (word (ns % 2 ^ 30))

/-! ## The commands -/

/-- CROSSING_TICK. -/
def execCrossingTick (s : State) : Host.Outcome State Fault Refusal := .next (crossingTick s)
/-- SUBST_TICK. -/
def execSubstTick (s : State) : Host.Outcome State Fault Refusal := .next (substTick s)
/-- MCLK_FREQ_UPDATE. -/
def execMclkFreqUpdate (khz : BitVec 19) (s : State) : Host.Outcome State Fault Refusal := .next (mclkFreqUpdate khz s)
/-- MCLK_LOST. -/
def execMclkLost (s : State) : Host.Outcome State Fault Refusal := .next (mclkLost s)
/-- MCLK_OK. -/
def execMclkOk (s : State) : Host.Outcome State Fault Refusal := .next (mclkOk s)
/-- MORB_MARKER. -/
def execMorbMarker (s : State) : Host.Outcome State Fault Refusal := .next (morbMarker s)
/-- MISSING_MARKER. -/
def execMissingMarker (s : State) : Host.Outcome State Fault Refusal := .next (missingMarker s)
/-- PH_CTL_ARM. -/
def execPhCtlArm (s : State) : Host.Outcome State Fault Refusal := .next (phCtlArm s)
/-- REALIGN_NOW. -/
def execRealignNow (s : State) : Host.Outcome State Fault Refusal := .next (realignNow s)
/-- SUBST_ENABLE. -/
def execSubstEnable (s : State) : Host.Outcome State Fault Refusal := .next (substEnable s)
/-- SUBST_DISABLE. -/
def execSubstDisable (s : State) : Host.Outcome State Fault Refusal := .next (substDisable s)
/-- MCMD_LOCK_ACQUIRED. -/
def execMcmdLockAcquired (s : State) : Host.Outcome State Fault Refusal := .next (mcmdLockAcquired s)
/-- MCMD_LOCK_LOST. -/
def execMcmdLockLost (s : State) : Host.Outcome State Fault Refusal := .next (mcmdLockLost s)
/-- MCMD_FRAME. -/
def execMcmdFrame (w : BitVec 16) (check : Byte) (codeErr : Bool) (s : State) : Host.Outcome State Fault Refusal :=
  .next (mcmdFrame w check codeErr s)
/-- MCMD_NOP: type 0x0, its argument ignored. -/
def execMcmdNop (s : State) : Host.Outcome State Fault Refusal := .next (actCmd (· = 0) (fun _ _ => true) (fun _ s => s) s)
/-- CROSSING_RESET: type 0x1. -/
def execCrossingReset (s : State) : Host.Outcome State Fault Refusal :=
  .next (actCmd (· = 1) (fun s a => argZero s a && unlockedMode s a) (fun _ => crossingResetEffect) s)
/-- ORBIT_RESET: type 0x2. -/
def execOrbitReset (s : State) : Host.Outcome State Fault Refusal :=
  .next (actCmd (· = 2) unlockedMode (fun a s => modPhase s (fun ph => { ph with orbitResetAt := some (ph.count, a) })) s)
/-- ORBIT_RESET_APPLY. -/
def execOrbitResetApply (s : State) : Host.Outcome State Fault Refusal := .next (orbitResetApply s)
/-- RUN_START: type 0x3, in device mode RUN only. -/
def execRunStart (s : State) : Host.Outcome State Fault Refusal :=
  .next (actCmd (· = 3) (fun s _ => mode s = 4) runStartEffect s)
/-- RUN_STOP: type 0x4. -/
def execRunStop (s : State) : Host.Outcome State Fault Refusal := .next (actCmd (· = 4) argZero (fun _ => runStopEffect) s)
/-- ADMISSION_START. -/
def execAdmissionStart (s : State) : Host.Outcome State Fault Refusal := .next (admissionStart s)
/-- ADMISSION_STOP. -/
def execAdmissionStop (s : State) : Host.Outcome State Fault Refusal := .next (admissionStop s)
/-- CAL_WINDOW: type 0x5. -/
def execCalWindow (s : State) : Host.Outcome State Fault Refusal := .next (actCmd (· = 5) (fun _ _ => true) calWindowEffect s)
/-- CAL_WINDOW_OPEN. -/
def execCalWindowOpen (s : State) : Host.Outcome State Fault Refusal := .next (calWindowOpen s)
/-- CAL_WINDOW_CLOSE. -/
def execCalWindowClose (s : State) : Host.Outcome State Fault Refusal := .next (calWindowClose s)
/-- TEST_PULSE: type 0x6. -/
def execTestPulse (s : State) : Host.Outcome State Fault Refusal := .next (actCmd (· = 6) (fun _ _ => true) testPulseEffect s)
/-- TEST_PULSE_CROSSING. -/
def execTestPulseCrossing (s : State) : Host.Outcome State Fault Refusal := .next (testPulseCrossing s)
/-- HOLD: type 0x7. -/
def execHold (s : State) : Host.Outcome State Fault Refusal := .next (actCmd (· = 7) argZero (fun _ s => setPhStat s 4 true) s)
/-- RESUME: type 0x8. -/
def execResume (s : State) : Host.Outcome State Fault Refusal := .next (actCmd (· = 8) argZero (fun _ s => setPhStat s 4 false) s)
/-- SYNC_CHECK: type 0x9. -/
def execSyncCheck (s : State) : Host.Outcome State Fault Refusal := .next (actCmd (· = 9) (fun _ _ => true) syncCheckEffect s)
/-- MCMD_RESERVED_TYPE. -/
def execMcmdReservedType (s : State) : Host.Outcome State Fault Refusal := .next (reservedCmd s)
/-- CMD_INJECT. -/
def execCmdInject (w : BitVec 16) (s : State) : Host.Outcome State Fault Refusal := .next (cmdInject w s)
/-- ORBIT_LEN_WRITE. -/
def execOrbitLenWrite (v : Word) (s : State) : Host.Outcome State Fault Refusal := .next (orbitLenWrite v s)
/-- ORBIT_LEN_APPLY. -/
def execOrbitLenApply (s : State) : Host.Outcome State Fault Refusal := .next (orbitLenApply s)
/-- DECISION_LAT_WRITE. -/
def execDecisionLatWrite (v : Word) (s : State) : Host.Outcome State Fault Refusal := .next (decisionLatWrite v s)
/-- GUARD_WRITE. -/
def execGuardWrite (v : Word) (s : State) : Host.Outcome State Fault Refusal := .next (guardWrite v s)
/-- PTP_CAPTURE_READ. -/
def execPtpCaptureRead (s : State) : Host.Outcome State Fault Refusal := .next (ptpCaptureRead s)

end Sys2Proof.Machine
end

