-- ==== Sys2Proof/Machine/Lanes.lean ====
section
/-! DEFINITION. Lanes: configuration and its refusals, bonded pairs, lane states, and HELLO blocks (R54–R73). -/

namespace Sys2Proof.Machine

/-! ## Configuration (R54–R56, R65, R68, R71) -/

/-- LANE_CTL.mode of a lane: 0 OFF, 1 STROKE, 2 ETH, 3 ETH100, 4 BONDED, 5 SKOVUB. -/
def laneMode (s : State) (n : Nat) : Nat := fld s (Reg.LANE_CTL n) 11 8
/-- LANE_CTL.cfh_off. -/
def laneCfh (s : State) (n : Nat) : Nat := fld s (Reg.LANE_CTL n) 23 18
/-- LANE_CTL.vlan_en. -/
def laneVlan (s : State) (n : Nat) : Bool := flag s (Reg.LANE_CTL n) 2
/-- The lane that a lane's link appears as: lane 2k for the odd lane of a bonded pair (R68). -/
def linkOf (s : State) (n : Nat) : Nat := if n % 2 = 1 ∧ laneMode s n = 4 then n - 1 else n
/-- The lanes of the link that appears as lane `n`. -/
def linkLanes (s : State) (n : Nat) : List Nat := if laneMode s n = 3 ∧ laneMode s (n + 1) = 4 then [n, n + 1] else [n]
/-- The lane is enabled: its own bit, its page's, and its group's domain (R54, R69, R386). -/
def laneOn (s : State) (n : Nat) : Bool := domainOn s (4 + n / 32) && enField s (Reg.lanePage n) (Reg.LANE_CTL n) 0
/-- LANE_STAT.state of a lane's link: 0 OFF, 1 ACQUIRE, 2 UP, 3 DOWN (R69). -/
def laneState (s : State) (n : Nat) : Nat := fld s (Reg.LANE_STAT (linkOf s n)) 1 0
/-- A lane that carries frames of the frame path is UP. -/
def frameLane (s : State) (n : Nat) : Bool := laneState s n = 2 && decide (1 ≤ laneMode s n ∧ laneMode s n ≤ 3)

/-- A lane in near-end loopback receives what it sends, and only that. LANE_CTL.loopback acts in TEST alone (R339; log entry
190). -/
def looped (s : State) (n : Nat) : Bool := mode s = 7 && flag s (Reg.LANE_CTL n) 1

/-- The mode, rate and FEC setting of a LANE_CTL word are accepted on lane `n` (R56, R283, R284). -/
def comboOk (s : State) (n : Nat) (w : Word) : Bool :=
  let rate := bits w 15 12
  let fec := bit w 3
  match bits w 11 8 with
  | 0 => true
  | 1 => (decide (rate ≤ 8) && !fec) || rate = 9 || rate = 10
  | 2 => (rate = 5 && !fec) || rate = 7 || (rate = 9 && fec)
  | 3 => rate = 9 && fec && n % 2 = 0
  | 4 => rate = 9 && fec && n % 2 = 1 && laneMode s (n - 1) = 3
  | 5 => role s != 0 && bits w 7 4 = 0 && (((rate = 7 || rate = 8) && !fec) || ((rate = 9 || rate = 10) && fec))
  | _ => false

/-- The fields that do not change while enable is 1: cfh_off, rate, mode, pid, fec_en, vlan_en (R71). -/
def laneCfgMask : Word := 0x00FCFFFC

/-- The configuration fields of a LANE_CTL write are accepted (R56, R65, R71, R267); enable may always be cleared (R71). -/
def laneCfgOk (s : State) (n : Nat) (old new : Word) : Bool :=
  (bit old 0 && !bit new 0 && old ^^^ new = 1) ||
  (comboOk s n new && decide (bits new 23 18 ≤ 32) && ((old ^^^ new) &&& laneCfgMask = 0 ||
    (!flag s (Reg.LANE_CTL (linkOf s n)) 0 && (bits old 7 4 = bits new 7 4 || mayMove s (bits old 7 4) (bits new 7 4)))))

/-- Lane `n` may be enabled with the LANE_CTL word `new`: its group's domain is on, its partition has the frame path,
and in RUN the decision latency still fits (R54, R241, R345). -/
def laneEnableOk (s : State) (n : Nat) (new : Word) : Bool :=
  domainOn s (4 + n / 32) && decide (2 ≤ partState s (bits new 7 4))
  && (mode s ≠ 4 || decide (lat s ≤ maxLatOf s (sumRate (fun k => rateWord s k (if k = n then new else reg s (Reg.LANE_CTL k))))))

/-! ## Lane states (R69, R70, R72) -/

/-- Set the state of a link on each of its lanes. -/
def setLaneState (s : State) (n st : Nat) : State :=
  (linkLanes s n).foldl (fun s k =>
    setFlag (setFld s (Reg.LANE_STAT k) 1 0 st) (Reg.SG_LANE_UP (k / 32)) (k % 32) (st = 2)) s

/-- The frame being received is dropped as LINK_CHECK; a header that waits for a Stylus pipe stays in its turn (R60, R70,
R77). -/
def cutRx (s : State) (n : Nat) : State :=
  match (lane s n).rx with
  | none =>
    if (lane s n).held = [] then s
    else modLane (count (count s (Reg.RX_FRAMES n)) (Reg.DROP_LINK_CHECK n)) n (fun l => { l with held := [] })
  | some f =>
    let s := count (count s (Reg.RX_FRAMES n)) (Reg.DROP_LINK_CHECK n)
    modLane s n (fun l => { l with
      rx := none
      ended := if f.cause.isNone && f.result.isNone then
          l.ended ++ [{ f with fin := some { ok := false, parse := f.parse, len := 0, carry := 0 } }] else l.ended })

/-- The link leaves the frames it carries: the one received is dropped, the one sent is stomped (R70, R72). -/
def leaveFrames (s : State) (n : Nat) : State :=
  modLane (cutRx s n) n (fun l => { l with tx := l.tx.map (fun f => { f with stomp := true }) })

/-- What is counted when a link leaves UP (R70). -/
def leaveUp (s : State) (n : Nat) : State := irq (count s (Reg.DOWN_EVENTS n)) (Reg.lanePage n) 0

/-- Every Skovub port that joins lane `n` is DOWN: its link needs training again (R288). -/
def portsLose (s : State) (n : Nat) : State :=
  (List.range 32).foldl (fun s k =>
    if flag s (Reg.SK_PCFG k) 31 ∧ (fld s (Reg.SK_PCFG k) 14 8 = n ∨ flag s (Reg.SK_PCFG k) 30 ∧ fld s (Reg.SK_PCFG k) 22 16 = n)
      ∧ (portState s k = 1 ∨ portState s k = 2) then
      setFld (modPort s k (fun p => { p with probing := false, probes := [] })) (Reg.SK_PSTAT k) 31 30 3 else s) s

/-- The lane becomes OFF: no fault, and its crossings are no longer marked (R69, R70). -/
def laneOff (n : Nat) (s : State) : State :=
  let s1 := leaveFrames (if laneState s n = 2 then leaveUp s n else s) n
  let s1 := (linkLanes s n).foldl (fun s k => setFld s (Reg.LANE_STAT k) 6 5 0) (setLaneState s1 n 0)
  portsLose (modLane s1 n (fun l => { l with qsDown := false })) n

/-- The enabled lane begins to acquire lock; in mode OFF it stays OFF (R69). -/
def laneAcquire (n : Nat) (s : State) : State :=
  if laneOn s n ∧ laneMode s n ≠ 0 ∧ laneMode s n ≠ 4 ∧ laneState s n = 0 then setLaneState s n 1 else s

/-- Bring a lane's state in line with its enables: after a write of PG_CTL.enable or a domain switch. -/
def laneSync (n : Nat) (s : State) : State :=
  if laneMode s n = 4 then s else if laneOn s n then laneAcquire n s else if laneState s n = 0 then s else laneOff n s

/-- A write of LANE_CTL (R54, R56, R65, R68, R71, R241). The enable of a BONDED lane is stored and
ignored. -/
def laneCtlWrite (n : Nat) (v : Word) (s : State) : State :=
  let old := reg s (Reg.LANE_CTL n)
  let new := v &&& 0x00FCFFFF
  let own := bits new 11 8 ≠ 4
  let was := bit old 0 && bits old 11 8 ≠ 4
  let on := own && bit new 0 && !was
  if ¬ laneCfgOk s n old new ∨ (on ∧ ¬ laneEnableOk s n new) then refuseWrite s (Reg.lanePage n) 0x03 (Reg.LANE_CTL n)
  else
    let s := setReg s (Reg.LANE_CTL n) new
    if ¬ own ∨ was = bit new 0 then s
    else refit (if bit new 0 then laneAcquire n s else laneOff n s)

/-- LANE_ENABLE: a write of enable 1, the other fields as they are. -/
def laneEnable (n : Nat) (s : State) : State := laneCtlWrite n (setBit (reg s (Reg.LANE_CTL n)) 0 true) s

/-- LANE_DISABLE: a write of enable 0. -/
def laneDisable (n : Nat) (s : State) : State := laneCtlWrite n (setBit (reg s (Reg.LANE_CTL n)) 0 false) s

/-- A sync header that R58 knows: data or control. -/
def validSync (h : BitVec 2) : Bool := h = 1 || h = 2

/-- The last 64 sync headers received. -/
def last64 (l : List (BitVec 2)) : List (BitVec 2) := l.drop (l.length - 64)

/-- BLOCK_LOCK_ACQUIRED: after 64 consecutive valid sync headers the receiver of a lane that acquires or is DOWN gains
block lock (R60). -/
def blockLockAcquired (n : Nat) (headers : List (BitVec 2)) (s : State) : State :=
  if (laneState s n = 1 ∨ laneState s n = 3) ∧ 64 ≤ headers.length ∧ (last64 headers).all validSync then
    setFld s (Reg.LANE_STAT n) 5 4 3 else s

/-- BLOCK_LOCK_LOST: the receiver of a lane that is not UP loses block lock, after 16 invalid sync headers within 64 blocks
or without a signal (R60). -/
def blockLockLost (n : Nat) (headers : List (BitVec 2)) (noSignal : Bool) (s : State) : State :=
  if ¬ (laneState s n = 1 ∨ laneState s n = 3) then s
  else if noSignal then setFld s (Reg.LANE_STAT n) 6 4 0
  else if 16 ≤ ((last64 headers).filter (fun h => !validSync h)).length then setFld s (Reg.LANE_STAT n) 6 5 0
  else s

/-- The link's receiver uses FEC (R56, R57). -/
def usesFec (s : State) (n : Nat) : Bool := laneMode s n = 3 || flag s (Reg.LANE_CTL n) 3

/-- LANE_UP: every lock of the link has been held for 10 µs (R69): block lock on each of its lanes and, where it uses FEC,
FEC and alignment lock; `align` is none without the latter, else the skew in ns between the lanes of a 100GBASE-R link. A
skew above 180 ns keeps that link out of UP (R68). A lane that went DOWN shows DOWN until it is UP again (log entry 168).
The crossing of the return is the last one marked (R72). -/
def laneUp (n : Nat) (align : Option Nat) (s : State) : State :=
  if linkOf s n = n ∧ laneOn s n ∧ (laneState s n = 1 ∨ laneState s n = 3) ∧ (laneMode s n = 3 → laneMode s (n + 1) = 4)
    ∧ (linkLanes s n).all (fun k => flag s (Reg.LANE_STAT k) 5) ∧ (usesFec s n → align.isSome) then
    if laneMode s n = 3 ∧ align.any (fun ns => 180 < ns) then fault s (Reg.lanePage n) 0x06 else
    let s1 := setLaneState s n 2
    let s1 := (linkLanes s n).foldl (fun t k => setFlag t (Reg.LANE_STAT k) 6 (usesFec s n)) s1
    irq (modLane s1 n (fun l => { l with qsDown := false })) (Reg.lanePage n) 1
  else s

/-- Mark the current crossing QS for partition `p` (R70). -/
def markQs (s : State) (p : Nat) : State :=
  if s.phase.started ∧ s.phase.counting then
    modXing s s.phase.count (fun x => { x with b := s.phase.count, ps := s.phase.now, qs := x.qs ||| (1#16 <<< p) })
  else s

/-- LANE_DOWN: an UP lane loses lock, or its signal (R60, R70). Either lane of a bonded pair takes the link down; the odd
one counts its own lock loss too (R68; DEDUCED, log entry 76). -/
def laneDown (k : Nat) (signalLost : Bool) (s : State) : State :=
  let n := linkOf s k
  if laneState s n ≠ 2 then s
  else
    let s := leaveUp (setLaneState (leaveFrames s n) n 3) n
    let s := if k = n then s else count s (Reg.DOWN_EVENTS k)
    let s := setFld s (Reg.LANE_STAT k) 6 4 (if signalLost then 0 else fld s (Reg.LANE_STAT k) 4 4)
    let s := markQs (modLane s n (fun l => { l with qsDown := true })) (lanePid s n)
    let s := portsLose s n
    let s := if mode s = 4 then showRecovery s 2 n else s
    fault s (Reg.lanePage n) (if signalLost then 0x01 else 0x00)

/-! ## Blocks (R58, R59) -/

/-- How the blocks of a frame end: with their EOF, at a code error, or otherwise broken off (R59, R60). -/
inductive FrameEnding where
  | ended | codeErr | broken
  deriving DecidableEq, Repr

/-- Byte 0 of a control block: its type. -/
def blockType (b : Block) : Nat := (b.bytes.getD 0 0).toNat

/-- The final bytes of an EOF block, by its type (R58). -/
def eofLen (ty : Nat) : Option Nat :=
  match ty with
  | 0x87 => some 0 | 0x99 => some 1 | 0xAA => some 2 | 0xB4 => some 3
  | 0xCC => some 4 | 0xD2 => some 5 | 0xE1 => some 6 | 0xFF => some 7
  | _ => none

/-- The type of the EOF block with `k` final bytes. -/
def eofType (k : Nat) : Byte := ([0x87, 0x99, 0xAA, 0xB4, 0xCC, 0xD2, 0xE1, 0xFF] : List Byte).getD k 0

/-- The bytes of a frame after its SOF, and how it ends (R59, R60). Any block that may not stand inside a frame is a code
error (DEDUCED, log entry 169); an SOF breaks the frame off. -/
def afterSof : List Block → List Byte × FrameEnding
  | [] => ([], .broken)
  | b :: l =>
    if b.sync = 1 then
      let r := afterSof l
      (slice b.bytes 0 8 ++ r.1, r.2)
    else if b.sync ≠ 2 then ([], .codeErr)
    else if blockType b = 0x78 then ([], .broken)
    else match eofLen (blockType b) with
      | some k => (slice b.bytes 1 k, .ended)
      | none => ([], .codeErr)

/-- The bytes of the link frame that a lane received, and how it ended; blocks that do not begin with an SOF are no frame. -/
def receivedFrame : LinkFrame → Option (List Byte × FrameEnding)
  | .bytes l codeErr => some (l, if codeErr then .codeErr else .ended)
  | .blocks [] => none
  | .blocks (b :: l) =>
    if b.sync = 2 ∧ blockType b = 0x78 then
      let r := afterSof l
      some (slice b.bytes 1 7 ++ r.1, r.2)
    else none

/-- The blocks of a frame after its first 7 bytes; `fuel` is at least the number of bytes. -/
def bodyBlocks : Nat → List Byte → List Block
  | 0, _ => []
  | fuel + 1, l =>
    if l.length < 8 then [{ sync := 2, bytes := eofType l.length :: slice l 0 7 }]
    else { sync := 1, bytes := l.take 8 } :: bodyBlocks fuel (l.drop 8)

/-- The blocks of a link frame: SOF, data, EOF (R58, R59). -/
def frameBlocks (l : List Byte) : List Block :=
  { sync := 2, bytes := 0x78 :: slice l 0 7 } :: bodyBlocks (l.length + 1) (l.drop 7)

/-! ## HELLO blocks and Ethernet fault signalling (R57, R61) -/

/-- The HELLO block of lane `n` (R58). -/
def helloBlock (n : Nat) (remoteFault : Bool) : Block :=
  { sync := 2, bytes := [0x4B, 0x5A, BitVec.ofNat 8 n, BitVec.ofNat 8 remoteFault.toNat, 0, 0, 0, 0] }

/-- The lane sends Stroke blocks: modes STROKE and SKOVUB. -/
def strokeBlocks (s : State) (n : Nat) : Bool := laneMode s n = 1 || laneMode s n = 5

/-- The lane carries an Ethernet link: modes ETH and ETH100. -/
def etherLane (s : State) (n : Nat) : Bool := laneMode s n = 2 || laneMode s n = 3

/-- HELLO_SEND: between frames, the remote-fault bit while the own receiver is not UP (R61). An Ethernet lane tells its
peer of a receiver that is not UP by Remote Fault (R57; PRESUMED from clause 81, log entry 170). -/
def helloSend (n : Nat) (s : State) : State :=
  if laneState s n = 0 ∨ (lane s n).tx.isSome then s
  else if strokeBlocks s n then emit s (.hello n (helloBlock n (laneState s n ≠ 2)))
  else if etherLane s n ∧ laneState s n ≠ 2 then emit s (.remoteFault n)
  else s

/-- The peer's receiver has a fault, or no longer has one: LANE_STAT, a NOTE, and the interrupt of a change (R61, R73). -/
def peerFault (n : Nat) (remote : Bool) (s : State) : State :=
  let was := flag s (Reg.LANE_STAT n) 7
  let s := setFlag s (Reg.LANE_STAT n) 7 remote
  let s := if remote then note s (Reg.lanePage n) 0x07 else s
  if was = remote then s else irq s (Reg.lanePage n) 2

/-- HELLO_RECEIVE: LANE_STAT takes the fields of a HELLO block (R58, R61), or without one the fault state of an Ethernet peer
(R57; PRESUMED from clause 81, log entry 170). A block that is no HELLO says nothing. -/
def helloReceive (n : Nat) (hello : Option Block) (remoteFault : Bool) (s : State) : State :=
  if laneState s n = 0 ∨ ¬ flag s (Reg.LANE_STAT n) 5 then s
  else match hello with
    | some b =>
      if strokeBlocks s n ∧ b.sync = 2 ∧ slice b.bytes 0 2 = [0x4B, 0x5A] then
        peerFault n (bit (b.bytes.getD 3 0) 0) (setFld s (Reg.LANE_STAT n) 15 8 (b.bytes.getD 2 0).toNat)
      else s
    | none => if etherLane s n then peerFault n remoteFault s else s

/-- The transmitter of an Ethernet lane whose peer signals Remote Fault sends no frames (R57; PRESUMED from clause 81, log
entry 170). -/
def txOpen (s : State) (n : Nat) : Bool := !(etherLane s n && flag s (Reg.LANE_STAT n) 7)

/-! ## The commands -/

/-- LANE_ENABLE. -/
def execLaneEnable (n : LaneId) (s : State) : Host.Outcome State Fault Refusal := .next (laneEnable n s)
/-- LANE_DISABLE. -/
def execLaneDisable (n : LaneId) (s : State) : Host.Outcome State Fault Refusal := .next (laneDisable n s)
/-- BLOCK_LOCK_ACQUIRED. -/
def execBlockLockAcquired (seen : LaneHeaders) (s : State) : Host.Outcome State Fault Refusal :=
  .next (blockLockAcquired seen.lane seen.headers s)
/-- BLOCK_LOCK_LOST. -/
def execBlockLockLost (why : LockLoss) (s : State) : Host.Outcome State Fault Refusal :=
  .next (blockLockLost why.lane why.headers why.noSignal s)
/-- LANE_UP. -/
def execLaneUp (locks : LaneLocks) (s : State) : Host.Outcome State Fault Refusal := .next (laneUp locks.lane locks.align s)
/-- LANE_DOWN. -/
def execLaneDown (n : LaneId) (signalLost : Bool) (s : State) : Host.Outcome State Fault Refusal :=
  .next (laneDown n signalLost s)
/-- HELLO_SEND. -/
def execHelloSend (n : LaneId) (s : State) : Host.Outcome State Fault Refusal := .next (helloSend n s)
/-- HELLO_RECEIVE. -/
def execHelloReceive (n : LaneId) (hello : Option Block) (remoteFault : Bool) (s : State) : Host.Outcome State Fault Refusal :=
  .next (helloReceive n hello remoteFault s)

end Sys2Proof.Machine
end

