-- ==== Sys2Proof/Machine/Frames.lean ====
section
/-! DEFINITION. Frames on their way in: header capture and drop causes, the Stylus pipes, the end of a frame, the FDs
that it makes, the copy rate limiter, and the stand-alone classification (R38–R52, R74–R83, R353). -/

namespace Sys2Proof.Machine

/-- The 32 bytes at the lane's CFH offset of the first 64 bytes of a frame (R65, R74). -/
def cfhOf (s : State) (n : Nat) (head : List Byte) : List Byte := slice head (laneCfh s n) 32

/-- CFH fields (R63). -/
def cfhFlag (c : List Byte) (i : Nat) : Bool := bit (c.getD 4 0) i
def cfhChannel (c : List Byte) : Nat := beAt c 5 3
def cfhPs (c : List Byte) : PS := { orbit := beAt c 8 6, index := beAt c 14 2 }
def cfhSeq (c : List Byte) : Nat := beAt c 16 2
def cfhLen (c : List Byte) : Nat := beAt c 18 2
def cfhUser (c : List Byte) : Nat := beAt c 24 4

/-- The first of steps 1 to 4 of R74 that fails, or 0. -/
def parseStep (s : State) (c : List Byte) : Nat :=
  if beAt c 0 2 ≠ 0xD1A6 then 1
  else if beAt c 2 1 ≠ 0x01 then 2
  else if (crc16 (slice c 0 30)).toNat ≠ beAt c 30 2 then 3
  else if orbitLen s ≤ beAt c 14 2 then 4
  else 0

/-- A frame of a lane in an Ethernet mode that does not go to the frame path (R66). -/
def otherEtype (s : State) (n : Nat) (f : List Byte) : Bool :=
  laneMode s n != 1 && !(beAt f 12 2 = 0x88B5 || (beAt f 12 2 = 0x8100 && beAt f 16 2 = 0x88B5))

/-- No phase: MCLK lost, or the phase not aligned; the substitute phase counts as one (R24, R40). -/
def noPhase (s : State) : Bool := !(s.phase.started && phStat s 1 && (phStat s 0 || substOn s))

/-- The stand-alone default on the substitute phase stores every frame under the current crossing (R353). -/
def standaloneSubst (s : State) : Bool := mode s = 2 && substOn s

/-- The age of a frame with stamp `ps` (R40). -/
def ageOfPs (s : State) (ps : PS) : Int := ageOf s 48 ps.orbit ps.index

/-- The cause among NO_PHASE, STALE and FUTURE that drops a frame; `current` frames have age 0 (R39, R40, R353). -/
def stampCause (s : State) (current : Bool) (ps : PS) : Option DropCause :=
  let age := ageOfPs s ps
  if noPhase s then some .noPhase
  else if current then none
  else if (lat s + copyHold s : Int) < age ∨ ageOfPs s s.phase.firstLabel < age then some .stale
  else if age < -1024 then some .future
  else none

/-- FDs and headers that wait in the dispatch stage (R40, R77). -/
def dispatchWaiting (s : State) : Nat := s.dispatchQ.length + s.stylusQ.length

/-- The counter of a drop cause on the lane's page. -/
def causeReg (n : Nat) : DropCause → Nat
  | .noPhase => Reg.DROP_NO_PHASE n
  | .stale => Reg.DROP_STALE n
  | .future => Reg.DROP_FUTURE n
  | .scrollFull => Reg.DROP_SCROLL_FULL n
  | .dispatchFull => Reg.DROP_DISPATCH_FULL n

/-- A frame of crossing `b` is dropped as SCROLL_FULL: the crossing is dead for partition `p` (R237). -/
def scrollFull (s : State) (p b : Nat) (ps : PS) : State :=
  let s := note (count s Reg.SC_DROP_FULL) Reg.scrollPage 0x03 1
  if bit (xing s b).dead p then s
  else count (modXing s b (fun x => { x with b := b, ps := ps, dead := x.dead ||| (1#16 <<< p) })) Reg.SC_DEAD_FULL

/-- HEADER_CAPTURE: the bytes of a frame arrive in the lane buffer of an UP lane. Once 64 are held and the frame is one of
the frame path (R66), the causes of R40 are judged, and it takes its Scroll lines and its place before the Stylus
pipes. -/
def headerCapture (n : Nat) (head : List Byte) (s : State) : State :=
  if ¬ frameLane s n ∨ (lane s n).rx.isSome ∨ ¬ starts s (Reg.lanePage n) then s
  else if head.length < 64 ∨ otherEtype s n head then modLane s n (fun l => { l with held := head })
  else
    let s := modLane s n (fun l => { l with held := [] })
    let c := cfhOf s n head
    let step := parseStep s c
    let current := step ≠ 0 || standaloneSubst s
    let ps := if current then s.phase.now else cfhPs c
    let b := if current then s.phase.count else (countAt s (ageOfPs s ps)).toNat
    let lines := frameLines (cfhLen c) (step ≠ 0)
    let hold := fun (s : State) (cause : Option DropCause) (line : Nat) =>
      { modLane s n (fun l => { l with rx := some { head := head, parse := step, cause := cause, b := b, ps := ps, line := line,
                                                    lines := lines, order := s.frameOrder, result := none, fin := none } }) with
        frameOrder := s.frameOrder + 1 }
    let drop := fun (s : State) (cause : DropCause) => hold (count s (causeReg n cause)) (some cause) 0
    match stampCause s current ps with
    | some cause => drop s cause
    | none =>
      match scrollPlace s b ps lines with
      | (none, _) => drop (scrollFull s (lanePid s n) b ps) .scrollFull
      | (some line, t) =>
        if 4096 ≤ dispatchWaiting s then drop s .dispatchFull
        else
          let t := modXing t b (fun x => { x with frames := x.frames ++
            [{ lane := n, pid := lanePid s n, chan := cfhChannel c, line := line, len := 0, parseFail := step ≠ 0,
               good := false, order := s.frameOrder }] })
          hold { t with stylusQ := t.stylusQ ++ [n] } none line

/-! ## The copy rate limiter (R82) -/

/-- Take a token for a copy, or count the drop in `counter`. -/
def takeToken (s : State) (counter : Nat) : Bool × State :=
  let n := fld s Reg.ST_RL_TOKENS 15 0
  if n = 0 then (false, count s counter)
  else
    let s := setReg s Reg.ST_RL_TOKENS (word (n - 1))
    (true, if n = 1 then irq s Reg.stylusPage 0 else s)

/-- RL_TOKEN_REFILL: one token, up to the burst. -/
def rlTokenRefill (s : State) : State :=
  if ¬ starts s Reg.stylusPage then s
  else setReg s Reg.ST_RL_TOKENS (word (sat (fld s Reg.ST_RL_BURST 15 0) (fld s Reg.ST_RL_TOKENS 15 0 + 1)))

/-! ## The FDs of a frame (R43–R47, R52, R75, R78–R80) -/

/-- What the frame gives to each of its FDs. -/
structure FrameFd where
  n : Nat
  pid : Nat
  cfh : List Byte
  f : RxFrame
  e : RxEnd
  /-- Flags LATE, QS, CHKERR, HIT and FE_ERR. -/
  flags : Nat
  hints : Nat

/-- The age of a frame: 0 when steps 1 to 4 failed (R39), else from its crossing. -/
def frameAge (s : State) (f : RxFrame) : Int := if f.parse ≠ 0 then 0 else (s.phase.count : Int) - f.b

/-- The frame's age at the FD build exceeds L − GUARD (R52). -/
def lateFrame (s : State) (f : RxFrame) : Bool := decide ((lat s : Int) - guard s < frameAge s f)

/-- A word of the stored frame was read as uncorrectable before its FDs were built (R49). -/
def chkFrame (s : State) (f : RxFrame) : Bool := (xing s f.b).frames.any (fun g => g.order = f.order && g.chkerr)

/-- The frame's part of its FDs, at the FD build. -/
def frameFd (s : State) (n : Nat) (f : RxFrame) (e : RxEnd) : FrameFd :=
  let c := cfhOf s n f.head
  let p := lanePid s n
  { n := n
    pid := p
    cfh := c
    f := f
    e := e
    flags := (lateFrame s f).toNat + 32 * (chkFrame s f).toNat + 16 * (bit (xing s f.b).qs p).toNat + 256 * (cfhFlag c 0).toNat + 512 * (cfhFlag c 3).toNat
    hints := 1024 * (cfhFlag c 1).toNat + 512 * (cfhFlag c 2).toNat + 256 * (calOf s f.b).toNat + 128 * (tpOf s f.b).toNat }

/-- An FD of the frame. -/
def FrameFd.fd (x : FrameFd) (kind cls flags action entry queue : Nat) : FD :=
  mkFd kind x.pid cls x.n (x.flags + flags) action (cfhChannel x.cfh) (spsOf x.f.ps) (cfhSeq x.cfh) x.e.len
    (word x.f.line) x.e.carry x.hints entry queue 0x3FFF

/-- Deliver a HOST_COPY FD: to the partition's host ring, or as one message to CH3 of the Steward (R79). -/
def sendCopy (s : State) (x : FrameFd) (f : FD) : State :=
  if flag s Reg.ST_EXC_DEST x.pid then toRing s x.pid f x.f.ps
  else if chanRoom s 128 3 then chanPut s 128 3 (fdWords f)
  else note (count s Reg.ST_CH3_DROP) Reg.stylusPage 0x02

/-- A HOST_COPY FD through the rate limiter. `user` gives bits [31:14] of w7 where the rules state them, else they are
free (R47, R75, R79). -/
def hostCopy (s : State) (x : FrameFd) (counter cls flags entry : Nat) (user : Option Word) : State :=
  match takeToken s counter with
  | (false, s) => s
  | (true, s) =>
    let (u, s) := match user with
      | some u => (u, s)
      | none => fresh s
    let f := x.fd 3 cls flags 0x02 entry 0
    sendCopy s x { f with w7 := (u &&& 0xFFFFC000) ||| 0x3FFF }

/-- An INGRESS FD may go to class `c` for partition `p` (R80). -/
def classOpen (s : State) (c p : Nat) : Bool :=
  enField s Reg.stylusPage (Reg.ST_CLASS c) 31 && (c = 15 || fld s (Reg.ST_CLASS c) 27 24 = p)

/-- The first INGRESS FD of crossing `b` in a class of partition `p` is built: FIRST_FRAME instances (R192). -/
def firstFrame (s : State) (p : Nat) (f : RxFrame) : State :=
  if bit (xing s f.b).fdSeen p then s
  else
    let t := modXing s f.b (fun x => { x with b := f.b, ps := f.ps, fdSeen := x.fdSeen ||| (1#16 <<< p) })
    if lateFrame s f ∨ partState s p ≠ 3 ∨ ¬ admits s p ∨ ¬ dxTakes s ∨ ¬ dxEnabled s then t
    else (s.ductus.enabled.filter (fun k => tplPid s k = p && bits (tplWord s k 1) 31 29 = 4 && tplFilters s k f.b)).foldl
      (fun s k => (createInst s k f.b f.ps).1) t

/-- Build an INGRESS FD for class `c`, or count CLASS_DENIED (R80). -/
def ingress (s : State) (x : FrameFd) (c flags action entry queue : Nat) : State :=
  if classOpen s c x.pid then
    let s := if c = 15 then s else firstFrame s x.pid x.f
    let f := x.fd 0 c (if c = 15 then flags + 128 else flags) (if c = 15 then 0x10 else action) entry queue
    { s with dispatchQ := s.dispatchQ ++ [f] }
  else note (count s Reg.ST_CLASS_DENIED) Reg.stylusPage 0x01

/-- The FDs of a hit (R78, R80). -/
def hitFds (s : State) (x : FrameFd) (r : StylusResult) : State :=
  match r.action with
  | 1 => ingress s x r.cls 0 0x01 r.entry r.eq
  | 2 =>
    let fwd := r.copyFwd && classOpen s r.cls x.pid
    let s := if r.copyFwd then ingress s x r.cls 0 0x02 r.entry r.eq else s
    hostCopy s x Reg.ST_RL_DROP_COPY (if fwd then r.cls else 0) (if fwd ∧ r.cls = 15 then 128 else 0) r.entry none
  | 3 =>
    let s := ingress s x r.cls 8 0x03 r.entry r.eq
    { s with dispatchQ := s.dispatchQ ++ [x.fd 4 15 (8 + 128) 0x10 r.entry r.mq] }
  | _ => count s Reg.ST_DROP_ACTION

/-- The built-in decision of the stand-alone default: bit 0 of the slot of `b` (R353). -/
def builtinDecision (s : State) (x : FrameFd) : State :=
  if cfhFlag x.cfh 0 ∧ ¬ lateFrame s x.f ∧ ¬ substOn s then
    modDecision s 0 x.f.b (fun d => if d.closed then d else { d with bits := d.bits ||| 1 })
  else s

/-- The partition's frames are treated as DROP: it is FROZEN or FAULTED (R345). -/
def framesDropped (s : State) (p : Nat) : Bool := partState s p = 5 || partState s p = 7

/-- The Stylus result and the link check are both there: the frame's FDs are built, and the Copybook takes its hit or
its request to learn (R41, R75, R78–R80, R91, R95, R353). -/
def buildFds (n : Nat) (f : RxFrame) (e : RxEnd) (r : StylusResult) (s : State) : State :=
  let x := frameFd s n f e
  let key := cbKey x.pid (cfhChannel x.cfh)
  let made := fun (t : State) =>
    if lateFrame s f ∧ (t.dispatchQ.length ≠ s.dispatchQ.length ∨ fld t Reg.ST_RL_TOKENS 15 0 ≠ fld s Reg.ST_RL_TOKENS 15 0)
    then count t (Reg.LATE_FRAMES n) else t
  let s := if e.parse ≠ 0 then count s (Reg.PARSE_FAIL n) else s
  if mode s = 2 then
    if e.parse ≠ 0 then s
    else made (builtinDecision (ingress s x 15 0 0x10 0x1FFFFF n) x)
  else if framesDropped s x.pid then
    count (if e.parse = 0 ∧ ¬ r.miss then cbHit s key else s) Reg.ST_DROP_ACTION
  else if e.parse ≠ 0 then
    made (hostCopy s x Reg.ST_RL_DROP_PARSE 0 4 0x1FFFFF (some (word (cfhUser x.cfh))))
  else if r.miss then
    made (hostCopy (cbLearnRequest s x.pid key) x Reg.ST_RL_DROP_MISS 0 2 0x1FFFFF none)
  else made (hitFds (cbHit s key) x r)

/-! ## The Stylus pipes (R74–R77) -/

/-- The result of a header: parse failures, and every frame of the stand-alone default, get no lookup (R75, R353). -/
def classify (s : State) (n : Nat) (f : RxFrame) : StylusResult × State :=
  let none' : StylusResult := { miss := true, action := 0, cls := 0, eq := 0, mq := 0, copyFwd := false, entry := 0x1FFFFF }
  if f.parse ≠ 0 ∨ mode s = 2 then (none', s)
  else match cbLookup s (cbKey (lanePid s n) (cfhChannel (cfhOf s n f.head))) with
    | (none, t) => (none', t)
    | (some i, t) =>
      let e := entry s i
      ({ miss := false, action := entryAction e, cls := entryClass e, eq := entryEq e, mq := entryMq e,
         copyFwd := entryCopyFwd e, entry := i }, t)

/-- STYLUS_CLASSIFY: a pipe takes the header that has waited longest; `n` is its lane. A frozen STYLUS page lets headers
wait, but for those of a lane that is frozen too, whose begun frames it serves (R386; log entry 63). -/
def stylusClassify (n : Nat) (s : State) : State :=
  match s.stylusQ with
  | [] => s
  | h :: rest =>
    if h ≠ n ∨ ¬ (starts s Reg.stylusPage ∨ pageOn s Reg.stylusPage ∧ flag s (Reg.PG_CTL (Reg.lanePage n)) 2) then s
    else
      let s := { s with stylusQ := rest }
      match (lane s n).ended with
      | f :: more =>
        let (r, s) := classify s n f
        let s := modLane s n (fun l => { l with ended := more })
        match f.fin with
        | some e => if e.ok then buildFds n f e r s else s
        | none => s
      | [] => match (lane s n).rx with
        | some f =>
          let (r, s) := classify s n f
          modLane s n (fun l => { l with rx := some { f with result := some r } })
        | none => s

/-! ## The end of a frame (R40, R48, R62, R413) -/

/-- The CRC-32 at the end of a link frame matches the bytes before it (R59, R62). -/
def linkCrcOk (frame : List Byte) : Bool :=
  4 ≤ frame.length && (crc32 (frame.take (frame.length - 4))).toNat = leNat (frame.drop (frame.length - 4))

/-- Stored length and failing step of a frame whose link frame has ended: step 5 counts the bytes before the CRC (R38,
R39, R74). -/
def endOf (s : State) (n : Nat) (f : RxFrame) (frame : List Byte) : Nat × Nat :=
  let want := 32 + cfhLen (cfhOf s n f.head)
  let avail := frame.length - 4 - laneCfh s n
  (min want avail, if f.parse ≠ 0 then f.parse else if avail < want then 5 else 0)

/-- The entry of a stored frame once its end is known. -/
def storedEnd (s : State) (f : RxFrame) (len : Nat) (parse : Nat) (good : Bool) : State :=
  modXing s f.b (fun x => { x with frames := x.frames.map (fun g =>
    if g.order = f.order then { g with len := len, parseFail := parse ≠ 0, good := good } else g) })

/-- A stored frame has ended: its bytes stand in the Scroll, and its FDs are built once the Stylus result is there too. -/
def storedFrameEnd (n : Nat) (f : RxFrame) (frame : List Byte) (ok : Bool) (s : State) : State :=
  let (len, parse) := endOf s n f frame
  let bytes := slice frame (laneCfh s n) len
  let s := bw (bw (scrollWrite s f.line f.lines (lanePid s n) bytes) 19 len) (32 + n / 32) len
  let s := if ok then scrollGood s f.line f.lines else s
  let s := storedEnd s f len parse ok
  let e : RxEnd := { ok := ok, parse := parse, len := len, carry := crc32c bytes }
  match f.result with
  | some r => if ok then buildFds n f e r s else s
  | none => modLane s n (fun l => { l with ended := l.ended ++ [{ f with fin := some e }] })

/-- Count RS codewords on a lane: corrected, and uncorrectable ones with source 0x02 (R68, R73). -/
def countFec (s : State) (n corr uncorr : Nat) : State :=
  let s := if corr = 0 then s else countN s (Reg.FEC_CORR n) corr
  if uncorr = 0 then s else note (countN s (Reg.FEC_UNCORR n) uncorr) (Reg.lanePage n) 0x02

/-- The codewords of a link, on each of its lanes (R68). -/
def fecResults (s : State) (n : Nat) (fec fecOdd : FecCount) : State :=
  let s := countFec s n fec.corr fec.uncorr
  if linkLanes s n = [n] then s else countFec s (n + 1) fecOdd.corr fecOdd.uncorr

/-- FRAME_END: the link frame of a lane has ended: at its end, at a code error, or broken off; `fec` counts the codewords
that carried it, and `fecOdd` those on the odd lane of a bonded pair (R60, R68). A frame that the lane was not UP for has no end, and blocks without an SOF are no frame. -/
def frameEnd (n : Nat) (link : LinkFrame) (fec fecOdd : FecCount) (s : State) : State :=
  let rx := (lane s n).rx
  match receivedFrame link with
  | none => s
  | some (frame, ending) =>
  if ¬ frameLane s n ∨ (rx.isNone ∧ ¬ starts s (Reg.lanePage n)) then s
  else
    let s := modLane (count s (Reg.RX_FRAMES n)) n (fun l => { l with held := [] })
    let s := if ending = .codeErr then note s (Reg.lanePage n) 0x04 else s
    let s := fecResults s n fec fecOdd
    let fecErr := fec.uncorr ≠ 0 ∨ linkLanes s n ≠ [n] ∧ fecOdd.uncorr ≠ 0
    if rx.isNone ∧ otherEtype s n frame then count s (Reg.OTHER_ETYPE n)
    else
      let over9216 := decide (9216 < frame.length)
      let runt := decide (frame.length < 64)
      let check := linkCrcOk frame && !runt && ending = .ended && !decide fecErr
      let s := if over9216 then count s (Reg.DROP_OVERSIZE n) else s
      let s := if runt then count s (Reg.RUNT n) else s
      let s := if check then s else count s (Reg.DROP_LINK_CHECK n)
      match rx with
      | none => s
      | some f =>
        let s := modLane s n (fun l => { l with rx := none })
        if f.cause.isSome then s
        else if over9216 then
          (match f.result with
          | some _ => s
          | none => modLane s n (fun l => { l with
              ended := l.ended ++ [{ f with fin := some { ok := false, parse := f.parse, len := 0, carry := 0 } }] }))
        else storedFrameEnd n f frame check s

/-- A lane in loopback receives the link frame that it has sent (R339). -/
def loopBack (n : Nat) (bytes : List Byte) (s : State) : State :=
  if looped s n then
    frameEnd n (if laneMode s n = 1 then .blocks (frameBlocks bytes) else .bytes bytes false) {} {} (headerCapture n (bytes.take 64) s)
  else s

/-- From its peer a lane in loopback receives nothing. -/
def fromPeer (n : Nat) (f : State → State) (s : State) : State := if looped s n then s else f s

/-! ## The commands -/

/-- HEADER_CAPTURE. -/
def execHeaderCapture (n : LaneId) (head : List Byte) (s : State) : Host.Outcome State Fault Refusal :=
  .next (fromPeer n (headerCapture n head) s)
/-- STYLUS_CLASSIFY. -/
def execStylusClassify (n : LaneId) (s : State) : Host.Outcome State Fault Refusal := .next (stylusClassify n s)
/-- FRAME_END. -/
def execFrameEnd (n : LaneId) (frame : LinkFrame) (fec fecOdd : FecCount) (s : State) : Host.Outcome State Fault Refusal :=
  .next (fromPeer n (frameEnd n frame fec fecOdd) s)
/-- RL_TOKEN_REFILL. -/
def execRlTokenRefill (s : State) : Host.Outcome State Fault Refusal := .next (rlTokenRefill s)

end Sys2Proof.Machine
end

