-- ==== Sys2Proof/Machine/Ligature.lean ====
section
/-! DEFINITION. The dispatch stage and the Ligature: slots, completions, timeouts, release in order, re-dispatch, and the
FD_SUBMIT and FD_STAT ports (R42, R51, R53, R81, R152, R211–R214, R333). -/

namespace Sys2Proof.Machine

/-! ## Keys (R51) -/

/-- SPS `a` comes before SPS `b` in crossing order (R30, R51). -/
def spsLt (a b : Word) : Bool :=
  let d := (bits b 31 16 + 65536 - bits a 31 16) % 65536
  if d = 0 then decide (bits a 15 0 < bits b 15 0) else decide (d ≤ 32767)

/-- Key order of (SPS, lane, sequence): `a` is smaller than `b`. -/
def keyLt (a b : Word × Nat × Nat) : Bool :=
  if a.1 ≠ b.1 then spsLt a.1 b.1
  else if a.2.1 ≠ b.2.1 then decide (a.2.1 < b.2.1)
  else let d := (b.2.2 + 65536 - a.2.2) % 65536; decide (1 ≤ d ∧ d ≤ 32767)

/-- The key of an FD. -/
def fdKey (f : FD) : Word × Nat × Nat := (f.w2, fdLane f, fdSeq f)

/-! ## Slots (R211) -/

/-- The slots in use. -/
def usedSlots (s : State) : List (Nat × Slot) := s.slots.filterMap (fun e => e.2.map (fun x => (e.1, x)))
/-- Slots of class `c` in use, from its reserve and altogether. -/
def classReserved (s : State) (c : Nat) : Nat := ((usedSlots s).filter (fun e => e.2.cls = c && e.2.reserved)).length
def classUsed (s : State) (c : Nat) : Nat := ((usedSlots s).filter (fun e => e.2.cls = c)).length
/-- LG_CFG.reserve of a class, and of all. -/
def reserveOf (s : State) (c : Nat) : Nat := fld s (Reg.LG_CFG c) 13 0
def reserveSum (s : State) : Nat := ((List.range 16).map (reserveOf s)).sum
/-- Free slots of the shared pool: LG_FREE. -/
def poolFree (s : State) : Nat := 16384 - reserveSum s - ((usedSlots s).filter (fun e => !e.2.reserved)).length
/-- LG_TMO of a class: timeout and hold in crossings. -/
def ligTimeoutOf (s : State) (c : Nat) : Nat := fld s (Reg.LG_TMO c) 29 16
def ligHold (s : State) (c : Nat) : Nat := fld s (Reg.LG_TMO c) 13 0
/-- The largest key released in a class. -/
def maxKeyOf (s : State) (c : Nat) : Option (Word × Nat × Nat) := Tbl.get (fun _ => none) s.maxKey c

/-- The count of the crossing that a frame of the device stands under: that of the entry with the FD's SPS, else by the
current labels (R8, R30). -/
def xingOfSps (s : State) (w : Word) : Nat :=
  match (s.xings.filter (fun e => (!e.2.extents.isEmpty || e.2.freed) && spsOf e.2.ps = w)).getLast? with
  | some e => e.1
  | none => (countAt s (ageOf s 16 (bits w 31 16) (bits w 15 0))).toNat

/-- An FD takes a slot of its class: from the reserve while one is free there, else from the pool; which free number is
open (log entry 9). A slot whose class has released a larger key is UNORDERED (R51). -/
def takeSlot (s : State) (f : FD) (tid : Option Nat) : Option (Nat × FD × State) :=
  let c := fdClass f
  let res := decide (classReserved s c < reserveOf s c)
  if ¬ res ∧ poolFree s = 0 then none
  else match pick s 16384 (fun k => (slot s k).isSome) with
    | (none, _) => none
    | (some k, s) =>
      let un := match maxKeyOf s c with
        | some m => keyLt (fdKey f) m
        | none => false
      let f := if un then fdSetFlag f 11 else f
      let f := { f with w7 := setBits f.w7 13 0 k }
      let x : Slot := { cls := c, pid := fdPid f, fd := f, b := xingOfSps s f.w2, takenAt := s.phase.count, order := s.slotOrder,
                        unordered := un, done := if c = 15 then some f else none, hole := false, reserved := res, tid := tid }
      let s := { setSlot s k (some x) with slotOrder := s.slotOrder + 1, holes := Tbl.set (fun _ => none) s.holes k none }
      some (k, f, s)

/-! ## Dispatch (R42, R81) -/

/-- The thread list of a class: thread the major key, Nib the minor one (R81). -/
def classThreads (s : State) (c : Nat) : List Nat :=
  let w := reg s (Reg.ST_CLASS c)
  ((List.range 8).filter (fun i => bit w (16 + i))).flatMap (fun i =>
    ((List.range (bits w 15 8)).map (fun j => bits w 6 0 + j)).filterMap (fun n => if n < 128 then some (tidOf n i) else none))

/-- The next thread of a class's round robin that can take an FD, with its place in the list. -/
def nextThread (s : State) (c : Nat) : Option (Nat × Nat) :=
  let l := classThreads s c
  let start := Tbl.get (fun _ => 0) s.classNext c
  ((List.range l.length).map (fun i => ((start + i) % l.length, l.getD ((start + i) % l.length) 0))).find?
    (fun q => !(nib s (nibOf q.2)).fenced && !ch0Full s q.2)

/-- A slot that waits for its FD's re-dispatch (R333). -/
def heldSlot (s : State) (f : FD) : Option Slot := if bit f.w0 10 then slot s (fdSlot f) else none

/-- DISPATCH: the FD of class `c` that was built first gets its slot and its thread; in class 15 it is complete at once
(R37). While no thread has room or no slot is free it waits. A frame with CHKERR is dropped here (R49); a slot that it
holds already is released without effect. -/
def dispatchClass (c : Nat) (s : State) : State :=
  if ¬ starts s Reg.stylusPage ∨ ¬ starts s Reg.ligaturePage then s
  else match s.dispatchQ.find? (fun f => fdClass f = c) with
  | none => s
  | some f =>
    let rest := s.dispatchQ.erase f
    if bit f.w0 5 then
      match heldSlot s f with
      | some x => { setSlot s (fdSlot f) (some { x with done := some f }) with dispatchQ := rest }
      | none => { s with dispatchQ := rest }
    else if c = 15 then
      match takeSlot s f none with
      | none => s
      | some (_, _, s) => { s with dispatchQ := rest }
    else match nextThread s c with
      | none => s
      | some (i, t) =>
        let next := Tbl.set (fun _ => 0) s.classNext c ((i + 1) % (classThreads s c).length)
        match heldSlot s f with
        | some x => dealFd { setSlot s (fdSlot f) (some { x with tid := some t }) with dispatchQ := rest, classNext := next } t f
        | none => match takeSlot s f (some t) with
          | none => s
          | some (_, f, s) => dealFd { s with dispatchQ := rest, classNext := next } t f

/-! ## Completions (R212) -/

/-- A completion refused or late: source 0x01 (R233). -/
def complRefused (s : State) (t : Nat) : State := note s Reg.ligaturePage 0x01 1 (nibMid (nibOf t))

/-- The check of a COMPLETION by thread `t`: its status, and the completion on its way to the slot (R212). A slot that a
completion is on its way to counts as complete, and one that has timed out as a HOLE (DEDUCED, log entry 37). -/
def complCheck (s : State) (t : Nat) (f : FD) : Byte × State :=
  let k := fdSlot f
  let late := fun (s : State) => (stLate, complRefused (count s Reg.LG_LATE_COMPL) t)
  match slot s k with
  | some x =>
    if x.pid ≠ tidPid s t then (stDenied, complRefused s t)
    else if fdKey x.fd ≠ fdKey f then (stRefused, complRefused s t)
    else if x.hole then late s
    else if x.done.isSome ∨ s.compl.any (fun e => e.1 = k) then (stAlready, s)
    else (stOk, { s with compl := s.compl ++ [(k, f)] })
  | none => match Tbl.get (fun _ => none) s.holes k with
    | some (p, g) =>
      if p ≠ tidPid s t then (stDenied, complRefused s t)
      else if fdKey g ≠ fdKey f then (stRefused, complRefused s t)
      else late s
    | none => (stRefused, complRefused s t)

/-- LIGATURE_COMPLETION: a checked completion reaches slot `k`, or is dropped when the slot became a HOLE (R212, R232). -/
def ligatureCompletion (k : Nat) (s : State) : State :=
  match s.compl.find? (fun e => e.1 = k) with
  | none => s
  | some e =>
    let s := { s with compl := s.compl.erase e }
    match slot s k with
    | some x =>
      if x.hole ∨ fdKey x.fd ≠ fdKey e.2 then note (count s Reg.LG_LATE_COMPL) Reg.ligaturePage 0x01
      else setSlot s k (some { x with done := some e.2 })
    | none => note (count s Reg.LG_LATE_COMPL) Reg.ligaturePage 0x01

/-- LIG_TIMEOUT: an incomplete slot has waited LG_TMO.timeout crossings and becomes a HOLE (R213). -/
def ligTimeout (k : Nat) (s : State) : State :=
  match slot s k with
  | none => s
  | some x =>
    if x.done.isSome ∨ x.hole ∨ s.phase.count < x.takenAt + ligTimeoutOf s x.cls then s
    else
      let s := setSlot s k (some { x with hole := true })
      note { s with dispatchQ := s.dispatchQ.filter (fun f => !(bit f.w0 10 && fdSlot f = k)) } Reg.ligaturePage 0x00 7

/-! ## Release (R51, R213, R214) -/

/-- While a count that had started stands still, slots that are complete do not wait for LIG_HOLD (R23). -/
def noHold (s : State) : Bool := s.phase.started && !s.phase.counting

/-- The slot is complete or a HOLE, and its hold has passed. -/
def slotReady (s : State) (x : Slot) : Bool :=
  (x.done.isSome || x.hole) && (noHold s || decide (x.b + ligHold s x.cls ≤ s.phase.count))

/-- The release conditions of slot `k`: ordered slots leave in key order and then in dispatch order, UNORDERED ones in
dispatch order (R51). -/
def releasable (s : State) (k : Nat) (x : Slot) : Bool :=
  slotReady s x && (usedSlots s).all (fun e =>
    let y := e.2
    e.1 = k || y.cls ≠ x.cls ||
    (if x.unordered then !(y.unordered && decide (y.order < x.order))
     else y.unordered ||
       !(keyLt (fdKey y.fd) (fdKey x.fd) || (fdKey y.fd = fdKey x.fd && decide (y.order < x.order)))))

/-- The largest key released advances. -/
def raiseKey (s : State) (c : Nat) (key : Word × Nat × Nat) : State :=
  match maxKeyOf s c with
  | some m => if keyLt m key then { s with maxKey := Tbl.set (fun _ => none) s.maxKey c (some key) } else s
  | none => { s with maxKey := Tbl.set (fun _ => none) s.maxKey c (some key) }

/-- The HOLE FD of a slot (R213). -/
def holeFd (x : Slot) : FD :=
  { x.fd with w0 := (setBits (setBit x.fd.w0 6 true) 31 28 2), w7 := x.fd.w7 }

/-- What a released slot's verdict does (R45, R213, R214); a frame with CHKERR is dropped (R49). -/
def verdict (s : State) (x : Slot) : State :=
  if x.hole then
    let s := count s Reg.LG_HOLES
    if flag s (Reg.LG_CFG x.cls) 31 then toRing s x.pid (holeFd x) (psOfSps s x.fd.w2) else s
  else match x.done with
    | none => s
    | some f =>
      let f := if x.unordered then fdSetFlag f 11 else f
      let f := { f with w0 := setBits f.w0 27 24 x.pid }
      let s := if x.unordered then count s Reg.LG_UNORDERED else s
      if bit f.w0 5 ∨ bit x.fd.w0 5 then s
      else match fdAction f with
      | 0x10 => enqueue s (fdQueue f) x.pid f
      | 0x11 => s
      | _ => count s Reg.LG_DISCARD

/-- LIGATURE_RELEASE of slot `k`, when it may be released. -/
def ligatureRelease (k : Nat) (s : State) : State :=
  match slot s k with
  | none => s
  | some x =>
    if ¬ releasable s k x ∨ ¬ starts s Reg.ligaturePage then s
    else
      let s := raiseKey (setSlot s k none) x.cls (fdKey x.fd)
      let s := if x.hole then { s with holes := Tbl.set (fun _ => none) s.holes k (some (x.pid, x.fd)) } else s
      verdict s x

/-- Re-dispatch of the incomplete slots dealt to a fenced Nib (R53, R333): slot and key are kept. -/
def redispatchNib (s : State) (n : Nat) : State :=
  let mine := (usedSlots s).filter (fun e => e.2.done.isNone && !e.2.hole && e.2.tid.any (fun t => nibOf t = n))
  mine.foldl (fun s e =>
    let f := fdSetFlag e.2.fd 10
    { setSlot s e.1 (some { e.2 with fd := f, tid := none }) with
      compl := s.compl.filter (fun q => q.1 ≠ e.1), dispatchQ := s.dispatchQ ++ [f] }) s

/-- A partition's slots are released as DISCARD and its waiting FDs dropped (R280). -/
def dropSlots (s : State) (p : Nat) : State :=
  let mine := (usedSlots s).filter (fun e => e.2.pid = p)
  let s := mine.foldl (fun s e => count (setSlot s e.1 none) Reg.LG_DISCARD) s
  { s with dispatchQ := s.dispatchQ.filter (fun f => fdPid f ≠ p)
           compl := s.compl.filter (fun q => mine.all (fun e => e.1 ≠ q.1))
           holes := s.holes.foldl (fun t e => match e.2 with
             | some (q, _) => if q = p then Tbl.set (fun _ => none) t e.1 none else t
             | none => t) s.holes }

/-! ## FD_SUBMIT and FD_STAT (R152) -/

/-- The status of queuing a BUILT FD of partition `p` on queue `q` (R226). -/
def enqueueStatus (s : State) (q p : Nat) : Byte :=
  if queuePid s q ≠ p then stDenied
  else if ¬ queueOn s q ∨ fld s (Reg.queueLim q) 13 0 ≤ (queue s q).length ∨ 16384 ≤ storeUsed s then stFull else stOk

/-- The eighth word of an FD is there: the FD is resolved, and its status stored (R152). A BUILT FD carries its thread's
partition and lane 0xFF (DEDUCED, log entry 38), and no slot (R43). -/
def submitFd (s : State) (t : Nat) (f : FD) : State :=
  let p := tidPid s t
  let r : Byte × State :=
    if t < 1024 ∧ partState s p = 6 then (stRefused, s)
    else if fdKind f = 1 then complCheck s t f
    else if fdKind f = 5 then
      let f := { f with w0 := setBits (setBits f.w0 27 24 p) 19 12 0xFF, w7 := setBits f.w7 13 0 0x3FFF }
      (enqueueStatus s (fdQueue f) p, enqueue s (fdQueue f) p f (nibMid (nibOf t)))
    else (stRefused, s)
  let s := if r.1 = stRefused ∨ r.1 = stDenied then refuseSend r.2 t else r.2
  modThread s t (fun th => { th with fdStage := [], fdStat := r.1 })

/-- FD_SUBMIT: stage a word; the eighth submits. -/
def fdSubmitRow : Row := outSpec (· = 0x28) (fun t _ v s =>
  let ws := (thread s t).fdStage ++ [v]
  some (if ws.length < 8 then modThread s t (fun th => { th with fdStage := ws }) else submitFd s t (fdOf ws)))

/-- FD_STAT. -/
def fdStatRow : Row := inSpec (· = 0x29) (fun t _ s => .give s (.status (thread s t).fdStat ((thread s t).fdStat = stOk)))

/-! ## The commands -/

/-- DISPATCH. -/
def execDispatch (c : Fin 16) (s : State) : Host.Outcome State Fault Refusal := .next (dispatchClass c s)
/-- LIGATURE_COMPLETION. -/
def execLigatureCompletion (k : SlotId) (s : State) : Host.Outcome State Fault Refusal := .next (ligatureCompletion k s)
/-- LIG_TIMEOUT. -/
def execLigTimeout (k : SlotId) (s : State) : Host.Outcome State Fault Refusal := .next (ligTimeout k s)
/-- LIGATURE_RELEASE. -/
def execLigatureRelease (k : SlotId) (s : State) : Host.Outcome State Fault Refusal := .next (ligatureRelease k s)
/-- FD_SUBMIT. -/
def execFdSubmit (t : Tid) (w : Word) (s : State) : Host.Outcome State Fault Refusal := .next (issue fdSubmitRow t w s)
/-- FD_STAT. -/
def execFdStat (t : Tid) (w : Word) (s : State) : Host.Outcome State Fault Refusal := .next (issue fdStatRow t w s)

end Sys2Proof.Machine
end

