-- ==== Sys2Proof/Machine/Ruling.lean ====
section
/-! DEFINITION. The Ruling: selection by priority, shapers, time gates, and the frame on its way out (R50, R67,
R226–R232). -/

namespace Sys2Proof.Machine

/-! ## Costs (R67, R228) -/

/-- Bytes of the link header on a lane: 14 or 18 on Ethernet, none on a Stroke link (R50, R67). -/
def headerLen (s : State) (n : Nat) : Nat := if laneMode s n = 1 then 0 else if laneVlan s n then 18 else 14

/-- Link frame length of `len` stored bytes: header, padding to 64 bytes, CRC or FCS (R59, R67). -/
def linkLen (s : State) (n len : Nat) : Nat := max (headerLen s n + len) 60 + 4

/-- Fields of a queue's RU_QCFG. -/
def queueShaper (s : State) (q : Nat) : Option Nat :=
  if flag s (Reg.queueCfg q) 14 then some (fld s (Reg.queueCfg q) 19 15) else none
def queueGate (s : State) (q : Nat) : Option Nat :=
  if flag s (Reg.queueCfg q) 20 then some (fld s (Reg.queueCfg q) 23 21) else none
def queuePrio (s : State) (q : Nat) : Nat := fld s (Reg.queueCfg q) 29 28

/-- The cost of an FD at queue `q` of lane `n`: link frame length and the overhead of the shaper or of the queue (R228). -/
def costOf (s : State) (n q : Nat) (f : FD) : Nat :=
  linkLen s n (fdLen f) + (match queueShaper s q with
    | some k => fld s (Reg.RU_SH_OVH k) 5 0
    | none => fld s (Reg.queueCfg q) 12 7)

/-! ## Shapers (R228, R229) -/

/-- Tokens of a shaper in 1/256 bytes; a bucket starts full at the reset burst. -/
def shTokens (s : State) (k : Nat) : Int := Tbl.get (fun _ => (0x4000 * 256 : Int)) s.tokens k
/-- Store a shaper's tokens. -/
def setTokens (s : State) (k : Nat) (v : Int) : State := { s with tokens := Tbl.set (fun _ => (0x4000 * 256 : Int)) s.tokens k v }
/-- Rate and burst in force. -/
def shForce (s : State) (k : Nat) : Nat × Nat := Tbl.get (fun _ => (0x32000, 0x4000)) s.shapers k

/-- The shaper allows a frame of this cost. -/
def shaperOpen (s : State) (k cost : Nat) : Bool :=
  decide ((cost * 256 : Int) ≤ shTokens s k) || shTokens s k = ((shForce s k).2 * 256 : Int)

/-- The refill of one shaper: the rate and burst last written take effect. -/
def refillOne (s : State) (k : Nat) : State :=
  let rate := fld s (Reg.RU_SH_RATE k) 23 0
  let burst : Int := (fld s (Reg.RU_SH_BURST k) 23 0 * 256 : Nat)
  let s := { s with shapers := Tbl.set (fun _ => (0x32000, 0x4000)) s.shapers k (rate, fld s (Reg.RU_SH_BURST k) 23 0) }
  setTokens s k (min burst (min burst (shTokens s k) + rate))

/-- SHAPER_REFILL. -/
def shaperRefill (s : State) : State := if starts s Reg.rulingPage then (List.range 32).foldl refillOne s else s

/-! ## Time gates (R230, R231) -/

/-- Start and length of a window of a gate list. -/
def winStart (s : State) (g w : Nat) : Nat := fld s (Reg.gateWin g w) 31 16
def winLen (s : State) (g w : Nat) : Nat := fld s (Reg.gateWin g w) 15 0

/-- 66 times the bytes per FCLK that a lane sends, in units of 10^-6 × 1/8: the B of R230. -/
def sendRate (s : State) (n : Nat) : Nat :=
  let w := reg s (Reg.LANE_CTL n)
  if bits w 11 8 = 1 ∧ bits w 15 12 = 9 then 50000000 * 66 else payloadRate w

/-- FCLK that a cost takes on a lane. -/
def duration (s : State) (n cost : Nat) : Nat := cdiv (cost * 528000000) (sendRate s n)

/-- FCLK elapsed since the current tick, in 1/65536 FCLK: the command stream does not carry them, so they are free below
one crossing (log entry 39). -/
def elapsedFclk (s : State) : Nat := (Config.freeWord s.free).toNat % (reg s Reg.XING_FCLK).toNat

/-- Window `w` of list `g` opened in the FCLK in which the list was enabled, and has not come again (R232). -/
def gateSkipped (s : State) (g w : Nat) : Bool :=
  match Tbl.get (fun _ => none) s.gateSkip g with
  | some ps => winStart s g w = ps.index && s.phase.now.orbit = ps.orbit
  | none => false

/-- A window of list `g` is open, and a duration of `d` FCLK fits in what remains of it. -/
def gateOpen (s : State) (g d : Nat) : Bool :=
  enField s Reg.rulingPage Reg.RU_GEN g && (List.range 64).any (fun w =>
    let i := s.phase.now.index
    let stop := winStart s g w + winLen s g w
    !gateSkipped s g w && decide (winStart s g w ≤ i ∧ i < stop ∧ d * 65536 + elapsedFclk s ≤ (stop - i) * (reg s Reg.XING_FCLK).toNat))

/-- The used windows of a list rise, do not overlap, and end within the orbit. -/
def gateListOk (s : State) (g : Nat) : Bool :=
  let ws := ((List.range 64).map (fun w => (winStart s g w, winLen s g w))).filter (fun w => w.2 ≠ 0)
  ws.all (fun w => decide (w.1 + w.2 ≤ orbitLen s)) && go ws
where
  /-- Each window starts where the one before it ends, or later. -/
  go : List (Nat × Nat) → Bool
    | a :: b :: r => decide (a.1 + a.2 ≤ b.1) && go (b :: r)
    | _ => true

/-- The list is enabled. Whether that falls in the FCLK of the current tick, in which a window may open, the commands do
not say: it is free (R232, log entry 185). -/
def gateOn (s : State) (g : Nat) : State :=
  let s := setFlag s Reg.RU_GEN g true
  if (List.range 64).any (fun w => winLen s g w ≠ 0 && winStart s g w = s.phase.now.index) then
    let (v, s) := fresh s
    { s with gateSkip := Tbl.set (fun _ => none) s.gateSkip g (if bit v 0 then some s.phase.now else none) }
  else s

/-- Enable or disable one list as a write of RU_GEN says. -/
def gateEnable (v : BitVec 8) (s : State) (g : Nat) : State :=
  if ¬ bit v g then setFlag s Reg.RU_GEN g false
  else if flag s Reg.RU_GEN g then s
  else if gateListOk s g then gateOn s g
  else refuseWrite s Reg.rulingPage 0x03 Reg.RU_GEN

/-- GATE_LIST_ENABLE: a write of RU_GEN. -/
def gateListEnable (v : BitVec 8) (s : State) : State := (List.range 8).foldl (gateEnable v) s

/-! ## Selection (R227) -/

/-- Egress runs for a partition that is IDLE, ACTIVE, DRAINING or FAULTED, in every mode but COLD (R345). -/
def egressRuns (s : State) (p : Nat) : Bool := mode s ≠ 0 && [2, 3, 4, 7].contains (partState s p)

/-- The head of queue `q` may be selected for lane `n`. -/
def eligible (s : State) (n q : Nat) : Bool :=
  queueOn s q && queueLane s q = n && egressRuns s (queuePid s q) && match queue s q with
  | [] => false
  | f :: _ =>
    (match queueShaper s q with
      | some k => shaperOpen s k (costOf s n q f)
      | none => true)
    && (match queueGate s q with
      | some g => gateOpen s g (duration s n (costOf s n q f))
      | none => true)

/-- Where the round robin of a priority goes on. -/
def rrNext (s : State) (n prio : Nat) : Nat := Tbl.get (fun _ => 0) (lane s n).rr prio

/-- The queue whose head is selected: highest priority, equal priorities round robin. -/
def selectQueue (s : State) (n : Nat) : Option Nat :=
  let l := ((s.queues.map Prod.fst).filter (fun q => q < 256 && eligible s n q))
  match (List.range 4).find? (fun p => l.any (fun q => queuePrio s q = p)) with
  | none => none
  | some p =>
    let g := l.filter (fun q => queuePrio s q = p)
    match g.find? (fun q => rrNext s n p ≤ q) with
    | some q => some q
    | none => g.head?

/-- The Scroll crossing that an FD's buffer lies in. -/
def fdXing (s : State) (f : FD) : Option Nat := if bhPool f.w4 = 0 then some (xingOfSps s f.w2) else none

/-- Take the head of queue `q` for lane `n`: an expired one is counted and dropped, and one with CHKERR is dropped (R49),
with no cost; any other starts. -/
def takeHead (s : State) (n q : Nat) (f : FD) (rest : List FD) : Bool × State :=
  let p := queuePrio s q
  let cost := costOf s n q f
  let t := modLane (setQueue s q rest) n (fun l => { l with rr := Tbl.set (fun _ => 0) l.rr p (q + 1) })
  if bit f.w0 5 then (false, freeFd t f)
  else if (fdXing s f).any (retentionOver s) then (false, note (count t Reg.RU_EXPIRED) Reg.rulingPage 0x02)
  else
    let t := match queueShaper s q with
      | some k => setTokens t k (shTokens t k - (cost * 256 : Nat))
      | none => t
    let t := match fdXing s f with
      | some b => modXing t b (fun x => { x with txHolds := x.txHolds + 1 })
      | none => t
    (true, modLane (count t (Reg.TX_FRAMES n)) n (fun l => { l with tx := some { fd := f, queue := q, b := fdXing s f, stomp := false } }))

/-- Select heads until one starts or none is eligible; `fuel` bounds the expired ones. -/
def selectLoop (n : Nat) : Nat → State → State
  | 0, s => s
  | fuel + 1, s =>
    match selectQueue s n with
    | none => s
    | some q => match queue s q with
      | [] => s
      | f :: rest => match takeHead s n q f rest with
        | (true, t) => t
        | (false, t) => selectLoop n fuel t

/-- RULING_SELECT: the transmitter of an UP lane is free. -/
def rulingSelect (n : Nat) (s : State) : State :=
  if ¬ frameLane s n ∨ ¬ txOpen s n ∨ (lane s n).tx.isSome ∨ fatal s ∨ ¬ starts s Reg.rulingPage then s
  else
    let t := selectLoop n (storeUsed s) s
    { t with free := t.free + 1 }

/-! ## The end of a frame sent (R50, R67) -/

/-- The bytes before the stored bytes on a lane, and the zero padding after them. -/
def linkHeader (s : State) (n : Nat) : List Byte :=
  if laneMode s n = 1 then []
  else beBytes 2 (fld s (Reg.LANE_ETH_DA_HI n) 15 0) ++ beBytes 4 (reg s (Reg.LANE_ETH_DA_LO n)).toNat
    ++ beBytes 2 (fld s (Reg.LANE_ETH_SA_HI n) 15 0) ++ beBytes 4 (reg s (Reg.LANE_ETH_SA_LO n)).toNat
    ++ (if laneVlan s n then beBytes 2 0x8100 ++ beBytes 2 (fld s (Reg.LANE_VLAN n) 15 0) else []) ++ beBytes 2 0x88B6

/-- The link frame of stored bytes: the complement of the CRC when it is stomped (R50). -/
def linkFrame (s : State) (n : Nat) (data : List Byte) (stomp : Bool) : List Byte :=
  let h := linkHeader s n ++ data
  let body := h ++ List.replicate (60 - h.length) 0
  body ++ leBytes 4 (if stomp then ~~~ crc32 body else crc32 body).toNat

/-- EGRESS_FRAME_END: the last word is sent; a lane in loopback receives the frame. -/
def egressFrameEnd (n : Nat) (s : State) : State :=
  match (lane s n).tx with
  | none => s
  | some f =>
    let len := fdLen f.fd
    let (bad, data, s) := engineRead s (bufKey s f.fd.w4) len 0x85
    let (hit, s) := takeInjection s Reg.blotterPage 0
    let broken := bad || hit.isSome || crc32c data ≠ f.fd.w5
    let stomp := f.stomp || broken || bit f.fd.w0 5
    let s := bw (bw s (36 + n / 32) len) 41 len
    let bytes := linkFrame s n data stomp
    let s := emit s (.frame n f.fd bytes (if laneMode s n = 1 then frameBlocks bytes else []) stomp)
    let s := if stomp then fault (count s (Reg.STOMPED n)) (Reg.lanePage n) 0x05 else s
    let s := if broken then fault s Reg.blotterPage 0x00 (if hit.isSome then 0xD else 5) else s
    let s := modLane s n (fun l => { l with tx := none })
    loopBack n bytes (match f.b with
    | some b => freeDue (modXing s b (fun x => { x with txHolds := x.txHolds - 1 }))
    | none => freeFd s f.fd)

/-! ## The commands -/

/-- RULING_SELECT. -/
def execRulingSelect (n : LaneId) (s : State) : Host.Outcome State Fault Refusal := .next (rulingSelect n s)
/-- EGRESS_FRAME_END. -/
def execEgressFrameEnd (n : LaneId) (s : State) : Host.Outcome State Fault Refusal := .next (egressFrameEnd n s)
/-- SHAPER_REFILL. -/
def execShaperRefill (s : State) : Host.Outcome State Fault Refusal := .next (shaperRefill s)
/-- GATE_LIST_ENABLE. -/
def execGateListEnable (v : BitVec 8) (s : State) : Host.Outcome State Fault Refusal := .next (gateListEnable v s)

end Sys2Proof.Machine
end

