-- ==== Sys2Proof/Machine/Copyist.lean ====
section
/-! DEFINITION. The Copyist: selection of stored frames, event records and segments, and where an event goes
(R221–R225); the freeing of Scroll extents (R238). -/

namespace Sys2Proof.Machine

/-- CP_SEL of trigger bit `k` of partition `p`. -/
def cpSel (s : State) (p k : Nat) : Nat := fld s (Reg.CP_SEL0 p + 4 * (k / 2)) (16 * (k % 2) + 15) (16 * (k % 2))

/-- The Copybook mask of an entry: word 1 bits [63:48] (R84). -/
def entryMask (e : Entry) : Nat := bits e.w1 63 48

/-- A stored frame is selected by an accept, and what the look-up records (R222). -/
def selects (s : State) (a : Accept) (g : Stored) : Bool × State :=
  let miss := flag s (Reg.CP_PCTL a.p) 29
  if g.parseFail then (miss, s)
  else match cbLookup s (cbKey g.pid g.chan) with
    | (none, t) => (miss, t)
    | (some i, t) => ((List.range 16).any (fun k => bit a.bits k && entryMask (entry s i) &&& cpSel s a.p k != 0), t)

/-- The frames of an accept's crossing that are selected, in the order in which their first 64 bytes were held. -/
def selectFrames (s : State) (a : Accept) : List Stored × State :=
  ((xing s a.b).frames.filter (fun g => g.pid = a.p && g.good)).foldl (fun r g =>
    let (sel, t) := selects r.2 a g
    (if sel then r.1 ++ [g] else r.1, t)) ([], s)

/-- What a copy has gathered so far. -/
structure Gather where
  bufs : List Word := []
  data : List Byte := []
  copied : Nat := 0
  left : Nat := 0
  truncated : Bool := false
  chkerr : Bool := false

/-- Record bytes in one segment (R224). -/
def segBytes : Nat := 8192

/-- Take DRAM buffers one at a time until there are `want` of them; what was granted beyond `have'` returns when one is
refused (R224). -/
def takeBufs (p want : Nat) : Nat → List Word → State → Option (List Word) × List Word × State
  | 0, bufs, s => (if want ≤ bufs.length then some bufs else none, bufs, s)
  | fuel + 1, bufs, s =>
    if want ≤ bufs.length then (some bufs, bufs, s)
    else match iwAlloc s true 0x82 p none with
      | (0x00, bh, s) => takeBufs p want fuel (bufs ++ [bh]) s
      | (_, _, s) => (none, bufs, s)

/-- One selected frame: read whole with its checks, padded to a multiple of 8, and added while buffers hold the record. -/
def gatherFrame (p : Nat) (r : Gather × State) (f : Stored) : Gather × State :=
  let (g, s) := r
  if g.truncated then ({ g with left := g.left + 1 }, s)
  else
    let (bad, bytes, s) := engineRead s (64 * f.line) f.len 0x82
    let (hit, s) := takeInjection s Reg.copyistPage 0
    if bad ∨ hit.isSome then
      ({ g with left := g.left + 1, chkerr := true }, note s Reg.copyistPage 0x00 (if hit.isSome then 8 else 0) 0x82)
    else
      let blob := bytes ++ List.replicate ((8 - f.len % 8) % 8) 0
      let want := cdiv (64 + g.data.length + blob.length) segBytes
      if 8 < want then ({ g with left := g.left + 1, truncated := true }, s)
      else match takeBufs p want 8 g.bufs s with
        | (some bufs, _, s) => ({ g with bufs := bufs, data := g.data ++ blob, copied := g.copied + 1 }, bw s 40 f.len)
        | (none, got, s) =>
          ({ g with left := g.left + 1, truncated := true }, (got.drop g.bufs.length).foldl iwReturn s)

/-- The event record (R224). -/
def eventRecord (a : Accept) (g : Gather) : List Byte :=
  beBytes 2 0xE7C0 ++ [0x01] ++ beBytes 1 (16 * a.p + g.bufs.length) ++ beBytes 8 (psNat a.ps) ++ beBytes 2 a.bits.toNat
    ++ beBytes 1 (a.qs.toNat + 2 * a.defaulted.toNat + 4 * g.truncated.toNat + 8 * (!a.held).toNat + 16 * g.chkerr.toNat) ++ [0x00]
    ++ beBytes 4 a.seq.toNat ++ beBytes 4 g.copied ++ beBytes 4 g.left ++ beBytes 4 (64 + g.data.length)
    ++ beBytes 4 (crc32c g.data).toNat
    ++ (List.range 7).flatMap (fun i => beBytes 4 (g.bufs.getD (i + 1) 0xFFFFFFFF).toNat) ++ g.data

/-- Segment `i` of a record as it stands in its buffer (R224). -/
def segment (a : Accept) (g : Gather) (record : List Byte) (i : Nat) : List Byte :=
  beBytes 2 0xE75E ++ beBytes 1 i ++ beBytes 1 (decide (i + 1 = g.bufs.length)).toNat ++ beBytes 4 a.seq.toNat
    ++ beBytes 4 record.length ++ beBytes 4 (segBytes * i) ++ (record.drop (segBytes * i)).take segBytes

/-- The EVENT FD of a segment. The rules give it no action, channel, sequence, hints or entry: those are free; class and
user are 0 (DESIGN CHOICE, log entries 130 and 167). -/
def eventFd (s : State) (a : Accept) (bh : Word) (seg : List Byte) : FD × State :=
  let (u, s) := fresh s
  let (v, s) := fresh s
  let (w, s) := fresh s
  ({ w0 := word (6 * 2 ^ 28 + a.p * 2 ^ 24 + 0xFF * 2 ^ 12 + 16 * a.qs.toNat), w1 := u, w2 := spsOf a.ps,
     w3 := setBits w 15 0 seg.length, w4 := bh, w5 := crc32c seg, w6 := v, w7 := 0x3FFF }, s)

/-- Write the segments of an event into its buffers; their FDs. -/
def writeSegments (s : State) (a : Accept) (g : Gather) : List FD × State :=
  let record := eventRecord a g
  (List.range g.bufs.length).foldl (fun r i =>
    let bh := g.bufs.getD i 0
    let seg := segment a g record i
    let (f, t) := eventFd r.2 a bh seg
    (r.1 ++ [f], engineWrite (bw t 40 seg.length) (bufKey t bh) seg 0x82)) ([], s)

/-- The accept at the head leaves the queue; the next one is the head. -/
def nextAccept (s : State) : State := markHead { s with accepts := s.accepts.drop 1 }

/-- COPY_START: the accept at the head of the queue is copied, or makes an event with no frames when it reached the head
at or after its retention end (R221–R224). -/
def copyStart (s : State) : State :=
  match s.accepts with
  | [] => s
  | a :: _ =>
    if s.copy.isSome ∨ ¬ starts s Reg.copyistPage then s
    else
      let s := nextAccept s
      match takeBufs a.p 1 1 [] s with
      | (none, _, s) => note (count s Reg.CP_NOBUF) Reg.copyistPage 0x01 4 0x82
      | (some bufs, _, s) =>
        let (l, s) := if a.held then selectFrames s a else ([], s)
        let (g, s) := l.foldl (gatherFrame a.p) ({ bufs := bufs }, s)
        let (fds, s) := writeSegments s a g
        let s := if g.truncated then count s Reg.CP_TRUNC else s
        let s := if a.held then s else count s Reg.CP_EXPIRED
        { s with copy := some { acc := a, fds := fds } }

/-- The queue of the partition's next event (R225). -/
def eventQueue (s : State) (p : Nat) : Nat × State :=
  let spread := fld s (Reg.CP_PCTL p) 9 8
  let n := match spread with
    | 1 => 2
    | 2 => 4
    | _ => 1
  ((fld s (Reg.CP_PCTL p) 7 0 + (part s p).spread % n) % 256, modPart s p (fun q => { q with spread := q.spread + 1 }))

/-- COPY_DONE (R225): the event's FDs are queued, or go to the host ring. An event of an older epoch is discarded and its
buffers return (R280). -/
def copyDone (s : State) : State :=
  match s.copy with
  | none => s
  | some c =>
    let p := c.acc.p
    let s := { s with copy := none }
    let s :=
      if c.acc.epoch ≠ partEpoch s p then c.fds.foldl freeFd s
      else
        let s := count s Reg.CP_EVENTS
        if flag s (Reg.CP_PCTL p) 30 then c.fds.foldl (fun s f => toRing s p f c.acc.ps) s
        else
          let (q, s) := eventQueue s p
          c.fds.foldl (fun s f => enqueue s q p { f with w7 := setBits f.w7 31 24 q } 0x82) s
    freeDue s

/-! ## The commands -/

/-- COPY_START. -/
def execCopyStart (s : State) : Host.Outcome State Fault Refusal := .next (copyStart s)
/-- COPY_DONE. -/
def execCopyDone (s : State) : Host.Outcome State Fault Refusal := .next (copyDone s)
/-- SCROLL_EXTENT_FREE. -/
def execScrollExtentFree (s : State) : Host.Outcome State Fault Refusal := .next (freeDue s)

end Sys2Proof.Machine
end

