-- ==== Sys2Proof/Machine/Parts.lean ====
section
/-! DEFINITION. Partitions: their resources, commands, draining, reset, and the rings of their host windows
(R266–R277, R280–R282). SAVE and RESTORE stand in Image.lean. -/

namespace Sys2Proof.Machine

/-! ## Work in flight (R271) -/

/-- The Nibs of a partition. -/
def partNibs (s : State) (p : Nat) : List Nat := (List.range 128).filter (fun n => nibPid s n = p)

/-- Operations of shared engines that carry the partition's epoch: helper operations, accepts and copies, host-ring
transfers, commands of its Copybook slot, learn requests. A spill transfer is over in its own step. -/
def enginesOf (s : State) (p : Nat) : Nat :=
  (s.ctxs.map (fun e => if nibPid s (e.1 / 32 * 8 + e.1 % 8) = p then e.2.queue.length + e.2.running.isSome.toNat else 0)).sum
  + (s.accepts.filter (fun a => a.p = p)).length
  + (match s.copy with | some c => (decide (c.acc.p = p)).toNat | none => 0)
  + (part s p).rxPend.length
  + (s.copybook.waiting.filter (fun c => c.slot = p)).length
  + (s.copybook.learn.filter (fun e => bits e.2 27 24 = p)).length

/-- Its FDs in dispatch, in CH0, in Ligature slots and in egress queues, its open instances and its unreleased records.
An FD is counted in each place that holds it (DEDUCED, log entry 40). -/
def workOf (s : State) (p : Nat) : Nat :=
  (s.dispatchQ.filter (fun f => fdPid f = p)).length
  + ((listedThreads s (fun t => t < 1024 && tidPid s t = p)).map (ch0Held s)).sum
  + ((usedSlots s).filter (fun e => e.2.pid = p)).length
  + (s.queues.map (fun e => (e.2.filter (fun f => fdPid f = p)).length)).sum
  + (s.ductus.insts.filter (fun x => x.pid = p && !x.closed)).length
  + (s.decisions.filter (fun d => d.p = p)).length

/-- PART_INFLIGHT. -/
def inflightWord (s : State) (p : Nat) : Word := word (sat 0xFFFF (workOf s p) * 65536 + sat 0xFFFF (enginesOf s p))

/-! ## Commands (R269, R270) -/

/-- The partition enters a state: bit 1 of its page. -/
def setPartState (s : State) (p st : Nat) : State := irq (setFld s (Reg.PART_STAT p) 18 16 st) (Reg.partPage p) 1

/-- A command or resource write of partition `p` is refused. -/
def partRefused (s : State) (p src : Nat) : Byte × State := (stRefused, refuseWrite s (Reg.partPage p) src (Reg.PART_CMD p))

/-- A command refused for a reason of PART_ERR. -/
def partFails (s : State) (p src reason : Nat) : Byte × State := partRefused (setFld s (Reg.PART_ERR p) 7 0 reason) p src

/-- PART_STAT.busy. -/
def partBusy (s : State) (p : Nat) : Bool := flag s (Reg.PART_STAT p) 31
def setPartBusy (s : State) (p : Nat) (b : Bool) : State := setFlag s (Reg.PART_STAT p) 31 b

/-- Run a command: REFUSED in the modes of R339 that refuse it, BUSY while another runs, else what `run` answers; its
status stands in PART_STAT, and it is done unless it has set busy. -/
def partCommand (p op : Nat) (run : State → Byte × State) (s : State) : State :=
  if ¬ pageOn s (Reg.partPage p) then s
  else
    let st := partState s p
    let r : Byte × State :=
      if ¬ (mode s = 3 ∨ modeLocked s) then partRefused s p 0x00
      else if (if op = 9 then st = 6 else partBusy s p ∨ st = 4 ∨ st = 6) then (stBusy, s)
      else run s
    let s := setFld r.2 (Reg.PART_STAT p) 7 0 r.1.toNat
    if partBusy s p then s else irq s (Reg.partPage p) 0

/-- The running command of a partition ends with a status. -/
def partDone (s : State) (p : Nat) (st : Byte) : State :=
  irq (setFld (setPartBusy s p false) (Reg.PART_STAT p) 7 0 st.toNat) (Reg.partPage p) 0

/-- CREATE. -/
def createRun (p : Nat) (s : State) : Byte × State :=
  if p = 0 then partRefused s p 0x00
  else if partState s p ≠ 0 then (stAlready, s)
  else (stOk, setPartState s p 1)

/-- Partition `p` owns a group of locks of Quill `q`. -/
def ownsLockGroup (s : State) (p q : Nat) : Bool :=
  (List.range 16).any (fun i => fld s (Reg.LK_PIDMAP q (i / 8)) (4 * (i % 8) + 3) (4 * (i % 8)) = p)

/-- The first check of COMMIT that fails (R268). An enabled DRAM pool holds IW_DCFG.count buffers, otherwise the quotas may
reach its largest size (DEDUCED, log entry 42). -/
def commitFails (s : State) (p : Nat) : Option Nat :=
  let total := fun (f : Nat → Nat) => ((List.range 16).map f).sum
  let dPool := if flag s Reg.IW_DCFG 31 then fld s Reg.IW_DCFG 20 0 else 1048576
  if partNibs s p = [] then some 0x01
  else if 16384 < total (partQuota s false) ∨ dPool < total (partQuota s true) then some 0x02
  else if 2097152 < total (fun q => fld s (Reg.CB_PLIM q) 21 0) then some 0x03
  else if 65536 < total (fun q => fld s (Reg.DX_PLIM q) 16 0) then some 0x04
  else if (List.range 256).any (fun t => tplPid s t = p) ∧ ¬ flag s (Reg.DX_SPILL_SIZE p) 31 then some 0x05
  else if (partNibs s p).any (fun n => !ownsLockGroup s p (n / 8)) then some 0x06
  else none

/-- COMMIT. -/
def commitRun (p : Nat) (s : State) : Byte × State :=
  if partState s p ≠ 1 then partRefused s p 0x00
  else match commitFails s p with
    | some e => partFails s p 0x01 e
    | none => (stOk, setPartState s p 2)

/-- START: admission from the next orbit boundary. -/
def startRun (p : Nat) (s : State) : Byte × State :=
  match partState s p with
  | 3 => (stAlready, s)
  | 2 => (stOk, modPart (setPartState s p 3) p (fun q => { q with startPend := true }))
  | _ => partRefused s p 0x00

/-- Draining begins: admission stops at the next orbit boundary (R272). -/
def drainStart (p : Nat) (freeze : Bool) (s : State) : State :=
  let fromActive := decide (partState s p = 3)
  modPart (setPartBusy (setPartState s p 4) p true) p (fun q => { q with
    stopPend := q.admitting
    startPend := false
    startDue := false
    toFrozen := freeze
    fromActive := fromActive })

/-- STOP. -/
def stopRun (p : Nat) (s : State) : Byte × State :=
  match partState s p with
  | 2 => (stAlready, s)
  | 3 => (stOk, drainStart p false s)
  | _ => partRefused s p 0x00

/-- FREEZE. -/
def freezeRun (p : Nat) (s : State) : Byte × State :=
  match partState s p with
  | 5 => (stAlready, s)
  | 2 => (stOk, drainStart p true s)
  | 3 => (stOk, drainStart p true s)
  | _ => partRefused s p 0x00

/-- THAW: the threads resume; a partition frozen from ACTIVE admits again from the next orbit boundary, as after START
(DEDUCED, log entry 43). -/
def thawRun (p : Nat) (s : State) : Byte × State :=
  if partState s p ≠ 5 then partRefused s p 0x00
  else
    let act := (part s p).fromActive
    let s := (listedThreads s (fun t => t < 1024 && tidPid s t = p)).foldl (fun s t => thrUnpark t s) s
    (stOk, modPart (setPartState s p (if act then 3 else 2)) p (fun q => { q with startPend := act }))

/-- PART_DRAIN_END: the drained partition is IDLE, or FROZEN with its threads parked (R272). -/
def partDrainEnd (p : Nat) (s : State) : State :=
  let q := part s p
  if partState s p ≠ 4 ∨ q.admitting ∨ q.stopPend ∨ enginesOf s p ≠ 0 ∨ workOf s p ≠ 0 then s
  else if q.toFrozen then partDone (modPart (setPartState (parkPartition s p) p 5) p (fun q => { q with drainPs := psEvent s })) p stOk
  else partDone (setPartState s p 2) p stOk

/-- PART_ADMISSION_START: the orbit boundary after START has come, and its crossing 0 is admitted. -/
def partAdmissionStart (p : Nat) (s : State) : State :=
  if (part s p).startDue ∧ partState s p = 3 then
    admitAll (modPart s p (fun q => { q with startDue := false, admitting := true }))
  else s

/-! ## Reset (R280) -/

/-- Every channel of Nib `n` is emptied (R154): also the FDs that wait in CH0, and Ductus notices held for CH1. -/
def emptyChannels (s : State) (n : Nat) : State :=
  let s := (List.range 32).foldl (fun s c => modChan s n c (fun ch => { ch with msgs := [], claimed := 0 })) s
  let s := (List.range 8).foldl (fun s i => modThread s (tidOf n i) (fun th => { th with ch0 := [], claim := none })) s
  modNib s n (fun b => { b with dxNotices := [] })

/-- Every thread of Nib `n` is reset, its channels are emptied and its helper contexts cleared (R146, R154, R185). -/
def resetNibWork (s : State) (n : Nat) : State :=
  resetCtxs (emptyChannels ((List.range 8).foldl (fun s i => resetThread s (tidOf n i)) s) n) n true

/-- The partition's instances are cancelled; the operations that threads hold keep the old epoch. -/
def resetInsts (s : State) (p : Nat) : State :=
  let s := closeInsts s (fun x => x.pid = p)
  { s with ductus := { s.ductus with insts := s.ductus.insts.filter (fun x => x.pid ≠ p) } }

/-- The FDs of a partition leave the egress queues and the host rings, and their buffers return. -/
def dropQueued (s : State) (p : Nat) : State :=
  let gone := (s.queues.flatMap (fun e => e.2.filter (fun f => fdPid f = p))) ++ (part s p).rxPend.map Prod.fst
  let s := { s with queues := s.queues.foldl (fun m e => Tbl.set (fun _ => []) m e.1 (e.2.filter (fun f => fdPid f ≠ p))) s.queues }
  gone.foldl freeFd (modPart s p (fun q => { q with rxPend := [], rxPhase := true }))

/-- Ring indexes of a window become 0. -/
def zeroRings (s : State) (p : Nat) : State :=
  (List.range 3).foldl (fun s r => setReg (setReg s (Reg.PW_RING_PROD p r) 0) (Reg.PW_RING_CONS p r) 0) s

/-- The open decision slots of a partition close (R216). -/
def closeSlots (s : State) (p : Nat) : State :=
  { s with decisions := s.decisions.map (fun d => if d.p = p then closedSlot d else d) }

/-- A MID is a Nib's or the host slot's of partition `p`. -/
def midOfPart (s : State) (p mid : Nat) : Bool := (mid < 128 && nibPid s mid = p) || mid = 0x90 + p

/-- What RESET does in one FCLK and then at once. -/
def resetPartition (p : Nat) (s : State) : State :=
  let s := setFld s (Reg.PART_EPOCH p) 15 0 (partEpoch s p + 1)
  let s := modPart s p (fun q => { q with admitting := false, startPend := false, startDue := false, stopPend := false,
                                           toFrozen := false, saving := false, restoring := none })
  let s := setPartBusy (setPartState s p 6) p true
  let s := closeSlots (resetInsts s p) p
  let s := (partNibs s p).foldl resetNibWork ((partNibs s p).foldl nibLeaves s)
  let s := zeroRings (dropQueued (dropSlots s p) p) p
  freeHeld s (fun b => midOfPart s p b.owner)

/-- RESET. -/
def resetRun (p : Nat) (s : State) : Byte × State :=
  match partState s p with
  | 0 => partRefused s p 0x00
  | 1 => partRefused s p 0x00
  | 2 => if (part s p).resetDone then (stAlready, s) else (stOk, resetPartition p s)
  | _ => (stOk, resetPartition p s)

/-- PART_RESET_DONE: the shared engines hold no operation of the partition. -/
def partResetDone (p : Nat) (s : State) : State :=
  if partState s p ≠ 6 ∨ enginesOf s p ≠ 0 then s
  else modPart (partDone (setPartState s p 2) p stOk) p (fun q => { q with resetDone := true })

/-! ## Destroy (R266, R270) -/

/-- Give the nibbles of a map register that hold `p` to partition 0. -/
def clearNibbles (s : State) (a p : Nat) : State :=
  (List.range 8).foldl (fun s i => if fld s a (4 * i + 3) (4 * i) = p then setFld s a (4 * i + 3) (4 * i) 0 else s) s

/-- Give the owner field `[hi:lo]` of a register to partition 0 where it holds `p`. -/
def clearOwner (p hi lo : Nat) (s : State) (a : Nat) : State := if fld s a hi lo = p then setFld s a hi lo 0 else s

/-- A counted share returns to partition 0, up to the whole of `size`. -/
def giveShare (p hi size : Nat) (f : Nat → Nat) (s : State) : State :=
  setFld (setFld s (f 0) hi 0 (sat size (fld s (f 0) hi 0 + fld s (f p) hi 0))) (f p) hi 0 0

/-- The templates of `p` become partition 0's: h0.pid. -/
def giveTemplates (p : Nat) (s : State) : State :=
  ((List.range 256).filter (fun t => tplPid s t = p)).foldl (fun s t =>
    wrWord s (tplBase t) (setBits (tplWord s t 0) 27 24 0)) s

/-- Every resource of partition `p` returns to partition 0. -/
def giveBack (p : Nat) (s : State) : State :=
  let s := (List.range 128).foldl (fun s n => clearOwner p 3 0 s (Reg.NIB_PID n)) s
  let s := (List.range 128).foldl (fun s n => clearOwner p 7 4 s (Reg.LANE_CTL n)) s
  let s := (List.range 32).foldl (fun s i => clearNibbles s (Reg.LK_PIDMAP (i / 2) (i % 2)) p) s
  let s := (List.range 15).foldl (fun s c => clearOwner p 27 24 s (Reg.ST_CLASS c)) s
  let s := (List.range 256).foldl (fun s q => clearOwner p 27 24 s (Reg.queueCfg q)) s
  let s := (List.range 16).foldl (fun s i => clearOwner p 27 24 s (Reg.DR_BASE 0 i)) s
  let s := (List.range 16).foldl (fun s i => clearOwner p 29 26 s (Reg.PH_ALARM i)) s
  let s := clearOwner p 19 16 (clearNibbles s Reg.RU_GPID p) Reg.ACC_OUT_CTL
  let s := giveShare p 21 2097152 Reg.CB_PLIM s
  let s := giveShare p 16 65536 Reg.DX_PLIM s
  let s := giveShare p 14 16384 Reg.IW_QPART_S s
  let s := giveShare p 20 1048576 Reg.IW_QPART_D s
  let s := setFlag (giveTemplates p s) (Reg.DX_SPILL_SIZE p) 31 false
  let s := setReg s (Reg.PART_SHAPERS 0) (reg s (Reg.PART_SHAPERS 0) ||| reg s (Reg.PART_SHAPERS p))
  setReg (setReg s (Reg.PART_SHAPERS p) 0) (Reg.PART_PASID p) 0

/-- DESTROY. -/
def destroyRun (p : Nat) (s : State) : Byte × State :=
  if p ≠ 0 ∧ (partState s p = 1 ∨ partState s p = 2) then (stOk, setPartState (giveBack p s) p 0) else partRefused s p 0x00

/-! ## Host rings (R273–R277) -/

/-- Host rings act for a partition that is IDLE, ACTIVE, DRAINING, FROZEN or FAULTED, in every mode but COLD and
STANDALONE (R345). -/
def ringsRun (s : State) (p : Nat) : Bool := mode s ≠ 0 && mode s ≠ 2 && [2, 3, 4, 5, 7].contains (partState s p)

/-- Entries of ring `r`, whether it is enabled and acts, and its indexes. -/
def ringSize (s : State) (p r : Nat) : Nat := 2 ^ fld s (Reg.PW_RING_CFG p r) 4 0
def ringOn (s : State) (p r : Nat) : Bool := flag s (Reg.PW_RING_CFG p r) 31 && ringsRun s p
def ringProd (s : State) (p r : Nat) : Nat := fld s (Reg.PW_RING_PROD p r) 15 0
def ringCons (s : State) (p r : Nat) : Nat := fld s (Reg.PW_RING_CONS p r) 15 0
/-- Host address of an entry of `size` bytes. -/
def ringAddr (s : State) (p r i size : Nat) : Nat :=
  (reg s (Reg.PW_RING_BASE_LO p r)).toNat + (reg s (Reg.PW_RING_BASE_HI p r)).toNat * 2 ^ 32 + size * i
/-- The index after `i`. -/
def ringNext (s : State) (p r i : Nat) : Nat := (i + 1) % ringSize s p r
/-- The ring holds entries for its consumer. -/
def ringHas (s : State) (p r : Nat) : Bool := ringOn s p r && ringProd s p r != ringCons s p r
/-- RX has room for an entry; a ring that is not enabled has none (DEDUCED, log entry 44). -/
def rxRoom (s : State) (p : Nat) : Bool := ringOn s p 0 && ringNext s p 0 (ringProd s p 0) != ringCons s p 0

/-- The PASID that every DMA of partition `p` carries, if any (R274). -/
def pasidOf (s : State) (p : Nat) : Option Nat :=
  if enField s (Reg.partPage p) (Reg.PART_PASID p) 31 then some (fld s (Reg.PART_PASID p) 19 0) else none

/-- A DMA write of partition `p` with its PASID (R274). -/
def dmaOut (s : State) (p addr : Nat) (bs : List Byte) : State := emit (bw s 18 bs.length) (.dma p (pasidOf s p) addr bs)

/-- A DMA read of `n` bytes by partition `p` with its PASID (R274). -/
def dmaIn (s : State) (p addr n : Nat) : State := emit (bw s 18 n) (.dmaRead p (pasidOf s p) addr n)

/-- Host address of the partition's state image. -/
def imgAddr (s : State) (p : Nat) : Nat :=
  fld s (Reg.PART_IMG_ADDR_LO p) 31 6 * 64 + (reg s (Reg.PART_IMG_ADDR_HI p)).toNat * 2 ^ 32

/-- Fire vector 64 + 8p + `i`. -/
def partVector (s : State) (p i : Nat) : State := emit s (.msix (64 + 8 * p + i))

/-- A DMA of partition `p` fails: its ring, where it is a ring's, is disabled (R274). -/
def dmaError (s : State) (p : Nat) (r : Option Nat) : State :=
  let s := match r with
    | some r => setFlag s (Reg.PW_RING_CFG p r) 31 false
    | none => s
  partVector (setFlag s (Reg.PW_STAT p) 31 true) p 3

/-- The data of an RX entry: the stored bytes of a HOST_COPY, the segment of an EVENT, nothing for a HOLE; and whether a
word of it was uncorrectable. -/
def rxData (s : State) (f : FD) : List Byte × Bool × State :=
  if fdKind f = 2 then ([], false, s)
  else
    let (bad, d, s) := engineRead s (bufKey s f.w4) (fdLen f) (0x90 + fdPid f)
    (d, bad, s)

/-- The 64 bytes of an RX entry (R276). -/
def rxEntry (f : FD) (addr n : Nat) (st : Byte) (phase : Bool) (ps : PS) : List Byte :=
  (fdWords f).flatMap (fun w => leBytes 4 w.toNat) ++ leBytes 8 addr ++ leBytes 4 n ++ [st, byteOf phase.toNat 0, 0, 0]
    ++ leBytes 8 (psNat ps) ++ List.replicate 8 0

/-- RX_ENTRY_WRITE: the oldest FD of the partition's host ring; `bufAddr` is the address that the next RXB entry holds. -/
def rxEntryWrite (p bufAddr : Nat) (s : State) : State :=
  match (part s p).rxPend with
  | [] => s
  | (f, ps) :: rest =>
    let s := modPart s p (fun q => { q with rxPend := rest })
    if ¬ rxRoom s p then freeFd (note (count s (Reg.PW_RX_DROP p)) (Reg.partPage p) 0x04) f
    else
      let (d, bad, s) := rxData s f
      let f := if bad then fdSetFlag f 5 else f
      let buf := fdKind f ≠ 2 ∧ ringHas s p 1
      let st := if fdKind f ≠ 2 ∧ ¬ ringHas s p 1 then stEmpty else stOk
      let s := if buf then
          setReg (dmaOut (dmaIn s p (ringAddr s p 1 (ringCons s p 1) 16) 16) p bufAddr d) (Reg.PW_RING_CONS p 1) (word (ringNext s p 1 (ringCons s p 1)))
        else s
      let i := ringProd s p 0
      let entry := rxEntry f (if buf then bufAddr else 0) (if buf then d.length else 0) st (part s p).rxPhase ps
      let s := dmaOut s p (ringAddr s p 0 i 64) entry
      let s := setReg s (Reg.PW_RING_PROD p 0) (word (ringNext s p 0 i))
      let s := if fdKind f = 6 then ownFd s f (0x90 + p) else s
      let s := if ringNext s p 0 i = 0 then modPart s p (fun q => { q with rxPhase := !q.rxPhase }) else s
      if flag s (Reg.PW_CTL p) 0 then partVector s p 0 else s

/-- A doorbell: the index that the host owns. One that meets RESET is lost (R281). -/
def doorbell (s : State) (p r a : Nat) (v : Word) : State :=
  if partState s p = 6 then s else setReg s a (word (bits v 15 0 % ringSize s p r))

/-- RX_CONS_DOORBELL, RXB_DOORBELL, TX_DOORBELL. -/
def rxConsDoorbell (p : Nat) (v : Word) (s : State) : State := doorbell s p 0 (Reg.PW_RING_CONS p 0) v
def rxbDoorbell (p : Nat) (v : Word) (s : State) : State := doorbell s p 1 (Reg.PW_RING_PROD p 1) v
def txDoorbell (p : Nat) (v : Word) (s : State) : State := doorbell s p 2 (Reg.PW_RING_PROD p 2) v

/-- The FD in bytes 0 to 31 of an entry. -/
def entryFd (entry : List Byte) : FD := fdOf ((List.range 8).map (fun i => word (leNat (slice entry (4 * i) 4))))

/-- Send the frame of a TX entry: its status, and the state (R277). -/
def txSend (s : State) (p : Nat) (f : FD) (addr : Nat) (data : List Byte) : Byte × State :=
  let n := fdLen f
  if fdKind f ≠ 5 ∨ n = 0 ∨ 9216 < n then (stRefused, s)
  else match iwAlloc s (decide (2048 < n)) (0x90 + p) p none with
    | (0x00, bh, s) =>
      let d := slice data 0 n
      let s := engineWrite (dmaIn s p addr n) (bufKey s bh) d (0x90 + p)
      let f := { f with w0 := setBits (setBits f.w0 27 24 p) 19 12 0xFF, w4 := bh, w5 := crc32c d }
      (enqueueStatus s (fdQueue f) p, enqueue s (fdQueue f) p f (0x90 + p))
    | (st, _, s) => (st, s)

/-- TX_ENTRY_PROCESS: `entry` and `data` are what the DMA reads of the entry and of its data return. -/
def txEntryProcess (p : Nat) (entry data : List Byte) (s : State) : State :=
  if ¬ ringHas s p 2 ∨ partState s p = 6 then s
  else
    let i := ringCons s p 2
    let r := txSend (dmaIn s p (ringAddr s p 2 i 64) 64) p (entryFd entry) (leNat (slice entry 32 8)) data
    let s := dmaOut r.2 p (ringAddr r.2 p 2 i 64 + 44) [r.1, entry.getD 45 0 ||| 1]
    let s := setReg s (Reg.PW_RING_CONS p 2) (word (ringNext s p 2 i))
    if flag s (Reg.PW_CTL p) 1 then partVector s p 1 else s

/-- PART_SWIRQ: bit i fires vector 64 + 8p + 4 + i. -/
def partSwirq (p : Nat) (v : BitVec 4) (s : State) : State :=
  if ¬ pageOn s (Reg.partPage p) then s
  else (List.range 4).foldl (fun s i => if v.getLsbD i then partVector s p (4 + i) else s) s

/-! ## The commands -/

/-- PART_NOP. -/
def execPartNop (p : PartId) (s : State) : Host.Outcome State Fault Refusal := .next (partCommand p 0 (fun s => (stOk, s)) s)
/-- PART_CREATE. -/
def execPartCreate (p : PartId) (s : State) : Host.Outcome State Fault Refusal := .next (partCommand p 1 (createRun p) s)
/-- PART_COMMIT. -/
def execPartCommit (p : PartId) (s : State) : Host.Outcome State Fault Refusal := .next (partCommand p 2 (commitRun p) s)
/-- PART_START. -/
def execPartStart (p : PartId) (s : State) : Host.Outcome State Fault Refusal := .next (partCommand p 3 (startRun p) s)
/-- PART_ADMISSION_START. -/
def execPartAdmissionStart (p : PartId) (s : State) : Host.Outcome State Fault Refusal := .next (partAdmissionStart p s)
/-- PART_STOP. -/
def execPartStop (p : PartId) (s : State) : Host.Outcome State Fault Refusal := .next (partCommand p 4 (stopRun p) s)
/-- PART_FREEZE. -/
def execPartFreeze (p : PartId) (s : State) : Host.Outcome State Fault Refusal := .next (partCommand p 5 (freezeRun p) s)
/-- PART_DRAIN_END. -/
def execPartDrainEnd (p : PartId) (s : State) : Host.Outcome State Fault Refusal := .next (partDrainEnd p s)
/-- PART_THAW. -/
def execPartThaw (p : PartId) (s : State) : Host.Outcome State Fault Refusal := .next (partCommand p 6 (thawRun p) s)
/-- PART_RESET. -/
def execPartReset (p : PartId) (s : State) : Host.Outcome State Fault Refusal := .next (partCommand p 9 (resetRun p) s)
/-- PART_RESET_DONE. -/
def execPartResetDone (p : PartId) (s : State) : Host.Outcome State Fault Refusal := .next (partResetDone p s)
/-- PART_DESTROY. -/
def execPartDestroy (p : PartId) (s : State) : Host.Outcome State Fault Refusal := .next (partCommand p 0xA (destroyRun p) s)
/-- PART_RESERVED_CMD. -/
def execPartReservedCmd (p : PartId) (s : State) : Host.Outcome State Fault Refusal :=
  .next (partCommand p 0xB (fun s => partRefused s p 0x00) s)
/-- RX_ENTRY_WRITE. -/
def execRxEntryWrite (p : PartId) (bufAddr : BitVec 64) (s : State) : Host.Outcome State Fault Refusal :=
  .next (rxEntryWrite p bufAddr.toNat s)
/-- RX_CONS_DOORBELL. -/
def execRxConsDoorbell (p : PartId) (v : Word) (s : State) : Host.Outcome State Fault Refusal := .next (rxConsDoorbell p v s)
/-- RXB_DOORBELL. -/
def execRxbDoorbell (p : PartId) (v : Word) (s : State) : Host.Outcome State Fault Refusal := .next (rxbDoorbell p v s)
/-- TX_DOORBELL. -/
def execTxDoorbell (p : PartId) (v : Word) (s : State) : Host.Outcome State Fault Refusal := .next (txDoorbell p v s)
/-- TX_ENTRY_PROCESS. -/
def execTxEntryProcess (p : PartId) (entry data : List Byte) (s : State) : Host.Outcome State Fault Refusal :=
  .next (txEntryProcess p entry data s)
/-- PART_SWIRQ. -/
def execPartSwirq (p : PartId) (v : BitVec 4) (s : State) : Host.Outcome State Fault Refusal := .next (partSwirq p v s)

end Sys2Proof.Machine
end

