-- ==== Sys2Proof/Machine/Sha.lean ====
section
/-! DEFINITION. SHA-256 and SHA-384 (FIPS 180-4): the journal chain (R311), signed readings (R317), state images (R278)
and firmware images (R377). Its constants are computed as the standard defines them: fractional parts of roots of
the first primes. -/

namespace Sys2Proof.Machine

/-- The first 80 primes. -/
def shaPrimes : List Nat :=
  [2, 3, 5, 7, 11, 13, 17, 19, 23, 29, 31, 37, 41, 43, 47, 53, 59, 61, 67, 71] ++
  [73, 79, 83, 89, 97, 101, 103, 107, 109, 113, 127, 131, 137, 139, 149, 151, 157, 163, 167, 173] ++
  [179, 181, 191, 193, 197, 199, 211, 223, 227, 229, 233, 239, 241, 251, 257, 263, 269, 271, 277, 281] ++
  [283, 293, 307, 311, 313, 317, 331, 337, 347, 349, 353, 359, 367, 373, 379, 383, 389, 397, 401, 409]

/-- The first `n` bits of the fractional part of the root of degree `deg` of `p`, below 8: the root of p × 2^(deg × n) is
found bit by bit from the top. -/
def rootFraction (deg n p : Nat) : BitVec n :=
  BitVec.ofNat n ((List.range (n + 3)).foldl (fun r i =>
    let t := r + 2 ^ (n + 2 - i)
    if t ^ deg ≤ p * 2 ^ (deg * n) then t else r) 0)

/-- Round constants: cube roots of the first `count` primes. -/
def shaConstants (n count : Nat) : List (BitVec n) := (shaPrimes.take count).map (rootFraction 3 n)

/-- Initial values: square roots of eight primes, the first eight for SHA-256 and the next eight for SHA-384. -/
def shaInit (n skip : Nat) : List (BitVec n) := ((shaPrimes.drop skip).take 8).map (rootFraction 2 n)

/-- The functions and sizes in which the two hashes differ: round constants, word bytes, rotations. -/
structure Sha (n : Nat) where
  k : List (BitVec n)
  bytes : Nat
  big0 : Nat × Nat × Nat
  big1 : Nat × Nat × Nat
  small0 : Nat × Nat × Nat
  small1 : Nat × Nat × Nat

/-- SHA-256. -/
def sha256Spec : Sha 32 where
  k := shaConstants 32 64
  bytes := 4
  big0 := (2, 13, 22)
  big1 := (6, 11, 25)
  small0 := (7, 18, 3)
  small1 := (17, 19, 10)

/-- SHA-384, which is SHA-512 with its own initial value, cut to 48 bytes. -/
def sha384Spec : Sha 64 where
  k := shaConstants 64 80
  bytes := 8
  big0 := (28, 34, 39)
  big1 := (14, 18, 41)
  small0 := (1, 8, 7)
  small1 := (19, 61, 6)

/-- Three rotations, and two rotations with a shift. -/
def rot3 {n : Nat} (r : Nat × Nat × Nat) (x : BitVec n) : BitVec n := x.rotateRight r.1 ^^^ x.rotateRight r.2.1 ^^^ x.rotateRight r.2.2
def rot2 {n : Nat} (r : Nat × Nat × Nat) (x : BitVec n) : BitVec n := x.rotateRight r.1 ^^^ x.rotateRight r.2.1 ^^^ (x >>> r.2.2)

/-- The message schedule, newest word first, extended by `fuel` words. -/
def shaSchedule {n : Nat} (h : Sha n) : Nat → List (BitVec n) → List (BitVec n)
  | 0, w => w
  | fuel + 1, w => shaSchedule h fuel
      ((rot2 h.small1 (w.getD 1 0) + w.getD 6 0 + rot2 h.small0 (w.getD 14 0) + w.getD 15 0) :: w)

/-- Bit by bit: `y` where `x` is 1 and `z` where it is 0, and the value that two of three words have. -/
def shaChoose {n : Nat} (x y z : BitVec n) : BitVec n := z ^^^ (x &&& (y ^^^ z))
def shaMajority {n : Nat} (x y z : BitVec n) : BitVec n := (x &&& (y ||| z)) ||| (y &&& z)

/-- One round on the eight working words `v`: each moves one place on, with a new first word and a sum in the fifth. -/
def shaRound {n : Nat} (h : Sha n) (v : List (BitVec n)) (kw : BitVec n × BitVec n) : List (BitVec n) :=
  let at_ := fun i => v.getD i 0
  let t := at_ 7 + rot3 h.big1 (at_ 4) + shaChoose (at_ 4) (at_ 5) (at_ 6) + kw.1 + kw.2
  ((rot3 h.big0 (at_ 0) + shaMajority (at_ 0) (at_ 1) (at_ 2) + t) :: v.take 7).modify 4 (· + t)

/-- One block of 16 words. -/
def shaBlock {n : Nat} (h : Sha n) (v : List (BitVec n)) (block : List Byte) : List (BitVec n) :=
  let w := (List.range 16).map (fun i => BitVec.ofNat n (beNat (slice block (h.bytes * i) h.bytes)))
  let w := (shaSchedule h (h.k.length - 16) w.reverse).reverse
  List.zipWith (· + ·) v ((h.k.zip w).foldl (shaRound h) v)

/-- The message with its padding: a one bit, zeros, and the length in bits. -/
def shaPad (bytes : Nat) (m : List Byte) : List Byte :=
  let block := 16 * bytes
  let zeros := (block - (m.length + 1 + 2 * bytes) % block) % block
  m ++ [0x80] ++ List.replicate zeros 0 ++ beBytes (2 * bytes) (8 * m.length)

/-- The hash of a message: its words in network order. -/
def sha {n : Nat} (h : Sha n) (init : List (BitVec n)) (m : List Byte) : List Byte :=
  let p := shaPad h.bytes m
  let blocks := (List.range (p.length / (16 * h.bytes))).map (fun i => (p.drop (16 * h.bytes * i)).take (16 * h.bytes))
  (blocks.foldl (shaBlock h) init).flatMap (fun w => beBytes h.bytes w.toNat)

/-- SHA-256: 32 bytes. -/
def sha256 (m : List Byte) : List Byte := sha sha256Spec (shaInit 32 0) m
/-- SHA-384: 48 bytes. -/
def sha384 (m : List Byte) : List Byte := (sha sha384Spec (shaInit 64 8) m).take 48

end Sys2Proof.Machine
end

