-- ==== Sys2Proof/Machine/Signet.lean ====
section
/-! DEFINITION. The Signet accounting island: supply dips, journal, tallies, seal, signed readings and the auditor's port
(R301–R320). -/

namespace Sys2Proof.Machine

/-- Change the Signet. -/
def modSignet (s : State) (f : Signet → Signet) : State := { s with signet := f s.signet }

/-! ## Supply dips (R307) -/

/-- SIG_DIP_BEGIN (R307): a sample below 0.700 V. A dip that begins while no crossing is counted begins in the next one. -/
def sigDipBegin (mv : Nat) (s : State) : State :=
  if mv < 700 ∧ s.signet.dipFrom.isNone then
    modSignet s (fun g => { g with
      dipFrom := some (if s.phase.started ∧ ¬ s.phase.counting then s.phase.count + 1 else s.phase.count), dipLong := false })
  else s
def execSigDipBegin (mv : Nat) (s : State) : Host.Outcome State Fault Refusal := .next (sigDipBegin mv s)

/-- The data bytes of a supply record: duration in SIGCLK, saturating, and the lowest VCORE (R312). -/
def dipData (sigclk mv : Nat) : List Byte := beBytes 4 (sat (2 ^ 32 - 1) sigclk) ++ beBytes 2 mv

/-- SIG_DIP_END (R307): 4 samples at or above 0.700 V; a dip that fell below 0.660 V is a supply reset instead. -/
def sigDipEnd (sigclk mv : Nat) (s : State) : State :=
  match s.signet.dipFrom with
  | none => s
  | some b =>
    if mv < 660 then s
    else
      let s := modSignet (tally s 16 2 1) (fun g => { g with
        dipFrom := none
        windows := if s.phase.started then g.windows ++ [(b, s.phase.count + 64)] else g.windows })
      journal s 0x07 0xF (dipData sigclk mv)
def execSigDipEnd (sigclk mv : Nat) (s : State) : Host.Outcome State Fault Refusal := .next (sigDipEnd sigclk mv s)

/-- SIG_DIP_LONG (R305, R307): the dip has lasted 1 ms. -/
def sigDipLong (sigclk mv : Nat) (s : State) : State :=
  if s.signet.dipFrom.isSome ∧ ¬ s.signet.dipLong then
    journal (modSignet (tally s 16 3 1) (fun g => { g with dipLong := true })) 0x08 0xF (dipData sigclk mv)
  else s
def execSigDipLong (sigclk mv : Nat) (s : State) : Host.Outcome State Fault Refusal := .next (sigDipLong sigclk mv s)

/-! ## Journal (R309–R313) -/

/-- SIG_STAT.sealed: more seal rows than unseal steps are burnt (R314). -/
def sealed (s : State) : Bool := decide (s.signet.breaks < s.signet.seals.length)

/-- The records that can be read: those of a usable memory (SIG_STAT.jready, R313). -/
def readable (s : State) : List (Nat × Nat × List Byte) := if flag s Reg.SIG_STAT 28 then s.signet.journal else []

/-- SIG_JOURNAL_TAIL: the oldest record kept. -/
def journalTail (s : State) : Nat :=
  match (readable s).getLast? with
  | some r => r.2.1
  | none => s.signet.head

/-- Bytes 0 to 19 of a record (R310). -/
def recordHead (n : Nat) (q : Nat × Nat × PS × List Byte) : List Byte :=
  byteOf q.1 0 :: byteOf (16 * q.2.1) 0 :: beBytes 4 n ++ beBytes 8 (psNat q.2.2.1) ++ q.2.2.2

/-- The chain value after a record (R311). -/
def chainNext (c : BitVec 64) (head : List Byte) : BitVec 64 :=
  BitVec.ofNat 64 (beNat ((sha256 (beBytes 8 c.toNat ++ head)).take 8))

/-- A record with its chain value and check word (R310). -/
def recordBytes (head : List Byte) (c : BitVec 64) : List Byte :=
  let b := head ++ beBytes 8 c.toNat
  b ++ beBytes 4 (crc32 b).toNat

/-- Records per 4 KiB sector, and the records that the memory holds. -/
def sectorRecords : Nat := 128
def journalCap (s : State) : Nat := s.signet.journalBytes / 32

/-- Erase the sector that the record at the next place needs, if it holds records (R313). -/
def eraseSector (g : Signet) : Signet :=
  let cap := g.journalBytes / 32
  if g.place % sectorRecords = 0 ∧ cap ≤ g.place then
    { g with journal := g.journal.filter (fun r => decide (g.place + sectorRecords ≤ r.1 + cap)) }
  else g

/-- The READING record of a reading under way has been written, or lost (R317). -/
def readingWritten (s : State) (num : Nat) (c : Option (BitVec 64)) : State :=
  modSignet s (fun g => { g with making := g.making.map (fun r => if r.num = num then { r with written := some c } else r) })

/-- A record leaves the queue, with the chain value that it was written with, or lost. -/
def recordLeaves (s : State) (q : Nat × Nat × PS × List Byte) (c : Option (BitVec 64)) : State :=
  if q.1 = 0x0C then readingWritten s (beAt q.2.2.2 0 4) c else s

/-- JOURNAL_WRITE (R309–R311, R313): the oldest waiting record is written, or fails its third attempt and is lost; a lost
record takes no number (DEDUCED, log entry 46). -/
def journalWrite (ok : Bool) (s : State) : State :=
  match s.signet.queue with
  | [] => s
  | q :: rest =>
    let s := modSignet s (fun g => eraseSector { g with queue := rest })
    if ok then
      let head := recordHead s.signet.head q
      let c := chainNext s.signet.chain head
      let s := modSignet s (fun g => { g with
        journal := (g.place, g.head, recordBytes head c) :: g.journal, place := g.place + 1
        head := (g.head + 1) % 2 ^ 32, chain := c })
      recordLeaves s q (some c)
    else recordLeaves (journalLost s) q none
def execJournalWrite (ok : Bool) (s : State) : Host.Outcome State Fault Refusal := .next (journalWrite ok s)

/-- Clear every register of a page to its reset value. -/
def erasePage (s : State) (page : Nat) : State :=
  { s with regs := s.regs.filter (fun e => e.1 / 0x1000 ≠ page / 0x1000) }

/-- The Signet as its own power-on leaves it, with the one-time memory and the journal memory as they are (R301, R314). -/
def signetCleared (g : Signet) : Signet :=
  { journalBytes := g.journalBytes, journal := g.journal, place := g.place, seals := g.seals, breaks := g.breaks }

/-- Find the journal of a memory of `n` bytes: the one kept is resumed after its newest record; a torn newer record keeps
its place, for which the sector was erased before it was begun; a memory of another size is another memory, which holds
no record (R309, R313; log entry 47). -/
def findJournal (n : Nat) (torn : Bool) (g : Signet) : Signet :=
  let g := if n = g.journalBytes then g else { g with journalBytes := n, journal := [], place := 0 }
  let g := if torn then { (eraseSector g) with place := g.place + 1 } else g
  match g.journal with
  | [] => g
  | r :: _ => { g with head := (r.2.1 + 1) % 2 ^ 32, chain := BitVec.ofNat 64 (beAt r.2.2 20 8) }

/-- SIGNET_POWER_ON (R301, R303, R309, R313, R314). -/
def signetPowerOn (bytes : Option Nat) (torn : Bool) (s : State) : State :=
  let s := erasePage (modSignet s signetCleared) Reg.signetPage
  let s := match s.signet.seals with
    | [] => s
    | r :: _ => if sealed s then setReg s Reg.SIG_CFG r.1 else s
  match bytes.filter (fun n => decide (0x10000 ≤ n ∧ n ≤ 0x80000000)) with
  | some n =>
    journal (setFlag (modSignet s (findJournal n torn)) Reg.SIG_STAT 28 true) 0x01 0xF [byteOf torn.toNat 0]
  | none => journal (note s Reg.signetPage 0x01) 0x01 0xF [0]
def execSignetPowerOn (bytes : Option Nat) (torn : Bool) (s : State) : Host.Outcome State Fault Refusal :=
  .next (signetPowerOn bytes torn s)

/-- CROSSINGS of a partition. -/
def crossingsTally (s : State) (p : Nat) : Nat := Tbl.get (fun _ => 0) s.signet.tallies (32 * p)

/-- One CHECKPOINT, if the partition's CROSSINGS changed since its last one (R312). -/
def checkpoint (s : State) (p : Nat) : State :=
  let n := crossingsTally s p
  if n = Tbl.get (fun _ => 0) s.signet.lastCkpt p then s
  else
    let s' := journal s 0x0B p (beBytes 6 (packDec 12 n))
    if s'.signet.queue.length = s.signet.queue.length then s'
    else modSignet s' (fun g => { g with lastCkpt := Tbl.set (fun _ => 0) g.lastCkpt p n })

/-- ORBITS of the device set. -/
def orbitsTally (s : State) : Nat := Tbl.get (fun _ => 0) s.signet.tallies 512

/-- CHECKPOINT_DUE (R312): with ckpt at k above 0, once 2^k orbits have passed since the running period began. -/
def checkpointDue (s : State) : State :=
  let k := fld s Reg.SIG_CFG 23 20
  if k ≠ 0 ∧ s.signet.ckptAt + 2 ^ k ≤ orbitsTally s then
    modSignet ((List.range 16).foldl checkpoint s) (fun g => { g with ckptAt := orbitsTally s })
  else s
def execCheckpointDue (s : State) : Host.Outcome State Fault Refusal := .next (checkpointDue s)

/-! ## Tallies as they are read (R303–R305, R308) -/

/-- A tally as it reads: LIVE is CROSSINGS minus indexes 2 to 7; a reserved index reads 0; set 16 is the device set. -/
def tallyValue (s : State) (set i : Nat) : Nat :=
  let t := fun i => Tbl.get (fun _ => 0) s.signet.tallies (32 * set + i)
  if set = 16 then (if i < 6 then t i else 0)
  else if i = 1 then t 0 - ((List.range 6).map (fun k => t (k + 2))).sum
  else if i < 17 then t i else 0

/-- D0, D1, D2 of a tally (R303). -/
def tallyWords (v : Nat) : Nat × Nat × Nat :=
  let d := packDec 20 v
  (d % 2 ^ 32, d / 2 ^ 32 % 2 ^ 32, d / 2 ^ 64)

/-- A tally as D2, D1, D0 in network byte order (R317, R318). -/
def tallyBytes (v : Nat) : List Byte :=
  let d := tallyWords v
  beBytes 4 d.2.2 ++ beBytes 4 d.2.1 ++ beBytes 4 d.1

/-- The snapshot of a tally: where its storage fails a check by more than one bit, the value read is free (R320, R337). -/
def snapshot (s : State) (set i : Nat) : (Nat × Nat × Nat) × State :=
  let d := tallyWords (tallyValue s set i)
  match takeInjection s Reg.signetPage 4 with
  | (none, s) => (d, s)
  | (some 0, s) => (d, tallyErr s 0x04)
  | (some _, s) =>
    let (a, s) := fresh s
    let (b, s) := fresh s
    let (c, s) := fresh s
    ((a.toNat, b.toNat, c.toNat % 65536), tallyErr s 0x04)

/-- SIG_TALLY_READ (R308): a read of SIG_TALLY_D0. -/
def sigTallyRead (s : State) : State :=
  let (d, s) := snapshot s (if flag s Reg.SIG_SEL 8 then 16 else fld s Reg.SIG_SEL 15 12) (fld s Reg.SIG_SEL 4 0)
  let s := setReg (setReg (setReg s Reg.SIG_TALLY_D0 (word d.1)) Reg.SIG_TALLY_D1 (word d.2.1)) Reg.SIG_TALLY_D2 (word d.2.2)
  respond s [d.1]
def execSigTallyRead (s : State) : Host.Outcome State Fault Refusal := .next (sigTallyRead s)

/-- A dip window is open (SIG_STAT.dip). -/
def dipOpen (s : State) : Bool :=
  s.signet.dipFrom.isSome || (s.phase.started && s.signet.windows.any (fun w => decide (s.phase.count ≤ w.2)))

/-- SIG_STAT as it reads. SIG_UNSEAL_N is a pin that no command drives: its level is free at each sample (log entry 48). -/
def sigStat (s : State) : Word × State :=
  let (f, s) := fresh s
  let w := reg s Reg.SIG_STAT &&& 0x140000FF
  let w := setBit (setBit w 31 (sealed s)) 30 s.signet.session.isSome
  (setBit (setBit w 29 (bit f 0)) 27 (dipOpen s), s)

/-! ## Seal (R314–R316) -/

/-- SIG_SESSION_OPEN (R315): a nonzero code opens a session of 1 s. -/
def sigSessionOpen (code : Word) (s : State) : State :=
  if code = 0 then s else modSignet s (fun g => { g with session := some code })
def execSigSessionOpen (code : Word) (s : State) : Host.Outcome State Fault Refusal := .next (sigSessionOpen code s)

/-- SIG_SESSION_EXPIRE (R315). -/
def sigSessionExpire (s : State) : State := modSignet s (fun g => { g with session := none })
def execSigSessionExpire (s : State) : Host.Outcome State Fault Refusal := .next (sigSessionExpire s)

/-- SIG_STAT.status; a command that ends REFUSED records source 0x02 (R316, R320). -/
def sealStatus (s : State) (st : Byte) : State :=
  let s := setFld s Reg.SIG_STAT 7 0 st.toNat
  if st = stRefused then refuseWrite s Reg.signetPage 0x02 Reg.SIG_SEAL_CMD else s

/-- A seal command with an open session whose code it confirms; otherwise TIMEOUT, or DENIED and the session closes
(R316). -/
def withSession (s : State) (confirm : BitVec 16) (f : Word → State → State) : State :=
  match s.signet.session with
  | none => sealStatus s stTimeout
  | some code =>
    if code.setWidth 16 = confirm then f code s
    else sealStatus (modSignet s (fun g => { g with session := none })) stDenied

/-- SEAL (R314, R315, R316). -/
def sealCmd (confirm : BitVec 16) (s : State) : State :=
  withSession s confirm (fun code s =>
    if sealed s then sealStatus s stAlready
    else if ¬ flag s Reg.SIG_STAT 28 then sealStatus s stRefused
    else if 65 ≤ s.signet.seals.length then sealStatus s stFull
    else
      let cfg := reg s Reg.SIG_CFG
      let s := modSignet s (fun g => { g with seals := (cfg, code) :: g.seals, session := none })
      let s := journal s 0x02 0xF (beBytes 4 code.toNat ++ beBytes 2 (bits cfg 23 20 * 4096 + bits cfg 6 0))
      irq (sealStatus s stOk) Reg.signetPage 1)
def execSeal (confirm : BitVec 16) (s : State) : Host.Outcome State Fault Refusal := .next (sealCmd confirm s)

/-- UNSEAL (R314, R316). -/
def unsealCmd (confirm : BitVec 16) (s : State) : State :=
  withSession s confirm (fun code s =>
    if ¬ flag s Reg.SIG_STAT 28 then sealStatus s stRefused
    else if ¬ sealed s then sealStatus s stAlready
    else
      let (f, s) := fresh s
      if ¬ bit f 0 then sealStatus s stDenied
      else if 64 ≤ s.signet.breaks then sealStatus s stRefused
      else
        let s := modSignet s (fun g => { g with breaks := g.breaks + 1 })
        let s := journal s 0x03 0xF (beBytes 4 code.toNat ++ [byteOf s.signet.breaks 0])
        irq (sealStatus s stOk) Reg.signetPage 1)
def execUnseal (confirm : BitVec 16) (s : State) : Host.Outcome State Fault Refusal := .next (unsealCmd confirm s)

/-- SIG_CMD_NOP (R316): op 0 does nothing. -/
def sigCmdNop (s : State) : State := s
def execSigCmdNop (s : State) : Host.Outcome State Fault Refusal := .next (sigCmdNop s)

/-- SIG_CMD_RESERVED (R316): ops 3 to 15. -/
def sigCmdReserved (op : Nat) (s : State) : State := if op < 3 then s else sealStatus s stRefused
def execSigCmdReserved (op : Fin 16) (s : State) : Host.Outcome State Fault Refusal := .next (sigCmdReserved op s)

/-- SIG_CFG_WRITE (R314): a period of another length begins with the write (R312, log entry 189). -/
def sigCfgWrite (v : Word) (s : State) : State :=
  if sealed s then refuseWrite s Reg.signetPage 0x02 Reg.SIG_CFG
  else
    let t := plainWrite s Reg.SIG_CFG v
    if fld t Reg.SIG_CFG 23 20 = fld s Reg.SIG_CFG 23 20 then t
    else modSignet t (fun g => { g with ckptAt := orbitsTally s })
def execSigCfgWrite (v : Word) (s : State) : Host.Outcome State Fault Refusal := .next (sigCfgWrite v s)

/-! ## Signed readings (R317) -/

/-- Start a reading of partition `p` for a requester: its READING record is queued. -/
def startReading (s : State) (p who : Nat) : State :=
  let num := s.signet.readings
  let idx := 0 :: (List.range 15).map (· + 2)
  let body := beBytes 8 (psNat (psEvent s)) ++ beBytes 4 num ++ [byteOf p 0, 0, 0, 0]
    ++ (idx.map (fun i => tallyBytes (tallyValue s p i))).flatten
  let s := modSignet s (fun g => { g with
    readings := (num + 1) % 2 ^ 32, making := g.making ++ [{ num := num, who := who, body := body }] })
  let s' := journal s 0x0C p (beBytes 4 num)
  if s'.signet.queue.length = s.signet.queue.length then readingWritten s' num none else s'

/-- A finished reading: the chain value of a lost READING record is free (log entry 49). -/
def finishReading (s : State) (r : Reading) (c : Option (BitVec 64)) : State :=
  let (bs, s) := match c with
    | some c => (beBytes 8 c.toNat, s)
    | none => freshBytes s 8
  let b := r.body ++ bs
  let sig := slice (Config.signReading s.free (sha384 b)) 0 96
  let s := modSignet s (fun g => { g with finished := Tbl.set (fun _ => []) g.finished r.who (b ++ sig) })
  { s with free := s.free + 1 }

/-- SIGNED_READING_DONE (R317): the oldest reading whose READING record has been written is signed. -/
def signedReadingDone (s : State) : State :=
  match s.signet.making.find? (fun r => r.written.isSome) with
  | none => s
  | some r =>
    let s := modSignet s (fun g => { g with making := g.making.filter (fun x => x.num ≠ r.num) })
    finishReading s r (r.written.getD none)
def execSignedReadingDone (s : State) : Host.Outcome State Fault Refusal := .next (signedReadingDone s)

/-! ## The auditor's port (R318) -/

/-- A read transaction: the data bytes and the PEC over all bytes of the transaction, address bytes included. -/
def audRead (s : State) (ptr : Nat) (data : List Byte) : State :=
  let a := fld s Reg.SIG_CFG 6 0
  let pec := crc8 ([byteOf (2 * a) 0, byteOf ptr 0, byteOf (2 * a + 1) 0] ++ data)
  respond s ((data ++ [pec]).map BitVec.toNat)

/-- AUD_READ_STAT (R318). -/
def audReadStat (s : State) : State :=
  let (w, s) := sigStat s
  audRead s 0x00 (beBytes 4 w.toNat)
def execAudReadStat (s : State) : Host.Outcome State Fault Refusal := .next (audReadStat s)

/-- AUD_SELECT_TALLY (R318): an argument that is not listed is NACKed. -/
def audSelectTally (sel index : Byte) (s : State) : State :=
  if sel.toNat < 32 ∧ index.toNat < 32 then
    modSignet s (fun g => { g with audSet := if bit sel 4 then 16 else sel.toNat, audIndex := index.toNat })
  else s
def execAudSelectTally (sel index : Byte) (s : State) : Host.Outcome State Fault Refusal := .next (audSelectTally sel index s)

/-- AUD_READ_TALLY (R318). -/
def audReadTally (s : State) : State :=
  let (d, s) := snapshot s s.signet.audSet s.signet.audIndex
  audRead s 0x02 (beBytes 4 d.2.2 ++ beBytes 4 d.2.1 ++ beBytes 4 d.1)
def execAudReadTally (s : State) : Host.Outcome State Fault Refusal := .next (audReadTally s)

/-- AUD_SELECT_RECORD (R318). -/
def audSelectRecord (n : Word) (s : State) : State := modSignet s (fun g => { g with audRec := n.toNat })
def execAudSelectRecord (n : Word) (s : State) : Host.Outcome State Fault Refusal := .next (audSelectRecord n s)

/-- AUD_READ_RECORD (R318, R319): EMPTY outside tail to head − 1, with free bytes for the record. -/
def audReadRecord (s : State) : State :=
  match (readable s).find? (fun r => r.2.1 = s.signet.audRec) with
  | some r => audRead s 0x04 (stOk :: r.2.2)
  | none =>
    let (bs, s) := freshBytes s 32
    audRead s 0x04 (stEmpty :: bs)
def execAudReadRecord (s : State) : Host.Outcome State Fault Refusal := .next (audReadRecord s)

/-- AUD_READ_HEAD (R318). -/
def audReadHead (s : State) : State :=
  audRead s 0x05 (beBytes 4 s.signet.head ++ beBytes 4 (journalTail s) ++ beBytes 8 s.signet.chain.toNat)
def execAudReadHead (s : State) : Host.Outcome State Fault Refusal := .next (audReadHead s)

/-- AUD_READ_KEY (R318). -/
def audReadKey (s : State) : State := audRead s 0x06 (slice Config.publicKey 0 96)
def execAudReadKey (s : State) : Host.Outcome State Fault Refusal := .next (audReadKey s)

/-- AUD_READ_ID (R318). -/
def audReadId (s : State) : State :=
  audRead s 0x07 (beBytes 4 (reg s Reg.DEVICE_ID).toNat ++ beBytes 8 Config.uniqueId.toNat)
def execAudReadId (s : State) : Host.Outcome State Fault Refusal := .next (audReadId s)

/-- AUD_START_READING (R318). -/
def audStartReading (p : Nat) (s : State) : State := startReading s p 16
def execAudStartReading (p : PartId) (s : State) : Host.Outcome State Fault Refusal := .next (audStartReading p s)

/-- AUD_READ_READING (R318): BUSY with free bytes while the reading is under way; where none was ever started, the status
is free between the two (log entry 49). -/
def audReadReading (s : State) : State :=
  let busy := s.signet.making.any (fun r => r.who = 16)
  match busy, Tbl.get (fun _ => []) s.signet.finished 16 with
  | false, [] =>
    let (w, s) := fresh s
    let (bs, s) := freshBytes s 312
    audRead s 0x09 ((if bit w 0 then stOk else stBusy) :: bs)
  | false, r => audRead s 0x09 (stOk :: r)
  | true, _ =>
    let (bs, s) := freshBytes s 312
    audRead s 0x09 (stBusy :: bs)
def execAudReadReading (s : State) : Host.Outcome State Fault Refusal := .next (audReadReading s)

end Sys2Proof.Machine
end

