-- ==== Sys2Proof/Machine/Blotter.lean ====
section
/-! DEFINITION. The Blotter: reports, Nib hangs and fences, fault intervals, ALIVE, the Steward watchdog and fault
injection (R321–R338). Recording and reactions stand in Ops and Faults. -/

namespace Sys2Proof.Machine

/-- Change the Blotter. -/
def modBlotter (s : State) (f : Blotter → Blotter) : State := { s with blotter := f s.blotter }

/-- A page of the register space that has a header of its own: a window's registers have none (R273, R383). -/
def hasHeader (page : Nat) : Bool :=
  match pageAt (page / 0x1000) with
  | some (.window, _) => false
  | some _ => page % 0x1000 = 0
  | none => false

/-! ## Reports (R321–R328) -/

/-- The host ring of partition `p` whose entries an address lies in (R274). -/
def ringOf (s : State) (p addr : Nat) : Option Nat :=
  (List.range 3).find? (fun r => flag s (Reg.PW_RING_CFG p r) 31 &&
    decide (ringAddr s p r 0 0 ≤ addr ∧ addr < ringAddr s p r (ringSize s p r) (if r = 1 then 16 else 64)))

/-- What a report does beside its severity's reaction: a DMA error disables its ring, and a failed Nib is to be
fenced (R274, R327). An address inside the image that a SAVE or RESTORE moves is no ring's. Where any other address names
no ring, which of the two rings with DMA data it was is free (log entry 52). -/
def reportEffect (s : State) (page src mid addr : Nat) : State :=
  match pageAt (page / 0x1000), src with
  | some (.part, p), 2 => match ringOf s p addr with
    | some r => dmaError s p (some r)
    | none =>
      if ((part s p).saving ∨ (part s p).restoring.isSome) ∧ imgAddr s p ≤ addr ∧ addr < imgAddr s p + (reg s (Reg.PART_IMG_LEN p)).toNat then
        dmaError s p none
      else
        let (v, s) := fresh s
        dmaError s p (some (if bit v 0 then 0 else 2))
  | some (.signet, _), 3 => tallyRecord s 3
  | some (.signet, _), 4 => tallyRecord s 4
  | some (.blotter, _), 1 =>
    if mid < 128 then openInterval (modNib s mid (fun b => { b with fenceDue := true })) 1 mid (BitVec.ofNat 16 (2 ^ nibPid s mid)) else s
  | some (.blotter, _), 2 =>
    if mid < 128 then openInterval (modNib s mid (fun b => { b with fenceDue := true })) 1 mid (BitVec.ofNat 16 (2 ^ nibPid s mid)) else s
  | _, _ => s

/-- ERROR_REPORT (R321, R322, R325): a page reports a source, with the severity of the catalogue. -/
def errorReport (page src access mid addr : Nat) (s : State) : State :=
  if ¬ hasHeader page then s else reportEffect (fault s page src access mid addr) page src mid addr
def execErrorReport (page : Nat) (src : Byte) (access : Fin 16) (mid : Mid) (addr : BitVec 64) (s : State) :
    Host.Outcome State Fault Refusal :=
  .next (errorReport page src.toNat access mid.toNat addr.toNat s)

/-- ERR_STICKY_CLEAR (R322): W1C; a write that leaves 0 clears PG_FERR_SRC.valid. -/
def errStickyClear (page : Nat) (v : Word) (s : State) : State :=
  if ¬ hasHeader page then s
  else
    let s := setReg s (Reg.PG_ERR_STICKY page) (reg s (Reg.PG_ERR_STICKY page) &&& ~~~v)
    if reg s (Reg.PG_ERR_STICKY page) = 0 then setFlag s (Reg.PG_FERR_SRC page) 31 false else s
def execErrStickyClear (page : Nat) (v : Word) (s : State) : Host.Outcome State Fault Refusal := .next (errStickyClear page v s)

/-- FIRST_ERROR_REARM (R324): BL_FIRST_PAGE.valid is cleared. -/
def firstErrorRearm (s : State) : State := setFlag s Reg.BL_FIRST_PAGE 31 false
def execFirstErrorRearm (s : State) : Host.Outcome State Fault Refusal := .next (firstErrorRearm s)

/-! ## Nib hangs and fences (R331–R333) -/

/-- Some thread of the Nib is RUNNING. -/
def nibRunning (s : State) (n : Nat) : Bool := (List.range 8).any (fun i => (thread s (tidOf n i)).state = .running)

/-- One Nib's sample, which a disabled page is spared, so that its samples begin anew (R386): five consecutive ones with a RUNNING thread and no retirement between them are a hang. -/
def hangCheck (s : State) (n : Nat) : State :=
  let b := nib s n
  if b.fenced ∨ b.fenceDue then s
  else if ¬ flag s (Reg.PG_CTL (Reg.nibPage n)) 0 then modNib s n (fun b => { b with hangRuns := 0 })
  else
    let runs := if ¬ nibRunning s n then 0 else if b.retired then 1 else b.hangRuns + 1
    let s := modNib s n (fun b => { b with hangRuns := runs, retired := false })
    if 5 ≤ runs then nibFails s n 0x02 7 else s

/-- HANG_SAMPLE (R332): every Nib 0 to 127; the Steward is not sampled. -/
def hangSample (s : State) : State := (List.range 128).foldl hangCheck s
def execHangSample (s : State) : Host.Outcome State Fault Refusal := .next (hangSample s)

/-- Every message of the Nib's channels, waiting or being read, is discarded and counted. -/
def discardMessages (s : State) (n : Nat) : State :=
  let s := (List.range 8).foldl (fun s i =>
    let s := dropClaim s (tidOf n i) true
    let held := (thread s (tidOf n i)).ch0.length
    modThread (discardWords s n (8 * held)) (tidOf n i) (fun th => { th with ch0 := [] })) s
  (List.range 32).foldl (fun s c =>
    if (chan s n c).msgs.isEmpty then s
    else modChan (discardWords s n ((chan s n c).msgs.map List.length).sum) n c (fun ch => { ch with msgs := [] })) s

/-- Step 1 of the fence: locks break, messages are discarded, buffers return. -/
def fenceNib (s : State) (n : Nat) : State :=
  let s := modNib s n (fun b => { b with fenced := true, fenceDue := false })
  let s := (List.range 8).foldl (fun s i => breakLocks s (tidOf n i)) (nibLeaves s n)
  freeHeld (discardMessages s n) (fun b => b.owner = n)

/-- NIB_FENCE (R333): a failed Nib is fenced, its operations requeued and its slots dispatched again; the recovery is
complete. FATAL abandons it (R338). -/
def nibFence (n : Nat) (s : State) : State :=
  if ¬ (nib s n).fenceDue ∨ fatal s then s
  else
    let p := nibPid s n
    let s := recoveryDone (redispatchNib (requeueNib (fenceNib s n) n) n) 1 n
    if (supervisorNib s p).isNone then fault s Reg.blotterPage 0x0A 5 n n (some p) else s
def execNibFence (n : Fin 128) (s : State) : Host.Outcome State Fault Refusal := .next (nibFence n s)

/-! ## Fault intervals (R329, R330) -/

/-- An interval is over: the tick after its last step has passed. -/
def intervalOver (s : State) (i : Interval) : Bool := i.done.any (fun c => decide (c < s.phase.count))

/-- FAULT_INTERVAL_CLOSE (R329): the oldest interval that is over closes; the slots that it marks keep the mark. -/
def faultIntervalClose (s : State) : State :=
  match s.blotter.intervals.find? (intervalOver s) with
  | none => s
  | some i =>
    let s := { s with decisions := s.decisions.map (faultMarked s) }
    intervalShown (modBlotter s (fun b => { b with intervals := b.intervals.erase i }))
def execFaultIntervalClose (s : State) : Host.Outcome State Fault Refusal := .next (faultIntervalClose s)

/-- RECOVERY_TIMEOUT (R330): the oldest recovery that is not complete is abandoned, which is FATAL. -/
def recoveryTimeout (s : State) : State :=
  if s.blotter.intervals.any (fun i => i.done.isNone) ∧ ¬ fatal s then
    fault (setFlag s Reg.BL_RECOVERY_STAT 30 true) Reg.blotterPage 0x09 7
  else s
def execRecoveryTimeout (s : State) : Host.Outcome State Fault Refusal := .next (recoveryTimeout s)

/-! ## ALIVE and the Steward watchdog (R335, R336) -/

/-- ALIVE takes a level. -/
def setAlive (s : State) (b : Bool) : State :=
  if flag s Reg.ALIVE_CTL 16 = b then s else emit (setFlag s Reg.ALIVE_CTL 16 b) (.alive b)

/-- ALIVE_TOGGLE (R335): an edge is due; none comes once ALIVE has stopped or while reset is held. -/
def aliveToggle (s : State) : State :=
  if ¬ s.blotter.aliveOn ∨ s.blotter.aliveStopped then s else setAlive s (!flag s Reg.ALIVE_CTL 16)
def execAliveToggle (s : State) : Host.Outcome State Fault Refusal := .next (aliveToggle s)

/-- ALIVE_CTL_WRITE (R335): a period outside 1 to 1,000 µs is refused. -/
def aliveCtlWrite (v : Word) (s : State) : State :=
  if 1 ≤ bits v 9 0 ∧ bits v 9 0 ≤ 1000 then plainWrite s Reg.ALIVE_CTL v else refuseWrite s Reg.mgtPage 0x06 Reg.ALIVE_CTL
def execAliveCtlWrite (v : Word) (s : State) : Host.Outcome State Fault Refusal := .next (aliveCtlWrite v s)

/-- A write of BL_WDT (R336): the count starts in the write that sets en, and again at each kick; en once 1 stays 1. A
period outside 10 to 10,000,000 leaves the period as it was (DEDUCED, log entry 53). -/
def wdtWrite (v : Word) (s : State) : State :=
  let was := flag s Reg.BL_WDT 31
  let s := if 10 ≤ bits v 23 0 ∧ bits v 23 0 ≤ 10000000 then setFld s Reg.BL_WDT 23 0 (bits v 23 0) else s
  let s := setFlag s Reg.BL_WDT 31 (was || bit v 31)
  if flag s Reg.BL_WDT 31 ∧ (¬ was ∨ bit v 30) then modBlotter s (fun b => { b with wdtLeft := fld s Reg.BL_WDT 23 0 }) else s

/-- WDT_ENABLE: a write of BL_WDT with en 1. -/
def execWdtEnable (v : Word) (s : State) : Host.Outcome State Fault Refusal := .next (wdtWrite (setBit v 31 true) s)

/-- WDT_KICK (R336): the count starts again from period. -/
def wdtKick (s : State) : State :=
  if flag s Reg.BL_WDT 31 then modBlotter s (fun b => { b with wdtLeft := fld s Reg.BL_WDT 23 0 }) else s
def execWdtKick (s : State) : Host.Outcome State Fault Refusal := .next (wdtKick s)

/-- WDT_EXPIRE (R336): ALIVE stops, the Signet is told, and source 0x03 is FATAL. -/
def wdtExpire (s : State) : State :=
  if flag s Reg.BL_WDT 31 ∧ s.blotter.wdtLeft ≠ 0 then
    fault (stopAlive (modBlotter s (fun b => { b with wdtLeft := 0 })) 2) Reg.blotterPage 0x03 7
  else s
def execWdtExpire (s : State) : Host.Outcome State Fault Refusal := .next (wdtExpire s)

/-! ## Fault injection (R337) -/

/-- INJECT_ENABLE (R337): a write of BL_INJECT_CTL. -/
def injectEnable (v : Word) (s : State) : State :=
  if bits v 31 16 = 0x1A7E ∧ bit v 0 then
    if mode s = 4 ∧ sealed s then refuseWrite s Reg.blotterPage 0x08 Reg.BL_INJECT_CTL else setFlag s Reg.BL_INJECT_CTL 0 true
  else setFlag s Reg.BL_INJECT_CTL 0 false
def execInjectEnable (v : Word) (s : State) : Host.Outcome State Fault Refusal := .next (injectEnable v s)

/-- The sources of a page that are SECDED, parity or CRC checks, and the pipeline check of a Nib (R34, R102, R166, R187,
R210, R233, R251, R265, R300, R320, R328, R337, R382). -/
def checkSources : PageKind → List Nat
  | .phase => [1]
  | .blotter => [0, 6]
  | .signet => [3, 4]
  | .mgtnet => [0]
  | .copybook => [0, 1]
  | .scroll => [0, 1]
  | .inkwell => [0, 1, 4]
  | .copyist => [0]
  | .ductus => [0, 1, 6]
  | .ddr => [0, 1, 2]
  | .skovub => [0]
  | .nib => [5, 0xFF]
  | .helper => [0, 1]
  | _ => []

/-- The source may be armed on the page. -/
def isCheck (page src : Nat) : Bool :=
  match pageAt (page / 0x1000) with
  | some (k, _) => (checkSources k).contains src
  | none => false

/-- INJECT_ARM (R337): a write of PG_INJECT. -/
def injectArm (page : Nat) (v : Word) (s : State) : State :=
  if ¬ hasHeader page then s
  else if ¬ flag s Reg.BL_INJECT_CTL 0 ∨ (bit v 31 ∧ ¬ isCheck page (bits v 7 0)) then refuseWrite s Reg.blotterPage 0x08 (Reg.PG_INJECT page)
  else plainWrite s (Reg.PG_INJECT page) v
def execInjectArm (page : Nat) (v : Word) (s : State) : Host.Outcome State Fault Refusal := .next (injectArm page v s)

end Sys2Proof.Machine
end

