-- ==== Sys2Proof/Machine/Skovub.lean ====
section
/-! DEFINITION. The Skovub link: training, flits, heartbeats, roles, fragments and merge, and the manager's remote
windows (R283–R300, R393). Requests from a peer stand in Remote.lean. -/

namespace Sys2Proof.Machine

/-! ## Ports (R284, R288) -/

/-- The port is enabled. -/
def portOn (s : State) (k : Nat) : Bool := enField s (Reg.skovubPage k) (Reg.SK_PCFG k) 31
/-- The lanes of a port. -/
def portLanes (s : State) (k : Nat) : List Nat :=
  fld s (Reg.SK_PCFG k) 14 8 :: (if flag s (Reg.SK_PCFG k) 30 then [fld s (Reg.SK_PCFG k) 22 16] else [])
/-- Every lane of the port is UP, in mode SKOVUB and partition 0 (R284, R288). -/
def portLanesUp (s : State) (k : Nat) : Bool :=
  (portLanes s k).all (fun n => laneState s n = 2 && laneMode s n = 5 && lanePid s n = 0)
/-- Set SK_PSTAT.state. -/
def setPortState (s : State) (k st : Nat) : State := setFld s (Reg.SK_PSTAT k) 31 30 st
/-- The peer is declared down (R297). -/
def portDown (s : State) (k : Nat) : Bool := flag s (Reg.SK_PSTAT k) 29
/-- The port sends and starts things. -/
def portSends (s : State) (k : Nat) : Bool := portState s k = 2 && starts s (Reg.skovubPage k) && !fatal s

/-- The port retrains: its replay buffer is kept and sent again after the training, before what waits (R286, R299). -/
def retrain (k : Nat) (s : State) : State :=
  let s := setPortState s k (if portLanesUp s k then 1 else 3)
  modPort s k (fun p =>
    let kept := fun (c : Nat) => (p.replay.filter (fun f => f.cls = c)).map (·.msg)
    { p with q0 := kept 0 ++ p.q0, q1 := kept 1 ++ p.q1, replay := [], resend := [], resends := 0, probing := false, probes := [],
             early := [] })

/-! ## Link blocks (R285) -/

/-- A control block with its first bytes; the rest are 0. -/
def ctlBlock (ty : Byte) (l : List Byte) : Block := { sync := 2, bytes := ty :: slice l 0 7 }

/-- An acknowledgement and the credits that go with it: bytes 3 to 6 of a FLIT block, 1 to 4 of an ACK block. -/
def ackBytes (valid : Bool) (acked c0 c1 : Nat) : List Byte :=
  beBytes 2 (acked % 4096 * 16 + valid.toNat * 8) ++ [byteOf c0 0, byteOf c1 0]

/-- ACK, NAK, ECHO_REQ and ECHO_RSP. -/
def ackBlock (valid : Bool) (acked c0 c1 : Nat) : Block := ctlBlock 0x33 (ackBytes valid acked c0 c1)
def nakBlock (expected : Nat) : Block := ctlBlock 0x55 (beBytes 2 (expected % 4096 * 16))
def echoReqBlock (tag : BitVec 16) : Block := ctlBlock 0x66 (beBytes 2 tag.toNat)
def echoRspBlock (tag : BitVec 16) : Block := ctlBlock 0x6A (beBytes 2 tag.toNat)

/-- The bytes of a message: its header and its body (R289). -/
def msgBytes (m : SkMsg) : List Byte :=
  [byteOf m.ty 0, 0] ++ beBytes 2 (4 * m.body.length) ++ beBytes 4 m.hdr.toNat ++ m.body.flatMap (fun w => beBytes 4 w.toNat)

/-- The payload bytes of a message in one of its flits: 60, or fewer in the last. -/
def flitData (m : SkMsg) : List Byte := slice (msgBytes m) (60 * m.part) (min 60 ((msgBytes m).length - 60 * m.part))

/-- Bytes 1 to 7 of a FLIT block. -/
def flitHead (f : Flit) (ack : List Byte) : List Byte :=
  beBytes 2 (f.seq % 4096 * 16 + f.cls % 2 * 8 + (decide (f.msg.part = 0)).toNat * 4 + (decide (f.msg.part + 1 = f.msg.parts)).toNat * 2)
    ++ ack ++ [0]

/-- A flit as its nine blocks: the FLIT block, then 60 payload bytes and their CRC-32 in eight data blocks. -/
def flitBlocks (head payload : List Byte) : List Block :=
  let data := payload ++ leBytes 4 (crc32 (head ++ payload)).toNat
  ctlBlock 0x2D head :: (List.range 8).map (fun i => { sync := 1, bytes := slice data (8 * i) 8 })

/-- The header of a received flit, if its blocks are a flit's and its CRC-32 is good. -/
def readFlit : List Block → Option FlitHead
  | [] => none
  | b :: l =>
    let head := slice b.bytes 1 7
    let data := l.flatMap (fun d => slice d.bytes 0 8)
    let w := fun (i : Nat) => leNat [head.getD (i + 1) 0, head.getD i 0]
    if b.sync = 2 ∧ blockType b = 0x2D ∧ l.length = 8 ∧ l.all (fun d => d.sync = 1)
      ∧ (crc32 (head ++ data.take 60)).toNat = leNat (data.drop 60) then
      some { seq := BitVec.ofNat 12 (w 0 / 16), cls := Fin.ofNat 2 (w 0 / 8), ackValid := w 2 / 8 % 2 = 1
             acked := BitVec.ofNat 12 (w 2 / 16), credits0 := head.getD 4 0, credits1 := head.getD 5 0 }
    else none

/-! ## Training (R288) -/

/-- SK_TRAIN: with every lane UP the 16 probes go out, tagged 0 to 15 (DESIGN CHOICE, log entry 186); once all are answered,
seq is 0, the credits are granted and the port is UP. -/
def skTrain (k : Nat) (s : State) : State :=
  if ¬ portOn s k ∨ ¬ portLanesUp s k ∨ ¬ starts s (Reg.skovubPage k) ∨ fatal s ∨ portState s k = 2 then s
  else if ¬ (port s k).probing then
    let s := setFld (setPortState (retrain k s) k 1) (Reg.SK_RTT_FCLK k) 15 0 0
    let tags := (List.range 16).map (BitVec.ofNat 16)
    tags.foldl (fun s t => emit s (.link k (echoReqBlock t))) (modPort s k (fun p => { p with probing := true, probes := tags, cr0 := 0, cr1 := 0 }))
  else if (port s k).probes ≠ [] then s
  else
    let s := modPort s k (fun p => { p with probing := false, sendSeq := 0, recvSeq := 0, heard := false, early := [], ret0 := 0, ret1 := 0,
                                             hbSince := s.phase.count })
    emit (setPortState s k 2) (.link k (ackBlock false 0 64 192))

/-- ECHO_REQ_RECEIVE. -/
def echoReqReceive (k : Nat) (tag : BitVec 16) (s : State) : State :=
  if portOn s k ∧ portLanesUp s k ∧ ¬ fatal s then emit s (.link k (echoRspBlock tag)) else s

/-- ECHO_RSP_RECEIVE: an answer to a probe of this training; the longest round trip counts. -/
def echoRspReceive (k : Nat) (tag : BitVec 16) (roundTrip : Nat) (s : State) : State :=
  if portState s k = 1 ∧ (port s k).probing ∧ tag ∈ (port s k).probes then
    let s := modPort s k (fun p => { p with probes := p.probes.erase tag })
    setFld s (Reg.SK_RTT_FCLK k) 15 0 (max (fld s (Reg.SK_RTT_FCLK k) 15 0) roundTrip)
  else s

/-- SK_PSTAT.rtt: round trip in crossings, rounded up and saturating; it follows XING_FCLK. -/
def rttOf (s : State) (k : Nat) : Nat :=
  let x := (reg s Reg.XING_FCLK).toNat
  let r := fld s (Reg.SK_RTT_FCLK k) 15 0 * 65536
  if r = 0 then 0 else if x = 0 then 255 else sat 255 (cdiv r x)

/-- One-way latency in crossings. -/
def oneWay (s : State) (k : Nat) : Nat := cdiv (rttOf s k) 2

/-! ## Flits (R285–R287) -/

/-- Sequence number of the last flit accepted. -/
def ackedSeq (p : Port) : Nat := (p.recvSeq + 4095) % 4096

/-- The lane that a flit leaves on: of two, the first for an even seq and the second for an odd one. -/
def flitLane (s : State) (k seq : Nat) : Nat :=
  let l := portLanes s k
  l.getD (seq % l.length) 0

/-- A flit leaves: it carries the acknowledgement and the credits to return. What its payload holds after the message the
rules do not say: those bytes are free. -/
def emitFlit (s : State) (k : Nat) (f : Flit) : State :=
  let p := port s k
  let (pad, s) := freshBytes s (60 - (flitData f.msg).length)
  let blocks := flitBlocks (flitHead f (ackBytes p.heard (ackedSeq p) p.ret0 p.ret1)) (flitData f.msg ++ pad)
  let s := emit (count s (Reg.SK_FLITS_TX k)) (.flit k (flitLane s k f.seq) f blocks)
  bw (modPort s k (fun p => { p with ret0 := 0, ret1 := 0 })) 42 64

/-- A new flit of class `c` is numbered, sent against a credit and kept. -/
def sendNew (s : State) (k c : Nat) (m : SkMsg) : State :=
  let f : Flit := { seq := (port s k).sendSeq, cls := c, msg := m }
  emitFlit (modPort s k (fun p =>
    let p := { p with sendSeq := (p.sendSeq + 1) % 4096, replay := p.replay ++ [f] }
    if c = 0 then { p with q0 := p.q0.drop 1, cr0 := p.cr0 - 1 } else { p with q1 := p.q1.drop 1, cr1 := p.cr1 - 1 })) k f

/-- FLIT_SEND: flits to send again go first; then class 0 before class 1, each against its credit. -/
def flitSend (k : Nat) (s : State) : State :=
  let p := port s k
  if ¬ portSends s k then s
  else match p.resend with
    | f :: r => emitFlit (modPort s k (fun p => { p with resend := r })) k f
    | [] =>
      if 256 ≤ p.replay.length then s
      else match p.q0, p.q1 with
        | m :: _, q1 => if 0 < p.cr0 then sendNew s k 0 m
          else match q1 with
            | m1 :: _ => if 0 < p.cr1 then sendNew s k 1 m1 else s
            | [] => s
        | [], m1 :: _ => if 0 < p.cr1 then sendNew s k 1 m1 else s
        | [], [] => s

/-- Credits come back, and a valid acknowledgement frees the flits up to it. -/
def takeAck (k : Nat) (valid : Bool) (acked c0 c1 : Nat) (s : State) : State :=
  let s := modPort s k (fun p => { p with cr0 := p.cr0 + c0, cr1 := p.cr1 + c1 })
  match (port s k).replay.findIdx? (fun f => f.seq = acked) with
  | some i => if valid then modPort s k (fun p =>
      let gone := p.replay.take (i + 1)
      { p with replay := p.replay.drop (i + 1), resend := p.resend.filter (fun f => !gone.contains f), resends := 0 }) else s
  | none => s

/-- ACK_RECEIVE: the grant of a peer that trained first may come before this side is UP. -/
def ackReceive (k : Nat) (valid : Bool) (acked : BitVec 12) (c0 c1 : Byte) (s : State) : State :=
  if portState s k = 2 ∨ portState s k = 1 then takeAck k valid acked.toNat c0.toNat c1.toNat s else s

/-- Flits of one lane that pass in 256 ns: nine blocks of 66 bits each at the lane's rate (R58, R287). -/
def skewFlits (s : State) (k : Nat) : Nat :=
  256 * lineRate (fld s (Reg.LANE_CTL (fld s (Reg.SK_PCFG k) 14 8)) 15 12) / 594000000

/-- A good flit of a two-lane port is ahead of the next expected one, on the other lane and within the skew: the expected
one may still come (R287; DEDUCED, log entry 187). -/
def flitEarly (s : State) (k seq : Nat) : Bool :=
  let d := (seq + 4096 - (port s k).recvSeq) % 4096
  flag s (Reg.SK_PCFG k) 30 && d % 2 = 1 && decide (d ≤ 2 * skewFlits s k)

/-- The early flits that follow in seq order from `seq` on; `fuel` bounds them. -/
def inSeq (l : List FlitHead) : Nat → Nat → List FlitHead
  | 0, _ => []
  | fuel + 1, seq => match l.find? (fun h => h.seq.toNat = seq) with
    | some h => h :: inSeq l fuel ((seq + 1) % 4096)
    | none => []

/-- Accept a flit and the early ones that follow it: acknowledged at once, their buffers are free again. -/
def acceptFlits (k : Nat) (h : FlitHead) (s : State) : State :=
  let p := port s k
  let run := h :: inSeq p.early p.early.length ((p.recvSeq + 1) % 4096)
  let next := (p.recvSeq + run.length) % 4096
  let r0 := p.ret0 + (run.filter (fun h => h.cls = 0)).length
  let r1 := p.ret1 + (run.filter (fun h => h.cls ≠ 0)).length
  let s := modPort (countN s (Reg.SK_FLITS_RX k) run.length) k (fun p => { p with
    recvSeq := next, heard := true, early := p.early.filter (fun e => !run.contains e), ret0 := r0, ret1 := r1 })
  if fatal s then s
  else emit (modPort s k (fun p => { p with ret0 := 0, ret1 := 0 })) (.link k (ackBlock true (ackedSeq (port s k)) r0 r1))

/-- A flit is discarded, and the sender asked to send again from the one expected: the early ones come again too. -/
def discardFlit (k access : Nat) (s : State) : State :=
  let s := note (modPort s k (fun p => { p with early := [] })) (Reg.skovubPage k) 0x00 access
  if fatal s then s else emit s (.link k (nakBlock (port s k).recvSeq))

/-- FLIT_RECEIVE: a good flit in order is accepted, one that skew brought early waits for those before it, and any other is
discarded with a NAK. -/
def flitReceive (k : Nat) (l : List Block) (s : State) : State :=
  if portState s k ≠ 2 then s
  else match takeInjection (bw s 42 64) (Reg.skovubPage k) 0, readFlit l with
    | (none, s), some h =>
      let s := takeAck k h.ackValid h.acked.toNat h.credits0.toNat h.credits1.toNat s
      if h.seq.toNat = (port s k).recvSeq then acceptFlits k h s
      else if flitEarly s k h.seq.toNat then modPort s k (fun p => { p with early := p.early ++ [h] })
      else discardFlit k 5 s
    | (hit, s), _ => discardFlit k (if hit.isSome then 0xD else 5) (count s (Reg.SK_CRC_ERR k))

/-- Send again from a flit of the replay buffer; after 8 consecutive resends without progress the port retrains. -/
def resendFrom (k i : Nat) (s : State) : State :=
  if 8 ≤ (port s k).resends then retrain k (note s (Reg.skovubPage k) 0x01)
  else modPort (count s (Reg.SK_RESENDS k)) k (fun p => { p with resend := p.replay.drop i, resends := p.resends + 1 })

/-- NAK_RECEIVE. -/
def nakReceive (k : Nat) (expected : BitVec 12) (s : State) : State :=
  if portState s k ≠ 2 then s
  else match (port s k).replay.findIdx? (fun f => f.seq = expected.toNat) with
    | some i => resendFrom k i s
    | none => s

/-- FLIT_REPLAY_TIMEOUT: the oldest flit has stayed unacknowledged for 2 µs. -/
def flitReplayTimeout (k : Nat) (s : State) : State :=
  if portState s k ≠ 2 ∨ (port s k).replay = [] then s else resendFrom k 0 s

/-! ## Roles (R283, R298) -/

/-- A mode change: MODE_CUR.mode, MODE_HIST, and bit 0 of the MGT page (R357). -/
def enterMode (s : State) (m by_ : Nat) : State :=
  let h := reg s Reg.MODE_HIST
  let s := setReg s Reg.MODE_HIST (word ((bits h 31 16 + 1) % 65536 * 65536 + mode s * 256 + by_))
  irq (setFld s Reg.MODE_CUR 2 0 m) Reg.mgtPage 0

/-- The ports to the primary and to the standby. -/
def primaryPort (s : State) : Nat := fld s Reg.SK_UPLINK 12 8
def standbyPort (s : State) : Nat := fld s Reg.SK_UPLINK 20 16

/-- Whom a device with an uplink follows: 0 none, 1 the primary, 2 the standby. -/
def followNow (s : State) : Nat :=
  let sb := enField s (Reg.skovubPage 0) Reg.SK_UPLINK 30 && !portDown s (standbyPort s) && flag s (Reg.SK_PSTAT (standbyPort s)) 26
  if ¬ enField s (Reg.skovubPage 0) Reg.SK_UPLINK 31 ∨ role s = 0 then 0
  else if follows s = 2 ∧ sb then 2
  else if ¬ portDown s (primaryPort s) then 1
  else if sb then 2 else 0

/-- Members whose HEARTBEAT shows that they follow manager `v`. -/
def followers (s : State) (v : Nat) : Nat := membersWith s (fun k => fld s (Reg.SK_PSTAT k) 25 24 = v)

/-- A primary is active with a quorum; an active standby that a quorum has followed stays active while one does
(DEDUCED, log entry 45). -/
def updateActive (s : State) : State :=
  match role s with
  | 2 => setActive s (decide (quorum s ≤ followers s 1))
  | 3 =>
    if ¬ flag s Reg.SK_ROLE 4 then s
    else if quorum s ≤ followers s 2 then { s with mgt := { s.mgt with sbFollowed := true } }
    else if s.mgt.sbFollowed then setActive { s with mgt := { s.mgt with sbFollowed := false } } false else s
  | _ => s

/-- What a change on a port means for whom the device follows and whether it decides. -/
def updateRoles (s : State) : State :=
  let f := followNow s
  let s := if follows s = f then s else irq (setFld s Reg.SK_ROLE 9 8 f) (Reg.skovubPage 0) 2
  updateActive s

/-- A device that has no manager, or a primary below quorum. -/
def leaderless (s : State) : Bool :=
  (role s = 1 && follows s = 0) || (role s = 2 && !flag s Reg.SK_ROLE 4)

/-- ENTER_ORPHAN. -/
def enterOrphan (s : State) : State :=
  let s := updateRoles s
  if mode s = 4 ∧ leaderless s ∧ ¬ fatal s then enterMode s 6 2 else s

/-- LEAVE_ORPHAN: at an orbit boundary. -/
def leaveOrphan (s : State) : State :=
  let s := updateRoles s
  if mode s = 6 ∧ ¬ leaderless s ∧ s.phase.now.index = 0 ∧ ¬ fatal s then enterMode s 4 3 else s

/-- STANDBY_TAKEOVER: at the orbit boundary. -/
def standbyTakeover (s : State) : State :=
  if role s = 3 ∧ ¬ flag s Reg.SK_ROLE 4 ∧ s.phase.now.index = 0 ∧ portDown s (primaryPort s) ∧ 3 ≤ s.mgt.quorumRuns then
    setActive { s with mgt := { s.mgt with sbFollowed := false } } true
  else s

/-- SK_HANDBACK: a write of 1 to SK_ROLE.handback. -/
def skHandback (s : State) : State :=
  if role s = 3 then { s with mgt := { s.mgt with handback := true } } else s

/-! ## Heartbeats and phase checks (R290, R297) -/

/-- HEARTBEAT_SEND: at the ticks whose internal count is a multiple of 256. -/
def heartbeatSend (k : Nat) (s : State) : State :=
  if ¬ portState s k = 2 ∨ s.phase.count % 256 ≠ 0 then s
  else
    let lost := role s = 1 && enField s (Reg.skovubPage 0) Reg.SK_UPLINK 31 && portDown s (primaryPort s)
    let b := (flag s Reg.SK_ROLE 4).toNat + 2 * follows s + 8 * lost.toNat
    skSend s k 0x01 (spsNow s) [word (role s * 2 ^ 24 + b * 2 ^ 16 + lat s), 0]

/-- HEARTBEAT: a received HEARTBEAT. -/
def heartbeat (k : Nat) (h : HeartbeatBody) (s : State) : State :=
  if portState s k ≠ 2 then s
  else
    let s := if portDown s k then irq (setFlag s (Reg.SK_PSTAT k) 29 false) (Reg.skovubPage k) 1 else s
    let s := setFld s (Reg.SK_PSTAT k) 28 23
      (h.role.val * 16 + h.active.toNat * 8 + h.follows.val * 2 + h.plost.toNat)
    let s := setFld s (Reg.SK_PEER_LAT k) 14 0 h.lat.toNat
    updateRoles (modPort s k (fun p => { p with hbSince := s.phase.count, hbMissed := 0 }))

/-- A block read of the board's I2C port (R378): the byte count, the data, and the PEC over all bytes of the transaction,
address bytes included. -/
def boardAnswer (s : State) (cmd : Nat) (data : List Byte) : State :=
  let a := fld s Reg.BT_I2C 6 0
  let body := byteOf data.length 0 :: data
  let pec := crc8 ([byteOf (2 * a) 0, byteOf cmd 0, byteOf (2 * a + 1) 0] ++ body)
  respond s ((body ++ [pec]).map BitVec.toNat)

/-- What a remote read gives to its reader. -/
def remoteGives (s : State) (r : RemoteReq) (l : List Word) : State :=
  match r.reader with
  | .host => respond s (l.map (·.toNat))
  | .thread t p => if blockedOn s t p then deliverIn s t (.plain (l.headD 0)) else s
  | .board => boardAnswer s 0x21 (beBytes 4 (l.headD 0).toNat)

/-- A remote read ends without an answer: 0xFFFF_FFFF, counted, source 0x04; a read made for the device above is answered
to it (R295). -/
def remoteLost (s : State) (k : Nat) (r : RemoteReq) : State :=
  let s := note (count s (Reg.SK_REG_TMO k)) (Reg.skovubPage k) 0x04
  match r.back, r.poll with
  | some (j, tag), _ => skSend s j 0x06 tag [word (stTimeout.toNat * 2 ^ 24), 0xFFFFFFFF]
  | none, some _ => s
  | none, none => remoteGives s r [0xFFFFFFFF]

/-- Port `k` is off: reads that wait end as lost (R295). -/
def portOff (k : Nat) (s : State) : State :=
  let waiting := (port s k).remotes
  waiting.foldl (fun s r => remoteLost s k r) (modPort (setPortState s k 0) k (fun _ => {}))

/-- The peer is declared down: the replay buffer is discarded, waiting requests complete, the port retrains (R297). -/
def declareDown (k : Nat) (s : State) : State :=
  let waiting := (port s k).remotes
  let s := modPort s k (fun p => { p with replay := [], resend := [], remotes := [] })
  let s := waiting.foldl (fun s r => remoteLost s k r) s
  let s := irq (setFlag (retrain k s) (Reg.SK_PSTAT k) 29 true) (Reg.skovubPage k) 0
  updateRoles (fault s (Reg.skovubPage k) 0x02)

/-- HEARTBEAT_MISSED: a period of 256 crossings has passed with no HEARTBEAT. -/
def heartbeatMissed (k : Nat) (s : State) : State :=
  if ¬ portOn s k ∨ s.phase.count < (port s k).hbSince + 256 then s
  else
    let s := count s (Reg.SK_HB_MISS k)
    let s := modPort s k (fun p => { p with hbSince := p.hbSince + 256, hbMissed := p.hbMissed + 1 })
    if 3 ≤ (port s k).hbMissed ∧ ¬ portDown s k then declareDown k s else s

/-- PHASE_CHECK: a received PHASE_CHECK names crossing 0 of the local orbit about one way ago, or it is a mismatch. -/
def phaseCheck (k : Nat) (ps : BitVec 64) (s : State) : State :=
  if portState s k ≠ 2 ∨ ¬ s.phase.started then s
  else
    let age := ageOf s 48 (bits ps 63 16) (bits ps 15 0)
    let ow : Int := oneWay s k
    if bits ps 15 0 = 0 ∧ ow - 1 ≤ age ∧ age ≤ ow + 1 then modPort s k (fun p => { p with phaseMiss := 0, disagree := false })
    else
      let s := modPort s k (fun p => { p with phaseMiss := p.phaseMiss + 1 })
      if (port s k).phaseMiss = 2 then fault (modPort s k (fun p => { p with disagree := true })) (Reg.skovubPage k) 0x03 else s

/-! ## Fragments, events and merge (R291–R294) -/

/-- MG_DEADLINE of a partition. -/
def mergeDeadline (s : State) (p : Nat) : Nat := fld s (Reg.MG_DEADLINE p) 14 0
/-- The merge of a partition is enabled. -/
def mergeOn (s : State) (p : Nat) : Bool := 2 ≤ role s && enField s (Reg.skovubPage 0) (Reg.MG_CTL p) 31

/-- Age of a crossing by its SPS. -/
def spsAge (s : State) (sps : Word) : Int := ageOf s 16 (bits sps 31 16) (bits sps 15 0)

/-- FRAGMENT: a received FRAGMENT. -/
def fragment (k : Nat) (sps : Word) (dr : DR) (s : State) : State :=
  let p := fld s (Reg.SK_PMERGE k) 19 16
  if portState s k ≠ 2 then s
  else
    let s := count s (Reg.SK_FRAG_RX k)
    let age := spsAge s sps
    let b := (countAt s age).toNat
    if ¬ flag s (Reg.SK_PMERGE k) 31 ∨ ¬ mergeOn s p then s
    else if age < 0 ∨ (mergeDeadline s p : Int) - 1 < age then note (count s (Reg.SK_FRAG_LATE k)) (Reg.skovubPage k) 0x05
    else if (port s k).frags.any (fun f => f.1 = b) then note s (Reg.skovubPage k) 0x05
    else modPort s k (fun q => { q with frags := q.frags ++ [(b, dr)] })

/-- EVENT: on the port that the device follows, an accept for the partition that goes up; an active mid-level manager
passes it down (R283, R298). -/
def eventMsg (k : Nat) (sps : Word) (dr : DR) (s : State) : State :=
  let age := spsAge s sps
  let c := countAt s age
  if portState s k ≠ 2 ∨ uplinkPort s ≠ some k ∨ age < 0 ∨ c < 0 then s
  else
    let p := fld s Reg.SK_UPLINK 3 0
    let s := if 2 ≤ role s ∧ flag s Reg.SK_ROLE 4 ∧ mode s ≠ 6 then ((memberPorts s p).filter (fun j => portState s j = 2)).foldl
        (fun s j => skSend s j 0x04 sps [dr.d0, dr.d1, dr.d2, dr.d3]) s else s
    pushAccept s { p := p, b := c.toNat, ps := psOfSps s sps, bits := BitVec.ofNat 16 (drBits dr), qs := drQs dr,
                   defaulted := bit dr.d1 25, seq := dr.d3, epoch := partEpoch s p }

/-- What a member port contributes to the merge of crossing `b`: its bits, whether its fragment is present, its qs and
defaulted marks. In a phase disagreement its fragments count as missing (R327). -/
def contribution (s : State) (k b : Nat) : Nat × Bool × Bool × Bool :=
  match (port s k).frags.find? (fun f => f.1 = b) with
  | some (_, r) => if (port s k).disagree then (fld s (Reg.SK_PMERGE k) 15 0, false, false, false)
      else (drBits r, true, drQs r, bit r.d1 25)
  | none => (fld s (Reg.SK_PMERGE k) 15 0, false, false, false)

/-- The 32 words of the merge table entry. -/
def mergeEntry (s : State) (l : List Nat) (b : Nat) : List Byte :=
  (List.range 32).flatMap (fun k =>
    if l.contains k then
      let (v, pr, qs, df) := contribution s k b
      leBytes 4 (v + pr.toNat * 2 ^ 16 + qs.toNat * 2 ^ 17 + df.toNat * 2 ^ 18)
    else leBytes 4 0)

/-- FIRMWARE mode: the table entry, and the external token; what its words t5 to t7 hold the rule does not say: they are
free (log entry 183). A table outside the Inkwell SRAM is not written. -/
def mergeFirmware (s : State) (p b idx : Nat) (l : List Nat) (missing : Nat) : State :=
  let addr := (reg s (Reg.MG_TBASE p)).toNat / 128 * 128 + idx % 64 * 128
  let present := (l.map (fun k => if (contribution s k b).2.1 then 2 ^ k else 0)).sum
  let s := if 0x1C000000 ≤ addr ∧ addr < 0x1E000000 then
      engineWrite s (addr - 0x10000000) (mergeEntry s l b) 0x84 else s
  let tpl := fld s (Reg.MG_CTL p) 15 8
  let node := fld s (Reg.MG_CTL p) 21 16
  match s.ductus.insts.find? (fun x => x.tpl = tpl && x.b = b && x.pid = p) with
  | none => s
  | some x =>
    let (u, s) := fresh s
    let (v, s) := fresh s
    let (w, s) := fresh s
    (putToken s x.num node 0 (tokenWords tpl node 0 0x3F true (spsOf x.ps) [word present, word missing, word addr, u, v, w])).1

/-- MERGE_CLOSE: at the tick of b + MG_DEADLINE the merge of partition `p` closes crossing b. -/
def mergeClose (p : Nat) (s : State) : State :=
  let b := s.phase.count - mergeDeadline s p
  if ¬ mergeOn s p ∨ s.phase.count < mergeDeadline s p then s
  else match findDecision s p b with
    | none => s
    | some d =>
      if d.merged then s
      else
        let l := memberPorts s p
        let missing := (l.filter (fun k => !(contribution s k b).2.1)).length
        let qs := l.any (fun k => (contribution s k b).2.2.1) || (flag s (Reg.MG_CTL p) 29 && missing ≠ 0)
        let ored := BitVec.ofNat 16 (l.foldl (fun v k => v ||| (contribution s k b).1) 0 &&& fld s (Reg.MG_TMASK p) 15 0)
        let mode0 := !flag s (Reg.MG_CTL p) 30
        let s := setFld s (Reg.MG_STAT p) 5 0 missing
        let s := if mode0 then s else mergeFirmware s p b d.ps.index l missing
        let s := modDecision s p b (fun d => { d with
          merged := true
          missing := missing
          qs := d.qs || qs
          bits := if mode0 && !d.closed then d.bits ||| ored else d.bits })
        l.foldl (fun s k => modPort s k (fun q => { q with frags := q.frags.filter (fun f => b < f.1) })) s

/-- MG_STAT.fits: the deadline covers every member port that is UP (R293). -/
def mergeFits (s : State) (p : Nat) : Bool :=
  ((memberPorts s p).filter (fun k => portState s k = 2)).all (fun k =>
    decide (fld s (Reg.SK_PEER_LAT k) 14 0 + oneWay s k + rttOf s k + 2 ≤ mergeDeadline s p))

/-! ## Remote windows (R295, R296, R393) -/

/-- The body of a REG_REQ. -/
def regReqBody (write : Bool) (be slice off : Nat) (data : Word) : List Word :=
  [word (write.toNat * 2 ^ 24 + be * 2 ^ 16), word (slice % 64 * 2 ^ 26 + off), data]

/-- The body of a BULK. -/
def bulkBody (write response : Bool) (off len : Nat) (data : List Word) : List Word :=
  word ((write.toNat + 2 * response.toNat) * 2 ^ 24 + len * 2 ^ 16) :: word off :: data

/-- A tag for a request on port `k`. -/
def nextTag (s : State) (k : Nat) : Nat × State :=
  ((port s k).nextTag, modPort s k (fun p => { p with nextTag := (p.nextTag + 1) % 2 ^ 32 }))

/-- Put a read before the peer of port `k`; `r` says for whom. -/
def remoteRead (s : State) (k : Nat) (bulk : Bool) (slice off : Nat) (poll : Option Nat) (back : Option (Nat × Word))
    (reader : Reader := .host) : State :=
  let (t, s) := nextTag s k
  let s := modPort s k (fun p => { p with remotes := p.remotes ++ [{ tag := t, poll := poll, back := back, reader := reader }] })
  if bulk then skSend s k 0x07 (word t) (bulkBody false false (slice * 0x100000 + off) 1 [])
  else skSend s k 0x05 (word t) (regReqBody false 0xF slice off 0)

/-- Put a write of a register word before the peer. -/
def remoteRegWrite (s : State) (k be slice off : Nat) (v : Word) : State :=
  let (t, s) := nextTag s k
  skSend s k 0x05 (word t) (regReqBody true be slice off v)

/-- The header that a window shows while its peer is declared down. -/
def downHeader (k off : Nat) : Word :=
  if off = 0 then word (0x0070 * 65536 + k * 256 + 1) else if off = 4 then 0x10000 else if off = 0x10 then 8 else 0

/-- The window's space and slice. -/
def windowBulk (s : State) (k : Nat) : Bool := flag s (Reg.RM_WBASE k) 31
def windowSlice (s : State) (k : Nat) : Nat := fld s (Reg.RM_WBASE k) 7 0

/-- A read through window `k`: a word at once, or the request that its reader waits for (R295, R296). -/
def windowRead (k off : Nat) (reader : Reader) (s : State) : Option Word × State :=
  let o := off / 4 * 4
  if role s < 2 then (some 0, s)
  else if portDown s k then (some (if o < 0x40 then downHeader k o else 0xFFFFFFFF), s)
  else (none, remoteRead s k (windowBulk s k) (windowSlice s k) o none none reader)

/-- REMOTE_WINDOW_READ. -/
def remoteWindowRead (k off : Nat) (s : State) : State :=
  match windowRead k off .host s with
  | (some v, s) => respond s [v.toNat]
  | (none, s) => s

/-- Split a list of words into runs of at most 56. -/
def bulkRuns : Nat → List Word → List (List Word)
  | 0, _ => []
  | n + 1, l => if l = [] then [] else l.take 56 :: bulkRuns n (l.drop 56)

/-- A write of consecutive words through window `k`; `be` are the byte enables of register words, which a BULK has none of
(R289; DEDUCED, log entry 188). -/
def windowWrite (k off be : Nat) (data : List Word) (s : State) : State :=
  let o := off / 4 * 4
  if role s < 2 ∨ portDown s k then s
  else if windowBulk s k then
    (bulkRuns data.length data).zipIdx.foldl (fun s e =>
      let (t, s) := nextTag s k
      skSend s k 0x07 (word t) (bulkBody true false (windowSlice s k * 0x100000 + o + 224 * e.2) e.1.length e.1)) s
  else data.zipIdx.foldl (fun s e => remoteRegWrite s k be (windowSlice s k) (o + 4 * e.2) e.1) s

/-- REMOTE_WINDOW_WRITE: a host write of consecutive words. -/
def remoteWindowWrite (k off : Nat) (data : List Word) (s : State) : State := windowWrite k off 0xF data s

/-- Index in the ROOT child table of the window of port `k` (R388). -/
def windowIndex (s : State) (k : Nat) : Nat := 218 + ((List.range k).filter (fun j => flag s (Reg.SK_PMERGE j) 31)).length

/-- A polled ROOT word of a peer arrives: its sticky bits set ROOT's, and a first error of the peer is captured under the
window's index (R392, R393). -/
def polledHere (s : State) (k i : Nat) (v : Word) : State :=
  withIrq (fun s =>
    let s := modPort s k (fun p => { p with polled := (p.polled ++ List.replicate (4 - p.polled.length) 0).set i v })
    if i = 2 then setReg s (Reg.PG_ERR_STICKY 0) (reg s (Reg.PG_ERR_STICKY 0) ||| (v &&& 0xF))
    else if i = 3 ∧ bit v 31 ∧ ¬ flag s (Reg.PG_FERR_SRC 0) 31 then
      let at_ := if flag s (Reg.PG_ERR_MODE 0) 0 then setBits (v &&& 0x800FFF00) 7 0 (windowIndex s k) else word (2 ^ 31 + windowIndex s k)
      let s := setReg s (Reg.PG_FERR_SRC 0) at_
      let s := setReg (setReg s (Reg.PG_FERR_ADDR_LO 0) 0) (Reg.PG_FERR_ADDR_HI 0) 0
      setReg (setReg s (Reg.PG_FERR_PHASE_LO 0) 0) (Reg.PG_FERR_PHASE_HI 0) 0
    else s) s

/-- The answer to a waiting read arrives on port `k`. -/
def remoteAnswer (k : Nat) (tag : Word) (status : Byte) (data : List Word) (s : State) : State :=
  match (port s k).remotes.find? (fun r => r.tag = tag.toNat) with
  | none => s
  | some r =>
    let s := modPort s k (fun p => { p with remotes := p.remotes.filter (fun q => q.tag ≠ tag.toNat) })
    match r.back, r.poll with
    | some (j, t), _ => skSend s j 0x06 t [word (status.toNat * 2 ^ 24), data.headD 0]
    | none, some i => polledHere s k i (data.headD 0)
    | none, none => remoteGives s r data

/-- REG_RSP. -/
def regRsp (k : Nat) (tag : Word) (status : Byte) (data : Word) (s : State) : State :=
  if portState s k = 2 then remoteAnswer k tag status [data] s else s

/-- REMOTE_READ_TIMEOUT: the oldest waiting read of the port. -/
def remoteReadTimeout (k : Nat) (s : State) : State :=
  match (port s k).remotes with
  | [] => s
  | r :: rest => remoteLost (modPort s k (fun p => { p with remotes := rest })) k r

/-- FOLIO_REMOTE_POLL: the ROOT words of every member port that is UP. -/
def folioRemotePoll (s : State) : State :=
  if role s < 2 then s
  else ((List.range 32).filter (fun k => flag s (Reg.SK_PMERGE k) 31 && portState s k = 2)).foldl (fun s k =>
    [0x10, 0x1C, 0x20, 0x28].zipIdx.foldl (fun s e => remoteRead s k false 0 e.1 (some e.2) none) s) s

/-- SK_RESERVED_MESSAGE. -/
def skReservedMessage (k : Nat) (s : State) : State :=
  if portState s k = 2 then note s (Reg.skovubPage k) 0x06 else s

/-! ## The commands -/

/-- SK_TRAIN. -/
def execSkTrain (k : PortId) (s : State) : Host.Outcome State Fault Refusal := .next (skTrain k s)
/-- ECHO_REQ_RECEIVE. -/
def execEchoReqReceive (k : PortId) (tag : BitVec 16) (s : State) : Host.Outcome State Fault Refusal := .next (echoReqReceive k tag s)
/-- ECHO_RSP_RECEIVE. -/
def execEchoRspReceive (k : PortId) (tag : BitVec 16) (roundTrip : BitVec 16) (s : State) : Host.Outcome State Fault Refusal :=
  .next (echoRspReceive k tag roundTrip.toNat s)
/-- FLIT_SEND. -/
def execFlitSend (k : PortId) (s : State) : Host.Outcome State Fault Refusal := .next (flitSend k s)
/-- FLIT_RECEIVE. -/
def execFlitReceive (k : PortId) (head : Block) (data : List Block) (s : State) : Host.Outcome State Fault Refusal :=
  .next (flitReceive k (head :: data) s)
/-- ACK_RECEIVE. -/
def execAckReceive (k : PortId) (ackValid : Bool) (acked : BitVec 12) (credits0 credits1 : Byte) (s : State) :
    Host.Outcome State Fault Refusal := .next (ackReceive k ackValid acked credits0 credits1 s)
/-- NAK_RECEIVE. -/
def execNakReceive (k : PortId) (expected : BitVec 12) (s : State) : Host.Outcome State Fault Refusal := .next (nakReceive k expected s)
/-- FLIT_REPLAY_TIMEOUT. -/
def execFlitReplayTimeout (k : PortId) (s : State) : Host.Outcome State Fault Refusal := .next (flitReplayTimeout k s)
/-- HEARTBEAT_SEND. -/
def execHeartbeatSend (k : PortId) (s : State) : Host.Outcome State Fault Refusal := .next (heartbeatSend k s)
/-- HEARTBEAT. -/
def execHeartbeat (k : PortId) (_sps : Word) (body : HeartbeatBody) (s : State) : Host.Outcome State Fault Refusal :=
  .next (heartbeat k body s)
/-- PHASE_CHECK. -/
def execPhaseCheck (k : PortId) (ps : BitVec 64) (s : State) : Host.Outcome State Fault Refusal := .next (phaseCheck k ps s)
/-- FRAGMENT. -/
def execFragment (k : PortId) (sps : Word) (dr : DR) (s : State) : Host.Outcome State Fault Refusal := .next (fragment k sps dr s)
/-- EVENT. -/
def execEvent (k : PortId) (sps : Word) (dr : DR) (s : State) : Host.Outcome State Fault Refusal := .next (eventMsg k sps dr s)
/-- REG_RSP. -/
def execRegRsp (k : PortId) (tag : Word) (status : Byte) (data : Word) (s : State) : Host.Outcome State Fault Refusal :=
  .next (regRsp k tag status data s)
/-- SK_RESERVED_MESSAGE. -/
def execSkReservedMessage (k : PortId) (_ty : Byte) (s : State) : Host.Outcome State Fault Refusal := .next (skReservedMessage k s)
/-- MERGE_CLOSE. -/
def execMergeClose (p : PartId) (s : State) : Host.Outcome State Fault Refusal := .next (mergeClose p s)
/-- HEARTBEAT_MISSED. -/
def execHeartbeatMissed (k : PortId) (s : State) : Host.Outcome State Fault Refusal := .next (heartbeatMissed k s)
/-- STANDBY_TAKEOVER. -/
def execStandbyTakeover (s : State) : Host.Outcome State Fault Refusal := .next (standbyTakeover s)
/-- SK_HANDBACK. -/
def execSkHandback (s : State) : Host.Outcome State Fault Refusal := .next (skHandback s)
/-- ENTER_ORPHAN. -/
def execEnterOrphan (s : State) : Host.Outcome State Fault Refusal := .next (enterOrphan s)
/-- LEAVE_ORPHAN. -/
def execLeaveOrphan (s : State) : Host.Outcome State Fault Refusal := .next (leaveOrphan s)
/-- REMOTE_WINDOW_READ. -/
def execRemoteWindowRead (k : PortId) (off : BitVec 20) (s : State) : Host.Outcome State Fault Refusal :=
  .next (remoteWindowRead k off.toNat s)
/-- REMOTE_WINDOW_WRITE. -/
def execRemoteWindowWrite (k : PortId) (off : BitVec 20) (data : List Word) (s : State) : Host.Outcome State Fault Refusal :=
  .next (remoteWindowWrite k off.toNat data s)
/-- REMOTE_READ_TIMEOUT. -/
def execRemoteReadTimeout (k : PortId) (s : State) : Host.Outcome State Fault Refusal := .next (remoteReadTimeout k s)
/-- FOLIO_REMOTE_POLL. -/
def execFolioRemotePoll (s : State) : Host.Outcome State Fault Refusal := .next (folioRemotePoll s)

end Sys2Proof.Machine
end

