-- ==== Sys2Proof/Machine/Modes.lean ====
section
/-! DEFINITION. Device modes and their sequences, power domains, resets, supply and temperature (R339–R357). -/

namespace Sys2Proof.Machine

/-- Change the mode and supply state. -/
def modMgt (s : State) (f : Mgt → Mgt) : State := { s with mgt := f s.mgt }

/-- MODE_CUR.pending. -/
def modePending (s : State) : Bool := flag s Reg.MODE_CUR 31

/-! ## Power domains (R339, R346–R348) -/

/-- The domains that a mode has on, with PD_CTL as it stands (R339). -/
def wantedDomains (s : State) (m : Nat) : Nat → Bool := fun d =>
  if d < 2 then true
  else if m = 0 then false
  else if d = 2 then true
  else if d < 8 ∧ 4 ≤ d ∧ (m = 1 ∨ m = 2) then true
  else if m = 2 then false
  else bit (reg s Reg.PD_CTL) d

/-- Whether domain `d` will be on when the switches under way have run. -/
def willBeOn (s : State) (d : Nat) : Bool :=
  match s.mgt.switches.reverse.find? (fun x => x.1 = d) with
  | some x => x.2
  | none => domainOn s d

/-- Switch the domains to what mode `m` has on: on in rising order, off in falling order (R346). Which of the two comes
first is free (log entry 55). -/
def planDomains (s : State) (m : Nat) : State :=
  let want := wantedDomains s m
  let ons := ((List.range 24).filter (fun d => want d && !willBeOn s d)).map (fun d => (d, true))
  let offs := (((List.range 24).filter (fun d => !want d && willBeOn s d)).reverse).map (fun d => (d, false))
  let (v, s) := if ons = [] ∨ offs = [] then ((0 : Word), s) else fresh s
  modMgt s (fun g => { g with switches := g.switches ++ (if bit v 0 then ons ++ offs else offs ++ ons) })

/-- Remove the entries of a table whose keys satisfy `f`. -/
def dropKeys {α : Type} (t : Tbl α) (f : Nat → Bool) : Tbl α := t.filter (fun e => !f e.1)

/-- A register address belongs to a page of domain `d`, or to the storage behind a selector of one (R347). -/
def regInDomain (d a : Nat) : Bool :=
  if 0x20005000 ≤ a then d = 3
  else if 0x20000000 ≤ a then d = 2
  else match pageAt (a / 0x1000) with
    | some k => pageDomain k = d
    | none => false

/-- Nib `n` lies in Quill `q`. -/
def inQuill (q n : Nat) : Bool := n / 8 = q

/-- A memory key belongs to a memory of domain `d`; DRAM to PD_DDR (R347). -/
def keyInDomain (d k : Nat) : Bool :=
  if dramBase ≤ k then d = 3
  else if 0x10000000 ≤ k then d = 1
  else if 0xE000000 ≤ k ∧ k < 0xF800000 then d = 8 + (k - 0xE000000) / 0x30000 / 8
  else d = 2

/-- A running timer, in the terms of a count that begins anew: the ticks still to come count from its first (R151). -/
def rebase (s : State) : Timer → Timer
  | .run due => .run (if s.phase.started then due - s.phase.count - 1 else due)
  | x => x

/-- What the blocks of PD_CORE hold beside their registers. -/
def clearCore (s : State) : State :=
  { s with
    threads := s.threads.foldl (fun l e => Tbl.set threadReset l e.1
      { e.2 with tmr0 := rebase s e.2.tmr0, tmr1 := rebase s e.2.tmr1 }) s.threads
    phase := { todSec := s.phase.todSec, todNs := s.phase.todNs }
    stylusQ := [], dispatchQ := [], classNext := [], slots := [], holes := [], slotOrder := 0, maxKey := [], compl := []
    queues := [], tokens := [], shapers := [], gateSkip := [], xings := [], extents := [], lineTags := [], frameOrder := 0, decisions := []
    decBatch := [], accepts := [], copy := none, accOuts := [], copybook := {}, ductus := {}, ink := {}, parts := []
    ports := []
    signet := { s.signet with windows := [], ranges := [], pendingQs := [], dipFrom := s.signet.dipFrom.map (fun _ => 0) } }

/-- What the blocks of Quill `q` hold beside their registers; a fenced Nib stays fenced (R333). -/
def clearQuill (s : State) (q : Nat) : State :=
  { s with
    threads := dropKeys s.threads (fun t => inQuill q (nibOf t))
    nibs := s.nibs.foldl (fun l e => if inQuill q e.1 then
        Tbl.set (fun _ => {}) l e.1 { fenced := e.2.fenced, fenceDue := e.2.fenceDue } else l) s.nibs
    chans := dropKeys s.chans (fun k => inQuill q (k / 32))
    locks := dropKeys s.locks (fun k => k / 256 = q)
    ctxs := dropKeys s.ctxs (fun k => k / 32 = q)
    ctxServed := dropKeys s.ctxServed (fun k => k / 4 = q)
    sends := s.sends.filter (fun m => !(m.src < 1024 && inQuill q (nibOf m.src))) }

/-- Registers, memories and everything that the blocks of a domain hold return to their state at reset (R346, R380). -/
def emptyDomain (s : State) (d : Nat) : State :=
  let s := { s with
    regs := dropKeys s.regs (regInDomain d)
    mem := dropKeys s.mem (keyInDomain d)
    badWords := dropKeys s.badWords (fun k => keyInDomain d (8 * k))
    addrTags := dropKeys s.addrTags (fun k => keyInDomain d (8 * k)) }
  if d = 2 then clearCore s
  else if d = 3 then { s with ddrs := [] }
  else if 4 ≤ d ∧ d < 8 then { s with lanes := dropKeys s.lanes (fun n => 4 + n / 32 = d) }
  else if 8 ≤ d then clearQuill s (d - 8)
  else s

/-- A domain loses its power, or its built-in self-test ends: a read that waits on one of its ports ends as lost, and the
domain is empty (R295, R346, R380). -/
def clearDomain (s : State) (d : Nat) : State :=
  emptyDomain (if d = 2 then s.ports.foldl (fun s e => portOff e.1 s) s else s) d

/-- PD_STAT of a domain follows its switch; one that goes off loses its state. -/
def switchDomain (s : State) (d : Nat) (on : Bool) : State :=
  let s := setFlag s Reg.PD_STAT d on
  if on then s else clearDomain s d

/-- DOMAIN_SWITCH_DONE (R346): the switch under way is complete. -/
def domainSwitchDone (s : State) : State :=
  match s.mgt.switches with
  | [] => s
  | (d, on) :: rest => irq (switchDomain (modMgt s (fun g => { g with switches := rest })) d on) Reg.mgtPage 2
def execDomainSwitchDone (s : State) : Host.Outcome State Fault Refusal := .next (domainSwitchDone s)

/-- DOMAIN_TIMEOUT (R346): a domain that is being switched on is not on within its time. -/
def domainTimeout (s : State) : State :=
  match s.mgt.switches with
  | (_, true) :: _ => fault s Reg.mgtPage 0x04 7
  | _ => s
def execDomainTimeout (s : State) : Host.Outcome State Fault Refusal := .next (domainTimeout s)

/-- A lane of group `g` is enabled. -/
def groupEnabled (s : State) (g : Nat) : Bool := (List.range 32).any (fun i => flag s (Reg.LANE_CTL (32 * g + i)) 0)

/-- A Nib of Quill `q` is owned by another partition than 0, or has a thread that is not IDLE. -/
def quillUsed (s : State) (q : Nat) : Bool :=
  (List.range 8).any (fun i => nibPid s (8 * q + i) != 0
    || (List.range 8).any (fun j => (thread s (tidOf (8 * q + i) j)).state != .idle))

/-- A PD_CTL write is refused (R348). -/
def pdRefused (s : State) (v : Word) : Bool :=
  let old := reg s Reg.PD_CTL
  let off := fun d => bit old d && !bit v d
  let change := fun d => bit old d != bit v d
  modePending s || mode s = 0 || change 2
  || (off 3 && (List.range 4).any (fun c => flag s (Reg.DDR_CTL c) 0))
  || (List.range 4).any (fun g => off (4 + g) && groupEnabled s g)
  || (List.range 16).any (fun q => off (8 + q) && quillUsed s q)
  || (mode s = 2 && (change 3 || (List.range 16).any (fun q => change (8 + q))))

/-- PD_CTL_WRITE (R346, R348). -/
def pdCtlWrite (v : Word) (s : State) : State :=
  if pdRefused s v then refuseWrite s Reg.mgtPage 0x01 Reg.PD_CTL
  else planDomains (plainWrite s Reg.PD_CTL v) (mode s)
def execPdCtlWrite (v : Word) (s : State) : Host.Outcome State Fault Refusal := .next (pdCtlWrite v s)

/-! ## The sequences (R341–R345) -/

/-- Every lane and Skovub port is disabled. -/
def disableLinks (s : State) : State :=
  let s := (List.range 128).foldl (fun s n => if flag s (Reg.LANE_CTL n) 0 then laneDisable n s else s) s
  (List.range 32).foldl (fun s k =>
    if flag s (Reg.SK_PCFG k) 31 then portOff k (setFlag s (Reg.SK_PCFG k) 31 false) else s) s

/-- The device admits no more, and what it had admitted is not released (R345). -/
def dropAdmission (s : State) : State :=
  let s := modPart (setRunning s false) 0 (fun q => { q with admitting := false })
  { s with decisions := [], decBatch := [], accOuts := [] }

/-- Partition `p` becomes NONE: its work is dropped and its resources return. -/
def endPartition (s : State) (p : Nat) : State :=
  let st := partState s p
  if st = 0 then s
  else
    let s := if st = 2 ∨ st = 7 then setPartBusy (resetPartition p s) p false else s
    setPartState (giveBack p s) p 0

/-- Partitions 1 to 15 become NONE; partition 0 is IDLE with its PART page and window at reset, but for its epoch, and owns
whole pools and full shares (R342; log entry 56). -/
def resetPartitions (s : State) : State :=
  let s := (List.range 15).foldl (fun s i => endPartition s (i + 1)) s
  let s := dropAdmission (if partState s 0 = 7 then resetPartition 0 s else s)
  let e := reg s (Reg.PART_EPOCH 0)
  let s := [Reg.CB_PLIM 0, Reg.DX_PLIM 0, Reg.IW_QPART_S 0, Reg.IW_QPART_D 0].foldl (fun s a => setReg s a (regReset a)) s
  setReg (erasePage (erasePage s (Reg.partPage 0)) (Reg.windowPage 0)) (Reg.PART_EPOCH 0) e

/-- A mode is entered: pending clears, and freeze clears on every page at entry to RUN (R341, R386). -/
def clearFreeze (s : State) : State :=
  { s with regs := s.regs.filterMap (fun e =>
    if 0x1000000 ≤ e.1 then some e
    else if e.1 % 0x1000 = 0x0C then
      let v := setBit e.2 2 false
      if v = regReset e.1 then none else some (e.1, v)
    else if e.1 % 0x1000 = 0x10 then
      let v := setBit e.2 2 false
      if v = regReset e.1 then none else some (e.1, v)
    else some e) }

/-- The mode changes, and with it the domains that are on. -/
def changeMode (s : State) (m by_ : Nat) : State :=
  let s := enterMode (setFlag (modMgt s (fun g => { g with seq := none })) Reg.MODE_CUR 31 false) m by_
  let s := setFlag s Reg.PD_CTL 2 (decide (m ≠ 0))
  planDomains (if m = 4 then clearFreeze s else s) m

/-- The result of a request; a refusal also gives its reason and records source 0x00 (R341). -/
def requestResult (s : State) (st : Byte) : State := setFld s Reg.MODE_CUR 15 8 st.toNat
def requestRefused (s : State) (by_ reason : Nat) : State :=
  note (setFld (requestResult s stRefused) Reg.MODE_CUR 23 16 reason) Reg.mgtPage 0x00 6 (if by_ = 1 then 0x80 else 0x90)

/-- A request is accepted: OK, pending, its target and its sequence. -/
def accept (s : State) (q : Seq) (t by_ : Nat) : State :=
  let s := setFlag (setFld (requestResult s stOk) Reg.MODE_CUR 30 28 t) Reg.MODE_CUR 31 true
  modMgt s (fun g => { g with seq := some q, byWho := by_ })

/-- A sequence that completes at once. -/
def acceptNow (s : State) (t by_ : Nat) : State :=
  changeMode (setFld (requestResult s stOk) Reg.MODE_CUR 30 28 t) t by_

/-- Some partition is ACTIVE, DRAINING, FROZEN or RESETTING (R343). -/
def partsHeld (s : State) : Bool := (List.range 16).any (fun p => decide (3 ≤ partState s p ∧ partState s p ≤ 6))

/-- The hottest temperature is above a limit of TEMP_LIMIT, in °C. -/
def aboveLimit (s : State) (hi lo : Nat) : Bool :=
  flag s Reg.TEMP_STAT 31
    && decide ((BitVec.ofNat 8 (fld s Reg.TEMP_LIMIT hi lo)).toInt * 16 < (BitVec.ofNat 16 (fld s Reg.TEMP_STAT 15 0)).toInt)

/-- The checks of S8, in order: the first that fails (R342, R344). -/
def runCheck (s : State) : Option Nat :=
  let ddrOn := (List.range 4).filter (fun c => flag s (Reg.DDR_CTL c) 0)
  if ¬ flag s Reg.SC_FIT 31 then some 0x01
  else if ¬ flag s Reg.PH_STAT 1 ∨ flag s Reg.PH_CTL 1 then some 0x02
  else if ddrOn.any (fun c => ddrState s c != 2) || (flag s Reg.IW_DCFG 31 && !flag s Reg.IW_DCFG 30) then some 0x03
  else if imode s && !ddrOn.isEmpty then some 0x08
  else if aboveLimit s 7 0 then some 0x04
  else none

/-- LANE_CTL.rate of STRAPS.lanedef (R349). -/
def lanedefRate (s : State) : Nat :=
  match fld s Reg.STRAPS 5 4 with
  | 0 => 5 | 1 => 7 | 2 => 9 | _ => 8

/-- The stand-alone default (R352): lanes, egress queues, dispatch, decision and phase. -/
def standaloneSetup (s : State) : State :=
  let ctl := word (0x100 + lanedefRate s * 4096 + (if fld s Reg.STRAPS 5 4 = 2 then 8 else 0))
  let s := (List.range 128).foldl (fun s n =>
    let s := if flag s (Reg.LANE_CTL n) 0 then laneDisable n s else s
    laneEnable n (setReg s (Reg.LANE_CTL n) ctl)) s
  let s := (List.range 128).foldl (fun s q =>
    setReg s (Reg.queueCfg q) (word (0x80000A00 + (q + 64) % 128))) s
  let s := setFlag s (Reg.ST_CLASS 15) 31 true
  let s := setReg (setReg (setReg s Reg.GUARD 4) Reg.DECISION_LAT 256) Reg.DEFAULT_DECISION 0
  let s := refit (setReg (setReg s Reg.ACC_OUT_CTL 1) Reg.ACC_OUT_DELAY 0)
  if phStat s 0 then phCtlArm (setFlag s Reg.PH_CTL 3 true) else s

/-- STANDALONE has been entered; with MCLK absent the substitute phase is switched on (R352). -/
def standaloneEntered (s : State) : State := if phStat s 0 then s else substEnable s

/-- S3. -/
def seqStandalone (s : State) (by_ : Nat) : State :=
  if role s ≠ 0 then requestRefused s by_ 0x07
  else
    let s := standaloneSetup (setReg s Reg.PD_CTL (reg s Reg.PD_CTL &&& 0xF7))
    let s := planDomains s 2
    if s.mgt.switches = [] then standaloneEntered (acceptNow s 2 by_) else accept s .s3 2 by_

/-- S1. -/
def seqBoot (s : State) (by_ : Nat) : State :=
  planDomains (setReg (accept s .s1 1 by_) Reg.PD_CTL (reg s Reg.PD_CTL ||| 0xF4)) 1

/-- S2, S5 and S6: reason 0x05, then links and partitions. -/
def seqLeave (s : State) (q : Seq) (t by_ : Nat) : State :=
  if partsHeld s then requestRefused s by_ 0x05
  else
    let s := resetPartitions (disableLinks (accept s q t by_))
    match q with
    | .s2 => planDomains (setReg s Reg.PD_CTL (reg s Reg.PD_CTL &&& 0x7)) 0
    | .s6 => planDomains (setReg s Reg.PD_CTL (reg s Reg.PD_CTL &&& 0xF7)) 1
    | _ => s

/-- S7. -/
def seqConfig (s : State) (by_ : Nat) : State :=
  let s := accept s .s7 3 by_
  let s := (List.range 128).foldl (fun s n => if flag s (Reg.LANE_CTL n) 0 then laneDisable n s else s) s
  let s := (List.range 256).foldl (fun s q => setFlag s (Reg.queueCfg q) 31 false) s
  substDisable (setFlag (setFld s Reg.ACC_OUT_CTL 7 0 0) (Reg.ST_CLASS 15) 31 false)

/-- S9: mode DRAIN at once, a transition to CONFIG in progress; admission stops at the next boundary (DEDUCED, log entry
57). -/
def seqDrain (s : State) (by_ : Nat) : State :=
  let s := runStopEffect (acceptNow s 5 by_)
  setFlag (setFld (modMgt s (fun g => { g with seq := some .s9, byWho := by_ })) Reg.MODE_CUR 30 28 3) Reg.MODE_CUR 31 true

/-- A MODE_REQ write for mode `t` by the host or the Steward: the table of R341. -/
def request (t : Nat) (steward : Bool) (s : State) : State :=
  let by_ := steward.toNat
  if s.mgt.held then s
  else if modePending s ∨ (mode s = 7 ∧ flag s Reg.TEST_STAT 31 ∧ t ≠ 7) then requestResult s stBusy
  else if mode s = 5 then requestResult s stBusy
  else if mode s = t then requestResult s stAlready
  else match mode s, t with
    | 0, 1 => seqBoot s by_
    | 1, 0 | 2, 0 | 3, 0 | 7, 0 => seqLeave s .s2 0 by_
    | 1, 2 => seqStandalone s by_
    | 1, 3 => acceptNow s 3 by_
    | 1, 7 | 2, 7 | 3, 7 => seqLeave s .s5 7 by_
    | 2, 1 | 3, 1 | 7, 1 => seqLeave s .s6 1 by_
    | 2, 3 => seqConfig s by_
    | 3, 4 => match runCheck s with
      | some r => requestRefused s by_ r
      | none => acceptNow s 4 by_
    | 4, 5 | 6, 5 => seqDrain s by_
    | _, _ => requestRefused s by_ 0x06

/-- REQUEST_COLD. -/
def execRequestCold (steward : Bool) (s : State) : Host.Outcome State Fault Refusal := .next (request 0 steward s)
/-- REQUEST_BOOT. -/
def execRequestBoot (steward : Bool) (s : State) : Host.Outcome State Fault Refusal := .next (request 1 steward s)
/-- REQUEST_STANDALONE. -/
def execRequestStandalone (steward : Bool) (s : State) : Host.Outcome State Fault Refusal := .next (request 2 steward s)
/-- REQUEST_CONFIG. -/
def execRequestConfig (steward : Bool) (s : State) : Host.Outcome State Fault Refusal := .next (request 3 steward s)
/-- REQUEST_RUN. -/
def execRequestRun (steward : Bool) (s : State) : Host.Outcome State Fault Refusal := .next (request 4 steward s)
/-- REQUEST_DRAIN. -/
def execRequestDrain (steward : Bool) (s : State) : Host.Outcome State Fault Refusal := .next (request 5 steward s)
/-- REQUEST_ORPHAN. -/
def execRequestOrphan (steward : Bool) (s : State) : Host.Outcome State Fault Refusal := .next (request 6 steward s)
/-- REQUEST_TEST. -/
def execRequestTest (steward : Bool) (s : State) : Host.Outcome State Fault Refusal := .next (request 7 steward s)

/-- The Steward restarts at its boot ROM (S6): its threads, channels and contexts are reset. -/
def stewardRestart (s : State) : State :=
  let s := (List.range 4).foldl (fun s i => resetThread s (1024 + i)) s
  let s := (List.range 32).foldl (fun s c => modChan s 128 c (fun ch => { ch with msgs := [], claimed := 0, readers := [] })) s
  modMgt s (fun g => { g with boot := .ready })

/-- MODE_TRANSITION_END (R342): the pending sequence has run its steps, and the mode changes. -/
def modeTransitionEnd (s : State) : State :=
  if ¬ modePending s ∨ s.mgt.switches ≠ [] ∨ fatal s then s
  else match s.mgt.seq with
    | some .s1 => changeMode s 1 s.mgt.byWho
    | some .s2 => changeMode s 0 s.mgt.byWho
    | some .s3 => standaloneEntered (changeMode s 2 s.mgt.byWho)
    | some .s5 => changeMode s 7 s.mgt.byWho
    | some .s6 => stewardRestart (changeMode s 1 s.mgt.byWho)
    | some .s7 =>
      if (List.range 128).all (fun n => laneState s n = 0) then changeMode (dropAdmission s) 3 s.mgt.byWho else s
    | _ => s
def execModeTransitionEnd (s : State) : Host.Outcome State Fault Refusal := .next (modeTransitionEnd s)

/-- DRAIN_COMPLETE (R342, R344): admission has stopped, the last record is released and nothing is in flight. -/
def drainComplete (s : State) : State :=
  if mode s = 5 ∧ modePending s ∧ ¬ flag s Reg.PH_STAT 3 ∧ s.phase.admissions.all (fun e => e.2) ∧ s.phase.admissionDue = none ∧ ¬ fatal s
      ∧ s.decisions.isEmpty ∧ s.decBatch.isEmpty ∧ (List.range 16).all (fun p => enginesOf s p = 0 && workOf s p = 0) then
    changeMode s 3 4
  else s
def execDrainComplete (s : State) : Host.Outcome State Fault Refusal := .next (drainComplete s)

/-! ## Resets (R349, R350) -/

/-- The Signet keeps what it holds over every reset of the rest of the device; the crossings of its windows are gone. -/
def signetKept (g : Signet) : Signet :=
  { g with windows := [], ranges := [], pendingQs := [], dipFrom := g.dipFrom.map (fun _ => 0) }

/-- A reset of everything but PD_SIG: `cause` is its bit of RST_CAUSE; `link` says that the PCIe link is kept. ALIVE goes
low; where it was toggling, the Signet writes ALIVE_STOP (R305, R312, R335, R350). The straps are sampled at its end: the
levels of their pins, which no command but POR_RELEASE gives, are free (R349; log entry 54). -/
def deviceReset (cause : Nat) (link : Bool) (s : State) : State :=
  let s := if s.blotter.aliveOn then stopAlive s 3 else s
  let s := setAlive s false
  let (v, s) := fresh s
  let kept := s.regs.filter (fun e => e.1 / 0x1000 = 4 || (link && e.1 = Reg.PCI_STAT))
  let t : State :=
    { State.reset with
      pending := s.pending
      regs := kept
      signet := signetKept s.signet
      mgt := { gradeE := s.mgt.gradeE, secureEn := s.mgt.secureEn, svn := s.mgt.svn, bistRuns := s.mgt.bistRuns }
      free := s.free
      resp := s.resp
      out := s.out }
  let t := setReg t Reg.STRAPS (v &&& 0x3F)
  let t := setReg t Reg.RST_CAUSE (word (2 ^ cause + 16 * (fatal s).toNat))
  let t := setReg t Reg.BT_STAT (word (s.mgt.secureEn.toNat * 2 ^ 30 + s.mgt.svn * 65536))
  if s.mgt.gradeE then setReg t Reg.TEMP_LIMIT 0x7364 else t

/-- Reset is held while POR_N is low, and no boot ROM starts (R349). -/
def holdReset (s : State) : State := modMgt s (fun g => { g with held := true, boot := .held })

/-- POR_ASSERT (R350): POR_N goes low, and reset is held. -/
def porAssert (s : State) : State := holdReset (deviceReset 0 false s)
def execPorAssert (s : State) : Host.Outcome State Fault Refusal := .next (porAssert s)

/-- POR_RELEASE (R349): the rising edge of POR_N samples the straps. -/
def porRelease (role bootsel lanedef : Nat) (s : State) : State :=
  if ¬ s.mgt.held then s
  else
    let s := setReg s Reg.STRAPS (word (role + 4 * bootsel + 16 * lanedef))
    modMgt s (fun g => { g with held := false, boot := .ready })
def execPorRelease (role bootsel lanedef : BitVec 2) (s : State) : Host.Outcome State Fault Refusal :=
  .next (porRelease role.toNat bootsel.toNat lanedef.toNat s)

/-- A write of RST_CTL (R350): without the key it records source 0x05; cold goes before warm. -/
def rstCtlWrite (v : Word) (s : State) : State :=
  if s.mgt.held then s
  else if bits v 31 16 ≠ 0xB007 then refuseWrite s Reg.mgtPage 0x05 Reg.RST_CTL
  else if bit v 1 then deviceReset 2 false s
  else if bit v 0 then deviceReset 1 true s
  else s

/-- RST_COLD: a write of RST_CTL with cold 1. -/
def execRstCold (v : Word) (s : State) : Host.Outcome State Fault Refusal := .next (rstCtlWrite (setBit v 1 true) s)
/-- RST_WARM: a write of RST_CTL with warm 1. -/
def execRstWarm (v : Word) (s : State) : Host.Outcome State Fault Refusal := .next (rstCtlWrite (setBit v 0 true) s)

/-- VCORE_RESET (R305, R307, R312, R350): VCORE fell below 0.660 V, for `n` SIGCLK, and has recovered for 1 ms. A reset
that POR_N holds stays held. -/
def vcoreReset (n : Nat) (s : State) : State :=
  let s := modSignet (tally s 16 4 1) (fun g => { g with dipFrom := none })
  let s := journal s 0x09 0xF (beBytes 4 (sat (2 ^ 32 - 1) n))
  if s.mgt.held then holdReset (deviceReset 3 false s) else deviceReset 3 false s
def execVcoreReset (n : Nat) (s : State) : Host.Outcome State Fault Refusal := .next (vcoreReset n s)

/-- FUNCTION_LEVEL_RESET (R371): as RST_CTL.warm, and the configuration space returns to its reset values. -/
def functionLevelReset (s : State) : State := if s.mgt.held then s else deviceReset 1 true s
def execFunctionLevelReset (s : State) : Host.Outcome State Fault Refusal := .next (functionLevelReset s)

/-! ## Supply and temperature (R354, R355) -/

/-- SUPPLY_DIP_BEGIN (R354): a sample below 0.700 V. -/
def supplyDipBegin (mv : Nat) (s : State) : State :=
  if mv < 700 ∧ ¬ s.mgt.dip then
    modMgt (setFlag (setFld s Reg.SUPPLY_STAT 31 16 mv) Reg.SUPPLY_STAT 2 true) (fun g => { g with dip := true })
  else s
def execSupplyDipBegin (mv : Nat) (s : State) : Host.Outcome State Fault Refusal := .next (supplyDipBegin mv s)

/-- SUPPLY_DIP_END (R354): the last of four samples at or above 0.700 V, whose value is free. -/
def supplyDipEnd (s : State) : State :=
  if ¬ s.mgt.dip then s
  else
    let (v, s) := fresh s
    let s := setFld s Reg.SUPPLY_STAT 31 16 (700 + bits v 31 16 % (65536 - 700))
    let s := setFlag (setFlag s Reg.SUPPLY_STAT 2 false) Reg.SUPPLY_STAT 0 true
    note (count (modMgt s (fun g => { g with dip := false })) Reg.SUPPLY_WARN_CNT) Reg.blotterPage 0x04
def execSupplyDipEnd (s : State) : Host.Outcome State Fault Refusal := .next (supplyDipEnd s)

/-- SUPPLY_DIP_LONG (R354): the dip has lasted 1 ms. -/
def supplyDipLong (s : State) : State :=
  if s.mgt.dip then fault (setFlag s Reg.SUPPLY_STAT 1 true) Reg.blotterPage 0x05 else s
def execSupplyDipLong (s : State) : Host.Outcome State Fault Refusal := .next (supplyDipLong s)

/-- TEMP_SAMPLE (R355): the hottest sensor and its reading in 1/16 °C. -/
def tempSample (sensor : Nat) (t : Int) (s : State) : State :=
  let s := setReg s Reg.TEMP_STAT (word (2 ^ 31 + sensor * 65536 + (BitVec.ofInt 16 t).toNat))
  let warn := aboveLimit s 7 0
  let crossed := warn && !s.mgt.tempOver
  let s := modMgt s (fun g => { g with tempOver := warn })
  let s := if crossed then note s Reg.mgtPage 0x02 else s
  if aboveLimit s 15 8 then fault s Reg.mgtPage 0x03 else s
def execTempSample (sensor : Fin 8) (t : Int) (s : State) : Host.Outcome State Fault Refusal := .next (tempSample sensor t s)

/-- TEMP_LIMIT_WRITE (R355). -/
def tempLimitWrite (v : Word) (s : State) : State :=
  let trip := (BitVec.ofNat 8 (bits v 15 8)).toInt
  let warn := (BitVec.ofNat 8 (bits v 7 0)).toInt
  if warn < trip ∧ trip ≤ 125 then plainWrite s Reg.TEMP_LIMIT v else refuseWrite s Reg.mgtPage 0x06 Reg.TEMP_LIMIT
def execTempLimitWrite (v : Word) (s : State) : Host.Outcome State Fault Refusal := .next (tempLimitWrite v s)

end Sys2Proof.Machine
end

