-- ==== Sys2Proof/Machine/HostPort.lean ====
section
/-! DEFINITION. Mailboxes, the management port with its 1588 clock, JTAG and the built-in self-test (R372–R374, R379,
R380). -/

namespace Sys2Proof.Machine

/-! ## Mailboxes (R372) -/

/-- MB_TO_HOST_WRITE: a Steward write fires vector 4 + i. -/
def mbToHostWrite (i : Nat) (v : Word) (s : State) : State := emit (setReg s (Reg.MB_TO_HOST i) v) (.msix (4 + i))
def execMbToHostWrite (i : Fin 4) (v : Word) (s : State) : Host.Outcome State Fault Refusal := .next (mbToHostWrite i v s)

/-- MB_TO_STW_WRITE: the message goes to the Steward's CH5, is held while that is full, or is dropped while another is
held. -/
def mbToStwWrite (i : Nat) (v : Word) (s : State) : State :=
  if s.mgt.mbHeld.any (fun m => m.1 = i) then count s Reg.MB_DROP
  else
    let s := setReg s (Reg.MB_TO_STW i) v
    if chanRoom s 128 5 then chanPut s 128 5 [word i, v]
    else modMgt s (fun g => { g with mbHeld := g.mbHeld ++ [(i, v)] })
def execMbToStwWrite (i : Fin 4) (v : Word) (s : State) : Host.Outcome State Fault Refusal := .next (mbToStwWrite i v s)

/-- MAILBOX_DELIVER: a held message is written once CH5 has room. -/
def mailboxDeliver (i : Nat) (s : State) : State :=
  match s.mgt.mbHeld.find? (fun m => m.1 = i) with
  | none => s
  | some m =>
    if chanRoom s 128 5 then chanPut (modMgt s (fun g => { g with mbHeld := g.mbHeld.erase m })) 128 5 [word i, m.2] else s
def execMailboxDeliver (i : Fin 4) (s : State) : Host.Outcome State Fault Refusal := .next (mailboxDeliver i s)

/-! ## The management port (R373, R374) -/

/-- Memory key of descriptor `i` of the ring in register `a`, and its number of descriptors. -/
def mnDesc (s : State) (a i : Nat) : Nat := 0xC000000 + (fld s a 24 0 / 16 * 16 + 16 * i) % 0x2000000
def mnSize (s : State) (a : Nat) : Nat := 2 ^ fld s a 31 28

/-- The buffer that a descriptor names: a 2 KiB SRAM buffer. -/
def mnBuffer (s : State) (k : Nat) : Option Nat :=
  let bh := rdWord s k
  if bhPool bh = 1 ∧ bhIndex bh < 16384 then some (bufKey s bh) else none

/-- Write back a descriptor: length, status, not owned by the device, and the timestamp where there is one. -/
def mnWriteBack (s : State) (k len : Nat) (st : Byte) (ts : Bool) (flags : Byte) : State :=
  let s := if ts then passTime s else s
  let s := wrClean s (k + 4) (leBytes 2 len ++ [st, (flags &&& 0x04) ||| (if ts then 2 else 0)])
  if ts then wrClean s (k + 8) (leBytes 4 s.phase.todNs ++ leBytes 4 s.phase.todSec) else s

/-- A free status, among the codes that R2 gives. -/
def freeStatus (v : Word) : Byte := byteOf (bits v 3 0) 0

/-- MGT_FRAME_RECEIVE: a frame with a bad FCS, one longer than 1,522 bytes, or one without a descriptor is dropped. A
descriptor that names no SRAM buffer takes no data and gets a free status (log entry 59). -/
def mgtFrameReceive (frame : List Byte) (fcsOk : Bool) (s : State) : State :=
  if ¬ enField s Reg.mgtnetPage Reg.MN_CTL 31 then s
  else
    let (hit, s) := takeInjection s Reg.mgtnetPage 0
    if ¬ fcsOk ∨ hit.isSome then note s Reg.mgtnetPage 0x00 (if hit.isSome then 0xD else 5)
    else if 1522 < frame.length then s
    else
      let k := mnDesc s Reg.MN_RX_RING s.mgt.mnRxAt
      let flags := rd s (k + 7)
      if ¬ bit flags 0 then note s Reg.mgtnetPage 0x01
      else
        let s := modMgt (bw s 43 frame.length) (fun g => { g with mnRxAt := (g.mnRxAt + 1) % mnSize s Reg.MN_RX_RING })
        match mnBuffer s k with
        | some b => mnWriteBack (wrClean s b frame) k frame.length stOk true flags
        | none =>
          let (v, s) := fresh s
          mnWriteBack s k frame.length (freeStatus v) true flags
def execMgtFrameReceive (frame : List Byte) (fcsOk : Bool) (s : State) : Host.Outcome State Fault Refusal :=
  .next (mgtFrameReceive frame fcsOk s)

/-- MGT_FRAME_TRANSMIT: the next descriptor that the device owns is sent. One that names no SRAM buffer, or a length that
the port does not pass, is not sent and gets a free status (log entry 59). -/
def mgtFrameTransmit (s : State) : State :=
  if ¬ enField s Reg.mgtnetPage Reg.MN_CTL 31 then s
  else
    let k := mnDesc s Reg.MN_TX_RING s.mgt.mnTxAt
    let flags := rd s (k + 7)
    let len := rdLe s (k + 4) 2
    if ¬ bit flags 0 then s
    else
      let s := modMgt s (fun g => { g with mnTxAt := (g.mnTxAt + 1) % mnSize s Reg.MN_TX_RING })
      match mnBuffer s k with
      | some b =>
        if 1 ≤ len ∧ len ≤ 1522 then
          mnWriteBack (emit (bw s 43 len) (.mgtFrame (rdBytes s b len))) k len stOk (bit flags 2) flags
        else
          let (v, s) := fresh s
          mnWriteBack s k len (freeStatus v) false flags
      | none =>
        let (v, s) := fresh s
        mnWriteBack s k len (freeStatus v) false flags
def execMgtFrameTransmit (s : State) : Host.Outcome State Fault Refusal := .next (mgtFrameTransmit s)

/-- MN_ADJ_STEP (R374): a signed number of nanoseconds is added once. -/
def mnAdjStep (v : Word) (s : State) : State :=
  let s := passTime s
  let t : Int := (s.phase.todSec : Int) * 1000000000 + s.phase.todNs + v.toInt
  let n := (t % ((2 ^ 48 * 1000000000 : Nat) : Int)).toNat
  modPhase s (fun ph => { ph with todSec := n / 1000000000, todNs := n % 1000000000 })
def execMnAdjStep (v : Word) (s : State) : Host.Outcome State Fault Refusal := .next (mnAdjStep v s)

/-! ## Built-in self-test (R380) -/

/-- TEST_STAT.busy. -/
def testBusy (s : State) : Bool := flag s Reg.TEST_STAT 31

/-- The status of a TEST_CMD; a refusal records source 0x01. -/
def testStatus (s : State) (st : Byte) : State :=
  let s := setFld s Reg.TEST_STAT 7 0 st.toNat
  if st = stRefused then refuseWrite s Reg.testPage 0x01 Reg.TEST_CMD else s

/-- Start the runs of a command. -/
def bistStart (s : State) (runs : List (Nat × Nat)) : State :=
  let s := testStatus s stOk
  let s := setFld (setFlag (setFlag s Reg.TEST_STAT 31 true) Reg.TEST_STAT 30 false) Reg.TEST_STAT 12 8 ((runs.headD (0, 0)).1)
  modMgt s (fun g => { g with bist := runs })

/-- A TEST_CMD write (R380): outside TEST refused, BUSY while a command runs but for ABORT. Kind 1 is LBIST, 2 MBIST. A
domain outside 2 to 23 is refused (DEDUCED, log entry 60). -/
def testCmd (op : Nat) (s : State) : State :=
  let dom := fld s Reg.TEST_DOMAIN 31 27
  let one := fun (k : Nat) => if 2 ≤ dom ∧ dom ≤ 23 then bistStart s [(dom, k)] else testStatus s stRefused
  let every := fun (k : Nat) => bistStart s ((List.range 22).map (fun i => (i + 2, k)))
  if mode s ≠ 7 then testStatus s stRefused
  else if op = 0xF then testStatus (modMgt s (fun g => { g with bist := g.bist.take 1 })) stOk
  else if testBusy s then testStatus s stBusy
  else match op with
    | 1 => one 1
    | 2 => one 2
    | 3 => every 2
    | 4 => every 1
    | _ => testStatus s stRefused

/-- LBIST_DOMAIN. -/
def execLbistDomain (s : State) : Host.Outcome State Fault Refusal := .next (testCmd 1 s)
/-- MBIST_DOMAIN. -/
def execMbistDomain (s : State) : Host.Outcome State Fault Refusal := .next (testCmd 2 s)
/-- MBIST_ALL. -/
def execMbistAll (s : State) : Host.Outcome State Fault Refusal := .next (testCmd 3 s)
/-- LBIST_ALL. -/
def execLbistAll (s : State) : Host.Outcome State Fault Refusal := .next (testCmd 4 s)
/-- BIST_ABORT. -/
def execBistAbort (s : State) : Host.Outcome State Fault Refusal := .next (testCmd 0xF s)
/-- TEST_CMD_RESERVED: an op that the table does not list. -/
def testCmdReserved (op : Nat) (s : State) : State := if (1 ≤ op ∧ op ≤ 4) ∨ op = 0xF then s else testCmd op s
def execTestCmdReserved (op : Fin 16) (s : State) : Host.Outcome State Fault Refusal := .next (testCmdReserved op s)

/-- BIST_DOMAIN_DONE: the run ends with its domain reset, and its signature is compared with the one-time memory's. -/
def bistDomainDone (s : State) : State :=
  match s.mgt.bist with
  | [] => s
  | (d, kind) :: rest =>
    let sig := Config.misrSignature d kind s.mgt.bistRuns
    let pass : Bool := sig = Config.misrExpected d kind
    let s := clearDomain s d
    let s := setReg (setReg s Reg.TEST_SIG_LO (word sig.toNat)) Reg.TEST_SIG_HI (word (sig.toNat / 2 ^ 32))
    let s := modMgt s (fun g => { g with
      bist := rest, bistRuns := g.bistRuns + 1
      bistPass := setBits g.bistPass d d pass.toNat, bistFail := setBits g.bistFail d d (!pass).toNat })
    let s := setFld s Reg.TEST_STAT 12 8 ((rest.headD (d, kind)).1)
    let s := setFlag s Reg.TEST_STAT 31 (!rest.isEmpty)
    if pass then s else note (setFlag s Reg.TEST_STAT 30 true) Reg.testPage 0x00
def execBistDomainDone (s : State) : Host.Outcome State Fault Refusal := .next (bistDomainDone s)

/-! ## JTAG (R379) -/

/-- An instruction is loaded into the instruction register. -/
def tap (ir : Byte) (s : State) : State := modMgt s (fun g => { g with tapIr := ir })

/-- EXTEST. -/
def execExtest (s : State) : Host.Outcome State Fault Refusal := .next (tap 0x00 s)
/-- SAMPLE_PRELOAD. -/
def execSamplePreload (s : State) : Host.Outcome State Fault Refusal := .next (tap 0x01 s)
/-- IDCODE: the identification register is shifted out. -/
def execIdcode (s : State) : Host.Outcome State Fault Refusal := .next (respond (tap 0x02 s) [0x16440B53])
/-- EXTEST_PULSE. -/
def execExtestPulse (s : State) : Host.Outcome State Fault Refusal := .next (tap 0x08 s)
/-- EXTEST_TRAIN. -/
def execExtestTrain (s : State) : Host.Outcome State Fault Refusal := .next (tap 0x09 s)

/-- BIST_REG: a 32-bit register that reaches TEST_CMD, and TEST_STAT. -/
def bistReg (write : Option Word) (s : State) : State :=
  let s := tap 0x20 s
  let s := match write with
    | some v => testCmd (bits v 3 0) s
    | none => s
  respond s [(reg s Reg.TEST_STAT).toNat]
def execBistReg (write : Option Word) (s : State) : Host.Outcome State Fault Refusal := .next (bistReg write s)

/-- A code of the instruction table other than BYPASS. -/
def tapListed (code : Byte) : Bool := [0x00, 0x01, 0x02, 0x08, 0x09, 0x20].contains code

/-- BYPASS: also every code that the table does not list. -/
def bypass (code : Byte) (s : State) : State := if tapListed code then s else tap code s
def execBypass (code : Byte) (s : State) : Host.Outcome State Fault Refusal := .next (bypass code s)

end Sys2Proof.Machine
end

