-- ==== Sys2Proof/Machine/BootRom.lean ====
section
/-! DEFINITION. The boot ROM: its sources, the check and the load of an image, and what it does without one (R349, R351,
R352, R375–R377). -/

namespace Sys2Proof.Machine

/-! ## Images (R376, R377) -/

/-- `n` bytes of an image from byte `off` of its header; `at_` reads one byte. -/
def imgBytes (at_ : Nat → Byte) (off n : Nat) : List Byte := (List.range n).map (fun i => at_ (off + i))
/-- A little-endian field of an image. -/
def imgField (at_ : Nat → Byte) (off n : Nat) : Nat := leNat (imgBytes at_ off n)

/-- A section entry: type, target, body offset, body length and digest. -/
structure Section where
  ty : Nat
  target : Nat
  off : Nat
  len : Nat
  digest : List Byte
  deriving DecidableEq, Repr

/-- The section entries of an image, at most 32. -/
def imgSections (at_ : Nat → Byte) : List Section :=
  (List.range (min 32 (imgField at_ 6 2))).map (fun i =>
    let b := 256 + 64 * i
    { ty := imgField at_ b 2, target := imgField at_ (b + 4) 4, off := imgField at_ (b + 8) 4, len := imgField at_ (b + 12) 4,
      digest := imgBytes at_ (b + 16) 48 })

/-- The memory of a section type: its size and the key of its byte 0. -/
def sectionSpace : Nat → Option (Nat × Nat)
  | 1 => some (0x10000, ispace 128)
  | 2 => some (0x20000, localData 128)
  | 3 => some (0x2000000, 0xC000000)
  | _ => none

/-- Check 0x01: magic, version, n, part, and every body within the image length and the room of `limit` bytes. -/
def imgForm (at_ : Nat → Byte) (limit : Nat) : Bool :=
  let n := imgField at_ 6 2
  let len := imgField at_ 8 4
  imgField at_ 0 4 = 0x59564249 && imgField at_ 4 2 = 1 && decide (1 ≤ n ∧ n ≤ 32) && imgField at_ 16 4 = 0x64400000
    && decide (len ≤ limit) && (imgSections at_).all (fun e => decide (e.off + e.len ≤ len))

/-- The image's signature verifies: over bytes 0 to 127 and the section table. -/
def imgSigned (at_ : Nat → Byte) : Bool :=
  Config.ecdsaVerifies (imgBytes at_ 32 96)
    (sha384 (imgBytes at_ 0 128 ++ imgBytes at_ 256 (64 * imgField at_ 6 2))) (imgBytes at_ 128 96)

/-- Check 0x05: every body's digest, and every target inside its space. -/
def imgBodies (at_ : Nat → Byte) : Bool :=
  (imgSections at_).all (fun e => sha384 (imgBytes at_ e.off e.len) = e.digest
    && (match sectionSpace e.ty with | some (size, _) => decide (e.target + e.len ≤ size) | none => true))

/-- The first check that an image fails (R377); none when every check passes. -/
def imgReason (s : State) (at_ : Nat → Byte) (limit : Nat) : Option Nat :=
  if ¬ imgForm at_ limit then some 0x01
  else if s.mgt.secureEn ∧ sha384 (imgBytes at_ 32 96) ≠ slice Config.ownerKeyHash 0 48 then some 0x02
  else if s.mgt.secureEn ∧ ¬ imgSigned at_ then some 0x03
  else if s.mgt.secureEn ∧ imgField at_ 12 4 < s.mgt.svn then some 0x04
  else if ¬ imgBodies at_ then some 0x05
  else if (imgSections at_).any (fun e => (sectionSpace e.ty).isNone) then some 0x06
  else none

/-- Write a section's body to its target. -/
def loadSection (at_ : Nat → Byte) (s : State) (e : Section) : State :=
  match sectionSpace e.ty with
  | some (_, base) => wrClean s (base + e.target) (imgBytes at_ e.off e.len)
  | none => s

/-- Load an image and start Steward thread 0 at M, at the entry PC; `source` is BT_STAT.source. -/
def loadImage (at_ : Nat → Byte) (source : Nat) (s : State) : State :=
  let pc := imgField at_ 20 4
  let s := (imgSections at_).foldl (loadSection at_) s
  let s := modThread (resetThread s 1024) 1024 (fun th => { th with state := .running, pc := BitVec.ofNat 16 pc })
  let s := setFld (setFlag s Reg.BT_STAT 31 true) Reg.BT_STAT 15 12 source
  modMgt s (fun g => { g with boot := .done })

/-- Check an image and load it, or reject it with its reason and source 0x00 (R377, R382); whether it was loaded. -/
def tryImage (at_ : Nat → Byte) (limit source : Nat) (s : State) : Bool × State :=
  match imgReason s at_ limit with
  | none => (true, loadImage at_ source s)
  | some r => (false, note (setFld s Reg.BT_STAT 7 0 r) Reg.bootPage 0x00)

/-! ## Sources (R351, R375, R376) -/

/-- Flash of 16 to 512 Mbit. -/
def flashOk (size : Nat) : Bool := decide (0x200000 ≤ size ∧ size ≤ 0x4000000)

/-- Try the flash: slot A, then slot B; whether an image was loaded. -/
def tryFlash (flash : Option (List Byte)) (s : State) : Bool × State :=
  match flash.filter (fun f => flashOk f.length) with
  | none => (false, note s Reg.bootPage 0x01)
  | some f =>
    let b := min (f.length / 2) 0x800000
    match tryImage (fun i => f.getD i 0) b 1 s with
    | (true, s) => (true, s)
    | (false, s) => tryImage (fun i => f.getD (b + i) 0) (f.length - b) 2 s

/-- Without an image: the stand-alone default with ROLE 00, else CONFIG and a wait without limit for the host. -/
def noImage (s : State) : State :=
  if role s = 0 then modMgt (request 2 true s) (fun g => { g with boot := .done })
  else modMgt (request 3 true s) (fun g => { g with boot := .waitAny })

/-- The host is tried: with the PCIe link up the ROM waits for BT_HOST_LOAD.go, else first for the link. -/
def tryHost (s : State) : State :=
  modMgt s (fun g => { g with boot := if flag s Reg.PCI_STAT 31 then .waitHost else .awaitHost })

/-- BOOT_ROM_START (R349, R351): 200 µs after reset the ROM starts, and ALIVE toggles from here on. -/
def bootRomStart (s : State) : State :=
  if s.mgt.boot = .ready ∧ ¬ s.mgt.held then
    modBlotter (modMgt s (fun g => { g with boot := .booting })) (fun b => { b with aliveOn := true })
  else s
def execBootRomStart (s : State) : Host.Outcome State Fault Refusal := .next (bootRomStart s)

/-- BOOT_ROM_SEQUENCE (R351): in COLD the ROM requests BOOT; once the device is in BOOT it tries its sources in order. -/
def bootRomSequence (flash : Option (List Byte)) (s : State) : State :=
  if s.mgt.boot ≠ .booting ∨ modePending s then s
  else if mode s = 0 then request 1 true s
  else match fld s Reg.STRAPS 3 2 with
    | 0 => match tryFlash flash s with
      | (true, s) => s
      | (false, s) => tryHost s
    | 1 => tryHost s
    | 2 => match tryFlash flash s with
      | (true, s) => s
      | (false, s) => noImage s
    | _ => noImage s
def execBootRomSequence (flash : Option (List Byte)) (s : State) : Host.Outcome State Fault Refusal :=
  .next (bootRomSequence flash s)

/-- BOOT_HOST_TIMEOUT (R351): no link within 1 s, or no load within 10 s: the host counts as absent. -/
def bootHostTimeout (s : State) : State :=
  if s.mgt.boot = .awaitHost ∨ s.mgt.boot = .waitHost then noImage s else s
def execBootHostTimeout (s : State) : Host.Outcome State Fault Refusal := .next (bootHostTimeout s)

/-- BT_HOST_LOAD (R351, R377): a ROM that waits for it checks and loads the image in Inkwell SRAM. -/
def btHostLoad (v : Word) (s : State) : State :=
  let s := plainWrite s Reg.BT_HOST_LOAD v
  let off := bits v 24 0
  let base := 0xC000000 + off
  if ¬ bit v 31 then s
  else if s.mgt.boot = .waitHost then
    match tryImage (fun i => rd s (base + i)) (0x2000000 - off) 3 s with
    | (true, s) => s
    | (false, s) => noImage s
  else if s.mgt.boot = .waitAny then (tryImage (fun i => rd s (base + i)) (0x2000000 - off) 3 s).2
  else s
def execBtHostLoad (v : Word) (s : State) : Host.Outcome State Fault Refusal := .next (btHostLoad v s)

/-- BT_SVN_BURN (R377): with its key, the counter is raised; burnt steps stay burnt. -/
def btSvnBurn (v : Word) (s : State) : State :=
  let n := bits v 6 0
  if bits v 31 16 = 0x5B0E ∧ n ≤ 64 ∧ s.mgt.svn < n then
    setFld (modMgt s (fun g => { g with svn := n })) Reg.BT_STAT 22 16 n
  else s
def execBtSvnBurn (v : Word) (s : State) : Host.Outcome State Fault Refusal := .next (btSvnBurn v s)

/-- PCIE_LINK_UP (R351, R368): the link is up with a width and a generation; a ROM that awaits it tries the host. -/
def pcieLinkUp (width speed : Nat) (s : State) : State :=
  if [1, 2, 4, 8].contains width ∧ 1 ≤ speed ∧ speed ≤ 5 then
    let s := setReg s Reg.PCI_STAT (word (2 ^ 31 + width * 16 + speed))
    if s.mgt.boot = .awaitHost then modMgt s (fun g => { g with boot := .waitHost }) else s
  else s
def execPcieLinkUp (width speed : Fin 16) (s : State) : Host.Outcome State Fault Refusal := .next (pcieLinkUp width speed s)

end Sys2Proof.Machine
end

