-- ==== Sys2Proof/Machine/HostMem.lean ====
section
/-! DEFINITION. The host's accesses to BAR4: writes by region, and the 32-bit AtomicOps (R88, R191, R234, R235). -/

namespace Sys2Proof.Machine

/-- The Nib whose I-space or local data a BAR4 offset lies in, and the offset within its 192 KiB (R397). -/
def nibRegion (off : Nat) : Option (Nat × Nat) :=
  if 0xE000000 ≤ off ∧ off < 0xE000000 + 0x30000 * 128 then some ((off - 0xE000000) / 0x30000, (off - 0xE000000) % 0x30000) else none

/-- The domain of the memory behind a BAR4 offset is on (R348). -/
def bar4On (s : State) (off : Nat) : Bool :=
  match nibRegion off with
  | some (n, _) => domainOn s (8 + n / 8)
  | none => domainOn s 2

/-- Every thread of Nib `n` is IDLE. -/
def nibIdle (s : State) (n : Nat) : Bool := (List.range 8).all (fun i => (thread s (tidOf n i)).state = .idle)

/-- A write of a word by a host (MID 0x90) or a peer reaches a writable memory of BAR4. -/
def hostStore (s : State) (mid off : Nat) (v : Word) : State :=
  bwKey (storeBytes (if mid = 0x90 then bw s 17 4 else s) off (leBytes 4 v.toNat) mid) off 4 true

/-- A write of the aligned word at a BAR4 offset by master `mid` (R234). -/
def bar4Write (mid : Nat) (o : BitVec 28) (v : Word) (s : State) : State :=
  let off := o.toNat - o.toNat % 4
  if ¬ bar4On s off then s
  else if off < 0x8000000 then note s Reg.scrollPage 0x02 1 mid off
  else if off < 0xC000000 then note s Reg.copybookPage 0x02 1 mid off
  else match nibRegion off with
    | some (n, k) =>
      if k < 0x10000 ∧ ¬ nibIdle s n then note s (Reg.nibPage n) 0x04 1 mid off else hostStore s mid off v
    | none => hostStore s mid off v

/-- A read of the aligned word at a BAR4 offset by master `mid`: the word, and whether it is uncorrectable, so that its
completion is poisoned; memory whose domain is off reads 0 (R88, R234, R348). -/
def bar4Read (mid : Nat) (o : BitVec 28) (s : State) : (Word × Bool) × State :=
  let off := o.toNat - o.toNat % 4
  if ¬ bar4On s off then ((0, false), s)
  else if 0x8000000 ≤ off ∧ off < 0xC000000 then
    let (bad, s) := cbInjected s ((off - 0x8000000) / 32)
    ((word (leNat ((List.range 4).map (fun i => entryByte s (off + i)))), bad), bwKey s off 4 false)
  else
    let (bad, s) := checkRead s off mid
    ((rdWord s off, bad), bwKey s off 4 false)

/-- The BAR4 regions that take AtomicOps: Inkwell SRAM and the Nibs' local data (R234). -/
def atomicRegion (off : Nat) : Bool :=
  (0xC000000 ≤ off && off < 0xE000000) || match nibRegion off with
    | some (_, k) => decide (0x10000 ≤ k)
    | none => false

/-- A host AtomicOp of `bytes` bytes at an offset (R235). `f` gives the word to write from the one that stands there. It
returns the original word, followed by 1 where that word is uncorrectable and so its completion is poisoned (R234); an operation that is not a naturally aligned 32-bit one, or that meets another region, is an
Unsupported Request, which returns nothing and changes nothing. -/
def hostAtomic (o : BitVec 28) (bytes : Nat) (f : Word → Option Word) (s : State) : State :=
  let off := o.toNat
  if bytes ≠ 4 ∨ off % 4 ≠ 0 ∨ ¬ atomicRegion off ∨ ¬ bar4On s off then respond s []
  else
    let (bad, s) := checkRead s off 0x90 2
    let old := rdWord s off
    let s := bwKey (bw (bw s 17 4) 18 4) off 4 false
    let s := match f old with
      | some v => bwKey (storeBytes s off (leBytes 4 v.toNat) 0x90) off 4 true
      | none => s
    respond s (old.toNat :: if bad then [1] else [])

/-! ## The commands -/

/-- HOST_BAR4_WRITE. -/
def execHostBar4Write (off : BitVec 28) (v : Word) (s : State) : Host.Outcome State Fault Refusal := .next (bar4Write 0x90 off v s)
/-- HOST_FETCHADD: as ATOM.ADD. -/
def execHostFetchadd (off : BitVec 28) (addend : Word) (bytes : Nat) (s : State) : Host.Outcome State Fault Refusal :=
  .next (hostAtomic off bytes (fun old => some (old + addend)) s)
/-- HOST_SWAP: as ATOM.SWP. -/
def execHostSwap (off : BitVec 28) (v : Word) (bytes : Nat) (s : State) : Host.Outcome State Fault Refusal :=
  .next (hostAtomic off bytes (fun _ => some v) s)
/-- HOST_CAS: as ATOM.CAS, the compare operand first. -/
def execHostCas (off : BitVec 28) (compare : Word) (v : Word) (bytes : Nat) (s : State) : Host.Outcome State Fault Refusal :=
  .next (hostAtomic off bytes (fun old => if old = compare then some v else none) s)

end Sys2Proof.Machine
end

