-- ==== Sys2Proof/Machine/Perf.lean ====
section
/-! DEFINITION. Performance counters, samples and bandwidth windows as they are selected, written and read
(R358–R367). -/

namespace Sys2Proof.Machine

/-- Change the performance-counter state. -/
def modPerf (s : State) (f : Perf → Perf) : State := { s with perf := f s.perf }

/-- A counter: a Nib's or a Quill's, and its number (R358). -/
inductive Counter where
  | nib (n i : Nat)
  | quill (q i : Nat)
  deriving DecidableEq, Repr

/-- The counter `i` of a page. -/
def counterOf (page i : Nat) : Option Counter :=
  match pageAt (page / 0x1000) with
  | some (.nib, n) => some (.nib n i)
  | some (.quill, q) => if i < 4 then some (.quill q i) else none
  | _ => none

/-- The selector and the LO word of a counter; HI follows LO. -/
def Counter.sel : Counter → Nat
  | .nib n i => Reg.PC_SEL n i
  | .quill q i => Reg.QPC_SEL q i
def Counter.lo : Counter → Nat
  | .nib n i => Reg.PC_CNT_LO n i
  | .quill q i => Reg.QPC_CNT_LO q i

/-- The codes of a counter's events that are counted by the cycle: how many cycles passed is in no command, so what they
add is free (R366, log entry 22). -/
def cycleCode (evt : Nat) : Bool :=
  evt = 0x00 || decide (0x02 ≤ evt ∧ evt ≤ 0x08) || evt = 0x0D || evt = 0x0E || evt = 0x12 || decide (0x43 ≤ evt ∧ evt ≤ 0x46)

/-- The counter counts now (R360, R361). -/
def counting (s : State) : Counter → Bool
  | .nib n i => enField s (Reg.nibPage n) (Reg.PC_SEL n i) 31 && !(nib s n).fenced && !flag s (Reg.PC_CTL n) 0 && !frozenAll s
  | .quill q i => enField s (Reg.quillPage q) (Reg.QPC_SEL q i) 31 && !frozenAll s

/-- Add the cycles that passed to a counter that counts them. -/
def settle (s : State) (c : Counter) : State :=
  if ¬ counting s c ∨ ¬ cycleCode (fld s c.sel 7 0) then s
  else
    let (v, s) := fresh s
    match c, add48 s c.lo v.toNat with
    | .nib n i, (true, s) =>
      let s := setFlag s (Reg.PC_OVF n) i true
      if flag s (Reg.PC_SEL n i) 29 then
        let (t, s) := fresh s
        takeSample s n i (tidOf n (if n = 128 then bits t 1 0 else bits t 2 0))
      else s
    | .quill q i, (true, s) => setFlag s (Reg.QPC_OVF q) i true
    | _, (false, s) => s

/-- A code of the event table for the counter's set (R360, R366). -/
def codeOk (c : Counter) (evt : Nat) : Bool :=
  match c with
  | .nib _ _ => decide (evt ≤ 0x16)
  | .quill _ _ => decide (0x40 ≤ evt ∧ evt ≤ 0x4B)

/-- A selector or counter write refused (R360, R367). -/
def refusePerf (s : State) (a : Nat) : State := refuseWrite s Reg.perfPage 0x00 a

/-- PC_SEL_WRITE (R360): a reserved code, a code of the other set, and a write while en is 1 that does not stop the
counter, are refused (DEDUCED, log entry 78). -/
def selWrite (c : Counter) (v : Word) (s : State) : State :=
  if ¬ codeOk c (bits v 7 0) ∨ (flag s c.sel 31 ∧ bit v 31) then refusePerf s c.sel
  else setReg (settle s c) c.sel (written s c.sel v)
def pcSelWrite (page i : Nat) (v : Word) (s : State) : State :=
  match counterOf page i with
  | some c => if pageOn s page then selWrite c v s else s
  | none => s
def execPcSelWrite (page : Nat) (i : Fin 8) (v : Word) (s : State) : Host.Outcome State Fault Refusal :=
  .next (pcSelWrite page i v s)

/-- COUNTER_READ (R362): a read of LO, which latches HI. -/
def readCounter (c : Counter) (s : State) : Word × State :=
  let s := settle s c
  (reg s c.lo, modPerf s (fun p => { p with latched := Tbl.set (fun _ => 0) p.latched c.lo (reg s (c.lo + 4)) }))
def counterRead (page i : Nat) (s : State) : State :=
  match counterOf page i with
  | some c =>
    if pageOn s page then
      let (v, s) := readCounter c s
      respond s [v.toNat]
    else respond s [0]
  | none => s
def execCounterRead (page : Nat) (i : Fin 8) (s : State) : Host.Outcome State Fault Refusal := .next (counterRead page i s)

/-- COUNTER_WRITE (R360, R362): HI is staged, LO commits both; refused while the counter is enabled. -/
def countWrite (c : Counter) (high : Bool) (v : Word) (s : State) : State :=
  if flag s c.sel 31 then refusePerf s c.lo
  else if high then modPerf s (fun p => { p with staged := Tbl.set (fun _ => 0) p.staged c.lo (word (bits v 15 0)) })
  else setReg (setReg s c.lo v) (c.lo + 4) (Tbl.get (fun _ => 0) s.perf.staged c.lo)
def counterWrite (page i : Nat) (high : Bool) (v : Word) (s : State) : State :=
  match counterOf page i with
  | some c => if pageOn s page then countWrite c high v s else s
  | none => s
def execCounterWrite (page : Nat) (i : Fin 8) (high : Bool) (v : Word) (s : State) : Host.Outcome State Fault Refusal :=
  .next (counterWrite page i high v s)

/-- PC_SAMPLE_CLEAR (R364): W1C of valid and lost. -/
def pcSampleClear (n : Nat) (v : Word) (s : State) : State :=
  setReg s (Reg.PC_SAMPLE_INFO n) (reg s (Reg.PC_SAMPLE_INFO n) &&& ~~~(v &&& 0xC0000000))
def execPcSampleClear (n : NibId) (v : Word) (s : State) : Host.Outcome State Fault Refusal := .next (pcSampleClear n v s)

/-- The eight counters of a Nib take the cycles that passed. -/
def settleNib (s : State) (n : Nat) : State := (List.range 8).foldl (fun s i => settle s (.nib n i)) s

/-- PC_FREEZE (R361). -/
def pcFreeze (n : Nat) (on : Bool) (s : State) : State := setFlag (settleNib s n) (Reg.PC_CTL n) 0 on
def execPcFreeze (n : NibId) (on : Bool) (s : State) : Host.Outcome State Fault Refusal := .next (pcFreeze n on s)

/-- PF_FREEZE (R361). -/
def pfFreeze (on : Bool) (s : State) : State :=
  let s := (List.range 129).foldl settleNib s
  let s := (List.range 16).foldl (fun s q => (List.range 4).foldl (fun s i => settle s (.quill q i)) s) s
  setFlag s Reg.PF_CTL 0 on
def execPfFreeze (on : Bool) (s : State) : Host.Outcome State Fault Refusal := .next (pfFreeze on s)

/-! ## Bandwidth windows (R365) -/

/-- PF_WIN_WRITE (R365): the window restarts; a length of 0 is refused (DEDUCED, log entry 58). -/
def pfWinWrite (v : Word) (s : State) : State :=
  if bits v 30 0 = 0 then refusePerf s Reg.PF_WIN
  else modPerf (setReg s Reg.PF_WIN v) (fun p => { p with bytes := [] })
def execPfWinWrite (v : Word) (s : State) : Host.Outcome State Fault Refusal := .next (pfWinWrite v s)

/-- The result of port `i`: reserved ports read 0. -/
def portBytes (s : State) (i : Nat) : Nat := if i < 44 then Tbl.get (fun _ => 0) s.perf.bytes i else 0

/-- PF_WINDOW_END (R365): every count moves to its result; a window of crossings does not end without them. -/
def pfWindowEnd (s : State) : State :=
  if frozenAll s ∨ (flag s Reg.PF_WIN 31 ∧ ¬ s.phase.counting) then s
  else
    let t := (List.range 64).foldl (fun t i =>
      modPerf (setReg t (Reg.PF_BW_LO i) (word (portBytes s i)))
        (fun p => { p with bwHi := Tbl.set (fun _ => 0) p.bwHi i (word (portBytes s i / 2 ^ 32)) })) s
    irq (count (modPerf t (fun p => { p with bytes := [] })) Reg.PF_WSTAT) Reg.perfPage 1
def execPfWindowEnd (s : State) : Host.Outcome State Fault Refusal := .next (pfWindowEnd s)

/-- PF_BW_READ (R365): a read of LO latches HI. -/
def latchBw (i : Nat) (s : State) : State := setReg s (Reg.PF_BW_HI i) (Tbl.get (fun _ => 0) s.perf.bwHi i)
def pfBwRead (i : Nat) (s : State) : State := respond (latchBw i s) [(reg s (Reg.PF_BW_LO i)).toNat]
def execPfBwRead (i : Fin 64) (s : State) : Host.Outcome State Fault Refusal := .next (pfBwRead i s)

end Sys2Proof.Machine
end

