-- ==== Sys2Proof/Machine/RegRead.lean ====
section
/-! DEFINITION. Reading a register: the header words of every page, the child tables, the registers that show what a block
holds now, and the reads that have an effect (R383–R398, and the register tables of the chapters). -/

namespace Sys2Proof.Machine

/-- A Boolean as a number at bit `i`. -/
def atBit (b : Bool) (i : Nat) : Nat := b.toNat * 2 ^ i

/-- The sum of `2 ^ i` over the numbers below `n` that satisfy `f`. -/
def bitSet (n : Nat) (f : Nat → Bool) : Nat := ((List.range n).map (fun i => atBit (f i) i)).sum

/-! ## Child tables (R388) -/

/-- The local pages of the ROOT table, in rising page order. -/
def rootChildren : List Nat :=
  (List.range 10).map (· + 1) ++ (List.range 4).map (· + 0x10) ++ (List.range 128).map (· + 0x20) ++ [0xA0, 0xA1]
  ++ (List.range 6).map (· + 0xB0) ++ (List.range 4).map (· + 0xC0) ++ (List.range 16).map (· + 0xD0)
  ++ (List.range 32).map (· + 0xE0) ++ (List.range 16).map (fun q => 0x100 + 16 * q)

/-- The member ports whose windows a manager's ROOT table lists. -/
def windowPorts (s : State) : List Nat :=
  if role s < 2 then [] else (List.range 32).filter (fun k => flag s (Reg.SK_PMERGE k) 31)

/-- The skip bit: the ten pages that ROOT's control does not reach (R387). -/
def skipPage (pg : Nat) : Bool := decide (1 ≤ pg ∧ pg ≤ 10)

/-- A word of the ROOT child table. -/
def rootEntry (s : State) (i : Nat) : Word :=
  match rootChildren[i]? with
  | some pg => word (2 ^ 31 + atBit (skipPage pg) 29 + pg)
  | none => match (windowPorts s)[i - 218]? with
    | some k => word (2 ^ 31 + 2 ^ 30 + 4096 + 256 * k)
    | none => 0

/-- A word of a QUILL child table. -/
def quillEntry (q i : Nat) : Word := if i < 13 then word (2 ^ 31 + 0x101 + 16 * q + i) else 0

/-- PG_CHILD of a page. -/
def childWord (s : State) (k : PageKind) : Word :=
  match k with
  | .root => word ((218 + (windowPorts s).length) * 65536 + 11)
  | .quill => 0x000D000E
  | _ => 0

/-! ## PG_STAT (R384, R386, R390) -/

/-- Some thread of the Nib has work of an issued instruction under way. -/
def nibBegun (s : State) (n : Nat) : Bool :=
  (List.range (threadsOf n)).any (fun i =>
    let t := thread s (tidOf n i)
    t.load.isSome || !t.products.isEmpty || !t.quotients.isEmpty || !t.stbuf.isEmpty)

/-- A page's block has begun something that is not complete (R386). -/
def begun (s : State) (page : Nat) : Bool :=
  match pageAt (page / 0x1000) with
  | some (.nib, n) => nibBegun s n
  | some (.lane, n) => (lane s n).rx.isSome || (lane s n).tx.isSome
  | some (.copybook, _) => !s.copybook.waiting.isEmpty
  | some (.copyist, _) => s.copy.isSome
  | some (.ductus, _) => !s.ductus.checking.isEmpty
  | some (.ligature, _) => !s.compl.isEmpty
  | some (.inkwell, _) => s.ink.filling
  | some (.ruling, _) => s.lanes.any (fun e => e.2.tx.isSome)
  | some (.helper, k) => (List.range 8).any (fun n => !ctxIdle (ctx s (k / 4) (k % 4) n))
  | some (.ddr, c) => ddrState s c = 1 || !(chanReqs s c).isEmpty
  | some (.part, p) => partBusy s p
  | some (.mgt, _) => modePending s || !s.mgt.switches.isEmpty
  | some (.test, _) => testBusy s
  | some (.boot, _) => decide (s.mgt.boot = .booting)
  | some (.signet, _) => !s.signet.queue.isEmpty
  | _ => false

/-- PG_STAT of a page that is no Folio. -/
def leafStat (s : State) (page : Nat) : Word :=
  word ((pageOn s page).toNat + atBit (begun s page) 1 + atBit (flag s (Reg.PG_STAT page) 2) 2 + atBit (pageFault s page) 3)

/-- The children of a QUILL page. -/
def quillPages (page : Nat) : List Nat := (List.range 13).map (fun i => page + 0x1000 * (i + 1))

/-- Bits 3:0 of a Folio from its children: with their skip bits, and whether their domains are on. -/
def folioStat (l : List (Word × Bool × Bool)) : Nat :=
  (l.all (fun c => !c.2.2 || bit c.1 0)).toNat + atBit (l.any (fun c => bit c.1 1)) 1
  + atBit (l.all (fun c => c.2.1 || bit c.1 2)) 2 + atBit (l.any (fun c => bit c.1 3)) 3

/-- PG_STAT of QUILL page `q` (R390). -/
def quillStat (s : State) (q : Nat) : Word :=
  if ¬ domainOn s (8 + q) then 0
  else
    let kids := (quillPages (Reg.quillPage q)).map (fun p => (leafStat s p, false, true))
    word (folioStat kids + 256 * bitSet 8 (fun i => (nib s (8 * q + i)).fenced))

/-- PG_STAT of ROOT: local children, and the windows as last polled (R390, R393). -/
def rootStat (s : State) : Word :=
  let kids := rootChildren.map (fun pg =>
    (if 0x100 ≤ pg then quillStat s ((pg - 0x100) / 16) else leafStat s (0x1000 * pg), skipPage pg, pageOn s (0x1000 * pg)))
  let wins := (windowPorts s).map (fun k => (if portDown s k then 8 else polledWord s k 0, false, true))
  word (folioStat (kids ++ wins) + 256 * mode s)

/-- PG_STAT of a page. -/
def pgStat (s : State) (page : Nat) : Word :=
  match pageAt (page / 0x1000) with
  | some (.root, _) => rootStat s
  | some (.quill, q) => quillStat s q
  | _ => leafStat s page

/-- A header word of a page (R384). -/
def headerWord (s : State) (k : PageKind × Nat) (page o : Nat) : Word :=
  match o with
  | 0x00 => word (kindType k.1 * 65536 + kindNumber k * 256 + 1)
  | 0x08 => childWord s k.1
  | 0x10 => pgStat s page
  | 0x14 => match k.1 with
    | .root => rootRaw s
    | .quill => quillRaw s page
    | _ => reg s (page + o)
  | 0x1C => irqOut s page
  | _ => reg s (page + o)

/-! ## Registers that show what a block holds -/

/-- The code of a thread state (R145). -/
def stateCode : ThrState → Nat
  | .idle => 0 | .running => 1 | .blocked => 2 | .parked => 3 | .halted => 4

/-- The threads of Nib `n` in a state, as a bit set. -/
def threadsIn (s : State) (n : Nat) (st : ThrState) : Nat :=
  bitSet (threadsOf n) (fun i => decide ((thread s (tidOf n i)).state = st))

/-- Registers 0x180 to 0x27F of a NIB page: word `o` of the set of thread `i`. -/
def readThread (s : State) (n i o a : Nat) : Word :=
  let t := thread s (tidOf n i)
  match o with
  | 0x04 => word ((match t.waitPort with | some (p, _) => p * 65536 | none => 0) + atBit t.claim.isSome 9
      + atBit t.staging.isSome 8 + stateCode t.state)
  | 0x0C => t.pc.setWidth 32
  | 0x10 => word ((use s (tidKey false (tidOf n i)) + use s (tidKey true (tidOf n i))) % 65536 * 65536
      + sendHeld s (tidOf n i) % 128 * 256 + ch0Held s (tidOf n i) % 128)
  | _ => reg s a

/-- A register of a NIB page. -/
def readNib (s : State) (n o a : Nat) : Word :=
  if o = 0x104 then
    word (atBit (nib s n).fenced 31 + nibPid s n * 2 ^ 24 + threadsIn s n .blocked * 65536 + threadsIn s n .parked * 256
      + threadsIn s n .halted)
  else if o = 0x11C then word (noticesHeld s n)
  else if 0x180 ≤ o ∧ o < 0x280 then readThread s n ((o - 0x180) / 0x20) (o % 0x20) a
  else reg s a

/-- A register of a LOCKS page. -/
def readLocks (s : State) (q o a : Nat) : Word :=
  if 0x400 ≤ o then
    let l := lock s q ((o - 0x400) / 4)
    word (atBit l.owner.isSome 31 + atBit l.broken 30 + l.queue.length % 64 * 65536 + l.owner.getD 0 % 1024)
  else reg s a

/-- A register of the DUCTUS page. -/
def readDuctus (s : State) (o a : Nat) : Word :=
  let n := fld s Reg.DX_OBS_SEL 6 0
  let get := fun (t : Tbl Nat) (k : Nat) => Tbl.get (fun _ => 0) t k
  if o = 0x128 then word s.ductus.insts.length
  else if o = 0x130 then word (tokensUsed s)
  else if o = 0x144 then word (get s.ductus.depthMaxLast n * 65536 + (dxList s n).length)
  else if o = 0x148 then word (get s.ductus.deliveredLast n)
  else if o = 0x14C then Tbl.get (fun _ => 0) s.ductus.busyLast n
  else if 0x180 ≤ o ∧ o < 0x1C0 then word (get s.ductus.hist (16 * n + (o - 0x180) / 4))
  else if 0x200 ≤ o ∧ o % 0x20 = 0x08 then word (dxRing s ((o - 0x200) / 0x20)).length
  else reg s a

/-- A register of the LIGATURE page. -/
def readLigature (s : State) (o a : Nat) : Word :=
  if o = 0x100 then word (poolFree s) else if 0x1C0 ≤ o then word (classUsed s ((o - 0x1C0) / 4)) else reg s a

/-- A register of the RULING page: the selected queue's and window's stand behind their selectors. -/
def readRuling (s : State) (o a : Nat) : Word :=
  let q := fld s Reg.RU_QSEL 7 0
  if o = 0x118 then reg s (Reg.queueCfg q)
  else if o = 0x11C then reg s (Reg.queueLim q)
  else if o = 0x120 then word (queue s q).length
  else if o = 0x128 then reg s (Reg.gateWin (fld s Reg.RU_GSEL 2 0) (fld s Reg.RU_GSEL 13 8))
  else if 0x200 ≤ o ∧ o % 0x10 = 0xC then BitVec.ofInt 32 (shTokens s ((o - 0x200) / 0x10) / 256)
  else reg s a

/-- A register of the SCROLL page. -/
def readScroll (s : State) (o a : Nat) : Word :=
  let back := fld s Reg.SC_CIT_SEL 14 0
  let x : Xing := if back ≤ s.phase.count ∧ s.phase.started then xing s (s.phase.count - back) else {}
  let e := extent s (fld s Reg.SC_EXT_SEL 14 0)
  if o = 0x110 then word (32768 - (s.extents.filter (fun e => e.2.owner.isSome)).length)
  else if o = 0x118 then (if x.extents.isEmpty then 0 else word (2 ^ 31 + x.first * 65536 + x.last))
  else if o = 0x11C then word (x.frames.length % 65536 * 65536 + x.extents.length % 65536)
  else if o = 0x124 then word (atBit e.owner.isSome 31 + e.lines * 65536 + atBit e.tail 15 + e.next)
  else reg s a

/-- A use count with its bit 31, use exceeds quota. -/
def useWord (n quota : Nat) : Word := word (atBit (decide (quota < n)) 31 + n)

/-- A register of the INKWELL page. -/
def readInkwell (s : State) (o a : Nat) : Word :=
  let m := fld s Reg.IW_QSEL 7 0
  let p := (o - 0x200) / 0x10
  if o = 0x104 then word (sFree s)
  else if o = 0x108 then word (dFree s)
  else if o = 0x11C then word ((reg s a).toNat % 65536 + s.ink.dStack.length * 65536)
  else if o = 0x124 then reg s (Reg.midQuotaS m)
  else if o = 0x128 then reg s (Reg.midQuotaD m)
  else if o = 0x12C then useWord (use s (midKey false m)) (midQuota s false m)
  else if o = 0x130 then useWord (use s (midKey true m)) (midQuota s true m)
  else if 0x200 ≤ o ∧ o < 0x300 ∧ o % 0x10 = 8 then useWord (use s (partKey false p)) (partQuota s false p)
  else if 0x200 ≤ o ∧ o < 0x300 ∧ o % 0x10 = 0xC then useWord (use s (partKey true p)) (partQuota s true p)
  else reg s a

/-- A register of a DDR page. -/
def readDdr (s : State) (c o a : Nat) : Word :=
  if o = 0x108 then setBit (setBits (reg s a) 30 20 (capUnits s c)) 11 (recovOk s c)
  else if o = 0x118 then reg s (Reg.trainWord c (fld s (Reg.DDR_TRN_SEL c) 7 0))
  else reg s a

/-- A register of a SKOVUB page. -/
def readSkovub (s : State) (k o a : Nat) : Word :=
  if o = 0x104 then setBits (reg s a) 15 8 (sat 255 (rttOf s k))
  else if o = 0x180 then setBits (reg s a) 1 0 (role s)
  else if 0x300 ≤ o then setBit (reg s a) 31 (mergeFits s ((o - 0x300) / 4))
  else reg s a

/-- A register of the SIGNET page. -/
def readSignet (s : State) (o a : Nat) : Word :=
  if o = 0x118 then word s.signet.head
  else if o = 0x124 then word (s.signet.seals.length * 256 + s.signet.breaks)
  else if o = 0x128 then word (journalTail s)
  else if o = 0x12C then word s.signet.chain.toNat
  else if o = 0x130 then word (s.signet.chain.toNat / 2 ^ 32)
  else reg s a

/-- A register of the MGT page. -/
def readMgt (s : State) (o a : Nat) : Word :=
  if o = 0x114 then setBit (reg s a) 31 (!s.mgt.switches.isEmpty)
  else if o = 0x130 then word Config.uniqueId.toNat
  else if o = 0x134 then word (Config.uniqueId.toNat / 2 ^ 32)
  else reg s a

/-- A register of the TEST page. -/
def readTest (s : State) (o a : Nat) : Word :=
  if o = 0x110 then
    let d := fld s a 31 27
    setBit (setBit (reg s a &&& 0xF8000000) 23 (bit s.mgt.bistPass d)) 22 (bit s.mgt.bistFail d)
  else reg s a

/-- What a read returns that has no effect. -/
def liveWord (s : State) (k : PageKind) (n o a : Nat) : Word :=
  match k with
  | .nib => readNib s n o a
  | .locks => readLocks s n o a
  | .helper => if o < 0x120 then ctxStat (ctx s (n / 4) (n % 4) ((o - 0x100) / 4)) else reg s a
  | .ductus => readDuctus s o a
  | .ligature => readLigature s o a
  | .copyist => if o = 0x100 then word s.accepts.length else reg s a
  | .ruling => readRuling s o a
  | .scroll => readScroll s o a
  | .inkwell => readInkwell s o a
  | .ddr => readDdr s n o a
  | .part => if o = 0x110 then inflightWord s n else reg s a
  | .window => if o = 0x4 then setBits (reg s a) 18 16 (partState s n) else reg s a
  | .skovub => readSkovub s n o a
  | .signet => readSignet s o a
  | .blotter => if o = 0x104 then setBit (reg s a) 29 (!s.blotter.intervals.isEmpty) else reg s a
  | .mgt => readMgt s o a
  | .test => readTest s o a
  | .phase => if o = 0x110 then spsNow s else reg s a
  | _ => reg s a

/-! ## Reads with an effect, and reads of what no command carries -/

/-- The first word that a read with an effect returns; it leaves no other answer behind. -/
def answerOf (f : State → State) (s : State) : Word × State :=
  let t := f s
  (word (t.resp.headD 0), { t with resp := s.resp })

/-- A free word under a mask, over the stored register: a time or a pin that no command carries (log entry 39). -/
def freeField (s : State) (a : Nat) (mask : Word) : Word × State :=
  let (f, s) := fresh s
  ((reg s a &&& ~~~mask) ||| (f &&& mask), s)

/-- MN_TOD_NS (R374): the read latches both seconds words. -/
def todRead (s : State) : Word × State :=
  let s := passTime s
  let s := setReg (setReg s Reg.MN_TOD_SEC_LO (word s.phase.todSec)) Reg.MN_TOD_SEC_HI (word (s.phase.todSec / 2 ^ 32 % 65536))
  (word (s.phase.todNs % 2 ^ 30), s)

/-- PH_NOW_LO: the read latches PH_NOW_HI. -/
def phNowRead (s : State) : Word × State :=
  (spsNow s, setReg s Reg.PH_NOW_HI (word (s.phase.now.orbit / 65536 % 2 ^ 32)))

/-- BL_WDT_LEFT: how much time has passed is in no command, so what remains is free within the period. -/
def wdtLeftRead (s : State) : Word × State :=
  if s.blotter.wdtLeft = 0 then (0, s)
  else
    let (f, s) := fresh s
    (word (f.toNat % (s.blotter.wdtLeft + 1)), s)

/-- A counter word of a NIB or QUILL page: LO latches HI (R362). -/
def counterWord (s : State) (c : Counter) (a : Nat) : Word × State :=
  if a = c.lo then readCounter c s else (Tbl.get (fun _ => 0) s.perf.latched c.lo, s)

/-- The answer of a NIB page. -/
def readNibWord (s : State) (n o a : Nat) : Word × State :=
  if 0x340 ≤ o then counterWord s (.nib n ((o - 0x340) / 8)) a
  else if o = 0x284 then answerOf (dbgDataAccess n none) s
  else (liveWord s .nib n o a, s)

/-- What a read of a block register returns, and the state that it leaves. -/
def readBlock (s : State) (k : PageKind) (n o a : Nat) : Word × State :=
  match k with
  | .nib => readNibWord s n o a
  | .quill => if 0x120 ≤ o ∧ o < 0x140 then counterWord s (.quill n ((o - 0x120) / 8)) a else (reg s a, s)
  | .phase =>
    if o = 0x110 then phNowRead s else if o = 0x180 then answerOf ptpCaptureRead s else (reg s a, s)
  | .copybook => if o = 0x11C then answerOf cbEventPop s else (reg s a, s)
  | .signet =>
    if o = 0x100 then sigStat s else if o = 0x10C then answerOf sigTallyRead s else (liveWord s k n o a, s)
  | .perf => if 0x200 ≤ o ∧ o % 8 = 0 then (reg s a, latchBw ((o - 0x200) / 8) s) else (reg s a, s)
  | .mgtnet =>
    if o = 0x104 then (if enField s Reg.mgtnetPage Reg.MN_CTL 31 then freeField s a 3 else (0, s))
    else if o = 0x110 then todRead s else (reg s a, s)
  | .blotter =>
    if o = 0x134 ∧ flag s a 31 then freeField s a 0xFFFF
    else if o = 0x140 then wdtLeftRead s else (liveWord s k n o a, s)
  | .sgroup =>
    if o = 0x104 then freeField s a (if flag s (Reg.sgroupPage n + 0x100) 0 then 3 else 1) else (reg s a, s)
  | .helper => if o = 0x12C then freeField s a 0xFFFFFFFF else (liveWord s k n o a, s)
  | _ => (liveWord s k n o a, s)

/-- Where a window's slots lie: Inkwell slot p at 0x1000 and Copybook slot p at 0x2000 of the window (R273). -/
def windowAlias (a : Nat) : Nat :=
  let p := (a - 0x10000000) / 0x100000
  let o := a % 0x100000
  if a < 0x10000000 ∨ 0x11000000 ≤ a then a
  else if 0x1000 ≤ o ∧ o < 0x100C then Reg.inkwellPage + 0x300 + 0x10 * p + (o - 0x1000)
  else if 0x2000 ≤ o ∧ o < 0x2040 then Reg.copybookPage + 0x200 + 0x40 * p + (o - 0x2000)
  else a

/-- A word of the page space beside the pages: the child tables of ROOT and of the Quills, and the MSI-X table (R370,
R388). -/
def tableWord (s : State) (a : Nat) : Word :=
  let pg := a / 0x1000
  if pg = 0xB then rootEntry s (a % 0x1000 / 4)
  else if pg = 0xC then reg s a
  else if 0x100 ≤ pg ∧ pg < 0x200 ∧ pg % 16 = 14 ∧ domainOn s (8 + (pg - 0x100) / 16) then quillEntry ((pg - 0x100) / 16) (a % 0x1000 / 4)
  else 0

/-- A read of the word at a register address: what it returns, and the state it leaves (R348, R369, R383). -/
def readReg (s : State) (addr : Nat) : Word × State :=
  let a := windowAlias addr
  match pageAt (a / 0x1000) with
  | none => (tableWord s a, s)
  | some (k, n) =>
    let o := a % 0x1000
    let page := a - o
    if k ≠ .window ∧ o < 0x40 then (headerWord s (k, n) page o, s)
    else if ¬ pageOn s page then (0, s)
    else match regRow a with
      | none => (0, s)
      | some _ => readBlock s k n o a

end Sys2Proof.Machine
end

