-- ==== Sys2Proof/Machine/Board.lean ====
section
/-! DEFINITION. The board's I2C target (R378): block reads with a byte count and a PEC, the lane that is selected, and the
offset of the register that is read. -/

namespace Sys2Proof.Machine

/-- The target answers: POR_N is high. -/
def boardUp (s : State) : Bool := !s.mgt.held

/-- The registers at these addresses, as they are read one after another, in network byte order. -/
def boardWords : List Nat → State → List Byte × State
  | [], s => ([], s)
  | a :: l, s =>
    let (v, s) := readReg s a
    let (bs, s) := boardWords l s
    (beBytes 4 v.toNat ++ bs, s)

/-- A block read of registers under a command code. -/
def boardRead (cmd : Nat) (addrs : List Nat) (s : State) : State :=
  if ¬ boardUp s then s
  else
    let (bs, s) := boardWords addrs s
    boardAnswer s cmd bs

/-- BRD_SELECT_LANE: another lane than 0 to 127 is NACKed. -/
def brdSelectLane (v : Byte) (s : State) : State :=
  if boardUp s ∧ v.toNat < 128 then modMgt s (fun g => { g with brdLane := v.toNat }) else s

/-- The registers that BRD_READ_LANE shows of lane `n`. -/
def brdLaneRegs (n : Nat) : List Nat :=
  [Reg.LANE_STAT n, Reg.RX_FRAMES n, Reg.TX_FRAMES n, Reg.DROP_LINK_CHECK n, Reg.PARSE_FAIL n, Reg.STOMPED n, Reg.DOWN_EVENTS n]

/-- BRD_SET_OFFSET: an offset that is not word aligned is NACKed. -/
def brdSetOffset (v : Word) (s : State) : State :=
  if boardUp s ∧ v.toNat % 4 = 0 then modMgt s (fun g => { g with brdOff := v.toNat }) else s

/-- BRD_READ_REGISTER: the register at the offset; one behind a remote window when the peer has answered. -/
def brdReadRegister (s : State) : State :=
  let a := s.mgt.brdOff
  if ¬ boardUp s then s
  else if 0x4000000 ≤ a then boardAnswer s 0x21 [0, 0, 0, 0]
  else if 0x1000000 ≤ a ∧ a < 0x3000000 then
    match windowRead ((a - 0x1000000) / 0x100000) (a % 0x100000) .board s with
    | (some v, s) => boardAnswer s 0x21 (beBytes 4 v.toNat)
    | (none, s) => s
  else boardRead 0x21 [a] s

/-! ## The commands -/

/-- BRD_READ_ID. -/
def execBrdReadId (s : State) : Host.Outcome State Fault Refusal := .next (boardRead 0x00 [Reg.DEVICE_ID] s)
/-- BRD_READ_MODE. -/
def execBrdReadMode (s : State) : Host.Outcome State Fault Refusal := .next (boardRead 0x01 [Reg.MODE_CUR] s)
/-- BRD_READ_ENV. -/
def execBrdReadEnv (s : State) : Host.Outcome State Fault Refusal := .next (boardRead 0x02 [Reg.TEMP_STAT, Reg.SUPPLY_STAT] s)
/-- BRD_SELECT_LANE. -/
def execBrdSelectLane (v : Byte) (s : State) : Host.Outcome State Fault Refusal := .next (brdSelectLane v s)
/-- BRD_READ_LANE. -/
def execBrdReadLane (s : State) : Host.Outcome State Fault Refusal := .next (boardRead 0x11 (brdLaneRegs s.mgt.brdLane) s)
/-- BRD_SET_OFFSET. -/
def execBrdSetOffset (v : Word) (s : State) : Host.Outcome State Fault Refusal := .next (brdSetOffset v s)
/-- BRD_READ_REGISTER. -/
def execBrdReadRegister (s : State) : Host.Outcome State Fault Refusal := .next (brdReadRegister s)

end Sys2Proof.Machine
end

