-- ==== Sys2Proof/Machine/Image.lean ====
section
/-! DEFINITION. The state image of a partition: SAVE and RESTORE (R278, R279). The rules say what each section's body holds
and not how its bytes lie; every body here is a list of 32-bit words in the order that its definition states (DESIGN
CHOICE, log entry 72). -/

namespace Sys2Proof.Machine

/-! ## Words of a body -/

/-- Little-endian words as bytes. -/
def bytesOf (l : List Word) : List Byte := l.flatMap (fun w => leBytes 4 w.toNat)

/-- The words that bytes spell. -/
def wordsOf : List Byte → List Word
  | a :: b :: c :: d :: r => word (leNat [a, b, c, d]) :: wordsOf r
  | _ => []

/-- A list of words behind its length. -/
def counted (l : List Word) : List Word := word l.length :: l

/-- A list behind its length, and what follows it. -/
def takeCounted : List Word → List Word × List Word
  | [] => ([], [])
  | n :: r => (r.take n.toNat, r.drop n.toNat)

/-- `n` lists, each behind its length, and what follows them. -/
def takeLists : Nat → List Word → List (List Word) × List Word
  | 0, l => ([], l)
  | n + 1, l =>
    let (m, r) := takeCounted l
    let (ms, r) := takeLists n r
    (m :: ms, r)

/-- The registers at some addresses. -/
def regWords (s : State) (l : List Nat) : List Word := l.map (reg s)

/-- The bits that a saved register holds: reserved ones read 0 (R5). The counters and samples of a NIB page hold bits that
no write changes; queues and gate windows stand behind selectors. -/
def heldMask (a : Nat) : Word :=
  if 0x20002000 ≤ a then 0xFFFFFFFF
  else if 0x20001000 ≤ a then 0x3FFF
  else if 0x20000000 ≤ a then 0xBFFFDFFF
  else match regRow a with
    | none => 0
    | some (r, k, _) =>
      if k = .nib ∧ (r.off = 0x114 ∨ r.off = 0x118) then 0xFFFFFFFF
      else if k = .nib ∧ r.off = 0x308 then 0xFFFF
      else if k = .nib ∧ r.off = 0x30C then 0xC0001FFF
      else word (r.rw ||| r.rwl ||| r.w1c)

/-- Store words at register addresses; reserved bits stay 0. -/
def putRegs (s : State) (l : List Nat) (ws : List Word) : State :=
  (l.zip ws).foldl (fun s e => setReg s e.1 (e.2 &&& heldMask e.1)) s

/-! ## The resources of a partition, in rising number (R266, R279) -/

/-- The kinds of SHAPE in its order: Nibs, lanes, classes, queues, shapers, gate lists, templates, alarms, lock groups
(16q + group), regions. -/
def resources (s : State) (p : Nat) : List (List Nat) :=
  [partNibs s p,
   (List.range 128).filter (fun n => lanePid s n = p),
   (List.range 15).filter (fun c => fld s (Reg.ST_CLASS c) 27 24 = p),
   (List.range 256).filter (fun q => queuePid s q = p),
   (List.range 32).filter (fun k => flag s (Reg.PART_SHAPERS p) k),
   (List.range 8).filter (fun g => fld s Reg.RU_GPID (4 * g + 3) (4 * g) = p),
   (List.range 256).filter (fun t => tplPid s t = p),
   (List.range 16).filter (fun a => alarmPid s a = p),
   (List.range 256).filter (fun i => lockPid s (i / 16) (16 * (i % 16)) = p),
   (List.range 16).filter (fun r => drValid s r && drRegionPid s r = p)]

/-- One kind of a list of resources. -/
def kindOf (l : List (List Nat)) (i : Nat) : List Nat := l.getD i []

/-- A region as SHAPE lists it: size, order, base, in 64 MiB units. -/
def regionWords (s : State) (r : Nat) : List Word :=
  [word (fld s (Reg.DR_SIZE 0 r) 10 0), word (fld s (Reg.DR_MAP 0 r) 29 28), word (fld s (Reg.DR_BASE 0 r) 11 0)]

/-- SHAPE: ten counts, the regions, the Quill of each Nib, then the numbers of every resource. -/
def shapeWords (s : State) (p : Nat) : List Word :=
  let l := resources s p
  l.map (fun k => word k.length) ++ (kindOf l 9).flatMap (regionWords s) ++ (kindOf l 0).map (fun n => word (n / 8))
    ++ l.flatten.map word

/-- SHAPE as read: counts, region words (three each), Quills, numbers by kind. -/
structure Shape where
  counts : List Nat
  regions : List Nat
  quills : List Nat
  nums : List (List Nat)
  deriving DecidableEq, Repr

/-- Split a list into lists of given lengths. -/
def splitBy (l : List Nat) : List Nat → List (List Nat)
  | [] => []
  | n :: ns => l.take n :: splitBy (l.drop n) ns

/-- Read SHAPE. -/
def readShape (ws : List Word) : Shape :=
  let l := ws.map BitVec.toNat
  let c := l.take 10
  let k := 3 * c.getD 9 0
  { counts := c, regions := (l.drop 10).take k, quills := (l.drop (10 + k)).take (c.getD 0 0)
    nums := splitBy (l.drop (10 + k + c.getD 0 0)) c }

/-- Two lists have equal entries at exactly the same pairs of places. -/
def samePattern (a b : List Nat) : Bool :=
  (List.range a.length).all (fun i => (List.range a.length).all (fun j =>
    decide (a.getD i 0 = a.getD j 0) == decide (b.getD i 0 = b.getD j 0)))

/-- Check 0x15: the counts are the partition's own, regions have equal sizes, and Nibs share Quills as in the source. -/
def shapeFits (s : State) (p : Nat) (sh : Shape) : Bool :=
  let own := readShape (shapeWords s p)
  decide (sh.counts = own.counts) && (List.range (own.counts.getD 9 0)).all (fun i => sh.regions.getD (3 * i) 0 = own.regions.getD (3 * i) 0)
    && samePattern sh.quills own.quills

/-! ## Bodies -/

/-- The registers of a NIB page that are saved: all that hold state of their own but the owner and the fence. -/
def nibRegs (n : Nat) : List Nat :=
  let each := fun (f : Nat → Nat) => (List.range 8).map f
  [Reg.NIB_CTL n, Reg.NIB_SHARE n, Reg.DL_CTL n, Reg.HLP_EN n, Reg.WATCH_ADDR n, Reg.WATCH_CTL n, Reg.DBG_SEL n, Reg.PC_CTL n,
   Reg.DL_COUNT n, Reg.MSG_DISCARD n, Reg.PC_OVF n, Reg.PC_SAMPLE_PC n, Reg.PC_SAMPLE_INFO n]
    ++ each (Reg.DWIN n) ++ each (Reg.THR_ENTRY n) ++ each (Reg.PC_SEL n) ++ each (Reg.PC_CNT_LO n) ++ each (Reg.PC_CNT_HI n)

/-- A timer: its kind, and the ticks that it still has to run or the stamp of its expiry. -/
def timerWords (s : State) (m : Timer) : List Word :=
  match m with
  | .off => [0, 0]
  | .run due => [1, word (due - s.phase.count)]
  | .expired sps => [2, sps]

/-- A timer as saved. -/
def takeTimer (s : State) (a b : Word) : Timer :=
  if a = 1 then .run (s.phase.count + b.toNat) else if a = 2 then .expired b else .off

/-- A word that may be absent. -/
def optWords (o : Option Word) : List Word :=
  match o with
  | none => [0, 0]
  | some v => [1, v]

/-- A word that may be absent, as saved. -/
def takeOpt (a b : Word) : Option Word := if a = 1 then some b else none

/-- A thread: its states, PC, W registers, special registers; the results that its ports hold, its timers and phase target;
then its claim, staged message, staged FD and token words. An operation of the Ductus that it holds is the Ductus' and not
saved (log entry 72). -/
def threadWords (s : State) (t : Nat) : List Word :=
  let th := landed (thread s t)
  [word (stateNum th.state), word (stateNum th.before), th.pc.setWidth 32] ++ (List.range 24).map (wreg s t)
    ++ [th.st, th.cnt, th.ph, th.pl, th.qu, th.rm, th.epc, th.cause, th.tinfo, th.pageSel]
    ++ [word (th.txStat.toNat + 2 ^ 8 * th.fdStat.toNat + 2 ^ 16 * th.lkRes.toNat + 2 ^ 24 * th.dxStat.toNat),
        word (th.iwStat.toNat + 2 ^ 8 * th.stepping.toNat), th.iwArg, th.dxTsps]
    ++ timerWords s th.tmr0 ++ timerWords s th.tmr1 ++ optWords th.target ++ optWords th.dxTgt ++ optWords th.iwQuery
    ++ counted (match th.claim with | some c => word c.ch :: word c.total :: c.words | none => [])
    ++ counted (match th.staging with | some (d, ws) => d :: ws | none => [])
    ++ counted th.fdStage ++ counted th.dxData
where
  /-- The code of a thread state (R145). -/
  stateNum : ThrState → Nat
    | .idle => 0 | .running => 1 | .blocked => 2 | .parked => 3 | .halted => 4

/-- A thread state of a code. -/
def stateOf (n : Nat) : ThrState :=
  match n with
  | 1 => .running | 2 => .blocked | 3 => .parked | 4 => .halted | _ => .idle

/-- The bits of ST (R105). -/
def stHeld : Word := 0xE0000000 ||| stWritable

/-- Read a thread, and what follows it. -/
def takeThread (s : State) (ws : List Word) : Thread × List Word :=
  let g := fun i => ws.getD i 0
  let status := fun (i j : Nat) => byteOf (bits (g i) (8 * j + 3) (8 * j)) 0
  let (c, r) := takeCounted (ws.drop 51)
  let (m, r) := takeCounted r
  let (f, r) := takeCounted r
  let (d, r) := takeCounted r
  ({ state := stateOf (g 0).toNat, before := stateOf (g 1).toNat, pc := (g 2).setWidth 16
     w := (List.range 24).foldl (fun t i => Tbl.set (fun _ => 0) t i (g (3 + i))) []
     st := g 27 &&& stHeld, cnt := g 28, ph := g 29, pl := g 30, qu := g 31, rm := g 32, epc := g 33 &&& 0xFFFF
     cause := g 34 &&& causeWritable, tinfo := g 35, pageSel := g 36 &&& 0x3FFF
     txStat := status 37 0, fdStat := status 37 1, lkRes := status 37 2, dxStat := status 37 3
     iwStat := status 38 0, stepping := bit (g 38) 8, iwArg := g 39, dxTsps := g 40
     tmr0 := takeTimer s (g 41) (g 42), tmr1 := takeTimer s (g 43) (g 44), target := takeOpt (g 45) (g 46)
     dxTgt := takeOpt (g 47) (g 48), iwQuery := takeOpt (g 49) (g 50), fdStage := f, dxData := d
     claim := match c with | ch :: n :: l => some { ch := ch.toNat % 32, total := n.toNat, words := l } | _ => none
     staging := match m with | d :: l => some (d, l) | _ => none }, r)

/-- Messages behind their number. -/
def msgWords (l : List (List Word)) : List Word := word l.length :: l.flatMap counted

/-- The posted stores of a Nib's threads have reached memory. -/
def drained (s : State) (n : Nat) : State :=
  (List.range 8).foldl (fun s i => (List.range 4).foldl (fun s _ => drainOne s (tidOf n i)) s) s

/-- A Nib: I-space and local data as its posted stores leave them, then its page's registers, TVEC, its threads, its
channels' messages, and the notices held for CH31 and CH1. -/
def nibBody (s : State) (n : Nat) : List Byte :=
  rdBytes (drained s n) (ispace n) 0x30000 ++ bytesOf (regWords s (nibRegs n) ++ [(nib s n).tvec]
    ++ (List.range 8).flatMap (fun i => threadWords s (tidOf n i))
    ++ (List.range 32).flatMap (fun c => msgWords (chan s n c).msgs) ++ msgWords (nib s n).notices ++ msgWords (nib s n).dxNotices)

/-- Put threads into place, from thread `i` on. -/
def putThreads (n : Nat) : Nat → Nat → List Word → State → List Word × State
  | 0, _, ws, s => (ws, s)
  | k + 1, i, ws, s =>
    let (th, r) := takeThread s ws
    let s := setThread s (tidOf n i) th
    let s := match th.claim with
      | some c => modChan s n c.ch (fun ch => { ch with claimed := ch.claimed + 1 })
      | none => s
    putThreads n k (i + 1) r s

/-- Put channel contents into place, from channel `c` on. -/
def putChans (n : Nat) : Nat → Nat → List Word → State → List Word × State
  | 0, _, ws, s => (ws, s)
  | k + 1, c, ws, s =>
    let (ms, r) := takeLists (ws.headD 0).toNat (ws.drop 1)
    putChans n k (c + 1) r (modChan s n c (fun ch => { ch with msgs := ms }))

/-- A helper context set: H0 to H15, the last completion, the tag counter, a held message, and HIST's bins. -/
def ctxWords (s : State) (n ty : Nat) : List Word :=
  let c := ctx s (n / 8) ty (n % 8)
  (List.range 16).flatMap (fun i => [halfOf (hReg c.h i) 0, halfOf (hReg c.h i) 1])
    ++ [word c.last.1, word c.last.2.1, word c.last.2.2.toNat, word c.tags] ++ counted (c.held.getD [])
    ++ (if ty = 2 then (List.range 1024).map (binOf c.bins) else [])

/-- Put the context sets of Nib `n` into place, from type `ty` on. -/
def putCtxs (n : Nat) : Nat → Nat → List Word → State → State
  | 0, _, _, s => s
  | k + 1, ty, ws, s =>
    let g := fun i => ws.getD i 0
    let (m, r) := takeCounted (ws.drop 36)
    let s := modCtx s (n / 8) ty (n % 8) (fun c => { c with
      h := (List.range 16).foldl (fun h i => Tbl.set (fun _ => 0) h i ((g (2 * i + 1) ++ g (2 * i) : BitVec 64))) []
      last := ((g 32).toNat % 256, (g 33).toNat % 32, byteOf (bits (g 34) 3 0) 0)
      tags := (g 35).toNat % 256
      held := if m = [] then none else some m
      bins := if ty = 2 then (List.range 1024).foldl (fun b i => Tbl.set (fun _ => 0) b i (r.getD i 0)) [] else [] })
    putCtxs n k (ty + 1) (if ty = 2 then r.drop 1024 else r) s

/-- A lock group: its sixteen LK_STATE words. -/
def lockWords (s : State) (g : Nat) : List Word :=
  (List.range 16).map (fun i =>
    let l := lock s (g / 16) (16 * (g % 16) + i)
    word (l.owner.isSome.toNat * 2 ^ 31 + l.broken.toNat * 2 ^ 30 + l.queue.length % 64 * 2 ^ 16 + l.owner.getD 0 % 1024))

/-- The registers of DISPATCH: those of each class, then the partition's. -/
def dispatchRegs (p : Nat) (classes : List Nat) : List Nat :=
  classes.flatMap (fun c => [Reg.ST_CLASS c, Reg.LG_CFG c, Reg.LG_TMO c])
    ++ [Reg.CBC_LEARN p, Reg.CBC_AGE p, Reg.CP_PCTL p] ++ (List.range 8).map (fun i => Reg.CP_SEL0 p + 4 * i)

/-- The registers of EGRESS: queues, shapers, windows of the gate lists. -/
def egressRegs (queues shapers gates : List Nat) : List Nat :=
  queues.flatMap (fun q => [Reg.queueCfg q, Reg.queueLim q])
    ++ shapers.flatMap (fun k => [Reg.RU_SH_RATE k, Reg.RU_SH_BURST k, Reg.RU_SH_OVH k])
    ++ gates.flatMap (fun g => (List.range 64).map (Reg.gateWin g))

/-- The registers of LANES. -/
def laneRegs (lanes : List Nat) : List Nat :=
  lanes.flatMap (fun n => [Reg.LANE_CTL n, Reg.LANE_ETH_DA_LO n, Reg.LANE_ETH_DA_HI n, Reg.LANE_ETH_SA_LO n,
    Reg.LANE_ETH_SA_HI n, Reg.LANE_VLAN n])

/-- The registers of WINDOW: ring configuration, PASID and quotas. -/
def windowRegs (p : Nat) : List Nat :=
  [Reg.PW_CTL p, Reg.PW_RXB_SIZE p]
    ++ (List.range 3).flatMap (fun r => [Reg.PW_RING_BASE_LO p r, Reg.PW_RING_BASE_HI p r, Reg.PW_RING_CFG p r])
    ++ [Reg.PART_PASID p, Reg.IW_QPART_S p, Reg.IW_QPART_D p]

/-- Bit `i` for the `i`-th of some numbers whose bit is set in a register. -/
def bitWord (s : State) (a : Nat) (l : List Nat) : Word :=
  word ((l.zipIdx.map (fun e => (flag s a e.1).toNat * 2 ^ e.2)).sum)

/-! ## The image (R278) -/

/-- A part of an image: type, index within its type, body. -/
structure ImagePart where
  ty : Nat
  index : Nat
  body : List Byte
  deriving DecidableEq, Repr

/-- The parts of one type, one per resource. -/
def partsPer (ty : Nat) (f : Nat → List Byte) (l : List Nat) : List ImagePart :=
  l.zipIdx.map (fun e => { ty := ty, index := e.2, body := f e.1 })

/-- The parts of partition `p`'s image, with its signed reading. -/
def imageParts (s : State) (p : Nat) (reading : List Byte) : List ImagePart :=
  let l := resources s p
  let one := fun (ty : Nat) (ws : List Word) => ({ ty := ty, index := 0, body := bytesOf ws } : ImagePart)
  [one 1 (shapeWords s p)]
    ++ partsPer 2 (nibBody s) (kindOf l 0)
    ++ partsPer 3 (fun g => bytesOf (lockWords s g)) (kindOf l 8)
    ++ partsPer 4 (fun n => bytesOf ((List.range 4).flatMap (ctxWords s n))) (kindOf l 0)
    ++ [one 5 ((s.copybook.entries.filter (fun e => entryValid e.2 && entryPid e.2 = p)).flatMap (fun e => entryWords e.2))]
    ++ partsPer 6 (fun t => rdBytes s (tplBase t) 0x800 ++ leBytes 4 (s.ductus.enabled.contains t).toNat) (kindOf l 6)
    ++ [one 7 (regWords s (dispatchRegs p (kindOf l 2))),
        one 8 (regWords s (egressRegs (kindOf l 3) (kindOf l 4) (kindOf l 5)) ++ [bitWord s Reg.RU_GEN (kindOf l 5)]),
        one 9 (regWords s (laneRegs (kindOf l 1))),
        one 10 (regWords s ((kindOf l 7).map Reg.PH_ALARM) ++ [bitWord s Reg.ALARM_STAT (kindOf l 7)]),
        one 11 (regWords s (windowRegs p)),
        { ty := 12, index := 0, body := reading }]

/-- Bytes padded to a multiple of 16. -/
def pad16 (l : List Byte) : List Byte := l ++ List.replicate ((16 - l.length % 16) % 16) 0

/-- A part with its header. -/
def partBytes (e : ImagePart) : List Byte :=
  leBytes 2 e.ty ++ [0, 0] ++ leBytes 4 e.index ++ leBytes 4 e.body.length ++ leBytes 4 (crc32c e.body).toNat ++ pad16 e.body

/-- The image of partition `p`. -/
def image (s : State) (p : Nat) (reading : List Byte) : List Byte :=
  let parts := imageParts s p reading
  let body := parts.flatMap partBytes
  let head := leBytes 4 0x50415254 ++ leBytes 2 1 ++ leBytes 2 parts.length ++ leBytes 4 (112 + body.length)
    ++ leBytes 4 (reg s Reg.DEVICE_ID).toNat ++ leBytes 8 Config.uniqueId.toNat ++ leBytes 1 p
    ++ leBytes 1 (part s p).fromActive.toNat ++ leBytes 2 (partEpoch s p) ++ leBytes 8 (psNat (part s p).drainPs)
    ++ List.replicate 28 0
  head ++ body ++ sha384 (head ++ body)

/-- Inkwell buffers that partition `p` uses. -/
def partUse (s : State) (p : Nat) : Nat := use s (partKey false p) + use s (partKey true p)

/-- SAVE: REFUSED with reason 0x10 while buffers are held, FULL where the image does not fit; else its signed reading
starts. -/
def saveRun (p : Nat) (s : State) : Byte × State :=
  if partState s p ≠ 5 then partRefused s p 0x00
  else if partUse s p ≠ 0 then partFails s p 0x00 0x10
  else
    let need := (image s p (List.replicate 312 0)).length
    let s := setReg s (Reg.PART_IMG_NEED p) (word need)
    if (reg s (Reg.PART_IMG_LEN p)).toNat < need then (stFull, s)
    else
      let s := modSignet s (fun g => { g with finished := Tbl.set (fun _ => []) g.finished p [] })
      (stOk, modPart (startReading (setPartBusy s p true) p p) p (fun q => { q with saving := true }))

/-- PART_SAVE_DONE: the reading has been signed, and the DMA of the image ends. -/
def partSaveDone (p : Nat) (s : State) : State :=
  let r := Tbl.get (fun _ => []) s.signet.finished p
  if ¬ (part s p).saving ∨ r = [] then s
  else
    partDone (modPart (dmaOut s p (imgAddr s p) (image s p r)) p (fun q => { q with saving := false })) p stOk

/-! ## Reading an image (R279) -/

/-- The parts that stand behind the header, each with whether its CRC holds. -/
def readParts : Nat → List Byte → List (ImagePart × Bool)
  | 0, _ => []
  | n + 1, bs =>
    let len := leNat (slice bs 8 4)
    let body := (bs.drop 16).take len
    ({ ty := leNat (slice bs 0 2), index := leNat (slice bs 4 4), body := body },
      decide (body.length = len) && leNat (slice bs 12 4) = (crc32c body).toNat)
      :: readParts n (bs.drop (16 + (len + 15) / 16 * 16))

/-- The parts of an image, within its own length and before its hash. -/
def partsOf (img : List Byte) : List (ImagePart × Bool) :=
  readParts (leNat (slice img 6 2)) ((img.take (leNat (slice img 8 4) - 48)).drop 64)

/-- SHAPE of an image. -/
def shapeOf (img : List Byte) : Shape :=
  readShape (match (partsOf img).find? (fun e => e.1.ty = 1) with
    | some e => wordsOf e.1.body
    | none => [])

/-- The first check that an image fails, as a PART_ERR reason. -/
def imageFails (s : State) (p : Nat) (img : List Byte) : Option Nat :=
  let len := leNat (slice img 8 4)
  if leNat (slice img 0 4) ≠ 0x50415254 ∨ leNat (slice img 4 2) ≠ 1 then some 0x11
  else if len < 112 ∨ img.length < len ∨ slice img (len - 48) 48 ≠ sha384 (img.take (len - 48)) then some 0x12
  else if (partsOf img).any (fun e => !e.2) then some 0x13
  else if leNat (slice img 14 2) ≠ 0x6440 then some 0x14
  else if ¬ shapeFits s p (shapeOf img) then some 0x15
  else if (partsOf img).any (fun e => !decide (1 ≤ e.1.ty ∧ e.1.ty ≤ 12)) then some 0x16
  else none

/-- A number of the source as the partition's own: the `i`-th of the image is the `i`-th of the partition. -/
def moved (src own : List Nat) (n : Nat) : Nat :=
  match src.findIdx? (· = n) with
  | some i => own.getD i n
  | none => n

/-- Field `[hi:lo]` of a word, moved. -/
def movedField (w : Word) (hi lo : Nat) (f : Nat → Nat) : Word := setBits w hi lo (f (bits w hi lo))

/-- A DWIN base moves with its region: `src` and `own` are the region words of SHAPE. -/
def movedBase (src own : List Nat) (b : Nat) : Nat :=
  match (List.range (src.length / 3)).find? (fun i => decide (src.getD (3 * i + 2) 0 ≤ b ∧ b < src.getD (3 * i + 2) 0 + src.getD (3 * i) 0)) with
  | some i => own.getD (3 * i + 2) 0 + (b - src.getD (3 * i + 2) 0)
  | none => b

/-- What RESTORE maps: the SHAPE of the image and the partition's own. -/
structure Move where
  p : Nat
  src : Shape
  own : Shape
  deriving DecidableEq, Repr

/-- A number of kind `k`, moved. -/
def Move.num (m : Move) (k n : Nat) : Nat := moved (kindOf m.src.nums k) (kindOf m.own.nums k) n

/-- The partition's resource that part `i` of a kind goes to. -/
def Move.target (m : Move) (k i : Nat) : Option Nat := (kindOf m.own.nums k)[i]?

/-- NIB: memory, registers with moved DWIN bases, threads, channels. -/
def restoreNib (m : Move) (n : Nat) (body : List Byte) (s : State) : State :=
  let s := wrClean s (ispace n) (body.take 0x30000)
  let ws := wordsOf (body.drop 0x30000)
  let s := putRegs s (nibRegs n) ws
  let s := (List.range 8).foldl (fun s i =>
    setReg s (Reg.DWIN n i) (movedField (reg s (Reg.DWIN n i)) 11 0 (movedBase m.src.regions m.own.regions))) s
  let s := setReg s (Reg.PC_SAMPLE_INFO n) (movedField (reg s (Reg.PC_SAMPLE_INFO n)) 9 3 (m.num 0))
  let (r, s) := putThreads n 8 0 (ws.drop ((nibRegs n).length + 1)) s
  let (r, s) := putChans n 32 0 r s
  let (held, r) := takeLists (r.headD 0).toNat (r.drop 1)
  let (dx, _) := takeLists (r.headD 0).toNat (r.drop 1)
  modNib s n (fun b => { b with tvec := ws.getD (nibRegs n).length 0 &&& tvecWritable, notices := held, dxNotices := dx })

/-- LOCKS: owners are the moved Nibs' threads. -/
def restoreLocks (m : Move) (g : Nat) (ws : List Word) (s : State) : State :=
  (List.range 16).foldl (fun s i =>
    let w := ws.getD i 0
    modLock s (g / 16) (16 * (g % 16) + i) (fun _ =>
      { owner := if bit w 31 then some (8 * m.num 0 (bits w 9 3) + bits w 2 0) else none, broken := bit w 30, queue := [] })) s

/-- The entries of a COPYBOOK body. -/
def entriesOf : List Word → List Entry
  | a :: b :: c :: d :: e :: f :: g :: h :: r =>
    { w0 := b ++ a, w1 := d ++ c, w2 := f ++ e, w3 := h ++ g } :: entriesOf r
  | _ => []

/-- COPYBOOK: the partition's entries are those of the image, under its own PID, placed anew. -/
def restoreEntries (m : Move) (ws : List Word) (s : State) : State :=
  let s := ((s.copybook.entries.filter (fun e => entryValid e.2 && entryPid e.2 = m.p)).map Prod.fst).foldl cbClear s
  (entriesOf ws).foldl (fun s e =>
    match cbPlace s (sealEntry { e with w0 := setBits e.w0 27 24 m.p }) with
    | (some _, s) => cbUse s m.p 1
    | (none, s) => s) s

/-- TEMPLATE: the image under the partition's PID, with moved notice Nib (R188) and home Nibs, and its enable bit. -/
def restoreTemplate (m : Move) (t : Nat) (body : List Byte) (s : State) : State :=
  let s := wrClean s (tplBase t) (body.take 0x800)
  let s := wrWord s (tplBase t) (movedField (setBits (tplWord s t 0) 27 24 m.p) 14 8 (m.num 0))
  let s := (List.range (tplLast s t + 1)).foldl (fun s n =>
    wrWord s (tplBase t + 0x40 + 16 * n) (movedField (nodeWord s t n 0) 22 16 (m.num 0))) s
  let on := bit ((wordsOf (body.drop 0x800)).headD 0) 0
  setFlag { s with ductus := { s.ductus with
    enabled := s.ductus.enabled.filter (· ≠ t) ++ (if on then [t] else []) } } (Reg.DX_TPL_EN (t / 32)) (t % 32) on

/-- DISPATCH. -/
def restoreDispatch (m : Move) (ws : List Word) (s : State) : State :=
  let cs := kindOf m.own.nums 2
  let s := putRegs s (dispatchRegs m.p cs) ws
  let s := cs.foldl (fun s c => setReg s (Reg.ST_CLASS c)
    (setBits (movedField (reg s (Reg.ST_CLASS c)) 6 0 (m.num 0)) 27 24 m.p)) s
  let s := setReg s (Reg.CBC_LEARN m.p) (movedField (movedField (reg s (Reg.CBC_LEARN m.p)) 23 16 (m.num 3)) 15 8 (m.num 3))
  setReg s (Reg.CP_PCTL m.p) (movedField (reg s (Reg.CP_PCTL m.p)) 7 0 (m.num 3))

/-- Bits of a register for some numbers, from the bits of a word by place. -/
def putBits (s : State) (a : Nat) (l : List Nat) (w : Word) : State := l.zipIdx.foldl (fun s e => setFlag s a e.1 (bit w e.2)) s

/-- EGRESS. -/
def restoreEgress (m : Move) (ws : List Word) (s : State) : State :=
  let qs := kindOf m.own.nums 3
  let gs := kindOf m.own.nums 5
  let l := egressRegs qs (kindOf m.own.nums 4) gs
  let s := putRegs s l ws
  let s := qs.foldl (fun s q =>
    let w := movedField (movedField (movedField (reg s (Reg.queueCfg q)) 6 0 (m.num 1)) 19 15 (m.num 4)) 23 21 (m.num 5)
    setReg s (Reg.queueCfg q) (setBits w 27 24 m.p)) s
  putBits s Reg.RU_GEN gs (ws.getD l.length 0)

/-- LANES: a lane that was enabled begins to acquire. -/
def restoreLanes (m : Move) (ws : List Word) (s : State) : State :=
  let ls := kindOf m.own.nums 1
  let s := ls.foldl (fun s n => if laneState s n = 0 then s else laneOff n s) s
  let s := putRegs s (laneRegs ls) ws
  refit (ls.foldl (fun s n => laneAcquire n (setFld s (Reg.LANE_CTL n) 7 4 m.p)) s)

/-- PHASE: alarms under the partition's PID, and its ALARM_STAT bits. -/
def restorePhase (m : Move) (ws : List Word) (s : State) : State :=
  let as_ := kindOf m.own.nums 7
  let s := putRegs s (as_.map Reg.PH_ALARM) ws
  let s := as_.foldl (fun s a => setFld s (Reg.PH_ALARM a) 29 26 m.p) s
  putBits s Reg.ALARM_STAT as_ (ws.getD as_.length 0)

/-- One part of an image into place: part `i` of a kind goes to the partition's `i`-th of that kind. SHAPE and the signed
reading restore nothing. -/
def restorePart (m : Move) (s : State) (e : ImagePart) : State :=
  let ws := wordsOf e.body
  let place := fun (k : Nat) (f : Nat → State) => match m.target k e.index with
    | some x => f x
    | none => s
  match e.ty with
  | 2 => place 0 (fun n => restoreNib m n e.body s)
  | 3 => place 8 (fun g => restoreLocks m g ws s)
  | 4 => place 0 (fun n => putCtxs n 4 0 ws s)
  | 5 => restoreEntries m ws s
  | 6 => place 6 (fun t => restoreTemplate m t e.body s)
  | 7 => restoreDispatch m ws s
  | 8 => restoreEgress m ws s
  | 9 => restoreLanes m ws s
  | 10 => restorePhase m ws s
  | 11 => putRegs s (windowRegs m.p) ws
  | _ => s

/-- The state of partition `p` rebuilt from an image that passed its checks: the old work of its Nibs is gone. -/
def rebuild (p : Nat) (img : List Byte) (s : State) : State :=
  let m : Move := { p := p, src := shapeOf img, own := readShape (shapeWords s p) }
  let s := (partNibs s p).foldl resetNibWork ((partNibs s p).foldl nibLeaves s)
  let s := ((partsOf img).map Prod.fst).foldl (restorePart m) s
  modPart s p (fun q => { q with fromActive := bit ((img.getD 25 0)) 0, restoring := none })

/-- RESTORE: into an IDLE partition; the DMA of the image starts. -/
def restoreRun (p : Nat) (img : List Byte) (s : State) : Byte × State :=
  if partState s p ≠ 2 then partRefused s p 0x00
  else
    let img := img.take (reg s (Reg.PART_IMG_LEN p)).toNat
    (stOk, modPart (dmaIn (setPartBusy s p true) p (imgAddr s p) img.length) p (fun q => { q with restoring := some img }))

/-- PART_RESTORE_DONE: the partition is FROZEN, or its state is unchanged and PART_ERR says why. -/
def partRestoreDone (p : Nat) (s : State) : State :=
  match (part s p).restoring with
  | none => s
  | some img => match imageFails s p img with
    | none => partDone (setPartState (rebuild p img s) p 5) p stOk
    | some e =>
      let s := modPart s p (fun q => { q with restoring := none })
      partDone (note (setFld s (Reg.PART_ERR p) 7 0 e) (Reg.partPage p) 0x03 4) p stRefused

/-! ## The commands -/

/-- PART_SAVE. -/
def execPartSave (p : PartId) (s : State) : Host.Outcome State Fault Refusal := .next (partCommand p 7 (saveRun p) s)
/-- PART_SAVE_DONE. -/
def execPartSaveDone (p : PartId) (s : State) : Host.Outcome State Fault Refusal := .next (partSaveDone p s)
/-- PART_RESTORE: `image` is what the DMA reads from PART_IMG_ADDR on. -/
def execPartRestore (p : PartId) (image : List Byte) (s : State) : Host.Outcome State Fault Refusal :=
  .next (partCommand p 8 (restoreRun p image) s)
/-- PART_RESTORE_DONE. -/
def execPartRestoreDone (p : PartId) (s : State) : Host.Outcome State Fault Refusal := .next (partRestoreDone p s)

end Sys2Proof.Machine
end

