-- ==== Sys2Proof/Machine/RegWrite.lean ====
section
/-! DEFINITION. Writing a block register: which writes are refused, which are commands of the chapters, and what a plain
write changes (the register tables of the chapters, R5, R267, R386). A value outside the range that its table states is
refused as a configuration write (DESIGN CHOICE, log entry 61). -/

namespace Sys2Proof.Machine

/-- A register write: the MID that makes it, whether it has the partition authority's rights, the address, the word. -/
structure RegWr where
  mid : Nat
  auth : Bool
  a : Nat
  v : Word
  deriving DecidableEq, Repr

/-- What a write of `v` leaves in the register at `a`: writable bits take it, RWL bits unless the page is locked, and ones
written to W1C bits clear them (R5, R386). -/
def masked (s : State) (a : Nat) (v : Word) : Word :=
  match regRow a with
  | none => reg s a
  | some (r, _) =>
    let put := word r.rw ||| (if flag s (Reg.PG_CTL (a - a % 0x1000)) 3 then 0 else word r.rwl)
    ((reg s a &&& ~~~put) ||| (v &&& put)) &&& ~~~(v &&& word r.w1c)

/-- A write of a register with no effect but its bits. -/
def maskedWrite (s : State) (w : RegWr) : State := setReg s w.a (masked s w.a w.v)

/-- The write is made if `ok`, else refused with a source of a page. -/
def writeIf (ok : Bool) (page src : Nat) (s : State) (w : RegWr) : State :=
  if ok then maskedWrite s w else refuseWrite s page src w.a

/-- The write is made if `ok`, else it is dropped: the page has no source for it. -/
def keepIf (ok : Bool) (s : State) (w : RegWr) : State := if ok then maskedWrite s w else s

/-- A move of a resource from partition `p` to partition `q` is allowed: `quiet` says that it is quiescent (R267). -/
def moveOk (s : State) (p q : Nat) (quiet : Bool) : Bool := p = q || (quiet && mayMove s p q)

/-- Every changed nibble of an ownership map may move (R267). -/
def nibblesOk (s : State) (old new : Word) : Bool :=
  (List.range 8).all (fun i => moveOk s (bits old (4 * i + 3) (4 * i)) (bits new (4 * i + 3) (4 * i)) true)

/-! ## Phase and lanes -/

/-- PH_CTL: each field as its own command. A write of subst_en 1 that is refused changes none of them (R24, R27). Clearing
arm cancels an alignment that has not come (DEDUCED, log entry 67). -/
def writePhCtl (v : Word) (s : State) : State :=
  if bit v 1 ∧ mode s ≠ 2 ∧ mode s ≠ 7 then refuseWrite s Reg.phasePage 0x0A Reg.PH_CTL else
  let s := setFld s Reg.PH_CTL 4 2 (bits v 4 2)
  let s :=
    if bit v 0 then (if flag s Reg.PH_CTL 0 ∧ s.phase.counting then s else phCtlArm s)
    else modPhase (setFlag s Reg.PH_CTL 0 false) (fun ph => { ph with alignNext := false })
  let s := if bit v 5 then realignNow s else s
  if bit v 1 = flag s Reg.PH_CTL 1 then s else if bit v 1 then substEnable s else substDisable s

/-- A register of the PHASE page (R14, R17, R20, R24, R26, R27, R28, R219, R267). -/
def writePhase (o : Nat) (w : RegWr) (s : State) : State :=
  let new := masked s w.a w.v
  if o = 0x100 then writePhCtl w.v s
  else if o = 0x104 then orbitLenWrite w.v s
  else if o = 0x108 then decisionLatWrite w.v s
  else if o = 0x10C then guardWrite w.v s
  else if o = 0x130 then writeIf (moveOk s (fld s w.a 19 16) (bits new 19 16) true) Reg.phasePage 0x0A s w
  else if 0x140 ≤ o ∧ o < 0x180 then writeIf (moveOk s (fld s w.a 29 26) (bits new 29 26) true) Reg.phasePage 0x0A s w
  else if o = 0x198 then writeIf (!modeLocked s && decide (3 ≤ bits new 6 0 ∧ bits new 6 0 ≤ 100)) Reg.phasePage 0x0A s w
  else if o = 0x19C then cmdInject (w.v.setWidth 16) s
  else maskedWrite s w

/-- A register of LANE `n`; LANE_TXEQ is refused while the lane is enabled (R71). -/
def writeLane (n o : Nat) (w : RegWr) (s : State) : State :=
  if o = 0x100 then laneCtlWrite n w.v s
  else if o = 0x170 then
    let pre := bits w.v 5 0
    let post := bits w.v 13 8
    writeIf (!flag s (Reg.LANE_CTL n) 0 && decide (pre ≤ 16 ∧ post ≤ 24 ∧ pre + post ≤ 32) && bits w.v 17 16 != 3)
      (Reg.lanePage n) 0x03 s w
  else maskedWrite s w

/-! ## Stylus, Copybook -/

/-- A class word may be written: every listed Nib exists and is the partition's, an enabled class lists one, and a move of
the class needs it disabled (R81, R267). -/
def classOk (s : State) (old new : Word) : Bool :=
  let nibs := (List.range (bits new 15 8)).map (fun i => bits new 6 0 + i)
  nibs.all (fun n => n < 128 && nibPid s n = bits new 27 24)
  && (!bit new 31 || decide (1 ≤ bits new 15 8))
  && moveOk s (bits old 27 24) (bits new 27 24) (!bit old 31)

/-- A register of the STYLUS page. A lower burst clips the tokens (R82). -/
def writeStylus (o : Nat) (w : RegWr) (s : State) : State :=
  if 0x140 ≤ o ∧ o < 0x180 then writeIf (decide (o = 0x17C) || classOk s (reg s w.a) (masked s w.a w.v)) Reg.stylusPage 0x00 s w
  else if o = 0x108 then writeIf (bits w.v 15 0 != 0) Reg.stylusPage 0x00 s w
  else if o = 0x10C then
    let n := bits w.v 15 0
    if n = 0 then refuseWrite s Reg.stylusPage 0x00 w.a
    else setReg (maskedWrite s w) Reg.ST_RL_TOKENS (word (sat n (fld s Reg.ST_RL_TOKENS 15 0)))
  else maskedWrite s w

/-- CB_CTL: migrate, then swap (R98). -/
def writeCbCtl (v : Word) (s : State) : State :=
  let s := if bit v 0 then migrateSet s else migrateClear s
  if bit v 1 then cbSwap s else s

/-- A register of the COPYBOOK page (R92, R93, R96, R98). -/
def writeCopybook (o : Nat) (w : RegWr) (s : State) : State :=
  if o = 0x100 then writeCbCtl w.v s
  else if o = 0x10C then writeIf (!migrating s && w.v != reg s Reg.CB_SEED_B1) Reg.copybookPage 0x04 s w
  else if o = 0x110 then writeIf (!migrating s && w.v != reg s Reg.CB_SEED_B0) Reg.copybookPage 0x04 s w
  else if o = 0x128 then writeIf (bits w.v 15 0 != 0) Reg.copybookPage 0x04 s w
  else if 0x140 ≤ o ∧ o < 0x180 then writeIf (decide (bits w.v 21 0 ≤ 2097152)) Reg.copybookPage 0x04 s w
  else if 0x200 ≤ o ∧ (o - 0x200) % 0x40 = 0 then
    if starts s Reg.copybookPage then cbSubmit ((o - 0x200) / 0x40) w.v w.auth s else s
  else maskedWrite s w

/-! ## Nibs, locks, Quills -/

/-- Every thread of a Nib is IDLE. -/
def allIdle (s : State) (n : Nat) : Bool := (List.range (threadsOf n)).all (fun i => (thread s (tidOf n i)).state = .idle)

/-- The reserves of NIB_SHARE fit the Nib's resources (R148). -/
def reservesOk (s : State) (n : Nat) (v : Word) : Bool :=
  let ink := threadsOf n * bits v 31 16
  decide (bits v 3 0 ≤ 8 ∧ bits v 11 8 ≤ 8 ∧ ink ≤ midQuota s false (if n = 128 then 0x80 else n)
    ∧ ink ≤ midQuota s true (if n = 128 then 0x80 else n))

/-- NIB_PID takes effect: the Nib's counters, selectors and sample are cleared (R359). -/
def moveNib (s : State) (n : Nat) : State :=
  let s := (List.range 8).foldl (fun s i =>
    setReg (setReg (setReg s (Reg.PC_SEL n i) (regReset (Reg.PC_SEL n i))) (Reg.PC_CNT_LO n i) 0) (Reg.PC_CNT_HI n i) 0) s
  setReg (setReg s (Reg.PC_SAMPLE_PC n) 0) (Reg.PC_SAMPLE_INFO n) 0

/-- THR_CTL of thread `t`: each bit written 1 as its own command, in rising order (DESIGN CHOICE, log entry 68). -/
def writeThrCtl (t : Nat) (v : Word) (s : State) : State :=
  let s := if bit v 0 then thrStart t s else s
  let s := if bit v 1 then thrReset t s else s
  let s := if bit v 2 then parkThread s t else s
  let s := if bit v 3 then thrUnpark t s else s
  let s := if bit v 4 then thrHalt t s else s
  let s := if bit v 5 then thrResume t s else s
  let s := if bit v 6 then thrStep t s else s
  if bit v 7 then thrDiscardStage t s else s

/-- NIB_CTL, NIB_PID and NIB_SHARE: the partition authority's, while every thread is IDLE (R148, R267). A write of another
master is dropped (DEDUCED, log entry 66). The Steward belongs to partition 0 for good (R105). -/
def writeNibCfg (n o : Nat) (w : RegWr) (s : State) : State :=
  let new := masked s w.a w.v
  if ¬ w.auth ∨ (o = 0x108 ∧ new = reg s w.a) then s
  else if o = 0x108 then
    if n < 128 ∧ moveOk s (fld s w.a 3 0) (bits new 3 0) (allIdle s n) then moveNib (maskedWrite s w) n
    else refuseWrite s (Reg.nibPage n) 0x04 w.a
  else writeIf (allIdle s n && (o = 0x100 || reservesOk s n new)) (Reg.nibPage n) 0x04 s w

/-- A register of the NIB page of Nib `n`. -/
def writeNib (n o : Nat) (w : RegWr) (s : State) : State :=
  if o = 0x100 ∨ o = 0x108 ∨ o = 0x10C then writeNibCfg n o w s
  else if o = 0x110 then writeIf (decide (1024 ≤ bits w.v 23 0)) (Reg.nibPage n) 0x04 s w
  else if 0x180 ≤ o ∧ o < 0x280 ∧ (o - 0x180) % 0x20 = 0 then writeThrCtl (tidOf n ((o - 0x180) / 0x20)) w.v s
  else if o = 0x284 then
    let r := s.resp
    { dbgDataAccess n (some w.v) s with resp := r }
  else if o = 0x300 then pcFreeze n (bit w.v 0) s
  else if o = 0x30C then pcSampleClear n w.v s
  else if 0x320 ≤ o ∧ o < 0x340 then selWrite (.nib n ((o - 0x320) / 4)) w.v s
  else if 0x340 ≤ o ∧ o < 0x380 then countWrite (.nib n ((o - 0x340) / 8)) (o % 8 = 4) w.v s
  else maskedWrite s w

/-- A register of LOCKS `q`: the partition authority's alone (R160, R266). A map write that may not move a group is dropped: the page has no source for it (R166). -/
def writeLocks (q o : Nat) (w : RegWr) (s : State) : State :=
  if ¬ w.auth then s
  else if o < 0x108 then keepIf (nibblesOk s (reg s w.a) w.v) s w
  else if 0x400 ≤ o ∧ bit w.v 31 then lockForceRelease q ((o - 0x400) / 4) s
  else s

/-- A register of QUILL `q`. -/
def writeQuill (q o : Nat) (w : RegWr) (s : State) : State :=
  if o < 0x110 then selWrite (.quill q ((o - 0x100) / 4)) w.v s
  else if 0x120 ≤ o ∧ o < 0x140 then countWrite (.quill q ((o - 0x120) / 8)) (o % 8 = 4) w.v s
  else maskedWrite s w

/-! ## Ductus, Ligature, Ruling, Scroll -/

/-- One bit of DX_TPL_EN. -/
def writeTplBit (v : Word) (i : Nat) (s : State) (j : Nat) : State :=
  if bit v j then templateEnable (32 * i + j) s else templateDisable (32 * i + j) s

/-- A register of the DUCTUS page: it has no source for a refused configuration write, so such a write is dropped
(R210). -/
def writeDuctus (o : Nat) (w : RegWr) (s : State) : State :=
  let p := (o - 0x200) / 0x20
  if 0x104 ≤ o ∧ o < 0x124 then (List.range 32).foldl (writeTplBit w.v ((o - 0x104) / 4)) s
  else if o = 0x100 then keepIf (decide (1 ≤ bits w.v 25 16 ∧ bits w.v 25 16 ≤ 512)) s w
  else if o = 0x138 then keepIf (bits w.v 15 0 != 0) s w
  else if 0x200 ≤ o then match o % 0x20 with
    | 0x04 => spillRingEnable p w.v s
    | 0x0C => dxSpillMaxClear p w.v s
    | 0x10 => keepIf (decide (bits w.v 16 0 ≤ 65536)) s w
    | _ => maskedWrite s w
  else maskedWrite s w

/-- A register of the LIGATURE page: LG_CFG and LG_TMO of class `c` (R211). -/
def writeLigature (o : Nat) (w : RegWr) (s : State) : State :=
  let c := (o - 0x140) / 8
  let fits := if o % 8 = 0 then decide (reserveSum s - reserveOf s c + bits w.v 13 0 ≤ 16384) else bits w.v 29 16 != 0
  if 0x140 ≤ o ∧ o < 0x1C0 then writeIf (!flag s (Reg.ST_CLASS c) 31 && fits) Reg.ligaturePage 0x02 s w else s

/-- RU_QCFG may be written: its lane is a frame lane of its partition, its shaper is its partition's, and a move needs it
disabled (R226, R267). -/
def queueCfgOk (s : State) (old new : Word) : Bool :=
  let p := bits new 27 24
  let n := bits new 6 0
  lanePid s n = p && decide (1 ≤ laneMode s n ∧ laneMode s n ≤ 3)
  && (!bit new 14 || bit (reg s (Reg.PART_SHAPERS p)) (bits new 19 15))
  && moveOk s (bits old 27 24) p (!bit old 31)

/-- A register of the RULING page (R220, R226, R228, R229, R231, R267). -/
def writeRuling (o : Nat) (w : RegWr) (s : State) : State :=
  let refuse := refuseWrite s Reg.rulingPage 0x03 w.a
  let q := fld s Reg.RU_QSEL 7 0
  let g := fld s Reg.RU_GSEL 2 0
  if o = 0x100 then writeIf (decide (8 ≤ bits w.v 10 0 ∧ bits w.v 10 0 ≤ 1024)) Reg.rulingPage 0x03 s w
  else if o = 0x118 then
    let new := w.v &&& 0xBFFFDFFF
    if queueCfgOk s (reg s (Reg.queueCfg q)) new then setReg s (Reg.queueCfg q) new else refuse
  else if o = 0x11C then (if bits w.v 13 0 = 0 then refuse else setReg s (Reg.queueLim q) (word (bits w.v 13 0)))
  else if o = 0x128 then
    if flag s Reg.RU_GEN g then refuse else setReg s (Reg.gateWin g (fld s Reg.RU_GSEL 13 8)) w.v
  else if o = 0x12C then gateListEnable (w.v.setWidth 8) s
  else if o = 0x130 then writeIf (nibblesOk s (reg s w.a) w.v) Reg.rulingPage 0x03 s w
  else if o = 0x134 then writeIf (decide (1 ≤ bits w.v 22 16 ∧ bits w.v 22 16 ≤ 120)) Reg.rulingPage 0x03 s w
  else maskedWrite s w

/-- A register of the SCROLL page (R238). -/
def writeScroll (o : Nat) (w : RegWr) (s : State) : State :=
  if o = 0x100 then
    if modeLocked s ∨ 16384 < bits w.v 14 0 then refuseWrite s Reg.scrollPage 0x04 w.a else refit (maskedWrite s w)
  else maskedWrite s w

/-! ## Inkwell, DRAM -/

/-- Some MID or partition uses more buffers than its quota (R247). -/
def overQuota (s : State) : Bool :=
  s.ink.uses.any (fun e =>
    if e.1 < 0x100 then midQuota s false e.1 < e.2 else if e.1 < 0x200 then midQuota s true (e.1 - 0x100) < e.2
    else if e.1 < 0x210 then partQuota s false (e.1 - 0x200) < e.2
    else if e.1 < 0x220 then partQuota s true (e.1 - 0x210) < e.2 else false)

/-- A quota write: the first over flag that sets is bit 1 of PG_IRQ_RAW (R247, R251). -/
def writeQuota (s s' : State) : State := if !overQuota s && overQuota s' then irq s' Reg.inkwellPage 1 else s'

/-- IW_DCFG: en 1 fills and starts the pool, en 0 ends it (R243). -/
def writeDcfg (w : RegWr) (s : State) : State :=
  if bit w.v 31 then iwDcfgEnable w.v s
  else if ¬ flag s Reg.IW_DCFG 31 then maskedWrite s w
  else
    let s := iwDcfgDisable s
    if flag s Reg.IW_DCFG 31 then s else setFld s Reg.IW_DCFG 20 0 (bits w.v 20 0)

/-- IW_HCMD of slot `p`: the command of op (R244, R249). -/
def writeHcmd (p : Nat) (w : RegWr) (s : State) : State :=
  let stw := w.mid = 0x80
  match bits w.v 31 29 with
  | 0 => slotAlloc false p stw s
  | 1 => slotAlloc true p stw s
  | 2 => slotCmd iwFreeCmd p stw s
  | 3 => slotCmd slotShare p stw s
  | 4 => slotCmd iwReleaseCmd p stw s
  | 5 => slotCmd slotQuery p stw s
  | _ => slotReserved p s

/-- A register of the INKWELL page. -/
def writeInkwell (o : Nat) (w : RegWr) (s : State) : State :=
  let m := fld s Reg.IW_QSEL 7 0
  if o = 0x10C then writeDcfg w s
  else if 0x110 ≤ o ∧ o ≤ 0x11C then writeIf (!flag s Reg.IW_DCFG 31) Reg.inkwellPage 0x03 s w
  else if o = 0x124 then writeQuota s (setReg s (Reg.midQuotaS m) (word (bits w.v 14 0)))
  else if o = 0x128 then writeQuota s (setReg s (Reg.midQuotaD m) (word (bits w.v 20 0)))
  else if 0x200 ≤ o ∧ o < 0x300 then writeQuota s (maskedWrite s w)
  else if 0x300 ≤ o ∧ (o - 0x300) % 0x10 = 0 then writeHcmd ((o - 0x300) / 0x10) w s
  else maskedWrite s w

/-- DDR_CTL: en, then train and restore (R252, R253, R254). A channel whose en goes to 0 is OFF (DEDUCED, log entry 70). -/
def writeDdrCtl (c : Nat) (w : RegWr) (s : State) : State :=
  if ¬ bit w.v 0 ∧ (bit w.v 1 ∨ bit w.v 2) then ddrRefuse s c w.a
  else if bit w.v 0 ∧ ¬ flag s w.a 0 ∧ ¬ geomOk (reg s (Reg.DDR_GEOM c)) then ddrRefuse s c w.a
  else
    let was := flag s w.a 0
    let s := maskedWrite s w
    if ¬ bit w.v 0 then (if was then modDdr (setDdrState s c 0) c (fun d => { d with restoring := false }) else s)
    else if bit w.v 1 then ddrTrain c s else if bit w.v 2 then ddrRestore c s else s

/-- A register of DDR `c`. -/
def writeDdr (c o : Nat) (w : RegWr) (s : State) : State :=
  if o = 0x100 then (if flag s (Reg.DDR_CTL c) 0 then ddrRefuse s c w.a else maskedWrite s w)
  else if o = 0x104 then writeDdrCtl c w s
  else if o = 0x10C then (if bits w.v 31 16 < 16 then ddrRefuse s c w.a else maskedWrite s w)
  else if o = 0x110 then (if bits w.v 23 0 < 64 then ddrRefuse s c w.a else maskedWrite s w)
  else if o = 0x118 then setReg s (Reg.trainWord c (fld s (Reg.DDR_TRN_SEL c) 7 0)) w.v
  else if o = 0x120 then ddrImodeWrite w.v s
  else if o = 0x124 then ddrSpareEnable c w.v s
  else if 0x200 ≤ o then drRegionWrite ((o - 0x200) / 0x10) (o % 0x10 / 4) w.v s
  else maskedWrite s w

/-! ## Partitions -/

/-- A RESTORE that a register write starts reads PART_IMG_LEN bytes of host memory, which no command carries: they are
free. -/
def imageBytes (p : Nat) (s : State) : List Byte × State := freshBytes s (reg s (Reg.PART_IMG_LEN p)).toNat

/-- A partition may gain or lose a resource: it is partition 0, CREATING or IDLE (R267). -/
def mayChange (s : State) (p : Nat) : Bool := p = 0 || partState s p = 1 || partState s p = 2

/-- PART_SHAPERS may be written: the partition may change, and so may every other one that a shaper is taken from (R267). -/
def shapersOk (s : State) (p : Nat) (old new : Word) : Bool :=
  old = new || (mayChange s p && (List.range 16).all (fun q =>
    q = p || reg s (Reg.PART_SHAPERS q) &&& new &&& ~~~old = 0 || mayChange s q))

/-- Base, log2 and en of ring `r`: while en is 1 only a write of en 0 is accepted, and it clears en alone (ring set; DEDUCED,
log entry 155). -/
def writeRing (p r o : Nat) (w : RegWr) (s : State) : State :=
  let refuse := refuseWrite s (Reg.partPage p) 0x00 w.a
  if flag s (Reg.PW_RING_CFG p r) 31 then (if o = 8 ∧ ¬ bit w.v 31 then setFlag s w.a 31 false else refuse)
  else writeIf (o != 8 || decide (6 ≤ bits w.v 4 0 ∧ bits w.v 4 0 ≤ 16)) (Reg.partPage p) 0x00 s w

/-- A register of the window of partition `p` (R273–R276). -/
def writeWindow (p o : Nat) (w : RegWr) (s : State) : State :=
  if o = 0x8 then writeIf (decide (9216 ≤ bits w.v 15 0)) (Reg.partPage p) 0x00 s w
  else if 0x100 ≤ o ∧ o < 0x160 ∧ o % 0x20 ≤ 8 then writeRing p ((o - 0x100) / 0x20) (o % 0x20) w s
  else if o = 0x110 then rxConsDoorbell p w.v s
  else if o = 0x12C then rxbDoorbell p w.v s
  else if o = 0x14C then txDoorbell p w.v s
  else if o = 0x10C ∨ o = 0x130 ∨ o = 0x150 then s
  else maskedWrite s w

/-! ## Skovub -/

/-- The lanes that a SK_PCFG word names are SKOVUB lanes of partition 0 (R284). -/
def portLanesOk (s : State) (v : Word) : Bool :=
  let ok := fun n => laneMode s n = 5 && lanePid s n = 0
  ok (bits v 14 8) && (!bit v 30 || (ok (bits v 22 16) && bits v 22 16 != bits v 14 8))

/-- SK_PCFG: refused while the port is enabled, but for a write of en 0, which ends the port (SK_PCFG). -/
def writePcfg (k : Nat) (w : RegWr) (s : State) : State :=
  if flag s w.a 31 then
    if bit w.v 31 then refuseWrite s (Reg.skovubPage k) 0x07 w.a else portOff k (maskedWrite s w)
  else if ¬ bit w.v 31 then maskedWrite s w
  else if ¬ portLanesOk s w.v then refuseWrite s (Reg.skovubPage k) 0x07 w.a
  else modPort (setPortState (maskedWrite s w) k 3) k (fun q => { q with hbSince := s.phase.count })

/-- A register of SKOVUB `k` (R283, R284, R292–R298). -/
def writeSkovub (k o : Nat) (w : RegWr) (s : State) : State :=
  let refuse := refuseWrite s (Reg.skovubPage k) 0x07 w.a
  if o = 0x100 then writePcfg k w s
  else if o = 0x114 then (if ¬ bit w.v 31 ∧ 63 < bits w.v 7 0 then refuse else maskedWrite s w)
  else if o = 0x180 then (if bit w.v 31 then skHandback s else s)
  else if o = 0x184 then updateRoles (maskedWrite s w)
  else if o = 0x110 then updateRoles (maskedWrite s w)
  else if 0x200 ≤ o ∧ o < 0x300 ∧ o % 0x10 = 0x8 then
    let d := bits w.v 14 0
    if modeLocked s ∨ d < 1 ∨ lat s < d + guard s + 2 then refuse else maskedWrite s w
  else if 0x200 ≤ o ∧ o < 0x300 ∧ o % 0x10 = 0xC then
    if 0x1C000000 ≤ w.v.toNat / 128 * 128 ∧ w.v.toNat / 128 * 128 < 0x1E000000 then maskedWrite s w else refuse
  else maskedWrite s w

/-! ## Signet, Blotter, management -/

/-- A register of the SIGNET page (R301, R315, R316). -/
def writeSignet (o : Nat) (w : RegWr) (s : State) : State :=
  let confirm : BitVec 16 := w.v.setWidth 16
  if o = 0x104 then sigSessionOpen w.v s
  else if o = 0x11C then match bits w.v 31 28 with
    | 0 => sigCmdNop s
    | 1 => sealCmd confirm s
    | 2 => unsealCmd confirm s
    | op => sigCmdReserved op s
  else if o = 0x120 then sigCfgWrite w.v s
  else maskedWrite s w

/-- A register of the BLOTTER page; only the Steward and the host kick the watchdog (R336). -/
def writeBlotter (o : Nat) (w : RegWr) (s : State) : State :=
  if o = 0x108 then (if bit w.v 31 then firstErrorRearm s else s)
  else if o = 0x138 then injectEnable w.v s
  else if o = 0x13C then wdtWrite (setBit w.v 30 (bit w.v 30 && (w.mid = 0x80 || decide (0x90 ≤ w.mid ∧ w.mid < 0xA0)))) s
  else maskedWrite s w

/-- A register of the MGT page. -/
def writeMgt (o : Nat) (w : RegWr) (s : State) : State :=
  if o = 0x104 then request (bits w.v 2 0) (w.mid = 0x80) s
  else if o = 0x110 then pdCtlWrite w.v s
  else if o = 0x118 then rstCtlWrite w.v s
  else if o = 0x128 then aliveCtlWrite w.v s
  else if o = 0x13C then tempLimitWrite w.v s
  else maskedWrite s w

/-- A register of the PERF page. -/
def writePerf (o : Nat) (w : RegWr) (s : State) : State :=
  if o = 0x100 then pfFreeze (bit w.v 0) s else if o = 0x104 then pfWinWrite w.v s else maskedWrite s w

/-- A mailbox: TO_HOST is written by the Steward, TO_STW by the host (R372); another master's write is dropped (DEDUCED,
log entry 71). -/
def writePcie (o : Nat) (w : RegWr) (s : State) : State :=
  if 0x110 ≤ o ∧ o < 0x120 then (if w.mid = 0x80 then mbToHostWrite ((o - 0x110) / 4) w.v s else s)
  else if 0x120 ≤ o ∧ o < 0x130 then (if w.mid ≠ 0x80 then mbToStwWrite ((o - 0x120) / 4) w.v s else s)
  else maskedWrite s w

/-- A register of the MGTNET page (R373, R374). A ring that is placed anew starts at its first descriptor; a write of the
seconds changes the clock's seconds (DEDUCED, log entry 65). -/
def writeMgtnet (o : Nat) (w : RegWr) (s : State) : State :=
  let fits := 4 ≤ bits w.v 31 28 ∧ bits w.v 31 28 ≤ 10
  if o = 0x108 then (if fits then modMgt (maskedWrite s w) (fun g => { g with mnRxAt := 0 }) else s)
  else if o = 0x10C then (if fits then modMgt (maskedWrite s w) (fun g => { g with mnTxAt := 0 }) else s)
  else if o = 0x114 then modPhase (passTime s) (fun ph => { ph with todSec := ph.todSec / 2 ^ 32 * 2 ^ 32 + w.v.toNat })
  else if o = 0x118 then modPhase (passTime s) (fun ph => { ph with todSec := ph.todSec % 2 ^ 32 + bits w.v 15 0 * 2 ^ 32 })
  else if o = 0x11C then maskedWrite (passTime s) w
  else if o = 0x120 then mnAdjStep w.v s
  else maskedWrite s w

/-- A register of the BOOT page; the security counter is burnt at M only (R377). -/
def writeBoot (o : Nat) (w : RegWr) (s : State) : State :=
  if o = 0x104 then btHostLoad w.v s
  else if o = 0x108 then (if w.mid = 0x80 then btSvnBurn w.v s else s)
  else maskedWrite s w

/-- A register of the TEST page. -/
def writeTest (o : Nat) (w : RegWr) (s : State) : State :=
  if o = 0x100 then testCmd (bits w.v 3 0) s else maskedWrite s w

end Sys2Proof.Machine
end

