-- ==== Sys2Proof/Machine/Pages.lean ====
section
/-! DEFINITION. Writing a page: the common header and its control field by field, Folios, and the write of any register
address by any master (R111, R359, R369, R383–R394). -/

namespace Sys2Proof.Machine

/-! ## PART page -/

/-- The command that a write of PART_CMD names. -/
def writePartCmd (p : Nat) (w : RegWr) (s : State) : State :=
  match bits w.v 3 0 with
  | 0 => partCommand p 0 (fun s => (stOk, s)) s
  | 1 => partCommand p 1 (createRun p) s
  | 2 => partCommand p 2 (commitRun p) s
  | 3 => partCommand p 3 (startRun p) s
  | 4 => partCommand p 4 (stopRun p) s
  | 5 => partCommand p 5 (freezeRun p) s
  | 6 => partCommand p 6 (thawRun p) s
  | 7 => partCommand p 7 (saveRun p) s
  | 8 =>
    let (img, s) := imageBytes p s
    partCommand p 8 (restoreRun p img) s
  | 9 => partCommand p 9 (resetRun p) s
  | 0xA => partCommand p 0xA (destroyRun p) s
  | _ => partCommand p 0xB (fun s => partRefused s p 0x00) s

/-- A register of PART `p` (R267, R270, R277). -/
def writePart (p o : Nat) (w : RegWr) (s : State) : State :=
  if o = 0x100 then writePartCmd p w s
  else if o = 0x114 then writeIf (shapersOk s p (reg s w.a) (masked s w.a w.v)) (Reg.partPage p) 0x00 s w
  else if o = 0x11C then partSwirq p (BitVec.ofNat 4 (bits w.v 3 0)) s
  else maskedWrite s w

/-- A block register of a page. -/
def writeBlock (k : PageKind) (n o : Nat) (w : RegWr) (s : State) : State :=
  match k with
  | .phase => writePhase o w s
  | .lane => writeLane n o w s
  | .stylus => writeStylus o w s
  | .copybook => writeCopybook o w s
  | .nib => writeNib n o w s
  | .locks => writeLocks n o w s
  | .quill => writeQuill n o w s
  | .ductus => writeDuctus o w s
  | .ligature => writeLigature o w s
  | .ruling => writeRuling o w s
  | .scroll => writeScroll o w s
  | .inkwell => writeInkwell o w s
  | .ddr => writeDdr n o w s
  | .window => writeWindow n o w s
  | .part => writePart n o w s
  | .skovub => writeSkovub n o w s
  | .signet => writeSignet o w s
  | .blotter => writeBlotter o w s
  | .mgt => writeMgt o w s
  | .perf => writePerf o w s
  | .pcie => writePcie o w s
  | .mgtnet => writeMgtnet o w s
  | .boot => writeBoot o w s
  | .test => writeTest o w s
  | .root | .copyist | .sgroup | .helper => maskedWrite s w

/-! ## PG_CTL (R386, R387) -/

/-- The fields of PG_CTL that a write sets; a row writes one field, a register write all of them (log entry 73). -/
structure CtlWrite where
  enable : Option Bool := none
  freeze : Option Bool := none
  soft : Bool := false
  lock : Bool := false
  deriving DecidableEq, Repr

/-- The event counters of a page, as the first and last of their offsets, with the distance between them. -/
def counterOffsets (k : PageKind × Nat) : List (Nat × Nat) :=
  match k.1 with
  | .phase => [(0x124, 0x128), (0x1A0, 0x1A0)]
  | .lane => [(0x120, 0x160)]
  | .stylus => [(0x114, 0x128)]
  | .copybook => [(0x120, 0x124)]
  | .nib => [(0x114, 0x118), (0x340, 0x37C)]
  | .quill => [(0x120, 0x13C)]
  | .locks => [(0x108, 0x110)]
  | .helper => [(0x120, 0x12C)]
  | .ductus => [(0x12C, 0x12C), (0x134, 0x134)]
  | .ligature => [(0x104, 0x110)]
  | .ruling => [(0x104, 0x110)]
  | .copyist => [(0x104, 0x114)]
  | .scroll => [(0x128, 0x130)]
  | .inkwell => [(0x134, 0x140)]
  | .ddr => [(0x130, 0x13C)]
  | .skovub => [(0x120, 0x13C)]
  | .blotter => [(0x118, 0x124)]
  | .mgt => [(0x124, 0x124)]
  | .perf => [(Reg.PF_WSTAT % 0x1000, Reg.PF_WSTAT % 0x1000)]
  | .pcie => [(Reg.MB_DROP % 0x1000, Reg.MB_DROP % 0x1000)]
  | _ => []

/-- The addresses of a page's event counters. -/
def counterAddrs (k : PageKind × Nat) (page : Nat) : List Nat :=
  let own := (counterOffsets k).flatMap (fun r => (List.range ((r.2 - r.1) / 4 + 1)).map (fun i => page + r.1 + 4 * i))
  match k with
  | (.ductus, _) => own ++ (List.range 16).flatMap (fun p => [Reg.DX_PCANCEL p, Reg.DX_PDROP p])
  | (.part, p) => [Reg.PW_RX_DROP p]
  | _ => own

/-- The threads and helper context sets of a Nib are reset (R146, R185). -/
def softResetNib (s : State) (n : Nat) : State :=
  let s := (List.range (threadsOf n)).foldl (fun s i => resetThread s (tidOf n i)) (nibLeaves s n)
  if n < 128 then resetCtxs s n false else s

/-- soft_reset: counters, sticky bits, first error and raw interrupts, and the block state that a chapter names. -/
def softReset (s : State) (page : Nat) : State :=
  match pageAt (page / 0x1000) with
  | none => s
  | some k =>
    let head := [Reg.PG_ERR_STICKY page, Reg.PG_FERR_SRC page, Reg.PG_FERR_ADDR_LO page, Reg.PG_FERR_ADDR_HI page,
      Reg.PG_FERR_PHASE_LO page, Reg.PG_FERR_PHASE_HI page, Reg.PG_IRQ_RAW page]
    let s := (head ++ counterAddrs k page).foldl (fun s a => setReg s a 0) s
    match k with
    | (.nib, n) => softResetNib s n
    | (.ductus, _) => { s with ductus := { s.ductus with hist := [] } }
    | (.perf, _) => modPerf s (fun p => { p with bytes := [] })
    | _ => s

/-- A soft reset of a NIB page is refused: its partition is ACTIVE, DRAINING or RESETTING. -/
def resetRefused (s : State) (page : Nat) : Bool :=
  match pageAt (page / 0x1000) with
  | some (.nib, n) => n < 128 && [3, 4, 6].contains (partState s (nibPid s n))
  | _ => false

/-- The page refuses the write (R386). -/
def ctlRefused (s : State) (page : Nat) (c : CtlWrite) : Bool :=
  (c.freeze == some true && !skipPage (page / 0x1000) && modeLocked s) || (c.soft && resetRefused s page)

/-- The fields of PG_CTL take the write; a lock stays set; the ten pages of R387 ignore enable and freeze. -/
def ctlFields (s : State) (page : Nat) (c : CtlWrite) : State :=
  let a := Reg.PG_CTL page
  let s := setFlag s a 3 (flag s a 3 || c.lock)
  if skipPage (page / 0x1000) then s
  else
    let s := setFlag s a 0 (c.enable.getD (flag s a 0))
    let s := setFlag s a 2 (c.freeze.getD (flag s a 2))
    if flag s a 2 then s else setFlag s (Reg.PG_STAT page) 2 false

/-- What follows a block through a change of its enable: a lane acquires or is OFF, a Skovub port is off or DOWN, a DRAM
channel is OFF, as a write of their own enable fields makes them. -/
def enableFollows (s : State) (page : Nat) : State :=
  match pageAt (page / 0x1000) with
  | some (.lane, n) => refit (laneSync n s)
  | some (.skovub, k) =>
    if ¬ portOn s k ∧ portState s k ≠ 0 then portOff k s
    else if portOn s k ∧ portState s k = 0 then modPort (setPortState s k 3) k (fun q => { q with hbSince := s.phase.count })
    else s
  | some (.ddr, c) =>
    if ¬ ddrEn s c ∧ ddrState s c ≠ 0 then modDdr (setDdrState s c 0) c (fun d => { d with restoring := false }) else s
  | _ => s

/-- A write of PG_CTL that its own page does not refuse. -/
def ctlApply (s : State) (page : Nat) (c : CtlWrite) : State :=
  let s := if c.soft then softReset s page else s
  let was := flag s (Reg.PG_CTL page) 0
  let s := ctlFields s page c
  if flag s (Reg.PG_CTL page) 0 = was then s else enableFollows s page

/-- ROOT records a refused header write (R386, R389, R400). -/
def ctlRefuse (s : State) (page : Nat) : State := refuseWrite s Reg.rootPage 0x00 (Reg.PG_CTL page)

/-- The local pages that a Folio's write reaches, itself excepted (R388, R389). -/
def descendants (page : Nat) : List Nat :=
  match pageAt (page / 0x1000) with
  | some (.root, _) =>
    ((rootChildren.filter (fun pg => !skipPage pg)).flatMap (fun pg =>
      if 0x100 ≤ pg then 0x1000 * pg :: quillPages (0x1000 * pg) else [0x1000 * pg]))
  | some (.quill, _) => quillPages page
  | _ => []

/-- One descendant takes the write, or refuses it and is passed over; a page whose domain is off drops it. -/
def ctlDescend (c : CtlWrite) (r : State × Bool) (page : Nat) : State × Bool :=
  if ¬ pageOn r.1 page then r
  else if ctlRefused r.1 page c then (r.1, true)
  else (ctlApply r.1 page c, r.2)

/-- Enable, freeze and soft_reset written to ROOT reach each window's peer as a write of its ROOT PG_CTL (R296, R389). -/
def ctlWindows (s : State) (c : CtlWrite) : State :=
  if c.enable.isNone && c.freeze.isNone && !c.soft then s
  else
    let v := word (bits (reg s (Reg.PG_CTL Reg.rootPage)) 0 0 + 2 * c.soft.toNat + 4 * bits (reg s (Reg.PG_CTL Reg.rootPage)) 2 2)
    (windowPorts s).foldl (fun s k => if portDown s k then s else remoteRegWrite s k 0xF 0 0x0C v) s

/-- A write of PG_CTL fields to any page. A Folio's own fields take what is written; its descendants apply it under their
own rules; one record stands for all that refuse. A write that the page itself refuses changes nothing. -/
def pgCtlWrite (page : Nat) (c : CtlWrite) (s : State) : State :=
  if ¬ hasHeader page ∨ ¬ pageOn s page then s
  else if ctlRefused s page c then ctlRefuse s page
  else
    let r := (descendants page).foldl (ctlDescend c) (ctlApply s page c, false)
    let s := if page = Reg.rootPage then ctlWindows r.1 c else r.1
    if r.2 then ctlRefuse s page else s

/-- PAGE_FROZEN: a page with freeze 1 has completed what it began. -/
def pageFrozen (page : Nat) (s : State) : State :=
  if hasHeader page ∧ pageOn s page ∧ flag s (Reg.PG_CTL page) 2 ∧ ¬ begun s page then setFlag s (Reg.PG_STAT page) 2 true else s

/-! ## The other header registers -/

/-- A page is a Folio (R388). -/
def isFolio (page : Nat) : Bool :=
  match pageAt (page / 0x1000) with
  | some (.root, _) | some (.quill, _) => true
  | _ => false

/-- A W1C write of PG_IRQ_RAW; a Folio's bits are levels that it does not change (R391). -/
def irqRawClear (page : Nat) (v : Word) (s : State) : State :=
  if ¬ hasHeader page ∨ ¬ pageOn s page ∨ isFolio page then s
  else withIrq (fun s => setReg s (Reg.PG_IRQ_RAW page) (reg s (Reg.PG_IRQ_RAW page) &&& ~~~v)) s

/-- A write of a header word (R384). -/
def writeHeader (page o : Nat) (v : Word) (s : State) : State :=
  match o with
  | 0x0C => pgCtlWrite page { enable := some (bit v 0), freeze := some (bit v 2), soft := bit v 1, lock := bit v 3 } s
  | 0x14 => irqRawClear page v s
  | 0x18 => withIrq (fun s => setReg s (page + o) v) s
  | 0x20 => errStickyClear page v s
  | 0x24 => setReg s (page + o) (masked s (page + o) v)
  | 0x3C => injectArm page v s
  | _ => s

/-! ## Who reaches what (R111, R359, R394) -/

/-- The partition to which a QUILL page belongs: that of its eight Nibs, or partition 0. -/
def quillOwner (s : State) (q : Nat) : Nat :=
  let p := nibPid s (8 * q)
  if (List.range 8).all (fun i => nibPid s (8 * q + i) = p) then p else 0

/-- An S thread of partition `p` reaches the register address `a`. -/
def sReaches (s : State) (p : Nat) (write : Bool) (a : Nat) : Bool :=
  let o := a % 0x1000
  let readHead := !write && decide (o < 0x40)
  match pageAt (a / 0x1000) with
  | some (.nib, n) => n < 128 && nibPid s n = p
  | some (.quill, q) => quillOwner s q = p
  | some (.locks, q) => quillOwner s q = p
  | some (.helper, k) => quillOwner s (k / 4) = p
  | some (.lane, n) => lanePid s n = p && !(write && a = Reg.LANE_CTL n)
  | some (.part, q) => q = p && (!write || o = 0x11C)
  | some (.copybook, _) => readHead || decide (0x200 + 0x40 * p ≤ o ∧ o < 0x240 + 0x40 * p)
  | some (.inkwell, _) => readHead || (!write && decide (0x200 + 0x10 * p ≤ o ∧ o < 0x210 + 0x10 * p))
      || decide (0x300 + 0x10 * p ≤ o ∧ o < 0x30C + 0x10 * p)
  | some (.ductus, _) => readHead || (!write && decide (0x200 + 0x20 * p ≤ o ∧ o < 0x220 + 0x20 * p))
  | some (.copyist, _) => readHead || (!write && decide (0x200 + 0x40 * p ≤ o ∧ o < 0x240 + 0x40 * p))
  | _ => false

/-- A master reaches a register address: a Nib's thread under R394, else the Steward, the hosts, the auditor's and board's
ports and the peers, which are MIDs 0x80 and 0x90 to 0xBF. -/
def midReaches (s : State) (mid : Nat) (a : Nat) : Bool :=
  if mid < 128 then sReaches s (nibPid s mid) true a else mid = 0x80 || decide (0x90 ≤ mid ∧ mid < 0xC0)

/-! ## A write of any register -/

/-- The write of a word of the page space: a header word, a block register, or a word of the MSI-X table (log entry 62).
What no chapter defines, and a page whose domain is off, drop it (R348, R383). -/
def writeWord (w : RegWr) (s : State) : State :=
  match pageAt (w.a / 0x1000) with
  | none => if w.a / 0x1000 = 0xC then setReg s w.a w.v else s
  | some (k, n) =>
    let o := w.a % 0x1000
    if ¬ pageOn s (w.a - o) then s
    else if k ≠ .window ∧ o < 0x100 then writeHeader (w.a - o) o w.v s
    else match regRow w.a with
      | none => s
      | some _ => writeBlock k n o w s

/-- A write of the register word at `addr` by a master: through a remote window to the peer, or to a local page. Windows of
partitions carry their partition's rights only (R273). -/
def writeAs (mid : Nat) (auth : Bool) (addr : Nat) (v : Word) (s : State) : State :=
  if 0x1000000 ≤ addr ∧ addr < 0x4000000 then
    (if addr < 0x3000000 then remoteWindowWrite ((addr - 0x1000000) / 0x100000) (addr % 0x100000) [v] s else s)
  else
    let s := writeWord { mid := mid, auth := auth && decide (addr < 0x10000000), a := windowAlias addr, v := v }
      { s with writer := some (mid, addr) }
    { s with writer := none }

/-- REGISTER_WRITE: dropped where the master does not reach the register, and at an address that is no word's. -/
def writeReg (mid addr : Nat) (v : Word) (s : State) : State :=
  if addr % 4 ≠ 0 ∨ ¬ midReaches s mid (windowAlias addr) then s else writeAs mid (128 ≤ mid) addr v s

/-! ## The commands -/

/-- PG_ENABLE. -/
def execPgEnable (page : Nat) (on : Bool) (s : State) : Host.Outcome State Fault Refusal :=
  .next (pgCtlWrite page { enable := some on } s)
/-- PG_FREEZE. -/
def execPgFreeze (page : Nat) (on : Bool) (s : State) : Host.Outcome State Fault Refusal :=
  .next (pgCtlWrite page { freeze := some on } s)
/-- PAGE_FROZEN. -/
def execPageFrozen (page : Nat) (s : State) : Host.Outcome State Fault Refusal := .next (pageFrozen page s)
/-- PG_SOFT_RESET. -/
def execPgSoftReset (page : Nat) (s : State) : Host.Outcome State Fault Refusal := .next (pgCtlWrite page { soft := true } s)
/-- PG_LOCK: a write of 0 is ignored. -/
def execPgLock (page : Nat) (v : Bool) (s : State) : Host.Outcome State Fault Refusal := .next (pgCtlWrite page { lock := v } s)
/-- IRQ_RAW_CLEAR. -/
def execIrqRawClear (page : Nat) (v : Word) (s : State) : Host.Outcome State Fault Refusal := .next (irqRawClear page v s)
/-- REGISTER_WRITE. -/
def execRegisterWrite (mid : Mid) (addr : Nat) (v : Word) (s : State) : Host.Outcome State Fault Refusal :=
  .next (writeReg mid.toNat addr v s)

end Sys2Proof.Machine
end

