-- ==== Sys2Proof/Machine/Remote.lean ====
section
/-! DEFINITION. Requests that a peer sends over a Skovub port, and the register window of Nib threads with the instruction
words that have no row of their own (R107–R114, R289, R295, R296, R394). -/

namespace Sys2Proof.Machine

/-! ## Requests from a peer (R289, R295, R296) -/

/-- The MID of a request that arrives on port `k`. -/
def peerMid (k : Nat) : Nat := 0xA0 + k

/-- The word that a write with byte enables puts: bytes not enabled keep what the register holds in fields that take
writes, and are 0 elsewhere (DEDUCED, log entry 75). -/
def enabledBytes (s : State) (a : Nat) (be : BitVec 4) (v : Word) : Word :=
  let m := word (((List.range 4).map (fun i => if be.getLsbD i then 255 * 256 ^ i else 0)).sum)
  let keep := match regRow (windowAlias a) with
    | some (r, _) => word r.rw ||| word r.rwl
    | none => 0
  (v &&& m) ||| (reg s (windowAlias a) &&& keep &&& ~~~m)

/-- A REG_RSP to the peer of port `k`. -/
def regAnswer (s : State) (k : Nat) (tag : Word) (v : Word) : State := skSend s k 0x06 tag [word (stOk.toNat * 2 ^ 24), v]

/-- A request for a remote window of this device: passed on, or answered where the peer below is down (R296). -/
def regReqBelow (k : Nat) (tag : Word) (write : Bool) (be a : Nat) (data : Word) (s : State) : State :=
  let j := (a - 0x1000000) / 0x100000
  let o := a % 0x100000
  if write then regAnswer (windowWrite j o be [data] s) k tag 0
  else if role s < 2 then regAnswer s k tag 0
  else if portDown s j then regAnswer s k tag (if o < 0x40 then downHeader j o else 0xFFFFFFFF)
  else remoteRead s j (windowBulk s j) (windowSlice s j) o none (some (k, tag))

/-- REG_REQ: performed with the partition authority's rights, then answered. -/
def regReq (k : Nat) (tag : Word) (write : Bool) (be : BitVec 4) (slice : Nat) (off : Nat) (data : Word) (s : State) : State :=
  let a := slice * 0x100000 + (off - off % 4)
  if portState s k ≠ 2 then s
  else if 0x1000000 ≤ a ∧ a < 0x3000000 then regReqBelow k tag write be.toNat a data s
  else if 0x4000000 ≤ a then regAnswer s k tag 0
  else if write then regAnswer (writeAs (peerMid k) true a (enabledBytes s a be data) s) k tag 0
  else
    let (v, s) := readReg s a
    regAnswer s k tag v

/-- BAR4 words read one after another. -/
def bulkRead (mid off : Nat) : Nat → State → List Word × State
  | 0, s => ([], s)
  | n + 1, s =>
    let ((v, _), s) := bar4Read mid (BitVec.ofNat 28 off) s
    let (l, s) := bulkRead mid (off + 4) n s
    (v :: l, s)

/-- BULK: the answer to a read of this device, or words of BAR4 to write or to read for the peer. -/
def bulk (k : Nat) (tag : Word) (write response : Bool) (off : Nat) (data : List Word) (len : Nat) (s : State) : State :=
  if portState s k ≠ 2 then s
  else if response then remoteAnswer k tag stOk data s
  else if write then
    (data.take len).zipIdx.foldl (fun s e => bar4Write (peerMid k) (BitVec.ofNat 28 (off + 4 * e.2)) e.1 s) s
  else
    let (l, s) := bulkRead (peerMid k) off len s
    skSend s k 0x07 tag (bulkBody false true off len l)

/-! ## Instruction words with no row of their own (R110, R111, R113, R114) -/

/-- The major opcodes of R114. -/
def majorKnown (w : Word) : Bool :=
  let op := wOp w
  (1 ≤ op && op ≤ 0x0E) || op = 0x10 || (0x12 ≤ op && op ≤ 0x15) || op = 0x3E || op = 0x3F

/-- The codes that a major opcode assigns. -/
def subKnown (w : Word) : Bool :=
  match wOp w with
  | 0x01 => wFn w < 0x16
  | 0x04 => wS w < 3
  | 0x05 => wS w < 2
  | 0x06 => [0, 1, 2, 4, 5].contains (wFn w)
  | 0x07 => wFn w < 0x0B
  | 0x08 => wS w < 3
  | 0x09 => wS w < 2
  | 0x0A => wS w < 3
  | 0x0B => wFn w < 4
  | 0x0C => wFn w < 4
  | 0x10 => wCond w != 15
  | 0x12 => wFn w < 0x0C && wFn w != 7
  | 0x13 => wSub w < 4
  | 0x14 => wSub w < 2
  | 0x15 => wSub w < 0x0C
  | _ => true

/-- A reserved word: UD 0x00 for its major opcode, else UD 0x01. -/
def reservedRow : Row where
  is := fun w => !majorKnown w || !subKnown w
  fields := fun _ => .raw
  early := fun _ _ w => some (0, if majorKnown w then 1 else 0)
  run := fun _ _ _ => .hold

/-- The ports that an IN, or an OUT, has a row for. -/
def inListed (p : Nat) : Bool :=
  p ≤ 0x20 || [0x26, 0x29, 0x2B, 0x30, 0x31, 0x300, 0x301, 0x305, 0x310, 0x311, 0x316, 0x320].contains p
  || p / 16 = 4 || p / 256 = 1 || p / 4 = 0x80
def outListed (p : Nat) : Bool :=
  [0x21, 0x24, 0x25, 0x27, 0x28, 0x2A, 0x30, 0x31, 0x302, 0x303, 0x304, 0x306, 0x307, 0x308, 0x309, 0x312, 0x313, 0x314,
    0x315, 0x320].contains p || p / 256 = 1

/-- The register address behind a port of the privileged window (R111). -/
def portAddr (s : State) (t p : Nat) : Nat :=
  (bits (thread s t).pageSel 13 0 + (p - 0x8000) / 0x400) * 0x1000 + p % 0x400 * 4

/-- Thread `t` reaches the register address: all of them at M, its partition's at S (R394). -/
def threadReaches (s : State) (t : Nat) (write : Bool) (a : Nat) : Bool := level s t = 3 || sReaches s (tidPid s t) write a

/-- IN from the register window; DACC from an unmapped port or a page that the thread does not reach. -/
def windowInRow : Row :=
  { inSpec (fun p => !inListed p) (fun t p s =>
      let a := portAddr s t p
      if p < 0x8000 ∨ ¬ threadReaches s t false a then .deny s
      else if 0x1000000 ≤ a ∧ a < 0x3000000 then
        match windowRead ((a - 0x1000000) / 0x100000) (a % 0x100000) (.thread t p) s with
        | (some v, s) => .give s (.plain v)
        | (none, s) => .block s
      else
        let (v, s) := readReg s a
        .give s (.plain v)) with
    early := windowPriv }

/-- OUT to the register window; DACC likewise. -/
def windowOutRow : Row :=
  { outSpec (fun p => !outListed p) (fun t p v s =>
      let a := portAddr s t p
      if p < 0x8000 ∨ ¬ threadReaches s t true a then none
      else some (writeAs (nibMid (nibOf t)) (level s t = 3) a v s)) with
    early := windowPriv }

/-- RESERVED_OPCODE: an instruction word with no row of its own. It is a reserved word, or an IN or OUT of a port that no
other row names (log entry 74). -/
def reservedOpcode (t : Nat) (w : Word) (s : State) : State :=
  if wOp w = 0x0D then issue windowInRow t w s
  else if wOp w = 0x0E then issue windowOutRow t w s
  else issue reservedRow t w s

/-! ## The commands -/

/-- REG_REQ. -/
def execRegReq (k : PortId) (tag : Word) (write : Bool) (be : BitVec 4) (slice : BitVec 6) (off : BitVec 26) (data : Word)
    (s : State) : Host.Outcome State Fault Refusal := .next (regReq k tag write be slice.toNat off.toNat data s)
/-- BULK. -/
def execBulk (k : PortId) (tag : Word) (write : Bool) (response : Bool) (off : BitVec 28) (data : List Word) (len : Nat)
    (s : State) : Host.Outcome State Fault Refusal := .next (bulk k tag write response off.toNat data len s)
/-- RESERVED_OPCODE. -/
def execReservedOpcode (t : Tid) (w : Word) (s : State) : Host.Outcome State Fault Refusal := .next (reservedOpcode t w s)

end Sys2Proof.Machine
end

