-- ==== Sys2Proof/Machine/Dispatch.lean ====
section
/-! DEFINITION. The one match from a command to its meaning. -/

namespace Sys2Proof.Machine

/-- The effect of a command on everything but the queue of waiting commands. -/
def exec (i : Instr) (s : State) : Host.Outcome State Fault Refusal :=
  match i with
  | .crossingTick => Sys2Proof.Machine.execCrossingTick s
  | .substTick => Sys2Proof.Machine.execSubstTick s
  | .mclkFreqUpdate khz => Sys2Proof.Machine.execMclkFreqUpdate khz s
  | .mclkLost => Sys2Proof.Machine.execMclkLost s
  | .mclkOk => Sys2Proof.Machine.execMclkOk s
  | .morbMarker => Sys2Proof.Machine.execMorbMarker s
  | .missingMarker => Sys2Proof.Machine.execMissingMarker s
  | .phCtlArm => Sys2Proof.Machine.execPhCtlArm s
  | .realignNow => Sys2Proof.Machine.execRealignNow s
  | .substEnable => Sys2Proof.Machine.execSubstEnable s
  | .substDisable => Sys2Proof.Machine.execSubstDisable s
  | .mcmdLockAcquired => Sys2Proof.Machine.execMcmdLockAcquired s
  | .mcmdLockLost => Sys2Proof.Machine.execMcmdLockLost s
  | .mcmdFrame word check codeErr => Sys2Proof.Machine.execMcmdFrame word check codeErr s
  | .mcmdNop => Sys2Proof.Machine.execMcmdNop s
  | .crossingReset => Sys2Proof.Machine.execCrossingReset s
  | .orbitReset => Sys2Proof.Machine.execOrbitReset s
  | .orbitResetApply => Sys2Proof.Machine.execOrbitResetApply s
  | .runStart => Sys2Proof.Machine.execRunStart s
  | .runStop => Sys2Proof.Machine.execRunStop s
  | .admissionStart => Sys2Proof.Machine.execAdmissionStart s
  | .admissionStop => Sys2Proof.Machine.execAdmissionStop s
  | .calWindow => Sys2Proof.Machine.execCalWindow s
  | .calWindowOpen => Sys2Proof.Machine.execCalWindowOpen s
  | .calWindowClose => Sys2Proof.Machine.execCalWindowClose s
  | .testPulse => Sys2Proof.Machine.execTestPulse s
  | .testPulseCrossing => Sys2Proof.Machine.execTestPulseCrossing s
  | .hold => Sys2Proof.Machine.execHold s
  | .resume => Sys2Proof.Machine.execResume s
  | .syncCheck => Sys2Proof.Machine.execSyncCheck s
  | .mcmdReservedType => Sys2Proof.Machine.execMcmdReservedType s
  | .cmdInject word => Sys2Proof.Machine.execCmdInject word s
  | .orbitLenWrite v => Sys2Proof.Machine.execOrbitLenWrite v s
  | .orbitLenApply => Sys2Proof.Machine.execOrbitLenApply s
  | .decisionLatWrite v => Sys2Proof.Machine.execDecisionLatWrite v s
  | .guardWrite v => Sys2Proof.Machine.execGuardWrite v s
  | .alarmFire n => Sys2Proof.Machine.execAlarmFire n s
  | .alarmWait t w => Sys2Proof.Machine.execAlarmWait t w s
  | .phasePortOut t w => Sys2Proof.Machine.execPhasePortOut t w s
  | .phasePortIn t w => Sys2Proof.Machine.execPhasePortIn t w s
  | .phaseTargetReached t => Sys2Proof.Machine.execPhaseTargetReached t s
  | .ptpCaptureRead => Sys2Proof.Machine.execPtpCaptureRead s
  | .headerCapture lane head => Sys2Proof.Machine.execHeaderCapture lane head s
  | .stylusClassify lane => Sys2Proof.Machine.execStylusClassify lane s
  | .frameEnd lane frame fec fecOdd => Sys2Proof.Machine.execFrameEnd lane frame fec fecOdd s
  | .dispatch cls => Sys2Proof.Machine.execDispatch cls s
  | .ligatureCompletion slot => Sys2Proof.Machine.execLigatureCompletion slot s
  | .ligTimeout slot => Sys2Proof.Machine.execLigTimeout slot s
  | .ligatureRelease slot => Sys2Proof.Machine.execLigatureRelease slot s
  | .rulingSelect lane => Sys2Proof.Machine.execRulingSelect lane s
  | .egressFrameEnd lane => Sys2Proof.Machine.execEgressFrameEnd lane s
  | .shaperRefill => Sys2Proof.Machine.execShaperRefill s
  | .gateListEnable v => Sys2Proof.Machine.execGateListEnable v s
  | .laneEnable lane => Sys2Proof.Machine.execLaneEnable lane s
  | .laneDisable lane => Sys2Proof.Machine.execLaneDisable lane s
  | .blockLockAcquired seen => Sys2Proof.Machine.execBlockLockAcquired seen s
  | .laneUp locks => Sys2Proof.Machine.execLaneUp locks s
  | .laneDown lane signalLost => Sys2Proof.Machine.execLaneDown lane signalLost s
  | .helloSend lane => Sys2Proof.Machine.execHelloSend lane s
  | .helloReceive lane hello remoteFault => Sys2Proof.Machine.execHelloReceive lane hello remoteFault s
  | .rlTokenRefill => Sys2Proof.Machine.execRlTokenRefill s
  | .cbNop p cmd => Sys2Proof.Machine.execCbNop p cmd s
  | .cbLookup p cmd => Sys2Proof.Machine.execCbLookup p cmd s
  | .cbRead p cmd authority => Sys2Proof.Machine.execCbRead p cmd authority s
  | .cbInsert p cmd => Sys2Proof.Machine.execCbInsert p cmd s
  | .cbReplace p cmd => Sys2Proof.Machine.execCbReplace p cmd s
  | .cbDelete p cmd => Sys2Proof.Machine.execCbDelete p cmd s
  | .cbDeleteIdx p cmd authority => Sys2Proof.Machine.execCbDeleteIdx p cmd authority s
  | .cbClearHits p cmd => Sys2Proof.Machine.execCbClearHits p cmd s
  | .cbMove p cmd authority => Sys2Proof.Machine.execCbMove p cmd authority s
  | .cbReservedCmd p cmd => Sys2Proof.Machine.execCbReservedCmd p cmd s
  | .learnServe => Sys2Proof.Machine.execLearnServe s
  | .agingScan => Sys2Proof.Machine.execAgingScan s
  | .cbMigrateSet => Sys2Proof.Machine.execCbMigrateSet s
  | .cbMigrateClear => Sys2Proof.Machine.execCbMigrateClear s
  | .cbSwap => Sys2Proof.Machine.execCbSwap s
  | .cbEventPop => Sys2Proof.Machine.execCbEventPop s
  | .add t w => Sys2Proof.Machine.execAdd t w s
  | .addc t w => Sys2Proof.Machine.execAddc t w s
  | .sub t w => Sys2Proof.Machine.execSub t w s
  | .subb t w => Sys2Proof.Machine.execSubb t w s
  | .and t w => Sys2Proof.Machine.execAnd t w s
  | .or t w => Sys2Proof.Machine.execOr t w s
  | .xor t w => Sys2Proof.Machine.execXor t w s
  | .andn t w => Sys2Proof.Machine.execAndn t w s
  | .shl t w => Sys2Proof.Machine.execShl t w s
  | .shr t w => Sys2Proof.Machine.execShr t w s
  | .sar t w => Sys2Proof.Machine.execSar t w s
  | .rot t w => Sys2Proof.Machine.execRot t w s
  | .cmp t w => Sys2Proof.Machine.execCmp t w s
  | .tst t w => Sys2Proof.Machine.execTst t w s
  | .mov t w => Sys2Proof.Machine.execMov t w s
  | .not t w => Sys2Proof.Machine.execNot t w s
  | .neg t w => Sys2Proof.Machine.execNeg t w s
  | .abs t w => Sys2Proof.Machine.execAbs t w s
  | .min t w => Sys2Proof.Machine.execMin t w s
  | .max t w => Sys2Proof.Machine.execMax t w s
  | .minu t w => Sys2Proof.Machine.execMinu t w s
  | .maxu t w => Sys2Proof.Machine.execMaxu t w s
  | .addi t w => Sys2Proof.Machine.execAddi t w s
  | .andi t w => Sys2Proof.Machine.execAndi t w s
  | .ori t w => Sys2Proof.Machine.execOri t w s
  | .xori t w => Sys2Proof.Machine.execXori t w s
  | .shli t w => Sys2Proof.Machine.execShli t w s
  | .shri t w => Sys2Proof.Machine.execShri t w s
  | .sari t w => Sys2Proof.Machine.execSari t w s
  | .roti t w => Sys2Proof.Machine.execRoti t w s
  | .cmpi t w => Sys2Proof.Machine.execCmpi t w s
  | .tsti t w => Sys2Proof.Machine.execTsti t w s
  | .cmpui t w => Sys2Proof.Machine.execCmpui t w s
  | .movi t w => Sys2Proof.Machine.execMovi t w s
  | .movhi t w => Sys2Proof.Machine.execMovhi t w s
  | .br t w => Sys2Proof.Machine.execBr t w s
  | .nop t w => Sys2Proof.Machine.execNop t w s
  | .jr t w => Sys2Proof.Machine.execJr t w s
  | .jalr t w => Sys2Proof.Machine.execJalr t w s
  | .brk t w => Sys2Proof.Machine.execBrk t w s
  | .rte t w => Sys2Proof.Machine.execRte t w s
  | .mwait t w => Sys2Proof.Machine.execMwait t w s
  | .fence t w => Sys2Proof.Machine.execFence t w s
  | .ifence t w => Sys2Proof.Machine.execIfence t w s
  | .ist t w => Sys2Proof.Machine.execIst t w s
  | .ild t w => Sys2Proof.Machine.execIld t w s
  | .clc t w => Sys2Proof.Machine.execClc t w s
  | .sec t w => Sys2Proof.Machine.execSec t w s
  | .mfs t w => Sys2Proof.Machine.execMfs t w s
  | .mts t w => Sys2Proof.Machine.execMts t w s
  | .lb t w => Sys2Proof.Machine.execLb t w s
  | .lh t w => Sys2Proof.Machine.execLh t w s
  | .lw t w => Sys2Proof.Machine.execLw t w s
  | .lbs t w => Sys2Proof.Machine.execLbs t w s
  | .lhs t w => Sys2Proof.Machine.execLhs t w s
  | .sb t w => Sys2Proof.Machine.execSb t w s
  | .sh t w => Sys2Proof.Machine.execSh t w s
  | .sw t w => Sys2Proof.Machine.execSw t w s
  | .loadDataReturn t => Sys2Proof.Machine.execLoadDataReturn t s
  | .atomTas t w => Sys2Proof.Machine.execAtomTas t w s
  | .atomCas t w => Sys2Proof.Machine.execAtomCas t w s
  | .atomAdd t w => Sys2Proof.Machine.execAtomAdd t w s
  | .atomSwp t w => Sys2Proof.Machine.execAtomSwp t w s
  | .wcpy t w => Sys2Proof.Machine.execWcpy t w s
  | .wfil t w => Sys2Proof.Machine.execWfil t w s
  | .wcmp t w => Sys2Proof.Machine.execWcmp t w s
  | .wsrch t w => Sys2Proof.Machine.execWsrch t w s
  | .muls t w => Sys2Proof.Machine.execMuls t w s
  | .mulu t w => Sys2Proof.Machine.execMulu t w s
  | .macs t w => Sys2Proof.Machine.execMacs t w s
  | .divs t w => Sys2Proof.Machine.execDivs t w s
  | .divu t w => Sys2Proof.Machine.execDivu t w s
  | .productLand t => Sys2Proof.Machine.execProductLand t s
  | .quotientLand t => Sys2Proof.Machine.execQuotientLand t s
  | .dadd t w => Sys2Proof.Machine.execDadd t w s
  | .daddc t w => Sys2Proof.Machine.execDaddc t w s
  | .dsub t w => Sys2Proof.Machine.execDsub t w s
  | .dsubb t w => Sys2Proof.Machine.execDsubb t w s
  | .dca t w => Sys2Proof.Machine.execDca t w s
  | .dcs t w => Sys2Proof.Machine.execDcs t w s
  | .dshl t w => Sys2Proof.Machine.execDshl t w s
  | .dshr t w => Sys2Proof.Machine.execDshr t w s
  | .dcvb t w => Sys2Proof.Machine.execDcvb t w s
  | .dcvd t w => Sys2Proof.Machine.execDcvd t w s
  | .dchk t w => Sys2Proof.Machine.execDchk t w s
  | .rpt t w => Sys2Proof.Machine.execRpt t w s
  | .ext t w => Sys2Proof.Machine.execExt t w s
  | .bfx t w => Sys2Proof.Machine.execBfx t w s
  | .bfxs t w => Sys2Proof.Machine.execBfxs t w s
  | .bfi t w => Sys2Proof.Machine.execBfi t w s
  | .psat4 t w => Sys2Proof.Machine.execPsat4 t w s
  | .wsum4 t w => Sys2Proof.Machine.execWsum4 t w s
  | .wsum4u t w => Sys2Proof.Machine.execWsum4u t w s
  | .clzp t w => Sys2Proof.Machine.execClzp t w s
  | .crcc t w => Sys2Proof.Machine.execCrcc t w s
  | .crcc1 t w => Sys2Proof.Machine.execCrcc1 t w s
  | .crcc2 t w => Sys2Proof.Machine.execCrcc2 t w s
  | .crcc3 t w => Sys2Proof.Machine.execCrcc3 t w s
  | .mth t w => Sys2Proof.Machine.execMth t w s
  | .mfh t w => Sys2Proof.Machine.execMfh t w s
  | .hop t w => Sys2Proof.Machine.execHop t w s
  | .hstat t w => Sys2Proof.Machine.execHstat t w s
  | .sort q n => Sys2Proof.Machine.execSort q n s
  | .sortd q n => Sys2Proof.Machine.execSortd q n s
  | .sortki q n => Sys2Proof.Machine.execSortki q n s
  | .topk q n => Sys2Proof.Machine.execTopk q n s
  | .msort q n => Sys2Proof.Machine.execMsort q n s
  | .cc4 q n => Sys2Proof.Machine.execCc4 q n s
  | .cc8 q n => Sys2Proof.Machine.execCc8 q n s
  | .histClear q n => Sys2Proof.Machine.execHistClear q n s
  | .acc q n => Sys2Proof.Machine.execAcc q n s
  | .accw q n => Sys2Proof.Machine.execAccw q n s
  | .peak q n => Sys2Proof.Machine.execPeak q n s
  | .dump q n => Sys2Proof.Machine.execDump q n s
  | .h12 q n => Sys2Proof.Machine.execH12 q n s
  | .hashLookup q n => Sys2Proof.Machine.execHashLookup q n s
  | .hashCrc q n => Sys2Proof.Machine.execHashCrc q n s
  | .helperComplete q ty n => Sys2Proof.Machine.execHelperComplete q ty n s
  | .helperMessageRelease q ty n => Sys2Proof.Machine.execHelperMessageRelease q ty n s
  | .hwait t w => Sys2Proof.Machine.execHwait t w s
  | .thrStart t => Sys2Proof.Machine.execThrStart t s
  | .thrReset t => Sys2Proof.Machine.execThrReset t s
  | .thrPark t => Sys2Proof.Machine.execThrPark t s
  | .thrUnpark t => Sys2Proof.Machine.execThrUnpark t s
  | .thrHalt t => Sys2Proof.Machine.execThrHalt t s
  | .thrResume t => Sys2Proof.Machine.execThrResume t s
  | .thrStep t => Sys2Proof.Machine.execThrStep t s
  | .thrDiscardStage t => Sys2Proof.Machine.execThrDiscardStage t s
  | .dbgDataAccess n write => Sys2Proof.Machine.execDbgDataAccess n write s
  | .chReceive t w => Sys2Proof.Machine.execChReceive t w s
  | .rxInfo t w => Sys2Proof.Machine.execRxInfo t w s
  | .rxDrop t w => Sys2Proof.Machine.execRxDrop t w s
  | .txDest t w => Sys2Proof.Machine.execTxDest t w s
  | .txData t w => Sys2Proof.Machine.execTxData t w s
  | .txStat t w => Sys2Proof.Machine.execTxStat t w s
  | .txAbort t w => Sys2Proof.Machine.execTxAbort t w s
  | .messageDeliver src dest ch => Sys2Proof.Machine.execMessageDeliver src dest ch s
  | .fdSubmit t w => Sys2Proof.Machine.execFdSubmit t w s
  | .fdStat t w => Sys2Proof.Machine.execFdStat t w s
  | .lkAcq t w => Sys2Proof.Machine.execLkAcq t w s
  | .lkRel t w => Sys2Proof.Machine.execLkRel t w s
  | .lkTry t w => Sys2Proof.Machine.execLkTry t w s
  | .lkTryRes t w => Sys2Proof.Machine.execLkTryRes t w s
  | .lockForceRelease q k => Sys2Proof.Machine.execLockForceRelease q k s
  | .tmrSet t w => Sys2Proof.Machine.execTmrSet t w s
  | .tmrWait t w => Sys2Proof.Machine.execTmrWait t w s
  | .timerExpiry t j => Sys2Proof.Machine.execTimerExpiry t j s
  | .noticeDeliver n => Sys2Proof.Machine.execNoticeDeliver n s
  | .deadlockDetect p => Sys2Proof.Machine.execDeadlockDetect p s
  | .templateEnable k => Sys2Proof.Machine.execTemplateEnable k s
  | .templateCheckDone k => Sys2Proof.Machine.execTemplateCheckDone k s
  | .templateDisable k => Sys2Proof.Machine.execTemplateDisable k s
  | .operationReady inst node => Sys2Proof.Machine.execOperationReady inst node s
  | .instanceClose inst => Sys2Proof.Machine.execInstanceClose inst s
  | .instanceEnd inst => Sys2Proof.Machine.execInstanceEnd inst s
  | .ductusNoticeDeliver n => Sys2Proof.Machine.execDuctusNoticeDeliver n s
  | .dxPull t w => Sys2Proof.Machine.execDxPull t w s
  | .dxDeliver n => Sys2Proof.Machine.execDxDeliver n s
  | .dxOpread t w => Sys2Proof.Machine.execDxOpread t w s
  | .dxTgt t w => Sys2Proof.Machine.execDxTgt t w s
  | .dxTsps t w => Sys2Proof.Machine.execDxTsps t w s
  | .dxTdata t w => Sys2Proof.Machine.execDxTdata t w s
  | .dxStat t w => Sys2Proof.Machine.execDxStat t w s
  | .dxDone t w => Sys2Proof.Machine.execDxDone t w s
  | .dxDecide t w => Sys2Proof.Machine.execDxDecide t w s
  | .dxStart t w => Sys2Proof.Machine.execDxStart t w s
  | .dxAbort t w => Sys2Proof.Machine.execDxAbort t w s
  | .spillRefill p => Sys2Proof.Machine.execSpillRefill p s
  | .spillRingEnable p v => Sys2Proof.Machine.execSpillRingEnable p v s
  | .dxSpillMaxClear p v => Sys2Proof.Machine.execDxSpillMaxClear p v s
  | .dxLoadWindowEnd => Sys2Proof.Machine.execDxLoadWindowEnd s
  | .decisionSlotClose p => Sys2Proof.Machine.execDecisionSlotClose p s
  | .decisionRelease p throttleN => Sys2Proof.Machine.execDecisionRelease p throttleN s
  | .accOutDrive => Sys2Proof.Machine.execAccOutDrive s
  | .copyStart => Sys2Proof.Machine.execCopyStart s
  | .copyDone => Sys2Proof.Machine.execCopyDone s
  | .scrollExtentFree => Sys2Proof.Machine.execScrollExtentFree s
  | .hostBar4Write off v => Sys2Proof.Machine.execHostBar4Write off v s
  | .hostFetchadd off addend bytes => Sys2Proof.Machine.execHostFetchadd off addend bytes s
  | .hostSwap off v bytes => Sys2Proof.Machine.execHostSwap off v bytes s
  | .hostCas off compare v bytes => Sys2Proof.Machine.execHostCas off compare v bytes s
  | .iwAllocS r => Sys2Proof.Machine.execIwAllocS r s
  | .iwAllocD r => Sys2Proof.Machine.execIwAllocD r s
  | .iwArg t w => Sys2Proof.Machine.execIwArg t w s
  | .iwFree r => Sys2Proof.Machine.execIwFree r s
  | .iwShare r => Sys2Proof.Machine.execIwShare r s
  | .iwRelease r => Sys2Proof.Machine.execIwRelease r s
  | .iwQuery r => Sys2Proof.Machine.execIwQuery r s
  | .iwStat t w => Sys2Proof.Machine.execIwStat t w s
  | .iwHcmdReserved p => Sys2Proof.Machine.execIwHcmdReserved p s
  | .iwRefill => Sys2Proof.Machine.execIwRefill s
  | .iwSpill => Sys2Proof.Machine.execIwSpill s
  | .iwDcfgEnable v => Sys2Proof.Machine.execIwDcfgEnable v s
  | .iwFillDone => Sys2Proof.Machine.execIwFillDone s
  | .iwDcfgDisable => Sys2Proof.Machine.execIwDcfgDisable s
  | .ddrEnable c => Sys2Proof.Machine.execDdrEnable c s
  | .ddrTrain c => Sys2Proof.Machine.execDdrTrain c s
  | .ddrTrainDone c failedStep => Sys2Proof.Machine.execDdrTrainDone c failedStep s
  | .ddrRestore c => Sys2Proof.Machine.execDdrRestore c s
  | .ddrRestoreDone c checkPassed => Sys2Proof.Machine.execDdrRestoreDone c checkPassed s
  | .ddrRefresh c rank => Sys2Proof.Machine.execDdrRefresh c rank s
  | .ddrTempPoll c celsius => Sys2Proof.Machine.execDdrTempPoll c celsius s
  | .ddrCommandIssue c sub => Sys2Proof.Machine.execDdrCommandIssue c sub s
  | .ddrPowerDown c rank => Sys2Proof.Machine.execDdrPowerDown c rank s
  | .ddrScrubRead c errorBits => Sys2Proof.Machine.execDdrScrubRead c errorBits s
  | .ddrRankLost c rank => Sys2Proof.Machine.execDdrRankLost c rank s
  | .ddrRemapDone c => Sys2Proof.Machine.execDdrRemapDone c s
  | .drRegionWrite r reg v => Sys2Proof.Machine.execDrRegionWrite r reg v s
  | .ddrImodeWrite v => Sys2Proof.Machine.execDdrImodeWrite v s
  | .ddrSpareEnable c v => Sys2Proof.Machine.execDdrSpareEnable c v s
  | .ddrSpareReady c => Sys2Proof.Machine.execDdrSpareReady c s
  | .partNop p => Sys2Proof.Machine.execPartNop p s
  | .partCreate p => Sys2Proof.Machine.execPartCreate p s
  | .partCommit p => Sys2Proof.Machine.execPartCommit p s
  | .partStart p => Sys2Proof.Machine.execPartStart p s
  | .partAdmissionStart p => Sys2Proof.Machine.execPartAdmissionStart p s
  | .partStop p => Sys2Proof.Machine.execPartStop p s
  | .partFreeze p => Sys2Proof.Machine.execPartFreeze p s
  | .partDrainEnd p => Sys2Proof.Machine.execPartDrainEnd p s
  | .partThaw p => Sys2Proof.Machine.execPartThaw p s
  | .partSave p => Sys2Proof.Machine.execPartSave p s
  | .partSaveDone p => Sys2Proof.Machine.execPartSaveDone p s
  | .partRestore p image => Sys2Proof.Machine.execPartRestore p image s
  | .partRestoreDone p => Sys2Proof.Machine.execPartRestoreDone p s
  | .partReset p => Sys2Proof.Machine.execPartReset p s
  | .partResetDone p => Sys2Proof.Machine.execPartResetDone p s
  | .partDestroy p => Sys2Proof.Machine.execPartDestroy p s
  | .partReservedCmd p => Sys2Proof.Machine.execPartReservedCmd p s
  | .rxEntryWrite p bufAddr => Sys2Proof.Machine.execRxEntryWrite p bufAddr s
  | .rxConsDoorbell p v => Sys2Proof.Machine.execRxConsDoorbell p v s
  | .rxbDoorbell p v => Sys2Proof.Machine.execRxbDoorbell p v s
  | .txDoorbell p v => Sys2Proof.Machine.execTxDoorbell p v s
  | .txEntryProcess p entry data => Sys2Proof.Machine.execTxEntryProcess p entry data s
  | .partSwirq p v => Sys2Proof.Machine.execPartSwirq p v s
  | .skTrain k => Sys2Proof.Machine.execSkTrain k s
  | .echoReqReceive k tag => Sys2Proof.Machine.execEchoReqReceive k tag s
  | .echoRspReceive k tag roundTrip => Sys2Proof.Machine.execEchoRspReceive k tag roundTrip s
  | .flitSend k => Sys2Proof.Machine.execFlitSend k s
  | .flitReceive k head data => Sys2Proof.Machine.execFlitReceive k head data s
  | .ackReceive k ackValid acked credits0 credits1 => Sys2Proof.Machine.execAckReceive k ackValid acked credits0 credits1 s
  | .nakReceive k expected => Sys2Proof.Machine.execNakReceive k expected s
  | .flitReplayTimeout k => Sys2Proof.Machine.execFlitReplayTimeout k s
  | .heartbeatSend k => Sys2Proof.Machine.execHeartbeatSend k s
  | .heartbeat k sps body => Sys2Proof.Machine.execHeartbeat k sps body s
  | .phaseCheck k ps => Sys2Proof.Machine.execPhaseCheck k ps s
  | .fragment k sps dr => Sys2Proof.Machine.execFragment k sps dr s
  | .event k sps dr => Sys2Proof.Machine.execEvent k sps dr s
  | .regReq k tag write be slice off data => Sys2Proof.Machine.execRegReq k tag write be slice off data s
  | .regRsp k tag status data => Sys2Proof.Machine.execRegRsp k tag status data s
  | .bulk k tag write response off data len => Sys2Proof.Machine.execBulk k tag write response off data len s
  | .skReservedMessage k ty => Sys2Proof.Machine.execSkReservedMessage k ty s
  | .mergeClose p => Sys2Proof.Machine.execMergeClose p s
  | .heartbeatMissed k => Sys2Proof.Machine.execHeartbeatMissed k s
  | .standbyTakeover => Sys2Proof.Machine.execStandbyTakeover s
  | .skHandback => Sys2Proof.Machine.execSkHandback s
  | .enterOrphan => Sys2Proof.Machine.execEnterOrphan s
  | .leaveOrphan => Sys2Proof.Machine.execLeaveOrphan s
  | .remoteWindowRead k off => Sys2Proof.Machine.execRemoteWindowRead k off s
  | .remoteWindowWrite k off data => Sys2Proof.Machine.execRemoteWindowWrite k off data s
  | .remoteReadTimeout k => Sys2Proof.Machine.execRemoteReadTimeout k s
  | .folioRemotePoll => Sys2Proof.Machine.execFolioRemotePoll s
  | .sigDipBegin mv => Sys2Proof.Machine.execSigDipBegin mv s
  | .sigDipEnd sigclk lowestMv => Sys2Proof.Machine.execSigDipEnd sigclk lowestMv s
  | .sigDipLong sigclk lowestMv => Sys2Proof.Machine.execSigDipLong sigclk lowestMv s
  | .signetPowerOn journalBytes torn => Sys2Proof.Machine.execSignetPowerOn journalBytes torn s
  | .journalWrite ok => Sys2Proof.Machine.execJournalWrite ok s
  | .checkpointDue => Sys2Proof.Machine.execCheckpointDue s
  | .sigTallyRead => Sys2Proof.Machine.execSigTallyRead s
  | .sigSessionOpen code => Sys2Proof.Machine.execSigSessionOpen code s
  | .sigSessionExpire => Sys2Proof.Machine.execSigSessionExpire s
  | .seal confirm => Sys2Proof.Machine.execSeal confirm s
  | .unseal confirm => Sys2Proof.Machine.execUnseal confirm s
  | .sigCmdNop => Sys2Proof.Machine.execSigCmdNop s
  | .sigCmdReserved op => Sys2Proof.Machine.execSigCmdReserved op s
  | .sigCfgWrite v => Sys2Proof.Machine.execSigCfgWrite v s
  | .audReadStat => Sys2Proof.Machine.execAudReadStat s
  | .audSelectTally sel index => Sys2Proof.Machine.execAudSelectTally sel index s
  | .audReadTally => Sys2Proof.Machine.execAudReadTally s
  | .audSelectRecord n => Sys2Proof.Machine.execAudSelectRecord n s
  | .audReadRecord => Sys2Proof.Machine.execAudReadRecord s
  | .audReadHead => Sys2Proof.Machine.execAudReadHead s
  | .audReadKey => Sys2Proof.Machine.execAudReadKey s
  | .audReadId => Sys2Proof.Machine.execAudReadId s
  | .audStartReading p => Sys2Proof.Machine.execAudStartReading p s
  | .audReadReading => Sys2Proof.Machine.execAudReadReading s
  | .signedReadingDone => Sys2Proof.Machine.execSignedReadingDone s
  | .errorReport page source access mid addr => Sys2Proof.Machine.execErrorReport page source access mid addr s
  | .hangSample => Sys2Proof.Machine.execHangSample s
  | .nibFence n => Sys2Proof.Machine.execNibFence n s
  | .faultIntervalClose => Sys2Proof.Machine.execFaultIntervalClose s
  | .recoveryTimeout => Sys2Proof.Machine.execRecoveryTimeout s
  | .errStickyClear page v => Sys2Proof.Machine.execErrStickyClear page v s
  | .firstErrorRearm => Sys2Proof.Machine.execFirstErrorRearm s
  | .aliveToggle => Sys2Proof.Machine.execAliveToggle s
  | .aliveCtlWrite v => Sys2Proof.Machine.execAliveCtlWrite v s
  | .wdtEnable v => Sys2Proof.Machine.execWdtEnable v s
  | .wdtKick => Sys2Proof.Machine.execWdtKick s
  | .wdtExpire => Sys2Proof.Machine.execWdtExpire s
  | .injectEnable v => Sys2Proof.Machine.execInjectEnable v s
  | .injectArm page v => Sys2Proof.Machine.execInjectArm page v s
  | .requestCold steward => Sys2Proof.Machine.execRequestCold steward s
  | .requestBoot steward => Sys2Proof.Machine.execRequestBoot steward s
  | .requestStandalone steward => Sys2Proof.Machine.execRequestStandalone steward s
  | .requestConfig steward => Sys2Proof.Machine.execRequestConfig steward s
  | .requestRun steward => Sys2Proof.Machine.execRequestRun steward s
  | .requestDrain steward => Sys2Proof.Machine.execRequestDrain steward s
  | .requestOrphan steward => Sys2Proof.Machine.execRequestOrphan steward s
  | .requestTest steward => Sys2Proof.Machine.execRequestTest steward s
  | .modeTransitionEnd => Sys2Proof.Machine.execModeTransitionEnd s
  | .drainComplete => Sys2Proof.Machine.execDrainComplete s
  | .pdCtlWrite v => Sys2Proof.Machine.execPdCtlWrite v s
  | .domainSwitchDone => Sys2Proof.Machine.execDomainSwitchDone s
  | .domainTimeout => Sys2Proof.Machine.execDomainTimeout s
  | .porAssert => Sys2Proof.Machine.execPorAssert s
  | .porRelease role bootsel lanedef => Sys2Proof.Machine.execPorRelease role bootsel lanedef s
  | .bootRomStart => Sys2Proof.Machine.execBootRomStart s
  | .bootRomSequence flash => Sys2Proof.Machine.execBootRomSequence flash s
  | .bootHostTimeout => Sys2Proof.Machine.execBootHostTimeout s
  | .btHostLoad v => Sys2Proof.Machine.execBtHostLoad v s
  | .btSvnBurn v => Sys2Proof.Machine.execBtSvnBurn v s
  | .rstCold v => Sys2Proof.Machine.execRstCold v s
  | .rstWarm v => Sys2Proof.Machine.execRstWarm v s
  | .vcoreReset sigclkBelow => Sys2Proof.Machine.execVcoreReset sigclkBelow s
  | .supplyDipEnd => Sys2Proof.Machine.execSupplyDipEnd s
  | .supplyDipLong => Sys2Proof.Machine.execSupplyDipLong s
  | .tempSample hottest sixteenths => Sys2Proof.Machine.execTempSample hottest sixteenths s
  | .tempLimitWrite v => Sys2Proof.Machine.execTempLimitWrite v s
  | .functionLevelReset => Sys2Proof.Machine.execFunctionLevelReset s
  | .pcSelWrite page j v => Sys2Proof.Machine.execPcSelWrite page j v s
  | .counterRead page j => Sys2Proof.Machine.execCounterRead page j s
  | .counterWrite page j high v => Sys2Proof.Machine.execCounterWrite page j high v s
  | .pcSampleClear n v => Sys2Proof.Machine.execPcSampleClear n v s
  | .pcFreeze n on => Sys2Proof.Machine.execPcFreeze n on s
  | .pfFreeze on => Sys2Proof.Machine.execPfFreeze on s
  | .pfWinWrite v => Sys2Proof.Machine.execPfWinWrite v s
  | .pfWindowEnd => Sys2Proof.Machine.execPfWindowEnd s
  | .pfBwRead j => Sys2Proof.Machine.execPfBwRead j s
  | .mbToHostWrite j v => Sys2Proof.Machine.execMbToHostWrite j v s
  | .mbToStwWrite j v => Sys2Proof.Machine.execMbToStwWrite j v s
  | .mailboxDeliver j => Sys2Proof.Machine.execMailboxDeliver j s
  | .mgtFrameReceive frame fcsOk => Sys2Proof.Machine.execMgtFrameReceive frame fcsOk s
  | .mgtFrameTransmit => Sys2Proof.Machine.execMgtFrameTransmit s
  | .mnAdjStep v => Sys2Proof.Machine.execMnAdjStep v s
  | .brdReadId => Sys2Proof.Machine.execBrdReadId s
  | .brdReadMode => Sys2Proof.Machine.execBrdReadMode s
  | .brdReadEnv => Sys2Proof.Machine.execBrdReadEnv s
  | .brdSelectLane v => Sys2Proof.Machine.execBrdSelectLane v s
  | .brdReadLane => Sys2Proof.Machine.execBrdReadLane s
  | .brdSetOffset v => Sys2Proof.Machine.execBrdSetOffset v s
  | .brdReadRegister => Sys2Proof.Machine.execBrdReadRegister s
  | .extest => Sys2Proof.Machine.execExtest s
  | .samplePreload => Sys2Proof.Machine.execSamplePreload s
  | .idcode => Sys2Proof.Machine.execIdcode s
  | .extestPulse => Sys2Proof.Machine.execExtestPulse s
  | .extestTrain => Sys2Proof.Machine.execExtestTrain s
  | .bistReg write => Sys2Proof.Machine.execBistReg write s
  | .bypass code => Sys2Proof.Machine.execBypass code s
  | .lbistDomain => Sys2Proof.Machine.execLbistDomain s
  | .mbistDomain => Sys2Proof.Machine.execMbistDomain s
  | .mbistAll => Sys2Proof.Machine.execMbistAll s
  | .lbistAll => Sys2Proof.Machine.execLbistAll s
  | .bistAbort => Sys2Proof.Machine.execBistAbort s
  | .testCmdReserved op => Sys2Proof.Machine.execTestCmdReserved op s
  | .bistDomainDone => Sys2Proof.Machine.execBistDomainDone s
  | .pgEnable page on => Sys2Proof.Machine.execPgEnable page on s
  | .pgFreeze page on => Sys2Proof.Machine.execPgFreeze page on s
  | .pageFrozen page => Sys2Proof.Machine.execPageFrozen page s
  | .pgSoftReset page => Sys2Proof.Machine.execPgSoftReset page s
  | .pgLock page v => Sys2Proof.Machine.execPgLock page v s
  | .irqRawClear page v => Sys2Proof.Machine.execIrqRawClear page v s
  | .registerWrite mid addr v => Sys2Proof.Machine.execRegisterWrite mid addr v s
  | .blockLockLost why => Sys2Proof.Machine.execBlockLockLost why s
  | .supplyDipBegin mv => Sys2Proof.Machine.execSupplyDipBegin mv s
  | .reservedOpcode t w => Sys2Proof.Machine.execReservedOpcode t w s
  | .storeBufferDrain t => Sys2Proof.Machine.execStoreBufferDrain t s
  | .caParityError c rank => Sys2Proof.Machine.execCaParityError c rank s
  | .pcieLinkUp width speed => Sys2Proof.Machine.execPcieLinkUp width speed s

end Sys2Proof.Machine
end

