-- ==== Sys2Proof/WellFormed.lean ====
section
/-! DEFINITION. Which commands are well formed: the bounds of the operands that their types do not bound already. -/

namespace Sys2Proof

/-- A page operand is the base address of a page of the register space: a multiple of 4,096 below the end of the
partition windows (R385). -/
def wfPage (page : Nat) : Bool := page % 0x1000 == 0 && decide (page < 0x20000000)

/-- A command is well formed: pages are page bases, a register address is a word address (R383), a frame's head has at
most 64 bytes (R76), a host atomic is of 4 or 8 bytes (R235). -/
def Instr.wf : Instr → Bool
  | .headerCapture _ head => decide (head.length ≤ 64)
  | .hostFetchadd _ _ n => n == 4 || n == 8
  | .hostSwap _ _ n => n == 4 || n == 8
  | .hostCas _ _ _ n => n == 4 || n == 8 || n == 16
  | .errorReport page _ _ _ _ => wfPage page
  | .errStickyClear page _ => wfPage page
  | .injectArm page _ => wfPage page
  | .pcSelWrite page _ _ => wfPage page
  | .counterRead page _ => wfPage page
  | .counterWrite page _ _ _ => wfPage page
  | .pgEnable page _ => wfPage page
  | .pgFreeze page _ => wfPage page
  | .pageFrozen page => wfPage page
  | .pgSoftReset page => wfPage page
  | .pgLock page _ => wfPage page
  | .irqRawClear page _ => wfPage page
  | .registerWrite _ addr _ => addr % 4 == 0
  | _ => true

end Sys2Proof
end

