-- ==== Sys2Proof/Safety.lean ====
section
/-! DEFINITION. What a safe run is, and the terms in which claims speak: a step that goes on, a thread that is ready for a
word, what a unit may change beside its thread, and the tables of instructions of one shape. -/

namespace Sys2Proof.Machine

/-! ## Steps -/

/-- A step goes on: it answers a next state. -/
def Goes (o : Host.Outcome State Fault Refusal) : Prop := ∃ t, o = .next t

/-- A command answers a next state of which `P` holds. -/
def Gives (c : Instr) (s : State) (P : State → Prop) : Prop := ∃ t, exec c s = .next t ∧ P t

/-- Every command that waits is well formed. -/
def PendingWf (s : State) : Bool := s.pending.all Instr.wf

/-! ## A thread and its next word (R113, R136, R142, R333) -/

/-- No injection is armed on check source `src` of a page (R337). -/
abbrev NoArm (s : State) (page src : Nat) : Prop :=
  ¬ (flag s (Reg.PG_INJECT page) 31 = true ∧ fld s (Reg.PG_INJECT page) 7 0 = src)

/-- No pipeline check error is armed on a Nib (R337). -/
abbrev NoInjection (s : State) (n : Nat) : Prop := NoArm s (Reg.nibPage n) 0xFF

/-- Thread `t` issues the word at its PC: it may issue, the fetch is good, no injected error stands in the way of it or of
the fetch, and the thread is not being stepped by the debugger. -/
abbrev Issues (s : State) (t : Nat) : Prop :=
  canIssue s t = true ∧ badAt s (ispace (nibOf t) + instrPc s t) = false ∧ NoInjection s (nibOf t)
    ∧ NoArm s (Reg.nibPage (nibOf t)) 5 ∧ (thread s t).stepping = false

/-- The word before the instruction is no prefix. -/
abbrev Bare (s : State) (t : Nat) : Prop := (thread s t).pfx = .none

/-- The word before the instruction is no prefix, or EXT. -/
def BareOrExt (s : State) (t : Nat) : Prop := (thread s t).pfx = .none ∨ ∃ hi, (thread s t).pfx = .ext hi

/-- The register fields of a word are registers, and the unused ones are 0 (R103, R113). -/
abbrev FieldsOk (f : Fields) (three : Bool) (w : Word) : Prop := badReg f w = false ∧ badUnused f three w = false

/-- A word of format F3, FI or FM, or FX, with good register fields (R112). -/
abbrev IsF3 (op fn : Nat) (f : Fields) (w : Word) : Prop := wOp w = op ∧ wFn w = fn ∧ FieldsOk f true w
abbrev IsFI (op sel : Nat) (f : Fields) (w : Word) : Prop := wOp w = op ∧ wS w = sel ∧ FieldsOk f false w
abbrev IsFX (op sub : Nat) (f : Fields) (w : Word) : Prop := wOp w = op ∧ wSub w = sub ∧ FieldsOk f false w

/-- An IN, or an OUT, on port `p` with good register fields (R123). -/
abbrev IsIn (s : State) (t : Nat) (w : Word) (p : Nat) : Prop := wOp w = 0x0D ∧ FieldsOk (fpFields w) false w ∧ portOf s t w = p
abbrev IsOut (s : State) (t : Nat) (w : Word) (p : Nat) : Prop := wOp w = 0x0E ∧ FieldsOk (fpFields w) false w ∧ portOf s t w = p

/-- No injection is armed on any page; pages 0 to 0x1FF are all there are beside the remote windows (R337, R395). -/
abbrev Uninjected (s : State) : Prop := ∀ k < 0x200, flag s (Reg.PG_INJECT (0x1000 * k)) 31 = false

/-! ## What a unit changes -/

/-- Beside thread `t` a unit changes the retire mark and the notices of its Nib, registers of its Nib's page and of the PERF
page (the counters), the supply of free values and what leaves the device: nothing else. -/
def Beside (s s' : State) (t : Nat) : Prop :=
  s' = { s with threads := s'.threads, nibs := s'.nibs, regs := s'.regs, free := s'.free, out := s'.out }
  ∧ (∀ u, u ≠ t → thread s' u = thread s u)
  ∧ (∀ m, m ≠ nibOf t → nib s' m = nib s m)
  ∧ (∃ b l, nib s' (nibOf t) = { nib s (nibOf t) with retired := b, notices := l })
  ∧ (∀ a, a / 0x1000 ≠ Reg.nibPage (nibOf t) / 0x1000 → a / 0x1000 ≠ 9 → reg s' a = reg s a)

/-- The PC of the word after the unit, as a thread holds it. -/
def pcAfter (s : State) (t : Nat) : BitVec 16 := BitVec.ofNat 16 (nextPc s t)

/-- The unit completes: thread `t` is `th` but for its PC, after the unit, and its prefix, none. -/
def Completes (s : State) (t : Nat) (th : Thread) (s' : State) : Prop :=
  Beside s s' t ∧ thread s' t = { th with pc := pcAfter s t, pfx := .none }

/-- As `Completes`, for a unit that writes memory too. -/
def CompletesMem (s : State) (t : Nat) (th : Thread) (s' : State) : Prop :=
  Beside { s with mem := s'.mem, badWords := s'.badWords, addrTags := s'.addrTags } s' t ∧ thread s' t = { th with pc := pcAfter s t, pfx := .none }

/-- W with register `d` set. -/
def withW (th : Thread) (d : Nat) (v : Word) : Thread := { th with w := Tbl.set (fun _ => 0) th.w d v }

/-- Thread `th` after an IN into W[d] that delivered `v` (R123, R149). -/
def tookIn (th : Thread) (d : Nat) (v : PortVal) : Thread := { withW th d v.value with st := v.flags th.st }

/-- Thread `t` waits on port `p`: nothing but its state and the port differs (R145). -/
def Blocks (s : State) (t : Nat) (w : Word) (p : Nat) (s' : State) : Prop :=
  s' = setThread s t { thread s t with state := .blocked, waitPort := some (p, wD w) }

/-- A table differs from another at key `k` alone, where it holds `v`. -/
def TblAt {α : Type} (d : Nat → α) (l l' : Tbl α) (k : Nat) (v : α) : Prop :=
  Tbl.get d l' k = v ∧ ∀ j, j ≠ k → Tbl.get d l' j = Tbl.get d l j

/-- Context set `n` at the helper `ty` of Quill `q` is `c`, the others are as before. -/
def CtxAt (s s' : State) (q ty n : Nat) (c : Ctx) : Prop := TblAt (fun _ => {}) s.ctxs s'.ctxs (32 * q + 8 * ty + n) c

/-- Channel `c` of Nib `n` is `v`, every other channel as before. -/
def ChanAt (s s' : State) (n c : Nat) (v : Chan) : Prop := TblAt (fun _ => {}) s.chans s'.chans (32 * n + c) v

/-- Lock `k` of Quill `q` is `v`, every other lock as before. -/
def LockAt (s s' : State) (q k : Nat) (v : Lock) : Prop := TblAt (fun _ => {}) s.locks s'.locks (256 * q + k) v

/-- Registers of the addresses in `l` may differ, no others. -/
def RegsBut (s s' : State) (l : List Nat) : Prop := ∀ a, a ∉ l → reg s' a = reg s a

/-- The thread that a message, grant or value reached: its blocked IN has completed with `v` (R153, R164). -/
def Woken (s s' : State) (u d : Nat) (v : PortVal) : Prop :=
  thread s' u = { tookIn (thread s u) d v with pc := pcAfter s u, pfx := .none, state := .running, waitPort := none }

/-- Registers of the addresses in `l` may differ, nothing else. -/
def OnlyRegs (s s' : State) (l : List Nat) : Prop := s' = { s with regs := s'.regs } ∧ RegsBut s s' l

/-- Registers of the addresses in `l` may differ, and what leaves the device; nothing else: a page interrupt may have been
raised (R384, R391). -/
def Raises (s s' : State) (l : List Nat) : Prop := s' = { s with regs := s'.regs, out := s'.out } ∧ RegsBut s s' l

/-- The byte that a memory keeps at place `j`. -/
def kept (s : State) (j : Nat) : Byte := Tbl.get memDefault s.mem j

/-- Beside the registers of the addresses in `l`, what recording errors changes: page headers, the BLOTTER page, the log, the
supply of free values, and what leaves the device; nothing else (R321–R324, R334, R391, R392). -/
def Records (s s' : State) (l : List Nat) : Prop :=
  s' = { s with regs := s'.regs, mem := s'.mem, out := s'.out, free := s'.free }
  ∧ (∀ a, a ∉ l → 0x100 ≤ a % 0x1000 → a / 0x1000 ≠ Reg.blotterPage / 0x1000 → reg s' a = reg s a)
  ∧ (∀ j, j < 0xFFF8000 ∨ 0x10000000 ≤ j → kept s' j = kept s j)

/-- As `Records`, and source `src` of `page` stands in its PG_ERR_STICKY. -/
def Noted (s s' : State) (l : List Nat) (page src : Nat) : Prop :=
  Records s s' l ∧ flag s' (Reg.PG_ERR_STICKY page) src = true

/-- Thread `t` after a unit that leaves `o`: its destination register and ST, the PC after the unit, no prefix. -/
def afterAlu (s : State) (t d : Nat) (o : Alu) : Thread :=
  { thread s t with
    w := match o.d with
      | some v => Tbl.set (fun _ => 0) (thread s t).w d v
      | none => (thread s t).w
    st := o.st, pc := pcAfter s t, pfx := .none }

/-! ## Traps (R135–R138) -/

/-- CAUSE as trap entry writes it for a thread (R105, R137). -/
def causeFor (th : Thread) (code sub : Nat) : Word :=
  word ((match th.pfx with | .ext _ => 2 ^ 23 | .rpt _ => 2 ^ 22 | .none => 0) + bits th.st 31 30 * 2 ^ 20 + sub * 2 ^ 8 + code)

/-- The PC of the handler of cause `code` on the Nib of thread `t` (R137). -/
def handlerPc (s : State) (t code : Nat) : Nat := bits (nib s (nibOf t)).tvec 15 10 * 0x400 + 0x40 * code

/-- A trap of thread `t` enters its handler: vectors are installed, the thread is in no handler, and the fetch at the
vector is good (R138). -/
abbrev Enters (s : State) (t code : Nat) : Prop :=
  bit (nib s (nibOf t)).tvec 0 = true ∧ stTl (thread s t).st = false ∧ badAt s (ispace (nibOf t) + handlerPc s t code) = false

/-- Thread `th` right after trap entry as thread `t` (R137). -/
def trapped (s : State) (t code sub : Nat) (tinfo epc : Word) (th : Thread) : Thread :=
  { th with
    epc := epc, cause := causeFor th code sub, tinfo := tinfo
    st := setBits (setBit th.st 29 true) 31 30 (if bits th.st 31 30 = 3 then 3 else 1)
    pc := BitVec.ofNat 16 (handlerPc s t code), pfx := .none, load := none }

/-- The instruction takes the trap `code`, `sub` with `tinfo`, and has no other effect: EPC is the PC of its unit. -/
def Precise (s : State) (t code sub : Nat) (tinfo : Word) (s' : State) : Prop :=
  Beside s s' t ∧ thread s' t = trapped s t code sub tinfo (word (thread s t).pc.toNat) (thread s t)

/-! ## Local data (R107, R108, R135) -/

/-- An access of `size` bytes at `addr` goes to the thread's own local data and meets no check. -/
abbrev LocalAt (s : State) (t addr size : Nat) (rdA wrA : Bool) : Prop :=
  addr % size = 0 ∧ addr < 0x20000 ∧ watched s t addr rdA wrA = false

/-- The word at `addr` of the thread's local data reads good, and no check error is armed. -/
abbrev LocalGood (s : State) (t addr : Nat) : Prop :=
  badAt s (localData (nibOf t) + addr) = false ∧ NoArm s (Reg.nibPage (nibOf t)) 5

/-- Every byte outside the `n` bytes from key `k` reads as before. -/
def BytesBut (s s' : State) (k n : Nat) : Prop := ∀ j, j < k ∨ k + n ≤ j → rd s' j = rd s j

/-- The bytes from key `k` read as `bs`, and every other byte as before. -/
def StoredAt (s s' : State) (k : Nat) (bs : List Byte) : Prop :=
  (∀ i, i < bs.length → rd s' (k + i) = bs.getD i 0) ∧ BytesBut s s' k bs.length

/-! ## Instructions of one shape -/

/-- A register-to-register instruction: its command, fn code, register fields, and what it leaves from ST and the values of
W[d], W[a] and W[b]. -/
structure RegOp where
  cmd : Tid → Word → Instr
  fn : Nat
  fields : Fields
  f : Word → Word → Word → Word → Alu

/-- An immediate instruction: its command, opcode, s code, register fields, whether EXT may stand before it, how its
immediate extends, and what it leaves from ST, W[a] and the immediate. -/
structure ImmOp where
  cmd : Tid → Word → Instr
  op : Nat
  sel : Nat
  fields : Fields
  ext : Bool
  imm : State → Nat → Word → Word
  f : Word → Word → Word → Alu

/-- ALU (R115). -/
def aluOps : List RegOp := [
  ⟨.add, 0x000, .dab, fun st _ a b => aluAdd st a b 0⟩,
  ⟨.addc, 0x001, .dab, fun st _ a b => aluAdd st a b (stC st).toNat⟩,
  ⟨.sub, 0x002, .dab, fun st _ a b => aluSub st a b 0⟩,
  ⟨.subb, 0x003, .dab, fun st _ a b => aluSub st a b (stC st).toNat⟩,
  ⟨.and, 0x004, .dab, fun st _ a b => aluLogic st (a &&& b)⟩,
  ⟨.or, 0x005, .dab, fun st _ a b => aluLogic st (a ||| b)⟩,
  ⟨.xor, 0x006, .dab, fun st _ a b => aluLogic st (a ^^^ b)⟩,
  ⟨.andn, 0x007, .dab, fun st _ a b => aluLogic st (a &&& ~~~b)⟩,
  ⟨.shl, 0x008, .dab, fun st _ a b => aluShl st a b⟩,
  ⟨.shr, 0x009, .dab, fun st _ a b => aluShr st a b⟩,
  ⟨.sar, 0x00A, .dab, fun st _ a b => aluSar st a b⟩,
  ⟨.rot, 0x00B, .dab, fun st _ a b => aluRot st a b⟩,
  ⟨.cmp, 0x00C, .ab, fun st _ a b => aluCmp st a b⟩,
  ⟨.tst, 0x00D, .ab, fun st _ a b => aluTest st (a &&& b)⟩,
  ⟨.mov, 0x00E, .da, fun st _ a _ => aluMove st a⟩,
  ⟨.not, 0x00F, .da, fun st _ a _ => aluLogic st (~~~a)⟩,
  ⟨.neg, 0x010, .da, fun st _ a _ => aluSub st 0 a 0⟩,
  ⟨.abs, 0x011, .da, fun st _ a _ => aluAbs st a⟩,
  ⟨.min, 0x012, .dab, fun st _ a b => aluLogic st (minS a b)⟩,
  ⟨.max, 0x013, .dab, fun st _ a b => aluLogic st (maxS a b)⟩,
  ⟨.minu, 0x014, .dab, fun st _ a b => aluLogic st (minU a b)⟩,
  ⟨.maxu, 0x015, .dab, fun st _ a b => aluLogic st (maxU a b)⟩]

/-- FUSE (R167, R168). -/
def fuseOps : List RegOp := [
  ⟨.bfx, 0x000, .dab, fun st _ a b => fuseBfx st a b⟩,
  ⟨.bfxs, 0x001, .dab, fun st _ a b => fuseBfxs st a b⟩,
  ⟨.bfi, 0x002, .dab, fuseBfi⟩,
  ⟨.psat4, 0x003, .dab, fun st _ a b => fusePsat4 st a b⟩,
  ⟨.wsum4, 0x004, .dab, fun st _ a b => fuseWsum4 st a b⟩,
  ⟨.wsum4u, 0x005, .dab, fun st _ a b => fuseWsum4u st a b⟩,
  ⟨.clzp, 0x006, .da, fun st _ a _ => fuseClzp st a⟩,
  ⟨.crcc, 0x008, .dab, fun st _ a b => fuseCrcc st a b 4⟩,
  ⟨.crcc1, 0x009, .dab, fun st _ a b => fuseCrcc st a b 1⟩,
  ⟨.crcc2, 0x00A, .dab, fun st _ a b => fuseCrcc st a b 2⟩,
  ⟨.crcc3, 0x00B, .dab, fun st _ a b => fuseCrcc st a b 3⟩]

/-- DEC on registers (R128). -/
def decOps : List RegOp := [
  ⟨.dadd, 0x000, .dab, fun st _ a b => decAdd st a b 0⟩,
  ⟨.daddc, 0x001, .dab, fun st _ a b => decAdd st a b (stC st).toNat⟩,
  ⟨.dsub, 0x002, .dab, fun st _ a b => decSub st a b 0⟩,
  ⟨.dsubb, 0x003, .dab, fun st _ a b => decSub st a b (stC st).toNat⟩,
  ⟨.dca, 0x004, .da, fun st _ a _ => decAdjust st a false⟩,
  ⟨.dcs, 0x005, .da, fun st _ a _ => decAdjust st a true⟩,
  ⟨.dshl, 0x006, .dab, fun st _ a b => decShl st a b⟩,
  ⟨.dshr, 0x007, .dab, fun st _ a b => decShr st a b⟩,
  ⟨.dcvb, 0x008, .da, fun st _ a _ => decToBin st a⟩,
  ⟨.dcvd, 0x009, .da, fun st _ a _ => decFromBin st a⟩,
  ⟨.dchk, 0x00A, .da, fun st _ a _ => decCheck st a⟩]

/-- A load: its command, opcode, sz code, bytes, and whether it extends the sign. -/
structure LoadOp where
  cmd : Tid → Word → Instr
  op : Nat
  sz : Nat
  size : Nat
  signed : Bool

/-- LD and LDS (R120). -/
def loadOps : List LoadOp := [⟨.lb, 0x08, 0, 1, false⟩, ⟨.lh, 0x08, 1, 2, false⟩, ⟨.lw, 0x08, 2, 4, false⟩,
  ⟨.lbs, 0x09, 0, 1, true⟩, ⟨.lhs, 0x09, 1, 2, true⟩]

/-- A store: its command, sz code and bytes (R120). -/
structure StoreOp where
  cmd : Tid → Word → Instr
  sz : Nat
  size : Nat

/-- ST (R120). -/
def storeOps : List StoreOp := [⟨.sb, 0, 1⟩, ⟨.sh, 1, 2⟩, ⟨.sw, 2, 4⟩]

/-- An atomic: its command, fn, register fields, and for the old word, W[d] and W[b] the word that it stores and the Z that
it sets, where it does. -/
structure AtomOp where
  cmd : Tid → Word → Instr
  fn : Nat
  fields : Fields
  f : Word → Word → Word → Option Word × Option Bool

/-- ATOM (R121). -/
def atomOps : List AtomOp := [
  ⟨.atomTas, 0x000, .da, fun old _ _ => (some 1, some (old = 0))⟩,
  ⟨.atomCas, 0x001, .dab, fun old d b => (if old = d then some b else none, some (old = d))⟩,
  ⟨.atomAdd, 0x002, .dab, fun old _ b => (some (old + b), none)⟩,
  ⟨.atomSwp, 0x003, .dab, fun _ _ b => (some b, none)⟩]

/-- A helper function: its command, helper type and code. -/
structure HelperFn where
  cmd : QuillId → Fin 8 → Instr
  ty : Nat
  fn : Nat

/-- The functions of the helpers (R175–R178). -/
def helperFns : List HelperFn := [⟨.sort, 0, 0⟩, ⟨.sortd, 0, 1⟩, ⟨.sortki, 0, 2⟩, ⟨.topk, 0, 3⟩, ⟨.msort, 0, 4⟩, ⟨.cc4, 1, 0⟩,
  ⟨.cc8, 1, 1⟩, ⟨.histClear, 2, 0⟩, ⟨.acc, 2, 1⟩, ⟨.accw, 2, 2⟩, ⟨.peak, 2, 3⟩, ⟨.dump, 2, 4⟩, ⟨.h12, 3, 0⟩, ⟨.hashLookup, 3, 1⟩,
  ⟨.hashCrc, 3, 2⟩]

/-- ALUI, SHI, CMPI and MOVI (R117). -/
def immOps : List ImmOp := [
  ⟨.addi, 0x02, 0, .da, true, immS, fun st a i => aluAdd st a i 0⟩,
  ⟨.andi, 0x02, 1, .da, true, immZ, fun st a i => aluLogic st (a &&& i)⟩,
  ⟨.ori, 0x02, 2, .da, true, immZ, fun st a i => aluLogic st (a ||| i)⟩,
  ⟨.xori, 0x02, 3, .da, true, immZ, fun st a i => aluLogic st (a ^^^ i)⟩,
  ⟨.shli, 0x03, 0, .da, true, immZ, aluShl⟩,
  ⟨.shri, 0x03, 1, .da, true, immZ, aluShr⟩,
  ⟨.sari, 0x03, 2, .da, true, immZ, aluSar⟩,
  ⟨.roti, 0x03, 3, .da, true, immZ, aluRot⟩,
  ⟨.cmpi, 0x04, 0, .a, true, immS, aluCmp⟩,
  ⟨.tsti, 0x04, 1, .a, true, immZ, fun st a i => aluTest st (a &&& i)⟩,
  ⟨.cmpui, 0x04, 2, .a, true, immZ, aluCmp⟩,
  ⟨.movi, 0x05, 0, .d, true, immS, fun st _ i => aluMove st i⟩,
  ⟨.movhi, 0x05, 1, .d, false, immZ, fun st _ i => aluMove st (i <<< 18)⟩]

end Sys2Proof.Machine
end

