-- ==== Sys2Proof/Certificates/Slice0/Obligations.lean ====
section
/-! DEFINITION. The statements for the provers: one proposition per obligation. Each docstring names the rules of spec/ that
it formalises. -/

open Sys2Proof Sys2Proof.Machine

/-- R115. Every ALU instruction of `aluOps` that its thread issues without a prefix and that does not trap completes: W[d]
and ST become what the row of R115 gives for ST, W[a] and W[b], the PC moves past the word, every other register of the
thread, every other thread, the memory and every other part of the device are as before (`Beside`).
R117, R131. Every instruction of `immOps` completes without a prefix, or under EXT where it is not MOVHI, when it does
not trap: W[d] and ST become what its row gives for ST, W[a] and the immediate, and nothing else changes (`Beside`). The
immediate is imm sign-extended or zero-extended without EXT, and (hi << 14) | imm under it. -/
def Obligations.AluAndImmediateInstructions : Prop :=
  (∀ e ∈ aluOps, ∀ (t : Tid) (w : Word) (s : State),
  IsF3 0x01 e.fn e.fields w → Issues s t → Bare s t →
  (e.f (thread s t).st (wreg s t (wD w)) (wreg s t (wA w)) (wreg s t (wB w))).trap = none →
  Gives (e.cmd t w) s (fun s' => Beside s s' t ∧ thread s' t = afterAlu s t (wD w)
    (e.f (thread s t).st (wreg s t (wD w)) (wreg s t (wA w)) (wreg s t (wB w)))))
  ∧ ((∀ e ∈ immOps, ∀ (t : Tid) (w : Word) (s : State), IsFI e.op e.sel e.fields w → Issues s t →
    (Bare s t ∨ (e.ext = true ∧ BareOrExt s t)) → (e.f (thread s t).st (wreg s t (wA w)) (e.imm s t w)).trap = none →
    Gives (e.cmd t w) s (fun s' => Beside s s' t ∧ thread s' t = afterAlu s t (wD w)
      (e.f (thread s t).st (wreg s t (wA w)) (e.imm s t w))))
  ∧ (∀ (s : State) (t : Nat) (w : Word), Bare s t →
      immZ s t w = (w &&& 0x3FFF) ∧ immS s t w = ((w &&& 0x3FFF).setWidth 14 : BitVec 14).signExtend 32)
  ∧ (∀ (s : State) (t : Nat) (w : Word) (hi : BitVec 18), (thread s t).pfx = .ext hi →
      immZ s t w = ((hi.setWidth 32) <<< 14 ||| (w &&& 0x3FFF)) ∧ immS s t w = immZ s t w))

/-- R116 and the ADD and SUB rows of R115. For a carry or borrow in of 0 or 1, the sum and the difference wrap to 32 bits; Z and N
follow the result; C is the carry out of bit 31, or the borrow; V is signed overflow and sets vs too; NC bit i is the carry
or borrow out of bits [4i+3:0]; NC bit 7 equals C; every other bit of ST is unchanged, and OVF is taken exactly when V and
ovt are set. No other instruction of the ALU, immediate, fused and decimal groups, and no string comparison, writes NC. -/
def Obligations.AddAndSubtractFlags : Prop := ∀ (st a b : Word) (c : Nat), c ≤ 1 →
  (let o := aluAdd st a b c
   o.d = some (a + b + word c) ∧ stZ o.st = decide (a + b + word c = 0) ∧ stN o.st = (a + b + word c).msb
   ∧ stC o.st = decide (2 ^ 32 ≤ a.toNat + b.toNat + c)
   ∧ stV o.st = decide ((a + b + word c).toInt ≠ a.toInt + b.toInt + c)
   ∧ (∀ i < 8, stNc o.st i = decide (16 ^ (i + 1) ≤ a.toNat % 16 ^ (i + 1) + b.toNat % 16 ^ (i + 1) + c))
   ∧ stNc o.st 7 = stC o.st ∧ stVs o.st = (stVs st || stV o.st)
   ∧ (∀ i, 4 ≤ i → ¬ (8 ≤ i ∧ i ≤ 16) → bit o.st i = bit st i)
   ∧ o.trap = if stV o.st ∧ stOvt st then some 7 else none)
  ∧ (let o := aluSub st a b c
   o.d = some (a - b - word c) ∧ stZ o.st = decide (a - b - word c = 0) ∧ stN o.st = (a - b - word c).msb
   ∧ stC o.st = decide (a.toNat < b.toNat + c)
   ∧ stV o.st = decide ((a - b - word c).toInt ≠ a.toInt - b.toInt - c)
   ∧ (∀ i < 8, stNc o.st i = decide (a.toNat % 16 ^ (i + 1) < b.toNat % 16 ^ (i + 1) + c))
   ∧ stNc o.st 7 = stC o.st ∧ stVs o.st = (stVs st || stV o.st)
   ∧ (∀ i, 4 ≤ i → ¬ (8 ≤ i ∧ i ≤ 16) → bit o.st i = bit st i)
   ∧ o.trap = if stV o.st ∧ stOvt st then some 7 else none)
  ∧ (∀ e ∈ aluOps, e.fn ∉ [0x000, 0x001, 0x002, 0x003, 0x00C, 0x010] → ∀ st d a b, bits (e.f st d a b).st 15 8 = bits st 15 8)
  ∧ (∀ e ∈ immOps, (e.op, e.sel) ∉ [(0x02, 0), (0x04, 0), (0x04, 2)] → ∀ st a i, bits (e.f st a i).st 15 8 = bits st 15 8)
  ∧ (∀ e ∈ fuseOps ++ decOps, ∀ st d a b, bits (e.f st d a b).st 15 8 = bits st 15 8)
  ∧ (∀ st x y, bits (strCmp st x y) 15 8 = bits st 15 8)

/-- R124: the results and C of SHL, SHR, SAR and ROT for a count of 0, of 1 to 31, of 32 and above; NEG and ABS of 0x80000000; division
by 0 and of 0x80000000 by −1; a sum or difference that overflows wraps; what sets V sets vs, and traps OVF or DZ when enabled;
the logical operations, MOV, MIN and MAX leave V. -/
def Obligations.ArithmeticAtTheEdges : Prop :=
  (∀ st a n : Word, n = 0 → (aluShl st a n).d = some a ∧ (aluShr st a n).d = some a ∧ (aluSar st a n).d = some a
    ∧ (aluRot st a n).d = some a ∧ stC (aluShl st a n).st = stC st ∧ stC (aluShr st a n).st = stC st
    ∧ stC (aluSar st a n).st = stC st ∧ stC (aluRot st a n).st = stC st)
  ∧ (∀ st a n : Word, 1 ≤ n.toNat → n.toNat ≤ 31 →
    (aluShl st a n).d = some (a <<< n.toNat) ∧ stC (aluShl st a n).st = bit a (32 - n.toNat)
    ∧ (aluShr st a n).d = some (a >>> n.toNat) ∧ stC (aluShr st a n).st = bit a (n.toNat - 1)
    ∧ (aluSar st a n).d = some (a.sshiftRight n.toNat) ∧ stC (aluSar st a n).st = bit a (n.toNat - 1))
  ∧ (∀ st a n : Word, 32 ≤ n.toNat →
    (aluShl st a n).d = some 0 ∧ stC (aluShl st a n).st = (decide (n.toNat = 32) && bit a 0)
    ∧ (aluShr st a n).d = some 0 ∧ stC (aluShr st a n).st = (decide (n.toNat = 32) && bit a 31)
    ∧ (aluSar st a n).d = some (if bit a 31 then 0xFFFFFFFF else 0) ∧ stC (aluSar st a n).st = bit a 31)
  ∧ (∀ st a n : Word, (aluRot st a n).d = some (a.rotateLeft (n.toNat % 32))
    ∧ stC (aluRot st a n).st = if n.toNat % 32 = 0 then stC st else bit (a.rotateLeft (n.toNat % 32)) 0)
  ∧ (∀ st : Word, ∀ o ∈ [aluSub st 0 0x80000000 0, aluAbs st 0x80000000],
    o.d = some 0x80000000 ∧ stV o.st = true ∧ stVs o.st = true ∧ o.trap = if stOvt st then some 7 else none)
  ∧ (∀ st a : Word, ∀ q ∈ [divSigned st a 0, divUnsigned st a 0], q.qu = 0 ∧ q.rm = a ∧ stDz q.st = true
    ∧ stV q.st = stV st ∧ q.trap = if stDzt st then some 6 else none)
  ∧ (∀ st : Word, let q := divSigned st 0x80000000 0xFFFFFFFF
    q.qu = 0x80000000 ∧ q.rm = 0 ∧ stV q.st = true ∧ stVs q.st = true ∧ q.trap = if stOvt st then some 7 else none)
  ∧ (∀ (st a b : Word) (c : Nat),
    (overflows (a.toInt + b.toInt + c) = true → (aluAdd st a b c).d = some (a + b + word c) ∧ stV (aluAdd st a b c).st = true
      ∧ stVs (aluAdd st a b c).st = true ∧ (aluAdd st a b c).trap = if stOvt st then some 7 else none)
    ∧ (overflows (a.toInt - b.toInt - c) = true → (aluSub st a b c).d = some (a - b - word c) ∧ stV (aluSub st a b c).st = true
      ∧ stVs (aluSub st a b c).st = true ∧ (aluSub st a b c).trap = if stOvt st then some 7 else none))
  ∧ (∀ e ∈ aluOps, e.fn ∈ [0x004, 0x005, 0x006, 0x007, 0x00E, 0x00F, 0x012, 0x013, 0x014, 0x015] → ∀ st d a b,
    stV (e.f st d a b).st = stV st)

/-- R125, R137. An instruction of `aluOps`, `immOps` or `decOps` whose row traps after completion first completes its writes, its flags and its
sticky bits; the trap then enters its handler, with TINFO the PC of the instruction and EPC the PC of the next word, and nothing
else changes (`Beside`). A decimal instruction with an invalid digit takes BCD (0x08) with bct set and does not write d. -/
def Obligations.TrapsAfterCompletion : Prop :=
  (∀ e ∈ aluOps, ∀ (t : Tid) (w : Word) (s : State) (code : Nat), IsF3 0x01 e.fn e.fields w → Issues s t → Bare s t →
    let o := e.f (thread s t).st (wreg s t (wD w)) (wreg s t (wA w)) (wreg s t (wB w))
    o.trap = some code → Enters s t code →
    Gives (e.cmd t w) s (fun s' => Beside s s' t ∧ thread s' t = trapped s t code 0 (word (instrPc s t)) (word (nextPc s t))
      { thread s t with w := (afterAlu s t (wD w) o).w, st := o.st }))
  ∧ (∀ e ∈ immOps, ∀ (t : Tid) (w : Word) (s : State) (code : Nat), IsFI e.op e.sel e.fields w → Issues s t →
    (Bare s t ∨ (e.ext = true ∧ BareOrExt s t)) →
    let o := e.f (thread s t).st (wreg s t (wA w)) (e.imm s t w)
    o.trap = some code → Enters s t code →
    Gives (e.cmd t w) s (fun s' => Beside s s' t ∧ thread s' t = trapped s t code 0 (word (instrPc s t)) (word (nextPc s t))
      { thread s t with w := (afterAlu s t (wD w) o).w, st := o.st }))
  ∧ (∀ e ∈ decOps, ∀ (t : Tid) (w : Word) (s : State) (code : Nat), IsF3 0x07 e.fn e.fields w → Issues s t → Bare s t →
    let o := e.f (thread s t).st (wreg s t (wD w)) (wreg s t (wA w)) (wreg s t (wB w))
    o.trap = some code → Enters s t code →
    Gives (e.cmd t w) s (fun s' => Beside s s' t ∧ (code = 8 → o.d = none)
      ∧ thread s' t = trapped s t code 0 (word (instrPc s t)) (word (nextPc s t))
        { thread s t with w := (afterAlu s t (wD w) o).w, st := o.st }))

/-- R137, with R103, R113, R119, R132 and R135. Trap entry writes EPC, CAUSE and TINFO, sets tl, sets pl to S unless it is M, and puts the PC at
TVEC.base × 0x400 + 0x40 × code; nothing else changes (`Precise`). Taken so: BRK, with x in TINFO; a reserved major opcode, UD
sub-cause 0x00; a register field of 24 to 31 of an ALU instruction, UD 0x02; a nonzero unused field, UD 0x03; EXT or RPT before
an ALU instruction, PREFIX 0x03 or 0x00. -/
def Obligations.PreciseTraps : Prop :=
  (∀ (t : Tid) (w : Word) (s : State), IsFX 0x15 0x03 .none w → Issues s t → Bare s t → Enters s t 9 →
    Gives (.brk t w) s (Precise s t 9 0 (word (wX w))))
  ∧ (∀ (t : Tid) (w : Word) (s : State), wOp w = 0 ∨ wOp w = 0x0F ∨ wOp w = 0x11 ∨ (0x16 ≤ wOp w ∧ wOp w ≤ 0x3D) →
    Issues s t → Enters s t 0 → Gives (.reservedOpcode t w) s (Precise s t 0 0 w))
  ∧ (∀ e ∈ aluOps, ∀ (t : Tid) (w : Word) (s : State), wOp w = 0x01 → wFn w = e.fn → Issues s t →
    (Enters s t 0 → badReg e.fields w = true → Gives (e.cmd t w) s (Precise s t 0 2 w))
    ∧ (Enters s t 0 → badReg e.fields w = false → badUnused e.fields true w = true → Gives (e.cmd t w) s (Precise s t 0 3 w))
    ∧ (Enters s t 5 → FieldsOk e.fields true w → (∃ hi, (thread s t).pfx = .ext hi) → Gives (e.cmd t w) s (Precise s t 5 3 w))
    ∧ (Enters s t 5 → FieldsOk e.fields true w → (∃ dir, (thread s t).pfx = .rpt dir) → Gives (e.cmd t w) s (Precise s t 5 0 w)))

/-- R138, R161, R162, R166. A BRK of a thread 1 to 7 of a Nib becomes a fault when TVEC.en is 0, tl is 1 or the fetch at the vector
fails: no handler is entered; the thread parks with its registers and PC as they were; the newest notice held for CH31 of its Nib is the FAULT record of R161;
NIB source 0x00 is recorded; memory and every other thread are as before. That CAUSE, EPC and TINFO of the record are what trap entry would
have written is DEDUCED (log entry 25). -/
def Obligations.ThreadFaults : Prop := ∀ (t : Tid) (w : Word) (s : State), t.val < 1024 → idxOf t ≠ 0 →
  IsFX 0x15 0x03 .none w → Issues s t → Bare s t → ¬ Enters s t 9 →
  Gives (.brk t w) s (fun s' =>
    thread s' t = { thread s t with state := .parked, waitPort := none, load := none }
    ∧ (∀ u, u ≠ t.val → thread s' u = thread s u) ∧ (∀ k, k < 0xFFF8000 → rd s' k = rd s k)
    ∧ (nib s' (nibOf t)).notices.getLast? = some [word (2 ^ 24 + t % 1024), causeFor (thread s t) 9 0,
        word (thread s t).pc.toNat, word (wX w), spsNow s, (thread s t).st, word (thread s t).pc.toNat, 0]
    ∧ flag s' (Reg.PG_ERR_STICKY (Reg.nibPage (nibOf t))) 0 = true)

/-- R118, R119, R139. BR goes to its own PC plus 4 × sext(offset) modulo 2^16 when its condition holds and to the next word otherwise, and with
link at 1 writes W23 ← PC + 4 either way; JR and JALR go to W[a][15:0], a word address, and JALR writes d ← PC + 4; RTE goes to
EPC, sets pl to CAUSE.pp and clears tl, in a handler above U and not to M on another Nib than the Steward. Nothing else changes
(`Beside`). JR and JALR to an address that is no word trap ALIGN with the target in TINFO; RTE with tl at 0 traps UD 0x01. -/
def Obligations.BranchesAndReturns : Prop := ∀ (t : Tid) (w : Word) (s : State), Issues s t → Bare s t →
  (wOp w = 0x10 → wCond w ≠ 15 → bit w 20 = false →
    Gives (.br t w) s (fun s' => Beside s s' t ∧ thread s' t =
      { (if wLink w then withW (thread s t) 23 (((thread s t).pc + 4).setWidth 32) else thread s t) with
        pc := if condHolds (wCond w) (thread s t).st then (thread s t).pc + (4 * sext 20 (wOff w)).setWidth 16 else (thread s t).pc + 4
        pfx := .none }))
  ∧ (wX w = 0 → bits (wreg s t (wA w)) 1 0 = 0 →
    (IsFX 0x15 0x01 .a w → Gives (.jr t w) s (fun s' => Beside s s' t
      ∧ thread s' t = { thread s t with pc := (wreg s t (wA w)).setWidth 16, pfx := .none }))
    ∧ (IsFX 0x15 0x02 .da w → Gives (.jalr t w) s (fun s' => Beside s s' t
      ∧ thread s' t = { withW (thread s t) (wD w) (((thread s t).pc + 4).setWidth 32) with
          pc := (wreg s t (wA w)).setWidth 16, pfx := .none })))
  ∧ (wX w = 0 → bits (wreg s t (wA w)) 1 0 ≠ 0 → Enters s t 2 →
    (IsFX 0x15 0x01 .a w → Gives (.jr t w) s (Precise s t 2 0 ((wreg s t (wA w)) &&& 0xFFFF)))
    ∧ (IsFX 0x15 0x02 .da w → Gives (.jalr t w) s (Precise s t 2 0 ((wreg s t (wA w)) &&& 0xFFFF))))
  ∧ (wX w = 0 → IsFX 0x15 0x04 .none w →
    (stTl (thread s t).st = true → level s t ≠ 0 → (bits (thread s t).cause 21 20 ≠ 3 ∨ 1024 ≤ t.val) →
      Gives (.rte t w) s (fun s' => Beside s s' t ∧ thread s' t = { thread s t with
        pc := (thread s t).epc.setWidth 16, pfx := .none
        st := setBits (setBit (thread s t).st 29 false) 31 30 (bits (thread s t).cause 21 20) }))
    ∧ (stTl (thread s t).st = false → Enters s t 0 → Gives (.rte t w) s (Precise s t 0 1 w)))

/-- R105, R109, R119, R127. NOP and IFENCE have no effect but on the PC; MWAIT completes when no product or quotient write is pending, FENCE
when every posted store has been written; CLC and SEC set C; IST writes the word of its own I-space at a word address and ILD reads one, at S and M;
MFS writes d with the special register, and sets er when a write to it is pending; MTS writes the fields of a special register
that take writes. Each moves the PC past its word and leaves everything else as it was (`Completes`, `CompletesMem`). -/
def Obligations.SystemAndSpecialRegisters : Prop := ∀ (t : Tid) (w : Word) (s : State), Issues s t → Bare s t →
  (wX w = 0 →
    (IsFX 0x15 0x00 .none w → Gives (.nop t w) s (Completes s t (thread s t)))
    ∧ (IsFX 0x15 0x05 .none w → (thread s t).products = [] → (thread s t).quotients = [] →
        Gives (.mwait t w) s (Completes s t (thread s t)))
    ∧ (IsFX 0x15 0x06 .none w → (thread s t).stbuf = [] → Gives (.fence t w) s (Completes s t (thread s t)))
    ∧ (IsFX 0x15 0x07 .none w → Gives (.ifence t w) s (Completes s t (thread s t)))
    ∧ (IsFX 0x15 0x0A .none w → Gives (.clc t w) s (Completes s t { thread s t with st := setBit (thread s t).st 2 false }))
    ∧ (IsFX 0x15 0x0B .none w → Gives (.sec t w) s (Completes s t { thread s t with st := setBit (thread s t).st 2 true }))
    ∧ (IsFX 0x15 0x08 .da w → level s t ≠ 0 → bits (wreg s t (wA w)) 1 0 = 0 →
        Gives (.ist t w) s (fun s' => CompletesMem s t (thread s t) s'
          ∧ StoredAt s s' (ispace (nibOf t) + bits (wreg s t (wA w)) 15 0) (leBytes 4 (wreg s t (wD w)).toNat)))
    ∧ (IsFX 0x15 0x09 .da w → level s t ≠ 0 → bits (wreg s t (wA w)) 1 0 = 0 →
        badAt s (ispace (nibOf t) + bits (wreg s t (wA w)) 15 0) = false →
        Gives (.ild t w) s (Completes s t
          (withW (thread s t) (wD w) (rdWord s (ispace (nibOf t) + bits (wreg s t (wA w)) 15 0))))))
  ∧ (IsFX 0x14 0x00 .d w → sprKnown (wX w) = true → (sprPriv (wX w) = true → level s t ≠ 0) →
      Gives (.mfs t w) s (Completes s t { withW (thread s t) (wD w) (sprRead s t (wX w)) with
        st := if sprPending s t (wX w) then setBit (thread s t).st 19 true else (thread s t).st }))
  ∧ (IsFX 0x14 0x01 .a w → let v := wreg s t (wA w); let th := thread s t
      ∀ e ∈ [(0x00, { th with st := (th.st &&& ~~~stWritable) ||| (v &&& stWritable) }), (0x01, { th with cnt := v }),
        (0x02, { th with ph := v }), (0x03, { th with pl := v }), (0x04, { th with qu := v }), (0x05, { th with rm := v }),
        (0x08, { th with epc := v &&& 0xFFFF }), (0x09, { th with cause := v &&& causeWritable }), (0x0A, { th with tinfo := v }),
        (0x11, { th with pageSel := v &&& 0x3FFF })],
      wX w = e.1 → (sprPriv e.1 = true → level s t ≠ 0) → Gives (.mts t w) s (Completes s t e.2))
  ∧ (IsFX 0x14 0x01 .a w → wX w = 0x10 → level s t ≠ 0 →
      Gives (.mts t w) s (fun s' => (nib s' (nibOf t)).tvec = wreg s t (wA w) &&& tvecWritable
        ∧ thread s' t = { thread s t with pc := pcAfter s t, pfx := .none } ∧ (∀ u, u ≠ t.val → thread s' u = thread s u)
        ∧ (∀ k, rd s' k = rd s k)))

/-- R107, R108, R109, R120, R143. A load whose address a + sext(disp) is aligned, in the thread's own local data and not watched
completes with d the loaded bytes, its own posted stores over memory, extended as its row says. A load that a window or the shared range answers leaves
the thread with the load outstanding, which then issues nothing; LOAD_DATA_RETURN completes it with d the bytes read, or traps CHKERR with
d unwritten when the word is uncorrectable. A misaligned address traps ALIGN, one that is not allowed DACC. -/
def Obligations.Loads : Prop := (∀ e ∈ loadOps, ∀ (t : Tid) (w : Word) (s : State), IsFI e.op e.sz .da w → Issues s t →
  BareOrExt s t →
  let a := effAddr s t w
  (LocalAt s t a e.size true false → LocalGood s t a →
    Gives (e.cmd t w) s (Completes s t
      (withW (thread s t) (wD w) (loadExtend e.signed e.size (loadValue s t (localData (nibOf t) + a) e.size)))))
  ∧ (∀ k, a % e.size = 0 → route s t a false = some k → isLocal (nibOf t) k = false → watched s t a true false = false →
    dramRoom s k = true →
    Gives (e.cmd t w) s (fun s' => canIssue s' t = false ∧ (thread s' t).w = (thread s t).w ∧ (thread s' t).pc = (thread s t).pc
      ∧ ∃ l, (thread s' t).load = some l ∧ l.addr = a ∧ l.key = k ∧ l.size = e.size ∧ l.signed = e.signed ∧ l.d = wD w
        ∧ (k < 0xFFF8000 → l.value = loadValue s t k e.size)))
  ∧ (a % e.size ≠ 0 → Enters s t 2 → Gives (e.cmd t w) s (Precise s t 2 0 (word a)))
  ∧ (a % e.size = 0 → 0x20000 ≤ a → a < 0x10000000 → Enters s t 3 → Gives (e.cmd t w) s (Precise s t 3 0 (word a))))
  ∧ (∀ (t : Tid) (s : State) (l : PendingLoad), (thread s t).load = some l → (thread s t).stepping = false → loadWaiting s t l = false →
    (l.bad = false → Gives (.loadDataReturn t) s (Completes s t
      { withW (thread s t) l.d (loadExtend l.signed l.size l.value) with load := none }))
    ∧ (l.bad = true → Enters s t 0x0A → Gives (.loadDataReturn t) s (Precise s t 0x0A 0 (wordAddr l.addr))))

/-- R107, R108, R120, R143. A store to an aligned, allowed and unwatched address a + sext(disp) completes when the thread's store buffer has
fewer than 4 entries: the low bytes of W[d] are posted behind the earlier stores; memory and every other register are as before. STORE_BUFFER_DRAIN
writes the oldest posted store: of local data of the thread's Nib exactly its bytes change, and the entry leaves the buffer; elsewhere below the stores of
the Ductus likewise, every other byte of memory as before. -/
def Obligations.Stores : Prop := (∀ e ∈ storeOps, ∀ (t : Tid) (w : Word) (s : State) (k : Nat), IsFI 0x0A e.sz .da w →
  Issues s t → BareOrExt s t →
  effAddr s t w % e.size = 0 → route s t (effAddr s t w) true = some k → watched s t (effAddr s t w) false true = false →
  (thread s t).stbuf.length < 4 →
  Gives (e.cmd t w) s (Completes s t { thread s t with
    stbuf := (thread s t).stbuf ++ [{ key := k, data := leBytes e.size (wreg s t (wD w)).toNat,
                                      home := if k < dramBase then none else memKey s k }] }))
  ∧ (∀ (t : Tid) (s : State) (e : PostedStore) (r : List PostedStore), (thread s t).stbuf = e :: r → e.home = none →
    e.key < dramBase → e.key + e.data.length ≤ dramBase → ¬ (0xF800000 ≤ e.key ∧ e.key < 0x10000000) →
    (∀ i < e.data.length, ¬ (0xFFF8000 ≤ e.key + i ∧ e.key + i < 0x10000000)) →
    (isLocal (nibOf t) e.key = true ∨ NoArm s Reg.blotterPage 6) →
    Gives (.storeBufferDrain t) s (fun s' => StoredAt s s' e.key e.data
      ∧ thread s' t = { thread s t with stbuf := r } ∧ (∀ u, u ≠ t.val → thread s' u = thread s u)
      ∧ (∀ a, reg s' a = reg s a)))

/-- R108, R109, R121. An atomic on an aligned word of its own local data that is not watched and reads good, when every posted store of the thread
has been written, writes d with the old word, stores what its row stores (TAS 1, CAS W[b] when the old word equals W[d], ADD old + W[b],
SWP W[b]) and sets Z where its row does; no other byte and no other part of the thread changes.
R122, R133. Without a prefix, on aligned words of local data that are not watched and read good: WCPY posts mem[a] to mem[d] and steps d and a by 4; WFIL
posts W[b] to mem[d] and steps d; WCMP and WSRCH set Z, N, C and V as CMP of mem[d] and mem[a], leave NC, and step d and a. Under RPT with CNT at 0 no
iteration runs: the unit completes with flags and registers unchanged; with CNT above 1 one iteration of WFIL steps d by the prefix's
step, counts CNT down and keeps the PC at the prefix. -/
def Obligations.AtomicsAndStrings : Prop :=
  (∀ e ∈ atomOps, ∀ (t : Tid) (w : Word) (s : State), IsF3 0x0B e.fn e.fields w → Issues s t →
  Bare s t → (thread s t).stbuf = [] → LocalAt s t (wreg s t (wA w)).toNat 4 false true → LocalGood s t (wreg s t (wA w)).toNat →
  let k := localData (nibOf t) + (wreg s t (wA w)).toNat
  let old := rdWord s k
  let o := e.f old (wreg s t (wD w)) (wreg s t (wB w))
  Gives (e.cmd t w) s (fun s' =>
    CompletesMem s t { withW (thread s t) (wD w) old with
      st := match o.2 with | some z => setBit (thread s t).st 0 z | none => (thread s t).st } s'
    ∧ match o.1 with
      | some v => StoredAt s s' k (leBytes 4 v.toNat)
      | none => ∀ j, rd s' j = rd s j))
  ∧ ((∀ (t : Tid) (w : Word) (s : State), Issues s t → Bare s t →
  let th := thread s t
  let d := wreg s t (wD w)
  let a := wreg s t (wA w)
  let base := localData (nibOf t)
  (IsF3 0x0C 0x000 .da w → wD w ≠ wA w → LocalAt s t a.toNat 4 true false → LocalGood s t a.toNat → LocalAt s t d.toNat 4 false true →
    th.stbuf.length < 4 →
    Gives (.wcpy t w) s (Completes s t { withW (withW th (wD w) (d + 4)) (wA w) (a + 4) with
      stbuf := th.stbuf ++ [{ key := base + d.toNat, data := leBytes 4 (loadValue s t (base + a.toNat) 4) }] }))
  ∧ (IsF3 0x0C 0x001 .db w → LocalAt s t d.toNat 4 false true → th.stbuf.length < 4 →
    Gives (.wfil t w) s (Completes s t { withW th (wD w) (d + 4) with
      stbuf := th.stbuf ++ [{ key := base + d.toNat, data := leBytes 4 (wreg s t (wB w)).toNat }] }))
  ∧ (∀ c ∈ [(Instr.wcmp t w, 0x002), (Instr.wsrch t w, 0x003)], IsF3 0x0C c.2 .da w → wD w ≠ wA w →
    LocalAt s t d.toNat 4 true false → LocalGood s t d.toNat → LocalAt s t a.toNat 4 true false → LocalGood s t a.toNat →
    Gives c.1 s (Completes s t { withW (withW th (wD w) (d + 4)) (wA w) (a + 4) with
      st := strCmp th.st (word (loadValue s t (base + d.toNat) 4)) (word (loadValue s t (base + a.toNat) 4)) })))
  ∧ (∀ (t : Tid) (w : Word) (s : State) (dir : Bool), Issues s t → (thread s t).pfx = .rpt dir → IsF3 0x0C 0x001 .db w →
    ((thread s t).cnt = 0 → Gives (.wfil t w) s (Completes s t (thread s t)))
    ∧ (1 < (thread s t).cnt.toNat → LocalAt s t (wreg s t (wD w)).toNat 4 false true → (thread s t).stbuf.length < 4 →
      Gives (.wfil t w) s (fun s' => Beside s s' t ∧ thread s' t = { withW (thread s t) (wD w)
          (wreg s t (wD w) + (if dir then 0xFFFFFFFC else 4)) with
        cnt := (thread s t).cnt - 1,
        stbuf := (thread s t).stbuf ++
          [⟨localData (nibOf t) + (wreg s t (wD w)).toNat, leBytes 4 (wreg s t (wB w)).toNat, none⟩] }))))

/-- R124, R126, R127. MULS, MULU and MACS put the 64-bit product behind the thread's pending product writes, MACS added to what every earlier product
operation leaves; DIVS and DIVU that do not trap put quotient and remainder behind the pending quotient writes and set V, vs and dz at issue; PH, PL, QU and RM keep their contents
until PRODUCT_LAND and QUOTIENT_LAND move the oldest pending result into them. Nothing else changes. -/
def Obligations.ProductsAndQuotients : Prop := (∀ (t : Tid) (w : Word) (s : State), Issues s t → Bare s t →
  let th := thread s t
  let a := wreg s t (wA w)
  let b := wreg s t (wB w)
  (IsF3 0x06 0x000 .ab w → Gives (.muls t w) s (Completes s t { th with products := th.products ++ [BitVec.ofInt 64 (a.toInt * b.toInt)] }))
  ∧ (IsF3 0x06 0x001 .ab w → Gives (.mulu t w) s (Completes s t { th with products := th.products ++ [BitVec.ofNat 64 (a.toNat * b.toNat)] }))
  ∧ (IsF3 0x06 0x002 .ab w → Gives (.macs t w) s (Completes s t { th with
      products := th.products ++ [(th.products.getLast?).getD (th.ph ++ th.pl) + BitVec.ofInt 64 (a.toInt * b.toInt)] }))
  ∧ (∀ c ∈ [(Instr.divs t w, 0x004, divSigned th.st a b), (Instr.divu t w, 0x005, divUnsigned th.st a b)],
    IsF3 0x06 c.2.1 .ab w → c.2.2.trap = none →
    Gives c.1 s (Completes s t { th with st := c.2.2.st, quotients := th.quotients ++ [(c.2.2.qu, c.2.2.rm)] })
    ∧ (b ≠ 0 → c.2.1 = 0x005 → c.2.2.qu.toNat = a.toNat / b.toNat ∧ c.2.2.rm.toNat = a.toNat % b.toNat)
    ∧ (b ≠ 0 → c.2.1 = 0x004 → ¬ (a = 0x80000000 ∧ b = 0xFFFFFFFF) → c.2.2.qu.toInt = a.toInt.tdiv b.toInt
      ∧ c.2.2.rm = a - c.2.2.qu * b)))
  ∧ (∀ (t : Tid) (s : State),
    (∀ p r, (thread s t).products = p :: r → exec (.productLand t) s = .next (setThread s t { thread s t with
      products := r, ph := p.extractLsb 63 32, pl := p.extractLsb 31 0 }))
    ∧ (∀ q m r, (thread s t).quotients = (q, m) :: r → exec (.quotientLand t) s = .next (setThread s t { thread s t with
      quotients := r, qu := q, rm := m })))

/-- R128. Every decimal instruction of `decOps` without a prefix that does not trap completes with d and ST what its row gives and nothing else changed. Of two
valid words, DADD and DADDC give the packed sum mod 100,000,000 with C the decimal carry, DSUB and DSUBB the ten's complement difference with C
the borrow, Z from the result and N and V 0; an invalid digit leaves d and every flag, and sets bi. DCVB and DCVD convert between packed digits and
binary. -/
def Obligations.PackedDecimal : Prop :=
  (∀ e ∈ decOps, ∀ (t : Tid) (w : Word) (s : State), IsF3 0x07 e.fn e.fields w → Issues s t → Bare s t →
    (e.f (thread s t).st (wreg s t (wD w)) (wreg s t (wA w)) (wreg s t (wB w))).trap = none →
    Gives (e.cmd t w) s (fun s' => Beside s s' t ∧ thread s' t = afterAlu s t (wD w)
      (e.f (thread s t).st (wreg s t (wD w)) (wreg s t (wA w)) (wreg s t (wB w)))))
  ∧ (∀ (st a b : Word) (c : Nat), c ≤ 1 → decOk a = true → decOk b = true →
    (∃ r, (decAdd st a b c).d = some r ∧ decOk r = true ∧ decVal r = (decVal a + decVal b + c) % 100000000
      ∧ stC (decAdd st a b c).st = decide (100000000 ≤ decVal a + decVal b + c) ∧ stZ (decAdd st a b c).st = decide (r = 0)
      ∧ stN (decAdd st a b c).st = false ∧ stV (decAdd st a b c).st = false)
    ∧ (∃ r, (decSub st a b c).d = some r ∧ decOk r = true
      ∧ (decVal r + decVal b + c) % 100000000 = decVal a % 100000000
      ∧ stC (decSub st a b c).st = decide (decVal a < decVal b + c) ∧ stZ (decSub st a b c).st = decide (r = 0)
      ∧ stN (decSub st a b c).st = false ∧ stV (decSub st a b c).st = false))
  ∧ (∀ (st a b : Word) (c : Nat), decOk a = false ∨ decOk b = false → ∀ o ∈ [decAdd st a b c, decSub st a b c],
    o.d = none ∧ o.st = setBit st 18 true ∧ o.trap = if stBct st then some 8 else none)
  ∧ (∀ st a : Word, decOk a = true → ∃ r, (decToBin st a).d = some r ∧ r.toNat = decVal a ∧ (decFromBin st r).d = some a)

/-- R129. For any two words of valid digits and a carry or borrow in of 0 or 1, correcting the binary sum with the NC bits that it left gives the word
and the Z, C, N and V of the decimal sum, and likewise for the difference; NC is as the binary operation left it. The digits, the carry and the stored
nibbles are those of adjust(x, nc, sub) in R129: nibble i of the result is t mod 16, k the carry into the next. -/
def Obligations.DecimalCorrection : Prop :=
  (∀ (st a b : Word) (c : Nat), c ≤ 1 → decOk a = true → decOk b = true →
    (let x := aluAdd st a b c; let o := decAdjust x.st (a + b + word c) false; let y := decAdd st a b c
     o.d = y.d ∧ stZ o.st = stZ y.st ∧ stC o.st = stC y.st ∧ stN o.st = stN y.st ∧ stV o.st = stV y.st
       ∧ bits o.st 15 8 = bits x.st 15 8)
    ∧ (let x := aluSub st a b c; let o := decAdjust x.st (a - b - word c) true; let y := decSub st a b c
     o.d = y.d ∧ stZ o.st = stZ y.st ∧ stC o.st = stC y.st ∧ stN o.st = stN y.st ∧ stV o.st = stV y.st
       ∧ bits o.st 15 8 = bits x.st 15 8))
  ∧ (∀ (st x : Word) (sub : Bool), ∃ k : Nat → Nat, ∃ r : Word, k 0 = 0 ∧ (decAdjust st x sub).d = some r
    ∧ stC (decAdjust st x sub).st = decide (k 8 = 1)
    ∧ ∀ i < 8, let prev : Int := if i = 0 then 0 else (stNc st (i - 1)).toNat
      let t : Int := if sub then (digit x i : Int) - 16 * (stNc st i).toNat + prev - k i
        else (digit x i : Int) + 16 * (stNc st i).toNat - prev + k i
      let out := if sub then decide (t < 0) else decide (10 ≤ t)
      k (i + 1) = out.toNat ∧ (digit r i : Int) = (t + (if out then (if sub then 10 else -10) else 0)) % 16)

/-- R130, R167, R168, R182. EXT and RPT leave their value waiting for the next word, the PC at the prefix and everything else unchanged; a prefix after
a prefix traps PREFIX 0x04. A fused operation of `fuseOps` completes when its class is enabled at the thread's level in HLP_EN, with d and ST what
its row gives and nothing else changed, and traps UD 0x04 when it is disabled. -/
def Obligations.PrefixesAndFusedOperations : Prop :=
  (∀ (t : Tid) (w : Word) (s : State), Issues s t → Bare s t →
    (wOp w = 0x3E → bits w 25 24 ≤ 1 → bits w 23 0 = 0 →
      exec (.rpt t w) s = .next (setThread s t { thread s t with pfx := .rpt (decide (bits w 25 24 = 1)), rptPort := none }))
    ∧ (wOp w = 0x3F → bits w 25 18 = 0 →
      exec (.ext t w) s = .next (setThread s t { thread s t with pfx := .ext (w.setWidth 18), rptPort := none })))
  ∧ (∀ (t : Tid) (w : Word) (s : State) (hi : BitVec 18), Issues s t → (thread s t).pfx = .ext hi → Enters s t 5 →
    wOp w = 0x3F → bits w 25 18 = 0 → Gives (.ext t w) s (Precise s t 5 4 w))
  ∧ (∀ e ∈ fuseOps, ∀ (t : Tid) (w : Word) (s : State), IsF3 0x12 e.fn e.fields w → Issues s t → Bare s t →
    (hlpClassOn s t 0 = true → Gives (e.cmd t w) s (fun s' => Beside s s' t ∧ thread s' t = afterAlu s t (wD w)
      (e.f (thread s t).st (wreg s t (wD w)) (wreg s t (wA w)) (wreg s t (wB w)))))
    ∧ (hlpClassOn s t 0 = false → Enters s t 0 → Gives (e.cmd t w) s (Precise s t 0 4 w)))

/-- R170, R172, R173, R179, R181–R183. For a thread of a Nib whose class is enabled: MTH writes one half of H[h] of its Nib's context set with W[a]; MFH writes d with a half; HSTAT writes d with the status
word; HOP with a known code, fewer than two operations queued and ranges that pass their checks queues the function with a copy of H0 to H15, the parameter
W[a] and the next tag mod 256, and writes d with the tag; HWAIT on an idle set returns the status word and otherwise blocks. Other context sets and everything
else are unchanged. A HOP with an unknown code or two operations queued traps UD 0x0C, counts HP_REFUSED and queues nothing. -/
def Obligations.HelperInstructions : Prop := ∀ (t : Tid) (w : Word) (s : State), t.val < 1024 → Issues s t → Bare s t →
  let q := quillOf t
  let ty := hlpType w
  let c := ctx s q ty (nibIn t)
  let i := bits w 3 0
  let k := bits w 4 4
  let go := { thread s t with pc := pcAfter s t, pfx := .none }
  (hlpClassOn s t (1 + ty) = true →
    (IsFX 0x13 0x00 .a w → bit w 5 = false → Gives (.mth t w) s (fun s' =>
      CtxAt s s' q ty (nibIn t) { c with h := Tbl.set (fun _ => 0) c.h i (setBits (hReg c.h i) (32 * k + 31) (32 * k) (wreg s t (wA w)).toNat) }
      ∧ Beside { s with ctxs := s'.ctxs } s' t ∧ thread s' t = go))
    ∧ (IsFX 0x13 0x01 .d w → bit w 5 = false → Gives (.mfh t w) s (Completes s t
      (withW (thread s t) (wD w) (if k = 0 then (hReg c.h i).extractLsb 31 0 else (hReg c.h i).extractLsb 63 32))))
    ∧ (IsFX 0x13 0x03 .d w → bits w 5 0 = 0 → Gives (.hstat t w) s (Completes s t (withW (thread s t) (wD w) (ctxStat c))))
    ∧ (IsFX 0x13 0x02 .da w → bits w 4 0 < fnCount ty → c.queue.length < 2 → starts s (Reg.helperPage q ty) = true →
      (∀ ra rn wa wn al, fnRanges ty (bits w 4 0) (wreg s t (wA w)) c.h = ((ra, rn), (wa, wn), al) → rangeTrap s t ra rn wa wn al = none) →
      Gives (.hop t w) s (fun s' => ∃ o : HelperOp, o.fn = bits w 4 0 ∧ o.param = wreg s t (wA w) ∧ o.tag = (c.tags + 1) % 256
        ∧ o.notify = bit w 5 ∧ o.tid = t ∧ o.h = c.h ∧ o.pid = tidPid s t ∧ o.epoch = partEpoch s (tidPid s t)
        ∧ CtxAt s s' q ty (nibIn t) { c with queue := c.queue ++ [o], tags := (c.tags + 1) % 256 }
        ∧ Beside { s with ctxs := s'.ctxs } s' t ∧ thread s' t = withW go (wD w) (word ((c.tags + 1) % 256))))
    ∧ (IsFX 0x13 0x02 .da w → fnCount ty ≤ bits w 4 0 ∨ 2 ≤ c.queue.length → Enters s t 0 →
      Gives (.hop t w) s (fun s' => thread s' t = trapped s t 0 0x0C w (word (thread s t).pc.toNat) (thread s t) ∧ s'.ctxs = s.ctxs
        ∧ reg s' (Reg.HP_REFUSED q ty) = reg s (Reg.HP_REFUSED q ty) + 1)))
  ∧ (∀ h < 4, IsIn s t w (0x200 + h) →
    (ctxIdle (ctx s q h (nibIn t)) = true →
      Gives (.hwait t w) s (Completes s t (tookIn (thread s t) (wD w) (.plain (ctxStat (ctx s q h (nibIn t)))))))
    ∧ (ctxIdle (ctx s q h (nibIn t)) = false → Gives (.hwait t w) s (Blocks s t w (0x200 + h))))

/-- R170, R173, R174, R180, R185, R333. Each helper function starts on the operation at the head of a context set whose turn it is while the helper runs nothing: the
operation leaves the queue and runs with the result that its function gives for its copy of the registers and the words that it reads. HELPER_COMPLETE of an
operation of the partition's epoch writes its result registers and bins and the status word, ends the operation, counts HP_OPS, and with notify writes the completion message to CH2 of the Nib, or holds it when CH2 is
full; of an old epoch it writes no register and counts HP_STALE, and of a fenced Nib it writes none and sends none (R333). HELPER_MESSAGE_RELEASE writes a held message once CH2 has room.
R171, R175, R177. SORT and SORTD leave keys 0 to n − 1 a permutation of what they were, rising or falling, and keys n to 63 as they were; TOPK leaves the k largest keys
first, falling, and the rest of the n keys 0; each returns n or k with status OK, and is REFUSED with no result outside its range. ACC adds 1 to the bin of
each key and ACCW the weight of key j + 32, saturating; CLEAR makes every bin 0; PEAK finds the fullest bin, the lowest on ties. -/
def Obligations.HelperOperations : Prop :=
  ((∀ e ∈ helperFns, ∀ (q : QuillId) (n : Fin 8) (s : State) (o : HelperOp) (rest : List HelperOp),
    (ctx s q e.ty n).queue = o :: rest → o.fn = e.fn → helperBusy s q e.ty = false → helperTurn s q e.ty = some n.val →
    pageOn s (Reg.helperPage q e.ty) = true → Uninjected s → (∀ k ∈ o.rds, k < dramBase ∧ badAt s (k - k % 4) = false) →
    Gives (e.cmd q n) s (fun s' =>
      CtxAt s s' q e.ty n { ctx s q e.ty n with queue := rest, running := some (o, (runFunction s e.ty o (ctx s q e.ty n).bins).1) }
      ∧ ((e.ty, e.fn) ≠ (3, 1) → s' = { s with ctxs := s'.ctxs, ctxServed := s'.ctxServed, perf := s'.perf })))
  ∧ (∀ (q : QuillId) (ty : Fin 4) (n : Fin 8) (s : State) (o : HelperOp) (r : HelperResult), (ctx s q ty n).running = some (o, r) →
    let c := ctx s q ty n
    let msg := completionMsg ty n o r
    (o.epoch = partEpoch s o.pid → c.clearAfter = false → (nib s (8 * q + n)).fenced = false →
      Gives (.helperComplete q ty n) s (fun s' =>
        CtxAt s s' q ty n { c with h := landRegs c.h r.h, last := (o.tag, o.fn, r.status), bins := r.bins.getD c.bins, running := none,
                                   held := if o.notify = true ∧ chanRoom s (8 * q + n) 2 = false then some msg else c.held }
        ∧ reg s' (Reg.HP_OPS q ty) = reg s (Reg.HP_OPS q ty) + 1
        ∧ (o.notify = true → chanRoom s (8 * q + n) 2 = true → (chan s (8 * q + n) 2).readers = [] →
            (chan s' (8 * q + n) 2).msgs = (chan s (8 * q + n) 2).msgs ++ [msg])))
    ∧ (o.epoch = partEpoch s o.pid → c.clearAfter = false → (nib s (8 * q + n)).fenced = true →
      Gives (.helperComplete q ty n) s (fun s' => CtxAt s s' q ty n { c with running := none } ∧ s'.chans = s.chans))
    ∧ (o.epoch ≠ partEpoch s o.pid → c.clearAfter = false →
      Gives (.helperComplete q ty n) s (fun s' => CtxAt s s' q ty n { c with running := none }
        ∧ reg s' (Reg.HP_STALE q ty) = reg s (Reg.HP_STALE q ty) + 1)))
  ∧ (∀ (q : QuillId) (ty : Fin 4) (n : Fin 8) (s : State) (m : List Word), (ctx s q ty n).held = some m → chanRoom s (8 * q + n) 2 = true →
    (nib s (8 * q + n)).fenced = false → (chan s (8 * q + n) 2).readers = [] →
    Gives (.helperMessageRelease q ty n) s (fun s' => CtxAt s s' q ty n { ctx s q ty n with held := none }
      ∧ (chan s' (8 * q + n) 2).msgs = (chan s (8 * q + n) 2).msgs ++ [m] ∧ s' = { s with ctxs := s'.ctxs, chans := s'.chans })))
  ∧ ((∀ (s : State) (o : HelperOp) (b : Tbl Word), let n := bits o.param 6 0
    let after := fun (r : HelperResult) (j : Nat) => keyLane (landRegs o.h r.h) j
    (1 ≤ n → n ≤ 64 →
      (o.fn = 0 → let r := (runFunction s 0 o b).1
        r.status = stOk ∧ r.r = word n ∧ ((List.range n).map (after r)).Perm ((List.range n).map (keyLane o.h))
        ∧ (∀ i j, i ≤ j → j < n → after r i ≤ after r j) ∧ ∀ j, n ≤ j → j < 64 → after r j = keyLane o.h j)
      ∧ (o.fn = 1 → let r := (runFunction s 0 o b).1
        r.status = stOk ∧ r.r = word n ∧ ((List.range n).map (after r)).Perm ((List.range n).map (keyLane o.h))
        ∧ (∀ i j, i ≤ j → j < n → after r j ≤ after r i) ∧ ∀ j, n ≤ j → j < 64 → after r j = keyLane o.h j)
      ∧ (∀ k, o.fn = 3 → k = bits o.param 14 8 → 1 ≤ k → k ≤ n → let r := (runFunction s 0 o b).1
        r.status = stOk ∧ r.r = word k
        ∧ (List.range n).map (after r)
            = (((List.range n).map (keyLane o.h)).mergeSort (fun x y => decide (y ≤ x))).take k ++ List.replicate (n - k) 0))
    ∧ (n = 0 ∨ 64 < n → ∀ f < 3, o.fn = f → (runFunction s 0 o b).1 = failed stRefused))
  ∧ (∀ (s : State) (o : HelperOp) (b : Tbl Word),
    (o.fn = 0 → ∃ b', (runFunction s 2 o b).1.bins = some b' ∧ ∀ i, binOf b' i = 0)
    ∧ (o.fn = 1 → 1 ≤ bits o.param 6 0 → bits o.param 6 0 ≤ 64 → ∃ b', (runFunction s 2 o b).1.bins = some b'
      ∧ ∀ i < 1024, (binOf b' i).toNat =
          sat 0xFFFFFFFF ((binOf b i).toNat + ((List.range (bits o.param 6 0)).filter (fun j => keyLane o.h j % 1024 = i)).length))
    ∧ (o.fn = 2 → 1 ≤ bits o.param 5 0 → bits o.param 5 0 ≤ 32 → ∃ b', (runFunction s 2 o b).1.bins = some b'
      ∧ ∀ i < 1024, (binOf b' i).toNat = sat 0xFFFFFFFF ((binOf b i).toNat
          + (((List.range (bits o.param 5 0)).filter (fun j => keyLane o.h j % 1024 = i)).map (fun j => keyLane o.h (j + 32))).sum))
    ∧ (o.fn = 3 → ∃ i < 1024, (runFunction s 2 o b).1.r = word i ∧ hReg (landRegs o.h (runFunction s 2 o b).1.h) 0 = BitVec.ofNat 64 i
      ∧ (∀ j < 1024, (binOf b j).toNat ≤ (binOf b i).toNat) ∧ (∀ j < i, (binOf b j).toNat < (binOf b i).toNat))))

/-- R141, R145–R147, R160, R161, R164. Start runs an IDLE thread at THR_ENTRY; park, halt, unpark, resume and step make the state changes of R145, and before a thread runs
again its pending products and quotients have landed, the newest last; nothing else changes; reset clears the W and special registers,
the staged and claimed message, leaves the thread IDLE with its CH0 FDs, pending products, quotients and posted stores kept, releases its locks, and posts the
RESET_DONE notice with the PC before it; discard_stage drops the staged words of a HALTED thread and counts them; DBG_DATA reads and writes the register that
DBG_SEL names of a HALTED thread, and of any other reads 0. -/
def Obligations.ThreadControl : Prop := (∀ (t : Tid) (s : State), let th := thread s t
  (th.state = .idle → exec (.thrStart t) s = .next (setThread s t { (landed th) with
    state := .running, pfx := .none, pc := (reg s (Reg.THR_ENTRY (nibOf t) (idxOf t))).setWidth 16 }))
  ∧ (th.state = .running →
    exec (.thrPark t) s = .next (setThread s t { th with state := .parked, pfx := .none, load := none, stepping := false })
    ∧ exec (.thrHalt t) s = .next (setThread s t { th with state := .halted, before := .running, pfx := .none, load := none }))
  ∧ (th.state = .blocked → exec (.thrHalt t) s = .next (setThread s t { th with state := .halted, before := .blocked }))
  ∧ (th.state = .parked → exec (.thrUnpark t) s = .next (setThread s t { (landed th) with state := .running }))
  ∧ (th.state = .halted →
    exec (.thrResume t) s = .next (setThread s t { (landed th) with state := th.before, stepping := false })
    ∧ exec (.thrStep t) s = .next (setThread s t { (landed th) with state := th.before, stepping := true })
    ∧ ∀ d ws, th.staging = some (d, ws) → Gives (.thrDiscardStage t) s (fun s' => thread s' t = { th with staging := none }
        ∧ reg s' (Reg.MSG_DISCARD (nibOf t)) = reg s (Reg.MSG_DISCARD (nibOf t)) + word ws.length
        ∧ ∀ u, u ≠ t.val → thread s' u = thread s u))
  ∧ Gives (.thrReset t) s (fun s' => thread s' t = { th with
      w := [], st := stReset t, cnt := 0, ph := 0, pl := 0, qu := 0, rm := 0, epc := 0, cause := 0, tinfo := 0, pageSel := 0, pc := 0,
      state := .idle, before := .idle, stepping := false, waitPort := none, pfx := .none, load := none, staging := none, claim := none }
    ∧ (Tbl.wf (fun _ => {}) s.locks = true → ∀ k < 256, (lock s' (nibOf t / 8) k).owner ≠ some t.val)
    ∧ (t.val < 1024 → (nib s' (noticeNib s t)).notices.getLast? =
        some [word (3 * 2 ^ 24 + t % 1024), th.pc.setWidth 32, 0, 0, spsNow s, 0, 0, 0])))
  ∧ (∀ th : Thread, landed th = { th with products := [], quotients := [], ph := ((th.products.getLast?).getD (th.ph ++ th.pl)).extractLsb 63 32, pl := ((th.products.getLast?).getD (th.ph ++ th.pl)).extractLsb 31 0, qu := ((th.quotients.getLast?).getD (th.qu, th.rm)).1, rm := ((th.quotients.getLast?).getD (th.qu, th.rm)).2 })
  ∧ (∀ (n : NibId) (s : State) (i num : Nat), bits (reg s (Reg.DBG_SEL n)) 12 10 = i → i < threadsOf n →
    bits (reg s (Reg.DBG_SEL n)) 7 0 = num → num < 24 → bits (reg s (Reg.DBG_SEL n)) 9 8 = 0 →
    ((thread s (tidOf n i)).state = .halted →
      exec (.dbgDataAccess n none) s = .next { s with resp := [(wreg s (tidOf n i) num).toNat] }
      ∧ ∀ v, exec (.dbgDataAccess n (some v)) s = .next (setThread s (tidOf n i) (withW (thread s (tidOf n i)) num v)))
    ∧ ((thread s (tidOf n i)).state ≠ .halted → exec (.dbgDataAccess n none) s = .next { s with resp := [0] }))

/-- R149, R150, R154–R156. An IN on CHn of a thread with no claim takes the message at the head of the FIFO, or the FD dealt first of CH0: d gets word 0 and the rest is claimed; the
following INs return the claimed words in order, and the last frees the slot; with no message the thread blocks at the end of the reader order. RX_INFO shows the claim and
RX_DROP ends it. A message that MESSAGE_DELIVER writes goes to the reader that blocked first, or waits at the end of the FIFO. -/
def Obligations.ChannelsReceive : Prop := (∀ (t : Tid) (w : Word) (s : State) (c : Nat), Issues s t → Bare s t →
  let n := nibOf t
  let th := thread s t
  let took := fun (v : Word) (cl : Option Claim) => { tookIn th (wD w) (.plain v) with claim := cl, pc := pcAfter s t, pfx := .none }
  (c < 0x20 → IsIn s t w c →
    (∀ v u rest tot, th.claim = some ⟨c, tot, v :: u :: rest⟩ →
      Gives (.chReceive t w) s (fun s' => Beside s s' t ∧ thread s' t = took v (some ⟨c, tot, u :: rest⟩)))
    ∧ (∀ v tot, 1 ≤ c → th.claim = some ⟨c, tot, [v]⟩ →
      Gives (.chReceive t w) s (fun s' => Beside { s with chans := s'.chans } s' t ∧ thread s' t = took v none
        ∧ ChanAt s s' n c { chan s n c with claimed := (chan s n c).claimed - 1 }))
    ∧ (∀ v u rest more, 1 ≤ c → c < 31 → th.claim = none → (chan s n c).msgs = (v :: u :: rest) :: more →
      Gives (.chReceive t w) s (fun s' => Beside { s with chans := s'.chans } s' t
        ∧ thread s' t = took v (some ⟨c, rest.length + 2, u :: rest⟩)
        ∧ ChanAt s s' n c { chan s n c with msgs := more, claimed := (chan s n c).claimed + 1 }))
    ∧ (∀ f more, c = 0 → th.claim = none → th.ch0 = f :: more →
      Gives (.chReceive t w) s (fun s' => Beside s s' t ∧ thread s' t = { took f.w0 (some ⟨0, 8, (fdWords f).drop 1⟩) with ch0 := more }))
    ∧ (1 ≤ c → th.claim = none → (chan s n c).msgs = [] →
      Gives (.chReceive t w) s (fun s' => ChanAt s s' n c { chan s n c with readers := (chan s n c).readers ++ [t.val] }
        ∧ s' = setThread { s with chans := s'.chans } t { th with state := .blocked, waitPort := some (c, wD w) })))
  ∧ (IsIn s t w 0x20 → Gives (.rxInfo t w) s (fun s' => Beside s s' t ∧ thread s' t = took (match th.claim with
      | some k => word (2 ^ 31 + k.ch * 2 ^ 16 + k.total * 2 ^ 8 + k.words.length)
      | none => 0) th.claim))
  ∧ (IsOut s t w 0x21 → ∀ ch tot ws, 1 ≤ ch → th.claim = some ⟨ch, tot, ws⟩ →
      Gives (.rxDrop t w) s (fun s' => Beside { s with chans := s'.chans } s' t
        ∧ thread s' t = { th with claim := none, pc := pcAfter s t, pfx := .none }
        ∧ ChanAt s s' n ch { chan s n ch with claimed := (chan s n ch).claimed - 1 })))
  ∧ (∀ (src : Tid) (dest : NibId) (ch : Fin 32) (s : State) (m : Send), 1 ≤ ch.val → ch.val < 31 →
    s.sends.find? (fun m => m.src = src.val && m.dest = dest.val && m.ch = ch.val) = some m → chanRoom s dest ch = true →
    (nib s dest).fenced = false →
    ((chan s dest ch).readers = [] → Gives (.messageDeliver src dest ch) s (fun s' =>
      s' = { s with sends := s.sends.erase m, chans := s'.chans }
      ∧ ChanAt s s' dest ch { chan s dest ch with msgs := (chan s dest ch).msgs ++ [m.words] }))
    ∧ (∀ u more d v rest, (chan s dest ch).readers = u :: more → u < 1028 → nibOf u = dest → (thread s u).state = .blocked →
      (thread s u).waitPort = some (ch.val, d) → (thread s u).pfx = .none → (thread s u).stepping = false → m.words = v :: rest →
      Gives (.messageDeliver src dest ch) s (fun s' => s'.sends = s.sends.erase m
        ∧ thread s' u = { tookIn (thread s u) d (.plain v) with
            claim := if rest = [] then none else some ⟨ch, m.words.length, rest⟩
            pc := pcAfter s u, state := .running, waitPort := none }
        ∧ (chan s' dest ch).readers = more ∧ (chan s' dest ch).msgs = (chan s dest ch).msgs)))

/-- R149, R150, R152, R157, R158. TX_DEST to a channel that the thread may write on a Nib of its partition starts an empty staging and stores status OK; to another partition it stores DENIED and stages nothing. TX_DATA appends a word; the
word that completes the count commits one message behind the send queue, or stores FULL and sends nothing when the send share is full. TX_ABORT drops the
staging. TX_STAT and FD_STAT return the stored status in d with C and Z. FD_SUBMIT stages its words, and with the eighth the submitted FD is
resolved: of a kind other than COMPLETION and BUILT it stores REFUSED. -/
def Obligations.SendingAndSubmitting : Prop := ∀ (t : Tid) (w : Word) (s : State), Issues s t → Bare s t →
  let th := thread s t
  let v := wreg s t (wD w)
  (IsOut s t w 0x24 → th.staging = none →
    (1 ≤ bits v 19 16 → bits v 19 16 ≤ 8 → bits v 15 8 < 128 → 4 ≤ bits v 4 0 → bits v 4 0 ≤ 30 →
      (1024 ≤ t.val ∨ nibPid s (bits v 15 8) = tidPid s t) →
      Gives (.txDest t w) s (Completes s t { th with staging := some (v, []), txStat := stOk }))
    ∧ (t.val < 1024 → 1 ≤ bits v 19 16 → bits v 19 16 ≤ 8 → bits v 15 8 < 128 → nibPid s (bits v 15 8) ≠ tidPid s t →
      Gives (.txDest t w) s (fun s' => thread s' t = { th with staging := none, txStat := stDenied, pc := pcAfter s t, pfx := .none }
        ∧ s'.sends = s.sends)))
  ∧ (IsOut s t w 0x25 → ∀ d ws, th.staging = some (d, ws) →
    (ws.length + 1 < bits d 19 16 → Gives (.txData t w) s (Completes s t { th with staging := some (d, ws ++ [v]) }))
    ∧ (bits d 19 16 ≤ ws.length + 1 → sendFull s t = false → Gives (.txData t w) s (fun s' =>
      Beside { s with sends := s.sends ++ [⟨t, bits d 15 8, bits d 4 0, ws ++ [v]⟩] } s' t
      ∧ thread s' t = { th with staging := none, txStat := stOk, pc := pcAfter s t, pfx := .none }))
    ∧ (bits d 19 16 ≤ ws.length + 1 → sendFull s t = true → Gives (.txData t w) s (fun s' => s'.sends = s.sends
      ∧ thread s' t = { th with staging := none, txStat := stFull, pc := pcAfter s t, pfx := .none })))
  ∧ (IsOut s t w 0x27 → Gives (.txAbort t w) s (Completes s t { th with staging := none }))
  ∧ (IsIn s t w 0x26 → Gives (.txStat t w) s (Completes s t { withW th (wD w) (th.txStat.setWidth 32) with
      st := setBit (setBit th.st 2 (decide (th.txStat ≠ stOk))) 0 (decide (th.txStat = stOk)) }))
  ∧ (IsIn s t w 0x29 → Gives (.fdStat t w) s (Completes s t { withW th (wD w) (th.fdStat.setWidth 32) with
      st := setBit (setBit th.st 2 (decide (th.fdStat ≠ stOk))) 0 (decide (th.fdStat = stOk)) }))
  ∧ (IsOut s t w 0x28 →
    (th.fdStage.length < 7 → Gives (.fdSubmit t w) s (Completes s t { th with fdStage := th.fdStage ++ [v] }))
    ∧ (∀ l, th.fdStage = l → l.length = 7 → ¬ (fdKind (fdOf (l ++ [v])) = 1 ∨ fdKind (fdOf (l ++ [v])) = 5) →
      Gives (.fdSubmit t w) s (fun s' => s'.compl = s.compl ∧ s'.queues = s.queues
        ∧ thread s' t = { th with fdStage := [], fdStat := stRefused, pc := pcAfter s t, pfx := .none }))
    ∧ (∀ l k x, th.fdStage = l → l.length = 7 → let f := fdOf (l ++ [v]); fdKind f = 1 → fdSlot f = k → slot s k = some x →
      x.pid = tidPid s t → fdKey x.fd = fdKey f → x.hole = false → x.done = none → s.compl.any (fun e => e.1 = k) = false →
      ¬ (t.val < 1024 ∧ partState s (tidPid s t) = 6) →
      Gives (.fdSubmit t w) s (fun s' => Beside { s with compl := s.compl ++ [(k, f)] } s' t
        ∧ thread s' t = { th with fdStage := [], fdStat := stOk, pc := pcAfter s t, pfx := .none })))

/-- R149, R159, R160. For a thread of a Nib and a lock of its partition's group: ACQ of a free lock makes the thread its owner and returns OK, or BROKEN when it was broken, with broken cleared; of one held by another it
blocks at the end of the queue; of its own it returns ALREADY_DONE with C 1. TRY stores OK, BROKEN, ALREADY_DONE or BUSY and never queues; of another partition's group DENIED. REL by the owner
with nobody waiting frees the lock, and by another thread only counts LK_BADREL_CNT. A forced release leaves a free lock broken. No other lock changes. -/
def Obligations.Locks : Prop := (∀ (t : Tid) (w : Word) (s : State) (k : Fin 256), t.val < 1024 → Issues s t → Bare s t →
  let q := nibOf t / 8
  let th := thread s t
  let go := { th with pc := pcAfter s t, pfx := .none }
  (lockPid s q k = tidPid s t →
    (IsIn s t w (0x100 + k) → (lock s q k).owner = none → Gives (.lkAcq t w) s (fun s' =>
      LockAt s s' q k { lock s q k with owner := some t.val, broken := false }
      ∧ (∀ u, u ≠ t.val → thread s' u = thread s u)
      ∧ thread s' t = tookIn go (wD w) (.status (if (lock s q k).broken then stBroken else stOk) true)
      ∧ ((lock s q k).broken = true → reg s' (Reg.LK_BROKEN_CNT q) = reg s (Reg.LK_BROKEN_CNT q) + 1)))
    ∧ (∀ o, IsIn s t w (0x100 + k) → (lock s q k).owner = some o → o ≠ t.val → Gives (.lkAcq t w) s (fun s' =>
      LockAt s s' q k { lock s q k with queue := (lock s q k).queue ++ [t.val] }
      ∧ thread s' t = { th with state := .blocked, waitPort := some (0x100 + k.val, wD w) }))
    ∧ (IsIn s t w (0x100 + k) → (lock s q k).owner = some t.val →
      Gives (.lkAcq t w) s (Completes s t (tookIn th (wD w) (.status stAlready false))))
    ∧ (IsOut s t w 0x2A → bits (wreg s t (wD w)) 7 0 = k →
      ((lock s q k).owner = none → Gives (.lkTry t w) s (fun s' =>
        LockAt s s' q k { lock s q k with owner := some t.val, broken := false }
        ∧ thread s' t = { go with lkRes := if (lock s q k).broken then stBroken else stOk }))
      ∧ (∀ o, (lock s q k).owner = some o →
        Gives (.lkTry t w) s (Completes s t { th with lkRes := if o = t.val then stAlready else stBusy }))))
  ∧ (IsOut s t w 0x2A → bits (wreg s t (wD w)) 7 0 = k → lockPid s q k ≠ tidPid s t →
      Gives (.lkTry t w) s (fun s' => s'.locks = s.locks ∧ thread s' t = { go with lkRes := stDenied }
        ∧ reg s' (Reg.LK_DENIED_CNT q) = reg s (Reg.LK_DENIED_CNT q) + 1))
  ∧ (IsIn s t w 0x2B → Gives (.lkTryRes t w) s (Completes s t (tookIn th (wD w)
      (.status th.lkRes (decide (th.lkRes = stOk ∨ th.lkRes = stBroken))))))
  ∧ (IsOut s t w (0x100 + k) → (lock s q k).owner = some t.val → (lock s q k).queue = [] →
      Gives (.lkRel t w) s (fun s' => LockAt s s' q k { lock s q k with owner := none }
        ∧ Beside { s with locks := s'.locks } s' t ∧ thread s' t = go))
  ∧ (IsOut s t w (0x100 + k) → (lock s q k).owner ≠ some t.val →
      Gives (.lkRel t w) s (fun s' => s'.locks = s.locks ∧ thread s' t = go
        ∧ reg s' (Reg.LK_BADREL_CNT q) = reg s (Reg.LK_BADREL_CNT q) + 1)))
  ∧ (∀ (q : QuillId) (k : Fin 256) (s : State) (o : Nat), (lock s q k).owner = some o → (lock s q k).queue = [] →
    Gives (.lockForceRelease q k) s (fun s' => s' = { s with locks := s'.locks }
      ∧ LockAt s s' q k { lock s q k with owner := none, broken := true }))
  ∧ (∀ (q : QuillId) (k : Fin 256) (s : State) (o u d : Nat) (more : List Nat), (lock s q k).owner = some o → (lock s q k).queue = u :: more → u < 1028 →
    (thread s u).state = .blocked → (thread s u).waitPort = some (0x100 + k.val, d) → (thread s u).pfx = .none → (thread s u).stepping = false →
    Gives (.lockForceRelease q k) s (fun s' => LockAt s s' q k { owner := some u, broken := false, queue := more }
      ∧ Woken s s' u d (.status stBroken true)))

/-- R28–R30, R149–R151, R153. An OUT to TMRi starts the timer for d[23:0] crossings, the first of a count that has not begun being crossing 0, and 0 stops it; TIMER_EXPIRY at or after that crossing count wakes the thread that is blocked on the timer with the current SPS, or
leaves the timer expired with it, which the next IN returns with C 0 and stops; an IN on a stopped timer returns EMPTY with C 1, on a running one blocks. ALARM_WAIT blocks on an alarm of the thread's partition and is DENIED another's;
ALARM_FIRE of an armed alarm that is due sets ALARM_STAT and PHASE interrupt bit 7, and disarms it unless it repeats. An OUT to the phase port sets the target; an IN without one returns the current SPS, and with one not reached blocks; PHASE_TARGET_REACHED wakes it. -/
def Obligations.TimersAndPhaseWaits : Prop := (∀ (t : Tid) (w : Word) (s : State) (i : Fin 2), Issues s t → Bare s t →
  let th := thread s t
  let v := wreg s t (wD w)
  let withT := fun (x : Timer) => if i = 0 then { th with tmr0 := x } else { th with tmr1 := x }
  (IsOut s t w (0x30 + i) → Gives (.tmrSet t w) s (Completes s t
      (withT (if bits v 23 0 = 0 then .off
        else .run (if s.phase.started then s.phase.count + bits v 23 0 else bits v 23 0 - 1)))))
  ∧ (IsIn s t w (0x30 + i) →
    (timer s t i = .off → Gives (.tmrWait t w) s (Completes s t (tookIn th (wD w) (.fail stEmpty))))
    ∧ (∀ x, timer s t i = .expired x → Gives (.tmrWait t w) s (Completes s t (tookIn (withT .off) (wD w) (.data x))))
    ∧ (∀ x, timer s t i = .run x → Gives (.tmrWait t w) s (Blocks s t w (0x30 + i))))
  ∧ (∀ n < 16, IsIn s t w (0x40 + n) →
    (alarmPid s n = tidPid s t → Gives (.alarmWait t w) s (Blocks s t w (0x40 + n)))
    ∧ (alarmPid s n ≠ tidPid s t → Gives (.alarmWait t w) s (Completes s t (tookIn th (wD w) (.fail stDenied)))))
  ∧ (IsOut s t w 0x320 → Gives (.phasePortOut t w) s (Completes s t { th with target := some v }))
  ∧ (IsIn s t w 0x320 →
    (th.target = none → Gives (.phasePortIn t w) s (Completes s t (tookIn th (wD w) (.plain (spsNow s)))))
    ∧ (∀ x, th.target = some x → targetReached s x = true →
      Gives (.phasePortIn t w) s (Completes s t { tookIn th (wD w) (.plain (spsNow s)) with target := none }))
    ∧ (∀ x, th.target = some x → targetReached s x = false → Gives (.phasePortIn t w) s (Blocks s t w 0x320))))
  ∧ (∀ (t : Tid) (s : State) (i : Fin 2) (due : Nat), timer s t i = .run due → due ≤ s.phase.count → s.phase.started = true →
    (blockedOn s t (0x30 + i) = false → exec (.timerExpiry t i) s = .next (setThread s t
      (if i = 0 then { thread s t with tmr0 := .expired (spsNow s) } else { thread s t with tmr1 := .expired (spsNow s) })))
    ∧ (∀ d, (thread s t).waitPort = some (0x30 + i.val, d) → (thread s t).state = .blocked → (thread s t).pfx = .none →
      (thread s t).stepping = false → Gives (.timerExpiry t i) s (fun s' => Beside s s' t ∧ timer s' t i = .off
        ∧ (thread s' t).state = .running ∧ wreg s' t d = spsNow s ∧ stC (thread s' t).st = false
        ∧ (thread s' t).pc = pcAfter s t)))
  ∧ (∀ (t : Tid) (s : State) (x : Word) (d : Nat), (thread s t).target = some x → targetReached s x = true →
    (thread s t).waitPort = some (0x320, d) → (thread s t).state = .blocked → (thread s t).pfx = .none → (thread s t).stepping = false →
    Gives (.phaseTargetReached t) s (fun s' => Beside s s' t ∧ (thread s' t).target = none ∧ (thread s' t).state = .running
      ∧ wreg s' t d = spsNow s ∧ (thread s' t).pc = pcAfter s t))
  ∧ (∀ (n : Fin 16) (s : State), s.phase.alarmsDue.contains n.val = true → flag s (Reg.PH_ALARM n) 31 = true →
    Gives (.alarmFire n) s (fun s' => s'.phase = { s.phase with alarmsDue := s.phase.alarmsDue.filter (· ≠ n.val) }
      ∧ flag s' Reg.ALARM_STAT n = true ∧ flag s' (Reg.PG_IRQ_RAW Reg.phasePage) 7 = true
      ∧ flag s' (Reg.PH_ALARM n) 31 = flag s (Reg.PH_ALARM n) 30))

/-- R161–R163. NOTICE_DELIVER writes the oldest held notice of a Nib to CH31 when it has room and nobody waits there. DEADLOCK_DETECT of a partition whose detector is enabled, whose every thread that is neither IDLE
nor PARKED is blocked on a channel or lock, with nothing pending and no DEADLOCK notice unread, posts the DEADLOCK notice to its supervisor's Nib and counts DL_COUNT; otherwise it
changes nothing. -/
def Obligations.NoticesAndDeadlock : Prop :=
  (∀ (n : NibId) (s : State) (m : List Word) (r : List (List Word)), (nib s n).notices = m :: r → chanRoom s n 31 = true →
    (nib s n).fenced = false → (chan s n 31).readers = [] →
    Gives (.noticeDeliver n) s (fun s' => s' = { s with nibs := s'.nibs, chans := s'.chans }
      ∧ nib s' n = { nib s n with notices := r } ∧ (∀ k, k ≠ n.val → nib s' k = nib s k)
      ∧ ChanAt s s' n 31 { chan s n 31 with msgs := (chan s n 31).msgs ++ [m] }))
  ∧ (∀ (p : PartId) (s : State) (n : Nat), supervisorNib s p = some n →
    let c := dlCand s p
    let quiet := enField s (Reg.nibPage n) (Reg.DL_CTL n) 31 = true ∧ c ≠ [] ∧ (∀ t ∈ c, onChannel s t = true ∨ onLock s t = true) ∧ dlPending s p = false
      ∧ dlUnread s p = false
    (quiet → (thread s (8 * n)).waitPort = none → Gives (.deadlockDetect p) s (fun s' =>
      reg s' (Reg.DL_COUNT n) = reg s (Reg.DL_COUNT n) + 1 ∧ dlUnread s' p = true ∧ s'.threads = s.threads
      ∧ (nib s' n).notices = (nib s n).notices ++ [[word (2 * 2 ^ 24 + 8 * n), word c.length, word (c.filter (onChannel s)).length,
          word (c.filter (onLock s)).length, spsNow s, word (fld s (Reg.DL_CTL n) 23 0), word p, 0]]))
    ∧ (¬ quiet → exec (.deadlockDetect p) s = .next s))

/-- R17–R24. MCLK_LOST clears mclk_ok, aligned and running, records source 0x08, stops the count, closes every instance, and the ACC_OUT pairs drive 0; MCLK_OK sets mclk_ok and interrupt 3, and a count that
had started restarts at the next marker, at which the orbit is suspect. A measurement in range only changes the measured registers; one out of range stops the count. The first marker after arm starts the count at crossing 0 and sets aligned; a marker at crossing 0 is correct and
ends the consecutive count, one elsewhere is misplaced and counted, and after three, or with re-alignment asked for, the marker's crossing becomes crossing 0 of the next orbit; no marker changes the crossing
count. A missing marker is counted and recorded. PH_CTL_ARM, REALIGN_NOW, SUBST_ENABLE and SUBST_DISABLE change PH_CTL and the phase as said; a subst_en write of 1 outside STANDALONE and TEST is refused with source 0x0A. -/
def Obligations.ClockAndMarkers : Prop := ∀ s : State,
  let since := if fld s Reg.ORB_ERR_CNT 1 0 = 0 then some s.phase.count else s.phase.misplacedFrom
  (phStat s 0 = true → substOn s = false → Gives .mclkLost s (fun s' =>
    phStat s' 0 = false ∧ phStat s' 1 = false ∧ phStat s' 3 = false ∧ s'.phase.counting = false
    ∧ s'.phase.count = s.phase.count ∧ s'.phase.now = s.phase.now ∧ s'.accOuts = []
    ∧ s'.out.getLast? = some (.accOut s.phase.count 0)
    ∧ flag s' (Reg.PG_ERR_STICKY Reg.phasePage) 8 = true ∧ (∀ x ∈ s'.ductus.insts, x.closed = true)))
  ∧ (phStat s 0 = true → substOn s = true → Gives .mclkLost s (fun s' => phStat s' 0 = false ∧ s'.phase = s.phase))
  ∧ (phStat s 0 = false → Gives .mclkOk s (fun s' => phStat s' 0 = true ∧ flag s' (Reg.PG_IRQ_RAW Reg.phasePage) 3 = true
    ∧ s'.phase = { s.phase with restart := s.phase.restart || (s.phase.started && !s.phase.counting) }
    ∧ s'.threads = s.threads ∧ s'.decisions = s.decisions))
  ∧ (∀ khz : BitVec 19, 10000 ≤ khz.toNat → khz.toNat ≤ 400000 → Gives (.mclkFreqUpdate khz) s (fun s' =>
    OnlyRegs s s' ([Reg.MCLK_FREQ, Reg.XING_FCLK, Reg.SC_RATE, Reg.SC_FIT] ++ (List.range 32).map Reg.SK_PSTAT)
    ∧ reg s' Reg.MCLK_FREQ = word (2 ^ 31 + khz.toNat) ∧ reg s' Reg.XING_FCLK = word (1000000 * 65536 / khz.toNat)))
  ∧ (∀ khz : BitVec 19, khz.toNat < 10000 ∨ 400000 < khz.toNat → phStat s 0 = true → substOn s = false →
    Gives (.mclkFreqUpdate khz) s (fun s' => phStat s' 0 = false ∧ s'.phase.counting = false))
  ∧ (phStat s 0 = true → substOn s = false →
    (s.phase.counting = true → morbOn s = true ∨ s.phase.realignPending = true ∨ s.phase.alignNext = true →
      (s.phase.now.index = 0 → Gives .morbMarker s (fun s' => s' = { s with
          regs := s'.regs, signet := { s.signet with pendingQs := [] }
          phase := { s.phase with markerSeen := true, misplacedFrom := none, realignPending := false, alignNext := false } }
        ∧ RegsBut s s' [Reg.ORB_ERR_CNT] ∧ reg s' Reg.ORB_ERR_CNT = setBits (reg s Reg.ORB_ERR_CNT) 1 0 0))
      ∧ (s.phase.now.index ≠ 0 → s.phase.realignPending = false → s.phase.alignNext = false → fld s Reg.ORB_ERR_CNT 1 0 < 3 →
        Gives .morbMarker s (fun s' =>
          Noted { s with phase := { s.phase with markerSeen := true, misplacedFrom := since } } s' [Reg.ORB_ERR_CNT] Reg.phasePage 5
          ∧ fld s' Reg.ORB_ERR_CNT 31 16 = (fld s Reg.ORB_ERR_CNT 31 16 + 1) % 65536
          ∧ fld s' Reg.ORB_ERR_CNT 1 0 = fld s Reg.ORB_ERR_CNT 1 0 + 1))
      ∧ (s.phase.now.index ≠ 0 → s.phase.realignPending = true ∨ s.phase.alignNext = true ∨ fld s Reg.ORB_ERR_CNT 1 0 = 3 →
        Gives .morbMarker s (fun s' => s'.phase.now = { orbit := (s.phase.now.orbit + 1) % 2 ^ 48, index := 0 }
          ∧ s'.phase.count = s.phase.count ∧ fld s' Reg.ORB_ERR_CNT 1 0 = 0 ∧ fld s' Reg.ORB_ERR_CNT 31 16 = fld s Reg.ORB_ERR_CNT 31 16
          ∧ fld s' Reg.ORB_ERR_CNT 7 4 = sat 15 (fld s Reg.ORB_ERR_CNT 7 4 + 1)
          ∧ s'.phase.misplacedFrom = none ∧ s'.phase.realignPending = false
          ∧ (∀ m, s.phase.misplacedFrom = some m → (m, s.phase.count) ∈ s'.signet.ranges))))
    ∧ (s.phase.counting = false → s.phase.alignNext = true → s.phase.started = false → s.phase.restart = false →
      Gives .morbMarker s (fun s' => s'.phase.now = {} ∧ s'.phase.count = s.phase.count ∧ s'.phase.counting = true
        ∧ s'.phase.started = true ∧ phStat s' 1 = true ∧ s'.phase.alignNext = false ∧ s'.phase.realignPending = false))
    ∧ (let again := s.phase.restart = true ∧ (morbOn s = true ∨ s.phase.edgeRestart = false)
      s.phase.counting = false → again ∨ s.phase.alignNext = true → s.phase.started = true →
      Gives .morbMarker s (fun s' => s'.phase.now = { orbit := (s.phase.now.orbit + 1) % 2 ^ 48, index := 0 }
        ∧ s'.phase.count = s.phase.count + 1 ∧ s'.phase.counting = true ∧ phStat s' 1 = true ∧ s'.phase.realignPending = false
        ∧ (again → phStat s' 6 = true))))
  ∧ (s.phase.missingDue = true → Gives .missingMarker s (fun s' =>
    Noted { s with phase := { s.phase with missingDue := false } } s' [Reg.ORB_ERR_CNT] Reg.phasePage 6
    ∧ fld s' Reg.ORB_ERR_CNT 15 8 = sat 255 (fld s Reg.ORB_ERR_CNT 15 8 + 1)))
  ∧ Gives .phCtlArm s (fun s' => s' = { s with
      regs := s'.regs, phase := { s.phase with alignNext := s.phase.alignNext || phStat s 0 } }
    ∧ RegsBut s s' [Reg.PH_CTL] ∧ reg s' Reg.PH_CTL = setBit (reg s Reg.PH_CTL) 0 true)
  ∧ exec .realignNow s = .next { s with phase := { s.phase with realignPending := true } }
  ∧ (mode s = 2 ∨ mode s = 7 → flag s Reg.PH_CTL 1 = false → Gives .substEnable s (fun s' =>
    s' = { s with regs := s'.regs, phase := { s.phase with counting := false, restart := false } } ∧ RegsBut s s' [Reg.PH_CTL, Reg.PH_STAT]
    ∧ flag s' Reg.PH_CTL 1 = true ∧ reg s' Reg.PH_STAT = setBit (reg s Reg.PH_STAT) 1 true))
  ∧ (mode s ≠ 2 → mode s ≠ 7 → Gives .substEnable s (fun s' => Noted s s' [] Reg.phasePage 0x0A))
  ∧ (flag s Reg.PH_CTL 1 = true → Gives .substDisable s (fun s' =>
    s' = { s with
      regs := s'.regs
      phase := { s.phase with counting := false, restart := true, edgeRestart := true } }
    ∧ RegsBut s s' [Reg.PH_CTL, Reg.PH_STAT] ∧ flag s' Reg.PH_CTL 1 = false ∧ phStat s' 1 = false))

/-- R8–R10, R14, R24, R28, R204, R217. With MCLK present and the count running, CROSSING_TICK raises the crossing count by one and takes the next label: the next index, or crossing 0 of the next orbit after the last one. Inside an orbit it touches
no thread, memory or queue; with no partition admitting, no schedule and no mark it changes the phase alone; each admitting partition gets an open decision slot with no trigger bit for the new
crossing, and none without admission. The alarms armed for the new index are due. SUBST_TICK does the same on the substitute phase, and starts a count that never ran at crossing 0 of orbit 0. A due ORBIT_RESET gives the crossing, with its decision slots, instances and capture, the orbit number, clears
orbit_suspect and sends a PHASE_CHECK of the new PS on every UP port; ADMISSION_START and ADMISSION_STOP set and clear running with interrupts 4 and 5; CAL_WINDOW_OPEN and CAL_WINDOW_CLOSE set and clear cal_active; TEST_PULSE_CROSSING ends the mark;
ORBIT_LEN_APPLY puts the accepted length in force. -/
def Obligations.CrossingsBegin : Prop := (∀ s : State,
  let n := s.phase.count + 1
  let l := nextLabel s
  let ran := fun (s' : State) => s'.phase.count = n ∧ s'.phase.now = l ∧ s'.phase.counting = true
  let inside := fun (s' : State) => ran s' ∧ s'.threads = s.threads ∧ s'.queues = s.queues ∧ s'.sends = s.sends
    ∧ s'.lanes = s.lanes ∧ s'.ports = s.ports
    ∧ (∀ a < 16, (a ∈ s'.phase.alarmsDue ↔ flag s (Reg.PH_ALARM a) 31 = true ∧ fld s (Reg.PH_ALARM a) 15 0 = l.index ∧ l.index < orbitLen s))
    ∧ (∀ p < 16, (∀ d ∈ s.decisions, d.b < n) → admits s p = true → s.phase.admissionDue ≠ some false → fatal s = false →
      ∃ d ∈ s'.decisions, d.p = p ∧ d.b = n ∧ d.ps = l ∧ d.closed = false ∧ d.bits = 0)
    ∧ ((∀ p < 16, admits s p = false) → s'.decisions = s.decisions)
  let quiet := s.phase.calOpens = [] ∧ s.phase.calEnd = none ∧ s.phase.testPulses = [] ∧ s.phase.qsOrbit = false ∧ downMask s = 0
    ∧ s.phase.lockLostAt = none ∧ role s ≠ 3 ∧ (∀ p < 16, admits s p = false)
  let alone := fun (s' : State) => s' = { s with phase := { s.phase with count := n, now := l, alarmsDue := s'.phase.alarmsDue } }
  (substOn s = false → phStat s 0 = true → s.phase.counting = true →
    Gives .crossingTick s ran
    ∧ (s.phase.now.index + 1 < orbitLen s → Gives .crossingTick s inside ∧ (quiet → Gives .crossingTick s alone)))
  ∧ (substOn s = true → domainOn s 2 = true →
    (s.phase.counting = true → Gives .substTick s ran
      ∧ (s.phase.now.index + 1 < orbitLen s → Gives .substTick s inside ∧ (quiet → Gives .substTick s alone)))
    ∧ (s.phase.counting = false → s.phase.started = false → Gives .substTick s (fun s' =>
      s'.phase.now = {} ∧ s'.phase.count = s.phase.count ∧ s'.phase.counting = true ∧ phStat s' 1 = true))))
  ∧ (∀ s : State,
    (s.phase.now.index + 1 < orbitLen s → nextLabel s = { orbit := s.phase.now.orbit, index := s.phase.now.index + 1 })
    ∧ (s.phase.now.index + 1 = orbitLen s → nextLabel s = { orbit := (s.phase.now.orbit + 1) % 2 ^ 48, index := 0 })
    ∧ (∀ v, s.phase.orbitResetDue = some v → Gives .orbitResetApply s (fun s' =>
      let l : PS := { s.phase.now with orbit := v }
      s'.phase.now = l ∧ s'.phase.count = s.phase.count ∧ s'.phase.orbitResetDue = none
      ∧ RegsBut s s' [Reg.PH_STAT] ∧ reg s' Reg.PH_STAT = setBit (reg s Reg.PH_STAT) 6 false
      ∧ s'.decisions = s.decisions.map (fun d => if d.b = s.phase.count then { d with ps := l } else d)
      ∧ s'.ductus = { s.ductus with insts := s.ductus.insts.map (fun x => if x.b = s.phase.count then { x with ps := l } else x) }
      ∧ (∀ t, s.phase.capture = some (s.phase.now, t) → s'.phase.capture = some (l, t))
      ∧ s'.threads = s.threads ∧ s'.mem = s.mem ∧ s'.queues = s.queues
      ∧ (∀ k < 32, portState s k = 2 → (port s' k).q0 = (port s k).q0 ++
          [{ ty := 2, hdr := 0, body := [word (psNat l / 2 ^ 32), word (psNat l)], part := 0, parts := 1 }])))
    ∧ (s.phase.admissionDue = some true → mode s = 4 → fatal s = false → phStat s 3 = false →
      Gives .admissionStart s (fun s' => phStat s' 3 = true ∧ flag s' (Reg.PG_IRQ_RAW Reg.phasePage) 4 = true
        ∧ s'.phase = { s.phase with admissionDue := none }))
    ∧ (s.phase.admissionDue = some false → phStat s 3 = true → Gives .admissionStop s (fun s' =>
      Raises { s with phase := { s.phase with admissionDue := none } } s' [Reg.PH_STAT, Reg.PG_IRQ_RAW Reg.phasePage]
      ∧ reg s' Reg.PH_STAT = setBit (reg s Reg.PH_STAT) 3 false ∧ flag s' (Reg.PG_IRQ_RAW Reg.phasePage) 5 = true))
    ∧ (∀ o r, s.phase.calOpens = o :: r → o ≤ s.phase.count → Gives .calWindowOpen s (fun s' => s' = { s with
        regs := s'.regs
        phase := { s.phase with calOpens := r, calEnd := some (max (o + fld s Reg.CAL_WIN 15 0) (s.phase.calEnd.getD 0)) } }
      ∧ RegsBut s s' [Reg.PH_STAT] ∧ reg s' Reg.PH_STAT = setBit (reg s Reg.PH_STAT) 5 true))
    ∧ (∀ e, s.phase.calEnd = some e → e ≤ s.phase.count → Gives .calWindowClose s (fun s' =>
      s' = { s with regs := s'.regs, phase := { s.phase with calEnd := none } }
      ∧ RegsBut s s' [Reg.PH_STAT] ∧ reg s' Reg.PH_STAT = setBit (reg s Reg.PH_STAT) 5 false))
    ∧ (s.phase.count ∈ s.phase.testPulses → Gives .testPulseCrossing s (fun s' => s' = { s with
        xings := s'.xings, phase := { s.phase with testPulses := s.phase.testPulses.filter (fun c => s.phase.count < c) } }
      ∧ xing s' s.phase.count = { xing s s.phase.count with tp := true } ∧ ∀ b, b ≠ s.phase.count → xing s' b = xing s b))
    ∧ (s.phase.orbitLenDue = true → Gives .orbitLenApply s (fun s' => s' = { s with
        regs := s'.regs
        phase := { s.phase with
          len := fld s Reg.ORBIT_LEN 16 0, orbitLenStaged := false, orbitLenDue := false
          runs := ⟨s.phase.count, s.phase.now, fld s Reg.ORBIT_LEN 16 0⟩ :: s.phase.runs.filter (fun r => r.b ≠ s.phase.count) } }
      ∧ RegsBut s s' [Reg.RU_GEN] ∧ reg s' Reg.RU_GEN = 0)))

/-- R11–R16, R26, R27, R32–R34. A good frame waits for the crossing 16 after its last bit, one with a code or check error, or met by a loss of MCLK, is counted and recorded and never runs. A command whose crossing has come leaves the wait, is counted in CMD_CNT and CMD_LAST,
raises interrupt 6 and has the effect of its type: CROSSING_RESET makes the index 0, ORBIT_RESET holds its orbit for the next boundary, RUN_START counts its boundaries, RUN_STOP asks for the next one, CAL_WINDOW and TEST_PULSE set crossings, HOLD and
RESUME set and clear held, SYNC_CHECK compares the low orbit bits. A command that is not allowed, or whose argument should be 0 and is not, only counts as refused with source 0x04, and a reserved type with source 0x03.
CMD_INJECT acts at the next crossing plus 16, and is refused in RUN, DRAIN and ORPHAN. ORBIT_LEN, DECISION_LAT and GUARD take a value in range outside those modes; else the write is refused with source 0x0A and changes none of them. PTP_CAPTURE's read
copies the latest capture. -/
def Obligations.CommandChannel : Prop := ∀ s : State,
  let ph := s.phase
  let refused := fun (c : Instr) => Gives c s (fun s' => Noted s s' [] Reg.phasePage 0x0A)
  (Gives .mcmdLockAcquired s (fun s' => s' = { s with regs := s'.regs, phase := { ph with lockLostAt := none } }
    ∧ RegsBut s s' [Reg.PH_STAT] ∧ reg s' Reg.PH_STAT = setBit (reg s Reg.PH_STAT) 2 true))
  ∧ (phStat s 2 = true → Gives .mcmdLockLost s (fun s' =>
    Noted { s with phase := { ph with lockLostAt := some ph.count } } s' [Reg.PH_STAT] Reg.phasePage 2
    ∧ reg s' Reg.PH_STAT = setBit (reg s Reg.PH_STAT) 2 false))
  ∧ (∀ (w : BitVec 16) (chk : Byte) (e : Bool), phStat s 0 = false → substOn s = false →
    Gives (.mcmdFrame w chk e) s (fun s' => Noted s s' [Reg.CMD_ERR_CNT] Reg.phasePage 0
      ∧ fld s' Reg.CMD_ERR_CNT 31 24 = sat 255 (fld s Reg.CMD_ERR_CNT 31 24 + 1)))
  ∧ (∀ (w : BitVec 16) (chk : Byte), phStat s 0 = true → phStat s 2 = true → substOn s = false → enField s Reg.phasePage Reg.PH_CTL 2 = true →
    (NoArm s Reg.phasePage 1 → crc8 (beBytes 2 w.toNat) = chk → exec (.mcmdFrame w chk false) s =
      .next { s with phase := { ph with sched := ph.sched ++ [{ due := ph.count + 16, injected := false, word := w }] } })
    ∧ (crc8 (beBytes 2 w.toNat) ≠ chk → Gives (.mcmdFrame w chk false) s (fun s' => Noted s s' [Reg.CMD_ERR_CNT] Reg.phasePage 1
      ∧ fld s' Reg.CMD_ERR_CNT 23 16 = sat 255 (fld s Reg.CMD_ERR_CNT 23 16 + 1)))
    ∧ Gives (.mcmdFrame w chk true) s (fun s' => Noted s s' [Reg.CMD_ERR_CNT] Reg.phasePage 0
      ∧ fld s' Reg.CMD_ERR_CNT 31 24 = sat 255 (fld s Reg.CMD_ERR_CNT 31 24 + 1)))
  ∧ (∀ c : SchedCmd, firstDue s = some c →
    let a := cmdArg c.word
    let left := { ph with sched := ph.sched.erase c }
    let ran := fun (p : Phase) (s' : State) => Raises { s with phase := p } s' [Reg.CMD_CNT, Reg.CMD_LAST, Reg.PG_IRQ_RAW Reg.phasePage]
      ∧ reg s' Reg.CMD_CNT = reg s Reg.CMD_CNT + 1 ∧ reg s' Reg.CMD_LAST = word (p.now.index * 65536 + c.word.toNat)
      ∧ flag s' (Reg.PG_IRQ_RAW Reg.phasePage) 6 = true
    let turned := fun (s' : State) => Noted { s with phase := left } s' [Reg.CMD_ERR_CNT] Reg.phasePage 4
      ∧ fld s' Reg.CMD_ERR_CNT 7 0 = sat 255 (fld s Reg.CMD_ERR_CNT 7 0 + 1)
    let ty := cmdType c.word
    (ty = 0 → Gives .mcmdNop s (ran left))
    ∧ (ty = 1 → (a = 0 → modeLocked s = false → Gives .crossingReset s (fun s' =>
          s'.phase.now = { ph.now with index := 0 } ∧ s'.phase.count = ph.count ∧ s'.phase.sched = left.sched
          ∧ reg s' Reg.CMD_CNT = reg s Reg.CMD_CNT + 1 ∧ reg s' Reg.CMD_LAST = word c.word.toNat
          ∧ flag s' (Reg.PG_IRQ_RAW Reg.phasePage) 6 = true ∧ s'.threads = s.threads ∧ s'.queues = s.queues
          ∧ (ph.now.index = 0 → ran left s')))
      ∧ (a ≠ 0 ∨ modeLocked s = true → Gives .crossingReset s turned))
    ∧ (ty = 2 → (modeLocked s = false → Gives .orbitReset s (ran { left with orbitResetAt := some (ph.count, a) }))
      ∧ (modeLocked s = true → Gives .orbitReset s turned))
    ∧ (ty = 3 → (mode s = 4 → Gives .runStart s (ran { left with admissions := ph.admissions ++ [(a + 1, true)] }))
      ∧ (mode s ≠ 4 → Gives .runStart s turned))
    ∧ (ty = 4 → (a = 0 → Gives .runStop s (ran { left with admissions := ph.admissions ++ [(1, false)] }))
      ∧ (a ≠ 0 → Gives .runStop s turned))
    ∧ (ty = 5 → (fld s Reg.CAL_WIN 15 0 = 0 → Gives .calWindow s (ran left))
      ∧ (0 < fld s Reg.CAL_WIN 15 0 → Gives .calWindow s (fun s' => s'.phase = { left with calOpens := ph.calOpens ++ [ph.count + a] }
        ∧ reg s' Reg.CMD_CNT = reg s Reg.CMD_CNT + 1 ∧ (a = 0 → (xing s' ph.count).cal = true) ∧ ∀ b, b ≠ ph.count → xing s' b = xing s b)))
    ∧ (ty = 6 → Gives .testPulse s (fun s' => s'.phase = { left with testPulses := ph.testPulses ++ [ph.count + a] }
        ∧ reg s' Reg.CMD_CNT = reg s Reg.CMD_CNT + 1 ∧ (a = 0 → (xing s' ph.count).tp = true) ∧ ∀ b, b ≠ ph.count → xing s' b = xing s b))
    ∧ (ty = 7 → (a = 0 → Gives .hold s (fun s' => s'.phase = left ∧ reg s' Reg.PH_STAT = setBit (reg s Reg.PH_STAT) 4 true
        ∧ reg s' Reg.CMD_CNT = reg s Reg.CMD_CNT + 1))
      ∧ (a ≠ 0 → Gives .hold s turned))
    ∧ (ty = 8 → (a = 0 → Gives .resume s (fun s' => s'.phase = left ∧ reg s' Reg.PH_STAT = setBit (reg s Reg.PH_STAT) 4 false
        ∧ reg s' Reg.CMD_CNT = reg s Reg.CMD_CNT + 1))
      ∧ (a ≠ 0 → Gives .resume s turned))
    ∧ (ty = 9 → Gives .syncCheck s (fun s' => s'.phase = left ∧ phStat s' 7 = decide (a ≠ ph.now.orbit % 4096)
        ∧ reg s' Reg.CMD_CNT = reg s Reg.CMD_CNT + 1
        ∧ (a ≠ ph.now.orbit % 4096 → flag s' (Reg.PG_ERR_STICKY Reg.phasePage) 9 = true)
        ∧ (a ≠ ph.now.orbit % 4096 → mode s = 4 → flag s' Reg.BL_SUMMARY 30 = true)))
    ∧ (10 ≤ ty → Gives .mcmdReservedType s (fun s' => Noted { s with phase := left } s' [Reg.CMD_ERR_CNT] Reg.phasePage 3
        ∧ fld s' Reg.CMD_ERR_CNT 15 8 = sat 255 (fld s Reg.CMD_ERR_CNT 15 8 + 1))))
  ∧ (∀ w, (modeLocked s = false → exec (.cmdInject w) s =
      .next { s with phase := { ph with sched := ph.sched ++ [{ due := ph.count + 17, injected := true, word := w }] } })
    ∧ (modeLocked s = true → Gives (.cmdInject w) s (fun s' => Noted s s' [Reg.CMD_ERR_CNT] Reg.phasePage 4
      ∧ fld s' Reg.CMD_ERR_CNT 7 0 = sat 255 (fld s Reg.CMD_ERR_CNT 7 0 + 1))))
  ∧ (∀ v : Word, let n := bits v 16 0
    (modeLocked s = false → 1 ≤ n → n ≤ 65536 → Gives (.orbitLenWrite v) s (fun s' =>
      s' = { s with regs := s'.regs, phase := { ph with orbitLenStaged := true } } ∧ RegsBut s s' [Reg.ORBIT_LEN]
      ∧ fld s' Reg.ORBIT_LEN 16 0 = n))
    ∧ (modeLocked s = true ∨ n = 0 ∨ 65536 < n → refused (.orbitLenWrite v)))
  ∧ (∀ v : Word, let n := bits v 14 0
    (modeLocked s = false → runPending s = false → 64 ≤ n → n ≤ 16384 → guard s + 32 ≤ n → Gives (.decisionLatWrite v) s (fun s' =>
      OnlyRegs s s' [Reg.DECISION_LAT, Reg.SC_RATE, Reg.SC_FIT] ∧ lat s' = n))
    ∧ (modeLocked s = true ∨ runPending s = true ∨ n < 64 ∨ 16384 < n ∨ n < guard s + 32 → refused (.decisionLatWrite v)))
  ∧ (∀ v : Word, let n := bits v 7 0
    (modeLocked s = false → 1 ≤ n → n + 32 ≤ lat s → Gives (.guardWrite v) s (fun s' => OnlyRegs s s' [Reg.GUARD] ∧ guard s' = n))
    ∧ (modeLocked s = true ∨ n = 0 ∨ lat s < n + 32 → refused (.guardWrite v)))
  ∧ (∀ (ps : PS) (sec ns : Nat), ph.capture = some (ps, sec, ns) → Gives .ptpCaptureRead s (fun s' =>
    s' = { s with regs := s'.regs, resp := [(reg s Reg.PTP_CAPTURE).toNat] }
    ∧ RegsBut s s' [Reg.PTP_CAP_ORBIT_LO, Reg.PTP_CAP_ORBIT_HI, Reg.PTP_CAP_SEC_LO, Reg.PTP_CAP_SEC_HI, Reg.PTP_CAP_NS]
    ∧ reg s' Reg.PTP_CAP_ORBIT_LO = word ps.orbit ∧ reg s' Reg.PTP_CAP_ORBIT_HI = word (ps.orbit / 2 ^ 32 % 65536)
    ∧ reg s' Reg.PTP_CAP_SEC_LO = word sec ∧ reg s' Reg.PTP_CAP_SEC_HI = word (sec / 2 ^ 32 % 65536)
    ∧ reg s' Reg.PTP_CAP_NS = word (ns % 2 ^ 30)))

/-- R38–R41, R43, R48, R62, R66, R74–R77, R82, R236, R237, R239, R413. HEADER_CAPTURE on an UP lane holds bytes of a frame while they are fewer than 64 or of another EtherType; after that it takes the head: with a cause of R40 it takes no Scroll line and its counter rises; the first frame of a crossing takes the lines at the allocation
pointer, whose extent then belongs to the crossing, and the lane waits for a Stylus pipe; without room it counts SCROLL_FULL and the crossing is dead for the partition. STYLUS_CLASSIFY serves the lane that waits longest: a parse failure gets no lookup and the
entry of a miss, a hit the fields of its entry. FRAME_END counts the frame; a frame that has a code error, an uncorrectable codeword, or a CRC or length that fails leaves no FD and no trace in the Copybook; one that passes stands in the Scroll with good tags, and a hit that forwards builds one INGRESS FD
with the frame's fields and carry check, a DROP none. A frame that the path does not take is counted. RL_TOKEN_REFILL adds one token up to the burst. -/
def Obligations.FramesComeIn : Prop := (∀ (n : LaneId) (head : List Byte) (s : State), looped s n = false → frameLane s n = true → (lane s n).rx = none →
  starts s (Reg.lanePage n) = true →
  (head.length < 64 ∨ otherEtype s n head = true → Gives (.headerCapture n head) s (fun s' =>
    s' = { s with lanes := s'.lanes } ∧ TblAt (fun _ => {}) s.lanes s'.lanes n { lane s n with held := head }))
  ∧ (64 ≤ head.length → otherEtype s n head = false →
  let c := cfhOf s n head
  let step := parseStep s c
  let current := step ≠ 0 || standaloneSubst s
  let ps := if current then s.phase.now else cfhPs c
  let b := if current then s.phase.count else (countAt s (ageOfPs s ps)).toNat
  let held := fun (cause : Option DropCause) (line : Nat) => some ({ head := head, parse := step, cause := cause, b := b, ps := ps, line := line, lines := frameLines (cfhLen c) (step ≠ 0), order := s.frameOrder, result := none, fin := none } : RxFrame)
  let lines := frameLines (cfhLen c) (step ≠ 0)
  (∀ cause, stampCause s current ps = some cause → Gives (.headerCapture n head) s (fun s' =>
    s' = { s with regs := s'.regs, lanes := s'.lanes, frameOrder := s.frameOrder + 1 } ∧ RegsBut s s' [causeReg n cause]
    ∧ reg s' (causeReg n cause) = reg s (causeReg n cause) + 1
    ∧ TblAt (fun _ => {}) s.lanes s'.lanes n { lane s n with held := [], rx := held (some cause) 0 }))
  ∧ (stampCause s current ps = none → (xing s b).extents = [] → lines ≤ 64 → scrollPtr s < 32768 →
    ((extent s (scrollPtr s)).owner = none → dispatchWaiting s < 4096 → Gives (.headerCapture n head) s (fun s' =>
      s'.stylusQ = s.stylusQ ++ [n.val] ∧ lane s' n = { lane s n with held := [], rx := held none (64 * scrollPtr s) }
      ∧ (∀ m, m ≠ n.val → lane s' m = lane s m) ∧ (extent s' (scrollPtr s)).owner = some b
      ∧ (∀ e, e ≠ scrollPtr s → extent s' e = extent s e) ∧ scrollPtr s' = (scrollPtr s + 1) % 32768
      ∧ (xing s' b).extents = [scrollPtr s] ∧ s'.dispatchQ = s.dispatchQ ∧ s'.threads = s.threads))
    ∧ ((extent s (scrollPtr s)).owner ≠ none → Gives (.headerCapture n head) s (fun s' =>
      lane s' n = { lane s n with held := [], rx := held (some .scrollFull) 0 } ∧ s'.stylusQ = s.stylusQ ∧ s'.extents = s.extents
      ∧ reg s' (Reg.DROP_SCROLL_FULL n) = reg s (Reg.DROP_SCROLL_FULL n) + 1 ∧ bit (xing s' b).dead (lanePid s n) = true)))))
  ∧ (∀ (n : LaneId) (s : State) (rest : List Nat) (f : RxFrame), starts s Reg.stylusPage = true → s.stylusQ = n.val :: rest →
    (lane s n).ended = [] → (lane s n).rx = some f →
    (f.parse ≠ 0 ∨ mode s = 2 → Gives (.stylusClassify n) s (fun s' => ∃ r : StylusResult, r.miss = true ∧ r.entry = 0x1FFFFF
      ∧ s' = { s with stylusQ := rest, lanes := s'.lanes }
      ∧ TblAt (fun _ => {}) s.lanes s'.lanes n { lane s n with rx := some { f with result := some r } }))
    ∧ (f.parse = 0 → mode s ≠ 2 → ∀ i, (cbLookup { s with stylusQ := rest } (cbKey (lanePid s n) (cfhChannel (cfhOf s n f.head)))).1 = some i →
      Gives (.stylusClassify n) s (fun s' => s'.stylusQ = rest ∧ ∃ r, lane s' n = { lane s n with rx := some { f with result := some r } }
        ∧ r.miss = false ∧ r.entry = i ∧ r.action = entryAction (entry s i) ∧ r.cls = entryClass (entry s i) ∧ r.eq = entryEq (entry s i))))
  ∧ (∀ (n : LaneId) (link : LinkFrame) (frame : List Byte) (ending : FrameEnding) (fec fecOdd : FecCount) (s : State) (f : RxFrame) (r : StylusResult),
    receivedFrame link = some (frame, ending) → looped s n = false → frameLane s n = true → (lane s n).rx = some f →
    f.cause = none → f.result = some r → frame.length ≤ 9216 → f.line < 2097152 →
    let len := (endOf s n f frame).1
    let p := lanePid s n
    let c := cfhOf s n f.head
    let uncorrectable := fec.uncorr ≠ 0 ∨ (linkLanes s n ≠ [n] ∧ fecOdd.uncorr ≠ 0)
    (linkCrcOk frame = false ∨ frame.length < 64 ∨ ending ≠ .ended ∨ uncorrectable → Gives (.frameEnd n link fec fecOdd) s (fun s' => (lane s' n).rx = none
      ∧ (lane s' n).held = []
      ∧ reg s' (Reg.RX_FRAMES n) = reg s (Reg.RX_FRAMES n) + 1 ∧ reg s' (Reg.DROP_LINK_CHECK n) = reg s (Reg.DROP_LINK_CHECK n) + 1
      ∧ s'.dispatchQ = s.dispatchQ ∧ s'.copybook = s.copybook ∧ s'.parts = s.parts))
    ∧ (linkCrcOk frame = true → 64 ≤ frame.length → ending = .ended → ¬ uncorrectable → Gives (.frameEnd n link fec fecOdd) s (fun s' => (lane s' n).rx = none
      ∧ reg s' (Reg.RX_FRAMES n) = reg s (Reg.RX_FRAMES n) + 1 ∧ rdBytes s' (64 * f.line) len = slice frame (laneCfh s n) len
      ∧ (∀ i < f.lines, Tbl.get (fun _ => {}) s'.lineTags (f.line + i) = { pid := p, good := true })
      ∧ ((endOf s n f frame).2 = 0 → mode s ≠ 2 → framesDropped s p = false → r.miss = false →
        (r.action = 0 → s'.dispatchQ = s.dispatchQ ∧ reg s' Reg.ST_DROP_ACTION = reg s Reg.ST_DROP_ACTION + 1)
        ∧ (r.action = 1 → r.cls < 15 → r.eq < 256 → r.entry < 2097152 → classOpen s r.cls p = true →
          ∃ g, s'.dispatchQ = s.dispatchQ ++ [g] ∧ fdKind g = 0 ∧ fdPid g = p ∧ fdClass g = r.cls ∧ fdLane g = n ∧ fdAction g = 1
            ∧ fdChannel g = cfhChannel c ∧ g.w2 = spsOf f.ps ∧ fdSeq g = cfhSeq c ∧ fdLen g = len ∧ g.w4 = word f.line
            ∧ g.w5 = crc32c (slice frame (laneCfh s n) len) ∧ bits g.w6 20 0 = r.entry ∧ fdQueue g = r.eq)))))
  ∧ (∀ (n : LaneId) (link : LinkFrame) (frame : List Byte) (s : State), receivedFrame link = some (frame, .ended) → looped s n = false →
    frameLane s n = true → (lane s n).rx = none → starts s (Reg.lanePage n) = true →
    let only := fun (s' : State) (l : List Nat) => s' = { s with regs := s'.regs, lanes := s'.lanes } ∧ RegsBut s s' l
      ∧ TblAt (fun _ => {}) s.lanes s'.lanes n { lane s n with held := [] }
    (otherEtype s n frame = true → Gives (.frameEnd n link {} {}) s (fun s' => only s' [Reg.RX_FRAMES n, Reg.OTHER_ETYPE n]
      ∧ reg s' (Reg.RX_FRAMES n) = reg s (Reg.RX_FRAMES n) + 1 ∧ reg s' (Reg.OTHER_ETYPE n) = reg s (Reg.OTHER_ETYPE n) + 1))
    ∧ (otherEtype s n frame = false → frame.length < 64 → Gives (.frameEnd n link {} {}) s (fun s' =>
      only s' [Reg.RX_FRAMES n, Reg.RUNT n, Reg.DROP_LINK_CHECK n] ∧ reg s' (Reg.RUNT n) = reg s (Reg.RUNT n) + 1
      ∧ reg s' (Reg.DROP_LINK_CHECK n) = reg s (Reg.DROP_LINK_CHECK n) + 1)))
  ∧ (∀ s : State, starts s Reg.stylusPage = true → Gives .rlTokenRefill s (fun s' => OnlyRegs s s' [Reg.ST_RL_TOKENS]
    ∧ fld s' Reg.ST_RL_TOKENS 15 0 = sat (fld s Reg.ST_RL_BURST 15 0) (fld s Reg.ST_RL_TOKENS 15 0 + 1)))

/-- R37, R42, R45, R51, R53, R211–R214. DISPATCH takes the FD of the class that was built first, deals it to the next thread of the class with room, and takes a free slot for it, incomplete, with that thread; in class 15 the slot is complete at once; while no
thread has room it waits. A frame with CHKERR is dropped. A completion that reaches a slot of its key completes it; one that reaches a HOLE only counts as late. An incomplete slot becomes a HOLE once its timeout has passed, and not before. A slot is released only when R51
lets it: it is free again, and a TRANSMIT verdict queues its FD at the end of its queue, CONSUME queues nothing, any other is counted in LG_DISCARD, and a HOLE in LG_HOLES. -/
def Obligations.DispatchAndRelease : Prop := (∀ (c : Fin 16) (s : State) (f : FD), starts s Reg.stylusPage = true → starts s Reg.ligaturePage = true →
  s.dispatchQ.find? (fun f => fdClass f = c) = some f → (bit f.w0 5 = true → bit f.w0 10 = false → exec (.dispatch c) s = .next { s with dispatchQ := s.dispatchQ.erase f })
  ∧ (bit f.w0 5 = false → (∃ k < 16384, slot s k = none) →
  classReserved s c < reserveOf s c ∨ 0 < poolFree s →
  (c = 15 → Gives (.dispatch c) s (fun s' => s'.dispatchQ = s.dispatchQ.erase f ∧ s'.threads = s.threads ∧ ∃ k < 16384, slot s k = none
    ∧ (∀ j, j ≠ k → slot s' j = slot s j) ∧ ∃ x, slot s' k = some x ∧ x.done = some x.fd ∧ x.hole = false ∧ x.cls = 15 ∧ fdKey x.fd = fdKey f
    ∧ fdSlot x.fd = k))
  ∧ (∀ i t, c ≠ 15 → bit f.w0 10 = false → nextThread s c = some (i, t) → blockedOn s t 0 = false → Gives (.dispatch c) s (fun s' =>
    s'.dispatchQ = s.dispatchQ.erase f ∧ ∃ k < 16384, slot s k = none ∧ (∀ j, j ≠ k → slot s' j = slot s j)
    ∧ ∃ x, slot s' k = some x ∧ x.done = none ∧ x.hole = false ∧ x.cls = c ∧ x.tid = some t ∧ x.takenAt = s.phase.count ∧ fdKey x.fd = fdKey f
      ∧ fdSlot x.fd = k ∧ thread s' t = { thread s t with ch0 := (thread s t).ch0 ++ [x.fd] } ∧ ∀ u, u ≠ t → thread s' u = thread s u))
  ∧ (c ≠ 15 → nextThread s c = none → exec (.dispatch c) s = .next s)))
  ∧ (∀ (k : SlotId) (s : State) (g : FD) (x : Slot), s.compl.find? (fun e => e.1 = k.val) = some (k.val, g) → slot s k = some x →
    (x.hole = false → fdKey x.fd = fdKey g → Gives (.ligatureCompletion k) s (fun s' => s' = { s with compl := s.compl.erase (k.val, g), slots := s'.slots }
      ∧ TblAt (fun _ => none) s.slots s'.slots k (some { x with done := some g })))
    ∧ (x.hole = true → Gives (.ligatureCompletion k) s (fun s' =>
      Noted { s with compl := s.compl.erase (k.val, g) } s' [Reg.LG_LATE_COMPL] Reg.ligaturePage 1
      ∧ reg s' Reg.LG_LATE_COMPL = reg s Reg.LG_LATE_COMPL + 1)))
  ∧ (∀ (k : SlotId) (s : State) (x : Slot), slot s k = some x → x.done = none → x.hole = false →
    (x.takenAt + ligTimeoutOf s x.cls ≤ s.phase.count → Gives (.ligTimeout k) s (fun s' =>
      TblAt (fun _ => none) s.slots s'.slots k (some { x with hole := true }) ∧ s'.threads = s.threads ∧ s'.queues = s.queues
      ∧ flag s' (Reg.PG_ERR_STICKY Reg.ligaturePage) 0 = true))
    ∧ (s.phase.count < x.takenAt + ligTimeoutOf s x.cls → exec (.ligTimeout k) s = .next s))
  ∧ (∀ (k : SlotId) (s : State) (x : Slot), slot s k = some x → starts s Reg.ligaturePage = true →
    let freed := fun (s' : State) => slot s' k = none ∧ (∀ j, j ≠ k.val → slot s' j = slot s j) ∧ s'.threads = s.threads
    (releasable s k x = false → exec (.ligatureRelease k) s = .next s)
    ∧ (releasable s k x = true →
      (x.hole = true → Gives (.ligatureRelease k) s (fun s' => freed s' ∧ reg s' Reg.LG_HOLES = reg s Reg.LG_HOLES + 1 ∧ s'.queues = s.queues
        ∧ (flag s (Reg.LG_CFG x.cls) 31 = true → ∃ h, (part s' x.pid).rxPend.map Prod.fst = (part s x.pid).rxPend.map Prod.fst ++ [h]
            ∧ fdKind h = 2 ∧ bit h.w0 6 = true ∧ fdKey h = fdKey x.fd)))
      ∧ (∀ g, x.hole = false → x.done = some g → x.unordered = false → bit g.w0 5 = false → bit x.fd.w0 5 = false →
        (fdAction g = 0x10 → queuePid s (fdQueue g) = x.pid → queueOn s (fdQueue g) = true → x.pid < 16 →
          (queue s (fdQueue g)).length < fld s (Reg.queueLim (fdQueue g)) 13 0 → storeUsed s < 16384 → Gives (.ligatureRelease k) s (fun s' => freed s'
            ∧ TblAt (fun _ => []) s.queues s'.queues (fdQueue g) (queue s (fdQueue g) ++ [{ g with w0 := setBits g.w0 27 24 x.pid }])))
        ∧ (fdAction g = 0x11 → Gives (.ligatureRelease k) s (fun s' => freed s' ∧ s'.queues = s.queues ∧ s'.regs = s.regs))
        ∧ (fdAction g ≠ 0x10 → fdAction g ≠ 0x11 → Gives (.ligatureRelease k) s (fun s' => freed s' ∧ s'.queues = s.queues
          ∧ RegsBut s s' [Reg.LG_DISCARD] ∧ reg s' Reg.LG_DISCARD = reg s Reg.LG_DISCARD + 1)))))

/-- R50, R59, R67, R226–R231. On an UP lane with a free transmitter, when no eligible head has expired and the heads have no CHKERR, RULING_SELECT takes an eligible head of the highest priority, which leaves its queue and is on the lane; TX_FRAMES counts it and its shaper pays its cost. With none eligible
nothing starts, and while the lane is not UP, is sending, or after FATAL it does nothing. At its end a frame whose words read good and whose carry check matches leaves with the correct CRC; one that does not leaves with the complement and counts STOMPED. A refill adds
each shaper its rate up to the burst. A gate list is enabled exactly when its windows pass the check, or it already was; a list
enabled in a crossing in which a window begins may miss that window. -/
def Obligations.EgressScheduling : Prop := (∀ (n : LaneId) (s : State), frameLane s n = true → (lane s n).tx = none → fatal s = false → txOpen s n = true →
  starts s Reg.rulingPage = true →
  ((∃ q < 256, eligible s n q = true) → (∀ q < 256, eligible s n q = true → ∀ f, (queue s q).head? = some f → bit f.w0 5 = false ∧ (fdXing s f).any (retentionOver s) = false) →
    Gives (.rulingSelect n) s (fun s' => ∃ q f rest, q < 256 ∧ eligible s n q = true ∧ queue s q = f :: rest
      ∧ (∀ r < 256, eligible s n r = true → queuePrio s q ≤ queuePrio s r)
      ∧ TblAt (fun _ => []) s.queues s'.queues q rest ∧ (lane s' n).tx = some { fd := f, queue := q, b := fdXing s f, stomp := false }
      ∧ (∀ m, m ≠ n.val → lane s' m = lane s m) ∧ reg s' (Reg.TX_FRAMES n) = reg s (Reg.TX_FRAMES n) + 1 ∧ RegsBut s s' [Reg.TX_FRAMES n]
      ∧ (∀ k, queueShaper s q = some k → shTokens s' k = shTokens s k - (costOf s n q f * 256 : Nat))
      ∧ (∀ k, queueShaper s q ≠ some k → shTokens s' k = shTokens s k)))
  ∧ ((∀ q < 256, eligible s n q = false) → exec (.rulingSelect n) s = .next { s with free := s.free + 1 }))
  ∧ (∀ (n : LaneId) (s : State), frameLane s n = false ∨ txOpen s n = false ∨ (lane s n).tx ≠ none ∨ fatal s = true → exec (.rulingSelect n) s = .next s)
  ∧ (∀ (n : LaneId) (s : State) (f : TxFrame), (lane s n).tx = some f → looped s n = false →
    let len := fdLen f.fd
    let key := bufKey s f.fd.w4
    let data := (engineRead s key len 0x85).2.1
    let sent := fun (s' : State) (stomp : Bool) => let bytes := linkFrame s n data stomp
      (lane s' n).tx = none ∧ Out.frame n f.fd bytes (if laneMode s n = 1 then frameBlocks bytes else []) stomp ∈ s'.out
    (key + len ≤ 0x8000000 → (∀ i, i < (key % 8 + len + 7) / 8 → badAt s (key - key % 8 + 8 * i) = false) → Uninjected s → data = rdBytes s key len
      ∧ (crc32c data = f.fd.w5 → f.stomp = false → bit f.fd.w0 5 = false → Gives (.egressFrameEnd n) s (fun s' => sent s' false
        ∧ reg s' (Reg.STOMPED n) = reg s (Reg.STOMPED n) ∧ (f.b ≠ none → ∀ m, m ≠ n.val → lane s' m = lane s m))))
    ∧ (f.stomp = true ∨ bit f.fd.w0 5 = true → Gives (.egressFrameEnd n) s (fun s' => sent s' true ∧ reg s' (Reg.STOMPED n) = reg s (Reg.STOMPED n) + 1))
    ∧ ((engineRead s key len 0x85).1 = true ∨ crc32c data ≠ f.fd.w5 → Gives (.egressFrameEnd n) s (fun s' => sent s' true ∧ reg s' (Reg.STOMPED n) = reg s (Reg.STOMPED n) + 1
        ∧ flag s' (Reg.PG_ERR_STICKY Reg.blotterPage) 0 = true)))
  ∧ (∀ s : State, starts s Reg.rulingPage = true → Gives .shaperRefill s (fun s' => s' = { s with tokens := s'.tokens, shapers := s'.shapers }
    ∧ ∀ k < 32, let burst : Int := (fld s (Reg.RU_SH_BURST k) 23 0 * 256 : Nat)
      shTokens s' k = min burst (min burst (shTokens s k) + fld s (Reg.RU_SH_RATE k) 23 0)
      ∧ shForce s' k = (fld s (Reg.RU_SH_RATE k) 23 0, fld s (Reg.RU_SH_BURST k) 23 0)))
  ∧ (∀ (v : BitVec 8) (s : State), Gives (.gateListEnable v) s (fun s' =>
    (∀ g < 8, flag s' Reg.RU_GEN g = (bit v g && (flag s Reg.RU_GEN g || gateListOk s g)))
    ∧ ((∀ g < 8, bit v g = true → flag s Reg.RU_GEN g = true ∨ gateListOk s g = true) → s' = { s with regs := s'.regs, gateSkip := s'.gateSkip, free := s'.free } ∧ RegsBut s s' [Reg.RU_GEN]
      ∧ ∀ g, (bit v g = false ∨ flag s Reg.RU_GEN g = true ∨ ∀ w < 64, winLen s g w = 0 ∨ winStart s g w ≠ s.phase.now.index) →
        Tbl.get (fun _ => none) s'.gateSkip g = Tbl.get (fun _ => none) s.gateSkip g)
    ∧ ((∃ g < 8, bit v g = true ∧ flag s Reg.RU_GEN g = false ∧ gateListOk s g = false) → flag s' (Reg.PG_ERR_STICKY Reg.rulingPage) 3 = true)))

/-- R54, R60, R61, R69, R70, R72, R73, for a lane that is in no bonded pair. LANE_ENABLE of an OFF lane whose group is on, with its page enabled, sets enable and begins to acquire; with the group's domain off it is refused with source 0x03 and LANE_CTL keeps its value. LANE_DISABLE makes
an UP lane OFF with no error. 64 valid sync headers give block lock, 16 invalid ones of 64 or no signal take it, while the lane acquires or is DOWN. LANE_UP with block lock, and alignment where the lane uses FEC, makes it UP, with its bit in SG_LANE_UP and interrupt 1, and ends the QS marks. LANE_DOWN of an UP lane makes it DOWN: the frame received is dropped, the one being sent is
stomped, DOWN_EVENTS counts, interrupt 0 is set, its crossings are marked QS, and the source is recorded, in RUN as DEGRADE. HELLO_SEND sends a HELLO block with the remote-fault bit while the receiver is not UP, and HELLO_RECEIVE takes the lane and fault bit of the peer's. -/
def Obligations.LaneStates : Prop := ∀ (n : LaneId) (s : State), laneMode s n ≠ 3 → laneMode s n ≠ 4 →
  let st := Reg.LANE_STAT n
  let upReg := Reg.SG_LANE_UP (n / 32)
  let page := Reg.lanePage n
  let ctl := reg s (Reg.LANE_CTL n)
  (flag s (Reg.LANE_CTL n) 0 = false → ctl &&& 0x00FCFFFF = ctl → comboOk s n (setBit ctl 0 true) = true → laneCfh s n ≤ 32 → laneEnableOk s n (setBit ctl 0 true) = true →
    flag s (Reg.PG_CTL page) 0 = true → laneMode s n ≠ 0 → laneState s n = 0 → Gives (.laneEnable n) s (fun s' =>
      OnlyRegs s s' [Reg.LANE_CTL n, st, upReg, Reg.SC_RATE, Reg.SC_FIT] ∧ flag s' (Reg.LANE_CTL n) 0 = true ∧ laneState s' n = 1
      ∧ laneMode s' n = laneMode s n))
  ∧ (flag s (Reg.LANE_CTL n) 0 = false → domainOn s (4 + n / 32) = false → Gives (.laneEnable n) s (fun s' => Noted s s' [] page 3))
  ∧ (flag s (Reg.LANE_CTL n) 0 = true → ctl &&& 0x00FCFFFF = ctl → laneState s n = 2 → Gives (.laneDisable n) s (fun s' => flag s' (Reg.LANE_CTL n) 0 = false
    ∧ laneState s' n = 0 ∧ flag s' upReg (n % 32) = false ∧ (lane s' n).rx = none ∧ (lane s' n).qsDown = false
    ∧ (∀ f, (lane s n).tx = some f → (lane s' n).tx = some { f with stomp := true }) ∧ (∀ m, m ≠ n.val → lane s' m = lane s m) ∧ reg s' (Reg.DOWN_EVENTS n) = reg s (Reg.DOWN_EVENTS n) + 1
    ∧ flag s' (Reg.PG_IRQ_RAW page) 0 = true ∧ (∀ i, flag s' (Reg.PG_ERR_STICKY page) i = flag s (Reg.PG_ERR_STICKY page) i)))
  ∧ (laneState s n = 1 ∨ laneState s n = 3 →
    (∀ headers : List (BitVec 2), let last := headers.drop (headers.length - 64)
      (64 ≤ headers.length → (∀ h ∈ last, h = 1 ∨ h = 2) → Gives (.blockLockAcquired ⟨n, headers⟩) s (fun s' =>
        OnlyRegs s s' [st] ∧ flag s' st 4 = true ∧ flag s' st 5 = true ∧ laneState s' n = laneState s n))
      ∧ (headers.length < 64 ∨ (∃ h ∈ last, h = 0 ∨ h = 3) → exec (.blockLockAcquired ⟨n, headers⟩) s = .next s)
      ∧ (16 ≤ last.countP (fun h => h = 0 || h = 3) → Gives (.blockLockLost ⟨n, headers, false⟩) s (fun s' =>
        OnlyRegs s s' [st] ∧ flag s' st 5 = false ∧ laneState s' n = laneState s n))
      ∧ Gives (.blockLockLost ⟨n, headers, true⟩) s (fun s' => OnlyRegs s s' [st] ∧ flag s' st 4 = false ∧ flag s' st 5 = false ∧ laneState s' n = laneState s n))
    ∧ (∀ align, laneOn s n = true → flag s st 5 = true → (usesFec s n = true → align ≠ none) → Gives (.laneUp ⟨n, align⟩) s (fun s' =>
      s' = { s with regs := s'.regs, lanes := s'.lanes, out := s'.out } ∧ RegsBut s s' [st, upReg, Reg.PG_IRQ_RAW page]
      ∧ TblAt (fun _ => {}) s.lanes s'.lanes n { lane s n with qsDown := false }
      ∧ laneState s' n = 2 ∧ flag s' upReg (n % 32) = true ∧ flag s' (Reg.PG_IRQ_RAW page) 1 = true))
    ∧ (∀ align, laneOn s n = false ∨ flag s st 5 = false ∨ (usesFec s n = true ∧ align = none) → exec (.laneUp ⟨n, align⟩) s = .next s))
  ∧ (∀ lost : Bool, laneState s n = 2 → Gives (.laneDown n lost) s (fun s' => laneState s' n = 3 ∧ flag s' upReg (n % 32) = false
    ∧ (lane s' n).rx = none ∧ (lane s' n).qsDown = true ∧ (∀ f, (lane s n).tx = some f → (lane s' n).tx = some { f with stomp := true })
    ∧ (∀ m, m ≠ n.val → lane s' m = lane s m) ∧ reg s' (Reg.DOWN_EVENTS n) = reg s (Reg.DOWN_EVENTS n) + 1
    ∧ flag s' (Reg.PG_IRQ_RAW page) 0 = true ∧ flag s' (Reg.PG_ERR_STICKY page) lost.toNat = true
    ∧ ((lane s n).rx ≠ none ∨ (lane s n).held ≠ [] → reg s' (Reg.DROP_LINK_CHECK n) = reg s (Reg.DROP_LINK_CHECK n) + 1)
    ∧ (s.phase.started = true → s.phase.counting = true → bit (xing s' s.phase.count).qs (lanePid s n) = true)
    ∧ (mode s = 4 → flag s' Reg.BL_SUMMARY 30 = true) ∧ s'.queues = s.queues ∧ s'.threads = s.threads))
  ∧ (laneState s n ≠ 2 → ∀ lost, exec (.laneDown n lost) s = .next s)
  ∧ (strokeBlocks s n = true → laneState s n ≠ 0 →
    ((lane s n).tx = none → exec (.helloSend n) s = .next { s with out := s.out ++ [.hello n (helloBlock n (laneState s n ≠ 2))] })
    ∧ (∀ (peer : LaneId) (rf e : Bool), flag s st 5 = true → Gives (.helloReceive n (some (helloBlock peer rf)) e) s (fun s' =>
      Records s s' [st] ∧ fld s' st 15 8 = peer.val ∧ flag s' st 7 = rf ∧ laneState s' n = laneState s n
      ∧ (rf = true → flag s' (Reg.PG_ERR_STICKY page) 7 = true) ∧ (rf ≠ flag s st 7 → flag s' (Reg.PG_IRQ_RAW page) 2 = true))))

/-- R204, R215–R219, R221, R223–R225, R238. DECISION_SLOT_CLOSE closes the partition's oldest open slot whose deadline has come, complete if every instance with a final node has decided. DECISION_RELEASE of a slot whose release tick has come releases one record: the slot is gone, the sequence number
and the Signet's count of records rise by one, and the released bits are the slot's when it is complete and nothing withholds them, a deadline inside a fault interval of the partition included, DEFAULT_DECISION when it is incomplete, and 0 when throttled or dead; ACC_OUT takes them at b + L + 2 + coarse, and bits that are not 0 are
one accept at the end of the Copyist's queue, where it acts for the partition; before the tick, and after FATAL, nothing is released. ACC_OUT_DRIVE drives the oldest levels when their crossing opens. COPY_START takes the accept at the head: without a buffer it counts CP_NOBUF; else it is copied into EVENT FDs. COPY_DONE counts the event and queues its
FDs in order, or gives them to the host ring; SCROLL_EXTENT_FREE frees the extents of exactly the crossings past retention that nothing holds. -/
def Obligations.DecisionsAndReadout : Prop := (∀ (p : PartId) (s : State) (d : Decision),
  firstSlot s p (fun d => !d.closed && deadline s d.b ≤ s.phase.count) = some d → Gives (.decisionSlotClose p) s (fun s' =>
    s' = { s with decisions := s'.decisions } ∧ (∀ e ∈ s.decisions, e.p ≠ p.val ∨ e.b ≠ d.b → e ∈ s'.decisions)
    ∧ (∀ e ∈ s'.decisions, e.p = p.val → e.b = d.b → e.closed = true)
    ∧ ∃ e ∈ s'.decisions, e.p = p.val ∧ e.b = d.b ∧ e.complete = decide (d.decided = d.finals) ∧ e.bits = d.bits))
  ∧ (∀ (p : PartId) (th : Bool) (s : State) (d : Decision), fatal s = false →
    firstSlot s p (fun d => d.b + lat s ≤ s.phase.count) = some d → d.closed = true →
    let plain := orphaned s = false ∧ bit (xing s d.b).dead p = false ∧ (faultMarked s d).fault = false
    let dflt := if flag s Reg.DEFAULT_DECISION 31 then fld s Reg.DEFAULT_DECISION 15 0 else 0
    let released := fun (bits : Nat) (s' : State) =>
      (∀ e, e ∈ s'.decisions ↔ e ∈ s.decisions ∧ ¬ (e.p = p.val ∧ e.b = d.b)) ∧ (part s' p).seq = (part s p).seq + 1
      ∧ Tbl.get (fun _ => 0) s'.signet.tallies (32 * p) = sat 99999999999999999999 (Tbl.get (fun _ => 0) s.signet.tallies (32 * p) + 1)
      ∧ (fld s Reg.ACC_OUT_CTL 19 16 = p → s'.accOuts =
          s.accOuts ++ [{ b := d.b + lat s + 2 + fld s Reg.ACC_OUT_DELAY 17 8, bits := BitVec.ofNat 8 bits }])
      ∧ (fld s Reg.ACC_OUT_CTL 19 16 ≠ p → s'.accOuts = s.accOuts)
      ∧ (bits = 0 → s'.accepts = s.accepts)
      ∧ (bits ≠ 0 → decidesHere s p = true → enField s Reg.copyistPage (Reg.CP_PCTL p) 31 = true → copyistRuns s p = true →
        s.accepts.length < 1024 → ∃ l a, s'.accepts = l ++ [a] ∧ l.length = s.accepts.length ∧ a.p = p.val ∧ a.b = d.b ∧ a.bits = BitVec.ofNat 16 bits)
    (plain → throttled s p th = false → d.complete = true → Gives (.decisionRelease p th) s (released d.bits.toNat))
    ∧ (plain → throttled s p th = false → d.complete = false → Gives (.decisionRelease p th) s (released dflt))
    ∧ (throttled s p th = true ∨ bit (xing s d.b).dead p = true ∨ orphaned s = true → Gives (.decisionRelease p th) s (released 0)))
  ∧ (∀ (p : PartId) (th : Bool) (s : State), fatal s = true ∨ (∀ d ∈ s.decisions, d.p = p.val → s.phase.count < d.b + lat s) →
    exec (.decisionRelease p th) s = .next s)
  ∧ (∀ (s : State) (a : AccOut) (r : List AccOut), s.accOuts = a :: r → fatal s = false →
    (a.b ≤ s.phase.count → Gives .accOutDrive s (fun s' => ∃ l : BitVec 8, s' = { s with accOuts := r, out := s.out ++ [.accOut a.b l] }
      ∧ ∀ i < 8, bit l i = (flag s Reg.ACC_OUT_CTL i && (bit a.bits i ^^ flag s Reg.ACC_OUT_CTL (8 + i)))))
    ∧ (s.phase.count < a.b → exec .accOutDrive s = .next s))
  ∧ (∀ (s : State) (a : Accept) (r : List Accept), s.accepts = a :: r → s.copy = none → starts s Reg.copyistPage = true → a.p < 16 →
    ((iwAlloc s true 0x82 a.p none).1 ≠ stOk → Gives .copyStart s (fun s' => s'.copy = none ∧ s'.accepts.length = r.length
      ∧ reg s' Reg.CP_NOBUF = reg s Reg.CP_NOBUF + 1 ∧ flag s' (Reg.PG_ERR_STICKY Reg.copyistPage) 1 = true))
    ∧ ((iwAlloc s true 0x82 a.p none).1 = stOk → Gives .copyStart s (fun s' => s'.accepts.length = r.length ∧ ∃ c, s'.copy = some c ∧ c.acc = a
      ∧ 1 ≤ c.fds.length ∧ c.fds.length ≤ 8 ∧ (∀ f ∈ c.fds, fdKind f = 6 ∧ fdPid f = a.p ∧ f.w2 = spsOf a.ps)
      ∧ (a.held = false → c.fds.length = 1 ∧ reg s' Reg.CP_EXPIRED = reg s Reg.CP_EXPIRED + 1))))
  ∧ (∀ (s : State) (c : Copy), s.copy = some c → c.acc.p < 16 →
    let p := c.acc.p
    let q := fld s (Reg.CP_PCTL p) 7 0
    (c.acc.epoch = partEpoch s p →
      (flag s (Reg.CP_PCTL p) 30 = true → Gives .copyDone s (fun s' => s'.copy = none ∧ s'.queues = s.queues
        ∧ reg s' Reg.CP_EVENTS = reg s Reg.CP_EVENTS + 1
        ∧ (part s' p).rxPend = (part s p).rxPend ++ c.fds.map (fun f => (f, c.acc.ps))))
      ∧ (flag s (Reg.CP_PCTL p) 30 = false → fld s (Reg.CP_PCTL p) 9 8 = 0 → queuePid s q = p → queueOn s q = true →
        (queue s q).length + c.fds.length ≤ fld s (Reg.queueLim q) 13 0 → Tbl.wf (fun _ => []) s.queues = true → storeUsed s + c.fds.length ≤ 16384 →
        Gives .copyDone s (fun s' => s'.copy = none ∧ reg s' Reg.CP_EVENTS = reg s Reg.CP_EVENTS + 1
          ∧ TblAt (fun _ => []) s.queues s'.queues q (queue s q ++ c.fds.map (fun f => { f with w7 := setBits f.w7 31 24 q })))))
    ∧ (c.acc.epoch ≠ partEpoch s p → Gives .copyDone s (fun s' => s'.copy = none ∧ s'.queues = s.queues ∧ s'.parts = s.parts)))
  ∧ (∀ s : State, Tbl.wf (fun _ => {}) s.xings = true → Gives .scrollExtentFree s (fun s' => s' = { s with extents := s'.extents, xings := s'.xings }
    ∧ ∀ b, let due := (xing s b).extents ≠ [] ∧ retentionOver s b = true ∧ (xing s b).txHolds = 0 ∧ copyHolds s b = false
      (due → xing s' b = { xing s b with extents := [], openLines := 0, freed := true } ∧ ∀ e ∈ (xing s b).extents, extent s' e = {})
      ∧ (¬ due → xing s' b = xing s b)))

/-- R84, R85, R89, R92–R94, R98, R102, R280. A CBC_CMD written to an idle slot while nothing else waits is served at once, with its status in CBC_RESULT, busy clear and interrupt 2; while other requesters wait it waits for its turn, and a write to a busy slot sets refused. With every slot that it reads good: LOOKUP and READ show the entry or answer EMPTY, and READ
of another partition's entry NOT_OWNER; INSERT of an absent key puts a valid entry of the slot's partition with hits 0, last_seen the orbit and good parity into the lowest free way, ALREADY_DONE when the key stands, OVER_QUOTA at the limit, REFUSED for a reserved action; REPLACE keeps hits, last_seen and learned;
DELETE and DELETE_IDX clear the slot; CLEAR_HITS clears hits alone; MOVE puts the entry into the next set and clears its old slot; a reserved code is REFUSED with source 0x04, and so is every command while the partition is RESETTING (R280). No other entry changes. -/
def Obligations.CopybookCommands : Prop := ∀ (p : PartId) (cmd : Word) (au : Bool) (s : State),
  let x := cbDataKey s p
  let i := cmdIndex cmd
  let img := cbData s p
  let mine := fun (j : Nat) => entryPid (entry s j) = p.val
  let frame := fun (s' : State) => Records { s with copybook := s'.copybook } s'
    ([Reg.CB_USED, Reg.CB_MIGRATE_LEFT, Reg.CB_ROT, Reg.CBC_USE p, Reg.CBC_RESULT p] ++ (List.range 8).map (fun k => Reg.CBC_DATA0 p + 4 * k))
  let did := fun (st : Byte) (s' : State) => frame s' ∧ fld s' (Reg.CBC_RESULT p) 7 0 = st.toNat ∧ flag s' (Reg.CBC_RESULT p) 31 = false
    ∧ flag s' (Reg.PG_IRQ_RAW Reg.copybookPage) 2 = true ∧ s'.copybook.served = p ∧ s'.copybook.waiting = []
  let same := fun (st : Byte) (s' : State) => did st s' ∧ ∀ j, entry s' j = entry s j
  let only := fun (j : Nat) (e : Entry) (st : Byte) (s' : State) => did st s' ∧ entry s' j = e ∧ ∀ k, k ≠ j → entry s' k = entry s k
  let shown := fun (e : Entry) (s' : State) => ∀ k < 8, reg s' (Reg.CBC_DATA0 p + 4 * k) = (entryWords e).getD k 0
  let good := (∀ j ∈ cbProbe s x, parityOk (entry s j) = true) ∧ parityOk (entry s i) = true
  let mayInsert := cbRefused s p (entryAction img) (entryClass img) = false
  starts s Reg.copybookPage = true → NoArm s Reg.copybookPage 0 → NoArm s Reg.copybookPage 1 →
  (s.copybook.waiting = [] → flag s (Reg.CBC_RESULT p) 31 = false → partState s p = 6 →
    ∀ c ∈ [Instr.cbNop p cmd, .cbLookup p cmd, .cbRead p cmd au, .cbInsert p cmd, .cbReplace p cmd, .cbDelete p cmd, .cbDeleteIdx p cmd au, .cbClearHits p cmd,
      .cbMove p cmd au, .cbReservedCmd p cmd], Gives c s (fun s' => Records s s' [Reg.CBC_RESULT p] ∧ fld s' (Reg.CBC_RESULT p) 7 0 = stRefused.toNat
        ∧ flag s' (Reg.CBC_RESULT p) 31 = false ∧ flag s' (Reg.PG_ERR_STICKY Reg.copybookPage) 4 = true ∧ flag s' (Reg.PG_IRQ_RAW Reg.copybookPage) 2 = true))
  ∧ (s.copybook.waiting = [] → s.copybook.learn = [] → flag s (Reg.CBC_RESULT p) 31 = false → partState s p ≠ 6 →
    Gives (.cbNop p cmd) s (same stOk)
    ∧ Gives (.cbReservedCmd p cmd) s (fun s' => same stRefused s' ∧ flag s' (Reg.PG_ERR_STICKY Reg.copybookPage) 4 = true)
    ∧ (¬ mine i → bit cmd 29 = false → Gives (.cbRead p cmd au) s (fun s' => same stNotOwner s' ∧ ∀ k < 8, reg s' (Reg.CBC_DATA0 p + 4 * k) = reg s (Reg.CBC_DATA0 p + 4 * k))
      ∧ Gives (.cbDeleteIdx p cmd au) s (same stNotOwner) ∧ Gives (.cbMove p cmd au) s (same stNotOwner))
    ∧ (parityOk (entry s i) = false → mine i → Gives (.cbRead p cmd au) s (fun s' => same stParity s' ∧ shown (entry s i) s')
      ∧ Gives (.cbDeleteIdx p cmd au) s (only i {} stOk))
    ∧ (good →
      (mine i → Gives (.cbRead p cmd au) s (fun s' => same (if entryValid (entry s i) then stOk else stEmpty) s' ∧ shown (entry s i) s')
        ∧ (entryValid (entry s i) = true → Gives (.cbDeleteIdx p cmd au) s (only i {} stOk))
        ∧ (entryValid (entry s i) = false → Gives (.cbDeleteIdx p cmd au) s (same stEmpty) ∧ Gives (.cbMove p cmd au) s (same stEmpty))
        ∧ (entryValid (entry s i) = true → migrating s = true → inNext s i (entry s i) = true → Gives (.cbMove p cmd au) s (same stAlready))
        ∧ (∀ d, entryValid (entry s i) = true → migrating s = true → inNext s i (entry s i) = false →
          freeWay s (bucketsB s (entryKey (entry s i))).1 = some d → Gives (.cbMove p cmd au) s (fun s' => did stOk s'
            ∧ entry s' d = entry s i ∧ entry s' i = {} ∧ ∀ k, k ≠ d → k ≠ i → entry s' k = entry s k)))
      ∧ (cbFind s x = none → Gives (.cbLookup p cmd) s (same stEmpty) ∧ Gives (.cbDelete p cmd) s (same stEmpty)
        ∧ Gives (.cbClearHits p cmd) s (same stEmpty) ∧ (mayInsert → Gives (.cbReplace p cmd) s (same stEmpty)))
      ∧ (∀ j, cbFind s x = some j → Gives (.cbLookup p cmd) s (fun s' => same stOk s' ∧ shown (entry s j) s' ∧ (j < 2097152 → fld s' (Reg.CBC_RESULT p) 28 8 = j))
        ∧ Gives (.cbDelete p cmd) s (only j {} stOk)
        ∧ Gives (.cbClearHits p cmd) s (fun s' => only j (entry s' j) stOk s' ∧ (entry s' j).w0 = (entry s j).w0 ∧ (entry s' j).w1 = (entry s j).w1
          ∧ bits (entry s' j).w2 63 32 = 0 ∧ bits (entry s' j).w2 31 0 = bits (entry s j).w2 31 0 ∧ parityOk (entry s' j) = true)
        ∧ (mayInsert → Gives (.cbInsert p cmd) s (same stAlready)
          ∧ Gives (.cbReplace p cmd) s (fun s' => only j (entry s' j) stOk s' ∧ entryKey (entry s' j) = x ∧ (entry s' j).w1 = img.w1
            ∧ (entry s' j).w2 = (entry s j).w2 ∧ entryLearned (entry s' j) = entryLearned (entry s j) ∧ entryAction (entry s' j) = entryAction img
            ∧ parityOk (entry s' j) = true)))
      ∧ (cbFind s x = none → mayInsert →
        (fld s (Reg.CB_PLIM p) 21 0 ≤ cbUsed s p → Gives (.cbInsert p cmd) s (same stOverQuota))
        ∧ (∀ j, cbUsed s p < fld s (Reg.CB_PLIM p) 21 0 → freeWay s (bucketsIn s x).1 = some j → Gives (.cbInsert p cmd) s (fun s' =>
          only j (entry s' j) stOk s' ∧ entryKey (entry s' j) = x ∧ entryValid (entry s' j) = true ∧ parityOk (entry s' j) = true
          ∧ entryLearned (entry s' j) = false ∧ entryAction (entry s' j) = entryAction img ∧ entryClass (entry s' j) = entryClass img
          ∧ (entry s' j).w1 = img.w1 ∧ bits (entry s' j).w2 63 32 = 0 ∧ bits (entry s' j).w2 31 0 = s.phase.now.orbit % 2 ^ 32
          ∧ cbUsed s' p = (cbUsed s p + 1) % 2 ^ 22))))
    ∧ (¬ mayInsert → Gives (.cbInsert p cmd) s (same stRefused) ∧ Gives (.cbReplace p cmd) s (same stRefused)))
  ∧ (∀ c, s.copybook.waiting = [c] → s.copybook.learn = [] → c.slot < 16 → c.slot ≠ p.val → flag s (Reg.CBC_RESULT p) 31 = false → partState s p ≠ 6 →
    let queued := fun (mid : Nat) => ({ slot := p, cmd := setBits cmd 3 0 0, authority := false, epoch := partEpoch s p, mid := mid } : CbWaiting)
    (∀ mid, cbTurn { s with copybook := { s.copybook with waiting := [c, queued mid] } } = some c.slot) →
    Gives (.cbNop p cmd) s (fun s' => s'.copybook.entries = s.copybook.entries ∧ flag s' (Reg.CBC_RESULT p) 31 = true
      ∧ ∃ mid, s'.copybook.waiting = [c, queued mid]))

/-- R86, R91, R95, R96, R98, R100. LEARN_SERVE puts the oldest queued key, when it is absent and its template and quota allow, into the lowest free way with learned 1 and hits 0, and drops it from the queue; a key that stands is only dropped. AGING_SCAN visits one bucket and then the next: a valid stale entry is deleted
where its partition says so, every other entry stays. CB_MIGRATE_SET starts the migration with a fresh count; CB_MIGRATE_CLEAR is refused while entries are left, and otherwise makes the next seeds the current ones; CB_SWAP exchanges the two sets. CB_EVENT_POP answers the oldest event and drops it, or 0. -/
def Obligations.CopybookUpkeep : Prop := (∀ (s : State) (p : Nat) (x : Word) (r : List (Nat × Word)), s.copybook.learn = (p, x) :: r → s.copybook.waiting = [] →
  pageOn s Reg.copybookPage = true → NoArm s Reg.copybookPage 0 → NoArm s Reg.copybookPage 1 → p < 16 → bits x 27 24 = p → bits x 31 28 = 0 →
  (∀ j ∈ cbProbe s x, parityOk (entry s j) = true) →
  (∀ j, cbFind s x = some j → Gives .learnServe s (fun s' => s' = { s with copybook := { s.copybook with served := 16, learn := r } }))
  ∧ (∀ j, cbFind s x = none → fld s (Reg.CBC_LEARN p) 1 0 ≤ 3 → cbRefused s p (fld s (Reg.CBC_LEARN p) 1 0) (fld s (Reg.CBC_LEARN p) 27 24) = false →
    cbUsed s p < fld s (Reg.CB_PLIM p) 21 0 → freeWay s (bucketsIn s x).1 = some j → Gives .learnServe s (fun s' =>
      s' = { s with regs := s'.regs, copybook := s'.copybook } ∧ s'.copybook.learn = r ∧ s'.copybook.served = 16
      ∧ (∀ k, k ≠ j → entry s' k = entry s k) ∧ entryKey (entry s' j) = x ∧ entryValid (entry s' j) = true ∧ entryLearned (entry s' j) = true
      ∧ parityOk (entry s' j) = true ∧ entryAction (entry s' j) = fld s (Reg.CBC_LEARN p) 1 0 ∧ entryClass (entry s' j) = fld s (Reg.CBC_LEARN p) 27 24
      ∧ bits (entry s' j).w2 63 32 = 0 ∧ bits (entry s' j).w2 31 0 = s.phase.now.orbit % 2 ^ 32)))
  ∧ (∀ s : State, starts s Reg.copybookPage = true → NoArm s Reg.copybookPage 0 → NoArm s Reg.copybookPage 1 → let b := s.copybook.scan
    (∀ i ∈ waysOf b, parityOk (entry s i) = true) → Gives .agingScan s (fun s' => s'.copybook.scan = (b + 1) % 524288 ∧ s'.threads = s.threads
      ∧ ∀ i, entry s' i = if i ∈ waysOf b ∧ entryValid (entry s i) = true ∧ cbStale s (entry s i) = true
          ∧ flag s (Reg.CBC_AGE (entryPid (entry s i))) 30 = true then {} else entry s i))
  ∧ (∀ s : State, (migrating s = false → Gives .cbMigrateSet s (fun s' => OnlyRegs s s' [Reg.CB_CTL, Reg.CB_MIGRATE_LEFT] ∧ migrating s' = true
      ∧ fld s' Reg.CB_MIGRATE_LEFT 21 0 = cbLeft s % 2 ^ 22))
    ∧ (migrating s = true →
      (fld s Reg.CB_MIGRATE_LEFT 21 0 = 0 → Gives .cbMigrateClear s (fun s' => OnlyRegs s s' [Reg.CB_CTL, Reg.CB_SEED_A0, Reg.CB_SEED_A1]
        ∧ migrating s' = false ∧ reg s' Reg.CB_SEED_A0 = reg s Reg.CB_SEED_B0 ∧ reg s' Reg.CB_SEED_A1 = reg s Reg.CB_SEED_B1
        ∧ ∀ x, bucketsA s' x = bucketsB s x))
      ∧ (fld s Reg.CB_MIGRATE_LEFT 21 0 ≠ 0 → Gives .cbMigrateClear s (fun s' => Noted s s' [] Reg.copybookPage 4))
      ∧ Gives .cbSwap s (fun s' => OnlyRegs s s' [Reg.CB_SEED_A0, Reg.CB_SEED_A1, Reg.CB_SEED_B0, Reg.CB_SEED_B1, Reg.CB_MIGRATE_LEFT]
        ∧ ∀ x, bucketsA s' x = bucketsB s x ∧ bucketsB s' x = bucketsA s x))
    ∧ (∀ e r, s.copybook.events = e :: r → exec .cbEventPop s = .next { s with copybook := { s.copybook with events := r }, resp := [e.toNat] })
    ∧ (s.copybook.events = [] → exec .cbEventPop s = .next { s with resp := [0] }))

/-- R188–R191, R210. TEMPLATE_ENABLE starts the check of a template that is neither enabled nor under check. TEMPLATE_CHECK_DONE enables it exactly when nodes 0 to last are valid and no other node is; inputs and hints are in range; every valid edge targets a node up to last at a slot below that node's inputs; no node is on a cycle of edges; at most one node is final, and tmask is 0 when none is; the
home Nibs and the notice Nib belong to pid; the schedule is valid; and every reserved field is 0: its bit in DX_TPL_EN then reads 1 and the other bits are as before. Otherwise DX_TPL_EN is as before, DX_TPL_ERR holds the first failure unless it held one already, source 0x02 is recorded and interrupt 0 raised. TEMPLATE_DISABLE clears the bit; open instances stay. -/
def Obligations.DuctusTemplates : Prop := ∀ (k : Fin 256) (s : State),
  let t := k.val
  let d := s.ductus
  let last := tplLast s t
  let succ := fun (n m : Nat) => ∃ i < 4, edgeValid (nodeEdge s t n i) = true ∧ edgeNode (nodeEdge s t n i) = m
  let h := tplWord s t
  let passes := (∀ n < 64, bit (nodeWord s t n 0) 31 = decide (n ≤ last))
    ∧ (∀ n ≤ last, nodeInputs s t n ≤ 8 ∧ nodeHint s t n ≤ 4)
    ∧ (∀ n ≤ last, ∀ i < 4, edgeValid (nodeEdge s t n i) = true →
        edgeNode (nodeEdge s t n i) ≤ last ∧ edgeSlot (nodeEdge s t n i) < nodeInputs s t (edgeNode (nodeEdge s t n i)))
    ∧ (∀ n ≤ last, ¬ Relation.TransGen succ n n)
    ∧ (∀ n ≤ last, ∀ m ≤ last, nodeFinal s t n = true → nodeFinal s t m = true → n = m)
    ∧ ((∀ n ≤ last, nodeFinal s t n = false) → tplMask s t = 0)
    ∧ (∀ n ≤ last, nibPid s (nodeHome s t n) = tplPid s t) ∧ (bit (h 0) 15 = true → nibPid s (bits (h 0) 14 8) = tplPid s t)
    ∧ (bits (h 1) 31 29 ≤ 4 ∧ bits (h 1) 28 27 ≠ 3 ∧ bits (h 1) 26 25 ≠ 3 ∧ (bits (h 1) 31 29 = 2 → 1 ≤ bits (h 2) 31 16)
      ∧ (bits (h 1) 31 29 = 3 → bits (h 1) 4 0 ≤ 24))
    ∧ (bits (h 0) 31 28 = 0 ∧ bits (h 0) 23 22 = 0 ∧ bits (h 0) 7 0 = 0 ∧ bits (h 1) 24 5 = 0 ∧ bits (h 3) 15 0 = 0)
    ∧ (∀ n ≤ last, bits (nodeWord s t n 0) 1 0 = 0 ∧ bits (nodeWord s t n 3) 15 14 = 0
      ∧ ∀ i < 4, nodeEdge s t n i / 2 ^ 11 % 16 = 0 ∧ nodeEdge s t n i / 2 ^ 6 % 4 = 0)
  let en := Reg.DX_TPL_EN (t / 32)
  (dxTakes s = true → t ∉ d.enabled → t ∉ d.checking →
    exec (.templateEnable k) s = .next { s with ductus := { d with checking := d.checking ++ [t] } })
  ∧ (t ∈ d.checking → passes → Gives (.templateCheckDone k) s (fun s' =>
      OnlyRegs { s with ductus := { d with checking := d.checking.filter (· ≠ t), enabled := d.enabled ++ [t] } } s' [en]
      ∧ ∀ j < 32, flag s' en j = (decide (j = t % 32) || flag s en j)))
  ∧ (t ∈ d.checking → ¬ passes → ∃ reason node, 1 ≤ reason ∧ reason ≤ 8 ∧ node < 64 ∧ Gives (.templateCheckDone k) s (fun s' =>
      Noted { s with ductus := { d with checking := d.checking.filter (· ≠ t) } } s' [Reg.DX_TPL_ERR] Reg.ductusPage 2
      ∧ reg s' en = reg s en ∧ flag s' (Reg.PG_IRQ_RAW Reg.ductusPage) 0 = true
      ∧ reg s' Reg.DX_TPL_ERR = (if flag s Reg.DX_TPL_ERR 31 then reg s Reg.DX_TPL_ERR
          else word (2 ^ 31 + t * 2 ^ 16 + node * 2 ^ 8 + reason))))
  ∧ Gives (.templateDisable k) s (fun s' =>
      OnlyRegs { s with ductus := { d with checking := d.checking.filter (· ≠ t), enabled := d.enabled.filter (· ≠ t) } } s' [en]
      ∧ ∀ j < 32, flag s' en j = (decide (j ≠ t % 32) && flag s en j))

/-- R193–R195, R197, R198, R200, R209. OPERATION_READY of a node of an open instance whose inputs hold tokens and whose crossing has come gets an unused handle and joins the tail of the list of the Nib that last pulled its node, else of its home Nib; with that list full or the partition at its limit, the tail of the partition's enabled ring with room, DX_SPILL_MAX following;
else it is cancelled, DX_PDROP counts it and source 0x05 is recorded. INSTANCE_CLOSE at the deadline cancels every operation that no thread holds, counts each in DX_PCANCEL and closes the instance. INSTANCE_END frees the record of an instance whose nodes are all done or cancelled and, with notice, sends the two words of R195 to CH1 or holds them;
DUCTUS_NOTICE_DELIVER sends the oldest held notice once CH1 has room. SPILL_REFILL, while a list of the partition is below refill, moves the ring's head to the shortest one; it discards a cancelled
entry, and cancels one whose deadline has come or that reads uncorrectable, with source 0x06. A ring is enabled only in a region of the partition with 4,096 entries or more; DX_SPILL_MAX is cleared to the depth; a load window publishes its counts once DX_LOAD_WIN crossings have passed. -/
def Obligations.DuctusLifecycle : Prop := (∀ (i : Fin 32768) (n : Fin 64) (s : State) (x : Inst), findInst s i = some x → dxTakes s = true →
  x.nodes.getD n .done = .waiting → instLate s x = false → x.b + nodeNotBefore s x.tpl n ≤ s.phase.count →
  nodeInputs s x.tpl n ≤ (x.tokens.filter (fun k => k.node = n.val)).length → (∃ h < 65536, findOp s h = none) →
  let m := (Tbl.get (fun _ => none) s.ductus.puller (64 * x.tpl + n)).getD (nodeHome s x.tpl n)
  let p := x.pid
  let room := (dxList s m).length < 512 ∧ resident s p < fld s (Reg.DX_PLIM p) 16 0
  let ringRoom := enField s Reg.ductusPage (Reg.DX_SPILL_SIZE p) 31 = true ∧ (dxRing s p).length < 2 ^ fld s (Reg.DX_SPILL_SIZE p) 4 0
  let joins := fun (place : OpPlace) (s' : State) => ∃ o : Op, findOp s o.handle = none ∧ o.handle < 65536
    ∧ o = { handle := o.handle, inst := i, node := n, pid := p, place := place, readyAt := s.phase.count, aborted := false, epoch := x.epoch }
    ∧ s'.ductus.ops = s.ductus.ops ++ [o] ∧ findInst s' i = some (setNode x n .ready) ∧ (∀ j, j ≠ i.val → findInst s' j = findInst s j)
    ∧ (∀ k, dxList s' k = if place = .list k then dxList s k ++ [o.handle] else dxList s k)
    ∧ ∀ k, dxRing s' k = if place = .ring k then dxRing s k ++ [some o.handle] else dxRing s k
  (nib s m).fenced = false → nibPid s m = p →
  (room → Gives (.operationReady i n) s (fun s' => joins (.list m) s' ∧ s' = { s with ductus := s'.ductus, free := s'.free }))
  ∧ (¬ room → ringRoom → (dxRing s p).length < 8388607 → Gives (.operationReady i n) s (fun s' => joins (.ring p) s'
      ∧ s'.threads = s.threads ∧ s'.chans = s.chans ∧ s'.decisions = s.decisions ∧ fld s' (Reg.DX_SPILL_MAX p) 22 0 = max (fld s (Reg.DX_SPILL_MAX p) 22 0) ((dxRing s p).length + 1)))
  ∧ (¬ room → ¬ ringRoom → Gives (.operationReady i n) s (fun s' => s'.ductus.ops = s.ductus.ops ∧ s'.ductus.lists = s.ductus.lists ∧ s'.ductus.rings = s.ductus.rings
      ∧ findInst s' i = some { setNode x n .cancelled with tokens := x.tokens.filter (fun k => k.node ≠ n.val), cancelled := x.cancelled + 1 }
      ∧ Noted { s with ductus := s'.ductus } s' [Reg.DX_PDROP p, Reg.DX_PCANCEL p] Reg.ductusPage 5
      ∧ reg s' (Reg.DX_PDROP p) = reg s (Reg.DX_PDROP p) + 1)))
  ∧ (∀ (i : Fin 32768) (s : State) (x : Inst), findInst s i = some x →
    (deadline s x.b ≤ s.phase.count → x.closed = false →
      (∀ o ∈ s.ductus.ops, o.inst = i.val → o.node < x.nodes.length ∧ x.nodes.getD o.node .done = .ready) →
      (∀ o ∈ s.ductus.ops, ∀ q ∈ s.ductus.ops, o.handle = q.handle ∨ (o.inst = i.val ∧ q.inst = i.val ∧ o.node = q.node) → o = q) →
      let cut := fun (n : Nat) => x.nodes.getD n .done = .waiting ∨ ∃ o ∈ s.ductus.ops, o.inst = i.val ∧ o.node = n ∧ ∀ t, o.place ≠ .held t
      Gives (.instanceClose i) s (fun s' => OnlyRegs { s with ductus := s'.ductus } s' [Reg.DX_PCANCEL x.pid]
        ∧ (∀ o, o ∈ s'.ductus.ops ↔ o ∈ s.ductus.ops ∧ (o.inst ≠ i.val ∨ ∃ t, o.place = .held t))
        ∧ (∀ j, j ≠ i.val → findInst s' j = findInst s j)
        ∧ ∃ y, findInst s' i = some y ∧ y.closed = true ∧ y.b = x.b ∧ y.tpl = x.tpl ∧ y.nodes.length = x.nodes.length
          ∧ (∀ n < x.nodes.length, (cut n → y.nodes.getD n .done = .cancelled) ∧ (¬ cut n → y.nodes.getD n .done = x.nodes.getD n .done))
          ∧ x.cancelled ≤ y.cancelled ∧ reg s' (Reg.DX_PCANCEL x.pid) = reg s (Reg.DX_PCANCEL x.pid) + word (y.cancelled - x.cancelled)))
    ∧ (s.phase.count < deadline s x.b → exec (.instanceClose i) s = .next s)
    ∧ (instOver x = true →
      let s1 := { s with ductus := { s.ductus with insts := s.ductus.insts.filter (fun y => y.num ≠ i.val) } }
      let m := bits (tplWord s x.tpl 0) 14 8
      let kind := if (∀ n ∈ x.nodes, n = .done) ∧ x.closed = false then 1 else 2
      let msg := [word (x.tpl * 2 ^ 24 + kind * 2 ^ 16 + x.decided.toNat * 2 ^ 15 + x.num), word (min x.cancelled 0xFFFF * 2 ^ 16 + x.ps.index)]
      (bit (tplWord s x.tpl 0) 15 = false → exec (.instanceEnd i) s = .next s1)
      ∧ (bit (tplWord s x.tpl 0) 15 = true → (nib s m).fenced = false →
        ((nib s m).dxNotices = [] → chanRoom s m 1 = true → (chan s m 1).readers = [] → Gives (.instanceEnd i) s (fun s' =>
          s' = { s1 with chans := s'.chans } ∧ ChanAt s s' m 1 { chan s m 1 with msgs := (chan s m 1).msgs ++ [msg] }))
        ∧ (chanRoom s m 1 = false ∨ (nib s m).dxNotices ≠ [] → Gives (.instanceEnd i) s (fun s' => s' = { s1 with nibs := s'.nibs }
          ∧ nib s' m = { nib s m with dxNotices := (nib s m).dxNotices ++ [msg] } ∧ ∀ j, j ≠ m → nib s' j = nib s j)))))
  ∧ (∀ (n : NibId) (s : State) (m : List Word) (r : List (List Word)), (nib s n).dxNotices = m :: r → (nib s n).fenced = false →
    (chanRoom s n 1 = true → (chan s n 1).readers = [] → Gives (.ductusNoticeDeliver n) s (fun s' => s' = { s with nibs := s'.nibs, chans := s'.chans }
      ∧ ChanAt s s' n 1 { chan s n 1 with msgs := (chan s n 1).msgs ++ [m] } ∧ nib s' n = { nib s n with dxNotices := r }
      ∧ ∀ j, j ≠ n.val → nib s' j = nib s j))
    ∧ (chanRoom s n 1 = false → exec (.ductusNoticeDeliver n) s = .next s))
  ∧ (∀ (p : PartId) (s : State) (r : List (Option Nat)), dxRing s p = none :: r → dxTakes s = true → (∃ m ∈ liveNibs s p, (dxList s m).length < fld s Reg.DX_CTL 25 16) →
    Gives (.spillRefill p) s (fun s' => s' = { s with ductus := s'.ductus } ∧ dxRing s' p = r ∧ s'.ductus.ops = s.ductus.ops ∧ s'.ductus.lists = s.ductus.lists))
  ∧ (∀ (p : PartId) (s : State) (h : Nat) (r : List (Option Nat)) (o : Op) (x : Inst), dxRing s p = some h :: r → some h ∉ r → dxTakes s = true →
    findOp s h = some o → o.place = .ring p → findInst s o.inst = some x →
    let cancels := fun (s' : State) => dxRing s' p = r ∧ findOp s' h = none ∧ (∀ n, dxList s' n = dxList s n) ∧ reg s' (Reg.DX_PCANCEL x.pid) = reg s (Reg.DX_PCANCEL x.pid) + 1
    (instLate s x = true → (∃ m ∈ liveNibs s p, (dxList s m).length < fld s Reg.DX_CTL 25 16) → Gives (.spillRefill p) s (fun s' => cancels s' ∧ OnlyRegs { s with ductus := s'.ductus } s' [Reg.DX_PCANCEL x.pid]))
    ∧ (instLate s x = false →
      (∀ m ∈ liveNibs s p, (dxList s m).length < fld s Reg.DX_CTL 25 16 →
        (∀ k ∈ liveNibs s p, (dxList s m).length < (dxList s k).length ∨ (dxList s m).length = (dxList s k).length ∧ m ≤ k) →
        ((ringEntry s p).1 = false → Gives (.spillRefill p) s (fun s' => dxRing s' p = r
          ∧ findOp s' h = some { o with place := .list m } ∧ dxList s' m = dxList s m ++ [h] ∧ ∀ k, k ≠ m → dxList s' k = dxList s k))
        ∧ ((ringEntry s p).1 = true → Gives (.spillRefill p) s (fun s' => cancels s' ∧ flag s' (Reg.PG_ERR_STICKY Reg.ductusPage) 6 = true)))
      ∧ ((∀ m ∈ liveNibs s p, fld s Reg.DX_CTL 25 16 ≤ (dxList s m).length) → exec (.spillRefill p) s = .next s)))
  ∧ (∀ (p : PartId) (v : Word) (s : State),
    let good := 12 ≤ bits v 4 0 ∧ bits v 4 0 ≤ 22 ∧ inRegionOf s p (fld s (Reg.DX_SPILL_BASE p) 25 0 * 0x1000) (320 * 2 ^ bits v 4 0) = true
    (bit v 31 = false ∨ good → Gives (.spillRingEnable p v) s (fun s' => OnlyRegs s s' [Reg.DX_SPILL_SIZE p]
      ∧ flag s' (Reg.DX_SPILL_SIZE p) 31 = bit v 31 ∧ fld s' (Reg.DX_SPILL_SIZE p) 4 0 = bits v 4 0))
    ∧ (bit v 31 = true → ¬ good → exec (.spillRingEnable p v) s = .next s)
    ∧ (bit v 0 = true → Gives (.dxSpillMaxClear p v) s (fun s' => OnlyRegs s s' [Reg.DX_SPILL_MAX p]
      ∧ fld s' (Reg.DX_SPILL_MAX p) 22 0 = (dxRing s p).length % 2 ^ 23))
    ∧ (bit v 0 = false → exec (.dxSpillMaxClear p v) s = .next s)
    ∧ (s.phase.count < s.ductus.winFrom + fld s Reg.DX_LOAD_WIN 15 0 → exec .dxLoadWindowEnd s = .next s)
    ∧ (Tbl.wf (fun _ => []) s.ductus.lists = true → s.ductus.winFrom + fld s Reg.DX_LOAD_WIN 15 0 ≤ s.phase.count → Gives .dxLoadWindowEnd s (fun s' =>
      s' = { s with ductus := s'.ductus, free := s'.free } ∧ s'.ductus.winFrom = s.phase.count
      ∧ (∀ n, n ∉ s.ductus.busyNibs → Tbl.get (fun _ => 0) s'.ductus.busyLast n = 0)
      ∧ s'.ductus.insts = s.ductus.insts ∧ s'.ductus.ops = s.ductus.ops ∧ s'.ductus.lists = s.ductus.lists
      ∧ s'.ductus.deliveredLast = s.ductus.delivered ∧ s'.ductus.depthMaxLast = s.ductus.depthMax
      ∧ ∀ n, Tbl.get (fun _ => 0) s'.ductus.delivered n = 0 ∧ Tbl.get (fun _ => 0) s'.ductus.depthMax n = (dxList s n).length)))

/-- R196, R197, R199, R201–R206. DX_TGT, DX_TSPS and the first five DX_TDATA stage; the sixth commits: a token along a valid edge, or an external one of the thread's partition, into a free slot of a waiting node joins the instance with OK; a filled slot answers ALREADY_DONE, a dispatched node REFUSED, a late instance LATE, another partition's template DENIED, no held operation REFUSED.
DX_STAT returns the status. DX_PULL takes the oldest operation of the Nib's own list whose deadline has not come, returns its handle and entry and holds it; with none on any list of the partition it blocks; DX_DELIVER completes that IN; a thief takes from the longest list the first of the 8 oldest whose hint is met. DX_OPREAD returns the record's words in order and then EMPTY with C 1. DONE
frees the handle, consumes the tokens and completes the node. DECIDE by a final node ORs its masked bits into the open slot once, then ALREADY_DONE; a non-final node is REFUSED. START creates an instance; ALREADY_DONE, LATE, REFUSED and DENIED otherwise. ABORT removes an undelivered operation, marks a delivered one, and is ALREADY_DONE or DENIED otherwise. -/
def Obligations.DuctusPorts : Prop := (∀ (t : Tid) (w : Word) (s : State), t.val < 1024 → Issues s t → Bare s t → dxTakes s = true →
  let th := thread s t
  let v := wreg s t (wD w)
  let n := nibOf t
  let go := { th with pc := pcAfter s t, pfx := .none }
  let answers := fun (c : Instr) (st : Byte) => Gives c s (Completes s t { th with dxStat := st })
  let inDx := fun (s' : State) => Beside { s with ductus := s'.ductus } s' t
  let mine := fun (o : Op) (x : Inst) => heldOp s t = some o ∧ th.dxHeld = some o.handle ∧ findInst s o.inst = some x ∧ opStale s o = false
  (IsOut s t w 0x302 → Gives (.dxTgt t w) s (Completes s t { th with dxTgt := some v, dxData := [] }))
  ∧ (IsOut s t w 0x303 → Gives (.dxTsps t w) s (Completes s t { th with dxTsps := v }))
  ∧ (IsOut s t w 0x304 → (th.dxData.length < 5 → Gives (.dxTdata t w) s (Completes s t { th with dxData := th.dxData ++ [v] }))
    ∧ (th.dxData.length = 5 → let said := fun (st : Byte) => Gives (.dxTdata t w) s (Completes s t { th with dxData := [], dxStat := st })
      (∀ g, th.dxTgt = some g → bit g 31 = false →
        (heldOp s t = none → said stRefused)
        ∧ (∀ o x, mine o x → (o.aborted = true → said stCancelled) ∧ (o.aborted = false → instLate s x = true → said stLate)
          ∧ (o.aborted = false → instLate s x = false → bit g 2 = false →
            let e := nodeEdge s x.tpl o.node (bits g 1 0)
            let m := edgeNode e
            edgeValid e = true → edgeSlot e < nodeInputs s x.tpl m → m < x.nodes.length →
            ((x.tokens.any (fun k => k.node = m && k.slot = edgeSlot e)) = true → said stAlready)
            ∧ ((x.tokens.any (fun k => k.node = m && k.slot = edgeSlot e)) = false →
              (x.nodes.getD m .done ≠ .waiting → said stRefused)
              ∧ (x.nodes.getD m .done = .waiting → 131072 ≤ tokensUsed s → Gives (.dxTdata t w) s (fun s' =>
                thread s' t = { go with dxData := [], dxStat := stFull } ∧ s'.ductus = s.ductus ∧ flag s' (Reg.PG_ERR_STICKY Reg.ductusPage) 4 = true
                ∧ reg s' Reg.DX_TOKEN_FULL = reg s Reg.DX_TOKEN_FULL + 1))
              ∧ (x.nodes.getD m .done = .waiting → tokensUsed s < 131072 → Gives (.dxTdata t w) s (fun s' => inDx s'
                ∧ thread s' t = { go with dxData := [], dxStat := stOk } ∧ s'.ductus = { s.ductus with insts := s'.ductus.insts }
                ∧ (∀ j, j ≠ x.num → findInst s' j = findInst s j)
                ∧ findInst s' x.num = some { x with tokens := x.tokens ++ [⟨m, edgeSlot e,
                    [word (x.tpl * 2 ^ 24 + m * 2 ^ 18 + edgeSlot e * 2 ^ 15 + o.node * 2 ^ 8), spsOf x.ps] ++ th.dxData ++ [v]⟩] }))))))
      ∧ (∀ g, th.dxTgt = some g → bit g 31 = true → let k := bits g 30 23
        let m := bits g 22 17
        let c := bits g 16 14
        (tplPid s k ≠ tidPid s t → said stDenied)
        ∧ (∀ x, tplPid s k = tidPid s t → s.ductus.insts.find? (fun x => x.tpl = k && (x.b : Int) = spsCount s th.dxTsps) = some x →
          findInst s x.num = some x →
          (instLate s x = true → said stLate)
          ∧ (instLate s x = false → nodeInputs s k m ≤ c → said stRefused)
          ∧ (instLate s x = false → c < nodeInputs s k m → m < x.nodes.length → (x.tokens.any (fun k => k.node = m && k.slot = c)) = false →
            x.nodes.getD m .done = .waiting → tokensUsed s < 131072 → Gives (.dxTdata t w) s (fun s' => inDx s'
              ∧ thread s' t = { go with dxData := [], dxStat := stOk } ∧ (∀ j, j ≠ x.num → findInst s' j = findInst s j)
              ∧ findInst s' x.num = some { x with tokens := x.tokens ++ [⟨m, c,
                  [word (k * 2 ^ 24 + m * 2 ^ 18 + c * 2 ^ 15 + 2 ^ 14 + 0x3F * 2 ^ 8), spsOf x.ps] ++ th.dxData ++ [v]⟩] }))))))
  ∧ (IsIn s t w 0x305 → Gives (.dxStat t w) s (Completes s t (tookIn th (wD w) (.status th.dxStat (decide (th.dxStat = stOk))))))
  ∧ (IsOut s t w 0x306 → (heldOp s t = none → th.dxHeld = none → answers (.dxDone t w) stRefused)
    ∧ (∀ o x, mine o x → (∃ u, o.place = .held u) → Gives (.dxDone t w) s (fun s' => inDx s'
      ∧ thread s' t = { go with dxHeld := none, dxPos := 0, dxStat := stOk }
      ∧ (∀ q, q ∈ s'.ductus.ops ↔ q ∈ s.ductus.ops ∧ q.handle ≠ o.handle) ∧ (∀ j, j ≠ x.num → findInst s' j = findInst s j)
      ∧ findInst s' x.num = some { setNode x o.node .done with tokens := x.tokens.filter (fun k => k.node ≠ o.node) })))
  ∧ (IsOut s t w 0x307 → (heldOp s t = none → answers (.dxDecide t w) stRefused)
    ∧ (∀ o x, mine o x → (o.aborted = true → answers (.dxDecide t w) stCancelled)
      ∧ (o.aborted = false → nodeFinal s x.tpl o.node = false → answers (.dxDecide t w) stRefused)
      ∧ (∀ d, o.aborted = false → nodeFinal s x.tpl o.node = true → findDecision s x.pid x.b = some d →
        (instLate s x = true → d.closed = false → answers (.dxDecide t w) stLate)
        ∧ (d.closed = true → Gives (.dxDecide t w) s (fun s' => Beside { s with decisions := s'.decisions } s' t
          ∧ thread s' t = { go with dxStat := stLate } ∧ findDecision s' x.pid x.b = some { d with late := true }))
        ∧ (instLate s x = false → d.closed = false →
          (x.decided = true → answers (.dxDecide t w) stAlready)
          ∧ (x.decided = false → Gives (.dxDecide t w) s (fun s' => Beside { s with ductus := s'.ductus, decisions := s'.decisions } s' t
            ∧ thread s' t = { go with dxStat := stOk } ∧ findInst s' x.num = some { x with decided := true }
            ∧ (∀ p b, ¬ (p = x.pid ∧ b = x.b) → findDecision s' p b = findDecision s p b)
            ∧ (let bs := d.bits ||| (v.extractLsb' 0 16 &&& BitVec.ofNat 16 (tplMask s x.tpl))
              findDecision s' x.pid x.b = some { d with bits := bs, qs := d.qs || bit v 16, decided := d.decided + 1 })))))))
  ∧ (IsOut s t w 0x308 → let k := bits v 7 0
    let c := spsCount s th.dxTsps
    (tplPid s k ≠ tidPid s t → answers (.dxStart t w) stDenied)
    ∧ (tplPid s k = tidPid s t → (k ∉ s.ductus.enabled ∨ (s.phase.count : Int) < c → answers (.dxStart t w) stRefused)
      ∧ (k ∈ s.ductus.enabled → dxEnabled s = true → s.phase.started = true → c ≤ s.phase.count →
        (c + lat s - guard s ≤ s.phase.count → answers (.dxStart t w) stLate)
        ∧ ((s.phase.count : Int) < c + lat s - guard s → (s.ductus.insts.any (fun x => x.tpl = k && (x.b : Int) = c)) = true → answers (.dxStart t w) stAlready)
        ∧ ((s.phase.count : Int) < c + lat s - guard s → (s.ductus.insts.any (fun x => x.tpl = k && (x.b : Int) = c)) = false → 0 ≤ c →
          partState s (tidPid s t) = 3 → admits s (tidPid s t) = true → (∃ i < 32768, findInst s i = none) → Gives (.dxStart t w) s (fun s' =>
            Beside { s with ductus := s'.ductus, decisions := s'.decisions } s' t ∧ thread s' t = { go with dxStat := stOk }
            ∧ ∃ x : Inst, s'.ductus.insts = s.ductus.insts ++ [x] ∧ x.num < 32768 ∧ findInst s x.num = none ∧ x.tpl = k ∧ x.pid = tplPid s k
              ∧ (x.b : Int) = c ∧ x.nodes = List.replicate (tplLast s k + 1) .waiting ∧ x.tokens = [] ∧ x.decided = false ∧ x.closed = false)))))
  ∧ (IsOut s t w 0x309 → let h := bits v 15 0
    (findOp s h = none → answers (.dxAbort t w) stAlready)
    ∧ (∀ o x, findOp s h = some o → findInst s o.inst = some x →
      (x.pid ≠ tidPid s t → answers (.dxAbort t w) stDenied)
      ∧ (x.pid = tidPid s t → (∀ u, o.place = .held u → Gives (.dxAbort t w) s (fun s' => inDx s' ∧ thread s' t = { go with dxStat := stOk }
          ∧ findOp s' h = some { o with aborted := true } ∧ ∀ j, j ≠ h → findOp s' j = findOp s j))
        ∧ ((∀ u, o.place ≠ .held u) → Gives (.dxAbort t w) s (fun s' => thread s' t = { go with dxStat := stOk } ∧ findOp s' h = none
          ∧ (∀ j, j ≠ h → findOp s' j = findOp s j)
          ∧ findInst s' o.inst = some { setNode x o.node .cancelled with tokens := x.tokens.filter (fun k => k.node ≠ o.node), cancelled := x.cancelled + 1 }
          ∧ reg s' (Reg.DX_PCANCEL x.pid) = reg s (Reg.DX_PCANCEL x.pid) + 1)))))
  ∧ (IsIn s t w 0x301 → (heldOp s t = none → Gives (.dxOpread t w) s (Completes s t (tookIn th (wD w) (.fail stEmpty))))
    ∧ (∀ o x, mine o x → o.node < 64 → (x.tokens.filter (fun q => q.node = o.node)) = [] → Gives (.dxOpread t w) s (fun s' =>
        (th.dxPos < 4 → Completes s t { tookIn th (wD w) (.data (([opWord s o, spsOf x.ps,
            word (x.tpl * 2 ^ 24 + o.node * 2 ^ 18 + nodeHint s x.tpl o.node * 2 ^ 11),
            word (bits (nodeWord s x.tpl o.node 3) 31 16 * 2 ^ 16 + x.num)]).getD th.dxPos 0)) with dxPos := th.dxPos + 1 } s')
        ∧ (4 ≤ th.dxPos → Completes s t (tookIn th (wD w) (.fail stEmpty)) s')))
    ∧ (∀ o x k, mine o x → x.tokens.filter (fun q => q.node = o.node) = [k] → k.slot < 8 → 4 ≤ th.dxPos → th.dxPos < 4 + k.words.length →
      Gives (.dxOpread t w) s (Completes s t { tookIn th (wD w) (.data (k.words.getD (th.dxPos - 4) 0)) with dxPos := th.dxPos + 1 })))
  ∧ (IsIn s t w 0x300 → th.dxHeld = none → (nib s n).pullers = [] → NoArm s Reg.ductusPage 0 → NoArm s Reg.ductusPage 1 →
    let takes := fun (o : Op) (m : Nat) => Gives (.dxPull t w) s (fun s' => inDx s' ∧ findOp s' o.handle = some { o with place := .held t }
      ∧ thread s' t = { tookIn { th with dxHeld := some o.handle, dxPos := 0 } (wD w) (.plain (opWord s o)) with pc := pcAfter s t, pfx := .none }
      ∧ dxList s' m = (dxList s m).filter (· ≠ o.handle) ∧ (∀ k, k ≠ m → dxList s' k = dxList s k) ∧ s'.ductus.insts = s.ductus.insts)
    (∀ h r o, liveList s n = h :: r → findOp s h = some o → o.place = .list n → takes o n)
    ∧ (liveList s n = [] → enField s Reg.ductusPage Reg.DX_CTL 0 = true → ∀ m ∈ liveNibs s (tidPid s t),
      (∀ k ∈ liveNibs s (tidPid s t), (liveList s k).length < (liveList s m).length ∨ (liveList s k).length = (liveList s m).length ∧ m ≤ k) →
      (∀ h o, ((liveList s m).take 8).find? (fun h => hintMet s n (opHint s h)) = some h → findOp s h = some o → o.place = .list m → takes o m)
      ∧ (∀ h r o, liveList s m = h :: r → (∀ q ∈ (liveList s m).take 8, hintMet s n (opHint s q) = false) → findOp s h = some o → o.place = .list m → takes o m))
    ∧ (liveList s n = [] → (∀ k ∈ liveNibs s (tidPid s t), liveList s k = []) → Gives (.dxPull t w) s (fun s' => s' = { s with threads := s'.threads, nibs := s'.nibs }
      ∧ thread s' t = { th with dxHeld := none, state := .blocked, waitPort := some (0x300, wD w) } ∧ (∀ u, u ≠ t.val → thread s' u = thread s u)
      ∧ nib s' n = { nib s n with pullers := [t.val] } ∧ ∀ m, m ≠ n → nib s' m = nib s m))))
  ∧ (∀ (n : NibId) (s : State) (t d : Nat) (more rest : List Nat) (h : Nat) (o : Op), (nib s n).pullers = t :: more → t < 1024 → nibOf t = n → dxTakes s = true →
    NoArm s Reg.ductusPage 0 → NoArm s Reg.ductusPage 1 → liveList s n = h :: rest → findOp s h = some o → o.place = .list n →
    (thread s t).state = .blocked → (thread s t).waitPort = some (0x300, d) → (thread s t).pfx = .none → (thread s t).stepping = false →
    Gives (.dxDeliver n) s (fun s' => (nib s' n).pullers = more ∧ findOp s' o.handle = some { o with place := .held t }
      ∧ dxList s' n = (dxList s n).filter (· ≠ o.handle) ∧ (∀ u, u ≠ t → thread s' u = thread s u)
      ∧ thread s' t = { tookIn { thread s t with dxHeld := some o.handle, dxPos := 0 } d (.plain (opWord s o)) with
          pc := pcAfter s t, pfx := .none, state := .running, waitPort := none }))

/-- R191, R234, R235. A host write of a word is stored into Inkwell SRAM, a Nib's local data, the I-space of a Nib whose threads are all IDLE, and the words of a template that is not enabled (its h0 keeping pid), and changes no other byte; into the Scroll and the Copybook, the I-space of a Nib with a thread at work, and an enabled template it is dropped and recorded (SCROLL 0x02, COPYBOOK 0x02, NIB 0x04, DUCTUS 0x07);
into the other stores it is dropped. FetchAdd, Swap and CAS of an aligned word in Inkwell SRAM or local data return the original word and store the sum, the operand, or the operand when the compare operand equals the word; of another size, unaligned, or elsewhere they are Unsupported Requests that change nothing. -/
def Obligations.HostMemory : Prop := ∀ (off : BitVec 28) (v x : Word) (s : State),
  let o := off.toNat
  let a := o - o % 4
  let stored := fun (r : List Nat) (b : Nat) (w : Word) (s' : State) => s' = { s with mem := s'.mem, badWords := s'.badWords, perf := s'.perf, resp := r }
    ∧ StoredAt s s' b (leBytes 4 w.toNat)
  let writes := Gives (.hostBar4Write off v) s
  let ispaceOf := fun (n : Nat) => 0xE000000 + 0x30000 * n
  let chip := domainOn s 2 = true
  (chip → a < 0x8000000 → writes (fun s' => Noted s s' [] Reg.scrollPage 2))
  ∧ (chip → 0x8000000 ≤ a → a < 0xC000000 → writes (fun s' => Noted s s' [] Reg.copybookPage 2))
  ∧ (chip → 0xC000000 ≤ a → a < 0xE000000 → writes (stored s.resp a v))
  ∧ (∀ n < 128, domainOn s (8 + n / 8) = true →
    (ispaceOf n ≤ a → a < ispaceOf n + 0x10000 → (∀ t, t < 1024 → nibOf t = n → (thread s t).state = .idle) → writes (stored s.resp a v))
    ∧ (∀ t, ispaceOf n ≤ a → a < ispaceOf n + 0x10000 → t < 1024 → nibOf t = n → (thread s t).state ≠ .idle →
      writes (fun s' => Noted s s' [] (Reg.nibPage n) 4))
    ∧ (ispaceOf n + 0x10000 ≤ a → a < ispaceOf n + 0x30000 → writes (stored s.resp a v)))
  ∧ (chip → ∀ k < 256, 0xF800000 + 0x800 * k ≤ a → a < 0xF800000 + 0x800 * k + 0x800 →
    (k ∉ s.ductus.enabled → k ∉ s.ductus.checking → a ≠ 0xF800000 + 0x800 * k ∨ bits v 27 24 = tplPid s k → writes (stored s.resp a v))
    ∧ (k ∈ s.ductus.enabled → writes (fun s' => Noted { s with perf := s'.perf } s' [] Reg.ductusPage 7)))
  ∧ (chip → 0xF880000 ≤ a → writes (fun s' => s' = { s with perf := s'.perf }))
  ∧ ((o < 0xC000000 ∨ 0xF800000 ≤ o ∨ o % 4 ≠ 0 ∨ ∃ n < 128, ispaceOf n ≤ o ∧ o < ispaceOf n + 0x10000) →
    exec (.hostFetchadd off v 4) s = .next { s with resp := [] } ∧ exec (.hostSwap off v 4) s = .next { s with resp := [] }
    ∧ exec (.hostCas off x v 4) s = .next { s with resp := [] })
  ∧ (∀ bytes, bytes ≠ 4 → exec (.hostFetchadd off v bytes) s = .next { s with resp := [] } ∧ exec (.hostSwap off v bytes) s = .next { s with resp := [] }
    ∧ exec (.hostCas off x v bytes) s = .next { s with resp := [] })
  ∧ (o % 4 = 0 → Uninjected s → badAt s o = false →
    (chip ∧ 0xC000000 ≤ o ∧ o < 0xE000000 ∨ ∃ n < 128, domainOn s (8 + n / 8) = true ∧ ispaceOf n + 0x10000 ≤ o ∧ o < ispaceOf n + 0x30000) →
    let old := rdWord s o
    Gives (.hostFetchadd off v 4) s (fun s' => stored [old.toNat] o (old + v) s')
    ∧ Gives (.hostSwap off v 4) s (fun s' => stored [old.toNat] o v s')
    ∧ Gives (.hostCas off x v 4) s (fun s' => (old = x → stored [old.toNat] o v s')
      ∧ (old ≠ x → s' = { s with perf := s'.perf, resp := [old.toNat] })))

/-- R148, R149, R242, R244, R245, R247, R249. An ALLOC by a thread or a host slot answers OVER_QUOTA and counts IW_OVERQ when the partition's use, the MID's use, or the thread's share stands at its limit; else EMPTY, counted in IW_EMPTY, when the SRAM pool has no buffer, or the on-chip stack of the DRAM pool no entry; else OK with the handle of the buffer last freed, or of the next in rising order while none has been freed:
the buffer is allocated, its owner and charged MID the requester, its PID the requester's partition, its references 0; the uses rise by one; no other SRAM buffer changes. The state of a DRAM buffer stands in DRAM, shown here while no rank is lost. A host slot of a RESETTING partition gets REFUSED. A thread gets the handle in d with C 0, or the status with C 1; a slot gets the handle in IW_HARG and the status in IW_HRESULT. -/
def Obligations.InkwellAlloc : Prop := ∀ (s : State) (d : Bool), iwTakes s = true → NoArm s Reg.inkwellPage 0 → NoArm s Reg.inkwellPage 1 →
  let dOn := enField s Reg.inkwellPage Reg.IW_DCFG 31 = true ∧ flag s Reg.IW_DCFG 30 = true
  let sOn := enField s Reg.inkwellPage Reg.IW_CTL 0 = true
  let cmd := fun (r : Sum (Tid × Word) (PartId × Bool)) => if d then Instr.iwAllocD r else Instr.iwAllocS r
  let empty := if d then ¬ dOn ∨ s.ink.dStack = [] else ¬ sOn ∨ (s.ink.sStack = [] ∧ 16384 ≤ s.ink.sFresh)
  let full := fun (mid p : Nat) => partQuota s d p ≤ use s (partKey d p) ∨ midQuota s d mid ≤ use s (midKey d mid)
  let next := fun (bh : Word) (ink : Inkwell) =>
    (d = true ∧ dOn ∧ ∃ i r, s.ink.dStack = i :: r ∧ i < 2097152 ∧ bh = word (0x80000000 + i) ∧ ink = { s.ink with dStack := r })
    ∨ (d = false ∧ sOn ∧ ∃ i r, s.ink.sStack = i :: r ∧ i < 16384 ∧ bh = word (0x40000000 + i) ∧ ink = { s.ink with sStack := r })
    ∨ (d = false ∧ sOn ∧ s.ink.sStack = [] ∧ s.ink.sFresh < 16384 ∧ bh = word (0x40000000 + s.ink.sFresh)
      ∧ ink = { s.ink with sFresh := s.ink.sFresh + 1 })
  let lent := fun (bh : Word) (ink : Inkwell) (mid p : Nat) (t : Option Nat) (s' : State) =>
    s'.ink = { ink with bufs := s'.ink.bufs, uses := s'.ink.uses }
    ∧ (let v : Buf := { st := 1, pid := p, owner := mid, charged := mid, refs := 0, tid := t }
      (d = false → TblAt (fun _ => {}) s.ink.bufs s'.ink.bufs bh.toNat v)
      ∧ (d = true → s'.ink.bufs = s.ink.bufs ∧ ((∀ c < 4, ∀ k < 24, rankLost s c k = false) →
        (dramMap s (fld s Reg.IW_DSTATE_BASE 25 0 * 0x1000 + 8 * bits bh 29 0)).isSome = true → buf s' bh = v)))
    ∧ ∀ k, use s' k = if k = partKey d p ∨ k = midKey d mid ∨ t.any (fun t => k = tidKey d t) = true then use s k + 1 else use s k
  (∀ (p : PartId) (stw : Bool), partState s p = 6 → Gives (cmd (.inr (p, stw))) s (fun s' => OnlyRegs s s' [Reg.IW_HRESULT p]
    ∧ fld s' (Reg.IW_HRESULT p) 7 0 = stRefused.toNat))
  ∧ (∀ (p : PartId) (stw : Bool), partState s p ≠ 6 → let mid := if stw then 0x80 else 0x90 + p.val
    let answer := fun (st : Byte) (l : List Nat) (s' : State) =>
      (d = false ∨ st ≠ stOk → OnlyRegs { s with ink := s'.ink } s' (Reg.IW_HRESULT p :: l)) ∧ s'.threads = s.threads ∧ s'.queues = s.queues
      ∧ fld s' (Reg.IW_HRESULT p) 7 0 = st.toNat
    (full mid p → Gives (cmd (.inr (p, stw))) s (fun s' => answer stOverQuota [Reg.IW_OVERQ] s' ∧ s'.ink = s.ink
      ∧ reg s' Reg.IW_OVERQ = reg s Reg.IW_OVERQ + 1))
    ∧ (¬ full mid p → empty → Gives (cmd (.inr (p, stw))) s (fun s' => answer stEmpty [Reg.IW_EMPTY] s' ∧ s'.ink = s.ink
      ∧ reg s' Reg.IW_EMPTY = reg s Reg.IW_EMPTY + 1))
    ∧ (∀ bh ink, ¬ full mid p → next bh ink → Gives (cmd (.inr (p, stw))) s (fun s' => answer stOk [Reg.IW_HARG p] s' ∧ lent bh ink mid p none s'
      ∧ reg s' (Reg.IW_HARG p) = bh)))
  ∧ (∀ (t : Tid) (w : Word), Issues s t → Bare s t → IsIn s t w (if d then 0x311 else 0x310) →
    let mid := nibMid (nibOf t)
    let p := tidPid s t
    let th := thread s t
    (full mid p ∨ inkFull s d t = true → Gives (cmd (.inl (t, w))) s (fun s' => s'.ink = s.ink ∧ s'.mem = s.mem
      ∧ (∀ u, u ≠ t.val → thread s' u = thread s u) ∧ reg s' Reg.IW_OVERQ = reg s Reg.IW_OVERQ + 1
      ∧ thread s' t = { tookIn th (wD w) (.fail stOverQuota) with pc := pcAfter s t, pfx := .none }))
    ∧ (¬ full mid p → inkFull s d t = false → empty → Gives (cmd (.inl (t, w))) s (fun s' => s'.ink = s.ink ∧ s'.mem = s.mem
      ∧ (∀ u, u ≠ t.val → thread s' u = thread s u) ∧ reg s' Reg.IW_EMPTY = reg s Reg.IW_EMPTY + 1
      ∧ thread s' t = { tookIn th (wD w) (.fail stEmpty) with pc := pcAfter s t, pfx := .none }))
    ∧ (∀ bh ink, ¬ full mid p → inkFull s d t = false → next bh ink → p < 16 → Gives (cmd (.inl (t, w))) s (fun s' =>
      (d = false → Beside { s with ink := s'.ink } s' t) ∧ (∀ u, u ≠ t.val → thread s' u = thread s u) ∧ lent bh ink mid p (some t.val) s'
      ∧ thread s' t = { tookIn th (wD w) (.data bh) with pc := pcAfter s t, pfx := .none })))

/-- R242, R244, R247, R249, R251, R280, R414. A handle outside its pool is REFUSED; one of a DRAM buffer whose state word reads uncorrectable is PARITY, and the buffer is lost with source 0x01; a buffer of another partition is DENIED except to MIDs 0x80 to 0x8F. FREE of a buffer that is not allocated is ALREADY_DONE; FREE and SHARE by a MID that does not own it are NOT_OWNER, counted in IW_NOTOWNER with source 0x02. FREE with no
references returns the buffer on top of its pool and ends its charges, with references makes it free-pending. SHARE of 0 is REFUSED, to a MID outside the partition DENIED, above 255 references FULL, else it adds n references and passes ownership. RELEASE with no reference is REFUSED, else takes one away, and the last of a free-pending buffer returns it. QUERY answers the state word. No other SRAM buffer changes;
of a DRAM buffer, whose state stands in DRAM, the state is shown while its address decodes and no rank is lost. A free buffer has no owner and no partition (the model's reading, log entry 14). The status is in IW_STAT for a thread, in IW_HRESULT for a slot; a slot of a RESETTING partition gets REFUSED. -/
def Obligations.InkwellBuffers : Prop := ∀ s : State, iwTakes s = true → NoArm s Reg.inkwellPage 0 → NoArm s Reg.inkwellPage 1 →
  let dram := fun (bh : Word) => bits bh 31 30 = 2
  let access := fun (bh : Word) => (engineRead s (stateKey s (bits bh 29 0)) 8 0x86).1
  let sound := fun (bh : Word) => dram bh → access bh = false ∧ (∀ c < 4, ∀ k < 24, rankLost s c k = false)
    ∧ (dramMap s (fld s Reg.IW_DSTATE_BASE 25 0 * 0x1000 + 8 * bits bh 29 0)).isSome = true
  let rules := fun (mid p : Nat) (bh : Word) (n owner : Nat)
      (said : (Sum (Tid × Word) (PartId × Bool) → Instr) × Nat → Byte → (State → Prop) → Prop)
      (blamed : (Sum (Tid × Word) (PartId × Bool) → Instr) × Nat → Prop) =>
    let b := buf s bh
    let d := decide (dram bh)
    let valid := bits bh 31 30 = 1 ∧ bits bh 29 0 < 16384 ∨ dram bh ∧ bits bh 29 0 < fld s Reg.IW_DCFG 20 0
    let engine := 0x80 ≤ mid ∧ mid < 0x90
    let keep := fun (s' : State) => s'.ink = s.ink
    let holds := fun (v : Buf) (s' : State) => (d = false → TblAt (fun _ => {}) s.ink.bufs s'.ink.bufs bh.toNat v)
      ∧ (d = true → s'.ink.bufs = s.ink.bufs ∧ buf s' bh = v)
    let now := fun (v : Buf) (s' : State) => s'.ink = { s.ink with bufs := s'.ink.bufs } ∧ holds v s'
    let back := fun (s' : State) => holds {} s'
      ∧ (∀ k, use s' k = if k = partKey d b.pid ∨ k = midKey d b.charged ∨ b.tid.any (fun t => k = tidKey d t) = true then use s k - 1 else use s k)
      ∧ (d = false → s'.ink.sStack = bits bh 29 0 :: s.ink.sStack ∧ s'.ink.dStack = s.ink.dStack)
      ∧ (d = true → s'.ink.dStack = bits bh 29 0 :: s.ink.dStack ∧ s'.ink.sStack = s.ink.sStack)
    let free : (Sum (Tid × Word) (PartId × Bool) → Instr) × Nat := (.iwFree, 0x313)
    let share : (Sum (Tid × Word) (PartId × Bool) → Instr) × Nat := (.iwShare, 0x314)
    let release : (Sum (Tid × Word) (PartId × Bool) → Instr) × Nat := (.iwRelease, 0x315)
    (¬ valid → ∀ c ∈ [free, share, release], said c stRefused keep)
    ∧ (valid → dram bh → access bh = true → ∀ c ∈ [free, share, release], said c stParity (fun s' => keep s'
      ∧ reg s' Reg.IW_LOST = reg s Reg.IW_LOST + 1 ∧ flag s' (Reg.PG_ERR_STICKY Reg.inkwellPage) 1 = true))
    ∧ (valid → sound bh →
      (b.st ≠ 0 → b.pid ≠ p → ¬ engine → ∀ c ∈ [free, share, release], said c stDenied keep)
      ∧ (b.st = 0 → said free stAlready keep ∧ blamed share)
      ∧ (b.pid = p ∨ engine →
        (b.st = 2 → said free stAlready keep)
        ∧ (b.st = 1 → b.owner ≠ mid → blamed free)
        ∧ (b.st ≠ 0 → b.owner ≠ mid → blamed share)
        ∧ (b.st = 1 → b.owner = mid →
          (b.refs = 0 → b.pid < 16 → b.charged < 256 → said free stOk back)
          ∧ (b.refs ≠ 0 → said free stOk (now { b with st := 2 })))
        ∧ (b.st ≠ 0 → b.owner = mid →
          (n = 0 → said share stRefused keep)
          ∧ (n ≠ 0 → let mayOwn := owner < 128 ∧ nibPid s owner = b.pid ∨ owner = 0x90 + b.pid ∨ 0x80 ≤ owner ∧ owner < 0x90
            (¬ mayOwn → said share stDenied keep)
            ∧ (mayOwn → 255 < b.refs + n → said share stFull keep)
            ∧ (mayOwn → b.refs + n ≤ 255 → said share stOk (now { b with refs := b.refs + n, owner := owner }))))
        ∧ (b.refs = 0 → said release stRefused keep)
        ∧ (b.st ≠ 0 → b.refs ≠ 0 → ¬ (b.st = 2 ∧ b.refs = 1) → said release stOk (now { b with refs := b.refs - 1 }))
        ∧ (b.st = 2 → b.refs = 1 → b.pid < 16 → b.charged < 256 → said release stOk back)))
  let word' := fun (bh : Word) => let b := buf s bh
    if b.st = 0 then 0 else word (b.st * 2 ^ 30 + b.pid * 2 ^ 26 + b.owner * 2 ^ 16 + b.charged * 2 ^ 8 + b.refs)
  let seen := fun (mid p : Nat) (bh : Word) => iwCheck s bh mid p = none ∧ sound bh
  (∀ (p : PartId) (stw : Bool), let mid := if stw then 0x80 else 0x90 + p.val
    let bh := reg s (Reg.IW_HARG p)
    let hr := Reg.IW_HRESULT p
    (partState s p = 6 → ∀ c ∈ [Instr.iwFree (.inr (p, stw)), .iwShare (.inr (p, stw)), .iwRelease (.inr (p, stw)), .iwQuery (.inr (p, stw))],
      Gives c s (fun s' => OnlyRegs s s' [hr] ∧ fld s' hr 7 0 = stRefused.toNat))
    ∧ (partState s p ≠ 6 → rules mid p bh (fld s hr 23 16) (fld s hr 15 8)
        (fun c st P => Gives (c.1 (.inr (p, stw))) s (fun s' => (¬ dram bh → OnlyRegs { s with ink := s'.ink } s' [hr]) ∧ s'.threads = s.threads
          ∧ fld s' hr 7 0 = st.toNat ∧ fld s' hr 31 8 = fld s hr 31 8 ∧ P s'))
        (fun c => Gives (c.1 (.inr (p, stw))) s (fun s' => (¬ dram bh → Noted s s' [hr, Reg.IW_NOTOWNER] Reg.inkwellPage 2)
          ∧ s'.ink = s.ink ∧ fld s' hr 7 0 = stNotOwner.toNat ∧ flag s' (Reg.PG_ERR_STICKY Reg.inkwellPage) 2 = true
          ∧ reg s' Reg.IW_NOTOWNER = reg s Reg.IW_NOTOWNER + 1))
      ∧ (seen mid p bh → Gives (.iwQuery (.inr (p, stw))) s (fun s' => (¬ dram bh → OnlyRegs s s' [hr, Reg.IW_HARG p]) ∧ s'.ink = s.ink
        ∧ fld s' hr 7 0 = 0 ∧ reg s' (Reg.IW_HARG p) = word' bh)))
    ∧ Gives (.iwHcmdReserved p) s (fun s' => OnlyRegs s s' [hr] ∧ fld s' hr 7 0 = stRefused.toNat ∧ fld s' hr 31 8 = fld s hr 31 8))
  ∧ (∀ (t : Tid) (w : Word), Issues s t → Bare s t →
    let th := thread s t
    let v := wreg s t (wD w)
    let a := th.iwArg
    let go := { th with pc := pcAfter s t, pfx := .none }
    let others := fun (s' : State) => ∀ u, u ≠ t.val → thread s' u = thread s u
    rules (nibMid (nibOf t)) (tidPid s t) v (bits a 7 0) (bits a 15 8)
      (fun c st P => IsOut s t w c.2 → Gives (c.1 (.inl (t, w))) s (fun s' => (¬ dram v → Beside { s with ink := s'.ink } s' t) ∧ others s' ∧ P s'
        ∧ thread s' t = { go with iwStat := st, iwQuery := none }))
      (fun c => IsOut s t w c.2 → Gives (c.1 (.inl (t, w))) s (fun s' => s'.ink = s.ink ∧ flag s' (Reg.PG_ERR_STICKY Reg.inkwellPage) 2 = true
        ∧ reg s' Reg.IW_NOTOWNER = reg s Reg.IW_NOTOWNER + 1 ∧ thread s' t = { go with iwStat := stNotOwner, iwQuery := none }))
    ∧ (IsOut s t w 0x312 → bit a 31 = false → Gives (.iwArg t w) s (Completes s t { th with iwArg := v }))
    ∧ (IsOut s t w 0x312 → bit a 31 = true → seen (nibMid (nibOf t)) (tidPid s t) v → Gives (.iwQuery (.inl (t, w))) s (fun s' =>
      (¬ dram v → Beside s s' t) ∧ others s' ∧ s'.ink = s.ink
      ∧ thread s' t = { go with iwArg := setBit a 31 false, iwStat := stOk, iwQuery := some (word' v) }))
    ∧ (IsIn s t w 0x316 → (∀ x, th.iwQuery = some x → Gives (.iwStat t w) s (Completes s t (tookIn th (wD w) (.data x))))
      ∧ (th.iwQuery = none → Gives (.iwStat t w) s (Completes s t (tookIn th (wD w) (.status th.iwStat (decide (th.iwStat = stOk))))))))

/-- R242, R243, R251. IW_REFILL of a ready pool whose stack holds fewer than refill_lo entries reads the 64 oldest ring entries, or as many as there are, from the ring's words in DRAM and puts them below the stack's, the first read highest; IW_SPILL of a stack above spill_hi writes its 64 bottom entries behind the ring's tail, the bottom first. Writing en 1 starts the fill and clears the DRAM states when ring, buffers
and table lie in DRAM regions of partition 0, refill_lo + 64 is at most spill_hi and count at most 1,048,576; when the fill ends the ring holds 0 to count − 1 in rising order and ready sets. Writing en 0 is accepted when every buffer is free. Every other such write is refused, with source 0x03 and the register as before. What is written is shown for places whose bytes are kept, each at a place of its own. -/
def Obligations.InkwellDramPool : Prop := ∀ s : State,
  let k := s.ink
  let count := fld s Reg.IW_DCFG 20 0
  let entry := fun (u : State) (i : Nat) => (rdWord u (ringKey s i)).toNat
  let apart := fun (i n : Nat) => ∀ a < n, ∀ b < n, ∀ x < 4, ∀ y < 4, memKey s (ringKey s (i + a) + x) ≠ none
    ∧ (memKey s (ringKey s (i + a) + x) = memKey s (ringKey s (i + b) + y) → a = b ∧ x = y)
  let ready := enField s Reg.inkwellPage Reg.IW_DCFG 31 = true ∧ flag s Reg.IW_DCFG 30 = true
  let pool := fun (s' : State) => s'.threads = s.threads ∧ s'.queues = s.queues ∧ s'.ductus = s.ductus ∧ s'.parts = s.parts
  (ready → iwTakes s = true → Uninjected s → 0 < count →
    (∀ n, n = min 64 k.rLen → 0 < n → k.dStack.length < fld s Reg.IW_DCACHE 7 0 → (∀ i < n, let a := ringKey s (k.rHead + i); badAt s (a - a % 8) = false) →
      Gives .iwRefill s (fun s' => s' = { s with ink := s'.ink, perf := s'.perf, ddrs := s'.ddrs }
        ∧ s'.ink = { k with dStack := k.dStack ++ (List.range n).map (fun i => entry s (k.rHead + i)), rHead := (k.rHead + n) % count, rLen := k.rLen - n }))
    ∧ (fld s Reg.IW_DCACHE 7 0 ≤ k.dStack.length ∨ k.rLen = 0 → exec .iwRefill s = .next s)
    ∧ (fld s Reg.IW_DCACHE 15 8 < k.dStack.length → 64 ≤ k.dStack.length → apart (k.rHead + k.rLen) 64 → Gives .iwSpill s (fun s' => pool s'
      ∧ s'.ink = { k with dStack := k.dStack.take (k.dStack.length - 64), rLen := k.rLen + 64 }
      ∧ ∀ i < 64, entry s' (k.rHead + k.rLen + i) = (k.dStack.reverse.getD i 0) % 2 ^ 32))
    ∧ (k.dStack.length ≤ fld s Reg.IW_DCACHE 15 8 → exec .iwSpill s = .next s))
  ∧ (∀ v : Word, let n := bits v 20 0
    let good := n ≤ 1048576 ∧ fld s Reg.IW_DCACHE 7 0 + 64 ≤ fld s Reg.IW_DCACHE 15 8
      ∧ inRegionOf s 0 (fld s Reg.IW_DBUF_BASE 23 0 * 0x4000) (0x4000 * n) = true
      ∧ inRegionOf s 0 (fld s Reg.IW_DRING_BASE 25 0 * 0x1000) (4 * n) = true
      ∧ inRegionOf s 0 (fld s Reg.IW_DSTATE_BASE 25 0 * 0x1000) (8 * n) = true
    (flag s Reg.IW_DCFG 31 = false → good → Gives (.iwDcfgEnable v) s (fun s' => pool s' ∧ RegsBut s s' [Reg.IW_DCFG]
      ∧ flag s' Reg.IW_DCFG 31 = true ∧ flag s' Reg.IW_DCFG 30 = false ∧ fld s' Reg.IW_DCFG 20 0 = n
      ∧ s'.ink = { k with dStack := [], rHead := 0, rLen := 0, filling := true } ∧ ∀ i < n, buf s' (bhD i) = {}))
    ∧ (flag s Reg.IW_DCFG 31 = true → n = count → exec (.iwDcfgEnable v) s = .next s)
    ∧ (flag s Reg.IW_DCFG 31 = false ∧ ¬ good ∨ flag s Reg.IW_DCFG 31 = true ∧ n ≠ count →
      Gives (.iwDcfgEnable v) s (fun s' => Noted s s' [] Reg.inkwellPage 3 ∧ reg s' Reg.IW_DCFG = reg s Reg.IW_DCFG)))
  ∧ (k.filling = true → apart 0 count → Gives .iwFillDone s (fun s' => pool s' ∧ flag s' Reg.IW_DCFG 30 = true
      ∧ s'.ink = { k with filling := false, rHead := 0, rLen := count } ∧ ∀ i < count, entry s' i = i))
  ∧ (k.dStack.length + k.rLen = count → Gives .iwDcfgDisable s (fun s' => OnlyRegs { s with ink := s'.ink } s' [Reg.IW_DCFG]
      ∧ s'.ink = { k with dStack := [], rHead := 0, rLen := 0, filling := false }
      ∧ flag s' Reg.IW_DCFG 31 = false ∧ flag s' Reg.IW_DCFG 30 = false ∧ fld s' Reg.IW_DCFG 20 0 = count))
  ∧ (k.dStack.length + k.rLen ≠ count → Gives .iwDcfgDisable s (fun s' => Noted s s' [] Reg.inkwellPage 3
      ∧ s'.ink = k ∧ reg s' Reg.IW_DCFG = reg s Reg.IW_DCFG))

/-- R252–R254, R265. DDR_CTL.en is set only when DDR_GEOM names one or two ranks of x8 or x4 16 Gb or x8 32 Gb devices at a supported rate; else the write is refused with source 0x06. While en is 1, train starts a full training: TRAINING, restored 0; while it is 0, train and restore are refused with source 0x06 and DDR_STAT is as before. A training whose steps all pass ends READY with words closed by their CRC; one that fails step k ends FAILED
with source 0x03; both raise interrupt 0. A restore whose CRC-32C over words 0 to 254 and DDR_GEOM stands in word 255 starts the check, which ends READY with restored 1; a wrong CRC or a failed check records source 0x07 and starts a full training at once. The trained words themselves are free. -/
def Obligations.DramTraining : Prop := ∀ (c : ChanId) (s : State),
  let st := Reg.DDR_STAT c
  let g := Reg.DDR_GEOM c
  let page := Reg.ddrPage c
  let good := (fld s g 9 8 = 1 ∨ fld s g 9 8 = 2) ∧ fld s g 3 2 ≤ 1 ∧ fld s g 1 0 ≤ 2 ∧ (flag s g 4 = true → fld s g 3 2 = 0)
  let words := (List.range 256).map (Reg.trainWord c)
  let crcOk := fun (s : State) => reg s (Reg.trainWord c 255)
    = crc32c ((List.range 255).flatMap (fun w => leBytes 4 (reg s (Reg.trainWord c w)).toNat) ++ leBytes 4 (reg s g).toNat)
  let training := fun (restoring : Bool) (s' : State) => fld s' st 1 0 = 1 ∧ flag s' st 10 = false ∧ (ddr s' c).restoring = restoring
    ∧ fld s' st 30 20 = fld s st 30 20 ∧ fld s' st 9 8 = fld s st 9 8
  let refused := fun (cmd : Instr) => Gives cmd s (fun s' => Noted s s' [] page 6 ∧ reg s' (Reg.DDR_CTL c) = reg s (Reg.DDR_CTL c) ∧ reg s' st = reg s st)
  (good → Gives (.ddrEnable c) s (fun s' => OnlyRegs s s' [Reg.DDR_CTL c]
    ∧ ∀ j < 32, flag s' (Reg.DDR_CTL c) j = (decide (j = 0) || flag s (Reg.DDR_CTL c) j)))
  ∧ (¬ good → refused (.ddrEnable c))
  ∧ (ddrEn s c = false → refused (.ddrTrain c) ∧ refused (.ddrRestore c))
  ∧ (ddrEn s c = true →
    Gives (.ddrTrain c) s (fun s' => OnlyRegs { s with ddrs := s'.ddrs } s' [st] ∧ training false s')
    ∧ (crcOk s → Gives (.ddrRestore c) s (fun s' => OnlyRegs { s with ddrs := s'.ddrs } s' [st] ∧ training true s'))
    ∧ (¬ crcOk s → Gives (.ddrRestore c) s (fun s' => Noted { s with ddrs := s'.ddrs } s' [st] page 7 ∧ training false s')))
  ∧ (fld s st 1 0 = 1 → (ddr s c).restoring = false →
    Gives (.ddrTrainDone c 0) s (fun s' => Records s s' (st :: words) ∧ s'.mem = s.mem ∧ fld s' st 1 0 = 2 ∧ crcOk s'
      ∧ flag s' (Reg.PG_IRQ_RAW page) 0 = true)
    ∧ (∀ k : Fin 9, k ≠ 0 → Gives (.ddrTrainDone c k) s (fun s' => Noted s s' [st] page 3 ∧ fld s' st 1 0 = 3
      ∧ flag s' (Reg.PG_IRQ_RAW page) 0 = true)))
  ∧ (fld s st 1 0 = 1 → (ddr s c).restoring = true →
    Gives (.ddrRestoreDone c true) s (fun s' => Records { s with ddrs := s'.ddrs } s' [st] ∧ s'.mem = s.mem ∧ fld s' st 1 0 = 2 ∧ flag s' st 10 = true ∧ (ddr s' c).restoring = false
      ∧ flag s' (Reg.PG_IRQ_RAW page) 0 = true)
    ∧ Gives (.ddrRestoreDone c false) s (fun s' => Noted { s with ddrs := s'.ddrs } s' [st] page 7 ∧ training false s'))

/-- R255–R258, R260, R262, R264. At a refresh interval a rank with waiting row hits and fewer than four postponements postpones; else the refresh is issued, its postponements are 0 and it leaves power-down. DDR_COMMAND_ISSUE issues the refresh of a rank postponed four times before any request; else it issues the subchannel's first row hit, or its oldest request (also when age_max has passed, which is free here), opens the row that
R260 gives its offset, and removes it. An idle rank enters power-down unless rank_idle is 0 or a request waits. A scrub read is a request of the scrubber's MID while its subchannel has room; of a clean line it goes on to the next line or counts a pass; a corrected one records source 0x00 and DDR_CORR; an uncorrectable one records source 0x01 and DDR_UNCORR and counts toward the rank's loss, which four in a row settle. A parity error counts DDR_CAPAR with source 0x02 on each of two retries; the third condemns the rank. -/
def Obligations.DramService : Prop := ∀ (c : ChanId) (s : State),
  let d := ddr s c
  let page := Reg.ddrPage c
  let ranks := fld s (Reg.DDR_GEOM c) 9 8
  let inDdr := fun (s' : State) => s' = { s with ddrs := s'.ddrs, out := s'.out, free := s'.free } ∧ ∀ e, e ≠ c.val → ddr s' e = ddr s e
  let refreshed := fun (k : Nat) (s' : State) => inDdr s' ∧ s'.out = s.out ++ [.refresh c k] ∧ postponed (ddr s' c) k = 0
    ∧ (if k = 0 then (ddr s' c).powerDown0 else (ddr s' c).powerDown1) = false ∧ (ddr s' c).reqs0 = d.reqs0 ∧ (ddr s' c).reqs1 = d.reqs1
    ∧ (flag s (Reg.DDR_CTL c) 3 = false → (ddr s' c).openRows = d.openRows.filter (fun e => e.1 / 32 % 2 ≠ k))
  (ddrServes s c = true → ∀ k : Fin 2, k.val < ranks →
    let hits := ∃ r ∈ d.reqs0 ++ d.reqs1, rankOf s c r.off = k.val ∧ needs s c r ∈ d.openRows
    (hits → postponed d k < 4 → Gives (.ddrRefresh c k) s (fun s' => s' = { s with ddrs := s'.ddrs }
      ∧ postponed (ddr s' c) k = postponed d k + 1 ∧ (ddr s' c).reqs0 = d.reqs0 ∧ (ddr s' c).reqs1 = d.reqs1 ∧ (ddr s' c).openRows = d.openRows))
    ∧ (¬ hits ∨ 4 ≤ postponed d k → Gives (.ddrRefresh c k) s (refreshed k))
    ∧ ((∀ r ∈ d.reqs0 ++ d.reqs1, rankOf s c r.off ≠ k.val) → fld s (Reg.DDR_SCHED c) 15 0 ≠ 0 → Gives (.ddrPowerDown c k) s (fun s' =>
      s' = { s with ddrs := s'.ddrs } ∧ (if k = 0 then (ddr s' c).powerDown0 else (ddr s' c).powerDown1) = true
      ∧ (ddr s' c).reqs0 = d.reqs0 ∧ (ddr s' c).reqs1 = d.reqs1 ∧ (ddr s' c).openRows = d.openRows.filter (fun e => e.1 / 32 % 2 ≠ k.val)))
    ∧ ((∃ r ∈ d.reqs0 ++ d.reqs1, rankOf s c r.off = k.val) ∨ fld s (Reg.DDR_SCHED c) 15 0 = 0 → exec (.ddrPowerDown c k) s = .next s))
  ∧ (∀ x : Int, ddrServes s c = true → Gives (.ddrTempPoll c x) s (fun s' => s' = { s with ddrs := s'.ddrs }
      ∧ TblAt (fun _ => {}) s.ddrs s'.ddrs c { d with hot := decide (85 < x) }))
  ∧ (ddrWorks s c = true → ∀ sub : Fin 2,
    let l := subReqs s c sub
    (∀ k < 2, (∀ j < k, postponed d j ≠ 4) → postponed d k = 4 → Gives (.ddrCommandIssue c sub) s (refreshed k))
    ∧ (postponed d 0 ≠ 4 → postponed d 1 ≠ 4 → flag s (Reg.DDR_GEOM c) 12 = false ∨ NoArm s page 2 → l ≠ [] →
      Gives (.ddrCommandIssue c sub) s (fun s' => inDdr s' ∧ ∃ i r, l[i]? = some r
        ∧ (i = 0 ∨ needs s c r ∈ d.openRows ∧ ∀ j q, j < i → l[j]? = some q → needs s c q ∉ d.openRows)
        ∧ s'.out = s.out ++ [.dramCmd c sub r] ∧ subReqs s' c sub = l.eraseIdx i
        ∧ (∀ other : Fin 2, other ≠ sub → subReqs s' c other = subReqs s c other)
        ∧ needs s c r ∈ (ddr s' c).openRows ∧ ∀ e ∈ (ddr s' c).openRows, e.1 = (needs s c r).1 → e = needs s c r)))
  ∧ (flag s (Reg.DDR_GEOM c) 4 = false → fld s (Reg.DDR_GEOM c) 3 2 = 0 → ∀ r : DramReq,
    let f := fun (lo n : Nat) => r.off / 2 ^ lo % 2 ^ n
    let bank := fun (b g row : Nat) => needs s c r = (64 * (r.off / 64 % 2) + 32 * rankOf s c r.off + 4 * g + b, row)
    (r.order = 0 → bank (f 13 2) (f 15 3) (f 18 16)) ∧ (r.order = 1 → bank (f 9 2) (f 11 3) (f 18 16))
    ∧ (r.order = 2 → bank (f 29 2) (f 31 3) (f 13 16)) ∧ (r.order = 3 → bank (f 16 2) (f 7 3) (f 18 16)))
  ∧ (ddrServes s c = true → enField s page (Reg.DDR_SCRUB c) 31 = true → capUnits s c ≠ 0 → NoArm s page 0 → NoArm s page 1 →
    let off := 64 * d.scrubLine
    let goesOn := fun (s' : State) => if capUnits s c * dramUnit ≤ off + 64
      then (ddr s' c).scrubLine = 0 ∧ reg s' (Reg.DDR_SCRUB_PASS c) = reg s (Reg.DDR_SCRUB_PASS c) + 1
      else (ddr s' c).scrubLine = d.scrubLine + 1 ∧ reg s' (Reg.DDR_SCRUB_PASS c) = reg s (Reg.DDR_SCRUB_PASS c)
    let bads := fun (s' : State) => if rankOf s c off = 0 then (ddr s' c).bad0 else (ddr s' c).bad1
    let condemned := 4 ≤ bads s
    let asked := fun (s' : State) => subReqs s c (off / 64 % 2) <+: subReqs s' c (off / 64 % 2)
      ∧ ((subReqs s c (off / 64 % 2)).length < 64 → ⟨off, 0, 0x88 + c, false⟩ ∈ subReqs s' c (off / 64 % 2))
    (lineBad s c off = false →
      Gives (.ddrScrubRead c 0) s (fun s' => goesOn s' ∧ asked s' ∧ bads s' = (if condemned then bads s else 0) ∧ OnlyRegs { s with ddrs := s'.ddrs, perf := s'.perf } s' [Reg.DDR_SCRUB_PASS c])
      ∧ Gives (.ddrScrubRead c 1) s (fun s' => goesOn s' ∧ asked s' ∧ bads s' = (if condemned then bads s else 0) ∧ reg s' (Reg.DDR_CORR c) = reg s (Reg.DDR_CORR c) + 1
        ∧ s'.badWords = s.badWords
        ∧ Noted { s with ddrs := s'.ddrs, perf := s'.perf } s' [Reg.DDR_CORR c, Reg.DDR_SCRUB_PASS c] page 0))
    ∧ Gives (.ddrScrubRead c 2) s (fun s' => goesOn s' ∧ asked s' ∧ bads s' = (if condemned then bads s else bads s + 1) ∧ reg s' (Reg.DDR_UNCORR c) = reg s (Reg.DDR_UNCORR c) + 1
        ∧ Noted { s with ddrs := s'.ddrs, perf := s'.perf, badWords := s'.badWords } s' [Reg.DDR_UNCORR c, Reg.DDR_SCRUB_PASS c] page 1))
  ∧ (ddrWorks s c = true → flag s (Reg.DDR_GEOM c) 12 = true → ∀ k : Fin 2, k.val < ranks →
    (d.parityTries < 2 → Gives (.caParityError c k) s (fun s' => (ddr s' c) = { d with parityTries := d.parityTries + 1 }
      ∧ reg s' (Reg.DDR_CAPAR c) = reg s (Reg.DDR_CAPAR c) + 1 ∧ Noted { s with ddrs := s'.ddrs } s' [Reg.DDR_CAPAR c] page 2))
    ∧ (2 ≤ d.parityTries → Gives (.caParityError c k) s (fun s' => s' = { s with ddrs := s'.ddrs } ∧ (ddr s' c).parityTries = 0
      ∧ (if k = 0 then (ddr s' c).bad0 else (ddr s' c).bad1) = 4)))

/-- R259, R261–R263, R265, R267, R326, R331. A descriptor write that leaves a valid region of nonzero size within its channel, overlapping no other in device addresses nor in its channel, that does not take a region in use from its partition, and that moves it only between partitions that may give and take, changes that word alone; any other is refused with source 0x06. DDR_IMODE.mode 1 is refused outside BOOT, CONFIG, STANDALONE and TEST. A spare window in the channel and
in no region starts its fill with ready 0; when the fill ends every word of it reads as uncorrectable. A rank with four uncorrectable reads in a row is lost: DDR_STAT.lost, source 0x04, its outstanding reads uncorrectable, its requests gone; FATAL while recov_ok is 0, else an open fault interval. DDR_REMAP_DONE places its region lines on the spare windows. A grain below 8 is refused (the model's choice, log entry 61). -/
def Obligations.DramRegionsAndRanks : Prop := (∀ (r : Fin 16) (i : Fin 3) (v : Word) (s : State),
  let a := if i = 0 then Reg.DR_BASE 0 r else if i = 1 then Reg.DR_SIZE 0 r else Reg.DR_MAP 0 r
  let val := fun (b : Nat) => if b = a then written s a v else reg s b
  let b := val (Reg.DR_BASE 0 r)
  let z := val (Reg.DR_SIZE 0 r)
  let m := val (Reg.DR_MAP 0 r)
  let old := reg s (Reg.DR_BASE 0 r)
  let n := bits z 10 0 * 0x4000000
  let lo := bits b 11 0 * 0x4000000
  let off := bits m 9 0 * 0x4000000
  let apart := fun (a n c k : Nat) => a + n ≤ c ∨ c + k ≤ a
  let fits := n ≠ 0 ∧ off + n ≤ capUnits s (bits m 25 24) * 0x4000000 ∧ ∀ x < 16, x ≠ r.val → drValid s x = true →
    apart lo n (drBase s x) (drSize s x) ∧ (drChan s x = bits m 25 24 → apart off n (drOff s x) (drSize s x))
  let taken := bit old 31 = true ∧ (bit b 31 = false ∨ bits old 27 24 ≠ bits b 27 24)
  let owner := fun (w : Word) => if bit w 31 then bits w 27 24 else 0
  let moves := owner old = owner b ∨ mayMove s (owner old) (owner b) = true
  ((bit b 31 = true → fits) → (taken → regionInUse s r = false) → moves → Gives (.drRegionWrite r i v) s (fun s' => OnlyRegs s s' [a] ∧ reg s' a = written s a v))
  ∧ ((taken ∧ regionInUse s r = true) ∨ ¬ moves ∨ (bit b 31 = true ∧ (n = 0 ∨ capUnits s (bits m 25 24) * 0x4000000 < off + n)) →
    Gives (.drRegionWrite r i v) s (fun s' => Noted s s' [] (Reg.ddrPage 0) 6 ∧ reg s' a = reg s a)))
  ∧ (∀ (v : Word) (s : State), let a := Reg.DDR_IMODE 0
    let free := mode s = 1 ∨ mode s = 2 ∨ mode s = 3 ∨ mode s = 7
    (8 ≤ bits v 11 8 → bit v 31 = false ∨ free → Gives (.ddrImodeWrite v) s (fun s' => OnlyRegs s s' [a] ∧ reg s' a = written s a v
      ∧ (imode s' = bit v 31 ∧ fld s' a 11 8 = bits v 11 8 ∧ fld s' a 3 0 = bits v 3 0)))
    ∧ (bit v 31 = true → ¬ free → Gives (.ddrImodeWrite v) s (fun s' => Noted s s' [] (Reg.ddrPage 0) 6 ∧ reg s' a = reg s a)))
  ∧ (∀ (c : ChanId) (v : Word) (s : State), let a := Reg.DDR_SPARE c
    let lo := bits v 9 0 * 0x4000000
    let hi := lo + bits v 26 16 * 0x4000000
    let clear := hi ≤ capUnits s c * 0x4000000 ∧ ∀ e ∈ regionExtents s c, hi ≤ e.1 ∨ e.2 ≤ lo
    (bit v 31 = true → clear → Gives (.ddrSpareEnable c v) s (fun s' => OnlyRegs { s with ddrs := s'.ddrs } s' [a]
      ∧ TblAt (fun _ => {}) s.ddrs s'.ddrs c { ddr s c with filling := true }
      ∧ flag s' a 31 = true ∧ flag s' a 30 = false ∧ fld s' a 26 16 = bits v 26 16 ∧ fld s' a 9 0 = bits v 9 0))
    ∧ (bit v 31 = true → capUnits s c * 0x4000000 < hi → Gives (.ddrSpareEnable c v) s (fun s' => Noted s s' [] (Reg.ddrPage c) 6 ∧ reg s' a = reg s a))
    ∧ (bit v 31 = false → Gives (.ddrSpareEnable c v) s (fun s' => OnlyRegs { s with ddrs := s'.ddrs } s' [a] ∧ flag s' a 31 = false ∧ flag s' a 30 = false)))
  ∧ (∀ (c : ChanId) (s : State), (ddr s c).filling = true →
    let lo := fld s (Reg.DDR_SPARE c) 9 0 * 0x4000000
    let hi := lo + fld s (Reg.DDR_SPARE c) 26 16 * 0x4000000
    Gives (.ddrSpareReady c) s (fun s' => OnlyRegs { s with ddrs := s'.ddrs, badWords := s'.badWords } s' [Reg.DDR_SPARE c]
      ∧ flag s' (Reg.DDR_SPARE c) 30 = true ∧ (ddr s' c).filling = false
      ∧ (∀ off < 2 ^ 37, lo ≤ off → off < hi → keptBad s' c off = true)
      ∧ ∀ off < 2 ^ 37, off % 4 = 0 → off < lo ∨ hi ≤ off → keptBad s' c off = keptBad s c off))
  ∧ (∀ (c : ChanId) (k : Fin 2) (s : State), k.val < fld s (Reg.DDR_GEOM c) 9 8 → rankLost s c k = false →
    4 ≤ (if k = 0 then (ddr s c).bad0 else (ddr s c).bad1) →
    let lost := fun (s' : State) => rankLost s' c k = true ∧ flag s' (Reg.PG_ERR_STICKY (Reg.ddrPage c)) 4 = true
      ∧ (∀ r ∈ (ddr s' c).reqs0 ++ (ddr s' c).reqs1, rankOf s c r.off ≠ k.val)
      ∧ (∀ r ∈ (ddr s c).reqs0, rankOf s c r.off ≠ k.val → r ∈ (ddr s' c).reqs0)
      ∧ ∀ t l, (thread s t).load = some l → ∃ l', (thread s' t).load = some l' ∧ (keyInRank s c k l.key = true → l'.bad = true)
        ∧ (keyInRank s c k l.key = false → l' = l)
    (recovOk s c = false → fatal s = false → Gives (.ddrRankLost c k) s (fun s' => lost s' ∧ fatal s' = true))
    ∧ (recovOk s c = true → fatal s = false → Gives (.ddrRankLost c k) s (fun s' => lost s' ∧ fatal s' = false ∧ flag s' Reg.BL_SUMMARY 30 = true
      ∧ s'.blotter.intervals.length = s.blotter.intervals.length + 1
      ∧ s' = { s with regs := s'.regs, mem := s'.mem, out := s'.out, free := s'.free, threads := s'.threads, ddrs := s'.ddrs,
                      blotter := s'.blotter })))
  ∧ (∀ (c : ChanId) (k : Fin 2) (s : State), fatal s = false → rankLost s c k = true → (∀ m ∈ (ddr s c).remaps, m.rank ≠ k.val) →
    (∀ j : Fin 2, j ≠ k → rankLost s c j = false ∨ ∃ m ∈ (ddr s c).remaps, m.rank = j.val) →
    Gives (.ddrRemapDone c) s (fun s' => (ddr s' c).remaps = (ddr s c).remaps ++ [⟨k, 2 ^ fld s (Reg.DDR_IMODE 0) 11 8, rankExtents s c k, spareTargets s c⟩]
      ∧ (∀ i ∈ s'.blotter.intervals, i.kind = 3 → i.unit = 2 * c.val + k.val → i.done.isSome = true)
      ∧ (buffersIn s c k ≠ 0 → flag s' (Reg.PG_ERR_STICKY Reg.inkwellPage) 1 = true)))

/-- R266, R268–R270, R272, R278, R279, R282. In the modes that take commands and with no command running: NOP does nothing; CREATE makes a NONE partition CREATING; COMMIT makes a CREATING one IDLE when it owns a Nib, the quotas and shares summed over all partitions fit, a ring stands behind its templates and its Quills have lock groups, else REFUSED with the first reason; START makes IDLE ACTIVE with
admission pending; STOP and FREEZE begin DRAINING; THAW unparks and makes FROZEN ACTIVE or IDLE; SAVE and RESTORE start; DESTROY makes CREATING or IDLE NONE and gives its Nibs, lanes, classes, queues, regions and alarms to partition 0. From other states the table's ALREADY_DONE or REFUSED, the state as before. In DRAINING, in RESETTING, and while a command runs, every command but RESET is BUSY. Each finished command
sets interrupt 0. An enabled DRAM pool counts IW_DCFG.count buffers in COMMIT (the model's reading, log entry 42); commands are REFUSED outside modes 3 to 6 (R339). -/
def Obligations.PartitionCommands : Prop := ∀ (p : PartId) (img : List Byte) (s : State), pageOn s (Reg.partPage p) = true →
  let st := partState s p
  let ps := Reg.PART_STAT p
  let page := Reg.partPage p
  let q := part s p
  let ran := fun (status : Byte) (state : Nat) (busy : Bool) (s' : State) => fld s' ps 7 0 = status.toNat ∧ partState s' p = state ∧ flag s' ps 31 = busy
    ∧ (busy = false → flag s' (Reg.PG_IRQ_RAW page) 0 = true) ∧ ∀ j, j ≠ p.val → part s' j = part s j
  let only := fun (s' : State) => Records { s with parts := s'.parts } s' [ps]
  let refused := fun (c : Instr) => Gives c s (fun s' => ran stRefused st false s' ∧ part s' p = q ∧ Noted s s' [ps] page 0)
  let stays := fun (c : Instr) (status : Byte) => Gives c s (fun s' => ran status st (flag s ps 31) s' ∧ Records s s' [ps])
  let others : List Instr := [.partNop p, .partCreate p, .partCommit p, .partStart p, .partStop p, .partFreeze p, .partThaw p, .partSave p,
    .partRestore p img, .partDestroy p, .partReservedCmd p]
  let allowed := mode s = 3 ∨ mode s = 4 ∨ mode s = 5 ∨ mode s = 6
  let total := fun (f : Nat → Nat) => ((List.range 16).map f).sum
  let dPool := if flag s Reg.IW_DCFG 31 then fld s Reg.IW_DCFG 20 0 else 1048576
  let c1 := ∀ n < 128, nibPid s n ≠ p.val
  let c2 := 16384 < total (fun k => fld s (Reg.IW_QPART_S k) 14 0) ∨ dPool < total (fun k => fld s (Reg.IW_QPART_D k) 20 0)
  let c3 := 2097152 < total (fun k => fld s (Reg.CB_PLIM k) 21 0)
  let c4 := 65536 < total (fun k => fld s (Reg.DX_PLIM k) 16 0)
  let c5 := (∃ t < 256, tplPid s t = p.val) ∧ flag s (Reg.DX_SPILL_SIZE p) 31 = false
  let c6 := ∃ n < 128, nibPid s n = p.val ∧ ∀ i < 16, lockPid s (n / 8) (16 * i) ≠ p.val
  let fails := fun (k : Nat) => Gives (.partCommit p) s (fun s' => ran stRefused st false s' ∧ part s' p = q
    ∧ Noted s s' [ps, Reg.PART_ERR p] page 1 ∧ fld s' (Reg.PART_ERR p) 7 0 = k)
  (¬ allowed → flag s ps 31 = false → ∀ c ∈ .partReset p :: others, refused c)
  ∧ (allowed → st = 4 ∨ st = 6 ∨ flag s ps 31 = true → ∀ c ∈ others, stays c stBusy)
  ∧ (allowed → st ≠ 4 → st ≠ 6 → flag s ps 31 = false →
    stays (.partNop p) stOk ∧ refused (.partReservedCmd p)
    ∧ (p.val = 0 → refused (.partCreate p) ∧ refused (.partDestroy p))
    ∧ (p.val ≠ 0 → st ≠ 0 → stays (.partCreate p) stAlready)
    ∧ (p.val ≠ 0 → st = 0 → Gives (.partCreate p) s (fun s' => ran stOk 1 false s' ∧ only s'))
    ∧ (st ≠ 1 → refused (.partCommit p))
    ∧ (st = 1 → (c1 → fails 1) ∧ (¬ c1 → c2 → fails 2) ∧ (¬ c1 → ¬ c2 → c3 → fails 3) ∧ (¬ c1 → ¬ c2 → ¬ c3 → c4 → fails 4)
      ∧ (¬ c1 → ¬ c2 → ¬ c3 → ¬ c4 → c5 → fails 5) ∧ (¬ c1 → ¬ c2 → ¬ c3 → ¬ c4 → ¬ c5 → c6 → fails 6)
      ∧ (¬ c1 → ¬ c2 → ¬ c3 → ¬ c4 → ¬ c5 → ¬ c6 → Gives (.partCommit p) s (fun s' => ran stOk 2 false s' ∧ only s')))
    ∧ (st = 2 → Gives (.partStart p) s (fun s' => ran stOk 3 false s' ∧ only s' ∧ (part s' p).startPend = true
      ∧ (part s' p).admitting = q.admitting)) ∧ (st = 3 → stays (.partStart p) stAlready) ∧ (st ≠ 2 → st ≠ 3 → refused (.partStart p))
    ∧ (st = 3 → Gives (.partStop p) s (fun s' => ran stOk 4 true s' ∧ only s' ∧ (part s' p).stopPend = q.admitting ∧ (part s' p).toFrozen = false))
    ∧ (st = 2 → stays (.partStop p) stAlready) ∧ (st ≠ 2 → st ≠ 3 → refused (.partStop p))
    ∧ (st = 2 ∨ st = 3 → Gives (.partFreeze p) s (fun s' => ran stOk 4 true s' ∧ only s' ∧ (part s' p).stopPend = q.admitting
      ∧ (part s' p).toFrozen = true ∧ (part s' p).fromActive = decide (st = 3)))
    ∧ (st = 5 → stays (.partFreeze p) stAlready) ∧ (st ≠ 2 → st ≠ 3 → st ≠ 5 → refused (.partFreeze p))
    ∧ (st = 5 → Gives (.partThaw p) s (fun s' => ran stOk (if q.fromActive then 3 else 2) false s' ∧ (part s' p).startPend = q.fromActive
      ∧ Records { s with parts := s'.parts, threads := s'.threads } s' [ps]
      ∧ ∀ t, thread s' t = if t < 1024 ∧ tidPid s t = p.val ∧ (thread s t).state = .parked then { landed (thread s t) with state := .running } else thread s t))
    ∧ (st ≠ 5 → refused (.partThaw p) ∧ refused (.partSave p)) ∧ (st ≠ 2 → refused (.partRestore p img))
    ∧ (st = 2 → Gives (.partRestore p img) s (fun s' => ran stOk 2 true s' ∧ Records { s with parts := s'.parts, perf := s'.perf } s' [ps]
      ∧ (∃ addr, .dmaRead p (pasidOf s p) addr (min img.length (reg s (Reg.PART_IMG_LEN p)).toNat) ∈ s'.out) ∧ (part s' p).restoring = some (img.take (reg s (Reg.PART_IMG_LEN p)).toNat)))
    ∧ (p.val ≠ 0 → st ≠ 1 → st ≠ 2 → refused (.partDestroy p))
    ∧ (p.val ≠ 0 → st = 1 ∨ st = 2 → Gives (.partDestroy p) s (fun s' => ran stOk 0 false s'
      ∧ let home := fun (k : Nat) => if k = p.val then 0 else k
        (∀ n < 128, nibPid s' n = home (nibPid s n) ∧ lanePid s' n = home (lanePid s n)) ∧ (∀ c < 15, fld s' (Reg.ST_CLASS c) 27 24 = home (fld s (Reg.ST_CLASS c) 27 24))
        ∧ (∀ k < 256, queuePid s' k = home (queuePid s k)) ∧ (∀ r < 16, drRegionPid s' r = home (drRegionPid s r)) ∧ (∀ a < 16, alarmPid s' a = home (alarmPid s a))
        ∧ fld s' (Reg.CB_PLIM p) 21 0 = 0 ∧ fld s' (Reg.DX_PLIM p) 16 0 = 0 ∧ reg s' (Reg.PART_SHAPERS p) = 0
        ∧ reg s' (Reg.PART_SHAPERS 0) = reg s (Reg.PART_SHAPERS 0) ||| reg s (Reg.PART_SHAPERS p))))

/-- R270–R272, R278–R280. PART_DRAIN_END with engines and work at 0 and no admission makes the partition IDLE, or FROZEN with its threads parked; before that nothing happens. PART_ADMISSION_START after the boundary admits. RESET from IDLE, ACTIVE, DRAINING, FROZEN or FAULTED steps the epoch mod 2^16, stops admission, makes every thread of the partition IDLE and its channels empty, takes its
instances, Ligature slots, queued and waiting FDs away, closes its decision slots, sets the ring indexes to 0, keeps the Copybook and the templates, and leaves RESETTING; when the engines hold nothing, PART_RESET_DONE makes it IDLE; a second RESET is ALREADY_DONE. SAVE is REFUSED with reason 0x10 while buffers are held, FULL with PART_IMG_NEED when the image does not fit; when its reading
is signed the image leaves by DMA. An image that fails a check ends RESTORE REFUSED with its reason and the state as before; else the partition is FROZEN. -/
def Obligations.PartitionStates : Prop := ∀ (p : PartId) (s : State),
  let st := partState s p
  let ps := Reg.PART_STAT p
  let page := Reg.partPage p
  let q := part s p
  let ended := fun (status : Byte) (state : Nat) (s' : State) => fld s' ps 7 0 = status.toNat ∧ partState s' p = state ∧ flag s' ps 31 = false
    ∧ flag s' (Reg.PG_IRQ_RAW page) 0 = true ∧ ∀ j, j ≠ p.val → part s' j = part s j
  let drained := q.admitting = false ∧ q.stopPend = false ∧ enginesOf s p = 0 ∧ workOf s p = 0
  let allowed := mode s = 3 ∨ mode s = 4 ∨ mode s = 5 ∨ mode s = 6
  let need := (image s p (List.replicate 312 0)).length
  (st = 4 → drained → q.toFrozen = false → Gives (.partDrainEnd p) s (fun s' => ended stOk 2 s' ∧ Records { s with parts := s'.parts } s' [ps]))
  ∧ (st = 4 → drained → q.toFrozen = true → Gives (.partDrainEnd p) s (fun s' => ended stOk 5 s' ∧ (part s' p).drainPs = psEvent s
    ∧ ∀ t, t < 1024 → tidPid s t = p.val → (thread s t).state = .running ∨ (thread s t).state = .blocked → (thread s' t).state = .parked))
  ∧ (st ≠ 4 ∨ ¬ drained → exec (.partDrainEnd p) s = .next s)
  ∧ (q.startDue = true → st = 3 → flag s Reg.PH_STAT 3 = false → Gives (.partAdmissionStart p) s (fun s' => s' = { s with parts := s'.parts }
    ∧ TblAt (fun _ => {}) s.parts s'.parts p { q with startDue := false, admitting := true }))
  ∧ (q.startDue = false ∨ st ≠ 3 → exec (.partAdmissionStart p) s = .next s)
  ∧ (pageOn s page = true → allowed →
    (st = 2 → q.resetDone = true → Gives (.partReset p) s (fun s' => fld s' ps 7 0 = stAlready.toNat ∧ Records s s' [ps] ∧ partState s' p = 2))
    ∧ (st = 2 ∧ q.resetDone = false ∨ st = 3 ∨ st = 4 ∨ st = 5 ∨ st = 7 → Gives (.partReset p) s (fun s' =>
      partState s' p = 6 ∧ flag s' ps 31 = true ∧ fld s' ps 7 0 = 0 ∧ partEpoch s' p = (partEpoch s p + 1) % 65536 ∧ (part s' p).admitting = false
      ∧ (part s' p).rxPend = []
      ∧ (∀ t, t < 1024 → tidPid s t = p.val → (thread s' t).state = .idle)
      ∧ (∀ n, n < 128 → nibPid s n = p.val → ∀ c < 32, (chan s' n c).msgs = [] ∧ (chan s' n c).claimed = 0)
      ∧ (∀ f ∈ s'.dispatchQ, fdPid f ≠ p.val) ∧ (∀ k, ∀ f ∈ queue s' k, fdPid f ≠ p.val) ∧ (∀ x ∈ s'.ductus.insts, x.pid ≠ p.val)
      ∧ (∀ k x, slot s' k = some x → x.pid ≠ p.val) ∧ (∀ d ∈ s'.decisions, d.p = p.val → d.closed = true)
      ∧ (∀ r < 3, reg s' (Reg.PW_RING_PROD p r) = 0 ∧ reg s' (Reg.PW_RING_CONS p r) = 0 ∧ reg s' (Reg.PW_RING_CFG p r) = reg s (Reg.PW_RING_CFG p r))
      ∧ s'.copybook = s.copybook ∧ s'.ductus.enabled = s.ductus.enabled ∧ s'.pending = s.pending)))
  ∧ (st = 6 → enginesOf s p = 0 → Gives (.partResetDone p) s (fun s' => ended stOk 2 s' ∧ (part s' p).resetDone = true
    ∧ Records { s with parts := s'.parts } s' [ps]))
  ∧ (st ≠ 6 ∨ enginesOf s p ≠ 0 → exec (.partResetDone p) s = .next s)
  ∧ (pageOn s page = true → allowed → st = 5 → flag s ps 31 = false →
    (use s (partKey false p) + use s (partKey true p) ≠ 0 → Gives (.partSave p) s (fun s' => ended stRefused 5 s' ∧ fld s' (Reg.PART_ERR p) 7 0 = 0x10
      ∧ Noted s s' [ps, Reg.PART_ERR p] page 0))
    ∧ (use s (partKey false p) + use s (partKey true p) = 0 → (reg s (Reg.PART_IMG_LEN p)).toNat < need → Gives (.partSave p) s (fun s' =>
      ended stFull 5 s' ∧ reg s' (Reg.PART_IMG_NEED p) = word need ∧ Records s s' [ps, Reg.PART_IMG_NEED p]))
    ∧ (use s (partKey false p) + use s (partKey true p) = 0 → need ≤ (reg s (Reg.PART_IMG_LEN p)).toNat → Gives (.partSave p) s (fun s' =>
      fld s' ps 7 0 = 0 ∧ partState s' p = 5 ∧ flag s' ps 31 = true ∧ (part s' p).saving = true ∧ reg s' (Reg.PART_IMG_NEED p) = word need)))
  ∧ (∀ r, r ≠ [] → Tbl.get (fun _ => []) s.signet.finished p = r → q.saving = true → Gives (.partSaveDone p) s (fun s' => ended stOk st s'
    ∧ (part s' p).saving = false ∧ ∃ more, s'.out = s.out ++ [.dma p (if enField s (Reg.partPage p) (Reg.PART_PASID p) 31 then some (fld s (Reg.PART_PASID p) 19 0) else none)
      (fld s (Reg.PART_IMG_ADDR_LO p) 31 6 * 64 + (reg s (Reg.PART_IMG_ADDR_HI p)).toNat * 2 ^ 32) (image s p r)] ++ more))
  ∧ (∀ img e, q.restoring = some img → imageFails s p img = some e → Gives (.partRestoreDone p) s (fun s' => ended stRefused st s'
    ∧ (part s' p).restoring = none ∧ Noted { s with parts := s'.parts } s' [ps, Reg.PART_ERR p] page 3 ∧ fld s' (Reg.PART_ERR p) 7 0 = e % 256))
  ∧ (∀ img, q.restoring = some img → imageFails s p img = none → Gives (.partRestoreDone p) s (fun s' => fld s' ps 7 0 = 0 ∧ partState s' p = 5
    ∧ flag s' ps 31 = false ∧ flag s' (Reg.PG_IRQ_RAW page) 0 = true ∧ (part s' p).restoring = none ∧ (part s' p).fromActive = bit (img.getD 25 0) 0))

/-- R278, R279. The image that SAVE builds of a partition, with any signed reading and shorter than 2^32 bytes, passes the checks of RESTORE on the same state: magic and version, SHA-384, every section CRC, DEVICE_ID, the partition's own counts, region sizes and Quill pattern, and no reserved section. Its header is the 64 bytes of R278: magic, version, length, DEVICE_ID, UNIQUE_ID, pid, the state that it was frozen
from, the epoch and the PS of the drain's end; its last 48 bytes are the SHA-384 of all before them. The bodies lie as log entry 72 chooses. -/
def Obligations.ImageRoundTrip : Prop := ∀ (p : PartId) (s : State) (r : List Byte), (image s p r).length < 2 ^ 32 → bits (reg s Reg.DEVICE_ID) 31 16 = 0x6440 →
  let img := image s p r
  imageFails s p img = none ∧ img.length % 16 = 0 ∧ img.drop (img.length - 48) = sha384 (img.take (img.length - 48))
  ∧ slice img 0 4 = leBytes 4 0x50415254 ∧ slice img 4 2 = leBytes 2 1 ∧ slice img 8 4 = leBytes 4 img.length
  ∧ slice img 12 4 = leBytes 4 (reg s Reg.DEVICE_ID).toNat ∧ slice img 24 1 = leBytes 1 p ∧ slice img 25 1 = [if (part s p).fromActive then 1 else 0]
  ∧ slice img 26 2 = leBytes 2 (partEpoch s p) ∧ slice img 28 8 = leBytes 8 (psNat (part s p).drainPs)

/-- R274–R277, R281, R282. RX_ENTRY_WRITE takes the oldest FD of the host ring: without room PW_RX_DROP counts and source 0x04 is recorded; else the 64-byte entry of R276 is written after its data, the producer steps mod the ring size, the phase alternates at the wrap, and the vector fires with rx_irq; a HOLE carries no data; without an RXB buffer the status is EMPTY; with one the data goes to it and the RXB
consumer steps. A doorbell stores its index mod the ring size, but nothing while the partition is RESETTING. TX_ENTRY_PROCESS answers REFUSED to a kind other than BUILT and a length of 0 or above 9,216, the ALLOC's status when that fails, and else puts the data into the buffer and queues the FD with the partition's pid, lane 0xFF and the carry check; it writes the status and bit 0 of byte 45 and steps the
consumer. PART_SWIRQ bit i fires vector 64 + 8p + 4 + i. A ring that is not enabled, or whose partition and mode have
no host rings (R345), has no room (log entry 44). An EVENT's buffer passes to the host slot. -/
def Obligations.HostRings : Prop := ∀ (p : PartId) (s : State),
  let pasid := if enField s (Reg.partPage p) (Reg.PART_PASID p) 31 then some (fld s (Reg.PART_PASID p) 19 0) else none
  let vec := fun (i : Nat) => Out.msix (64 + 8 * p + i)
  let size := fun (r : Nat) => 2 ^ fld s (Reg.PW_RING_CFG p r) 4 0
  let base := fun (r : Nat) => (reg s (Reg.PW_RING_BASE_LO p r)).toNat + (reg s (Reg.PW_RING_BASE_HI p r)).toNat * 2 ^ 32
  let prod := fun (r : Nat) => fld s (Reg.PW_RING_PROD p r) 15 0
  let cons := fun (r : Nat) => fld s (Reg.PW_RING_CONS p r) 15 0
  let on := fun (r : Nat) => flag s (Reg.PW_RING_CFG p r) 31 = true ∧ mode s ≠ 0 ∧ mode s ≠ 2 ∧ partState s p ∈ [2, 3, 4, 5, 7]
  let q := part s p
  (∀ (a : BitVec 64) (f : FD) (x : PS) (rest : List (FD × PS)), q.rxPend = (f, x) :: rest →
    let next := (prod 0 + 1) % size 0
    let room := on 0 ∧ next ≠ cons 0
    let hasBuf := on 1 ∧ prod 1 ≠ cons 1
    let entry := fun (f : FD) (addr n : Nat) (st : Byte) => (fdWords f).flatMap (fun w => leBytes 4 w.toNat) ++ leBytes 8 addr ++ leBytes 4 n
      ++ [st, if q.rxPhase then 1 else 0, 0, 0] ++ leBytes 8 (psNat x) ++ List.replicate 8 0
    let fired := if flag s (Reg.PW_CTL p) 0 then [vec 0] else []
    let stepped := fun (s' : State) => reg s' (Reg.PW_RING_PROD p 0) = word next ∧ (part s' p).rxPend = rest
      ∧ (part s' p).rxPhase = (if next = 0 then !q.rxPhase else q.rxPhase) ∧ ∀ j, j ≠ p.val → part s' j = part s j
    (¬ room → Gives (.rxEntryWrite p a) s (fun s' => (part s' p).rxPend = rest ∧ reg s' (Reg.PW_RX_DROP p) = reg s (Reg.PW_RX_DROP p) + 1
      ∧ flag s' (Reg.PG_ERR_STICKY (Reg.partPage p)) 4 = true
      ∧ (bhPool f.w4 ≠ 2 → Noted { s with parts := s'.parts, ink := s'.ink } s' [Reg.PW_RX_DROP p] (Reg.partPage p) 4)))
    ∧ (room → fdKind f = 2 → Gives (.rxEntryWrite p a) s (fun s' => stepped s'
      ∧ OnlyRegs { s with parts := s'.parts, out := s'.out, perf := s'.perf } s' [Reg.PW_RING_PROD p 0]
      ∧ s'.out = s.out ++ [.dma p pasid (base 0 + 64 * prod 0) (entry f 0 0 stOk)] ++ fired))
    ∧ (room → fdKind f ≠ 2 → let s1 := modPart s p (fun q => { q with rxPend := rest })
      (rxData s1 f).2.1 = false → (rxData s1 f).2.2 = { s1 with perf := (rxData s1 f).2.2.perf, ddrs := (rxData s1 f).2.2.ddrs } →
      let passed := fun (s' : State) => fdKind f = 6 → bhPool f.w4 = 1 → bhIndex f.w4 < 16384 → (buf s f.w4).st = 1 →
        buf s' f.w4 = { buf s f.w4 with owner := 0x90 + p.val }
      let left := fun (l : List Out) (s' : State) => (fdKind f ≠ 6 → s'.out = s.out ++ l ++ fired) ∧ (∀ o ∈ l, o ∈ s'.out) ∧ passed s'
      (¬ hasBuf → Gives (.rxEntryWrite p a) s (fun s' => stepped s' ∧ left [.dma p pasid (base 0 + 64 * prod 0) (entry f 0 0 stEmpty)] s'))
      ∧ (hasBuf → let d := rdBytes s (bufKey s f.w4) (fdLen f)
        Gives (.rxEntryWrite p a) s (fun s' => stepped s' ∧ reg s' (Reg.PW_RING_CONS p 1) = word ((cons 1 + 1) % size 1)
        ∧ left [.dmaRead p pasid (base 1 + 16 * cons 1) 16, .dma p pasid a.toNat d, .dma p pasid (base 0 + 64 * prod 0) (entry f a.toNat d.length stOk)] s'))))
  ∧ (∀ v : Word, let i := fun (r : Nat) => word (bits v 15 0 % size r)
    let sets := fun (c : Instr) (a : Nat) (x : Word) => Gives c s (fun s' => OnlyRegs s s' [a] ∧ reg s' a = x)
    (partState s p ≠ 6 → sets (.rxConsDoorbell p v) (Reg.PW_RING_CONS p 0) (i 0) ∧ sets (.rxbDoorbell p v) (Reg.PW_RING_PROD p 1) (i 1)
      ∧ sets (.txDoorbell p v) (Reg.PW_RING_PROD p 2) (i 2))
    ∧ (partState s p = 6 → ∀ c ∈ [Instr.rxConsDoorbell p v, .rxbDoorbell p v, .txDoorbell p v], exec c s = .next s))
  ∧ (∀ entry data : List Byte, on 2 → prod 2 ≠ cons 2 → NoArm s Reg.inkwellPage 0 → NoArm s Reg.inkwellPage 1 →
    let f := entryFd entry
    let n := fdLen f
    let fired := if flag s (Reg.PW_CTL p) 1 then [vec 1] else []
    let wrote := fun (st : Byte) (s' : State) => reg s' (Reg.PW_RING_CONS p 2) = word ((cons 2 + 1) % size 2)
      ∧ ∃ mid, s'.out = s.out ++ [.dmaRead p pasid (base 2 + 64 * cons 2) 64] ++ mid ++ [.dma p pasid (base 2 + 64 * cons 2 + 44) [st, entry.getD 45 0 ||| 1]] ++ fired
    let al := iwAlloc s (decide (2048 < n)) (0x90 + p.val) p.val none
    (fdKind f ≠ 5 ∨ n = 0 ∨ 9216 < n → Gives (.txEntryProcess p entry data) s (fun s' => wrote stRefused s'
      ∧ OnlyRegs { s with out := s'.out, perf := s'.perf } s' [Reg.PW_RING_CONS p 2]))
    ∧ (fdKind f = 5 → 1 ≤ n → n ≤ 9216 → al.1 ≠ stOk → Gives (.txEntryProcess p entry data) s (fun s' => wrote al.1 s' ∧ s'.queues = s.queues
      ∧ s'.ink.bufs = s.ink.bufs))
    ∧ (fdKind f = 5 → 1 ≤ n → n ≤ 2048 → al.1 = stOk → bhPool al.2.1 = 1 → bhIndex al.2.1 < 16384 → data.length = n →
      queuePid al.2.2 (fdQueue f) = p.val → queueOn al.2.2 (fdQueue f) = true → (queue al.2.2 (fdQueue f)).length < fld al.2.2 (Reg.queueLim (fdQueue f)) 13 0 →
      storeUsed al.2.2 < 16384 → Gives (.txEntryProcess p entry data) s (fun s' => wrote stOk s'
        ∧ StoredAt s s' (bufKey s al.2.1) data
        ∧ ∃ g : FD, queue s' (fdQueue f) = queue s (fdQueue f) ++ [g] ∧ fdPid g = p.val ∧ fdLane g = 0xFF ∧ fdKind g = 5 ∧ fdLen g = n
          ∧ g.w4 = al.2.1 ∧ g.w5 = crc32c data ∧ g.w1 = f.w1 ∧ g.w2 = f.w2 ∧ g.w7 = f.w7)))
  ∧ (∀ v : BitVec 4, pageOn s (Reg.partPage p) = true → exec (.partSwirq p v) s = .next { s with
      out := s.out ++ (((List.range 4).filter (fun i => v.getLsbD i)).map (fun i => vec (4 + i))) })

/-- R284–R289, R299, R300. With every lane UP, SK_TRAIN sends 16 ECHO_REQ blocks, tagged 0 to 15 (the model's choice, log entry 186), in state TRAIN with what was in replay before what waits; each answer with an open tag closes it, and the longest round trip is kept; after all of them seq is 0, the buffers 64 and 192 are granted and the port is UP. FLIT_SEND sends flits to send again first, then class 0 before class 1, each new one with the
next seq, against a credit and kept for replay, none while 256 are kept; it leaves as the FLIT block and eight data blocks of R285, with the acknowledgement, the credits and its CRC-32, on the lane of its seq's parity. Such blocks are read back as that header. A good flit of the next seq is accepted and acknowledged, with the early ones that follow it; one of the other lane within the skew waits (log entry 187); any other is discarded with a NAK, and
source 0x00; bad blocks count in SK_CRC_ERR. An acknowledgement frees the flits up to it and ends the count of resends. A NAK, and 2 µs, resend from the expected or the oldest flit; after 8 resends the port retrains with source 0x01. A reserved message records source 0x06. -/
def Obligations.SkovubLink : Prop := ∀ (k : PortId) (s : State),
  let p := port s k
  let page := Reg.skovubPage k
  let ps := Reg.SK_PSTAT k
  let rtt := Reg.SK_RTT_FCLK k
  let kept := fun (c : Nat) => (p.replay.filter (fun f => f.cls = c)).map (·.msg)
  let ready := { p with q0 := kept 0 ++ p.q0, q1 := kept 1 ++ p.q1, replay := [], resend := [], resends := 0, probing := false, probes := [], early := [] }
  let ctl := fun (ty : Byte) (l : List Byte) => Out.link k ⟨2, ty :: l ++ List.replicate (7 - l.length) 0⟩
  let seq12 := fun (n : Nat) (b : Bool) => beBytes 2 (n % 4096 * 16 + b.toNat * 8)
  let credits := fun (a b : Nat) => [BitVec.ofNat 8 a, BitVec.ofNat 8 b]
  let isOf := fun (b s' : State) (l : List Nat) (v : Port) (o : List Out) => OnlyRegs { b with ports := s'.ports, out := s'.out } s' l
    ∧ TblAt (fun _ => {}) s.ports s'.ports k v ∧ s'.out = s.out ++ o
  let is := isOf s
  let flitLeaves := fun (f : Flit) (l : List Nat) (v : Port) (s' : State) => ∃ pad : List Byte, pad.length + (flitData f.msg).length = 60 ∧
    let head := beBytes 2 (f.seq % 4096 * 16 + f.cls % 2 * 8 + (decide (f.msg.part = 0)).toNat * 4 + (decide (f.msg.part + 1 = f.msg.parts)).toNat * 2)
      ++ seq12 (p.recvSeq + 4095) p.heard ++ credits p.ret0 p.ret1 ++ [0]
    let bytes := flitData f.msg ++ pad
    let sent := bytes ++ leBytes 4 (crc32 (head ++ bytes)).toNat
    let lane := if flag s (Reg.SK_PCFG k) 30 && f.seq % 2 = 1 then fld s (Reg.SK_PCFG k) 22 16 else fld s (Reg.SK_PCFG k) 14 8
    isOf { bw s 42 64 with free := s'.free } s' l v
      [.flit k lane f (⟨2, 0x2D :: head⟩ :: (List.range 8).map (fun i => ⟨1, (sent.drop (8 * i)).take 8⟩))]
  let stays := fun (c : Instr) => exec c s = .next s
  let sendsNew := fun (c : Nat) (m : SkMsg) (v : Port) => let f : Flit := ⟨p.sendSeq, c, m⟩
    Gives (.flitSend k) s (fun s' => reg s' (Reg.SK_FLITS_TX k) = reg s (Reg.SK_FLITS_TX k) + 1 
      ∧ flitLeaves f [Reg.SK_FLITS_TX k] { v with sendSeq := (p.sendSeq + 1) % 4096, replay := p.replay ++ [f], ret0 := 0, ret1 := 0 } s')
  let acks := fun (valid : Bool) (a c0 c1 : Nat) => let q := { p with cr0 := p.cr0 + c0, cr1 := p.cr1 + c1 }
    match p.replay.findIdx? (fun f => f.seq = a) with
    | some i => if valid then { q with replay := p.replay.drop (i + 1), resends := 0
                                       resend := p.resend.filter (fun f => !(p.replay.take (i + 1)).contains f) } else q
    | none => q
  let resends := fun (c : Instr) (i : Nat) =>
    (p.resends < 8 → Gives c s (fun s' => reg s' (Reg.SK_RESENDS k) = reg s (Reg.SK_RESENDS k) + 1 
      ∧ is s' [Reg.SK_RESENDS k] { p with resend := p.replay.drop i, resends := p.resends + 1 } []))
    ∧ (8 ≤ p.resends → Gives c s (fun s' => Noted { s with ports := s'.ports } s' [ps] page 1 ∧ TblAt (fun _ => {}) s.ports s'.ports k ready
      ∧ reg s' ps = setBits (reg s ps) 31 30 (if portLanesUp s k then 1 else 3)))
  let mayTrain := portOn s k = true ∧ portLanesUp s k = true ∧ starts s page = true ∧ fatal s = false ∧ portState s k ≠ 2
  (¬ mayTrain → stays (.skTrain k))
  ∧ (mayTrain → p.probing = false → Gives (.skTrain k) s (fun s' => reg s' ps = setBits (reg s ps) 31 30 1 ∧ reg s' rtt = setBits (reg s rtt) 15 0 0
    ∧ is s' [ps, rtt] { ready with probing := true, probes := (List.range 16).map (BitVec.ofNat 16), cr0 := 0, cr1 := 0 }
      ((List.range 16).map (fun i => ctl 0x66 (beBytes 2 i)))))
  ∧ (mayTrain → p.probing = true → p.probes ≠ [] → stays (.skTrain k))
  ∧ (mayTrain → p.probing = true → p.probes = [] → Gives (.skTrain k) s (fun s' => reg s' ps = setBits (reg s ps) 31 30 2
    ∧ is s' [ps] { p with probing := false, sendSeq := 0, recvSeq := 0, heard := false, early := [], ret0 := 0, ret1 := 0, hbSince := s.phase.count }
      [ctl 0x33 (seq12 0 false ++ credits 64 192)]))
  ∧ (∀ tag : BitVec 16, (portOn s k = true ∧ portLanesUp s k = true ∧ fatal s = false →
      exec (.echoReqReceive k tag) s = .next { s with out := s.out ++ [ctl 0x6A (beBytes 2 tag.toNat)] })
    ∧ (¬ (portOn s k = true ∧ portLanesUp s k = true ∧ fatal s = false) → stays (.echoReqReceive k tag)))
  ∧ (∀ tag r : BitVec 16, (portState s k = 1 → p.probing = true → tag ∈ p.probes → Gives (.echoRspReceive k tag r) s (fun s' =>
      is s' [rtt] { p with probes := p.probes.erase tag } [] ∧ reg s' rtt = setBits (reg s rtt) 15 0 (max (fld s rtt 15 0) r.toNat)))
    ∧ (portState s k ≠ 1 ∨ p.probing = false ∨ tag ∉ p.probes → stays (.echoRspReceive k tag r)))
  ∧ (portSends s k = false → stays (.flitSend k))
  ∧ (portSends s k = true →
    (∀ f l, p.resend = f :: l → Gives (.flitSend k) s (fun s' => reg s' (Reg.SK_FLITS_TX k) = reg s (Reg.SK_FLITS_TX k) + 1 
      ∧ flitLeaves f [Reg.SK_FLITS_TX k] { p with resend := l, ret0 := 0, ret1 := 0 } s'))
    ∧ (p.resend = [] → 256 ≤ p.replay.length → stays (.flitSend k))
    ∧ (p.resend = [] → p.replay.length < 256 →
      (∀ m l, p.q0 = m :: l → 0 < p.cr0 → sendsNew 0 m { p with q0 := l, cr0 := p.cr0 - 1 })
      ∧ (p.q0 = [] ∨ p.cr0 = 0 → ∀ m l, p.q1 = m :: l → 0 < p.cr1 → sendsNew 1 m { p with q1 := l, cr1 := p.cr1 - 1 })
      ∧ (p.q0 = [] ∨ p.cr0 = 0 → p.q1 = [] ∨ p.cr1 = 0 → stays (.flitSend k))))
  ∧ (∀ (v : Bool) (a : BitVec 12) (c0 c1 : Byte),
    (portState s k = 1 ∨ portState s k = 2 → Gives (.ackReceive k v a c0 c1) s (fun s' => is s' [] (acks v a.toNat c0.toNat c1.toNat) []))
    ∧ (portState s k ≠ 1 → portState s k ≠ 2 → stays (.ackReceive k v a c0 c1)))
  ∧ (∀ (f : Flit) (v : Bool) (a c0 c1 : Nat) (pad : List Byte), pad.length + (flitData f.msg).length = 60 →
    readFlit (flitBlocks (flitHead f (ackBytes v a c0 c1)) (flitData f.msg ++ pad)) = some { seq := BitVec.ofNat 12 f.seq, cls := Fin.ofNat 2 f.cls
                                                                                             ackValid := v, acked := BitVec.ofNat 12 a
                                                                                             credits0 := BitVec.ofNat 8 c0, credits1 := BitVec.ofNat 8 c1 })
  ∧ (∀ (b : Block) (data : List Block), portState s k = 2 → NoArm s page 0 →
    let l := b :: data
    let isFlit := isOf (bw s 42 64)
    let discards := fun (q : Port) (crc : Word) => Gives (.flitReceive k b data) s (fun s' =>
      Noted { s with ports := s'.ports, perf := (bw s 42 64).perf } s' [Reg.SK_CRC_ERR k] page 0 ∧ TblAt (fun _ => {}) s.ports s'.ports k { q with early := [] }
      ∧ reg s' (Reg.SK_CRC_ERR k) = reg s (Reg.SK_CRC_ERR k) + crc
      ∧ ∃ more, s'.out = s.out ++ more ++ if fatal s then [] else [ctl 0x55 (seq12 p.recvSeq false)])
    (readFlit l = none → discards p 1)
    ∧ (∀ h, readFlit l = some h → let q := acks h.ackValid h.acked.toNat h.credits0.toNat h.credits1.toNat
      (h.seq.toNat = p.recvSeq → Gives (.flitReceive k b data) s (fun s' =>
        let run := h :: inSeq p.early p.early.length ((p.recvSeq + 1) % 4096)
        let next := (p.recvSeq + run.length) % 4096
        let r0 := p.ret0 + run.countP (fun h => h.cls = 0)
        let r1 := p.ret1 + run.countP (fun h => h.cls ≠ 0)
        let q' := { q with recvSeq := next, heard := true, early := p.early.filter (fun e => !run.contains e) }
        reg s' (Reg.SK_FLITS_RX k) = reg s (Reg.SK_FLITS_RX k) + word run.length
        ∧ (fatal s = false → isFlit s' [Reg.SK_FLITS_RX k] { q' with ret0 := 0, ret1 := 0 } [ctl 0x33 (seq12 (next + 4095) true ++ credits r0 r1)])
        ∧ (fatal s = true → isFlit s' [Reg.SK_FLITS_RX k] { q' with ret0 := r0, ret1 := r1 } [])))
      ∧ (h.seq.toNat ≠ p.recvSeq → flitEarly s k h.seq.toNat = true → Gives (.flitReceive k b data) s (fun s' => isFlit s' [] { q with early := p.early ++ [h] } []))
      ∧ (h.seq.toNat ≠ p.recvSeq → flitEarly s k h.seq.toNat = false → discards q 0)))
  ∧ (portState s k = 2 → ∀ e : BitVec 12, (∀ i, p.replay.findIdx? (fun f => f.seq = e.toNat) = some i → resends (.nakReceive k e) i)
    ∧ (p.replay.findIdx? (fun f => f.seq = e.toNat) = none → stays (.nakReceive k e)))
  ∧ (portState s k = 2 → (p.replay ≠ [] → resends (.flitReplayTimeout k) 0) ∧ (p.replay = [] → stays (.flitReplayTimeout k)))
  ∧ (∀ ty : Byte, (portState s k = 2 → Gives (.skReservedMessage k ty) s (fun s' => Noted s s' [] page 6)) ∧ (portState s k ≠ 2 → stays (.skReservedMessage k ty)))
  ∧ (portState s k ≠ 2 → ∀ (b : Block) (l : List Block) (e : BitVec 12), stays (.flitReceive k b l) ∧ stays (.nakReceive k e) ∧ stays (.flitReplayTimeout k))

/-- R290–R294, R297–R300, R327. At counts that are multiples of 256 an UP port sends its HEARTBEAT. A received one ends the missed count and stores role, active, follows, primary lost and L. The third missed period declares the peer down: replay and waiting requests end, the port retrains, source 0x02. A PHASE_CHECK away from crossing 0 of the local orbit by more than one crossing is a mismatch; the second is a
disagreement, source 0x03. A fragment of a member is kept when its crossing is 0 to MG_DEADLINE − 1 old and new, else source 0x05, late and early ones counted. An EVENT on the followed port queues an accept where the Copyist acts for the partition, and an active manager out of ORPHAN passes it down. The merge closes with the ports' bits, absent in place of a missing one, ORed under tmask in mode 0, or written to the table with a token in mode 1 (its words t5 to t7 free). A change means
following the primary, or the active standby, as R298 says; a primary is active with a quorum. The standby takes over at a boundary; a leaderless device is in ORPHAN. For an active standby losing its followers see log entry 45. -/
def Obligations.SkovubTree : Prop := ∀ (k : PortId) (s : State),
  let q := port s k
  let page := Reg.skovubPage k
  let page0 := Reg.skovubPage 0
  let ps := Reg.SK_PSTAT k
  let msg := fun (ty : Nat) (hdr : Word) (b : List Word) => (⟨ty, hdr, b, 0, 1⟩ : SkMsg)
  let portIs := fun (s' : State) (v : Port) => TblAt (fun _ => {}) s.ports s'.ports k v
  let stays := fun (c : Instr) => exec c s = .next s
  let pp := primaryPort s
  let sp := standbyPort s
  let active := fun (s : State) => flag s Reg.SK_ROLE 4
  let roles := fun (s' : State) =>
    let sb := enField s page0 Reg.SK_UPLINK 30 && !portDown s' sp && flag s' (Reg.SK_PSTAT sp) 26
    follows s' = (if enField s page0 Reg.SK_UPLINK 31 = false ∨ role s = 0 then 0 else if follows s = 2 ∧ sb then 2 else if portDown s' pp = false then 1
      else if sb then 2 else 0)
    ∧ (role s < 2 → active s' = active s) ∧ (role s = 2 → active s' = decide (quorum s ≤ followers s' 1))
    ∧ (role s = 3 → active s = false → active s' = false) ∧ (role s = 3 → active s = true → quorum s ≤ followers s' 2 → active s' = true)
    ∧ (follows s' ≠ follows s ∨ active s' ≠ active s → flag s' (Reg.PG_IRQ_RAW page0) 2 = true)
  let leaderless := fun (s' : State) => role s = 1 ∧ follows s' = 0 ∨ role s = 2 ∧ active s' = false
  let modeIs := fun (s' : State) (m by_ : Nat) => mode s' = m ∧ reg s' Reg.MODE_HIST = word ((fld s Reg.MODE_HIST 31 16 + 1) % 65536 * 65536 + mode s * 256 + by_)
    ∧ flag s' (Reg.PG_IRQ_RAW Reg.mgtPage) 0 = true
  let modeRegs := [Reg.SK_ROLE, Reg.MODE_CUR, Reg.MODE_HIST, Reg.PG_IRQ_RAW Reg.mgtPage, Reg.PG_IRQ_RAW page0]
  (portState s k = 2 → s.phase.count % 256 = 0 → Gives (.heartbeatSend k) s (fun s' => s' = { s with ports := s'.ports }
    ∧ let lost := role s = 1 ∧ enField s page0 Reg.SK_UPLINK 31 = true ∧ portDown s pp = true
      portIs s' { q with q0 := q.q0 ++ [msg 1 (spsNow s) [word (role s * 2 ^ 24 + (if lost then 2 ^ 19 else 0) + follows s * 2 ^ 17
        + (active s).toNat * 2 ^ 16 + lat s), 0]] }))
  ∧ (portState s k ≠ 2 ∨ s.phase.count % 256 ≠ 0 → stays (.heartbeatSend k))
  ∧ (∀ (w : Word) (h : HeartbeatBody), (portState s k ≠ 2 → stays (.heartbeat k w h)) ∧ (portState s k = 2 → Gives (.heartbeat k w h) s (fun s' =>
    Raises { s with ports := s'.ports, mgt := s'.mgt } s' [ps, Reg.SK_PEER_LAT k, Reg.SK_ROLE, Reg.PG_IRQ_RAW page, Reg.PG_IRQ_RAW page0]
    ∧ portIs s' { q with hbSince := s.phase.count, hbMissed := 0 } ∧ portDown s' k = false ∧ (portDown s k = true → flag s' (Reg.PG_IRQ_RAW page) 1 = true)
    ∧ fld s' ps 28 27 = h.role ∧ flag s' ps 26 = h.active ∧ fld s' ps 25 24 = h.follows ∧ flag s' ps 23 = h.plost ∧ portState s' k = 2
    ∧ fld s' (Reg.SK_PEER_LAT k) 14 0 = h.lat.toNat % 32768 ∧ roles s')))
  ∧ (portOn s k = false ∨ s.phase.count < q.hbSince + 256 → stays (.heartbeatMissed k))
  ∧ (portOn s k = true → q.hbSince + 256 ≤ s.phase.count →
    let counted := fun (s' : State) => reg s' (Reg.SK_HB_MISS k) = reg s (Reg.SK_HB_MISS k) + 1
    let q' := { q with hbSince := q.hbSince + 256, hbMissed := q.hbMissed + 1 }
    (q.hbMissed < 2 ∨ portDown s k = true → Gives (.heartbeatMissed k) s (fun s' => counted s' ∧ OnlyRegs { s with ports := s'.ports } s' [Reg.SK_HB_MISS k] ∧ portIs s' q'))
    ∧ (2 ≤ q.hbMissed → portDown s k = false → Gives (.heartbeatMissed k) s (fun s' => counted s' ∧ portDown s' k = true
      ∧ portState s' k = (if portLanesUp s k then 1 else 3) ∧ flag s' (Reg.PG_IRQ_RAW page) 0 = true ∧ flag s' (Reg.PG_ERR_STICKY page) 2 = true
      ∧ (port s' k).replay = [] ∧ (port s' k).resend = [] ∧ (port s' k).remotes = [] ∧ (port s' k).hbMissed = q.hbMissed + 1
      ∧ reg s' (Reg.SK_REG_TMO k) = reg s (Reg.SK_REG_TMO k) + word q.remotes.length ∧ roles s'
      ∧ (q.remotes = [] → Noted { s with ports := s'.ports, mgt := s'.mgt } s' [Reg.SK_HB_MISS k, ps, Reg.SK_ROLE] page 2
        ∧ ∀ j, j ≠ k.val → port s' j = port s j))))
  ∧ (∀ x : BitVec 64, (portState s k ≠ 2 ∨ s.phase.started = false → stays (.phaseCheck k x)) ∧ (portState s k = 2 → s.phase.started = true →
    let age := ageOf s 48 (bits x 63 16) (bits x 15 0)
    let hit := bits x 15 0 = 0 ∧ (oneWay s k : Int) - 1 ≤ age ∧ age ≤ oneWay s k + 1
    (hit → Gives (.phaseCheck k x) s (fun s' => s' = { s with ports := s'.ports } ∧ portIs s' { q with phaseMiss := 0, disagree := false }))
    ∧ (¬ hit → q.phaseMiss ≠ 1 → Gives (.phaseCheck k x) s (fun s' => s' = { s with ports := s'.ports } ∧ portIs s' { q with phaseMiss := q.phaseMiss + 1 }))
    ∧ (¬ hit → q.phaseMiss = 1 → Gives (.phaseCheck k x) s (fun s' => Noted { s with ports := s'.ports } s' [] page 3
      ∧ portIs s' { q with phaseMiss := 2, disagree := true }))))
  ∧ (∀ (w : Word) (dr : DR), (portState s k ≠ 2 → stays (.fragment k w dr) ∧ stays (.event k w dr)) ∧ (portState s k = 2 →
    let age := ageOf s 16 (bits w 31 16) (bits w 15 0)
    let b := ((s.phase.count : Int) - age).toNat
    let m := fld s (Reg.SK_PMERGE k) 19 16
    let takes := flag s (Reg.SK_PMERGE k) 31 = true ∧ 2 ≤ role s ∧ flag s (Reg.PG_CTL page0) 0 = true ∧ flag s (Reg.MG_CTL m) 31 = true
    let inTime := 0 ≤ age ∧ age < fld s (Reg.MG_DEADLINE m) 14 0
    let is := fun (P : State → Prop) => Gives (.fragment k w dr) s (fun s' => reg s' (Reg.SK_FRAG_RX k) = reg s (Reg.SK_FRAG_RX k) + 1 ∧ P s')
    (¬ takes → is (fun s' => OnlyRegs s s' [Reg.SK_FRAG_RX k]))
    ∧ (takes → ¬ inTime → is (fun s' => Noted s s' [Reg.SK_FRAG_RX k, Reg.SK_FRAG_LATE k] page 5 ∧ reg s' (Reg.SK_FRAG_LATE k) = reg s (Reg.SK_FRAG_LATE k) + 1))
    ∧ (takes → inTime → (∃ f ∈ q.frags, f.1 = b) → is (fun s' => Noted s s' [Reg.SK_FRAG_RX k] page 5))
    ∧ (takes → inTime → (∀ f ∈ q.frags, f.1 ≠ b) → is (fun s' => OnlyRegs { s with ports := s'.ports } s' [Reg.SK_FRAG_RX k]
      ∧ portIs s' { q with frags := q.frags ++ [(b, dr)] }))
    ∧ (uplinkPort s ≠ some k.val ∨ age < 0 ∨ (s.phase.count : Int) < age → stays (.event k w dr))
    ∧ (uplinkPort s = some k.val → 0 ≤ age → age ≤ s.phase.count →
      let p := fld s Reg.SK_UPLINK 3 0
      let a : Accept := { p := p, b := b, ps := psOfSps s w, bits := BitVec.ofNat 16 (drBits dr), qs := drQs dr, defaulted := bit dr.d1 25, seq := dr.d3, epoch := partEpoch s p }
      let open_ := enField s Reg.copyistPage (Reg.CP_PCTL p) 31 = true ∧ (partState s p = 3 ∧ (mode s = 4 ∨ mode s = 5) ∨ partState s p = 4)
      let unheld := fun (l : List Accept) => l.map (fun x => { x with held := false })
      Gives (.event k w dr) s (fun s' =>
        (∀ j, port s' j = if 2 ≤ role s ∧ active s = true ∧ mode s ≠ 6 ∧ j ∈ memberPorts s p ∧ portState s j = 2 then { port s j with q0 := (port s j).q0 ++ [msg 4 w [dr.d0, dr.d1, dr.d2, dr.d3]] } else port s j)
        ∧ (¬ open_ → s' = { s with ports := s'.ports })
        ∧ (open_ → s.accepts.length < 1024 → s' = { s with ports := s'.ports, accepts := s'.accepts } ∧ unheld s'.accepts = unheld (s.accepts ++ [a]))
        ∧ (open_ → 1024 ≤ s.accepts.length → Noted { s with ports := s'.ports } s' [Reg.CP_OVERFLOW] Reg.copyistPage 2
          ∧ reg s' Reg.CP_OVERFLOW = reg s Reg.CP_OVERFLOW + 1)))))
  ∧ (∀ p : PartId,
    let due := 2 ≤ role s ∧ flag s (Reg.PG_CTL page0) 0 = true ∧ flag s (Reg.MG_CTL p) 31 = true ∧ fld s (Reg.MG_DEADLINE p) 14 0 ≤ s.phase.count
    let b := s.phase.count - fld s (Reg.MG_DEADLINE p) 14 0
    (¬ due ∨ findDecision s p b = none ∨ (∃ d, findDecision s p b = some d ∧ d.merged = true) → stays (.mergeClose p))
    ∧ (∀ d, due → findDecision s p b = some d → d.merged = false →
      let l := memberPorts s p
      let frag := fun (j : Nat) => ((port s j).frags.find? (fun f => f.1 = b)).filter (fun _ => !(port s j).disagree)
      let value := fun (j : Nat) => match frag j with | some (_, r) => drBits r | none => fld s (Reg.SK_PMERGE j) 15 0
      let missing := (l.filter (fun j => (frag j).isNone)).length
      let qs := (∃ j ∈ l, ∃ f, frag j = some f ∧ drQs f.2 = true) ∨ flag s (Reg.MG_CTL p) 29 = true ∧ missing ≠ 0
      let ored := BitVec.ofNat 16 (l.foldl (fun v j => v ||| value j) 0 &&& fld s (Reg.MG_TMASK p) 15 0)
      let closed := fun (more : BitVec 16) (s' : State) => fld s' (Reg.MG_STAT p) 5 0 = missing
        ∧ s'.decisions = s.decisions.map (fun e => if e.p = p.val ∧ e.b = b then
            { e with merged := true, missing := missing, qs := e.qs || decide qs, bits := e.bits ||| (if e.closed then 0 else more) } else e)
        ∧ ∀ j, port s' j = if j ∈ l then { port s j with frags := (port s j).frags.filter (fun f => b < f.1) } else port s j
      (flag s (Reg.MG_CTL p) 30 = false → Gives (.mergeClose p) s (fun s' => closed ored s'
        ∧ OnlyRegs { s with decisions := s'.decisions, ports := s'.ports } s' [Reg.MG_STAT p]))
      ∧ (flag s (Reg.MG_CTL p) 30 = true →
        let tbl := fld s (Reg.MG_TBASE p) 31 7 * 128 + d.ps.index % 64 * 128
        let tpl := fld s (Reg.MG_CTL p) 15 8
        let node := fld s (Reg.MG_CTL p) 21 16
        0x1C000000 ≤ tbl → tbl < 0x1E000000 → Gives (.mergeClose p) s (fun s' => closed 0 s'
          ∧ StoredAt s s' (tbl - 0x10000000) ((List.range 32).flatMap (fun j => if j ∈ l then leBytes 4 (value j + match frag j with
              | some (_, r) => 2 ^ 16 + (drQs r).toNat * 2 ^ 17 + (bit r.d1 25).toNat * 2 ^ 18 | none => 0) else leBytes 4 0))
          ∧ ∀ x, s.ductus.insts.find? (fun x => x.tpl = tpl && x.b = b && x.pid = p.val) = some x → findInst s x.num = some x → instLate s x = false →
            1 ≤ nodeInputs s tpl node → node < x.nodes.length → (∀ t ∈ x.tokens, ¬ (t.node = node ∧ t.slot = 0)) → x.nodes.getD node .done = .waiting → tokensUsed s < 131072 →
            ∃ u v w, s'.ductus.insts = s.ductus.insts.map (fun y => if y.num = x.num then { y with tokens := y.tokens ++ [⟨node, 0, tokenWords tpl node 0 0x3F true (spsOf x.ps)
              [word ((l.map (fun j => if (frag j).isSome then 2 ^ j else 0)).sum), word missing, word tbl, u, v, w]⟩] } else y)))))
  ∧ (let takes := role s = 3 ∧ active s = false ∧ s.phase.now.index = 0 ∧ portDown s pp = true ∧ 3 ≤ s.mgt.quorumRuns
    (takes → Gives .standbyTakeover s (fun s' => Raises { s with mgt := { s.mgt with sbFollowed := false } } s' [Reg.SK_ROLE, Reg.PG_IRQ_RAW page0] ∧ active s' = true
      ∧ follows s' = follows s ∧ flag s' (Reg.PG_IRQ_RAW page0) 2 = true))
    ∧ (¬ takes → stays .standbyTakeover))
  ∧ (role s = 3 → exec .skHandback s = .next { s with mgt := { s.mgt with handback := true } }) ∧ (role s ≠ 3 → stays .skHandback)
  ∧ Gives .enterOrphan s (fun s' => roles s' ∧ Raises { s with mgt := s'.mgt } s' modeRegs
    ∧ (mode s = 4 → leaderless s' → fatal s = false → modeIs s' 6 2) ∧ (¬ (mode s = 4 ∧ leaderless s' ∧ fatal s = false) → mode s' = mode s))
  ∧ Gives .leaveOrphan s (fun s' => roles s' ∧ Raises { s with mgt := s'.mgt } s' modeRegs
    ∧ (mode s = 6 → ¬ leaderless s' → s.phase.now.index = 0 → fatal s = false → modeIs s' 4 3)
    ∧ (¬ (mode s = 6 ∧ ¬ leaderless s' ∧ s.phase.now.index = 0 ∧ fatal s = false) → mode s' = mode s))

/-- R289, R295, R296, R300, R393. A host read of window k sends a REG_REQ, or a BULK read of one word with space 1, under the next tag and waits; where the peer is down, offsets below 0x40 show the REMOTE header and others read 0xFFFFFFFF at once; a device that is no manager answers 0. A write sends a REG_REQ for each word, or BULK messages of up to 56 words, and nothing where the peer is down. A REG_REQ
from a peer is performed as MID 0xA0 + port with the partition authority's rights and answered with REG_RSP; one for a window of this device goes on to that window. BULK writes, or reads and answers, BAR4 words. A REG_RSP or BULK response of a waiting tag gives its data to the host, the thread, the asking peer or the polled ROOT words; others do nothing. A timeout gives 0xFFFFFFFF, counts, source 0x04.
FOLIO_REMOTE_POLL asks every UP member for four ROOT words. A write is answered with REG_RSP too; byte enables merge, and go on in a REG_REQ (log entries 75, 188). -/
def Obligations.RemoteRequests : Prop := ∀ (k : PortId) (s : State),
  let q := port s k
  let page := Reg.skovubPage k
  let msgs := fun (ty : Nat) (hdr : Word) (b : List Word) => let n := if ty = 7 then cdiv (8 + 4 * b.length) 60 else 1
    (List.range n).map (fun i => (⟨ty, hdr, b, i, n⟩ : SkMsg))
  let queued := fun (b s' : State) (j : Nat) (l : List SkMsg) (p : Port) => s' = { b with ports := s'.ports } ∧ TblAt (fun _ => {}) b.ports s'.ports j { p with q1 := p.q1 ++ l }
  let stays := fun (c : Instr) => exec c s = .next s
  let req := fun (write : Bool) (be sl off : Nat) (v : Word) => [word (write.toNat * 2 ^ 24 + be * 2 ^ 16), word (sl % 64 * 2 ^ 26 + off), v]
  let blk := fun (write rsp : Bool) (off n : Nat) (l : List Word) => word ((write.toNat + 2 * rsp.toNat) * 2 ^ 24 + n * 2 ^ 16) :: word off :: l
  let asks := fun (j o : Nat) => let hdr := word (port s j).nextTag
    let sl := fld s (Reg.RM_WBASE j) 7 0
    if flag s (Reg.RM_WBASE j) 31 then msgs 7 hdr (blk false false (sl * 0x100000 + o) 1 []) else msgs 5 hdr (req false 0xF sl o 0)
  let tells := fun (be j o : Nat) (data : List Word) => let sl := fld s (Reg.RM_WBASE j) 7 0
    if flag s (Reg.RM_WBASE j) 31 then (List.range (cdiv data.length 56)).flatMap (fun i => let l := (data.drop (56 * i)).take 56
      msgs 7 (word ((port s j).nextTag + i)) (blk true false (sl * 0x100000 + o + 224 * i) l.length l))
    else (List.range data.length).flatMap (fun i => msgs 5 (word ((port s j).nextTag + i)) (req true be sl (o + 4 * i) (data.getD i 0)))
  let tagsOf := fun (j : Nat) (data : List Word) => if flag s (Reg.RM_WBASE j) 31 then cdiv data.length 56 else data.length
  let downWord := fun (j o : Nat) => if 0x40 ≤ o then 0xFFFFFFFF else if o = 0 then word (0x0070 * 65536 + j * 256 + 1) else if o = 4 then 0x10000
    else if o = 0x10 then (8 : Word) else 0
  let okBody := fun (v : Word) => [word (stOk.toNat * 2 ^ 24), v]
  (∀ off : BitVec 20, let o := off.toNat / 4 * 4
    (role s < 2 → exec (.remoteWindowRead k off) s = .next { s with resp := [0] })
    ∧ (2 ≤ role s → portDown s k = true → exec (.remoteWindowRead k off) s = .next { s with resp := [(downWord k o).toNat] })
    ∧ (2 ≤ role s → portDown s k = false → Gives (.remoteWindowRead k off) s (fun s' =>
      queued s s' k (asks k o) { q with nextTag := (q.nextTag + 1) % 2 ^ 32, remotes := q.remotes ++ [{ tag := q.nextTag }] }))
    ∧ ∀ data : List Word,
      (role s < 2 ∨ portDown s k = true ∨ data = [] → stays (.remoteWindowWrite k off data))
      ∧ (2 ≤ role s → portDown s k = false → data ≠ [] → Gives (.remoteWindowWrite k off data) s (fun s' =>
        queued s s' k (tells 0xF k o data) { q with nextTag := (q.nextTag + tagsOf k data) % 2 ^ 32 })))
  ∧ (portState s k ≠ 2 → ∀ (t : Word) (w r : Bool) (be : BitVec 4) (sl : BitVec 6) (off : BitVec 26) (bo : BitVec 28) (v : Word) (l : List Word) (n : Nat) (st : Byte),
      stays (.regReq k t w be sl off v) ∧ stays (.bulk k t w r bo l n) ∧ stays (.regRsp k t st v))
  ∧ (portState s k = 2 → ∀ (t : Word) (be : BitVec 4) (sl : BitVec 6) (off : BitVec 26) (v : Word),
    let a := sl.toNat * 0x100000 + off.toNat / 4 * 4
    let here := a < 0x1000000 ∨ 0x3000000 ≤ a ∧ a < 0x4000000
    let answered := fun (w : Bool) (b : State) (v' : Word) => Gives (.regReq k t w be sl off v) s (fun s' => queued b s' k (msgs 6 t (okBody v')) (port b k))
    enabledBytes s a 0xF v = v
    ∧ (here → answered false (readReg s a).2 (readReg s a).1 ∧ answered true (writeAs (0xA0 + k) true a (enabledBytes s a be v) s) 0)
    ∧ (0x4000000 ≤ a → answered false s 0 ∧ answered true s 0)
    ∧ (∀ j : PortId, a / 0x100000 = 16 + j.val →
      let o := a % 0x100000
      (role s < 2 → answered false s 0 ∧ answered true s 0)
      ∧ (2 ≤ role s → portDown s j = true → answered false s (downWord j o) ∧ answered true s 0)
      ∧ (2 ≤ role s → portDown s j = false →
        let below := { port s j with nextTag := ((port s j).nextTag + 1) % 2 ^ 32 }
        Gives (.regReq k t false be sl off v) s (fun s' => queued s s' j (asks j o)
          { below with remotes := below.remotes ++ [{ tag := (port s j).nextTag, back := some (k.val, t) }] })
        ∧ Gives (.regReq k t true be sl off v) s (fun s' => s' = { s with ports := s'.ports } ∧ ∀ i,
          let p := if i = j.val then { below with q1 := below.q1 ++ tells be.toNat j o [v] } else port s i
          port s' i = if i = k.val then { p with q1 := p.q1 ++ msgs 6 t (okBody 0) } else p))))
  ∧ (portState s k = 2 → ∀ (t : Word) (off : BitVec 28) (l : List Word) (n : Nat),
    exec (.bulk k t true false off l n) s = .next ((l.take n).zipIdx.foldl (fun s e => bar4Write (0xA0 + k) (off + BitVec.ofNat 28 (4 * e.2)) e.1 s) s)
    ∧ let r := bulkRead (0xA0 + k) off.toNat n s
      Gives (.bulk k t false false off l n) s (fun s' => queued r.2 s' k (msgs 7 t (blk false true off.toNat n r.1)) (port r.2 k)))
  ∧ (∀ (t : Word) (r : RemoteReq), portState s k = 2 → q.remotes.find? (fun r => r.tag = t.toNat) = some r →
    let left := { q with remotes := q.remotes.filter (fun r => r.tag ≠ t.toNat) }
    let done := fun (s' : State) => TblAt (fun _ => {}) s.ports s'.ports k left
    ∀ (st : Byte) (v : Word) (l : List Word), l.head? = some v → ∀ c ∈ [Instr.regRsp k t st v, .bulk k t false true 0 l l.length],
      (r.back = none → r.poll = none → r.reader = .host → Gives c s (fun s' => done s' ∧ s' = { s with ports := s'.ports, resp := s'.resp }
        ∧ s'.resp = if c = .regRsp k t st v then [v.toNat] else l.map BitVec.toNat))
      ∧ (r.back = none → r.poll = none → r.reader = .board → Gives c s (fun s' => done s' ∧ s' = { s with ports := s'.ports, resp := s'.resp }
        ∧ s'.resp.take 5 = 4 :: (beBytes 4 v.toNat).map BitVec.toNat))
      ∧ (∀ u x d, r.back = none → r.poll = none → r.reader = .thread u x → u < 1028 → (thread s u).state = .blocked → (thread s u).waitPort = some (x, d) →
        (thread s u).pfx = .none → (thread s u).stepping = false → Gives c s (fun s' => done s' ∧ Woken s s' u d (.plain v) ∧ Beside { s with ports := s'.ports } s' u))
      ∧ (∀ (j : PortId) (tag : Word), r.back = some (j.val, tag) → Gives c s (fun s' => s' = { s with ports := s'.ports } ∧ ∀ i, let p := if i = k.val then left else port s i
        port s' i = if i = j.val then { p with q1 := p.q1 ++ msgs 6 tag [word ((if c = .regRsp k t st v then st else stOk).toNat * 2 ^ 24), v] } else p))
      ∧ (∀ i < 4, r.back = none → r.poll = some i → Gives c s (fun s' => (port s' k).polled[i]? = some v ∧ (port s' k).remotes = left.remotes
        ∧ (i < 2 → Raises { s with ports := s'.ports } s' [])
        ∧ (i = 2 → Raises { s with ports := s'.ports } s' [Reg.PG_ERR_STICKY 0] ∧ reg s' (Reg.PG_ERR_STICKY 0) = reg s (Reg.PG_ERR_STICKY 0) ||| (v &&& 0xF))
        ∧ (i = 3 → bit v 31 = true → flag s (Reg.PG_FERR_SRC 0) 31 = false → flag s' (Reg.PG_FERR_SRC 0) 31 = true ∧ fld s' (Reg.PG_FERR_SRC 0) 7 0 = windowIndex s k))))
  ∧ (∀ t : Word, portState s k = 2 → q.remotes.find? (fun r => r.tag = t.toNat) = none → ∀ (st : Byte) (v : Word), stays (.regRsp k t st v))
  ∧ (q.remotes = [] → stays (.remoteReadTimeout k))
  ∧ (∀ r rest, q.remotes = r :: rest →
    let counted := fun (s' : State) => flag s' (Reg.PG_ERR_STICKY page) 4 = true ∧ reg s' (Reg.SK_REG_TMO k) = reg s (Reg.SK_REG_TMO k) + 1
    let lost := fun (b s' : State) => Noted b s' [Reg.SK_REG_TMO k] page 4 ∧ counted s'
    let left := { q with remotes := rest }
    (r.back = none → r.poll = none → r.reader = .host → Gives (.remoteReadTimeout k) s (fun s' => lost { s with ports := s'.ports, resp := [0xFFFFFFFF] } s'
      ∧ TblAt (fun _ => {}) s.ports s'.ports k left))
    ∧ (∀ u x d, r.back = none → r.poll = none → r.reader = .thread u x → u < 1028 → (thread s u).state = .blocked → (thread s u).waitPort = some (x, d) →
        (thread s u).pfx = .none → (thread s u).stepping = false → Gives (.remoteReadTimeout k) s (fun s' => counted s' ∧ port s' k = left ∧ Woken s s' u d (.plain 0xFFFFFFFF)))
    ∧ (r.back = none → r.poll ≠ none → Gives (.remoteReadTimeout k) s (fun s' => lost { s with ports := s'.ports } s' ∧ TblAt (fun _ => {}) s.ports s'.ports k left))
    ∧ (∀ (j : PortId) (tag : Word), r.back = some (j.val, tag) → Gives (.remoteReadTimeout k) s (fun s' => lost { s with ports := s'.ports } s' ∧ ∀ i,
      let p := if i = k.val then left else port s i
      port s' i = if i = j.val then { p with q1 := p.q1 ++ msgs 6 tag [word (stTimeout.toNat * 2 ^ 24), 0xFFFFFFFF] } else p)))
  ∧ (role s < 2 → stays .folioRemotePoll)
  ∧ (2 ≤ role s → Gives .folioRemotePoll s (fun s' => s' = { s with ports := s'.ports } ∧ ∀ j, let p := port s j
    let tag := fun (i : Nat) => if i = 0 then p.nextTag else (p.nextTag + i) % 2 ^ 32
    port s' j = if j < 32 ∧ flag s (Reg.SK_PMERGE j) 31 = true ∧ portState s j = 2 then
      { p with nextTag := tag 4, remotes := p.remotes ++ (List.range 4).map (fun i => { tag := tag i, poll := some i }),
               q1 := p.q1 ++ [(0, 0x10), (1, 0x1C), (2, 0x20), (3, 0x28)].flatMap (fun e => msgs 5 (word (tag e.1)) (req false 0xF 0 e.2 0)) }
      else p))

/-- R301–R320. A dip begins below 0.700 V, ends with a window to 64 crossings after it, a count and a record, and is a supply reset below 0.660 V; at 1 ms it counts and records once. A record due joins the queue of 64, or is lost: JOURNAL_LOST and source 0x00. JOURNAL_WRITE appends the 32 bytes of R310 with the next number and chain value, at a new sector erasing the oldest. Power-on clears all but the one-time memory and
the journal, resumes its number and chain (a torn newer record keeps its place, its sector erased) and loads a sealed SIG_CFG. CHECKPOINT, due once 2^ckpt orbits of the device set have passed since the last, power-on or a write that changes ckpt (log entry 189), records the partitions whose CROSSINGS changed. A tally reads as 20 digits, LIVE as a difference. A session opens with a nonzero code; SEAL and UNSEAL give the statuses of R316 in that order, and SIG_CFG is refused while sealed. A reading is built as R317 and signed once its record is written. The auditor's reads end with the PEC. The unseal
strap, the signature and the bytes of a record or reading that is not there are free (log entries 48 and 49); a lost record takes no number (46); a memory of another size is blank (47). -/
def Obligations.SignetIsland : Prop := ∀ s : State,
  let g := s.signet
  let page := Reg.signetPage
  let stat := Reg.SIG_STAT
  let sealedNow := g.breaks < g.seals.length
  let ready := flag s stat 28 = true
  let stays := fun (c : Instr) => exec c s = .next s
  let now := psEvent s
  let with_ := fun (x : Signet) => { s with signet := x }
  let count := fun (x : Signet) (i : Nat) => (tally { s with signet := x } 16 i 1).signet
  let logs := fun (x : Signet) (ty pid : Nat) (data : List Byte) (s' : State) =>
    if ready ∧ x.queue.length < 64 then s' = with_ { x with queue := x.queue ++ [(ty, pid, now, data)] }
    else Noted (with_ (count x 5)) s' [] page 0
  let cap := g.journalBytes / 32
  let erased := if g.place % 128 = 0 ∧ cap ≤ g.place then g.journal.filter (fun r => decide (g.place + 128 ≤ r.1 + cap)) else g.journal
  let dipData := fun (n mv : Nat) => beBytes 4 (min (2 ^ 32 - 1) n) ++ beBytes 2 mv
  (∀ mv : Nat, (mv < 700 → g.dipFrom = none → let d := if s.phase.started = true ∧ s.phase.counting = false then s.phase.count + 1 else s.phase.count
      exec (.sigDipBegin mv) s = .next (with_ { g with dipFrom := some d, dipLong := false }))
    ∧ (700 ≤ mv ∨ g.dipFrom ≠ none → stays (.sigDipBegin mv)))
  ∧ (∀ n mv : Nat,
    (g.dipFrom = none ∨ mv < 660 → stays (.sigDipEnd n mv))
    ∧ (∀ b, g.dipFrom = some b → 660 ≤ mv → Gives (.sigDipEnd n mv) s (logs { count g 2 with dipFrom := none, windows := if s.phase.started then g.windows ++ [(b, s.phase.count + 64)] else g.windows } 0x07 0xF (dipData n mv)))
    ∧ (g.dipFrom ≠ none → g.dipLong = false → Gives (.sigDipLong n mv) s (logs { count g 3 with dipLong := true } 0x08 0xF (dipData n mv)))
    ∧ (g.dipFrom = none ∨ g.dipLong = true → stays (.sigDipLong n mv)))
  ∧ (g.queue = [] → ∀ ok : Bool, stays (.journalWrite ok))
  ∧ (∀ (ty pid : Nat) (x : PS) (data : List Byte) (rest : List (Nat × Nat × PS × List Byte)), g.queue = (ty, pid, x, data) :: rest →
    let head := [byteOf ty 0, byteOf (16 * pid) 0] ++ beBytes 4 g.head ++ beBytes 8 (psNat x) ++ data
    let c := BitVec.ofNat 64 (beNat ((sha256 (beBytes 8 g.chain.toNat ++ head)).take 8))
    let body := head ++ beBytes 8 c.toNat
    let told := fun (v : Option (BitVec 64)) => if ty = 0x0C then g.making.map (fun r => if r.num = beAt data 0 4 then { r with written := some v } else r) else g.making
    let g1 := { g with queue := rest, journal := (g.place, g.head, body ++ beBytes 4 (crc32 body).toNat) :: erased }
    exec (.journalWrite true) s = .next (with_ { g1 with place := g.place + 1, head := (g.head + 1) % 2 ^ 32, chain := c, making := told (some c) })
    ∧ Gives (.journalWrite false) s (fun s' => Noted (with_ { count g 5 with queue := rest, journal := erased, making := told none }) s' [] page 0))
  ∧ (∀ (size : Option Nat) (torn : Bool),
    let usable := ∃ n, size = some n ∧ 0x10000 ≤ n ∧ n ≤ 0x80000000
    Gives (.signetPowerOn size torn) s (fun s' => let g' := s'.signet
      g'.seals = g.seals ∧ g'.breaks = g.breaks ∧ g'.session = none ∧ g'.windows = [] ∧ g'.dipFrom = none ∧ g'.making = []
      ∧ reg s' Reg.SIG_CFG = (match g.seals with | r :: _ => if sealedNow then r.1 else 0x5A | [] => 0x5A)
      ∧ (usable → s' = { s with signet := g', regs := s'.regs } ∧ (∀ a, a / 0x1000 ≠ page / 0x1000 → reg s' a = reg s a)
        ∧ g'.tallies = [] ∧ flag s' stat 28 = true ∧ g'.queue = [(0x01, 0xF, now, [byteOf torn.toNat 0, 0, 0, 0, 0, 0])] ∧ g'.ckptAt = 0)
      ∧ (usable → size = some g.journalBytes → g'.place = g.place + torn.toNat
        ∧ g'.journal = (if torn = true then erased else g.journal)
        ∧ ∀ r l, g'.journal = r :: l → g'.head = (r.2.1 + 1) % 2 ^ 32 ∧ g'.chain = BitVec.ofNat 64 (beAt r.2.2 20 8))
      ∧ (usable → size ≠ some g.journalBytes → g'.journal = [] ∧ g'.head = 0)
      ∧ (¬ usable → flag s' stat 28 = false ∧ g'.queue = [] ∧ flag s' (Reg.PG_ERR_STICKY page) 1 = true ∧ flag s' (Reg.PG_ERR_STICKY page) 0 = true
        ∧ ∀ k, Tbl.get (fun _ => 0) g'.tallies k = if k = 32 * 16 + 5 then 1 else 0)))
  ∧ (let n := fun (p : Nat) => Tbl.get (fun _ => 0) g.tallies (32 * p)
    let changed := fun (p : Nat) => decide (n p ≠ Tbl.get (fun _ => 0) g.lastCkpt p)
    let k := fld s Reg.SIG_CFG 23 20
    (k = 0 ∨ n 16 < g.ckptAt + 2 ^ k → stays .checkpointDue)
    ∧ (k ≠ 0 → g.ckptAt + 2 ^ k ≤ n 16 → ready → g.queue.length + 16 ≤ 64 → Gives .checkpointDue s (fun s' =>
      s' = with_ { g with queue := s'.signet.queue, lastCkpt := s'.signet.lastCkpt, ckptAt := n 16 }
      ∧ s'.signet.queue = g.queue ++ ((List.range 16).filter changed).map (fun p => (0x0B, p, now, beBytes 6 (packDec 12 (n p))))
      ∧ ∀ p < 16, Tbl.get (fun _ => 0) s'.signet.lastCkpt p = n p)))
  ∧ (let value := fun (set i : Nat) => let t := fun (i : Nat) => Tbl.get (fun _ => 0) g.tallies (32 * set + i)
      if set = 16 then (if i < 6 then t i else 0) else if i = 1 then t 0 - (t 2 + t 3 + t 4 + t 5 + t 6 + t 7) else if i < 17 then t i else 0
    let digit := fun (v i : Nat) => v / 10 ^ i % 10
    let spells := fun (v d0 d1 d2 : Nat) => d0 < 2 ^ 32 ∧ d1 < 2 ^ 32 ∧ d2 < 2 ^ 16 ∧ (∀ i < 8, d0 / 16 ^ i % 16 = digit v i ∧ d1 / 16 ^ i % 16 = digit v (i + 8))
      ∧ ∀ i < 4, d2 / 16 ^ i % 16 = digit v (i + 16)
    let a := fld s Reg.SIG_CFG 6 0
    let pec := fun (ptr : Byte) (data : List Byte) => crc8 ([byteOf (2 * a) 0, ptr, byteOf (2 * a + 1) 0] ++ data)
    let reads := fun (ptr : Byte) (data : List Byte) (s' : State) => s' = { s with resp := s'.resp, free := s'.free } ∧ s'.resp = (data ++ [pec ptr data]).map BitVec.toNat
    let records := if ready then g.journal else []
    let tail := match records.getLast? with | some r => r.2.1 | none => g.head
    (NoArm s page 4 → Gives .sigTallyRead s (fun s' => OnlyRegs { s with resp := s'.resp } s' [Reg.SIG_TALLY_D0, Reg.SIG_TALLY_D1, Reg.SIG_TALLY_D2]
      ∧ s'.resp = [(reg s' Reg.SIG_TALLY_D0).toNat]
      ∧ spells (value (if flag s Reg.SIG_SEL 8 then 16 else fld s Reg.SIG_SEL 15 12) (fld s Reg.SIG_SEL 4 0)) (reg s' Reg.SIG_TALLY_D0).toNat
        (reg s' Reg.SIG_TALLY_D1).toNat (reg s' Reg.SIG_TALLY_D2).toNat))
    ∧ Gives .audReadStat s (fun s' => ∃ w : Word, reads 0x00 (beBytes 4 w.toNat) s' ∧ bit w 31 = decide sealedNow ∧ bit w 30 = g.session.isSome
      ∧ bit w 28 = flag s stat 28 ∧ bit w 27 = dipOpen s ∧ bit w 26 = flag s stat 26 ∧ bits w 25 8 = 0 ∧ bits w 7 0 = fld s stat 7 0)
    ∧ (∀ sel i : Byte, (sel.toNat < 32 → i.toNat < 32 → exec (.audSelectTally sel i) s = .next (with_ { g with
        audSet := if bit sel 4 then 16 else sel.toNat, audIndex := i.toNat }))
      ∧ (32 ≤ sel.toNat ∨ 32 ≤ i.toNat → stays (.audSelectTally sel i)))
    ∧ (NoArm s page 4 → Gives .audReadTally s (fun s' => ∃ d0 d1 d2 : Nat, spells (value g.audSet g.audIndex) d0 d1 d2
      ∧ reads 0x02 (beBytes 4 d2 ++ beBytes 4 d1 ++ beBytes 4 d0) s'))
    ∧ (∀ n : Word, exec (.audSelectRecord n) s = .next (with_ { g with audRec := n.toNat }))
    ∧ (∀ r, records.find? (fun r => r.2.1 = g.audRec) = some r → Gives .audReadRecord s (reads 0x04 (stOk :: r.2.2)))
    ∧ (records.find? (fun r => r.2.1 = g.audRec) = none → Gives .audReadRecord s (fun s' => ∃ l, l.length = 32 ∧ reads 0x04 (stEmpty :: l) s'))
    ∧ Gives .audReadHead s (reads 0x05 (beBytes 4 g.head ++ beBytes 4 tail ++ beBytes 8 g.chain.toNat))
    ∧ Gives .audReadKey s (reads 0x06 (slice Config.publicKey 0 96))
    ∧ Gives .audReadId s (reads 0x07 (beBytes 4 (reg s Reg.DEVICE_ID).toNat ++ beBytes 8 Config.uniqueId.toNat))
    ∧ (∀ p : PartId, let r : Reading := { num := g.readings, who := 16, body := beBytes 8 (psNat now) ++ beBytes 4 g.readings ++ [byteOf p 0, 0, 0, 0]
          ++ ([0, 2, 3, 4, 5, 6, 7, 8, 9, 10, 11, 12, 13, 14, 15, 16].map (fun i => tallyBytes (value p i))).flatten }
      (∀ v : Nat, spells v (tallyWords v).1 (tallyWords v).2.1 (tallyWords v).2.2 ∧ tallyBytes v = beBytes 4 (tallyWords v).2.2 ++ beBytes 4 (tallyWords v).2.1 ++ beBytes 4 (tallyWords v).1)
      ∧ (ready → g.queue.length < 64 → let g1 := { g with queue := g.queue ++ [(0x0C, p.val, now, beBytes 4 g.readings ++ [0, 0])] }
        exec (.audStartReading p) s = .next (with_ { g1 with readings := (g.readings + 1) % 2 ^ 32, making := g.making ++ [r] }))
      ∧ (¬ ready ∨ 64 ≤ g.queue.length → Gives (.audStartReading p) s (fun s' => flag s' (Reg.PG_ERR_STICKY page) 0 = true ∧ s'.signet.queue = g.queue
        ∧ { r with written := some none } ∈ s'.signet.making)))
    ∧ (g.making.find? (fun r => r.written.isSome) = none → stays .signedReadingDone)
    ∧ (∀ r c, g.making.find? (fun r => r.written.isSome) = some r → r.written = some c → Gives .signedReadingDone s (fun s' =>
      s' = { s with free := s'.free, signet := { g with making := g.making.filter (fun x => x.num ≠ r.num), finished := s'.signet.finished } }
      ∧ ∃ x sig : List Byte, x.length = 8 ∧ sig.length = 96 ∧ (∀ v, c = some v → x = beBytes 8 v.toNat)
        ∧ TblAt (fun _ => []) g.finished s'.signet.finished r.who (r.body ++ x ++ sig)))
    ∧ ((∃ r ∈ g.making, r.who = 16) → Gives .audReadReading s (fun s' => ∃ l, l.length = 312 ∧ reads 0x09 (stBusy :: l) s'))
    ∧ ((∀ r ∈ g.making, r.who ≠ 16) → Tbl.get (fun _ => []) g.finished 16 ≠ [] →
      Gives .audReadReading s (reads 0x09 (stOk :: Tbl.get (fun _ => []) g.finished 16))))
  ∧ (∀ code : Word, (code ≠ 0 → exec (.sigSessionOpen code) s = .next (with_ { g with session := some code })) ∧ (code = 0 → stays (.sigSessionOpen code)))
  ∧ exec .sigSessionExpire s = .next (with_ { g with session := none })
  ∧ stays .sigCmdNop
  ∧ (let ends := fun (st : Byte) (s' : State) => fld s' stat 7 0 = st.toNat ∧ flag s' stat 28 = flag s stat 28
    let ans := fun (x : Signet) (st : Byte) (s' : State) => ends st s' ∧ OnlyRegs { s with signet := x, free := s'.free } s' [stat]
    let refused := fun (s' : State) => ends stRefused s' ∧ Noted s s' [stat] page 2
    let queued := fun (ty : Nat) (data : List Byte) (s' : State) =>
      (g.queue.length < 64 → s'.signet.tallies = g.tallies ∧ s'.signet.queue = g.queue ++ [(ty, 0xF, now, data)])
      ∧ (64 ≤ g.queue.length → s'.signet.queue = g.queue ∧ flag s' (Reg.PG_ERR_STICKY page) 0 = true)
    let changes := fun (s' : State) => ends stOk s' ∧ flag s' (Reg.PG_IRQ_RAW page) 1 = true
      ∧ Records { s with signet := s'.signet } s' [stat]
    (∀ op : Fin 16, (3 ≤ op.val → Gives (.sigCmdReserved op) s refused) ∧ (op.val < 3 → stays (.sigCmdReserved op)))
    ∧ (∀ x : BitVec 16,
      (g.session = none → Gives (.seal x) s (ans g stTimeout) ∧ Gives (.unseal x) s (ans g stTimeout))
      ∧ (∀ code, g.session = some code → code.setWidth 16 ≠ x → ∀ c ∈ [Instr.seal x, .unseal x], Gives c s (ans { g with session := none } stDenied))
      ∧ (∀ code, g.session = some code → code.setWidth 16 = x →
        (sealedNow → Gives (.seal x) s (ans g stAlready))
        ∧ (¬ sealedNow → ¬ ready → Gives (.seal x) s refused)
        ∧ (¬ sealedNow → ready → 65 ≤ g.seals.length → Gives (.seal x) s (ans g stFull))
        ∧ (¬ sealedNow → ready → g.seals.length < 65 → Gives (.seal x) s (fun s' => changes s' ∧ s'.signet.session = none ∧ s'.signet.breaks = g.breaks
          ∧ s'.signet.seals = (reg s Reg.SIG_CFG, code) :: g.seals
          ∧ queued 0x02 (beBytes 4 code.toNat ++ beBytes 2 (fld s Reg.SIG_CFG 23 20 * 4096 + fld s Reg.SIG_CFG 6 0)) s'))
        ∧ (¬ ready → Gives (.unseal x) s refused)
        ∧ (ready → ¬ sealedNow → Gives (.unseal x) s (ans g stAlready))
        ∧ (ready → sealedNow → g.breaks < 64 → Gives (.unseal x) s (fun s' => ans g stDenied s' ∨ changes s' ∧ s'.signet.seals = g.seals
          ∧ s'.signet.breaks = g.breaks + 1 ∧ queued 0x03 (beBytes 4 code.toNat ++ [byteOf (g.breaks + 1) 0, 0]) s'))
        ∧ (ready → sealedNow → 64 ≤ g.breaks → Gives (.unseal x) s (fun s' => ans g stDenied s' ∨ refused s'))))
    ∧ (∀ v : Word, (sealedNow → Gives (.sigCfgWrite v) s (fun s' => Noted s s' [] page 2 ∧ reg s' Reg.SIG_CFG = reg s Reg.SIG_CFG))
      ∧ (¬ sealedNow → Gives (.sigCfgWrite v) s (fun s' => OnlyRegs { s with signet := s'.signet } s' [Reg.SIG_CFG]
        ∧ s'.signet = (if bits v 23 20 = fld s Reg.SIG_CFG 23 20 then g else { g with ckptAt := Tbl.get (fun _ => 0) g.tallies 512 })
        ∧ reg s' Reg.SIG_CFG = (v &&& 0xF0007F) ||| (reg s Reg.SIG_CFG &&& ~~~0xF0007F)))))

/-- R321–R338. A report sets its sticky bit, is captured while nothing is, counts by severity, is the first error if CONTAIN or higher, and is logged as 32 bytes or sets log_lost. DEGRADE and FATAL set BL_SUMMARY and fire vector 0; FATAL also ends admission, clears ACC_OUT, stomps the frames being sent and stops ALIVE with its Signet record. A sticky clear that leaves 0 clears valid. SIGNET 0x03 and 0x04 leave a TALLY_ERR record. Five samples in a row with a RUNNING thread and no
retirement are a hang (a disabled page's begin anew), which opens an interval and fences: messages discarded, locks broken, slots dispatched again with REDISPATCHED. The oldest interval over closes, marking the slots whose deadline fell in one; a recovery out of time is FATAL. ALIVE toggles while it is on and not stopped; its period is 1 to 1,000. The watchdog starts with en, restarts at a kick, and its expiry stops ALIVE with code 2 and is FATAL. Injection is enabled by its key, not while sealed in
RUN, and arms checks only. A DMA error disables its ring. The Steward is not fenced (log entry 51); BL_WDT keeps its period at one out of range (53). -/
def Obligations.BlotterAndFaults : Prop := ∀ s : State,
  let bp := Reg.blotterPage
  let stays := fun (c : Instr) => exec c s = .next s
  let run := mode s = 4
  let sticky := fun (s' : State) (page i : Nat) => flag s' (Reg.PG_ERR_STICKY page) i = true
  let room := flag s Reg.SIG_STAT 28 = true ∧ s.signet.queue.length < 64
  let stopped := fun (code : Byte) (s' : State) => s'.blotter.aliveStopped = true
    ∧ (s.blotter.aliveStopped = false → Tbl.get (fun _ => 0) s'.signet.tallies 513 = min 99999999999999999999 (Tbl.get (fun _ => 0) s.signet.tallies 513 + 1)
      ∧ (room → s'.signet.queue = s.signet.queue ++ [(0x0A, 0xF, psEvent s, [code, 0, 0, 0, 0, 0])]))
    ∧ (s.blotter.aliveStopped = true → s'.signet = s.signet)
  let fatals := fun (code : Byte) (page src : Nat) (s' : State) => sticky s' page src ∧ fatal s' = true ∧ flag s' (Reg.PG_STAT page) 3 = true
    ∧ flag s' Reg.PH_STAT 3 = false ∧ s'.accOuts = [] ∧ stopped code s' ∧ Out.msix 0 ∈ s'.out.drop s.out.length ∧ s'.threads = s.threads
    ∧ ∀ n, (lane s' n).tx = (lane s n).tx.map (fun f => { f with stomp := true })
  let intervalAt := fun (n : Nat) (s' : State) => ∃ i ∈ s'.blotter.intervals, i.kind = 1 ∧ i.unit = n ∧ i.parts = BitVec.ofNat 16 (2 ^ nibPid s n) ∧ i.opened = s.phase.count ∧ i.done = none
  (∀ (page : Nat) (src : Byte) (access : Fin 16) (mid : Mid) (addr : BitVec 64),
    let c := Instr.errorReport page src access mid addr
    let sev := severity s page src.toNat
    let ferr := Reg.PG_FERR_SRC page
    let free := flag s ferr 31 = false
    let ps := psNat (psEvent s)
    let head := (reg s Reg.BL_LOG_HEAD).toNat
    let logs := 1 ≤ sev ∨ flag s Reg.BL_CTL 0 = true
    let fits := domainOn s 2 = true ∧ (head + 2 ^ 32 - (reg s Reg.BL_LOG_TAIL).toNat) % 2 ^ 32 < 1024
    let k := (pageAt (page / 0x1000)).getD (.root, 0)
    let body := leBytes 4 head ++ leBytes 2 (kindType k.1) ++ leBytes 1 (kindNumber k) ++ [src] ++ leBytes 1 sev ++ leBytes 1 access ++ [mid]
      ++ leBytes 1 (match pagePid s page with | some p => 0x80 + p | none => 0) ++ leBytes 8 addr.toNat ++ leBytes 8 ps
    (hasHeader page = false → stays c)
    ∧ (hasHeader page = true → Gives c s (fun s' => sticky s' page (min src.toNat 31)
      ∧ (sev = 0 → (∀ p : PartId, page = Reg.partPage p → src ≠ 2) → (page = Reg.signetPage → src ≠ 3 ∧ src ≠ 4) → Records s s' [] ∧ (flag s Reg.BL_CTL 0 = false → reg s' (Reg.BL_COUNT 0) = reg s (Reg.BL_COUNT 0) + 1)
        ∧ flag s' Reg.BL_FIRST_PAGE 31 = flag s Reg.BL_FIRST_PAGE 31)
      ∧ (free → flag s (Reg.PG_ERR_MODE page) 0 = true → reg s' ferr = word (2 ^ 31 + access * 65536 + mid.toNat * 256 + src.toNat)
        ∧ reg s' (Reg.PG_FERR_ADDR_LO page) = word addr.toNat ∧ reg s' (Reg.PG_FERR_ADDR_HI page) = word (addr.toNat / 2 ^ 32)
        ∧ reg s' (Reg.PG_FERR_PHASE_LO page) = word ps ∧ reg s' (Reg.PG_FERR_PHASE_HI page) = word (ps / 2 ^ 32))
      ∧ (free → flag s (Reg.PG_ERR_MODE page) 0 = false → reg s' ferr = word (2 ^ 31 + src.toNat) ∧ ∀ a ∈ [Reg.PG_FERR_ADDR_LO page,
          Reg.PG_FERR_ADDR_HI page, Reg.PG_FERR_PHASE_LO page, Reg.PG_FERR_PHASE_HI page], reg s' a = 0)
      ∧ (¬ free → reg s' ferr = reg s ferr)
      ∧ (1 ≤ sev → flag s Reg.BL_FIRST_PAGE 31 = false → reg s' Reg.BL_FIRST_PAGE = word (2 ^ 31 + sev * 65536 + page / 0x1000 % 0x4000)
        ∧ reg s' Reg.BL_FIRST_SRC = reg s' ferr ∧ reg s' Reg.BL_FIRST_PHASE_LO = word ps ∧ reg s' Reg.BL_FIRST_PHASE_HI = word (ps / 2 ^ 32))
      ∧ (1 ≤ sev → flag s Reg.BL_FIRST_PAGE 31 = true → reg s' Reg.BL_FIRST_PAGE = reg s Reg.BL_FIRST_PAGE)
      ∧ (logs → fits → ∀ i < 32, kept s' (0xFFF8000 + 32 * (head % 1024) + i) = (body ++ leBytes 4 (crc32c body).toNat).getD i 0)
      ∧ (logs → ¬ fits → flag s' Reg.BL_SUMMARY 28 = true ∧ sticky s' bp 7)
      ∧ (sev = 2 → flag s' Reg.BL_SUMMARY 30 = true ∧ Out.msix 0 ∈ s'.out.drop s.out.length)
      ∧ (sev = 3 → src.toNat < 31 → fatal s = false → fatals 1 page src.toNat s')
      ∧ (page = bp → src = 1 ∨ src = 2 → mid.toNat < 128 → (nib s' mid.toNat).fenceDue = true ∧ intervalAt mid.toNat s')
      ∧ (page = Reg.signetPage → src = 3 ∨ src = 4 → flag s' Reg.SIG_STAT 26 = true
        ∧ (room → s'.signet = { s.signet with queue := s.signet.queue ++ [(0x0D, 0xF, psEvent s, [src, 0, 0, 0, 0, 0])] }))
      ∧ (∀ p : PartId, ∀ r < 3, page = Reg.partPage p → src = 2 → ringOf s p addr.toNat = some r → flag s' (Reg.PW_RING_CFG p r) 31 = false ∧ flag s' (Reg.PW_STAT p) 31 = true))))
  ∧ (∀ src : Nat, severity s bp src = (if src = 1 ∨ src = 2 ∨ src = 5 then 2 else if src = 3 ∨ src = 6 ∨ src = 9 then 3 else if src = 0x0A then 1 else 0)
    ∧ severity s Reg.mgtPage src = (if src = 3 ∨ src = 4 then 3 else 0) ∧ severity s Reg.phasePage src = (if run ∧ (src = 8 ∨ src = 9) then 2 else 0)
    ∧ (∀ n : LaneId, severity s (Reg.lanePage n) src = if run ∧ (src = 0 ∨ src = 1 ∨ src = 6) then 2 else 0)
    ∧ (∀ k : PortId, severity s (Reg.skovubPage k) src = if run ∧ (src = 2 ∨ src = 3) then 2 else 0)
    ∧ (∀ p : PartId, severity s (Reg.partPage p) src = if src = 5 then 1 else 0)
    ∧ (∀ c : ChanId, src ≠ 4 → severity s (Reg.ddrPage c) src = 0) ∧ (∀ n : NibId, severity s (Reg.nibPage n) src = 0)
    ∧ ∀ page ∈ [0, Reg.signetPage, Reg.pciePage, Reg.mgtnetPage, Reg.bootPage, Reg.testPage, Reg.perfPage, Reg.stylusPage, Reg.copybookPage, Reg.ductusPage,
        Reg.ligaturePage, Reg.rulingPage, Reg.inkwellPage, Reg.scrollPage, Reg.copyistPage], severity s page src = 0)
  ∧ (∀ (page : Nat) (v : Word), hasHeader page = true → Gives (.errStickyClear page v) s (fun s' =>
      OnlyRegs s s' [Reg.PG_ERR_STICKY page, Reg.PG_FERR_SRC page] ∧ reg s' (Reg.PG_ERR_STICKY page) = reg s (Reg.PG_ERR_STICKY page) &&& ~~~v
      ∧ reg s' (Reg.PG_FERR_SRC page) = if reg s' (Reg.PG_ERR_STICKY page) = 0 then setBit (reg s (Reg.PG_FERR_SRC page)) 31 false else reg s (Reg.PG_FERR_SRC page)))
  ∧ Gives .firstErrorRearm s (fun s' => OnlyRegs s s' [Reg.BL_FIRST_PAGE] ∧ reg s' Reg.BL_FIRST_PAGE = setBit (reg s Reg.BL_FIRST_PAGE) 31 false)
  ∧ (let gone := fun (n : Nat) => (nib s n).fenced = true ∨ (nib s n).fenceDue = true
    let off := fun (n : Nat) => flag s (Reg.PG_CTL (Reg.nibPage n)) 0 = false
    let runs := fun (n : Nat) => if ∀ i < 8, (thread s (8 * n + i)).state ≠ .running then 0 else if (nib s n).retired then 1 else (nib s n).hangRuns + 1
    Gives .hangSample s (fun s' => (∀ n, nib s' n = if 128 ≤ n ∨ gone n then nib s n else if off n then { nib s n with hangRuns := 0 } else
        { nib s n with hangRuns := runs n, retired := false, fenceDue := (nib s n).fenceDue || decide (5 ≤ runs n) })
      ∧ (∀ n < 128, ¬ gone n → ¬ off n → 5 ≤ runs n → intervalAt n s' ∧ sticky s' bp 2 ∧ flag s' Reg.BL_SUMMARY 30 = true)
      ∧ ((∀ n < 128, gone n ∨ off n ∨ runs n < 5) → s' = { s with nibs := s'.nibs })))
  ∧ (∀ n : Fin 128, ((nib s n).fenceDue = false ∨ fatal s = true → stays (.nibFence n)) ∧ ((nib s n).fenceDue = true → fatal s = false → Gives (.nibFence n) s (fun s' =>
      (nib s' n).fenced = true ∧ (nib s' n).fenceDue = false ∧ (∀ m, m ≠ n.val → (nib s' m).fenced = (nib s m).fenced)
      ∧ (∀ k < 256, ∀ i < 8, (lock s' (n / 8) k).owner ≠ some (8 * n + i))
      ∧ (∀ i ∈ s'.blotter.intervals, i.kind = 1 → i.unit = n.val → i.done ≠ none)
      ∧ ((∃ m < 128, m ≠ n.val ∧ nibPid s m = nibPid s n ∧ (nib s m).fenced = false) → (∀ c < 32, (chan s' n c).msgs = []) ∧ (∀ i < 8, (thread s' (8 * n + i)).ch0 = [])
        ∧ ∀ k x t, slot s k = some x → x.done = none → x.hole = false → x.tid = some t → nibOf t = n.val →
          ∃ y, slot s' k = some y ∧ y.tid = none ∧ bit y.fd.w0 10 = true ∧ y.fd ∈ s'.dispatchQ)
      ∧ ((∀ m < 128, m ≠ n.val → nibPid s m = nibPid s n → (nib s m).fenced = true) → sticky s' bp 0x0A))))
  ∧ (let done := fun (i : Interval) => i.done.any (fun c => decide (c < s.phase.count))
    let marked := fun (d : Decision) => let t := d.b + lat s - guard s
      { d with fault := d.fault || s.blotter.intervals.any (fun i => bit i.parts d.p && (decide (i.opened ≤ t) && i.done.all (fun c => decide (t ≤ c + 1)))) }
    (s.blotter.intervals.find? done = none → stays .faultIntervalClose)
    ∧ (∀ i, s.blotter.intervals.find? done = some i → Gives .faultIntervalClose s (fun s' => OnlyRegs { s with blotter := s'.blotter, decisions := s.decisions.map marked } s' [Reg.BL_RECOVERY_STAT]
      ∧ s'.blotter = { s.blotter with intervals := s.blotter.intervals.erase i }
      ∧ reg s' Reg.BL_RECOVERY_STAT = setBit (reg s Reg.BL_RECOVERY_STAT) 31 (!(s.blotter.intervals.erase i).isEmpty))))
  ∧ ((∃ i ∈ s.blotter.intervals, i.done = none) → fatal s = false → Gives .recoveryTimeout s (fun s' => flag s' Reg.BL_RECOVERY_STAT 30 = true ∧ fatals 1 bp 9 s'))
  ∧ ((∀ i ∈ s.blotter.intervals, i.done ≠ none) ∨ fatal s = true → stays .recoveryTimeout)
  ∧ (s.blotter.aliveOn = true → s.blotter.aliveStopped = false → let l := !flag s Reg.ALIVE_CTL 16
    exec .aliveToggle s = .next { setFlag s Reg.ALIVE_CTL 16 l with out := s.out ++ [.alive l] })
  ∧ (s.blotter.aliveOn = false ∨ s.blotter.aliveStopped = true → stays .aliveToggle)
  ∧ (∀ v : Word, (1 ≤ bits v 9 0 ∧ bits v 9 0 ≤ 1000 → Gives (.aliveCtlWrite v) s (fun s' => OnlyRegs s s' [Reg.ALIVE_CTL] ∧ reg s' Reg.ALIVE_CTL = setBits (reg s Reg.ALIVE_CTL) 9 0 (bits v 9 0)))
    ∧ (¬ (1 ≤ bits v 9 0 ∧ bits v 9 0 ≤ 1000) → Gives (.aliveCtlWrite v) s (fun s' => Noted s s' [] Reg.mgtPage 6 ∧ reg s' Reg.ALIVE_CTL = reg s Reg.ALIVE_CTL)))
  ∧ (∀ v : Word, let was := flag s Reg.BL_WDT 31
    let period := if 10 ≤ bits v 23 0 ∧ bits v 23 0 ≤ 10000000 then bits v 23 0 else fld s Reg.BL_WDT 23 0
    Gives (.wdtEnable v) s (fun s' => OnlyRegs { s with blotter := s'.blotter } s' [Reg.BL_WDT] ∧ flag s' Reg.BL_WDT 31 = true ∧ fld s' Reg.BL_WDT 23 0 = period
      ∧ s'.blotter = { s.blotter with wdtLeft := if was = false ∨ bit v 30 = true then period else s.blotter.wdtLeft }))
  ∧ (flag s Reg.BL_WDT 31 = true → exec .wdtKick s = .next { s with blotter := { s.blotter with wdtLeft := fld s Reg.BL_WDT 23 0 } })
  ∧ (flag s Reg.BL_WDT 31 = false → stays .wdtKick) ∧ (flag s Reg.BL_WDT 31 = false ∨ s.blotter.wdtLeft = 0 → stays .wdtExpire)
  ∧ (flag s Reg.BL_WDT 31 = true → s.blotter.wdtLeft ≠ 0 → fatal s = false → Gives .wdtExpire s (fatals 2 bp 3))
  ∧ (∀ v : Word, let key := bits v 31 16 = 0x1A7E ∧ bit v 0 = true
    let sealedNow := s.signet.breaks < s.signet.seals.length
    let sets := fun (b : Bool) => Gives (.injectEnable v) s (fun s' => OnlyRegs s s' [Reg.BL_INJECT_CTL] ∧ reg s' Reg.BL_INJECT_CTL = setBit (reg s Reg.BL_INJECT_CTL) 0 b)
    (¬ key → sets false) ∧ (key → ¬ (run ∧ sealedNow) → sets true)
    ∧ (key → run → sealedNow → Gives (.injectEnable v) s (fun s' => Noted s s' [] bp 8 ∧ reg s' Reg.BL_INJECT_CTL = reg s Reg.BL_INJECT_CTL)))
  ∧ (∀ (page : Nat) (v : Word), hasHeader page = false → stays (.errStickyClear page v) ∧ stays (.injectArm page v))
  ∧ (∀ (page : Nat) (v : Word), hasHeader page = true →
    let ok := flag s Reg.BL_INJECT_CTL 0 = true ∧ (bit v 31 = true → isCheck page (bits v 7 0) = true)
    (ok → Gives (.injectArm page v) s (fun s' => OnlyRegs s s' [Reg.PG_INJECT page]
      ∧ reg s' (Reg.PG_INJECT page) = (reg s (Reg.PG_INJECT page) &&& ~~~0x800300FF) ||| (v &&& 0x800300FF)))
    ∧ (¬ ok → Gives (.injectArm page v) s (fun s' => Noted s s' [] bp 8 ∧ reg s' (Reg.PG_INJECT page) = reg s (Reg.PG_INJECT page))))
  ∧ (∀ src : Nat, (isCheck bp src = true ↔ src = 0 ∨ src = 6) ∧ (isCheck Reg.signetPage src = true ↔ src = 3 ∨ src = 4) ∧ (isCheck Reg.phasePage src = true ↔ src = 1)
    ∧ (isCheck Reg.mgtPage src = false) ∧ ∀ n : NibId, (isCheck (Reg.nibPage n) src = true ↔ src = 5 ∨ src = 0xFF))

/-- R339, R341–R344, R346–R348, R352, R357, R380. A request while one is pending, in DRAIN, or out of TEST while a self-test runs, is BUSY; one for the current mode is ALREADY_DONE; a cell that is REFUSED gives reason 0x06 and source 0x00; else its sequence is accepted with OK. COLD to BOOT plans PD_CORE and the groups; leaving for COLD, BOOT or TEST is refused with a partition held, else disables links, ends partitions and plans domains;
STANDALONE needs ROLE 00 and sets the default up; CONFIG from BOOT is at once; RUN passes its five checks in order and clears freeze; DRAIN stops admission and stays pending. Pending ends with the last switch and the mode changes: MODE_HIST, interrupt 0. DRAIN ends when all that was admitted is released. PD_CTL is refused as R348 says, else its changes are switched, on rising, off falling; a domain that goes off loses its
registers and memories (the reads waiting on its ports end as lost, and timers keep the ticks still to come); one not on in time is FATAL. Reset held takes no request; DRAIN at acceptance is log entry 57, the switch order of one change 55, partition 0's reset 56. -/
def Obligations.DeviceModes : Prop := ∀ (st : Bool) (s : State),
  let cur := Reg.MODE_CUR
  let mp := Reg.mgtPage
  let stays := fun (c : Instr) => exec c s = .next s
  let req : List Instr := [.requestCold st, .requestBoot st, .requestStandalone st, .requestConfig st, .requestRun st, .requestDrain st, .requestOrphan st, .requestTest st]
  let asks := fun (t : Nat) => req.getD t (.requestCold st)
  let pending := fun (s : State) => flag s cur 31
  let answers := fun (t : Nat) (x : Byte) => Gives (asks t) s (fun s' => OnlyRegs s s' [cur] ∧ reg s' cur = setBits (reg s cur) 15 8 x.toNat)
  let refused := fun (t reason : Nat) => Gives (asks t) s (fun s' => Noted s s' [cur] mp 0 ∧ fld s' cur 15 8 = stRefused.toNat ∧ fld s' cur 23 16 = reason
    ∧ mode s' = mode s ∧ pending s' = pending s)
  let accepted := fun (q : Seq) (t : Nat) (s' : State) => fld s' cur 15 8 = stOk.toNat ∧ pending s' = true ∧ fld s' cur 30 28 = t ∧ mode s' = mode s
    ∧ s'.mgt.seq = some q ∧ s'.mgt.byWho = st.toNat
  let entered := fun (m by_ : Nat) (s' : State) => mode s' = m ∧ reg s' Reg.MODE_HIST = word ((fld s Reg.MODE_HIST 31 16 + 1) % 65536 * 65536 + mode s * 256 + by_)
    ∧ flag s' (Reg.PG_IRQ_RAW mp) 0 = true ∧ flag s' Reg.PD_CTL 2 = decide (m ≠ 0)
  let atOnce := fun (t : Nat) (s' : State) => entered t st.toNat s' ∧ fld s' cur 15 8 = stOk.toNat ∧ pending s' = false
  let modeRegs := [cur, Reg.MODE_HIST, Reg.PG_IRQ_RAW mp, Reg.PD_CTL]
  let free := s.mgt.held = false ∧ pending s = false ∧ ¬ (mode s = 7 ∧ flag s Reg.TEST_STAT 31 = true)
  let held := ∃ p < 16, 3 ≤ partState s p ∧ partState s p ≤ 6
  let cleared := fun (s' : State) => (∀ n < 128, flag s' (Reg.LANE_CTL n) 0 = false) ∧ (∀ k < 32, flag s' (Reg.SK_PCFG k) 31 = false)
    ∧ (∀ p, 1 ≤ p → p < 16 → partState s' p = 0) ∧ partState s' 0 = 2
  let hot := flag s Reg.TEMP_STAT 31 = true ∧ (BitVec.ofNat 8 (fld s Reg.TEMP_LIMIT 7 0)).toInt * 16 < (BitVec.ofNat 16 (fld s Reg.TEMP_STAT 15 0)).toInt
  let ddr := fun (c : Nat) => flag s (Reg.DDR_CTL c) 0 = true
  let r1 := flag s Reg.SC_FIT 31 = false
  let r2 := flag s Reg.PH_STAT 1 = false ∨ flag s Reg.PH_CTL 1 = true
  let r3 := (∃ c < 4, ddr c ∧ fld s (Reg.DDR_STAT c) 1 0 ≠ 2) ∨ flag s Reg.IW_DCFG 31 = true ∧ flag s Reg.IW_DCFG 30 = false
  let r8 := flag s (Reg.DDR_IMODE 0) 31 = true ∧ ∃ c < 4, ddr c
  (s.mgt.held = true → ∀ t < 8, stays (asks t))
  ∧ (s.mgt.held = false → ∀ t < 8, pending s = true ∨ mode s = 5 ∨ mode s = 7 ∧ flag s Reg.TEST_STAT 31 = true ∧ t ≠ 7 → answers t stBusy)
  ∧ (s.mgt.held = false → pending s = false → mode s ≠ 5 → answers (mode s) stAlready)
  ∧ (free →
    (∀ e ∈ [(0, [2, 3, 4, 5, 6, 7]), (1, [4, 5, 6]), (2, [4, 5, 6]), (3, [2, 5, 6]), (4, [0, 1, 2, 3, 6, 7]), (6, [0, 1, 2, 3, 4, 7]), (7, [2, 3, 4, 5, 6])],
      mode s = e.1 → ∀ t ∈ e.2, refused t 6)
    ∧ (mode s = 0 → Gives (.requestBoot st) s (fun s' => accepted .s1 1 s' ∧ s' = { s with regs := s'.regs, mgt := s'.mgt, free := s'.free } ∧ RegsBut s s' [cur, Reg.PD_CTL]
      ∧ reg s' Reg.PD_CTL = reg s Reg.PD_CTL ||| 0xF4
      ∧ (reg s Reg.PD_STAT = 3 → s.mgt.switches = [] → reg s Reg.PD_CTL &&& 0xFFFF08 = 0 → s'.mgt.switches = [(2, true), (4, true), (5, true), (6, true), (7, true)])))
    ∧ (mode s ∈ [1, 2, 3, 7] → (held → refused 0 5) ∧ (¬ held → Gives (.requestCold st) s (fun s' => accepted .s2 0 s' ∧ cleared s' ∧ reg s' Reg.PD_CTL = reg s Reg.PD_CTL &&& 7)))
    ∧ (mode s ∈ [1, 2, 3] → (held → refused 7 5) ∧ (¬ held → Gives (.requestTest st) s (fun s' => accepted .s5 7 s' ∧ cleared s' ∧ reg s' Reg.PD_CTL = reg s Reg.PD_CTL
      ∧ s'.mgt.switches = s.mgt.switches)))
    ∧ (mode s ∈ [2, 3, 7] → (held → refused 1 5) ∧ (¬ held → Gives (.requestBoot st) s (fun s' => accepted .s6 1 s' ∧ cleared s' ∧ reg s' Reg.PD_CTL = reg s Reg.PD_CTL &&& 0xF7)))
    ∧ (mode s = 1 → role s ≠ 0 → refused 2 7)
    ∧ (mode s = 1 → role s = 0 → (∀ g < 4, domainOn s (4 + g) = true) → 2 ≤ partState s 0 → Gives (.requestStandalone st) s (fun s' =>
      (if s'.mgt.switches = [] then atOnce 2 s' else accepted .s3 2 s')
      ∧ (∀ n < 128, fld s' (Reg.LANE_CTL n) 23 0 = 0x101 + (if fld s Reg.STRAPS 5 4 = 0 then 5 else if fld s Reg.STRAPS 5 4 = 1 then 7 else if fld s Reg.STRAPS 5 4 = 2 then 9 else 8) * 4096
          + (if fld s Reg.STRAPS 5 4 = 2 then 8 else 0)
        ∧ reg s' (Reg.queueCfg n) = word (0x80000A00 + (n + 64) % 128))
      ∧ flag s' (Reg.ST_CLASS 15) 31 = true ∧ lat s' = 256 ∧ guard s' = 4 ∧ reg s' Reg.DEFAULT_DECISION = 0 ∧ reg s' Reg.ACC_OUT_CTL = 1 ∧ reg s' Reg.ACC_OUT_DELAY = 0
      ∧ (flag s Reg.PH_STAT 0 = true → flag s' Reg.PH_CTL 3 = true ∧ flag s' Reg.PH_CTL 0 = true)))
    ∧ (mode s = 1 → Gives (.requestConfig st) s (fun s' => atOnce 3 s' ∧ Raises { s with mgt := s'.mgt, free := s'.free } s' modeRegs))
    ∧ (mode s = 2 → Gives (.requestConfig st) s (fun s' => accepted .s7 3 s' ∧ (∀ n < 128, flag s' (Reg.LANE_CTL n) 0 = false) ∧ (∀ k < 256, queueOn s' k = false)
      ∧ fld s' Reg.ACC_OUT_CTL 7 0 = 0 ∧ flag s' Reg.PH_CTL 1 = false ∧ flag s' (Reg.ST_CLASS 15) 31 = false))
    ∧ (mode s = 3 → (r1 → refused 4 1) ∧ (¬ r1 → r2 → refused 4 2) ∧ (¬ r1 → ¬ r2 → r3 → refused 4 3) ∧ (¬ r1 → ¬ r2 → ¬ r3 → r8 → refused 4 8)
      ∧ (¬ r1 → ¬ r2 → ¬ r3 → ¬ r8 → hot → refused 4 4)
      ∧ (¬ r1 → ¬ r2 → ¬ r3 → ¬ r8 → ¬ hot → Gives (.requestRun st) s (fun s' => atOnce 4 s' ∧ ∀ page, page % 0x1000 = 0 → page < 0x1000000 → flag s' (Reg.PG_CTL page) 2 = false)))
    ∧ (mode s = 4 ∨ mode s = 6 → Gives (.requestDrain st) s (fun s' => entered 5 st.toNat s' ∧ fld s' cur 15 8 = stOk.toNat ∧ pending s' = true ∧ fld s' cur 30 28 = 3
      ∧ s'.mgt.seq = some .s9 ∧ s'.phase = { s.phase with admissions := s.phase.admissions ++ [(1, false)] }
      ∧ Raises { s with mgt := s'.mgt, free := s'.free, phase := s'.phase } s' modeRegs)))
  ∧ (pending s = false ∨ s.mgt.switches ≠ [] ∨ fatal s = true ∨ s.mgt.seq = none ∨ s.mgt.seq = some .s9 → stays .modeTransitionEnd)
  ∧ (pending s = true → s.mgt.switches = [] → fatal s = false →
    let ends := fun (m : Nat) (s' : State) => entered m s.mgt.byWho s' ∧ pending s' = false ∧ s'.mgt.seq = none
    let off := ∀ n < 128, laneState s n = 0
    (∀ e ∈ [(Seq.s1, 1), (.s2, 0), (.s5, 7)], s.mgt.seq = some e.1 → Gives .modeTransitionEnd s (fun s' => ends e.2 s' ∧ Raises { s with mgt := s'.mgt, free := s'.free } s' modeRegs))
    ∧ (s.mgt.seq = some .s3 → Gives .modeTransitionEnd s (fun s' => ends 2 s' ∧ (flag s Reg.PH_STAT 0 = false → flag s' Reg.PH_CTL 1 = true)
      ∧ RegsBut s s' (modeRegs ++ [Reg.PH_CTL, Reg.PH_STAT])))
    ∧ (s.mgt.seq = some .s6 → Gives .modeTransitionEnd s (fun s' => ends 1 s' ∧ s'.mgt.boot = .ready ∧ (∀ i < 4, (thread s' (1024 + i)).state = .idle)
      ∧ ∀ c < 32, (chan s' 128 c).msgs = []))
    ∧ (s.mgt.seq = some .s7 → off → Gives .modeTransitionEnd s (fun s' => ends 3 s' ∧ flag s' Reg.PH_STAT 3 = false ∧ s'.decisions = []))
    ∧ (s.mgt.seq = some .s7 → ¬ off → stays .modeTransitionEnd))
  ∧ (let empty := mode s = 5 ∧ pending s = true ∧ flag s Reg.PH_STAT 3 = false ∧ (∀ e ∈ s.phase.admissions, e.2 = true) ∧ s.phase.admissionDue = none ∧ fatal s = false ∧ s.decisions = [] ∧ s.decBatch = []
      ∧ ∀ p < 16, enginesOf s p = 0 ∧ workOf s p = 0
    (empty → Gives .drainComplete s (fun s' => entered 3 4 s' ∧ pending s' = false ∧ Raises { s with mgt := s'.mgt, free := s'.free } s' modeRegs))
    ∧ (¬ empty → stays .drainComplete))
  ∧ (∀ v : Word, let old := reg s Reg.PD_CTL
    let off := fun (d : Nat) => bit old d = true ∧ bit v d = false
    let change := fun (d : Nat) => bit old d ≠ bit v d
    let no := pending s = true ∨ mode s = 0 ∨ change 2 ∨ (off 3 ∧ ∃ c < 4, ddr c) ∨ (∃ n < 128, off (4 + n / 32) ∧ flag s (Reg.LANE_CTL n) 0 = true)
      ∨ (∃ n < 128, off (8 + n / 8) ∧ (nibPid s n ≠ 0 ∨ ∃ i < 8, (thread s (8 * n + i)).state ≠ .idle)) ∨ (mode s = 2 ∧ (change 3 ∨ ∃ q < 16, change (8 + q)))
    (no → Gives (.pdCtlWrite v) s (fun s' => Noted s s' [] mp 1 ∧ reg s' Reg.PD_CTL = old ∧ s'.mgt = s.mgt))
    ∧ (¬ no → Gives (.pdCtlWrite v) s (fun s' => s' = { s with regs := s'.regs, mgt := s'.mgt, free := s'.free } ∧ RegsBut s s' [Reg.PD_CTL]
      ∧ reg s' Reg.PD_CTL = (old &&& ~~~0xFFFFF8) ||| (v &&& 0xFFFFF8)
      ∧ (mode s ∈ [3, 4, 5, 6, 7] → s.mgt.switches = [] → domainOn s 0 = true → domainOn s 1 = true → domainOn s 2 = true →
        let ons := ((List.range 24).filter (fun d => decide (3 ≤ d) && bit v d && !domainOn s d)).map (fun d => (d, true))
        let offs := ((List.range 24).filter (fun d => decide (3 ≤ d) && !bit v d && domainOn s d)).reverse.map (fun d => (d, false))
        s'.mgt.switches = ons ++ offs ∨ s'.mgt.switches = offs ++ ons))))
  ∧ (s.mgt.switches = [] → stays .domainSwitchDone ∧ stays .domainTimeout)
  ∧ (∀ d l, s.mgt.switches = (d, true) :: l →
    Gives .domainSwitchDone s (fun s' => reg s' Reg.PD_STAT = setBit (reg s Reg.PD_STAT) d true ∧ flag s' (Reg.PG_IRQ_RAW mp) 2 = true
      ∧ Raises { s with mgt := { s.mgt with switches := l } } s' [Reg.PD_STAT, Reg.PG_IRQ_RAW mp])
    ∧ (fatal s = false → Gives .domainTimeout s (fun s' => fatal s' = true ∧ flag s' (Reg.PG_ERR_STICKY mp) 4 = true ∧ pending s' = false)))
  ∧ (∀ d l, s.mgt.switches = (d, false) :: l → 2 ≤ d → d < 24 →
    let quiet := d = 2 → ∀ e ∈ s.ports, e.2.remotes = []
    stays .domainTimeout ∧ Gives .domainSwitchDone s (fun s' => s'.mgt.switches = l ∧ domainOn s' d = false
      ∧ flag s' (Reg.PG_IRQ_RAW mp) 2 = true ∧ (∀ a, regInDomain d a = true → reg s' a = regReset a)
      ∧ (quiet → ∀ a, regInDomain d a = false → a ≠ Reg.PD_STAT → a ≠ Reg.PG_IRQ_RAW mp → reg s' a = reg s a)
      ∧ (∀ k, kept s' k = if keyInDomain d k then 0 else kept s k) ∧ (8 ≤ d → ∀ t < 1024, thread s' t = if t / 64 = d - 8 then threadReset t else thread s t)
      ∧ (d < 8 → d ≠ 2 → s'.threads = s.threads)
      ∧ (d = 2 → quiet → ∀ t, thread s' t = { thread s t with tmr0 := rebase s (thread s t).tmr0, tmr1 := rebase s (thread s t).tmr1 })))

/-- R349–R351, R354, R355, R371, R375–R377. A reset clears everything but the Signet and its page (a warm one and an FLR keep PCI_STAT too), leaves COLD, and shows its cause, fatal_prior, the fuses and the grade's TEMP_LIMIT; where ALIVE toggled, ALIVE_STOPS counts and is recorded. RST_CTL needs its key, else source 0x05. POR held takes nothing, and a VCORE reset leaves it held; the end of a reset samples the straps, whose levels POR_RELEASE gives. The ROM starts ALIVE, requests BOOT in COLD and then tries BOOTSEL: slot
A, slot B at min(size ÷ 2, 0x80_0000), the host. An image is checked in R377's order: its first failure sets BT_STAT.reason and source 0x00, and nothing is loaded; a good one is written section by section (a later one over an earlier), and Steward thread 0 runs at M from its entry PC. Without an image ROLE 00 requests STANDALONE, another CONFIG, which waits for the host without limit; BT_HOST_LOAD acts only
on a ROM that waits. BT_SVN_BURN raises the counter with its key. A dip is warned of and counted at its end, DEGRADE after 1 ms; above warn is source 0x02 once per crossing, above trip FATAL; TEMP_LIMIT keeps warn below trip at most 125. The straps of a reset without POR_N are free (log entry 54); the voltage at a dip's end is free. -/
def Obligations.ResetsAndBoot : Prop := ∀ s : State,
  let mp := Reg.mgtPage
  let bt := Reg.BT_STAT
  let stays := fun (c : Instr) => exec c s = .next s
  let held := s.mgt.held = true
  let rebuilt := fun (cause : Nat) (link : Bool) (s' : State) =>
    s' = { State.reset with pending := s.pending, regs := s'.regs, signet := s'.signet, mgt := s'.mgt, free := s'.free, resp := s.resp, out := s'.out }
    ∧ (∀ a, a / 0x1000 ≠ Reg.signetPage / 0x1000 → a ∉ [Reg.STRAPS, Reg.PCI_STAT, Reg.RST_CAUSE, bt, Reg.TEMP_LIMIT] → reg s' a = regReset a)
    ∧ mode s' = 0 ∧ (reg s' Reg.STRAPS).toNat < 64 ∧ reg s' Reg.PCI_STAT = (if link then reg s Reg.PCI_STAT else 0)
    ∧ reg s' Reg.RST_CAUSE = word (2 ^ cause + 16 * (fatal s).toNat) ∧ reg s' bt = word (s.mgt.secureEn.toNat * 2 ^ 30 + s.mgt.svn * 65536)
    ∧ reg s' Reg.TEMP_LIMIT = (if s.mgt.gradeE then 0x7364 else 0x6E5F) ∧ (flag s Reg.ALIVE_CTL 16 = true → Out.alive false ∈ s'.out.drop s.out.length)
    ∧ s'.signet.seals = s.signet.seals ∧ s'.signet.breaks = s.signet.breaks ∧ s'.signet.journal = s.signet.journal ∧ s'.signet.windows = []
  let quiet := s.blotter.aliveOn = false ∨ s.blotter.aliveStopped = true
  let room := flag s Reg.SIG_STAT 28 = true ∧ s.signet.queue.length < 63
  let plain := fun (s' : State) => (quiet → s'.signet = { s.signet with windows := [], ranges := [], pendingQs := [], dipFrom := s.signet.dipFrom.map (fun _ => 0) }
      ∧ ∀ a, a / 0x1000 = Reg.signetPage / 0x1000 → reg s' a = reg s a)
    ∧ (¬ quiet → Tbl.get (fun _ => 0) s'.signet.tallies 513 = min 99999999999999999999 (Tbl.get (fun _ => 0) s.signet.tallies 513 + 1)
      ∧ (room → s'.signet.queue = s.signet.queue ++ [(0x0A, 0xF, psEvent s, [3, 0, 0, 0, 0, 0])]))
  let fresh : Mgt := { gradeE := s.mgt.gradeE, secureEn := s.mgt.secureEn, svn := s.mgt.svn, bistRuns := s.mgt.bistRuns }
  let resets := fun (cause : Nat) (link : Bool) (s' : State) => rebuilt cause link s' ∧ plain s'
    ∧ s'.mgt = fresh
  let byte := fun (at_ : Nat → Byte) (off n : Nat) => (List.range n).map (fun i => at_ (off + i))
  let field := fun (at_ : Nat → Byte) (off n : Nat) => leNat (byte at_ off n)
  let number := fun (at_ : Nat → Byte) => field at_ 6 2
  let ty := fun (at_ : Nat → Byte) (i : Nat) => field at_ (256 + 64 * i) 2
  let target := fun (at_ : Nat → Byte) (i : Nat) => field at_ (260 + 64 * i) 4
  let off := fun (at_ : Nat → Byte) (i : Nat) => field at_ (264 + 64 * i) 4
  let len := fun (at_ : Nat → Byte) (i : Nat) => field at_ (268 + 64 * i) 4
  let size := fun (t : Nat) => if t = 1 then 0x10000 else if t = 2 then 0x20000 else 0x2000000
  let place := fun (t : Nat) => if t = 1 then 0x10000000 else if t = 2 then 0x10010000 else 0xC000000
  let bad := fun (at_ : Nat → Byte) (limit k : Nat) =>
    (k = 1 ∧ ¬ (field at_ 0 4 = 0x59564249 ∧ field at_ 4 2 = 1 ∧ 1 ≤ number at_ ∧ number at_ ≤ 32 ∧ field at_ 16 4 = 0x64400000 ∧ field at_ 8 4 ≤ limit
        ∧ ∀ i < number at_, off at_ i + len at_ i ≤ field at_ 8 4))
    ∨ (k = 2 ∧ s.mgt.secureEn = true ∧ sha384 (byte at_ 32 96) ≠ slice Config.ownerKeyHash 0 48)
    ∨ (k = 3 ∧ s.mgt.secureEn = true ∧ Config.ecdsaVerifies (byte at_ 32 96) (sha384 (byte at_ 0 128 ++ byte at_ 256 (64 * number at_))) (byte at_ 128 96) = false)
    ∨ (k = 4 ∧ s.mgt.secureEn = true ∧ field at_ 12 4 < s.mgt.svn)
    ∨ (k = 5 ∧ ∃ i < number at_, sha384 (byte at_ (off at_ i) (len at_ i)) ≠ byte at_ (272 + 64 * i) 48 ∨ ty at_ i ∈ [1, 2, 3] ∧ size (ty at_ i) < target at_ i + len at_ i)
    ∨ (k = 6 ∧ ∃ i < number at_, ty at_ i ∉ [1, 2, 3])
  let good := fun (at_ : Nat → Byte) (limit : Nat) => ∀ k, ¬ bad at_ limit k
  let fails := fun (at_ : Nat → Byte) (limit k : Nat) => bad at_ limit k ∧ ∀ j < k, ¬ bad at_ limit j
  let inBody := fun (at_ : Nat → Byte) (i k : Nat) => place (ty at_ i) + target at_ i ≤ k ∧ k < place (ty at_ i) + target at_ i + len at_ i
  let loads := fun (at_ : Nat → Byte) (source : Nat) (s0 s' : State) =>
    reg s' bt = setBits (setBit (reg s0 bt) 31 true) 15 12 source ∧ s'.mgt = { s0.mgt with boot := .done }
    ∧ (thread s' 1024).state = .running ∧ (thread s' 1024).pc = BitVec.ofNat 16 (field at_ 20 4) ∧ bits (thread s' 1024).st 31 30 = 3
    ∧ ((thread s0 1024).claim = none → (∀ e ∈ s0.locks, e.2.owner ≠ some 1024) → RegsBut s0 s' [bt] ∧ ∀ t, t ≠ 1024 → thread s' t = thread s0 t)
    ∧ (∀ i < number at_, ∀ j < len at_ i, (∀ i' < number at_, i < i' → ¬ inBody at_ i' (place (ty at_ i) + target at_ i + j)) →
      kept s' (place (ty at_ i) + target at_ i + j) = at_ (off at_ i + j))
    ∧ (∀ k, (∀ i < number at_, ¬ inBody at_ i k) → kept s' k = kept s0 k)
  let lacks := fun (s0 s' : State) => if role s = 0 then ∃ u, exec (.requestStandalone true) s0 = .next u ∧ s' = { u with mgt := { u.mgt with boot := .done } }
    else ∃ u, exec (.requestConfig true) s0 = .next u ∧ s' = { u with mgt := { u.mgt with boot := .waitAny } }
  let hosts := fun (s0 s' : State) => s' = { s0 with mgt := { s0.mgt with boot := if flag s Reg.PCI_STAT 31 then .waitHost else .awaitHost } }
  let rejects := fun (k : Nat) (s0 s' : State) => Noted s0 s' [bt] Reg.bootPage 0 ∧ reg s' bt = setBits (reg s0 bt) 7 0 k
  (Gives .porAssert s (fun s' => rebuilt 0 false s' ∧ plain s' ∧ s'.mgt.held = true ∧ s'.mgt.boot = .held ∧ s'.mgt.svn = s.mgt.svn))
  ∧ (∀ r b l : BitVec 2, (held → Gives (.porRelease r b l) s (fun s' => OnlyRegs { s with mgt := { s.mgt with held := false, boot := .ready } } s' [Reg.STRAPS]
      ∧ reg s' Reg.STRAPS = word (r.toNat + 4 * b.toNat + 16 * l.toNat))) ∧ (¬ held → stays (.porRelease r b l)))
  ∧ (held → (∀ v, stays (.rstCold v) ∧ stays (.rstWarm v)) ∧ stays .functionLevelReset)
  ∧ (¬ held → Gives .functionLevelReset s (resets 1 true) ∧ ∀ v : Word, let key := bits v 31 16 = 0xB007
    (key → Gives (.rstCold v) s (resets 2 false) ∧ Gives (.rstWarm v) s (if bit v 1 then resets 2 false else resets 1 true))
    ∧ (¬ key → Gives (.rstCold v) s (fun s' => Noted s s' [] mp 5) ∧ Gives (.rstWarm v) s (fun s' => Noted s s' [] mp 5)))
  ∧ (∀ n : Nat, Gives (.vcoreReset n) s (fun s' => rebuilt 3 false s'
      ∧ s'.mgt = (if held then { fresh with held := true, boot := .held } else fresh) ∧ s'.signet.dipFrom = none
      ∧ Tbl.get (fun _ => 0) s'.signet.tallies 516 = min 99999999999999999999 (Tbl.get (fun _ => 0) s.signet.tallies 516 + 1)
      ∧ (room → s'.signet.queue = s.signet.queue ++ [(0x09, 0xF, psEvent s, beBytes 4 (min (2 ^ 32 - 1) n) ++ [0, 0])]
        ++ (if s.blotter.aliveOn ∧ ¬ s.blotter.aliveStopped then [(0x0A, 0xF, psEvent s, [3, 0, 0, 0, 0, 0])] else []))))
  ∧ (s.mgt.boot = .ready → ¬ held → exec .bootRomStart s = .next { s with mgt := { s.mgt with boot := .booting }, blotter := { s.blotter with aliveOn := true } })
  ∧ (s.mgt.boot ≠ .ready ∨ held → stays .bootRomStart)
  ∧ (∀ flash : Option (List Byte),
    let c := Instr.bootRomSequence flash
    let sel := fld s Reg.STRAPS 3 2
    let usable := fun (f : List Byte) => flash = some f ∧ 0x200000 ≤ f.length ∧ f.length ≤ 0x4000000
    let b := fun (f : List Byte) => min (f.length / 2) 0x800000
    let slotA := fun (f : List Byte) (i : Nat) => f.getD i 0
    let slotB := fun (f : List Byte) (i : Nat) => f.getD (b f + i) 0
    let next := fun (s0 s' : State) => if sel = 0 then hosts s0 s' else lacks s0 s'
    (s.mgt.boot ≠ .booting ∨ flag s Reg.MODE_CUR 31 = true → stays c)
    ∧ (s.mgt.boot = .booting → flag s Reg.MODE_CUR 31 = false →
      (mode s = 0 → exec c s = exec (.requestBoot true) s)
      ∧ (mode s ≠ 0 → sel = 1 → Gives c s (hosts s)) ∧ (mode s ≠ 0 → sel = 3 → Gives c s (lacks s))
      ∧ (mode s ≠ 0 → sel = 0 ∨ sel = 2 →
        ((∀ f, ¬ usable f) → Gives c s (fun s' => ∃ s0, Noted s s0 [] Reg.bootPage 1 ∧ reg s0 bt = reg s bt ∧ next s0 s'))
        ∧ (∀ f, usable f → good (slotA f) (b f) → Gives c s (loads (slotA f) 1 s))
        ∧ (∀ f k, usable f → fails (slotA f) (b f) k → good (slotB f) (f.length - b f) → Gives c s (fun s' => ∃ s0, rejects k s s0 ∧ loads (slotB f) 2 s0 s'))
        ∧ (∀ f k k', usable f → fails (slotA f) (b f) k → fails (slotB f) (f.length - b f) k' → Gives c s (fun s' => ∃ s0 s1, rejects k s s0 ∧ rejects k' s0 s1 ∧ next s1 s')))))
  ∧ ((s.mgt.boot = .awaitHost ∨ s.mgt.boot = .waitHost → Gives .bootHostTimeout s (lacks s)) ∧ (s.mgt.boot ≠ .awaitHost → s.mgt.boot ≠ .waitHost → stays .bootHostTimeout))
  ∧ (∀ v : Word,
    let o := bits v 24 0
    let image := fun (i : Nat) => kept s (0xC000000 + o + i)
    let waits := bit v 31 = true ∧ (s.mgt.boot = .waitHost ∨ s.mgt.boot = .waitAny)
    Gives (.btHostLoad v) s (fun s' => ∃ s0, OnlyRegs s s0 [Reg.BT_HOST_LOAD] ∧ fld s0 Reg.BT_HOST_LOAD 24 0 = o ∧ flag s0 Reg.BT_HOST_LOAD 31 = flag s Reg.BT_HOST_LOAD 31
      ∧ (¬ waits → s' = s0) ∧ (waits → good image (0x2000000 - o) → loads image 3 s0 s')
      ∧ (∀ k, waits → fails image (0x2000000 - o) k → ∃ s1, rejects k s0 s1 ∧ (if s.mgt.boot = .waitHost then lacks s1 s' else s' = s1))))
  ∧ (∀ v : Word, let n := bits v 6 0
    let burns := bits v 31 16 = 0x5B0E ∧ n ≤ 64 ∧ s.mgt.svn < n
    (burns → Gives (.btSvnBurn v) s (fun s' => OnlyRegs { s with mgt := { s.mgt with svn := n } } s' [bt] ∧ reg s' bt = setBits (reg s bt) 22 16 n))
    ∧ (¬ burns → stays (.btSvnBurn v)))
  ∧ (∀ w g : Fin 16, let ok := w.val ∈ [1, 2, 4, 8] ∧ 1 ≤ g.val ∧ g.val ≤ 5
    (ok → Gives (.pcieLinkUp w g) s (fun s' => OnlyRegs { s with mgt := { s.mgt with boot := if s.mgt.boot = .awaitHost then .waitHost else s.mgt.boot } } s' [Reg.PCI_STAT]
      ∧ reg s' Reg.PCI_STAT = word (2 ^ 31 + w.val * 16 + g.val))) ∧ (¬ ok → stays (.pcieLinkUp w g)))
  ∧ (let dip := s.mgt.dip = true
    let ss := Reg.SUPPLY_STAT
    (∀ mv : Nat, (mv < 700 → ¬ dip → Gives (.supplyDipBegin mv) s (fun s' => OnlyRegs { s with mgt := { s.mgt with dip := true } } s' [ss]
        ∧ reg s' ss = setBit (setBits (reg s ss) 31 16 mv) 2 true)) ∧ (700 ≤ mv ∨ dip → stays (.supplyDipBegin mv)))
    ∧ (¬ dip → stays .supplyDipEnd ∧ stays .supplyDipLong)
    ∧ (dip → Gives .supplyDipEnd s (fun s' => Noted { s with mgt := { s.mgt with dip := false } } s' [ss, Reg.SUPPLY_WARN_CNT] Reg.blotterPage 4 ∧ 700 ≤ fld s' ss 31 16
        ∧ flag s' ss 2 = false ∧ flag s' ss 1 = flag s ss 1 ∧ flag s' ss 0 = true ∧ reg s' Reg.SUPPLY_WARN_CNT = reg s Reg.SUPPLY_WARN_CNT + 1)
      ∧ Gives .supplyDipLong s (fun s' => Noted s s' [ss] Reg.blotterPage 5 ∧ reg s' ss = setBit (reg s ss) 1 true ∧ flag s' Reg.BL_SUMMARY 30 = true
        ∧ Out.msix 0 ∈ s'.out.drop s.out.length)))
  ∧ (∀ (n : Fin 8) (t : Int),
    let above := fun (hi lo : Nat) => (BitVec.ofNat 8 (fld s Reg.TEMP_LIMIT hi lo)).toInt * 16 < (BitVec.ofInt 16 t).toInt
    Gives (.tempSample n t) s (fun s' => reg s' Reg.TEMP_STAT = word (2 ^ 31 + n.val * 65536 + (BitVec.ofInt 16 t).toNat)
      ∧ (s'.mgt.tempOver = true ↔ above 7 0)
      ∧ (above 7 0 → s.mgt.tempOver = false → flag s' (Reg.PG_ERR_STICKY mp) 2 = true ∧ flag s' (Reg.PG_IRQ_RAW mp) 1 = true)
      ∧ (above 15 8 → flag s' (Reg.PG_ERR_STICKY mp) 3 = true ∧ fatal s' = true)
      ∧ (¬ above 15 8 → Records { s with mgt := s'.mgt } s' [Reg.TEMP_STAT] ∧ s'.mgt = { s.mgt with tempOver := decide (above 7 0) })
      ∧ (¬ above 15 8 → ¬ above 7 0 ∨ s.mgt.tempOver = true → OnlyRegs { s with mgt := s'.mgt } s' [Reg.TEMP_STAT])))
  ∧ (∀ v : Word, let trip := (BitVec.ofNat 8 (bits v 15 8)).toInt
    let warn := (BitVec.ofNat 8 (bits v 7 0)).toInt
    (warn < trip → trip ≤ 125 → Gives (.tempLimitWrite v) s (fun s' => OnlyRegs s s' [Reg.TEMP_LIMIT] ∧ reg s' Reg.TEMP_LIMIT = (reg s Reg.TEMP_LIMIT &&& ~~~0xFFFF) ||| (v &&& 0xFFFF)))
    ∧ (trip ≤ warn ∨ 125 < trip → Gives (.tempLimitWrite v) s (fun s' => Noted s s' [] mp 6 ∧ reg s' Reg.TEMP_LIMIT = reg s Reg.TEMP_LIMIT)))

/-- R358–R367. A selector takes a code of its set while the counter is stopped, or stops it; else PERF source 0x00. A read of LO gives the count and latches HI; a write of HI is staged and a write of LO commits both, refused while en is 1. A counter that counts cycles has the cycles that passed in its count, whose number is free (log entry 22), and its wrap sets its overflow bit; any other stands. A page of a domain that is off reads 0 and
drops writes. PC_SAMPLE_INFO's valid and lost clear by 1. PC_CTL.freeze and PF_CTL.freeze are set, and move nothing where no counter is enabled. PF_WIN restarts the window; a length of 0 is refused (log entry 58). A window's end moves the bytes of ports 0 to 43 to their results, reserved ports 0, restarts, increments seq and raises PERF interrupt 1; it does not come while frozen, or without crossings where they are the unit. A read of PF_BW_LO latches HI. A write with en 0 stops a counter: log entry 78. -/
def Obligations.PerformanceCounters : Prop := ∀ s : State,
  let pp := Reg.perfPage
  let stays := fun (c : Instr) => exec c s = .next s
  let cycles : List Nat := [0x00, 0x02, 0x03, 0x04, 0x05, 0x06, 0x07, 0x08, 0x0D, 0x0E, 0x12, 0x43, 0x44, 0x45, 0x46]
  let counter := fun (page : Nat) (i : Fin 8) (sel lo ovf : Nat) (codes : Nat → Prop) (mask v : Word) =>
    let on := pageOn s page = true
    let en := flag s sel 31 = true
    let still := ¬ en ∨ fld s sel 7 0 ∉ cycles
    let old := (reg s lo).toNat + fld s (lo + 4) 15 0 * 2 ^ 32
    let no := ¬ codes (bits v 7 0) ∨ en ∧ bit v 31 = true
    let counted := fun (k : Nat) (s' : State) => reg s' lo = word (old + k) ∧ fld s' (lo + 4) 15 0 = (old + k) / 2 ^ 32 % 2 ^ 16
      ∧ (2 ^ 48 ≤ old + k → flag s' ovf i = true)
    let latch := fun (t : State) => Tbl.get (fun _ => 0) t.perf.latched lo
    (¬ on → stays (.pcSelWrite page i v) ∧ exec (.counterRead page i) s = .next { s with resp := [0] } ∧ ∀ h, stays (.counterWrite page i h v))
    ∧ (on → no → Gives (.pcSelWrite page i v) s (fun s' => Noted s s' [] pp 0 ∧ reg s' sel = reg s sel))
    ∧ (on → ¬ no → Gives (.pcSelWrite page i v) s (fun s' => reg s' sel = (reg s sel &&& ~~~mask) ||| (v &&& mask) ∧ (∃ k, counted k s') ∧ (still → OnlyRegs s s' [sel])))
    ∧ (on → Gives (.counterRead page i) s (fun s' => (∃ k < 2 ^ 32, counted k s') ∧ s'.resp = [(reg s' lo).toNat] ∧ latch s' = reg s' (lo + 4)
      ∧ (still → s' = { s with resp := s'.resp, perf := { s.perf with latched := Tbl.set (fun _ => 0) s.perf.latched lo (reg s (lo + 4)) } })))
    ∧ (on → en → ∀ h, Gives (.counterWrite page i h v) s (fun s' => Noted s s' [] pp 0 ∧ reg s' lo = reg s lo ∧ reg s' (lo + 4) = reg s (lo + 4)))
    ∧ (on → ¬ en → exec (.counterWrite page i true v) s = .next { s with perf := { s.perf with staged := Tbl.set (fun _ => 0) s.perf.staged lo (word (bits v 15 0)) } }
      ∧ Gives (.counterWrite page i false v) s (fun s' => OnlyRegs s s' [lo, lo + 4] ∧ reg s' lo = v ∧ reg s' (lo + 4) = Tbl.get (fun _ => 0) s.perf.staged lo))
  (∀ (n : NibId) (i : Fin 8) (v : Word), counter (Reg.nibPage n) i (Reg.PC_SEL n i) (Reg.PC_CNT_LO n i) (Reg.PC_OVF n) (fun e => e ≤ 0x16) 0xF800FFFF v)
  ∧ (∀ (q : QuillId) (i : Fin 8) (v : Word), i.val < 4 → counter (Reg.quillPage q) i (Reg.QPC_SEL q i) (Reg.QPC_CNT_LO q i) (Reg.QPC_OVF q) (fun e => 0x40 ≤ e ∧ e ≤ 0x4B) 0xC00000FF v)
  ∧ (∀ (n : NibId) (v : Word), let a := Reg.PC_SAMPLE_INFO n
    Gives (.pcSampleClear n v) s (fun s' => OnlyRegs s s' [a] ∧ reg s' a = reg s a &&& ~~~(v &&& 0xC0000000)))
  ∧ (∀ (n : NibId) (b : Bool), Gives (.pcFreeze n b) s (fun s' => flag s' (Reg.PC_CTL n) 0 = b ∧ s'.mem = s.mem ∧ s'.threads = s.threads
      ∧ ((∀ i < 8, flag s (Reg.PC_SEL n i) 31 = false) → OnlyRegs s s' [Reg.PC_CTL n])))
  ∧ (∀ b : Bool, Gives (.pfFreeze b) s (fun s' => flag s' Reg.PF_CTL 0 = b ∧ s'.mem = s.mem ∧ s'.threads = s.threads
      ∧ ((∀ n < 129, ∀ i < 8, flag s (Reg.PC_SEL n i) 31 = false) → (∀ q < 16, ∀ i < 4, flag s (Reg.QPC_SEL q i) 31 = false) → OnlyRegs s s' [Reg.PF_CTL])))
  ∧ (∀ v : Word, (bits v 30 0 = 0 → Gives (.pfWinWrite v) s (fun s' => Noted s s' [] pp 0 ∧ reg s' Reg.PF_WIN = reg s Reg.PF_WIN ∧ s'.perf = s.perf))
    ∧ (bits v 30 0 ≠ 0 → Gives (.pfWinWrite v) s (fun s' => OnlyRegs { s with perf := { s.perf with bytes := [] } } s' [Reg.PF_WIN] ∧ reg s' Reg.PF_WIN = v)))
  ∧ (let waits := flag s Reg.PF_CTL 0 = true ∨ flag s Reg.PF_WIN 31 = true ∧ s.phase.counting = false
    let result := fun (i : Nat) => if i < 44 then Tbl.get (fun _ => 0) s.perf.bytes i else 0
    (waits → stays .pfWindowEnd)
    ∧ (¬ waits → Gives .pfWindowEnd s (fun s' => (∀ i < 64, reg s' (Reg.PF_BW_LO i) = word (result i) ∧ Tbl.get (fun _ => 0) s'.perf.bwHi i = word (result i / 2 ^ 32))
      ∧ s'.perf = { s.perf with bytes := [], bwHi := s'.perf.bwHi } ∧ reg s' Reg.PF_WSTAT = reg s Reg.PF_WSTAT + 1 ∧ flag s' (Reg.PG_IRQ_RAW pp) 1 = true
      ∧ Raises { s with perf := s'.perf } s' ((List.range 64).map Reg.PF_BW_LO ++ [Reg.PF_WSTAT, Reg.PG_IRQ_RAW pp]))))
  ∧ (∀ i : Fin 64, Gives (.pfBwRead i) s (fun s' => s'.resp = [(reg s (Reg.PF_BW_LO i)).toNat] ∧ OnlyRegs { s with resp := s'.resp } s' [Reg.PF_BW_HI i]
      ∧ reg s' (Reg.PF_BW_HI i) = Tbl.get (fun _ => 0) s.perf.bwHi i))

/-- R372–R374, R378–R380, R382. MB_TO_HOSTi fires vector 4 + i. MB_TO_STWi posts [i, data] to the Steward's CH5, is held while that is full, or is dropped and counted while one is held; a held one is delivered once there is room. A management frame is dropped while the port is off, at a bad FCS (source 0x00), over 1,522 bytes, or without a descriptor (0x01); else it fills the descriptor's SRAM buffer and is written back with
its length, OK and a timestamp. A frame to send leaves, and its descriptor is given back. MN_ADJ_STEP adds signed nanoseconds to the time. The board reads count byte, data and PEC; a lane over 127 or an unaligned offset is NACKed; nothing answers while reset is held. JTAG loads its codes, IDCODE gives 0x1644_0B53, every unlisted code acts as BYPASS. BIST is REFUSED outside TEST or out of domains 2 to
23 (log entry 60), BUSY while it runs; a domain ends reset, with its signature and its pass or fail bit. How far the clock stands at an event (log entry 39) and the status at a descriptor without an SRAM buffer (59) are free. -/
def Obligations.ManagementAndTest : Prop := ∀ s : State,
  let stays := fun (c : Instr) => exec c s = .next s
  let ch := chan s 128 5
  let room := ch.msgs.length + ch.claimed < 16
  let posts := fun (t : State) (i : Fin 4) (v : Word) (s' : State) => (nib s 128).fenced = false → ch.readers = [] →
    s' = { t with chans := s'.chans } ∧ ChanAt s s' 128 5 { ch with msgs := ch.msgs ++ [[word i, v]] }
  let holds := fun (l : List (Nat × Word)) => { s with mgt := { s.mgt with mbHeld := l } }
  (∀ (i : Fin 4) (v : Word),
    let heldNow := ∃ m ∈ s.mgt.mbHeld, m.1 = i.val
    Gives (.mbToHostWrite i v) s (fun s' => s' = { s with regs := s'.regs, out := s.out ++ [.msix (4 + i)] } ∧ RegsBut s s' [Reg.MB_TO_HOST i] ∧ reg s' (Reg.MB_TO_HOST i) = v)
    ∧ (heldNow → Gives (.mbToStwWrite i v) s (fun s' => OnlyRegs s s' [Reg.MB_DROP] ∧ reg s' Reg.MB_DROP = reg s Reg.MB_DROP + 1))
    ∧ (¬ heldNow → Gives (.mbToStwWrite i v) s (fun s' => reg s' (Reg.MB_TO_STW i) = v
      ∧ (¬ room → OnlyRegs (holds (s.mgt.mbHeld ++ [(i.val, v)])) s' [Reg.MB_TO_STW i])
      ∧ (room → s'.mgt = s.mgt ∧ posts { s with regs := s'.regs } i v s')))
    ∧ (¬ heldNow ∨ ¬ room → stays (.mailboxDeliver i))
    ∧ (∀ w, s.mgt.mbHeld.find? (fun m => m.1 = i.val) = some (i.val, w) → room → Gives (.mailboxDeliver i) s (fun s' =>
      s'.mgt.mbHeld = s.mgt.mbHeld.erase (i.val, w) ∧ posts (holds (s.mgt.mbHeld.erase (i.val, w))) i w s')))
  ∧ (let page := Reg.mgtnetPage
    let on := flag s (Reg.PG_CTL page) 0 = true ∧ flag s Reg.MN_CTL 31 = true
    let desc := fun (a i : Nat) => 0xC000000 + (fld s a 24 0 / 16 * 16 + 16 * i) % 0x2000000
    let more := fun (a i : Nat) => (i + 1) % 2 ^ fld s a 31 28
    let time := fun (s' : State) (k : Nat) => rdLe s' (k + 8) 4 = s'.phase.todNs ∧ rdLe s' (k + 12) 4 = s'.phase.todSec % 2 ^ 32 ∧ bit (rd s' (k + 7)) 1 = true
    let back := fun (s' : State) (k len : Nat) (flags : Byte) => rdLe s' (k + 4) 2 = len ∧ rd s' (k + 6) = stOk ∧ bit (rd s' (k + 7)) 0 = false
      ∧ rd s' (k + 7) &&& 0xFC = flags &&& 0x04 ∧ rdWord s' k = rdWord s k
    let unsent := fun (s' : State) (k : Nat) => (rd s' (k + 6)).toNat < 16 ∧ bit (rd s' (k + 7)) 0 = false ∧ ∀ j, j < k ∨ k + 16 ≤ j → rd s' j = rd s j
    (∀ (f : List Byte) (ok : Bool), let k := desc Reg.MN_RX_RING s.mgt.mnRxAt
      let c := Instr.mgtFrameReceive f ok
      let buffer := 0xC000000 + 0x800 * bits (rdWord s k) 29 0
      (¬ on → stays c)
      ∧ (on → NoArm s page 0 → (ok = false → Gives c s (fun s' => Noted s s' [] page 0))
        ∧ (ok = true → 1522 < f.length → stays c)
        ∧ (ok = true → f.length ≤ 1522 → bit (rd s (k + 7)) 0 = false → Gives c s (fun s' => Noted s s' [] page 1))
        ∧ (ok = true → f.length ≤ 1522 → bit (rd s (k + 7)) 0 = true → Gives c s (fun s' => s'.mgt = { s.mgt with mnRxAt := more Reg.MN_RX_RING s.mgt.mnRxAt } ∧ s'.regs = s.regs
          ∧ (bits (rdWord s k) 31 30 = 1 → bits (rdWord s k) 29 0 < 16384 → (k + 16 ≤ buffer ∨ buffer + f.length ≤ k) → back s' k f.length (rd s (k + 7)) ∧ time s' k
            ∧ (∀ i < f.length, rd s' (buffer + i) = f.getD i 0)
            ∧ ∀ j, (j < k ∨ k + 16 ≤ j) → (j < buffer ∨ buffer + f.length ≤ j) → rd s' j = rd s j)
          ∧ (¬ (bits (rdWord s k) 31 30 = 1 ∧ bits (rdWord s k) 29 0 < 16384) → unsent s' k))))
      ∧ (on → ¬ NoArm s page 0 → Gives c s (fun s' => Noted s s' [] page 0 ∧ s'.mgt = s.mgt)))
    ∧ (let k := desc Reg.MN_TX_RING s.mgt.mnTxAt
      let c := Instr.mgtFrameTransmit
      let len := rdLe s (k + 4) 2
      let stamp := bit (rd s (k + 7)) 2
      let buffer := 0xC000000 + 0x800 * bits (rdWord s k) 29 0
      (¬ on ∨ bit (rd s (k + 7)) 0 = false → stays c)
      ∧ (on → bit (rd s (k + 7)) 0 = true → Gives c s (fun s' => s'.mgt = { s.mgt with mnTxAt := more Reg.MN_TX_RING s.mgt.mnTxAt } ∧ s'.regs = s.regs
        ∧ (bits (rdWord s k) 31 30 = 1 → bits (rdWord s k) 29 0 < 16384 → 1 ≤ len → len ≤ 1522 → back s' k len (rd s (k + 7)) ∧ s'.out = s.out ++ [.mgtFrame (rdBytes s buffer len)]
          ∧ (stamp = true → time s' k) ∧ (stamp = false → s'.phase = s.phase) ∧ ∀ j, j < k ∨ k + 16 ≤ j → rd s' j = rd s j)
        ∧ (¬ (bits (rdWord s k) 31 30 = 1 ∧ bits (rdWord s k) 29 0 < 16384 ∧ 1 ≤ len ∧ len ≤ 1522) → s'.out = s.out ∧ unsent s' k))))
    ∧ (∀ v : Word, Gives (.mnAdjStep v) s (fun s' => s' = { s with phase := { s.phase with todSec := s'.phase.todSec, todNs := s'.phase.todNs }, free := s'.free }
      ∧ s'.phase.todNs < 1000000000 ∧ s'.phase.todSec < 2 ^ 48
      ∧ ((s'.phase.todSec : Int) * 1000000000 + s'.phase.todNs) = ((passTime s).phase.todSec * 1000000000 + (passTime s).phase.todNs + v.toInt) % (2 ^ 48 * 1000000000))))
  ∧ (let answer := fun (cmd : Byte) (data : List Byte) =>
      let a := BitVec.ofNat 8 (2 * fld s Reg.BT_I2C 6 0)
      let body := BitVec.ofNat 8 data.length :: data
      (body ++ [crc8 ([a, cmd, a ||| 1] ++ body)]).map BitVec.toNat
    let reads := fun (c : Instr) (cmd : Byte) (l : List Nat) => Gives c s (fun s' => s' = { (boardWords l s).2 with resp := s'.resp } ∧ s'.resp = answer cmd (boardWords l s).1)
    let l := s.mgt.brdLane
    let o := s.mgt.brdOff
    (s.mgt.held = true → ∀ c ∈ [Instr.brdReadId, .brdReadMode, .brdReadEnv, .brdReadLane, .brdReadRegister], stays c)
    ∧ (s.mgt.held = false → (domainOn s 1 = true → exec .brdReadId s = .next { s with resp := answer 0 [0x64, 0x40, 0x0A, 0x01] }) ∧ reads .brdReadMode 1 [Reg.MODE_CUR]
      ∧ reads .brdReadEnv 2 [Reg.TEMP_STAT, Reg.SUPPLY_STAT]
      ∧ reads .brdReadLane 0x11 [Reg.LANE_STAT l, Reg.RX_FRAMES l, Reg.TX_FRAMES l, Reg.DROP_LINK_CHECK l, Reg.PARSE_FAIL l, Reg.STOMPED l, Reg.DOWN_EVENTS l]
      ∧ (o < 0x1000000 → reads .brdReadRegister 0x21 [o]))
    ∧ (∀ v : Byte, (s.mgt.held = false ∧ v.toNat < 128 → exec (.brdSelectLane v) s = .next { s with mgt := { s.mgt with brdLane := v.toNat } })
      ∧ (¬ (s.mgt.held = false ∧ v.toNat < 128) → stays (.brdSelectLane v)))
    ∧ (∀ v : Word, (s.mgt.held = false ∧ v.toNat % 4 = 0 → exec (.brdSetOffset v) s = .next { s with mgt := { s.mgt with brdOff := v.toNat } })
      ∧ (¬ (s.mgt.held = false ∧ v.toNat % 4 = 0) → stays (.brdSetOffset v))))
  ∧ (let ir := fun (c : Byte) => { s with mgt := { s.mgt with tapIr := c } }
    exec .extest s = .next (ir 0) ∧ exec .samplePreload s = .next (ir 1) ∧ exec .idcode s = .next { s with mgt := { s.mgt with tapIr := 2 }, resp := [0x16440B53] }
    ∧ exec .extestPulse s = .next (ir 8) ∧ exec .extestTrain s = .next (ir 9)
    ∧ (∀ c : Byte, c.toNat ∉ [0, 1, 2, 8, 9, 0x20] → exec (.bypass c) s = .next (ir c)) ∧ (∀ c : Byte, c.toNat ∈ [0, 1, 2, 8, 9, 0x20] → stays (.bypass c)))
  ∧ (let st := Reg.TEST_STAT
    let page := Reg.testPage
    let test := mode s = 7
    let busy := flag s st 31 = true
    let dom := fld s Reg.TEST_DOMAIN 31 27
    let refused := fun (s' : State) => Noted s s' [st] page 1 ∧ reg s' st = setBits (reg s st) 7 0 stRefused.toNat ∧ s'.mgt = s.mgt
    let busyNow := fun (s' : State) => OnlyRegs s s' [st] ∧ reg s' st = setBits (reg s st) 7 0 stBusy.toNat
    let starts := fun (l : List (Nat × Nat)) (s' : State) => OnlyRegs { s with mgt := { s.mgt with bist := l } } s' [st] ∧ flag s' st 31 = true ∧ flag s' st 30 = false
      ∧ fld s' st 12 8 = (l.headD (0, 0)).1 ∧ fld s' st 7 0 = stOk.toNat
    let all := fun (k : Nat) => (List.range 22).map (fun i => (i + 2, k))
    let ends := fun (op : Nat) (s' : State) =>
      (¬ test → refused s') ∧ (test → busy → op ≠ 0xF → busyNow s')
      ∧ (test → op = 0xF → OnlyRegs { s with mgt := { s.mgt with bist := s.mgt.bist.take 1 } } s' [st] ∧ reg s' st = setBits (reg s st) 7 0 stOk.toNat)
      ∧ (test → ¬ busy → (op = 1 ∨ op = 2) → (2 ≤ dom ∧ dom ≤ 23 → starts [(dom, op)] s') ∧ (dom < 2 ∨ 23 < dom → refused s'))
      ∧ (test → ¬ busy → op = 3 → starts (all 2) s') ∧ (test → ¬ busy → op = 4 → starts (all 1) s')
      ∧ (test → ¬ busy → (op = 0 ∨ 4 < op ∧ op < 0xF) → refused s')
    Gives .lbistDomain s (ends 1) ∧ Gives .mbistDomain s (ends 2) ∧ Gives .mbistAll s (ends 3) ∧ Gives .lbistAll s (ends 4) ∧ Gives .bistAbort s (ends 0xF)
    ∧ (∀ op : Fin 16, let listed := (1 ≤ op.val ∧ op.val ≤ 4) ∨ op.val = 0xF
      (listed → stays (.testCmdReserved op)) ∧ (¬ listed → Gives (.testCmdReserved op) s (ends op)))
    ∧ exec (.bistReg none) s = .next { s with mgt := { s.mgt with tapIr := 0x20 }, resp := [(reg s st).toNat] }
    ∧ (∀ v : Word, Gives (.bistReg (some v)) s (fun s' => s'.mgt.tapIr = 0x20 ∧ s'.resp = [(reg s' st).toNat]
      ∧ (test → ¬ busy → bits v 3 0 = 3 → s'.mgt.bist = all 2 ∧ flag s' st 31 = true) ∧ (¬ test → flag s' (Reg.PG_ERR_STICKY page) 1 = true ∧ s'.mgt.bist = s.mgt.bist)))
    ∧ (s.mgt.bist = [] → stays .bistDomainDone)
    ∧ (∀ d kind l, s.mgt.bist = (d, kind) :: l → 2 ≤ d → d < 24 → Gives .bistDomainDone s (fun s' =>
      let sig := Config.misrSignature d kind s.mgt.bistRuns
      let pass := sig = Config.misrExpected d kind
      s'.mgt.bist = l ∧ s'.mgt.bistRuns = s.mgt.bistRuns + 1 ∧ reg s' Reg.TEST_SIG_LO = word sig.toNat ∧ reg s' Reg.TEST_SIG_HI = word (sig.toNat / 2 ^ 32)
      ∧ (pass → s'.mgt.bistPass = setBits s.mgt.bistPass d d 1 ∧ s'.mgt.bistFail = setBits s.mgt.bistFail d d 0 ∧ flag s' st 30 = flag s st 30)
      ∧ (¬ pass → s'.mgt.bistPass = setBits s.mgt.bistPass d d 0 ∧ s'.mgt.bistFail = setBits s.mgt.bistFail d d 1 ∧ flag s' st 30 = true ∧ flag s' (Reg.PG_ERR_STICKY page) 0 = true)
      ∧ flag s' st 31 = !l.isEmpty ∧ (∀ a, 0x100 ≤ a % 0x1000 → regInDomain d a = true → reg s' a = regReset a)
      ∧ (∀ k, k < 0xFFF8000 → keyInDomain d k = true → kept s' k = 0) ∧ (8 ≤ d → ∀ t < 1024, t / 64 = d - 8 → thread s' t = threadReset t))))

/-- R383, R384, R386–R389, R391, R394, R400. A write to an address that is no page header, or to a page of a domain that is off, does nothing. Freeze 1 in RUN, DRAIN or ORPHAN, and a soft reset of a Nib of an ACTIVE, DRAINING or RESETTING partition, change nothing and record ROOT source 0x00. Else a leaf takes its field; the ten pages ignore enable and freeze; lock sets once; enable 0 makes a lane, a port (its waiting reads end as lost) or a DRAM channel OFF;
a soft reset clears sticky bits, first error, raw interrupts and the counters, and resets a Nib's threads. A QUILL page's write reaches its 13 children and ROOT's every local page but the ten. frozen sets once nothing begun is left. PG_IRQ_RAW clears by 1, but not a Folio's levels. REGISTER_WRITE: an unaligned word, a MID that reaches no page, a Nib's thread outside its own pages and an offset that no
chapter defines are dropped; a header write acts as its row; a plain register takes its writable bits, clears W1C bits, and RWL bits only while the page is unlocked; a register with a command acts as that command's row. The rows write one field of PG_CTL (log entry 73). -/
def Obligations.RegisterPages : Prop := ∀ s : State,
  let stays := fun (c : Instr) => exec c s = .next s
  let same := fun (c : Instr) => Gives c s (fun s' => OnlyRegs s s' [])
  let refused := fun (page : Nat) (s' : State) => Noted s s' [] 0 0 ∧ reg s' (Reg.PG_CTL page) = reg s (Reg.PG_CTL page)
  let locked := mode s = 4 ∨ mode s = 5 ∨ mode s = 6
  let works := fun (page : Nat) => hasHeader page = true ∧ pageOn s page = true
  let ten := fun (page : Nat) => 0x1000 ≤ page ∧ page ≤ 0xA000
  let folio := fun (page : Nat) => page = 0 ∨ ∃ q < 16, page = Reg.quillPage q
  let follows := fun (page : Nat) => (∃ n < 128, page = Reg.lanePage n) ∨ (∃ k < 32, page = Reg.skovubPage k) ∨ ∃ c < 4, page = Reg.ddrPage c
  let bits2 := fun (page : Nat) => [Reg.PG_CTL page, Reg.PG_STAT page]
  let on := fun (s' : State) (page i : Nat) => flag s' (Reg.PG_CTL page) i
  let takes := fun (page i : Nat) (b : Bool) (s' : State) => OnlyRegs s s' (bits2 page) ∧ reg s' (Reg.PG_CTL page) = setBit (reg s (Reg.PG_CTL page)) i b
    ∧ (on s' page 2 = true → reg s' (Reg.PG_STAT page) = reg s (Reg.PG_STAT page)) ∧ (on s' page 2 = false → flag s' (Reg.PG_STAT page) 2 = false)
  (∀ (page : Nat) (b : Bool) (v : Word), ¬ works page → stays (.pgEnable page b) ∧ stays (.pgFreeze page b) ∧ stays (.pgSoftReset page) ∧ stays (.pgLock page b)
    ∧ stays (.pageFrozen page) ∧ stays (.irqRawClear page v))
  ∧ (∀ page : Nat, works page →
    (ten page → (∀ b, same (.pgEnable page b) ∧ same (.pgFreeze page b)))
    ∧ (¬ ten page → locked → Gives (.pgFreeze page true) s (refused page))
    ∧ (¬ ten page → ¬ folio page → (∀ b, (¬ follows page → Gives (.pgEnable page b) s (takes page 0 b)) ∧ (¬ locked ∨ b = false → Gives (.pgFreeze page b) s (takes page 2 b)))
      ∧ Gives (.pgLock page true) s (takes page 3 true) ∧ Gives (.pgLock page false) s (takes page 3 (on s page 3)))
    ∧ (ten page → Gives (.pgLock page true) s (fun s' => OnlyRegs s s' [Reg.PG_CTL page] ∧ reg s' (Reg.PG_CTL page) = setBit (reg s (Reg.PG_CTL page)) 3 true) ∧ same (.pgLock page false))
    ∧ (follows page → ∀ b, Gives (.pgEnable page b) s (fun s' => reg s' (Reg.PG_CTL page) = setBit (reg s (Reg.PG_CTL page)) 0 b
      ∧ ((∀ k < 32, page = Reg.skovubPage k → (port s k).remotes = []) → s'.mem = s.mem ∧ s'.threads = s.threads)
      ∧ (on s page 0 = b → takes page 0 b s')
      ∧ (on s page 0 = true → b = false → (∀ n < 128, page = Reg.lanePage n → laneMode s n ≠ 4 → laneState s' n = 0)
        ∧ (∀ k < 32, page = Reg.skovubPage k → portState s' k = 0) ∧ (∀ c < 4, page = Reg.ddrPage c → ddrState s' c = 0))))
    ∧ (let cleared := [Reg.PG_ERR_STICKY page, Reg.PG_FERR_SRC page, Reg.PG_FERR_ADDR_LO page, Reg.PG_FERR_ADDR_HI page, Reg.PG_FERR_PHASE_LO page,
        Reg.PG_FERR_PHASE_HI page, Reg.PG_IRQ_RAW page]
      let nib := ∃ n < 129, page = Reg.nibPage n
      (∀ n < 128, page = Reg.nibPage n → partState s (nibPid s n) ∈ [3, 4, 6] → Gives (.pgSoftReset page) s (refused page))
      ∧ (¬ folio page → ¬ nib → Gives (.pgSoftReset page) s (fun s' => (∀ a ∈ cleared, reg s' a = 0) ∧ RegsBut s s' (cleared ++ bits2 page ++ counterAddrs ((pageAt (page / 0x1000)).getD (.root, 0)) page)
        ∧ (∀ a ∈ counterAddrs ((pageAt (page / 0x1000)).getD (.root, 0)) page, reg s' a = 0) ∧ reg s' (Reg.PG_CTL page) = reg s (Reg.PG_CTL page)
        ∧ s' = { s with regs := s'.regs, ductus := s'.ductus, perf := s'.perf } ∧ (page ≠ Reg.ductusPage → s'.ductus = s.ductus) ∧ (page ≠ Reg.perfPage → s'.perf = s.perf)))
      ∧ (∀ n < 129, page = Reg.nibPage n → (n < 128 → partState s (nibPid s n) ∉ [3, 4, 6]) → Gives (.pgSoftReset page) s (fun s' => reg s' (Reg.PG_ERR_STICKY page) = 0 ∧ reg s' (Reg.PG_FERR_SRC page) = 0
        ∧ (∀ i < threadsOf n, (thread s' (tidOf n i)).state = .idle ∧ (thread s' (tidOf n i)).w = [] ∧ (thread s' (tidOf n i)).st = stReset (tidOf n i))
        ∧ s'.mem = s.mem ∧ s'.badWords = s.badWords)))
    ∧ (let due := on s page 2 = true ∧ begun s page = false
      (due → Gives (.pageFrozen page) s (fun s' => OnlyRegs s s' [Reg.PG_STAT page] ∧ reg s' (Reg.PG_STAT page) = setBit (reg s (Reg.PG_STAT page)) 2 true))
      ∧ (¬ due → stays (.pageFrozen page)))
    ∧ (∀ v : Word, (folio page → stays (.irqRawClear page v))
      ∧ (¬ folio page → Gives (.irqRawClear page v) s (fun s' => Raises s s' [Reg.PG_IRQ_RAW page] ∧ reg s' (Reg.PG_IRQ_RAW page) = reg s (Reg.PG_IRQ_RAW page) &&& ~~~v))))
  ∧ (∀ b : Bool, ∀ i ∈ [(0, Instr.pgEnable), (2, Instr.pgFreeze)], ¬ locked ∨ i.1 = 0 ∨ b = false →
    (∀ q < 16, works (Reg.quillPage q) → Gives (i.2 (Reg.quillPage q) b) s (fun s' => on s' (Reg.quillPage q) i.1 = b ∧ (∀ j < 13, on s' (Reg.quillPage q + 0x1000 * (j + 1)) i.1 = b)
      ∧ s' = { s with regs := s'.regs } ∧ ∀ a, (∀ j < 14, a ∉ bits2 (Reg.quillPage q + 0x1000 * j)) → reg s' a = reg s a))
    ∧ (works 0 → Gives (i.2 0 b) s (fun s' => on s' 0 i.1 = b ∧ (∀ page, works page → ¬ ten page → on s' page i.1 = b)
      ∧ (∀ page, hasHeader page = true → ten page → on s' page i.1 = on s page i.1) ∧ (∀ page, hasHeader page = true → pageOn s page = false → on s' page i.1 = on s page i.1)
      ∧ ((∀ e ∈ s.ports, e.2.remotes = []) → s'.mem = s.mem ∧ s'.threads = s.threads))))
  ∧ (∀ (mid : Mid) (addr : Nat) (v : Word), s.writer = none →
    let c := Instr.registerWrite mid addr v
    let page := addr - addr % 0x1000
    let off := addr % 0x1000
    let master := mid = 0x80 ∨ 0x90 ≤ mid.toNat ∧ mid.toNat < 0xC0
    (addr % 4 ≠ 0 ∨ (128 ≤ mid.toNat ∧ ¬ master) → stays c)
    ∧ (mid.toNat < 128 → addr < 0x1000000 → (ten page ∨ page = 0 ∨ (∃ n < 128, page = Reg.nibPage n ∧ nibPid s n ≠ nibPid s mid.toNat) ∨ addr = Reg.PG_CTL Reg.ductusPage
        ∨ (∃ n < 128, addr = Reg.LANE_CTL n)) → stays c)
    ∧ (addr % 4 = 0 → addr < 0x1000000 → master →
      (¬ works page → addr / 0x1000 ≠ 0xC → stays c) ∧ (works page → regRow addr = none → stays c)
      ∧ (works page → (off = 0x14 → exec c s = exec (.irqRawClear page v) s) ∧ (off = 0x20 → exec c s = exec (.errStickyClear page v) s)
        ∧ (off = 0x18 → Gives c s (fun s' => Raises s s' [addr] ∧ reg s' addr = v))
        ∧ (off = 0x24 → Gives c s (fun s' => OnlyRegs s s' [addr] ∧ reg s' addr = setBit (reg s addr) 0 (bit v 0)))
        ∧ (off = 0x0C → ¬ folio page → ¬ follows page → ¬ ten page → ¬ (locked ∧ bit v 2 = true) → bit v 1 = false → Gives c s (fun s' => OnlyRegs s s' (bits2 page)
          ∧ on s' page 0 = bit v 0 ∧ on s' page 2 = bit v 2 ∧ on s' page 3 = (on s page 3 || bit v 3))))
      ∧ (∀ row ∈ [(.sgroup, 0x100), (.lane, 0x108), (.nib, 0x140), (.copyist, 0x204), (.skovub, 0x200), (.part, 0x118), (.boot, 0x10C), (.perf, 0x110)],
        (pageAt (addr / 0x1000)).map Prod.fst = some row.1 → off = row.2 → pageOn s page = true → ∀ r x, regRow addr = some (r, x) →
        Gives c s (fun s' => OnlyRegs s s' [addr] ∧
          let put := word r.rw ||| (if on s page 3 then 0 else word r.rwl)
          reg s' addr = ((reg s addr &&& ~~~put) ||| (v &&& put)) &&& ~~~(v &&& word r.w1c)))
      ∧ (pageOn s page = true → (addr = Reg.MN_ADJ_STEP → exec c s = exec (.mnAdjStep v) s) ∧ (addr = Reg.BT_HOST_LOAD → s.mgt.boot ≠ .waitHost → exec c s = exec (.btHostLoad v) s)
        ∧ (addr = Reg.BT_SVN_BURN → mid = 0x80 → exec c s = exec (.btSvnBurn v) s) ∧ (addr = Reg.PF_CTL → exec c s = exec (.pfFreeze (bit v 0)) s)
        ∧ (∀ i : Fin 4, addr = Reg.MB_TO_HOST i → mid = 0x80 → exec c s = exec (.mbToHostWrite i v) s)
        ∧ (∀ i : Fin 4, addr = Reg.MB_TO_STW i → mid ≠ 0x80 → exec c s = exec (.mbToStwWrite i v) s)
        ∧ (addr = Reg.BL_FIRST_PAGE → bit v 31 = true → exec c s = exec .firstErrorRearm s))))

/-- For every command c and state s, step of s with c at the front of its queue is exec of c on s with the queue's rest; where the queue is empty the block idles, which is the model's choice (log entry 2: every event that time brings is a command of its own). -/
def Obligations.StepRunsFrontCommand : Prop :=
  (∀ (c : Instr) (rest : List Instr) (s : State), step { s with pending := c :: rest } = exec c { s with pending := rest })
  ∧ ∀ s : State, s.pending = [] → step s = .next s

/-- R8, R26, R104, R145, R146, R339, R344, R346, R349, R384. Right after the power-on reset every register reads its reset value: mode COLD, domains 0 and 1 on, ORBIT_LEN 4,096, DECISION_LAT 256, GUARD 4, RST_CAUSE.por, the part's identity and temperature limits, PG_CTL.enable 1 on every page. Every thread is IDLE, thread 0 of a Nib at S, the others at U and the Steward's at M; every lock is free, every channel
empty, no frame is on a lane and no slot is taken. The memory lists nothing and is canonical, and the queue is empty. What the spec gives no reset value for is not stated. -/
def Obligations.ResetState : Prop :=
  let s := State.reset
  (∀ a, reg s a = regReset a) ∧ mode s = 0 ∧ reg s Reg.PD_STAT = 3 ∧ reg s Reg.PD_CTL = 3 ∧ orbitLen s = 4096 ∧ reg s Reg.ORBIT_LEN = 4096 ∧ lat s = 256 ∧ guard s = 4
  ∧ reg s Reg.RST_CAUSE = 1 ∧ reg s Reg.DEVICE_ID = 0x64400A01 ∧ reg s Reg.TEMP_LIMIT = 0x6E5F ∧ reg s Reg.SC_COPY_HOLD = 1024 ∧ reg s Reg.THROTTLE_CTL = 0x8000FFFF
  ∧ (∀ n < 128, reg s (Reg.LANE_CTL n) = 0x9008 ∧ laneState s n = 0) ∧ (∀ p ∈ [0, 0x1000, 0xA0000, 0xB0000, 0x100000], reg s (Reg.PG_CTL p) = 1 ∧ reg s (Reg.PG_ERR_MODE p) = 1)
  ∧ (∀ t < 1028, (thread s t).state = .idle ∧ (thread s t).pc = 0 ∧ (∀ d < 32, wreg s t d = 0)
    ∧ bits (thread s t).st 31 30 = (if 1024 ≤ t then 3 else if t % 8 = 0 then 1 else 0))
  ∧ (∀ q < 16, ∀ k < 256, (lock s q k).owner = none) ∧ (∀ n < 129, ∀ c < 32, (chan s n c).msgs = []) ∧ (∀ n < 128, (lane s n).rx = none ∧ (lane s n).tx = none)
  ∧ (∀ k, slot s k = none) ∧ s.decisions = [] ∧ s.pending = [] ∧ s.mem = [] ∧ Memory.wf s.mem = true

/-- The memory of the device (Scroll, Copybook, Inkwell SRAM, Nib memories, the Steward's, the log and the DRAM; R107, R234, R252) is one table of address and byte, addresses strictly rising and no entry equal to what an unlisted address reads as. For every command at the front of the queue and every state whose memory has that form, the state after the step has it too: after stores of threads, frames, copies, decision records, host and remote writes, log records (R334), images, domains that lose their contents (R346) and resets (R350). Equal memories are therefore equal data. The form, and that an unlisted byte reads 0, are the model's choice (log entry 3). -/
def Obligations.StepKeepsMemoryCanonical : Prop :=
  ∀ s s' : State, Memory.wf s.mem = true → step s = .next s' → Memory.wf s'.mem = true
end

