-- ==== Sys2Proof/Laws/Bits.lean ====
section
/-! SUPPORT. What reading a bit or a field of a word gives after a bit or a field was stored. -/

namespace Sys2Proof.Machine

/-- A bit of the mask of a field. -/
theorem getLsbD_fieldMask {n : Nat} (hi lo i : Nat) (h : i < n) :
    (fieldMask n hi lo).getLsbD i = decide (lo ≤ i ∧ i ≤ hi ∧ lo ≤ hi) := by
  simp only [fieldMask, BitVec.getLsbD_ofNat, h, decide_true, Bool.true_and, Nat.testBit_shiftLeft, Nat.testBit_two_pow_sub_one]
  by_cases h1 : lo ≤ i <;> by_cases h2 : i ≤ hi <;> by_cases h3 : lo ≤ hi <;> simp [*] <;> omega

/-- A bit of a word into which a field was stored. -/
theorem bit_setBits {n : Nat} (w : BitVec n) (hi lo v i : Nat) (h : lo ≤ hi) :
    bit (setBits w hi lo v) i = if lo ≤ i ∧ i ≤ hi then decide (i < n) && v.testBit (i - lo) else bit w i := by
  unfold bit setBits
  by_cases hi' : i < n
  · simp only [BitVec.getLsbD_or, BitVec.getLsbD_and, BitVec.getLsbD_not, hi', decide_true, Bool.true_and,
      getLsbD_fieldMask _ _ _ hi', BitVec.getLsbD_ofNat, Nat.testBit_shiftLeft, Nat.testBit_mod_two_pow]
    by_cases h1 : lo ≤ i <;> by_cases h2 : i ≤ hi <;> simp [*]
    · intro h3; omega
    · omega
  · simp [BitVec.getLsbD_of_ge _ _ (Nat.le_of_not_lt hi'), hi']

/-- A bit of a word in which a bit was stored. -/
theorem bit_setBit {n : Nat} (w : BitVec n) (i j : Nat) (b : Bool) :
    bit (setBit w i b) j = if j = i then decide (j < n) && b else bit w j := by
  rw [setBit, bit_setBits _ _ _ _ _ (Nat.le_refl i)]
  by_cases h : j = i
  · subst h; cases b <;> simp
  · simp only [h, if_false]
    rw [if_neg (by omega)]

/-- A bit of a field, as a number. -/
theorem testBit_bits {n : Nat} (w : BitVec n) (hi lo i : Nat) :
    (bits w hi lo).testBit i = (decide (i < hi + 1 - lo) && bit w (lo + i)) := by
  simp [bits, bit, Nat.testBit_mod_two_pow, BitVec.getLsbD]

/-- A field that does not meet the stored one is unchanged. -/
theorem bits_setBits_other {n : Nat} (w : BitVec n) (hi lo v hi' lo' : Nat) (h : lo ≤ hi) (h' : hi' < lo ∨ hi < lo') :
    bits (setBits w hi lo v) hi' lo' = bits w hi' lo' := by
  apply Nat.eq_of_testBit_eq
  intro i
  simp only [testBit_bits, bit_setBits _ _ _ _ _ h]
  by_cases h1 : i < hi' + 1 - lo'
  · rw [if_neg (by omega)]
  · simp [h1]

/-- The stored field. -/
theorem bits_setBits {n : Nat} (w : BitVec n) (hi lo v : Nat) (h : lo ≤ hi) (hn : hi < n) :
    bits (setBits w hi lo v) hi lo = v % 2 ^ (hi + 1 - lo) := by
  apply Nat.eq_of_testBit_eq
  intro i
  simp only [testBit_bits, bit_setBits _ _ _ _ _ h, Nat.testBit_mod_two_pow]
  by_cases h1 : i < hi + 1 - lo
  · rw [if_pos (by omega)]
    simp [h1, show lo + i < n by omega]
  · simp [h1]

/-- A field that does not hold a stored bit is unchanged. -/
theorem bits_setBit_other {n : Nat} (w : BitVec n) (i hi lo : Nat) (b : Bool) (h : hi < i ∨ i < lo) :
    bits (setBit w i b) hi lo = bits w hi lo := bits_setBits_other w i i b.toNat hi lo (Nat.le_refl i) h

/-- Words with the same bits are the same. -/
theorem eq_of_bit {n : Nat} {v w : BitVec n} (h : ∀ i < n, bit v i = bit w i) : v = w :=
  BitVec.eq_of_getLsbD_eq (fun i hi => h i hi)

end Sys2Proof.Machine
end

