-- ==== Sys2Proof/Laws/State.lean ====
section
/-! SUPPORT. What each named update of State leaves of each of its fields. -/

namespace Sys2Proof.Machine

@[simp] theorem setReg_pending (s : State) (a : Nat) (v : Word) : (setReg s a v).pending = s.pending := rfl
@[simp] theorem setReg_mem (s : State) (a : Nat) (v : Word) : (setReg s a v).mem = s.mem := rfl
@[simp] theorem setReg_badWords (s : State) (a : Nat) (v : Word) : (setReg s a v).badWords = s.badWords := rfl
@[simp] theorem setReg_addrTags (s : State) (a : Nat) (v : Word) : (setReg s a v).addrTags = s.addrTags := rfl
@[simp] theorem setReg_phase (s : State) (a : Nat) (v : Word) : (setReg s a v).phase = s.phase := rfl
@[simp] theorem setReg_threads (s : State) (a : Nat) (v : Word) : (setReg s a v).threads = s.threads := rfl
@[simp] theorem setReg_nibs (s : State) (a : Nat) (v : Word) : (setReg s a v).nibs = s.nibs := rfl
@[simp] theorem setReg_chans (s : State) (a : Nat) (v : Word) : (setReg s a v).chans = s.chans := rfl
@[simp] theorem setReg_sends (s : State) (a : Nat) (v : Word) : (setReg s a v).sends = s.sends := rfl
@[simp] theorem setReg_locks (s : State) (a : Nat) (v : Word) : (setReg s a v).locks = s.locks := rfl
@[simp] theorem setReg_ctxs (s : State) (a : Nat) (v : Word) : (setReg s a v).ctxs = s.ctxs := rfl
@[simp] theorem setReg_ctxServed (s : State) (a : Nat) (v : Word) : (setReg s a v).ctxServed = s.ctxServed := rfl
@[simp] theorem setReg_lanes (s : State) (a : Nat) (v : Word) : (setReg s a v).lanes = s.lanes := rfl
@[simp] theorem setReg_stylusQ (s : State) (a : Nat) (v : Word) : (setReg s a v).stylusQ = s.stylusQ := rfl
@[simp] theorem setReg_dispatchQ (s : State) (a : Nat) (v : Word) : (setReg s a v).dispatchQ = s.dispatchQ := rfl
@[simp] theorem setReg_classNext (s : State) (a : Nat) (v : Word) : (setReg s a v).classNext = s.classNext := rfl
@[simp] theorem setReg_slots (s : State) (a : Nat) (v : Word) : (setReg s a v).slots = s.slots := rfl
@[simp] theorem setReg_holes (s : State) (a : Nat) (v : Word) : (setReg s a v).holes = s.holes := rfl
@[simp] theorem setReg_slotOrder (s : State) (a : Nat) (v : Word) : (setReg s a v).slotOrder = s.slotOrder := rfl
@[simp] theorem setReg_maxKey (s : State) (a : Nat) (v : Word) : (setReg s a v).maxKey = s.maxKey := rfl
@[simp] theorem setReg_compl (s : State) (a : Nat) (v : Word) : (setReg s a v).compl = s.compl := rfl
@[simp] theorem setReg_queues (s : State) (a : Nat) (v : Word) : (setReg s a v).queues = s.queues := rfl
@[simp] theorem setReg_tokens (s : State) (a : Nat) (v : Word) : (setReg s a v).tokens = s.tokens := rfl
@[simp] theorem setReg_shapers (s : State) (a : Nat) (v : Word) : (setReg s a v).shapers = s.shapers := rfl
@[simp] theorem setReg_gateSkip (s : State) (a : Nat) (v : Word) : (setReg s a v).gateSkip = s.gateSkip := rfl
@[simp] theorem setReg_xings (s : State) (a : Nat) (v : Word) : (setReg s a v).xings = s.xings := rfl
@[simp] theorem setReg_extents (s : State) (a : Nat) (v : Word) : (setReg s a v).extents = s.extents := rfl
@[simp] theorem setReg_lineTags (s : State) (a : Nat) (v : Word) : (setReg s a v).lineTags = s.lineTags := rfl
@[simp] theorem setReg_frameOrder (s : State) (a : Nat) (v : Word) : (setReg s a v).frameOrder = s.frameOrder := rfl
@[simp] theorem setReg_decisions (s : State) (a : Nat) (v : Word) : (setReg s a v).decisions = s.decisions := rfl
@[simp] theorem setReg_decBatch (s : State) (a : Nat) (v : Word) : (setReg s a v).decBatch = s.decBatch := rfl
@[simp] theorem setReg_accepts (s : State) (a : Nat) (v : Word) : (setReg s a v).accepts = s.accepts := rfl
@[simp] theorem setReg_copy (s : State) (a : Nat) (v : Word) : (setReg s a v).copy = s.copy := rfl
@[simp] theorem setReg_accOuts (s : State) (a : Nat) (v : Word) : (setReg s a v).accOuts = s.accOuts := rfl
@[simp] theorem setReg_copybook (s : State) (a : Nat) (v : Word) : (setReg s a v).copybook = s.copybook := rfl
@[simp] theorem setReg_ductus (s : State) (a : Nat) (v : Word) : (setReg s a v).ductus = s.ductus := rfl
@[simp] theorem setReg_ink (s : State) (a : Nat) (v : Word) : (setReg s a v).ink = s.ink := rfl
@[simp] theorem setReg_ddrs (s : State) (a : Nat) (v : Word) : (setReg s a v).ddrs = s.ddrs := rfl
@[simp] theorem setReg_parts (s : State) (a : Nat) (v : Word) : (setReg s a v).parts = s.parts := rfl
@[simp] theorem setReg_ports (s : State) (a : Nat) (v : Word) : (setReg s a v).ports = s.ports := rfl
@[simp] theorem setReg_signet (s : State) (a : Nat) (v : Word) : (setReg s a v).signet = s.signet := rfl
@[simp] theorem setReg_blotter (s : State) (a : Nat) (v : Word) : (setReg s a v).blotter = s.blotter := rfl
@[simp] theorem setReg_mgt (s : State) (a : Nat) (v : Word) : (setReg s a v).mgt = s.mgt := rfl
@[simp] theorem setReg_perf (s : State) (a : Nat) (v : Word) : (setReg s a v).perf = s.perf := rfl
@[simp] theorem setReg_free (s : State) (a : Nat) (v : Word) : (setReg s a v).free = s.free := rfl
@[simp] theorem setReg_writer (s : State) (a : Nat) (v : Word) : (setReg s a v).writer = s.writer := rfl
@[simp] theorem setReg_resp (s : State) (a : Nat) (v : Word) : (setReg s a v).resp = s.resp := rfl
@[simp] theorem setReg_out (s : State) (a : Nat) (v : Word) : (setReg s a v).out = s.out := rfl

@[simp] theorem setFld_pending (s : State) (a hi lo v : Nat) : (setFld s a hi lo v).pending = s.pending := rfl
@[simp] theorem setFld_mem (s : State) (a hi lo v : Nat) : (setFld s a hi lo v).mem = s.mem := rfl
@[simp] theorem setFld_badWords (s : State) (a hi lo v : Nat) : (setFld s a hi lo v).badWords = s.badWords := rfl
@[simp] theorem setFld_addrTags (s : State) (a hi lo v : Nat) : (setFld s a hi lo v).addrTags = s.addrTags := rfl
@[simp] theorem setFld_phase (s : State) (a hi lo v : Nat) : (setFld s a hi lo v).phase = s.phase := rfl
@[simp] theorem setFld_threads (s : State) (a hi lo v : Nat) : (setFld s a hi lo v).threads = s.threads := rfl
@[simp] theorem setFld_nibs (s : State) (a hi lo v : Nat) : (setFld s a hi lo v).nibs = s.nibs := rfl
@[simp] theorem setFld_chans (s : State) (a hi lo v : Nat) : (setFld s a hi lo v).chans = s.chans := rfl
@[simp] theorem setFld_sends (s : State) (a hi lo v : Nat) : (setFld s a hi lo v).sends = s.sends := rfl
@[simp] theorem setFld_locks (s : State) (a hi lo v : Nat) : (setFld s a hi lo v).locks = s.locks := rfl
@[simp] theorem setFld_ctxs (s : State) (a hi lo v : Nat) : (setFld s a hi lo v).ctxs = s.ctxs := rfl
@[simp] theorem setFld_ctxServed (s : State) (a hi lo v : Nat) : (setFld s a hi lo v).ctxServed = s.ctxServed := rfl
@[simp] theorem setFld_lanes (s : State) (a hi lo v : Nat) : (setFld s a hi lo v).lanes = s.lanes := rfl
@[simp] theorem setFld_stylusQ (s : State) (a hi lo v : Nat) : (setFld s a hi lo v).stylusQ = s.stylusQ := rfl
@[simp] theorem setFld_dispatchQ (s : State) (a hi lo v : Nat) : (setFld s a hi lo v).dispatchQ = s.dispatchQ := rfl
@[simp] theorem setFld_classNext (s : State) (a hi lo v : Nat) : (setFld s a hi lo v).classNext = s.classNext := rfl
@[simp] theorem setFld_slots (s : State) (a hi lo v : Nat) : (setFld s a hi lo v).slots = s.slots := rfl
@[simp] theorem setFld_holes (s : State) (a hi lo v : Nat) : (setFld s a hi lo v).holes = s.holes := rfl
@[simp] theorem setFld_slotOrder (s : State) (a hi lo v : Nat) : (setFld s a hi lo v).slotOrder = s.slotOrder := rfl
@[simp] theorem setFld_maxKey (s : State) (a hi lo v : Nat) : (setFld s a hi lo v).maxKey = s.maxKey := rfl
@[simp] theorem setFld_compl (s : State) (a hi lo v : Nat) : (setFld s a hi lo v).compl = s.compl := rfl
@[simp] theorem setFld_queues (s : State) (a hi lo v : Nat) : (setFld s a hi lo v).queues = s.queues := rfl
@[simp] theorem setFld_tokens (s : State) (a hi lo v : Nat) : (setFld s a hi lo v).tokens = s.tokens := rfl
@[simp] theorem setFld_shapers (s : State) (a hi lo v : Nat) : (setFld s a hi lo v).shapers = s.shapers := rfl
@[simp] theorem setFld_gateSkip (s : State) (a hi lo v : Nat) : (setFld s a hi lo v).gateSkip = s.gateSkip := rfl
@[simp] theorem setFld_xings (s : State) (a hi lo v : Nat) : (setFld s a hi lo v).xings = s.xings := rfl
@[simp] theorem setFld_extents (s : State) (a hi lo v : Nat) : (setFld s a hi lo v).extents = s.extents := rfl
@[simp] theorem setFld_lineTags (s : State) (a hi lo v : Nat) : (setFld s a hi lo v).lineTags = s.lineTags := rfl
@[simp] theorem setFld_frameOrder (s : State) (a hi lo v : Nat) : (setFld s a hi lo v).frameOrder = s.frameOrder := rfl
@[simp] theorem setFld_decisions (s : State) (a hi lo v : Nat) : (setFld s a hi lo v).decisions = s.decisions := rfl
@[simp] theorem setFld_decBatch (s : State) (a hi lo v : Nat) : (setFld s a hi lo v).decBatch = s.decBatch := rfl
@[simp] theorem setFld_accepts (s : State) (a hi lo v : Nat) : (setFld s a hi lo v).accepts = s.accepts := rfl
@[simp] theorem setFld_copy (s : State) (a hi lo v : Nat) : (setFld s a hi lo v).copy = s.copy := rfl
@[simp] theorem setFld_accOuts (s : State) (a hi lo v : Nat) : (setFld s a hi lo v).accOuts = s.accOuts := rfl
@[simp] theorem setFld_copybook (s : State) (a hi lo v : Nat) : (setFld s a hi lo v).copybook = s.copybook := rfl
@[simp] theorem setFld_ductus (s : State) (a hi lo v : Nat) : (setFld s a hi lo v).ductus = s.ductus := rfl
@[simp] theorem setFld_ink (s : State) (a hi lo v : Nat) : (setFld s a hi lo v).ink = s.ink := rfl
@[simp] theorem setFld_ddrs (s : State) (a hi lo v : Nat) : (setFld s a hi lo v).ddrs = s.ddrs := rfl
@[simp] theorem setFld_parts (s : State) (a hi lo v : Nat) : (setFld s a hi lo v).parts = s.parts := rfl
@[simp] theorem setFld_ports (s : State) (a hi lo v : Nat) : (setFld s a hi lo v).ports = s.ports := rfl
@[simp] theorem setFld_signet (s : State) (a hi lo v : Nat) : (setFld s a hi lo v).signet = s.signet := rfl
@[simp] theorem setFld_blotter (s : State) (a hi lo v : Nat) : (setFld s a hi lo v).blotter = s.blotter := rfl
@[simp] theorem setFld_mgt (s : State) (a hi lo v : Nat) : (setFld s a hi lo v).mgt = s.mgt := rfl
@[simp] theorem setFld_perf (s : State) (a hi lo v : Nat) : (setFld s a hi lo v).perf = s.perf := rfl
@[simp] theorem setFld_free (s : State) (a hi lo v : Nat) : (setFld s a hi lo v).free = s.free := rfl
@[simp] theorem setFld_writer (s : State) (a hi lo v : Nat) : (setFld s a hi lo v).writer = s.writer := rfl
@[simp] theorem setFld_resp (s : State) (a hi lo v : Nat) : (setFld s a hi lo v).resp = s.resp := rfl
@[simp] theorem setFld_out (s : State) (a hi lo v : Nat) : (setFld s a hi lo v).out = s.out := rfl

@[simp] theorem setFlag_pending (s : State) (a i : Nat) (b : Bool) : (setFlag s a i b).pending = s.pending := rfl
@[simp] theorem setFlag_mem (s : State) (a i : Nat) (b : Bool) : (setFlag s a i b).mem = s.mem := rfl
@[simp] theorem setFlag_badWords (s : State) (a i : Nat) (b : Bool) : (setFlag s a i b).badWords = s.badWords := rfl
@[simp] theorem setFlag_addrTags (s : State) (a i : Nat) (b : Bool) : (setFlag s a i b).addrTags = s.addrTags := rfl
@[simp] theorem setFlag_phase (s : State) (a i : Nat) (b : Bool) : (setFlag s a i b).phase = s.phase := rfl
@[simp] theorem setFlag_threads (s : State) (a i : Nat) (b : Bool) : (setFlag s a i b).threads = s.threads := rfl
@[simp] theorem setFlag_nibs (s : State) (a i : Nat) (b : Bool) : (setFlag s a i b).nibs = s.nibs := rfl
@[simp] theorem setFlag_chans (s : State) (a i : Nat) (b : Bool) : (setFlag s a i b).chans = s.chans := rfl
@[simp] theorem setFlag_sends (s : State) (a i : Nat) (b : Bool) : (setFlag s a i b).sends = s.sends := rfl
@[simp] theorem setFlag_locks (s : State) (a i : Nat) (b : Bool) : (setFlag s a i b).locks = s.locks := rfl
@[simp] theorem setFlag_ctxs (s : State) (a i : Nat) (b : Bool) : (setFlag s a i b).ctxs = s.ctxs := rfl
@[simp] theorem setFlag_ctxServed (s : State) (a i : Nat) (b : Bool) : (setFlag s a i b).ctxServed = s.ctxServed := rfl
@[simp] theorem setFlag_lanes (s : State) (a i : Nat) (b : Bool) : (setFlag s a i b).lanes = s.lanes := rfl
@[simp] theorem setFlag_stylusQ (s : State) (a i : Nat) (b : Bool) : (setFlag s a i b).stylusQ = s.stylusQ := rfl
@[simp] theorem setFlag_dispatchQ (s : State) (a i : Nat) (b : Bool) : (setFlag s a i b).dispatchQ = s.dispatchQ := rfl
@[simp] theorem setFlag_classNext (s : State) (a i : Nat) (b : Bool) : (setFlag s a i b).classNext = s.classNext := rfl
@[simp] theorem setFlag_slots (s : State) (a i : Nat) (b : Bool) : (setFlag s a i b).slots = s.slots := rfl
@[simp] theorem setFlag_holes (s : State) (a i : Nat) (b : Bool) : (setFlag s a i b).holes = s.holes := rfl
@[simp] theorem setFlag_slotOrder (s : State) (a i : Nat) (b : Bool) : (setFlag s a i b).slotOrder = s.slotOrder := rfl
@[simp] theorem setFlag_maxKey (s : State) (a i : Nat) (b : Bool) : (setFlag s a i b).maxKey = s.maxKey := rfl
@[simp] theorem setFlag_compl (s : State) (a i : Nat) (b : Bool) : (setFlag s a i b).compl = s.compl := rfl
@[simp] theorem setFlag_queues (s : State) (a i : Nat) (b : Bool) : (setFlag s a i b).queues = s.queues := rfl
@[simp] theorem setFlag_tokens (s : State) (a i : Nat) (b : Bool) : (setFlag s a i b).tokens = s.tokens := rfl
@[simp] theorem setFlag_shapers (s : State) (a i : Nat) (b : Bool) : (setFlag s a i b).shapers = s.shapers := rfl
@[simp] theorem setFlag_gateSkip (s : State) (a i : Nat) (b : Bool) : (setFlag s a i b).gateSkip = s.gateSkip := rfl
@[simp] theorem setFlag_xings (s : State) (a i : Nat) (b : Bool) : (setFlag s a i b).xings = s.xings := rfl
@[simp] theorem setFlag_extents (s : State) (a i : Nat) (b : Bool) : (setFlag s a i b).extents = s.extents := rfl
@[simp] theorem setFlag_lineTags (s : State) (a i : Nat) (b : Bool) : (setFlag s a i b).lineTags = s.lineTags := rfl
@[simp] theorem setFlag_frameOrder (s : State) (a i : Nat) (b : Bool) : (setFlag s a i b).frameOrder = s.frameOrder := rfl
@[simp] theorem setFlag_decisions (s : State) (a i : Nat) (b : Bool) : (setFlag s a i b).decisions = s.decisions := rfl
@[simp] theorem setFlag_decBatch (s : State) (a i : Nat) (b : Bool) : (setFlag s a i b).decBatch = s.decBatch := rfl
@[simp] theorem setFlag_accepts (s : State) (a i : Nat) (b : Bool) : (setFlag s a i b).accepts = s.accepts := rfl
@[simp] theorem setFlag_copy (s : State) (a i : Nat) (b : Bool) : (setFlag s a i b).copy = s.copy := rfl
@[simp] theorem setFlag_accOuts (s : State) (a i : Nat) (b : Bool) : (setFlag s a i b).accOuts = s.accOuts := rfl
@[simp] theorem setFlag_copybook (s : State) (a i : Nat) (b : Bool) : (setFlag s a i b).copybook = s.copybook := rfl
@[simp] theorem setFlag_ductus (s : State) (a i : Nat) (b : Bool) : (setFlag s a i b).ductus = s.ductus := rfl
@[simp] theorem setFlag_ink (s : State) (a i : Nat) (b : Bool) : (setFlag s a i b).ink = s.ink := rfl
@[simp] theorem setFlag_ddrs (s : State) (a i : Nat) (b : Bool) : (setFlag s a i b).ddrs = s.ddrs := rfl
@[simp] theorem setFlag_parts (s : State) (a i : Nat) (b : Bool) : (setFlag s a i b).parts = s.parts := rfl
@[simp] theorem setFlag_ports (s : State) (a i : Nat) (b : Bool) : (setFlag s a i b).ports = s.ports := rfl
@[simp] theorem setFlag_signet (s : State) (a i : Nat) (b : Bool) : (setFlag s a i b).signet = s.signet := rfl
@[simp] theorem setFlag_blotter (s : State) (a i : Nat) (b : Bool) : (setFlag s a i b).blotter = s.blotter := rfl
@[simp] theorem setFlag_mgt (s : State) (a i : Nat) (b : Bool) : (setFlag s a i b).mgt = s.mgt := rfl
@[simp] theorem setFlag_perf (s : State) (a i : Nat) (b : Bool) : (setFlag s a i b).perf = s.perf := rfl
@[simp] theorem setFlag_free (s : State) (a i : Nat) (b : Bool) : (setFlag s a i b).free = s.free := rfl
@[simp] theorem setFlag_writer (s : State) (a i : Nat) (b : Bool) : (setFlag s a i b).writer = s.writer := rfl
@[simp] theorem setFlag_resp (s : State) (a i : Nat) (b : Bool) : (setFlag s a i b).resp = s.resp := rfl
@[simp] theorem setFlag_out (s : State) (a i : Nat) (b : Bool) : (setFlag s a i b).out = s.out := rfl

@[simp] theorem countN_pending (s : State) (a n : Nat) : (countN s a n).pending = s.pending := rfl
@[simp] theorem countN_mem (s : State) (a n : Nat) : (countN s a n).mem = s.mem := rfl
@[simp] theorem countN_badWords (s : State) (a n : Nat) : (countN s a n).badWords = s.badWords := rfl
@[simp] theorem countN_addrTags (s : State) (a n : Nat) : (countN s a n).addrTags = s.addrTags := rfl
@[simp] theorem countN_phase (s : State) (a n : Nat) : (countN s a n).phase = s.phase := rfl
@[simp] theorem countN_threads (s : State) (a n : Nat) : (countN s a n).threads = s.threads := rfl
@[simp] theorem countN_nibs (s : State) (a n : Nat) : (countN s a n).nibs = s.nibs := rfl
@[simp] theorem countN_chans (s : State) (a n : Nat) : (countN s a n).chans = s.chans := rfl
@[simp] theorem countN_sends (s : State) (a n : Nat) : (countN s a n).sends = s.sends := rfl
@[simp] theorem countN_locks (s : State) (a n : Nat) : (countN s a n).locks = s.locks := rfl
@[simp] theorem countN_ctxs (s : State) (a n : Nat) : (countN s a n).ctxs = s.ctxs := rfl
@[simp] theorem countN_ctxServed (s : State) (a n : Nat) : (countN s a n).ctxServed = s.ctxServed := rfl
@[simp] theorem countN_lanes (s : State) (a n : Nat) : (countN s a n).lanes = s.lanes := rfl
@[simp] theorem countN_stylusQ (s : State) (a n : Nat) : (countN s a n).stylusQ = s.stylusQ := rfl
@[simp] theorem countN_dispatchQ (s : State) (a n : Nat) : (countN s a n).dispatchQ = s.dispatchQ := rfl
@[simp] theorem countN_classNext (s : State) (a n : Nat) : (countN s a n).classNext = s.classNext := rfl
@[simp] theorem countN_slots (s : State) (a n : Nat) : (countN s a n).slots = s.slots := rfl
@[simp] theorem countN_holes (s : State) (a n : Nat) : (countN s a n).holes = s.holes := rfl
@[simp] theorem countN_slotOrder (s : State) (a n : Nat) : (countN s a n).slotOrder = s.slotOrder := rfl
@[simp] theorem countN_maxKey (s : State) (a n : Nat) : (countN s a n).maxKey = s.maxKey := rfl
@[simp] theorem countN_compl (s : State) (a n : Nat) : (countN s a n).compl = s.compl := rfl
@[simp] theorem countN_queues (s : State) (a n : Nat) : (countN s a n).queues = s.queues := rfl
@[simp] theorem countN_tokens (s : State) (a n : Nat) : (countN s a n).tokens = s.tokens := rfl
@[simp] theorem countN_shapers (s : State) (a n : Nat) : (countN s a n).shapers = s.shapers := rfl
@[simp] theorem countN_gateSkip (s : State) (a n : Nat) : (countN s a n).gateSkip = s.gateSkip := rfl
@[simp] theorem countN_xings (s : State) (a n : Nat) : (countN s a n).xings = s.xings := rfl
@[simp] theorem countN_extents (s : State) (a n : Nat) : (countN s a n).extents = s.extents := rfl
@[simp] theorem countN_lineTags (s : State) (a n : Nat) : (countN s a n).lineTags = s.lineTags := rfl
@[simp] theorem countN_frameOrder (s : State) (a n : Nat) : (countN s a n).frameOrder = s.frameOrder := rfl
@[simp] theorem countN_decisions (s : State) (a n : Nat) : (countN s a n).decisions = s.decisions := rfl
@[simp] theorem countN_decBatch (s : State) (a n : Nat) : (countN s a n).decBatch = s.decBatch := rfl
@[simp] theorem countN_accepts (s : State) (a n : Nat) : (countN s a n).accepts = s.accepts := rfl
@[simp] theorem countN_copy (s : State) (a n : Nat) : (countN s a n).copy = s.copy := rfl
@[simp] theorem countN_accOuts (s : State) (a n : Nat) : (countN s a n).accOuts = s.accOuts := rfl
@[simp] theorem countN_copybook (s : State) (a n : Nat) : (countN s a n).copybook = s.copybook := rfl
@[simp] theorem countN_ductus (s : State) (a n : Nat) : (countN s a n).ductus = s.ductus := rfl
@[simp] theorem countN_ink (s : State) (a n : Nat) : (countN s a n).ink = s.ink := rfl
@[simp] theorem countN_ddrs (s : State) (a n : Nat) : (countN s a n).ddrs = s.ddrs := rfl
@[simp] theorem countN_parts (s : State) (a n : Nat) : (countN s a n).parts = s.parts := rfl
@[simp] theorem countN_ports (s : State) (a n : Nat) : (countN s a n).ports = s.ports := rfl
@[simp] theorem countN_signet (s : State) (a n : Nat) : (countN s a n).signet = s.signet := rfl
@[simp] theorem countN_blotter (s : State) (a n : Nat) : (countN s a n).blotter = s.blotter := rfl
@[simp] theorem countN_mgt (s : State) (a n : Nat) : (countN s a n).mgt = s.mgt := rfl
@[simp] theorem countN_perf (s : State) (a n : Nat) : (countN s a n).perf = s.perf := rfl
@[simp] theorem countN_free (s : State) (a n : Nat) : (countN s a n).free = s.free := rfl
@[simp] theorem countN_writer (s : State) (a n : Nat) : (countN s a n).writer = s.writer := rfl
@[simp] theorem countN_resp (s : State) (a n : Nat) : (countN s a n).resp = s.resp := rfl
@[simp] theorem countN_out (s : State) (a n : Nat) : (countN s a n).out = s.out := rfl

@[simp] theorem count_pending (s : State) (a : Nat) : (count s a).pending = s.pending := rfl
@[simp] theorem count_mem (s : State) (a : Nat) : (count s a).mem = s.mem := rfl
@[simp] theorem count_badWords (s : State) (a : Nat) : (count s a).badWords = s.badWords := rfl
@[simp] theorem count_addrTags (s : State) (a : Nat) : (count s a).addrTags = s.addrTags := rfl
@[simp] theorem count_phase (s : State) (a : Nat) : (count s a).phase = s.phase := rfl
@[simp] theorem count_threads (s : State) (a : Nat) : (count s a).threads = s.threads := rfl
@[simp] theorem count_nibs (s : State) (a : Nat) : (count s a).nibs = s.nibs := rfl
@[simp] theorem count_chans (s : State) (a : Nat) : (count s a).chans = s.chans := rfl
@[simp] theorem count_sends (s : State) (a : Nat) : (count s a).sends = s.sends := rfl
@[simp] theorem count_locks (s : State) (a : Nat) : (count s a).locks = s.locks := rfl
@[simp] theorem count_ctxs (s : State) (a : Nat) : (count s a).ctxs = s.ctxs := rfl
@[simp] theorem count_ctxServed (s : State) (a : Nat) : (count s a).ctxServed = s.ctxServed := rfl
@[simp] theorem count_lanes (s : State) (a : Nat) : (count s a).lanes = s.lanes := rfl
@[simp] theorem count_stylusQ (s : State) (a : Nat) : (count s a).stylusQ = s.stylusQ := rfl
@[simp] theorem count_dispatchQ (s : State) (a : Nat) : (count s a).dispatchQ = s.dispatchQ := rfl
@[simp] theorem count_classNext (s : State) (a : Nat) : (count s a).classNext = s.classNext := rfl
@[simp] theorem count_slots (s : State) (a : Nat) : (count s a).slots = s.slots := rfl
@[simp] theorem count_holes (s : State) (a : Nat) : (count s a).holes = s.holes := rfl
@[simp] theorem count_slotOrder (s : State) (a : Nat) : (count s a).slotOrder = s.slotOrder := rfl
@[simp] theorem count_maxKey (s : State) (a : Nat) : (count s a).maxKey = s.maxKey := rfl
@[simp] theorem count_compl (s : State) (a : Nat) : (count s a).compl = s.compl := rfl
@[simp] theorem count_queues (s : State) (a : Nat) : (count s a).queues = s.queues := rfl
@[simp] theorem count_tokens (s : State) (a : Nat) : (count s a).tokens = s.tokens := rfl
@[simp] theorem count_shapers (s : State) (a : Nat) : (count s a).shapers = s.shapers := rfl
@[simp] theorem count_gateSkip (s : State) (a : Nat) : (count s a).gateSkip = s.gateSkip := rfl
@[simp] theorem count_xings (s : State) (a : Nat) : (count s a).xings = s.xings := rfl
@[simp] theorem count_extents (s : State) (a : Nat) : (count s a).extents = s.extents := rfl
@[simp] theorem count_lineTags (s : State) (a : Nat) : (count s a).lineTags = s.lineTags := rfl
@[simp] theorem count_frameOrder (s : State) (a : Nat) : (count s a).frameOrder = s.frameOrder := rfl
@[simp] theorem count_decisions (s : State) (a : Nat) : (count s a).decisions = s.decisions := rfl
@[simp] theorem count_decBatch (s : State) (a : Nat) : (count s a).decBatch = s.decBatch := rfl
@[simp] theorem count_accepts (s : State) (a : Nat) : (count s a).accepts = s.accepts := rfl
@[simp] theorem count_copy (s : State) (a : Nat) : (count s a).copy = s.copy := rfl
@[simp] theorem count_accOuts (s : State) (a : Nat) : (count s a).accOuts = s.accOuts := rfl
@[simp] theorem count_copybook (s : State) (a : Nat) : (count s a).copybook = s.copybook := rfl
@[simp] theorem count_ductus (s : State) (a : Nat) : (count s a).ductus = s.ductus := rfl
@[simp] theorem count_ink (s : State) (a : Nat) : (count s a).ink = s.ink := rfl
@[simp] theorem count_ddrs (s : State) (a : Nat) : (count s a).ddrs = s.ddrs := rfl
@[simp] theorem count_parts (s : State) (a : Nat) : (count s a).parts = s.parts := rfl
@[simp] theorem count_ports (s : State) (a : Nat) : (count s a).ports = s.ports := rfl
@[simp] theorem count_signet (s : State) (a : Nat) : (count s a).signet = s.signet := rfl
@[simp] theorem count_blotter (s : State) (a : Nat) : (count s a).blotter = s.blotter := rfl
@[simp] theorem count_mgt (s : State) (a : Nat) : (count s a).mgt = s.mgt := rfl
@[simp] theorem count_perf (s : State) (a : Nat) : (count s a).perf = s.perf := rfl
@[simp] theorem count_free (s : State) (a : Nat) : (count s a).free = s.free := rfl
@[simp] theorem count_writer (s : State) (a : Nat) : (count s a).writer = s.writer := rfl
@[simp] theorem count_resp (s : State) (a : Nat) : (count s a).resp = s.resp := rfl
@[simp] theorem count_out (s : State) (a : Nat) : (count s a).out = s.out := rfl

@[simp] theorem countFld_pending (s : State) (a hi lo : Nat) : (countFld s a hi lo).pending = s.pending := rfl
@[simp] theorem countFld_mem (s : State) (a hi lo : Nat) : (countFld s a hi lo).mem = s.mem := rfl
@[simp] theorem countFld_badWords (s : State) (a hi lo : Nat) : (countFld s a hi lo).badWords = s.badWords := rfl
@[simp] theorem countFld_addrTags (s : State) (a hi lo : Nat) : (countFld s a hi lo).addrTags = s.addrTags := rfl
@[simp] theorem countFld_phase (s : State) (a hi lo : Nat) : (countFld s a hi lo).phase = s.phase := rfl
@[simp] theorem countFld_threads (s : State) (a hi lo : Nat) : (countFld s a hi lo).threads = s.threads := rfl
@[simp] theorem countFld_nibs (s : State) (a hi lo : Nat) : (countFld s a hi lo).nibs = s.nibs := rfl
@[simp] theorem countFld_chans (s : State) (a hi lo : Nat) : (countFld s a hi lo).chans = s.chans := rfl
@[simp] theorem countFld_sends (s : State) (a hi lo : Nat) : (countFld s a hi lo).sends = s.sends := rfl
@[simp] theorem countFld_locks (s : State) (a hi lo : Nat) : (countFld s a hi lo).locks = s.locks := rfl
@[simp] theorem countFld_ctxs (s : State) (a hi lo : Nat) : (countFld s a hi lo).ctxs = s.ctxs := rfl
@[simp] theorem countFld_ctxServed (s : State) (a hi lo : Nat) : (countFld s a hi lo).ctxServed = s.ctxServed := rfl
@[simp] theorem countFld_lanes (s : State) (a hi lo : Nat) : (countFld s a hi lo).lanes = s.lanes := rfl
@[simp] theorem countFld_stylusQ (s : State) (a hi lo : Nat) : (countFld s a hi lo).stylusQ = s.stylusQ := rfl
@[simp] theorem countFld_dispatchQ (s : State) (a hi lo : Nat) : (countFld s a hi lo).dispatchQ = s.dispatchQ := rfl
@[simp] theorem countFld_classNext (s : State) (a hi lo : Nat) : (countFld s a hi lo).classNext = s.classNext := rfl
@[simp] theorem countFld_slots (s : State) (a hi lo : Nat) : (countFld s a hi lo).slots = s.slots := rfl
@[simp] theorem countFld_holes (s : State) (a hi lo : Nat) : (countFld s a hi lo).holes = s.holes := rfl
@[simp] theorem countFld_slotOrder (s : State) (a hi lo : Nat) : (countFld s a hi lo).slotOrder = s.slotOrder := rfl
@[simp] theorem countFld_maxKey (s : State) (a hi lo : Nat) : (countFld s a hi lo).maxKey = s.maxKey := rfl
@[simp] theorem countFld_compl (s : State) (a hi lo : Nat) : (countFld s a hi lo).compl = s.compl := rfl
@[simp] theorem countFld_queues (s : State) (a hi lo : Nat) : (countFld s a hi lo).queues = s.queues := rfl
@[simp] theorem countFld_tokens (s : State) (a hi lo : Nat) : (countFld s a hi lo).tokens = s.tokens := rfl
@[simp] theorem countFld_shapers (s : State) (a hi lo : Nat) : (countFld s a hi lo).shapers = s.shapers := rfl
@[simp] theorem countFld_gateSkip (s : State) (a hi lo : Nat) : (countFld s a hi lo).gateSkip = s.gateSkip := rfl
@[simp] theorem countFld_xings (s : State) (a hi lo : Nat) : (countFld s a hi lo).xings = s.xings := rfl
@[simp] theorem countFld_extents (s : State) (a hi lo : Nat) : (countFld s a hi lo).extents = s.extents := rfl
@[simp] theorem countFld_lineTags (s : State) (a hi lo : Nat) : (countFld s a hi lo).lineTags = s.lineTags := rfl
@[simp] theorem countFld_frameOrder (s : State) (a hi lo : Nat) : (countFld s a hi lo).frameOrder = s.frameOrder := rfl
@[simp] theorem countFld_decisions (s : State) (a hi lo : Nat) : (countFld s a hi lo).decisions = s.decisions := rfl
@[simp] theorem countFld_decBatch (s : State) (a hi lo : Nat) : (countFld s a hi lo).decBatch = s.decBatch := rfl
@[simp] theorem countFld_accepts (s : State) (a hi lo : Nat) : (countFld s a hi lo).accepts = s.accepts := rfl
@[simp] theorem countFld_copy (s : State) (a hi lo : Nat) : (countFld s a hi lo).copy = s.copy := rfl
@[simp] theorem countFld_accOuts (s : State) (a hi lo : Nat) : (countFld s a hi lo).accOuts = s.accOuts := rfl
@[simp] theorem countFld_copybook (s : State) (a hi lo : Nat) : (countFld s a hi lo).copybook = s.copybook := rfl
@[simp] theorem countFld_ductus (s : State) (a hi lo : Nat) : (countFld s a hi lo).ductus = s.ductus := rfl
@[simp] theorem countFld_ink (s : State) (a hi lo : Nat) : (countFld s a hi lo).ink = s.ink := rfl
@[simp] theorem countFld_ddrs (s : State) (a hi lo : Nat) : (countFld s a hi lo).ddrs = s.ddrs := rfl
@[simp] theorem countFld_parts (s : State) (a hi lo : Nat) : (countFld s a hi lo).parts = s.parts := rfl
@[simp] theorem countFld_ports (s : State) (a hi lo : Nat) : (countFld s a hi lo).ports = s.ports := rfl
@[simp] theorem countFld_signet (s : State) (a hi lo : Nat) : (countFld s a hi lo).signet = s.signet := rfl
@[simp] theorem countFld_blotter (s : State) (a hi lo : Nat) : (countFld s a hi lo).blotter = s.blotter := rfl
@[simp] theorem countFld_mgt (s : State) (a hi lo : Nat) : (countFld s a hi lo).mgt = s.mgt := rfl
@[simp] theorem countFld_perf (s : State) (a hi lo : Nat) : (countFld s a hi lo).perf = s.perf := rfl
@[simp] theorem countFld_free (s : State) (a hi lo : Nat) : (countFld s a hi lo).free = s.free := rfl
@[simp] theorem countFld_writer (s : State) (a hi lo : Nat) : (countFld s a hi lo).writer = s.writer := rfl
@[simp] theorem countFld_resp (s : State) (a hi lo : Nat) : (countFld s a hi lo).resp = s.resp := rfl
@[simp] theorem countFld_out (s : State) (a hi lo : Nat) : (countFld s a hi lo).out = s.out := rfl

@[simp] theorem countSat_pending (s : State) (a hi lo : Nat) : (countSat s a hi lo).pending = s.pending := rfl
@[simp] theorem countSat_mem (s : State) (a hi lo : Nat) : (countSat s a hi lo).mem = s.mem := rfl
@[simp] theorem countSat_badWords (s : State) (a hi lo : Nat) : (countSat s a hi lo).badWords = s.badWords := rfl
@[simp] theorem countSat_addrTags (s : State) (a hi lo : Nat) : (countSat s a hi lo).addrTags = s.addrTags := rfl
@[simp] theorem countSat_phase (s : State) (a hi lo : Nat) : (countSat s a hi lo).phase = s.phase := rfl
@[simp] theorem countSat_threads (s : State) (a hi lo : Nat) : (countSat s a hi lo).threads = s.threads := rfl
@[simp] theorem countSat_nibs (s : State) (a hi lo : Nat) : (countSat s a hi lo).nibs = s.nibs := rfl
@[simp] theorem countSat_chans (s : State) (a hi lo : Nat) : (countSat s a hi lo).chans = s.chans := rfl
@[simp] theorem countSat_sends (s : State) (a hi lo : Nat) : (countSat s a hi lo).sends = s.sends := rfl
@[simp] theorem countSat_locks (s : State) (a hi lo : Nat) : (countSat s a hi lo).locks = s.locks := rfl
@[simp] theorem countSat_ctxs (s : State) (a hi lo : Nat) : (countSat s a hi lo).ctxs = s.ctxs := rfl
@[simp] theorem countSat_ctxServed (s : State) (a hi lo : Nat) : (countSat s a hi lo).ctxServed = s.ctxServed := rfl
@[simp] theorem countSat_lanes (s : State) (a hi lo : Nat) : (countSat s a hi lo).lanes = s.lanes := rfl
@[simp] theorem countSat_stylusQ (s : State) (a hi lo : Nat) : (countSat s a hi lo).stylusQ = s.stylusQ := rfl
@[simp] theorem countSat_dispatchQ (s : State) (a hi lo : Nat) : (countSat s a hi lo).dispatchQ = s.dispatchQ := rfl
@[simp] theorem countSat_classNext (s : State) (a hi lo : Nat) : (countSat s a hi lo).classNext = s.classNext := rfl
@[simp] theorem countSat_slots (s : State) (a hi lo : Nat) : (countSat s a hi lo).slots = s.slots := rfl
@[simp] theorem countSat_holes (s : State) (a hi lo : Nat) : (countSat s a hi lo).holes = s.holes := rfl
@[simp] theorem countSat_slotOrder (s : State) (a hi lo : Nat) : (countSat s a hi lo).slotOrder = s.slotOrder := rfl
@[simp] theorem countSat_maxKey (s : State) (a hi lo : Nat) : (countSat s a hi lo).maxKey = s.maxKey := rfl
@[simp] theorem countSat_compl (s : State) (a hi lo : Nat) : (countSat s a hi lo).compl = s.compl := rfl
@[simp] theorem countSat_queues (s : State) (a hi lo : Nat) : (countSat s a hi lo).queues = s.queues := rfl
@[simp] theorem countSat_tokens (s : State) (a hi lo : Nat) : (countSat s a hi lo).tokens = s.tokens := rfl
@[simp] theorem countSat_shapers (s : State) (a hi lo : Nat) : (countSat s a hi lo).shapers = s.shapers := rfl
@[simp] theorem countSat_gateSkip (s : State) (a hi lo : Nat) : (countSat s a hi lo).gateSkip = s.gateSkip := rfl
@[simp] theorem countSat_xings (s : State) (a hi lo : Nat) : (countSat s a hi lo).xings = s.xings := rfl
@[simp] theorem countSat_extents (s : State) (a hi lo : Nat) : (countSat s a hi lo).extents = s.extents := rfl
@[simp] theorem countSat_lineTags (s : State) (a hi lo : Nat) : (countSat s a hi lo).lineTags = s.lineTags := rfl
@[simp] theorem countSat_frameOrder (s : State) (a hi lo : Nat) : (countSat s a hi lo).frameOrder = s.frameOrder := rfl
@[simp] theorem countSat_decisions (s : State) (a hi lo : Nat) : (countSat s a hi lo).decisions = s.decisions := rfl
@[simp] theorem countSat_decBatch (s : State) (a hi lo : Nat) : (countSat s a hi lo).decBatch = s.decBatch := rfl
@[simp] theorem countSat_accepts (s : State) (a hi lo : Nat) : (countSat s a hi lo).accepts = s.accepts := rfl
@[simp] theorem countSat_copy (s : State) (a hi lo : Nat) : (countSat s a hi lo).copy = s.copy := rfl
@[simp] theorem countSat_accOuts (s : State) (a hi lo : Nat) : (countSat s a hi lo).accOuts = s.accOuts := rfl
@[simp] theorem countSat_copybook (s : State) (a hi lo : Nat) : (countSat s a hi lo).copybook = s.copybook := rfl
@[simp] theorem countSat_ductus (s : State) (a hi lo : Nat) : (countSat s a hi lo).ductus = s.ductus := rfl
@[simp] theorem countSat_ink (s : State) (a hi lo : Nat) : (countSat s a hi lo).ink = s.ink := rfl
@[simp] theorem countSat_ddrs (s : State) (a hi lo : Nat) : (countSat s a hi lo).ddrs = s.ddrs := rfl
@[simp] theorem countSat_parts (s : State) (a hi lo : Nat) : (countSat s a hi lo).parts = s.parts := rfl
@[simp] theorem countSat_ports (s : State) (a hi lo : Nat) : (countSat s a hi lo).ports = s.ports := rfl
@[simp] theorem countSat_signet (s : State) (a hi lo : Nat) : (countSat s a hi lo).signet = s.signet := rfl
@[simp] theorem countSat_blotter (s : State) (a hi lo : Nat) : (countSat s a hi lo).blotter = s.blotter := rfl
@[simp] theorem countSat_mgt (s : State) (a hi lo : Nat) : (countSat s a hi lo).mgt = s.mgt := rfl
@[simp] theorem countSat_perf (s : State) (a hi lo : Nat) : (countSat s a hi lo).perf = s.perf := rfl
@[simp] theorem countSat_free (s : State) (a hi lo : Nat) : (countSat s a hi lo).free = s.free := rfl
@[simp] theorem countSat_writer (s : State) (a hi lo : Nat) : (countSat s a hi lo).writer = s.writer := rfl
@[simp] theorem countSat_resp (s : State) (a hi lo : Nat) : (countSat s a hi lo).resp = s.resp := rfl
@[simp] theorem countSat_out (s : State) (a hi lo : Nat) : (countSat s a hi lo).out = s.out := rfl

@[simp] theorem plainWrite_pending (s : State) (a : Nat) (v : Word) : (plainWrite s a v).pending = s.pending := rfl
@[simp] theorem plainWrite_mem (s : State) (a : Nat) (v : Word) : (plainWrite s a v).mem = s.mem := rfl
@[simp] theorem plainWrite_badWords (s : State) (a : Nat) (v : Word) : (plainWrite s a v).badWords = s.badWords := rfl
@[simp] theorem plainWrite_addrTags (s : State) (a : Nat) (v : Word) : (plainWrite s a v).addrTags = s.addrTags := rfl
@[simp] theorem plainWrite_phase (s : State) (a : Nat) (v : Word) : (plainWrite s a v).phase = s.phase := rfl
@[simp] theorem plainWrite_threads (s : State) (a : Nat) (v : Word) : (plainWrite s a v).threads = s.threads := rfl
@[simp] theorem plainWrite_nibs (s : State) (a : Nat) (v : Word) : (plainWrite s a v).nibs = s.nibs := rfl
@[simp] theorem plainWrite_chans (s : State) (a : Nat) (v : Word) : (plainWrite s a v).chans = s.chans := rfl
@[simp] theorem plainWrite_sends (s : State) (a : Nat) (v : Word) : (plainWrite s a v).sends = s.sends := rfl
@[simp] theorem plainWrite_locks (s : State) (a : Nat) (v : Word) : (plainWrite s a v).locks = s.locks := rfl
@[simp] theorem plainWrite_ctxs (s : State) (a : Nat) (v : Word) : (plainWrite s a v).ctxs = s.ctxs := rfl
@[simp] theorem plainWrite_ctxServed (s : State) (a : Nat) (v : Word) : (plainWrite s a v).ctxServed = s.ctxServed := rfl
@[simp] theorem plainWrite_lanes (s : State) (a : Nat) (v : Word) : (plainWrite s a v).lanes = s.lanes := rfl
@[simp] theorem plainWrite_stylusQ (s : State) (a : Nat) (v : Word) : (plainWrite s a v).stylusQ = s.stylusQ := rfl
@[simp] theorem plainWrite_dispatchQ (s : State) (a : Nat) (v : Word) : (plainWrite s a v).dispatchQ = s.dispatchQ := rfl
@[simp] theorem plainWrite_classNext (s : State) (a : Nat) (v : Word) : (plainWrite s a v).classNext = s.classNext := rfl
@[simp] theorem plainWrite_slots (s : State) (a : Nat) (v : Word) : (plainWrite s a v).slots = s.slots := rfl
@[simp] theorem plainWrite_holes (s : State) (a : Nat) (v : Word) : (plainWrite s a v).holes = s.holes := rfl
@[simp] theorem plainWrite_slotOrder (s : State) (a : Nat) (v : Word) : (plainWrite s a v).slotOrder = s.slotOrder := rfl
@[simp] theorem plainWrite_maxKey (s : State) (a : Nat) (v : Word) : (plainWrite s a v).maxKey = s.maxKey := rfl
@[simp] theorem plainWrite_compl (s : State) (a : Nat) (v : Word) : (plainWrite s a v).compl = s.compl := rfl
@[simp] theorem plainWrite_queues (s : State) (a : Nat) (v : Word) : (plainWrite s a v).queues = s.queues := rfl
@[simp] theorem plainWrite_tokens (s : State) (a : Nat) (v : Word) : (plainWrite s a v).tokens = s.tokens := rfl
@[simp] theorem plainWrite_shapers (s : State) (a : Nat) (v : Word) : (plainWrite s a v).shapers = s.shapers := rfl
@[simp] theorem plainWrite_gateSkip (s : State) (a : Nat) (v : Word) : (plainWrite s a v).gateSkip = s.gateSkip := rfl
@[simp] theorem plainWrite_xings (s : State) (a : Nat) (v : Word) : (plainWrite s a v).xings = s.xings := rfl
@[simp] theorem plainWrite_extents (s : State) (a : Nat) (v : Word) : (plainWrite s a v).extents = s.extents := rfl
@[simp] theorem plainWrite_lineTags (s : State) (a : Nat) (v : Word) : (plainWrite s a v).lineTags = s.lineTags := rfl
@[simp] theorem plainWrite_frameOrder (s : State) (a : Nat) (v : Word) : (plainWrite s a v).frameOrder = s.frameOrder := rfl
@[simp] theorem plainWrite_decisions (s : State) (a : Nat) (v : Word) : (plainWrite s a v).decisions = s.decisions := rfl
@[simp] theorem plainWrite_decBatch (s : State) (a : Nat) (v : Word) : (plainWrite s a v).decBatch = s.decBatch := rfl
@[simp] theorem plainWrite_accepts (s : State) (a : Nat) (v : Word) : (plainWrite s a v).accepts = s.accepts := rfl
@[simp] theorem plainWrite_copy (s : State) (a : Nat) (v : Word) : (plainWrite s a v).copy = s.copy := rfl
@[simp] theorem plainWrite_accOuts (s : State) (a : Nat) (v : Word) : (plainWrite s a v).accOuts = s.accOuts := rfl
@[simp] theorem plainWrite_copybook (s : State) (a : Nat) (v : Word) : (plainWrite s a v).copybook = s.copybook := rfl
@[simp] theorem plainWrite_ductus (s : State) (a : Nat) (v : Word) : (plainWrite s a v).ductus = s.ductus := rfl
@[simp] theorem plainWrite_ink (s : State) (a : Nat) (v : Word) : (plainWrite s a v).ink = s.ink := rfl
@[simp] theorem plainWrite_ddrs (s : State) (a : Nat) (v : Word) : (plainWrite s a v).ddrs = s.ddrs := rfl
@[simp] theorem plainWrite_parts (s : State) (a : Nat) (v : Word) : (plainWrite s a v).parts = s.parts := rfl
@[simp] theorem plainWrite_ports (s : State) (a : Nat) (v : Word) : (plainWrite s a v).ports = s.ports := rfl
@[simp] theorem plainWrite_signet (s : State) (a : Nat) (v : Word) : (plainWrite s a v).signet = s.signet := rfl
@[simp] theorem plainWrite_blotter (s : State) (a : Nat) (v : Word) : (plainWrite s a v).blotter = s.blotter := rfl
@[simp] theorem plainWrite_mgt (s : State) (a : Nat) (v : Word) : (plainWrite s a v).mgt = s.mgt := rfl
@[simp] theorem plainWrite_perf (s : State) (a : Nat) (v : Word) : (plainWrite s a v).perf = s.perf := rfl
@[simp] theorem plainWrite_free (s : State) (a : Nat) (v : Word) : (plainWrite s a v).free = s.free := rfl
@[simp] theorem plainWrite_writer (s : State) (a : Nat) (v : Word) : (plainWrite s a v).writer = s.writer := rfl
@[simp] theorem plainWrite_resp (s : State) (a : Nat) (v : Word) : (plainWrite s a v).resp = s.resp := rfl
@[simp] theorem plainWrite_out (s : State) (a : Nat) (v : Word) : (plainWrite s a v).out = s.out := rfl

@[simp] theorem setThread_pending (s : State) (t : Nat) (v : Thread) : (setThread s t v).pending = s.pending := rfl
@[simp] theorem setThread_regs (s : State) (t : Nat) (v : Thread) : (setThread s t v).regs = s.regs := rfl
@[simp] theorem setThread_mem (s : State) (t : Nat) (v : Thread) : (setThread s t v).mem = s.mem := rfl
@[simp] theorem setThread_badWords (s : State) (t : Nat) (v : Thread) : (setThread s t v).badWords = s.badWords := rfl
@[simp] theorem setThread_addrTags (s : State) (t : Nat) (v : Thread) : (setThread s t v).addrTags = s.addrTags := rfl
@[simp] theorem setThread_phase (s : State) (t : Nat) (v : Thread) : (setThread s t v).phase = s.phase := rfl
@[simp] theorem setThread_nibs (s : State) (t : Nat) (v : Thread) : (setThread s t v).nibs = s.nibs := rfl
@[simp] theorem setThread_chans (s : State) (t : Nat) (v : Thread) : (setThread s t v).chans = s.chans := rfl
@[simp] theorem setThread_sends (s : State) (t : Nat) (v : Thread) : (setThread s t v).sends = s.sends := rfl
@[simp] theorem setThread_locks (s : State) (t : Nat) (v : Thread) : (setThread s t v).locks = s.locks := rfl
@[simp] theorem setThread_ctxs (s : State) (t : Nat) (v : Thread) : (setThread s t v).ctxs = s.ctxs := rfl
@[simp] theorem setThread_ctxServed (s : State) (t : Nat) (v : Thread) : (setThread s t v).ctxServed = s.ctxServed := rfl
@[simp] theorem setThread_lanes (s : State) (t : Nat) (v : Thread) : (setThread s t v).lanes = s.lanes := rfl
@[simp] theorem setThread_stylusQ (s : State) (t : Nat) (v : Thread) : (setThread s t v).stylusQ = s.stylusQ := rfl
@[simp] theorem setThread_dispatchQ (s : State) (t : Nat) (v : Thread) : (setThread s t v).dispatchQ = s.dispatchQ := rfl
@[simp] theorem setThread_classNext (s : State) (t : Nat) (v : Thread) : (setThread s t v).classNext = s.classNext := rfl
@[simp] theorem setThread_slots (s : State) (t : Nat) (v : Thread) : (setThread s t v).slots = s.slots := rfl
@[simp] theorem setThread_holes (s : State) (t : Nat) (v : Thread) : (setThread s t v).holes = s.holes := rfl
@[simp] theorem setThread_slotOrder (s : State) (t : Nat) (v : Thread) : (setThread s t v).slotOrder = s.slotOrder := rfl
@[simp] theorem setThread_maxKey (s : State) (t : Nat) (v : Thread) : (setThread s t v).maxKey = s.maxKey := rfl
@[simp] theorem setThread_compl (s : State) (t : Nat) (v : Thread) : (setThread s t v).compl = s.compl := rfl
@[simp] theorem setThread_queues (s : State) (t : Nat) (v : Thread) : (setThread s t v).queues = s.queues := rfl
@[simp] theorem setThread_tokens (s : State) (t : Nat) (v : Thread) : (setThread s t v).tokens = s.tokens := rfl
@[simp] theorem setThread_shapers (s : State) (t : Nat) (v : Thread) : (setThread s t v).shapers = s.shapers := rfl
@[simp] theorem setThread_gateSkip (s : State) (t : Nat) (v : Thread) : (setThread s t v).gateSkip = s.gateSkip := rfl
@[simp] theorem setThread_xings (s : State) (t : Nat) (v : Thread) : (setThread s t v).xings = s.xings := rfl
@[simp] theorem setThread_extents (s : State) (t : Nat) (v : Thread) : (setThread s t v).extents = s.extents := rfl
@[simp] theorem setThread_lineTags (s : State) (t : Nat) (v : Thread) : (setThread s t v).lineTags = s.lineTags := rfl
@[simp] theorem setThread_frameOrder (s : State) (t : Nat) (v : Thread) : (setThread s t v).frameOrder = s.frameOrder := rfl
@[simp] theorem setThread_decisions (s : State) (t : Nat) (v : Thread) : (setThread s t v).decisions = s.decisions := rfl
@[simp] theorem setThread_decBatch (s : State) (t : Nat) (v : Thread) : (setThread s t v).decBatch = s.decBatch := rfl
@[simp] theorem setThread_accepts (s : State) (t : Nat) (v : Thread) : (setThread s t v).accepts = s.accepts := rfl
@[simp] theorem setThread_copy (s : State) (t : Nat) (v : Thread) : (setThread s t v).copy = s.copy := rfl
@[simp] theorem setThread_accOuts (s : State) (t : Nat) (v : Thread) : (setThread s t v).accOuts = s.accOuts := rfl
@[simp] theorem setThread_copybook (s : State) (t : Nat) (v : Thread) : (setThread s t v).copybook = s.copybook := rfl
@[simp] theorem setThread_ductus (s : State) (t : Nat) (v : Thread) : (setThread s t v).ductus = s.ductus := rfl
@[simp] theorem setThread_ink (s : State) (t : Nat) (v : Thread) : (setThread s t v).ink = s.ink := rfl
@[simp] theorem setThread_ddrs (s : State) (t : Nat) (v : Thread) : (setThread s t v).ddrs = s.ddrs := rfl
@[simp] theorem setThread_parts (s : State) (t : Nat) (v : Thread) : (setThread s t v).parts = s.parts := rfl
@[simp] theorem setThread_ports (s : State) (t : Nat) (v : Thread) : (setThread s t v).ports = s.ports := rfl
@[simp] theorem setThread_signet (s : State) (t : Nat) (v : Thread) : (setThread s t v).signet = s.signet := rfl
@[simp] theorem setThread_blotter (s : State) (t : Nat) (v : Thread) : (setThread s t v).blotter = s.blotter := rfl
@[simp] theorem setThread_mgt (s : State) (t : Nat) (v : Thread) : (setThread s t v).mgt = s.mgt := rfl
@[simp] theorem setThread_perf (s : State) (t : Nat) (v : Thread) : (setThread s t v).perf = s.perf := rfl
@[simp] theorem setThread_free (s : State) (t : Nat) (v : Thread) : (setThread s t v).free = s.free := rfl
@[simp] theorem setThread_writer (s : State) (t : Nat) (v : Thread) : (setThread s t v).writer = s.writer := rfl
@[simp] theorem setThread_resp (s : State) (t : Nat) (v : Thread) : (setThread s t v).resp = s.resp := rfl
@[simp] theorem setThread_out (s : State) (t : Nat) (v : Thread) : (setThread s t v).out = s.out := rfl

@[simp] theorem modThread_pending (s : State) (t : Nat) (f : Thread → Thread) : (modThread s t f).pending = s.pending := rfl
@[simp] theorem modThread_regs (s : State) (t : Nat) (f : Thread → Thread) : (modThread s t f).regs = s.regs := rfl
@[simp] theorem modThread_mem (s : State) (t : Nat) (f : Thread → Thread) : (modThread s t f).mem = s.mem := rfl
@[simp] theorem modThread_badWords (s : State) (t : Nat) (f : Thread → Thread) : (modThread s t f).badWords = s.badWords := rfl
@[simp] theorem modThread_addrTags (s : State) (t : Nat) (f : Thread → Thread) : (modThread s t f).addrTags = s.addrTags := rfl
@[simp] theorem modThread_phase (s : State) (t : Nat) (f : Thread → Thread) : (modThread s t f).phase = s.phase := rfl
@[simp] theorem modThread_nibs (s : State) (t : Nat) (f : Thread → Thread) : (modThread s t f).nibs = s.nibs := rfl
@[simp] theorem modThread_chans (s : State) (t : Nat) (f : Thread → Thread) : (modThread s t f).chans = s.chans := rfl
@[simp] theorem modThread_sends (s : State) (t : Nat) (f : Thread → Thread) : (modThread s t f).sends = s.sends := rfl
@[simp] theorem modThread_locks (s : State) (t : Nat) (f : Thread → Thread) : (modThread s t f).locks = s.locks := rfl
@[simp] theorem modThread_ctxs (s : State) (t : Nat) (f : Thread → Thread) : (modThread s t f).ctxs = s.ctxs := rfl
@[simp] theorem modThread_ctxServed (s : State) (t : Nat) (f : Thread → Thread) : (modThread s t f).ctxServed = s.ctxServed := rfl
@[simp] theorem modThread_lanes (s : State) (t : Nat) (f : Thread → Thread) : (modThread s t f).lanes = s.lanes := rfl
@[simp] theorem modThread_stylusQ (s : State) (t : Nat) (f : Thread → Thread) : (modThread s t f).stylusQ = s.stylusQ := rfl
@[simp] theorem modThread_dispatchQ (s : State) (t : Nat) (f : Thread → Thread) : (modThread s t f).dispatchQ = s.dispatchQ := rfl
@[simp] theorem modThread_classNext (s : State) (t : Nat) (f : Thread → Thread) : (modThread s t f).classNext = s.classNext := rfl
@[simp] theorem modThread_slots (s : State) (t : Nat) (f : Thread → Thread) : (modThread s t f).slots = s.slots := rfl
@[simp] theorem modThread_holes (s : State) (t : Nat) (f : Thread → Thread) : (modThread s t f).holes = s.holes := rfl
@[simp] theorem modThread_slotOrder (s : State) (t : Nat) (f : Thread → Thread) : (modThread s t f).slotOrder = s.slotOrder := rfl
@[simp] theorem modThread_maxKey (s : State) (t : Nat) (f : Thread → Thread) : (modThread s t f).maxKey = s.maxKey := rfl
@[simp] theorem modThread_compl (s : State) (t : Nat) (f : Thread → Thread) : (modThread s t f).compl = s.compl := rfl
@[simp] theorem modThread_queues (s : State) (t : Nat) (f : Thread → Thread) : (modThread s t f).queues = s.queues := rfl
@[simp] theorem modThread_tokens (s : State) (t : Nat) (f : Thread → Thread) : (modThread s t f).tokens = s.tokens := rfl
@[simp] theorem modThread_shapers (s : State) (t : Nat) (f : Thread → Thread) : (modThread s t f).shapers = s.shapers := rfl
@[simp] theorem modThread_gateSkip (s : State) (t : Nat) (f : Thread → Thread) : (modThread s t f).gateSkip = s.gateSkip := rfl
@[simp] theorem modThread_xings (s : State) (t : Nat) (f : Thread → Thread) : (modThread s t f).xings = s.xings := rfl
@[simp] theorem modThread_extents (s : State) (t : Nat) (f : Thread → Thread) : (modThread s t f).extents = s.extents := rfl
@[simp] theorem modThread_lineTags (s : State) (t : Nat) (f : Thread → Thread) : (modThread s t f).lineTags = s.lineTags := rfl
@[simp] theorem modThread_frameOrder (s : State) (t : Nat) (f : Thread → Thread) : (modThread s t f).frameOrder = s.frameOrder := rfl
@[simp] theorem modThread_decisions (s : State) (t : Nat) (f : Thread → Thread) : (modThread s t f).decisions = s.decisions := rfl
@[simp] theorem modThread_decBatch (s : State) (t : Nat) (f : Thread → Thread) : (modThread s t f).decBatch = s.decBatch := rfl
@[simp] theorem modThread_accepts (s : State) (t : Nat) (f : Thread → Thread) : (modThread s t f).accepts = s.accepts := rfl
@[simp] theorem modThread_copy (s : State) (t : Nat) (f : Thread → Thread) : (modThread s t f).copy = s.copy := rfl
@[simp] theorem modThread_accOuts (s : State) (t : Nat) (f : Thread → Thread) : (modThread s t f).accOuts = s.accOuts := rfl
@[simp] theorem modThread_copybook (s : State) (t : Nat) (f : Thread → Thread) : (modThread s t f).copybook = s.copybook := rfl
@[simp] theorem modThread_ductus (s : State) (t : Nat) (f : Thread → Thread) : (modThread s t f).ductus = s.ductus := rfl
@[simp] theorem modThread_ink (s : State) (t : Nat) (f : Thread → Thread) : (modThread s t f).ink = s.ink := rfl
@[simp] theorem modThread_ddrs (s : State) (t : Nat) (f : Thread → Thread) : (modThread s t f).ddrs = s.ddrs := rfl
@[simp] theorem modThread_parts (s : State) (t : Nat) (f : Thread → Thread) : (modThread s t f).parts = s.parts := rfl
@[simp] theorem modThread_ports (s : State) (t : Nat) (f : Thread → Thread) : (modThread s t f).ports = s.ports := rfl
@[simp] theorem modThread_signet (s : State) (t : Nat) (f : Thread → Thread) : (modThread s t f).signet = s.signet := rfl
@[simp] theorem modThread_blotter (s : State) (t : Nat) (f : Thread → Thread) : (modThread s t f).blotter = s.blotter := rfl
@[simp] theorem modThread_mgt (s : State) (t : Nat) (f : Thread → Thread) : (modThread s t f).mgt = s.mgt := rfl
@[simp] theorem modThread_perf (s : State) (t : Nat) (f : Thread → Thread) : (modThread s t f).perf = s.perf := rfl
@[simp] theorem modThread_free (s : State) (t : Nat) (f : Thread → Thread) : (modThread s t f).free = s.free := rfl
@[simp] theorem modThread_writer (s : State) (t : Nat) (f : Thread → Thread) : (modThread s t f).writer = s.writer := rfl
@[simp] theorem modThread_resp (s : State) (t : Nat) (f : Thread → Thread) : (modThread s t f).resp = s.resp := rfl
@[simp] theorem modThread_out (s : State) (t : Nat) (f : Thread → Thread) : (modThread s t f).out = s.out := rfl

@[simp] theorem modNib_pending (s : State) (n : Nat) (f : Nib → Nib) : (modNib s n f).pending = s.pending := rfl
@[simp] theorem modNib_regs (s : State) (n : Nat) (f : Nib → Nib) : (modNib s n f).regs = s.regs := rfl
@[simp] theorem modNib_mem (s : State) (n : Nat) (f : Nib → Nib) : (modNib s n f).mem = s.mem := rfl
@[simp] theorem modNib_badWords (s : State) (n : Nat) (f : Nib → Nib) : (modNib s n f).badWords = s.badWords := rfl
@[simp] theorem modNib_addrTags (s : State) (n : Nat) (f : Nib → Nib) : (modNib s n f).addrTags = s.addrTags := rfl
@[simp] theorem modNib_phase (s : State) (n : Nat) (f : Nib → Nib) : (modNib s n f).phase = s.phase := rfl
@[simp] theorem modNib_threads (s : State) (n : Nat) (f : Nib → Nib) : (modNib s n f).threads = s.threads := rfl
@[simp] theorem modNib_chans (s : State) (n : Nat) (f : Nib → Nib) : (modNib s n f).chans = s.chans := rfl
@[simp] theorem modNib_sends (s : State) (n : Nat) (f : Nib → Nib) : (modNib s n f).sends = s.sends := rfl
@[simp] theorem modNib_locks (s : State) (n : Nat) (f : Nib → Nib) : (modNib s n f).locks = s.locks := rfl
@[simp] theorem modNib_ctxs (s : State) (n : Nat) (f : Nib → Nib) : (modNib s n f).ctxs = s.ctxs := rfl
@[simp] theorem modNib_ctxServed (s : State) (n : Nat) (f : Nib → Nib) : (modNib s n f).ctxServed = s.ctxServed := rfl
@[simp] theorem modNib_lanes (s : State) (n : Nat) (f : Nib → Nib) : (modNib s n f).lanes = s.lanes := rfl
@[simp] theorem modNib_stylusQ (s : State) (n : Nat) (f : Nib → Nib) : (modNib s n f).stylusQ = s.stylusQ := rfl
@[simp] theorem modNib_dispatchQ (s : State) (n : Nat) (f : Nib → Nib) : (modNib s n f).dispatchQ = s.dispatchQ := rfl
@[simp] theorem modNib_classNext (s : State) (n : Nat) (f : Nib → Nib) : (modNib s n f).classNext = s.classNext := rfl
@[simp] theorem modNib_slots (s : State) (n : Nat) (f : Nib → Nib) : (modNib s n f).slots = s.slots := rfl
@[simp] theorem modNib_holes (s : State) (n : Nat) (f : Nib → Nib) : (modNib s n f).holes = s.holes := rfl
@[simp] theorem modNib_slotOrder (s : State) (n : Nat) (f : Nib → Nib) : (modNib s n f).slotOrder = s.slotOrder := rfl
@[simp] theorem modNib_maxKey (s : State) (n : Nat) (f : Nib → Nib) : (modNib s n f).maxKey = s.maxKey := rfl
@[simp] theorem modNib_compl (s : State) (n : Nat) (f : Nib → Nib) : (modNib s n f).compl = s.compl := rfl
@[simp] theorem modNib_queues (s : State) (n : Nat) (f : Nib → Nib) : (modNib s n f).queues = s.queues := rfl
@[simp] theorem modNib_tokens (s : State) (n : Nat) (f : Nib → Nib) : (modNib s n f).tokens = s.tokens := rfl
@[simp] theorem modNib_shapers (s : State) (n : Nat) (f : Nib → Nib) : (modNib s n f).shapers = s.shapers := rfl
@[simp] theorem modNib_gateSkip (s : State) (n : Nat) (f : Nib → Nib) : (modNib s n f).gateSkip = s.gateSkip := rfl
@[simp] theorem modNib_xings (s : State) (n : Nat) (f : Nib → Nib) : (modNib s n f).xings = s.xings := rfl
@[simp] theorem modNib_extents (s : State) (n : Nat) (f : Nib → Nib) : (modNib s n f).extents = s.extents := rfl
@[simp] theorem modNib_lineTags (s : State) (n : Nat) (f : Nib → Nib) : (modNib s n f).lineTags = s.lineTags := rfl
@[simp] theorem modNib_frameOrder (s : State) (n : Nat) (f : Nib → Nib) : (modNib s n f).frameOrder = s.frameOrder := rfl
@[simp] theorem modNib_decisions (s : State) (n : Nat) (f : Nib → Nib) : (modNib s n f).decisions = s.decisions := rfl
@[simp] theorem modNib_decBatch (s : State) (n : Nat) (f : Nib → Nib) : (modNib s n f).decBatch = s.decBatch := rfl
@[simp] theorem modNib_accepts (s : State) (n : Nat) (f : Nib → Nib) : (modNib s n f).accepts = s.accepts := rfl
@[simp] theorem modNib_copy (s : State) (n : Nat) (f : Nib → Nib) : (modNib s n f).copy = s.copy := rfl
@[simp] theorem modNib_accOuts (s : State) (n : Nat) (f : Nib → Nib) : (modNib s n f).accOuts = s.accOuts := rfl
@[simp] theorem modNib_copybook (s : State) (n : Nat) (f : Nib → Nib) : (modNib s n f).copybook = s.copybook := rfl
@[simp] theorem modNib_ductus (s : State) (n : Nat) (f : Nib → Nib) : (modNib s n f).ductus = s.ductus := rfl
@[simp] theorem modNib_ink (s : State) (n : Nat) (f : Nib → Nib) : (modNib s n f).ink = s.ink := rfl
@[simp] theorem modNib_ddrs (s : State) (n : Nat) (f : Nib → Nib) : (modNib s n f).ddrs = s.ddrs := rfl
@[simp] theorem modNib_parts (s : State) (n : Nat) (f : Nib → Nib) : (modNib s n f).parts = s.parts := rfl
@[simp] theorem modNib_ports (s : State) (n : Nat) (f : Nib → Nib) : (modNib s n f).ports = s.ports := rfl
@[simp] theorem modNib_signet (s : State) (n : Nat) (f : Nib → Nib) : (modNib s n f).signet = s.signet := rfl
@[simp] theorem modNib_blotter (s : State) (n : Nat) (f : Nib → Nib) : (modNib s n f).blotter = s.blotter := rfl
@[simp] theorem modNib_mgt (s : State) (n : Nat) (f : Nib → Nib) : (modNib s n f).mgt = s.mgt := rfl
@[simp] theorem modNib_perf (s : State) (n : Nat) (f : Nib → Nib) : (modNib s n f).perf = s.perf := rfl
@[simp] theorem modNib_free (s : State) (n : Nat) (f : Nib → Nib) : (modNib s n f).free = s.free := rfl
@[simp] theorem modNib_writer (s : State) (n : Nat) (f : Nib → Nib) : (modNib s n f).writer = s.writer := rfl
@[simp] theorem modNib_resp (s : State) (n : Nat) (f : Nib → Nib) : (modNib s n f).resp = s.resp := rfl
@[simp] theorem modNib_out (s : State) (n : Nat) (f : Nib → Nib) : (modNib s n f).out = s.out := rfl

@[simp] theorem modChan_pending (s : State) (n c : Nat) (f : Chan → Chan) : (modChan s n c f).pending = s.pending := rfl
@[simp] theorem modChan_regs (s : State) (n c : Nat) (f : Chan → Chan) : (modChan s n c f).regs = s.regs := rfl
@[simp] theorem modChan_mem (s : State) (n c : Nat) (f : Chan → Chan) : (modChan s n c f).mem = s.mem := rfl
@[simp] theorem modChan_badWords (s : State) (n c : Nat) (f : Chan → Chan) : (modChan s n c f).badWords = s.badWords := rfl
@[simp] theorem modChan_addrTags (s : State) (n c : Nat) (f : Chan → Chan) : (modChan s n c f).addrTags = s.addrTags := rfl
@[simp] theorem modChan_phase (s : State) (n c : Nat) (f : Chan → Chan) : (modChan s n c f).phase = s.phase := rfl
@[simp] theorem modChan_threads (s : State) (n c : Nat) (f : Chan → Chan) : (modChan s n c f).threads = s.threads := rfl
@[simp] theorem modChan_nibs (s : State) (n c : Nat) (f : Chan → Chan) : (modChan s n c f).nibs = s.nibs := rfl
@[simp] theorem modChan_sends (s : State) (n c : Nat) (f : Chan → Chan) : (modChan s n c f).sends = s.sends := rfl
@[simp] theorem modChan_locks (s : State) (n c : Nat) (f : Chan → Chan) : (modChan s n c f).locks = s.locks := rfl
@[simp] theorem modChan_ctxs (s : State) (n c : Nat) (f : Chan → Chan) : (modChan s n c f).ctxs = s.ctxs := rfl
@[simp] theorem modChan_ctxServed (s : State) (n c : Nat) (f : Chan → Chan) : (modChan s n c f).ctxServed = s.ctxServed := rfl
@[simp] theorem modChan_lanes (s : State) (n c : Nat) (f : Chan → Chan) : (modChan s n c f).lanes = s.lanes := rfl
@[simp] theorem modChan_stylusQ (s : State) (n c : Nat) (f : Chan → Chan) : (modChan s n c f).stylusQ = s.stylusQ := rfl
@[simp] theorem modChan_dispatchQ (s : State) (n c : Nat) (f : Chan → Chan) : (modChan s n c f).dispatchQ = s.dispatchQ := rfl
@[simp] theorem modChan_classNext (s : State) (n c : Nat) (f : Chan → Chan) : (modChan s n c f).classNext = s.classNext := rfl
@[simp] theorem modChan_slots (s : State) (n c : Nat) (f : Chan → Chan) : (modChan s n c f).slots = s.slots := rfl
@[simp] theorem modChan_holes (s : State) (n c : Nat) (f : Chan → Chan) : (modChan s n c f).holes = s.holes := rfl
@[simp] theorem modChan_slotOrder (s : State) (n c : Nat) (f : Chan → Chan) : (modChan s n c f).slotOrder = s.slotOrder := rfl
@[simp] theorem modChan_maxKey (s : State) (n c : Nat) (f : Chan → Chan) : (modChan s n c f).maxKey = s.maxKey := rfl
@[simp] theorem modChan_compl (s : State) (n c : Nat) (f : Chan → Chan) : (modChan s n c f).compl = s.compl := rfl
@[simp] theorem modChan_queues (s : State) (n c : Nat) (f : Chan → Chan) : (modChan s n c f).queues = s.queues := rfl
@[simp] theorem modChan_tokens (s : State) (n c : Nat) (f : Chan → Chan) : (modChan s n c f).tokens = s.tokens := rfl
@[simp] theorem modChan_shapers (s : State) (n c : Nat) (f : Chan → Chan) : (modChan s n c f).shapers = s.shapers := rfl
@[simp] theorem modChan_gateSkip (s : State) (n c : Nat) (f : Chan → Chan) : (modChan s n c f).gateSkip = s.gateSkip := rfl
@[simp] theorem modChan_xings (s : State) (n c : Nat) (f : Chan → Chan) : (modChan s n c f).xings = s.xings := rfl
@[simp] theorem modChan_extents (s : State) (n c : Nat) (f : Chan → Chan) : (modChan s n c f).extents = s.extents := rfl
@[simp] theorem modChan_lineTags (s : State) (n c : Nat) (f : Chan → Chan) : (modChan s n c f).lineTags = s.lineTags := rfl
@[simp] theorem modChan_frameOrder (s : State) (n c : Nat) (f : Chan → Chan) : (modChan s n c f).frameOrder = s.frameOrder := rfl
@[simp] theorem modChan_decisions (s : State) (n c : Nat) (f : Chan → Chan) : (modChan s n c f).decisions = s.decisions := rfl
@[simp] theorem modChan_decBatch (s : State) (n c : Nat) (f : Chan → Chan) : (modChan s n c f).decBatch = s.decBatch := rfl
@[simp] theorem modChan_accepts (s : State) (n c : Nat) (f : Chan → Chan) : (modChan s n c f).accepts = s.accepts := rfl
@[simp] theorem modChan_copy (s : State) (n c : Nat) (f : Chan → Chan) : (modChan s n c f).copy = s.copy := rfl
@[simp] theorem modChan_accOuts (s : State) (n c : Nat) (f : Chan → Chan) : (modChan s n c f).accOuts = s.accOuts := rfl
@[simp] theorem modChan_copybook (s : State) (n c : Nat) (f : Chan → Chan) : (modChan s n c f).copybook = s.copybook := rfl
@[simp] theorem modChan_ductus (s : State) (n c : Nat) (f : Chan → Chan) : (modChan s n c f).ductus = s.ductus := rfl
@[simp] theorem modChan_ink (s : State) (n c : Nat) (f : Chan → Chan) : (modChan s n c f).ink = s.ink := rfl
@[simp] theorem modChan_ddrs (s : State) (n c : Nat) (f : Chan → Chan) : (modChan s n c f).ddrs = s.ddrs := rfl
@[simp] theorem modChan_parts (s : State) (n c : Nat) (f : Chan → Chan) : (modChan s n c f).parts = s.parts := rfl
@[simp] theorem modChan_ports (s : State) (n c : Nat) (f : Chan → Chan) : (modChan s n c f).ports = s.ports := rfl
@[simp] theorem modChan_signet (s : State) (n c : Nat) (f : Chan → Chan) : (modChan s n c f).signet = s.signet := rfl
@[simp] theorem modChan_blotter (s : State) (n c : Nat) (f : Chan → Chan) : (modChan s n c f).blotter = s.blotter := rfl
@[simp] theorem modChan_mgt (s : State) (n c : Nat) (f : Chan → Chan) : (modChan s n c f).mgt = s.mgt := rfl
@[simp] theorem modChan_perf (s : State) (n c : Nat) (f : Chan → Chan) : (modChan s n c f).perf = s.perf := rfl
@[simp] theorem modChan_free (s : State) (n c : Nat) (f : Chan → Chan) : (modChan s n c f).free = s.free := rfl
@[simp] theorem modChan_writer (s : State) (n c : Nat) (f : Chan → Chan) : (modChan s n c f).writer = s.writer := rfl
@[simp] theorem modChan_resp (s : State) (n c : Nat) (f : Chan → Chan) : (modChan s n c f).resp = s.resp := rfl
@[simp] theorem modChan_out (s : State) (n c : Nat) (f : Chan → Chan) : (modChan s n c f).out = s.out := rfl

@[simp] theorem modLock_pending (s : State) (q k : Nat) (f : Lock → Lock) : (modLock s q k f).pending = s.pending := rfl
@[simp] theorem modLock_regs (s : State) (q k : Nat) (f : Lock → Lock) : (modLock s q k f).regs = s.regs := rfl
@[simp] theorem modLock_mem (s : State) (q k : Nat) (f : Lock → Lock) : (modLock s q k f).mem = s.mem := rfl
@[simp] theorem modLock_badWords (s : State) (q k : Nat) (f : Lock → Lock) : (modLock s q k f).badWords = s.badWords := rfl
@[simp] theorem modLock_addrTags (s : State) (q k : Nat) (f : Lock → Lock) : (modLock s q k f).addrTags = s.addrTags := rfl
@[simp] theorem modLock_phase (s : State) (q k : Nat) (f : Lock → Lock) : (modLock s q k f).phase = s.phase := rfl
@[simp] theorem modLock_threads (s : State) (q k : Nat) (f : Lock → Lock) : (modLock s q k f).threads = s.threads := rfl
@[simp] theorem modLock_nibs (s : State) (q k : Nat) (f : Lock → Lock) : (modLock s q k f).nibs = s.nibs := rfl
@[simp] theorem modLock_chans (s : State) (q k : Nat) (f : Lock → Lock) : (modLock s q k f).chans = s.chans := rfl
@[simp] theorem modLock_sends (s : State) (q k : Nat) (f : Lock → Lock) : (modLock s q k f).sends = s.sends := rfl
@[simp] theorem modLock_ctxs (s : State) (q k : Nat) (f : Lock → Lock) : (modLock s q k f).ctxs = s.ctxs := rfl
@[simp] theorem modLock_ctxServed (s : State) (q k : Nat) (f : Lock → Lock) : (modLock s q k f).ctxServed = s.ctxServed := rfl
@[simp] theorem modLock_lanes (s : State) (q k : Nat) (f : Lock → Lock) : (modLock s q k f).lanes = s.lanes := rfl
@[simp] theorem modLock_stylusQ (s : State) (q k : Nat) (f : Lock → Lock) : (modLock s q k f).stylusQ = s.stylusQ := rfl
@[simp] theorem modLock_dispatchQ (s : State) (q k : Nat) (f : Lock → Lock) : (modLock s q k f).dispatchQ = s.dispatchQ := rfl
@[simp] theorem modLock_classNext (s : State) (q k : Nat) (f : Lock → Lock) : (modLock s q k f).classNext = s.classNext := rfl
@[simp] theorem modLock_slots (s : State) (q k : Nat) (f : Lock → Lock) : (modLock s q k f).slots = s.slots := rfl
@[simp] theorem modLock_holes (s : State) (q k : Nat) (f : Lock → Lock) : (modLock s q k f).holes = s.holes := rfl
@[simp] theorem modLock_slotOrder (s : State) (q k : Nat) (f : Lock → Lock) : (modLock s q k f).slotOrder = s.slotOrder := rfl
@[simp] theorem modLock_maxKey (s : State) (q k : Nat) (f : Lock → Lock) : (modLock s q k f).maxKey = s.maxKey := rfl
@[simp] theorem modLock_compl (s : State) (q k : Nat) (f : Lock → Lock) : (modLock s q k f).compl = s.compl := rfl
@[simp] theorem modLock_queues (s : State) (q k : Nat) (f : Lock → Lock) : (modLock s q k f).queues = s.queues := rfl
@[simp] theorem modLock_tokens (s : State) (q k : Nat) (f : Lock → Lock) : (modLock s q k f).tokens = s.tokens := rfl
@[simp] theorem modLock_shapers (s : State) (q k : Nat) (f : Lock → Lock) : (modLock s q k f).shapers = s.shapers := rfl
@[simp] theorem modLock_gateSkip (s : State) (q k : Nat) (f : Lock → Lock) : (modLock s q k f).gateSkip = s.gateSkip := rfl
@[simp] theorem modLock_xings (s : State) (q k : Nat) (f : Lock → Lock) : (modLock s q k f).xings = s.xings := rfl
@[simp] theorem modLock_extents (s : State) (q k : Nat) (f : Lock → Lock) : (modLock s q k f).extents = s.extents := rfl
@[simp] theorem modLock_lineTags (s : State) (q k : Nat) (f : Lock → Lock) : (modLock s q k f).lineTags = s.lineTags := rfl
@[simp] theorem modLock_frameOrder (s : State) (q k : Nat) (f : Lock → Lock) : (modLock s q k f).frameOrder = s.frameOrder := rfl
@[simp] theorem modLock_decisions (s : State) (q k : Nat) (f : Lock → Lock) : (modLock s q k f).decisions = s.decisions := rfl
@[simp] theorem modLock_decBatch (s : State) (q k : Nat) (f : Lock → Lock) : (modLock s q k f).decBatch = s.decBatch := rfl
@[simp] theorem modLock_accepts (s : State) (q k : Nat) (f : Lock → Lock) : (modLock s q k f).accepts = s.accepts := rfl
@[simp] theorem modLock_copy (s : State) (q k : Nat) (f : Lock → Lock) : (modLock s q k f).copy = s.copy := rfl
@[simp] theorem modLock_accOuts (s : State) (q k : Nat) (f : Lock → Lock) : (modLock s q k f).accOuts = s.accOuts := rfl
@[simp] theorem modLock_copybook (s : State) (q k : Nat) (f : Lock → Lock) : (modLock s q k f).copybook = s.copybook := rfl
@[simp] theorem modLock_ductus (s : State) (q k : Nat) (f : Lock → Lock) : (modLock s q k f).ductus = s.ductus := rfl
@[simp] theorem modLock_ink (s : State) (q k : Nat) (f : Lock → Lock) : (modLock s q k f).ink = s.ink := rfl
@[simp] theorem modLock_ddrs (s : State) (q k : Nat) (f : Lock → Lock) : (modLock s q k f).ddrs = s.ddrs := rfl
@[simp] theorem modLock_parts (s : State) (q k : Nat) (f : Lock → Lock) : (modLock s q k f).parts = s.parts := rfl
@[simp] theorem modLock_ports (s : State) (q k : Nat) (f : Lock → Lock) : (modLock s q k f).ports = s.ports := rfl
@[simp] theorem modLock_signet (s : State) (q k : Nat) (f : Lock → Lock) : (modLock s q k f).signet = s.signet := rfl
@[simp] theorem modLock_blotter (s : State) (q k : Nat) (f : Lock → Lock) : (modLock s q k f).blotter = s.blotter := rfl
@[simp] theorem modLock_mgt (s : State) (q k : Nat) (f : Lock → Lock) : (modLock s q k f).mgt = s.mgt := rfl
@[simp] theorem modLock_perf (s : State) (q k : Nat) (f : Lock → Lock) : (modLock s q k f).perf = s.perf := rfl
@[simp] theorem modLock_free (s : State) (q k : Nat) (f : Lock → Lock) : (modLock s q k f).free = s.free := rfl
@[simp] theorem modLock_writer (s : State) (q k : Nat) (f : Lock → Lock) : (modLock s q k f).writer = s.writer := rfl
@[simp] theorem modLock_resp (s : State) (q k : Nat) (f : Lock → Lock) : (modLock s q k f).resp = s.resp := rfl
@[simp] theorem modLock_out (s : State) (q k : Nat) (f : Lock → Lock) : (modLock s q k f).out = s.out := rfl

@[simp] theorem modPart_pending (s : State) (p : Nat) (f : Part → Part) : (modPart s p f).pending = s.pending := rfl
@[simp] theorem modPart_regs (s : State) (p : Nat) (f : Part → Part) : (modPart s p f).regs = s.regs := rfl
@[simp] theorem modPart_mem (s : State) (p : Nat) (f : Part → Part) : (modPart s p f).mem = s.mem := rfl
@[simp] theorem modPart_badWords (s : State) (p : Nat) (f : Part → Part) : (modPart s p f).badWords = s.badWords := rfl
@[simp] theorem modPart_addrTags (s : State) (p : Nat) (f : Part → Part) : (modPart s p f).addrTags = s.addrTags := rfl
@[simp] theorem modPart_phase (s : State) (p : Nat) (f : Part → Part) : (modPart s p f).phase = s.phase := rfl
@[simp] theorem modPart_threads (s : State) (p : Nat) (f : Part → Part) : (modPart s p f).threads = s.threads := rfl
@[simp] theorem modPart_nibs (s : State) (p : Nat) (f : Part → Part) : (modPart s p f).nibs = s.nibs := rfl
@[simp] theorem modPart_chans (s : State) (p : Nat) (f : Part → Part) : (modPart s p f).chans = s.chans := rfl
@[simp] theorem modPart_sends (s : State) (p : Nat) (f : Part → Part) : (modPart s p f).sends = s.sends := rfl
@[simp] theorem modPart_locks (s : State) (p : Nat) (f : Part → Part) : (modPart s p f).locks = s.locks := rfl
@[simp] theorem modPart_ctxs (s : State) (p : Nat) (f : Part → Part) : (modPart s p f).ctxs = s.ctxs := rfl
@[simp] theorem modPart_ctxServed (s : State) (p : Nat) (f : Part → Part) : (modPart s p f).ctxServed = s.ctxServed := rfl
@[simp] theorem modPart_lanes (s : State) (p : Nat) (f : Part → Part) : (modPart s p f).lanes = s.lanes := rfl
@[simp] theorem modPart_stylusQ (s : State) (p : Nat) (f : Part → Part) : (modPart s p f).stylusQ = s.stylusQ := rfl
@[simp] theorem modPart_dispatchQ (s : State) (p : Nat) (f : Part → Part) : (modPart s p f).dispatchQ = s.dispatchQ := rfl
@[simp] theorem modPart_classNext (s : State) (p : Nat) (f : Part → Part) : (modPart s p f).classNext = s.classNext := rfl
@[simp] theorem modPart_slots (s : State) (p : Nat) (f : Part → Part) : (modPart s p f).slots = s.slots := rfl
@[simp] theorem modPart_holes (s : State) (p : Nat) (f : Part → Part) : (modPart s p f).holes = s.holes := rfl
@[simp] theorem modPart_slotOrder (s : State) (p : Nat) (f : Part → Part) : (modPart s p f).slotOrder = s.slotOrder := rfl
@[simp] theorem modPart_maxKey (s : State) (p : Nat) (f : Part → Part) : (modPart s p f).maxKey = s.maxKey := rfl
@[simp] theorem modPart_compl (s : State) (p : Nat) (f : Part → Part) : (modPart s p f).compl = s.compl := rfl
@[simp] theorem modPart_queues (s : State) (p : Nat) (f : Part → Part) : (modPart s p f).queues = s.queues := rfl
@[simp] theorem modPart_tokens (s : State) (p : Nat) (f : Part → Part) : (modPart s p f).tokens = s.tokens := rfl
@[simp] theorem modPart_shapers (s : State) (p : Nat) (f : Part → Part) : (modPart s p f).shapers = s.shapers := rfl
@[simp] theorem modPart_gateSkip (s : State) (p : Nat) (f : Part → Part) : (modPart s p f).gateSkip = s.gateSkip := rfl
@[simp] theorem modPart_xings (s : State) (p : Nat) (f : Part → Part) : (modPart s p f).xings = s.xings := rfl
@[simp] theorem modPart_extents (s : State) (p : Nat) (f : Part → Part) : (modPart s p f).extents = s.extents := rfl
@[simp] theorem modPart_lineTags (s : State) (p : Nat) (f : Part → Part) : (modPart s p f).lineTags = s.lineTags := rfl
@[simp] theorem modPart_frameOrder (s : State) (p : Nat) (f : Part → Part) : (modPart s p f).frameOrder = s.frameOrder := rfl
@[simp] theorem modPart_decisions (s : State) (p : Nat) (f : Part → Part) : (modPart s p f).decisions = s.decisions := rfl
@[simp] theorem modPart_decBatch (s : State) (p : Nat) (f : Part → Part) : (modPart s p f).decBatch = s.decBatch := rfl
@[simp] theorem modPart_accepts (s : State) (p : Nat) (f : Part → Part) : (modPart s p f).accepts = s.accepts := rfl
@[simp] theorem modPart_copy (s : State) (p : Nat) (f : Part → Part) : (modPart s p f).copy = s.copy := rfl
@[simp] theorem modPart_accOuts (s : State) (p : Nat) (f : Part → Part) : (modPart s p f).accOuts = s.accOuts := rfl
@[simp] theorem modPart_copybook (s : State) (p : Nat) (f : Part → Part) : (modPart s p f).copybook = s.copybook := rfl
@[simp] theorem modPart_ductus (s : State) (p : Nat) (f : Part → Part) : (modPart s p f).ductus = s.ductus := rfl
@[simp] theorem modPart_ink (s : State) (p : Nat) (f : Part → Part) : (modPart s p f).ink = s.ink := rfl
@[simp] theorem modPart_ddrs (s : State) (p : Nat) (f : Part → Part) : (modPart s p f).ddrs = s.ddrs := rfl
@[simp] theorem modPart_ports (s : State) (p : Nat) (f : Part → Part) : (modPart s p f).ports = s.ports := rfl
@[simp] theorem modPart_signet (s : State) (p : Nat) (f : Part → Part) : (modPart s p f).signet = s.signet := rfl
@[simp] theorem modPart_blotter (s : State) (p : Nat) (f : Part → Part) : (modPart s p f).blotter = s.blotter := rfl
@[simp] theorem modPart_mgt (s : State) (p : Nat) (f : Part → Part) : (modPart s p f).mgt = s.mgt := rfl
@[simp] theorem modPart_perf (s : State) (p : Nat) (f : Part → Part) : (modPart s p f).perf = s.perf := rfl
@[simp] theorem modPart_free (s : State) (p : Nat) (f : Part → Part) : (modPart s p f).free = s.free := rfl
@[simp] theorem modPart_writer (s : State) (p : Nat) (f : Part → Part) : (modPart s p f).writer = s.writer := rfl
@[simp] theorem modPart_resp (s : State) (p : Nat) (f : Part → Part) : (modPart s p f).resp = s.resp := rfl
@[simp] theorem modPart_out (s : State) (p : Nat) (f : Part → Part) : (modPart s p f).out = s.out := rfl

@[simp] theorem modLane_pending (s : State) (n : Nat) (f : Lane → Lane) : (modLane s n f).pending = s.pending := rfl
@[simp] theorem modLane_regs (s : State) (n : Nat) (f : Lane → Lane) : (modLane s n f).regs = s.regs := rfl
@[simp] theorem modLane_mem (s : State) (n : Nat) (f : Lane → Lane) : (modLane s n f).mem = s.mem := rfl
@[simp] theorem modLane_badWords (s : State) (n : Nat) (f : Lane → Lane) : (modLane s n f).badWords = s.badWords := rfl
@[simp] theorem modLane_addrTags (s : State) (n : Nat) (f : Lane → Lane) : (modLane s n f).addrTags = s.addrTags := rfl
@[simp] theorem modLane_phase (s : State) (n : Nat) (f : Lane → Lane) : (modLane s n f).phase = s.phase := rfl
@[simp] theorem modLane_threads (s : State) (n : Nat) (f : Lane → Lane) : (modLane s n f).threads = s.threads := rfl
@[simp] theorem modLane_nibs (s : State) (n : Nat) (f : Lane → Lane) : (modLane s n f).nibs = s.nibs := rfl
@[simp] theorem modLane_chans (s : State) (n : Nat) (f : Lane → Lane) : (modLane s n f).chans = s.chans := rfl
@[simp] theorem modLane_sends (s : State) (n : Nat) (f : Lane → Lane) : (modLane s n f).sends = s.sends := rfl
@[simp] theorem modLane_locks (s : State) (n : Nat) (f : Lane → Lane) : (modLane s n f).locks = s.locks := rfl
@[simp] theorem modLane_ctxs (s : State) (n : Nat) (f : Lane → Lane) : (modLane s n f).ctxs = s.ctxs := rfl
@[simp] theorem modLane_ctxServed (s : State) (n : Nat) (f : Lane → Lane) : (modLane s n f).ctxServed = s.ctxServed := rfl
@[simp] theorem modLane_stylusQ (s : State) (n : Nat) (f : Lane → Lane) : (modLane s n f).stylusQ = s.stylusQ := rfl
@[simp] theorem modLane_dispatchQ (s : State) (n : Nat) (f : Lane → Lane) : (modLane s n f).dispatchQ = s.dispatchQ := rfl
@[simp] theorem modLane_classNext (s : State) (n : Nat) (f : Lane → Lane) : (modLane s n f).classNext = s.classNext := rfl
@[simp] theorem modLane_slots (s : State) (n : Nat) (f : Lane → Lane) : (modLane s n f).slots = s.slots := rfl
@[simp] theorem modLane_holes (s : State) (n : Nat) (f : Lane → Lane) : (modLane s n f).holes = s.holes := rfl
@[simp] theorem modLane_slotOrder (s : State) (n : Nat) (f : Lane → Lane) : (modLane s n f).slotOrder = s.slotOrder := rfl
@[simp] theorem modLane_maxKey (s : State) (n : Nat) (f : Lane → Lane) : (modLane s n f).maxKey = s.maxKey := rfl
@[simp] theorem modLane_compl (s : State) (n : Nat) (f : Lane → Lane) : (modLane s n f).compl = s.compl := rfl
@[simp] theorem modLane_queues (s : State) (n : Nat) (f : Lane → Lane) : (modLane s n f).queues = s.queues := rfl
@[simp] theorem modLane_tokens (s : State) (n : Nat) (f : Lane → Lane) : (modLane s n f).tokens = s.tokens := rfl
@[simp] theorem modLane_shapers (s : State) (n : Nat) (f : Lane → Lane) : (modLane s n f).shapers = s.shapers := rfl
@[simp] theorem modLane_gateSkip (s : State) (n : Nat) (f : Lane → Lane) : (modLane s n f).gateSkip = s.gateSkip := rfl
@[simp] theorem modLane_xings (s : State) (n : Nat) (f : Lane → Lane) : (modLane s n f).xings = s.xings := rfl
@[simp] theorem modLane_extents (s : State) (n : Nat) (f : Lane → Lane) : (modLane s n f).extents = s.extents := rfl
@[simp] theorem modLane_lineTags (s : State) (n : Nat) (f : Lane → Lane) : (modLane s n f).lineTags = s.lineTags := rfl
@[simp] theorem modLane_frameOrder (s : State) (n : Nat) (f : Lane → Lane) : (modLane s n f).frameOrder = s.frameOrder := rfl
@[simp] theorem modLane_decisions (s : State) (n : Nat) (f : Lane → Lane) : (modLane s n f).decisions = s.decisions := rfl
@[simp] theorem modLane_decBatch (s : State) (n : Nat) (f : Lane → Lane) : (modLane s n f).decBatch = s.decBatch := rfl
@[simp] theorem modLane_accepts (s : State) (n : Nat) (f : Lane → Lane) : (modLane s n f).accepts = s.accepts := rfl
@[simp] theorem modLane_copy (s : State) (n : Nat) (f : Lane → Lane) : (modLane s n f).copy = s.copy := rfl
@[simp] theorem modLane_accOuts (s : State) (n : Nat) (f : Lane → Lane) : (modLane s n f).accOuts = s.accOuts := rfl
@[simp] theorem modLane_copybook (s : State) (n : Nat) (f : Lane → Lane) : (modLane s n f).copybook = s.copybook := rfl
@[simp] theorem modLane_ductus (s : State) (n : Nat) (f : Lane → Lane) : (modLane s n f).ductus = s.ductus := rfl
@[simp] theorem modLane_ink (s : State) (n : Nat) (f : Lane → Lane) : (modLane s n f).ink = s.ink := rfl
@[simp] theorem modLane_ddrs (s : State) (n : Nat) (f : Lane → Lane) : (modLane s n f).ddrs = s.ddrs := rfl
@[simp] theorem modLane_parts (s : State) (n : Nat) (f : Lane → Lane) : (modLane s n f).parts = s.parts := rfl
@[simp] theorem modLane_ports (s : State) (n : Nat) (f : Lane → Lane) : (modLane s n f).ports = s.ports := rfl
@[simp] theorem modLane_signet (s : State) (n : Nat) (f : Lane → Lane) : (modLane s n f).signet = s.signet := rfl
@[simp] theorem modLane_blotter (s : State) (n : Nat) (f : Lane → Lane) : (modLane s n f).blotter = s.blotter := rfl
@[simp] theorem modLane_mgt (s : State) (n : Nat) (f : Lane → Lane) : (modLane s n f).mgt = s.mgt := rfl
@[simp] theorem modLane_perf (s : State) (n : Nat) (f : Lane → Lane) : (modLane s n f).perf = s.perf := rfl
@[simp] theorem modLane_free (s : State) (n : Nat) (f : Lane → Lane) : (modLane s n f).free = s.free := rfl
@[simp] theorem modLane_writer (s : State) (n : Nat) (f : Lane → Lane) : (modLane s n f).writer = s.writer := rfl
@[simp] theorem modLane_resp (s : State) (n : Nat) (f : Lane → Lane) : (modLane s n f).resp = s.resp := rfl
@[simp] theorem modLane_out (s : State) (n : Nat) (f : Lane → Lane) : (modLane s n f).out = s.out := rfl

@[simp] theorem modPort_pending (s : State) (k : Nat) (f : Port → Port) : (modPort s k f).pending = s.pending := rfl
@[simp] theorem modPort_regs (s : State) (k : Nat) (f : Port → Port) : (modPort s k f).regs = s.regs := rfl
@[simp] theorem modPort_mem (s : State) (k : Nat) (f : Port → Port) : (modPort s k f).mem = s.mem := rfl
@[simp] theorem modPort_badWords (s : State) (k : Nat) (f : Port → Port) : (modPort s k f).badWords = s.badWords := rfl
@[simp] theorem modPort_addrTags (s : State) (k : Nat) (f : Port → Port) : (modPort s k f).addrTags = s.addrTags := rfl
@[simp] theorem modPort_phase (s : State) (k : Nat) (f : Port → Port) : (modPort s k f).phase = s.phase := rfl
@[simp] theorem modPort_threads (s : State) (k : Nat) (f : Port → Port) : (modPort s k f).threads = s.threads := rfl
@[simp] theorem modPort_nibs (s : State) (k : Nat) (f : Port → Port) : (modPort s k f).nibs = s.nibs := rfl
@[simp] theorem modPort_chans (s : State) (k : Nat) (f : Port → Port) : (modPort s k f).chans = s.chans := rfl
@[simp] theorem modPort_sends (s : State) (k : Nat) (f : Port → Port) : (modPort s k f).sends = s.sends := rfl
@[simp] theorem modPort_locks (s : State) (k : Nat) (f : Port → Port) : (modPort s k f).locks = s.locks := rfl
@[simp] theorem modPort_ctxs (s : State) (k : Nat) (f : Port → Port) : (modPort s k f).ctxs = s.ctxs := rfl
@[simp] theorem modPort_ctxServed (s : State) (k : Nat) (f : Port → Port) : (modPort s k f).ctxServed = s.ctxServed := rfl
@[simp] theorem modPort_lanes (s : State) (k : Nat) (f : Port → Port) : (modPort s k f).lanes = s.lanes := rfl
@[simp] theorem modPort_stylusQ (s : State) (k : Nat) (f : Port → Port) : (modPort s k f).stylusQ = s.stylusQ := rfl
@[simp] theorem modPort_dispatchQ (s : State) (k : Nat) (f : Port → Port) : (modPort s k f).dispatchQ = s.dispatchQ := rfl
@[simp] theorem modPort_classNext (s : State) (k : Nat) (f : Port → Port) : (modPort s k f).classNext = s.classNext := rfl
@[simp] theorem modPort_slots (s : State) (k : Nat) (f : Port → Port) : (modPort s k f).slots = s.slots := rfl
@[simp] theorem modPort_holes (s : State) (k : Nat) (f : Port → Port) : (modPort s k f).holes = s.holes := rfl
@[simp] theorem modPort_slotOrder (s : State) (k : Nat) (f : Port → Port) : (modPort s k f).slotOrder = s.slotOrder := rfl
@[simp] theorem modPort_maxKey (s : State) (k : Nat) (f : Port → Port) : (modPort s k f).maxKey = s.maxKey := rfl
@[simp] theorem modPort_compl (s : State) (k : Nat) (f : Port → Port) : (modPort s k f).compl = s.compl := rfl
@[simp] theorem modPort_queues (s : State) (k : Nat) (f : Port → Port) : (modPort s k f).queues = s.queues := rfl
@[simp] theorem modPort_tokens (s : State) (k : Nat) (f : Port → Port) : (modPort s k f).tokens = s.tokens := rfl
@[simp] theorem modPort_shapers (s : State) (k : Nat) (f : Port → Port) : (modPort s k f).shapers = s.shapers := rfl
@[simp] theorem modPort_gateSkip (s : State) (k : Nat) (f : Port → Port) : (modPort s k f).gateSkip = s.gateSkip := rfl
@[simp] theorem modPort_xings (s : State) (k : Nat) (f : Port → Port) : (modPort s k f).xings = s.xings := rfl
@[simp] theorem modPort_extents (s : State) (k : Nat) (f : Port → Port) : (modPort s k f).extents = s.extents := rfl
@[simp] theorem modPort_lineTags (s : State) (k : Nat) (f : Port → Port) : (modPort s k f).lineTags = s.lineTags := rfl
@[simp] theorem modPort_frameOrder (s : State) (k : Nat) (f : Port → Port) : (modPort s k f).frameOrder = s.frameOrder := rfl
@[simp] theorem modPort_decisions (s : State) (k : Nat) (f : Port → Port) : (modPort s k f).decisions = s.decisions := rfl
@[simp] theorem modPort_decBatch (s : State) (k : Nat) (f : Port → Port) : (modPort s k f).decBatch = s.decBatch := rfl
@[simp] theorem modPort_accepts (s : State) (k : Nat) (f : Port → Port) : (modPort s k f).accepts = s.accepts := rfl
@[simp] theorem modPort_copy (s : State) (k : Nat) (f : Port → Port) : (modPort s k f).copy = s.copy := rfl
@[simp] theorem modPort_accOuts (s : State) (k : Nat) (f : Port → Port) : (modPort s k f).accOuts = s.accOuts := rfl
@[simp] theorem modPort_copybook (s : State) (k : Nat) (f : Port → Port) : (modPort s k f).copybook = s.copybook := rfl
@[simp] theorem modPort_ductus (s : State) (k : Nat) (f : Port → Port) : (modPort s k f).ductus = s.ductus := rfl
@[simp] theorem modPort_ink (s : State) (k : Nat) (f : Port → Port) : (modPort s k f).ink = s.ink := rfl
@[simp] theorem modPort_ddrs (s : State) (k : Nat) (f : Port → Port) : (modPort s k f).ddrs = s.ddrs := rfl
@[simp] theorem modPort_parts (s : State) (k : Nat) (f : Port → Port) : (modPort s k f).parts = s.parts := rfl
@[simp] theorem modPort_signet (s : State) (k : Nat) (f : Port → Port) : (modPort s k f).signet = s.signet := rfl
@[simp] theorem modPort_blotter (s : State) (k : Nat) (f : Port → Port) : (modPort s k f).blotter = s.blotter := rfl
@[simp] theorem modPort_mgt (s : State) (k : Nat) (f : Port → Port) : (modPort s k f).mgt = s.mgt := rfl
@[simp] theorem modPort_perf (s : State) (k : Nat) (f : Port → Port) : (modPort s k f).perf = s.perf := rfl
@[simp] theorem modPort_free (s : State) (k : Nat) (f : Port → Port) : (modPort s k f).free = s.free := rfl
@[simp] theorem modPort_writer (s : State) (k : Nat) (f : Port → Port) : (modPort s k f).writer = s.writer := rfl
@[simp] theorem modPort_resp (s : State) (k : Nat) (f : Port → Port) : (modPort s k f).resp = s.resp := rfl
@[simp] theorem modPort_out (s : State) (k : Nat) (f : Port → Port) : (modPort s k f).out = s.out := rfl

@[simp] theorem modDdr_pending (s : State) (c : Nat) (f : Ddr → Ddr) : (modDdr s c f).pending = s.pending := rfl
@[simp] theorem modDdr_regs (s : State) (c : Nat) (f : Ddr → Ddr) : (modDdr s c f).regs = s.regs := rfl
@[simp] theorem modDdr_mem (s : State) (c : Nat) (f : Ddr → Ddr) : (modDdr s c f).mem = s.mem := rfl
@[simp] theorem modDdr_badWords (s : State) (c : Nat) (f : Ddr → Ddr) : (modDdr s c f).badWords = s.badWords := rfl
@[simp] theorem modDdr_addrTags (s : State) (c : Nat) (f : Ddr → Ddr) : (modDdr s c f).addrTags = s.addrTags := rfl
@[simp] theorem modDdr_phase (s : State) (c : Nat) (f : Ddr → Ddr) : (modDdr s c f).phase = s.phase := rfl
@[simp] theorem modDdr_threads (s : State) (c : Nat) (f : Ddr → Ddr) : (modDdr s c f).threads = s.threads := rfl
@[simp] theorem modDdr_nibs (s : State) (c : Nat) (f : Ddr → Ddr) : (modDdr s c f).nibs = s.nibs := rfl
@[simp] theorem modDdr_chans (s : State) (c : Nat) (f : Ddr → Ddr) : (modDdr s c f).chans = s.chans := rfl
@[simp] theorem modDdr_sends (s : State) (c : Nat) (f : Ddr → Ddr) : (modDdr s c f).sends = s.sends := rfl
@[simp] theorem modDdr_locks (s : State) (c : Nat) (f : Ddr → Ddr) : (modDdr s c f).locks = s.locks := rfl
@[simp] theorem modDdr_ctxs (s : State) (c : Nat) (f : Ddr → Ddr) : (modDdr s c f).ctxs = s.ctxs := rfl
@[simp] theorem modDdr_ctxServed (s : State) (c : Nat) (f : Ddr → Ddr) : (modDdr s c f).ctxServed = s.ctxServed := rfl
@[simp] theorem modDdr_lanes (s : State) (c : Nat) (f : Ddr → Ddr) : (modDdr s c f).lanes = s.lanes := rfl
@[simp] theorem modDdr_stylusQ (s : State) (c : Nat) (f : Ddr → Ddr) : (modDdr s c f).stylusQ = s.stylusQ := rfl
@[simp] theorem modDdr_dispatchQ (s : State) (c : Nat) (f : Ddr → Ddr) : (modDdr s c f).dispatchQ = s.dispatchQ := rfl
@[simp] theorem modDdr_classNext (s : State) (c : Nat) (f : Ddr → Ddr) : (modDdr s c f).classNext = s.classNext := rfl
@[simp] theorem modDdr_slots (s : State) (c : Nat) (f : Ddr → Ddr) : (modDdr s c f).slots = s.slots := rfl
@[simp] theorem modDdr_holes (s : State) (c : Nat) (f : Ddr → Ddr) : (modDdr s c f).holes = s.holes := rfl
@[simp] theorem modDdr_slotOrder (s : State) (c : Nat) (f : Ddr → Ddr) : (modDdr s c f).slotOrder = s.slotOrder := rfl
@[simp] theorem modDdr_maxKey (s : State) (c : Nat) (f : Ddr → Ddr) : (modDdr s c f).maxKey = s.maxKey := rfl
@[simp] theorem modDdr_compl (s : State) (c : Nat) (f : Ddr → Ddr) : (modDdr s c f).compl = s.compl := rfl
@[simp] theorem modDdr_queues (s : State) (c : Nat) (f : Ddr → Ddr) : (modDdr s c f).queues = s.queues := rfl
@[simp] theorem modDdr_tokens (s : State) (c : Nat) (f : Ddr → Ddr) : (modDdr s c f).tokens = s.tokens := rfl
@[simp] theorem modDdr_shapers (s : State) (c : Nat) (f : Ddr → Ddr) : (modDdr s c f).shapers = s.shapers := rfl
@[simp] theorem modDdr_gateSkip (s : State) (c : Nat) (f : Ddr → Ddr) : (modDdr s c f).gateSkip = s.gateSkip := rfl
@[simp] theorem modDdr_xings (s : State) (c : Nat) (f : Ddr → Ddr) : (modDdr s c f).xings = s.xings := rfl
@[simp] theorem modDdr_extents (s : State) (c : Nat) (f : Ddr → Ddr) : (modDdr s c f).extents = s.extents := rfl
@[simp] theorem modDdr_lineTags (s : State) (c : Nat) (f : Ddr → Ddr) : (modDdr s c f).lineTags = s.lineTags := rfl
@[simp] theorem modDdr_frameOrder (s : State) (c : Nat) (f : Ddr → Ddr) : (modDdr s c f).frameOrder = s.frameOrder := rfl
@[simp] theorem modDdr_decisions (s : State) (c : Nat) (f : Ddr → Ddr) : (modDdr s c f).decisions = s.decisions := rfl
@[simp] theorem modDdr_decBatch (s : State) (c : Nat) (f : Ddr → Ddr) : (modDdr s c f).decBatch = s.decBatch := rfl
@[simp] theorem modDdr_accepts (s : State) (c : Nat) (f : Ddr → Ddr) : (modDdr s c f).accepts = s.accepts := rfl
@[simp] theorem modDdr_copy (s : State) (c : Nat) (f : Ddr → Ddr) : (modDdr s c f).copy = s.copy := rfl
@[simp] theorem modDdr_accOuts (s : State) (c : Nat) (f : Ddr → Ddr) : (modDdr s c f).accOuts = s.accOuts := rfl
@[simp] theorem modDdr_copybook (s : State) (c : Nat) (f : Ddr → Ddr) : (modDdr s c f).copybook = s.copybook := rfl
@[simp] theorem modDdr_ductus (s : State) (c : Nat) (f : Ddr → Ddr) : (modDdr s c f).ductus = s.ductus := rfl
@[simp] theorem modDdr_ink (s : State) (c : Nat) (f : Ddr → Ddr) : (modDdr s c f).ink = s.ink := rfl
@[simp] theorem modDdr_parts (s : State) (c : Nat) (f : Ddr → Ddr) : (modDdr s c f).parts = s.parts := rfl
@[simp] theorem modDdr_ports (s : State) (c : Nat) (f : Ddr → Ddr) : (modDdr s c f).ports = s.ports := rfl
@[simp] theorem modDdr_signet (s : State) (c : Nat) (f : Ddr → Ddr) : (modDdr s c f).signet = s.signet := rfl
@[simp] theorem modDdr_blotter (s : State) (c : Nat) (f : Ddr → Ddr) : (modDdr s c f).blotter = s.blotter := rfl
@[simp] theorem modDdr_mgt (s : State) (c : Nat) (f : Ddr → Ddr) : (modDdr s c f).mgt = s.mgt := rfl
@[simp] theorem modDdr_perf (s : State) (c : Nat) (f : Ddr → Ddr) : (modDdr s c f).perf = s.perf := rfl
@[simp] theorem modDdr_free (s : State) (c : Nat) (f : Ddr → Ddr) : (modDdr s c f).free = s.free := rfl
@[simp] theorem modDdr_writer (s : State) (c : Nat) (f : Ddr → Ddr) : (modDdr s c f).writer = s.writer := rfl
@[simp] theorem modDdr_resp (s : State) (c : Nat) (f : Ddr → Ddr) : (modDdr s c f).resp = s.resp := rfl
@[simp] theorem modDdr_out (s : State) (c : Nat) (f : Ddr → Ddr) : (modDdr s c f).out = s.out := rfl

@[simp] theorem modXing_pending (s : State) (b : Nat) (f : Xing → Xing) : (modXing s b f).pending = s.pending := rfl
@[simp] theorem modXing_regs (s : State) (b : Nat) (f : Xing → Xing) : (modXing s b f).regs = s.regs := rfl
@[simp] theorem modXing_mem (s : State) (b : Nat) (f : Xing → Xing) : (modXing s b f).mem = s.mem := rfl
@[simp] theorem modXing_badWords (s : State) (b : Nat) (f : Xing → Xing) : (modXing s b f).badWords = s.badWords := rfl
@[simp] theorem modXing_addrTags (s : State) (b : Nat) (f : Xing → Xing) : (modXing s b f).addrTags = s.addrTags := rfl
@[simp] theorem modXing_phase (s : State) (b : Nat) (f : Xing → Xing) : (modXing s b f).phase = s.phase := rfl
@[simp] theorem modXing_threads (s : State) (b : Nat) (f : Xing → Xing) : (modXing s b f).threads = s.threads := rfl
@[simp] theorem modXing_nibs (s : State) (b : Nat) (f : Xing → Xing) : (modXing s b f).nibs = s.nibs := rfl
@[simp] theorem modXing_chans (s : State) (b : Nat) (f : Xing → Xing) : (modXing s b f).chans = s.chans := rfl
@[simp] theorem modXing_sends (s : State) (b : Nat) (f : Xing → Xing) : (modXing s b f).sends = s.sends := rfl
@[simp] theorem modXing_locks (s : State) (b : Nat) (f : Xing → Xing) : (modXing s b f).locks = s.locks := rfl
@[simp] theorem modXing_ctxs (s : State) (b : Nat) (f : Xing → Xing) : (modXing s b f).ctxs = s.ctxs := rfl
@[simp] theorem modXing_ctxServed (s : State) (b : Nat) (f : Xing → Xing) : (modXing s b f).ctxServed = s.ctxServed := rfl
@[simp] theorem modXing_lanes (s : State) (b : Nat) (f : Xing → Xing) : (modXing s b f).lanes = s.lanes := rfl
@[simp] theorem modXing_stylusQ (s : State) (b : Nat) (f : Xing → Xing) : (modXing s b f).stylusQ = s.stylusQ := rfl
@[simp] theorem modXing_dispatchQ (s : State) (b : Nat) (f : Xing → Xing) : (modXing s b f).dispatchQ = s.dispatchQ := rfl
@[simp] theorem modXing_classNext (s : State) (b : Nat) (f : Xing → Xing) : (modXing s b f).classNext = s.classNext := rfl
@[simp] theorem modXing_slots (s : State) (b : Nat) (f : Xing → Xing) : (modXing s b f).slots = s.slots := rfl
@[simp] theorem modXing_holes (s : State) (b : Nat) (f : Xing → Xing) : (modXing s b f).holes = s.holes := rfl
@[simp] theorem modXing_slotOrder (s : State) (b : Nat) (f : Xing → Xing) : (modXing s b f).slotOrder = s.slotOrder := rfl
@[simp] theorem modXing_maxKey (s : State) (b : Nat) (f : Xing → Xing) : (modXing s b f).maxKey = s.maxKey := rfl
@[simp] theorem modXing_compl (s : State) (b : Nat) (f : Xing → Xing) : (modXing s b f).compl = s.compl := rfl
@[simp] theorem modXing_queues (s : State) (b : Nat) (f : Xing → Xing) : (modXing s b f).queues = s.queues := rfl
@[simp] theorem modXing_tokens (s : State) (b : Nat) (f : Xing → Xing) : (modXing s b f).tokens = s.tokens := rfl
@[simp] theorem modXing_shapers (s : State) (b : Nat) (f : Xing → Xing) : (modXing s b f).shapers = s.shapers := rfl
@[simp] theorem modXing_gateSkip (s : State) (b : Nat) (f : Xing → Xing) : (modXing s b f).gateSkip = s.gateSkip := rfl
@[simp] theorem modXing_extents (s : State) (b : Nat) (f : Xing → Xing) : (modXing s b f).extents = s.extents := rfl
@[simp] theorem modXing_lineTags (s : State) (b : Nat) (f : Xing → Xing) : (modXing s b f).lineTags = s.lineTags := rfl
@[simp] theorem modXing_frameOrder (s : State) (b : Nat) (f : Xing → Xing) : (modXing s b f).frameOrder = s.frameOrder := rfl
@[simp] theorem modXing_decisions (s : State) (b : Nat) (f : Xing → Xing) : (modXing s b f).decisions = s.decisions := rfl
@[simp] theorem modXing_decBatch (s : State) (b : Nat) (f : Xing → Xing) : (modXing s b f).decBatch = s.decBatch := rfl
@[simp] theorem modXing_accepts (s : State) (b : Nat) (f : Xing → Xing) : (modXing s b f).accepts = s.accepts := rfl
@[simp] theorem modXing_copy (s : State) (b : Nat) (f : Xing → Xing) : (modXing s b f).copy = s.copy := rfl
@[simp] theorem modXing_accOuts (s : State) (b : Nat) (f : Xing → Xing) : (modXing s b f).accOuts = s.accOuts := rfl
@[simp] theorem modXing_copybook (s : State) (b : Nat) (f : Xing → Xing) : (modXing s b f).copybook = s.copybook := rfl
@[simp] theorem modXing_ductus (s : State) (b : Nat) (f : Xing → Xing) : (modXing s b f).ductus = s.ductus := rfl
@[simp] theorem modXing_ink (s : State) (b : Nat) (f : Xing → Xing) : (modXing s b f).ink = s.ink := rfl
@[simp] theorem modXing_ddrs (s : State) (b : Nat) (f : Xing → Xing) : (modXing s b f).ddrs = s.ddrs := rfl
@[simp] theorem modXing_parts (s : State) (b : Nat) (f : Xing → Xing) : (modXing s b f).parts = s.parts := rfl
@[simp] theorem modXing_ports (s : State) (b : Nat) (f : Xing → Xing) : (modXing s b f).ports = s.ports := rfl
@[simp] theorem modXing_signet (s : State) (b : Nat) (f : Xing → Xing) : (modXing s b f).signet = s.signet := rfl
@[simp] theorem modXing_blotter (s : State) (b : Nat) (f : Xing → Xing) : (modXing s b f).blotter = s.blotter := rfl
@[simp] theorem modXing_mgt (s : State) (b : Nat) (f : Xing → Xing) : (modXing s b f).mgt = s.mgt := rfl
@[simp] theorem modXing_perf (s : State) (b : Nat) (f : Xing → Xing) : (modXing s b f).perf = s.perf := rfl
@[simp] theorem modXing_free (s : State) (b : Nat) (f : Xing → Xing) : (modXing s b f).free = s.free := rfl
@[simp] theorem modXing_writer (s : State) (b : Nat) (f : Xing → Xing) : (modXing s b f).writer = s.writer := rfl
@[simp] theorem modXing_resp (s : State) (b : Nat) (f : Xing → Xing) : (modXing s b f).resp = s.resp := rfl
@[simp] theorem modXing_out (s : State) (b : Nat) (f : Xing → Xing) : (modXing s b f).out = s.out := rfl

@[simp] theorem setSlot_pending (s : State) (k : Nat) (v : Option Slot) : (setSlot s k v).pending = s.pending := rfl
@[simp] theorem setSlot_regs (s : State) (k : Nat) (v : Option Slot) : (setSlot s k v).regs = s.regs := rfl
@[simp] theorem setSlot_mem (s : State) (k : Nat) (v : Option Slot) : (setSlot s k v).mem = s.mem := rfl
@[simp] theorem setSlot_badWords (s : State) (k : Nat) (v : Option Slot) : (setSlot s k v).badWords = s.badWords := rfl
@[simp] theorem setSlot_addrTags (s : State) (k : Nat) (v : Option Slot) : (setSlot s k v).addrTags = s.addrTags := rfl
@[simp] theorem setSlot_phase (s : State) (k : Nat) (v : Option Slot) : (setSlot s k v).phase = s.phase := rfl
@[simp] theorem setSlot_threads (s : State) (k : Nat) (v : Option Slot) : (setSlot s k v).threads = s.threads := rfl
@[simp] theorem setSlot_nibs (s : State) (k : Nat) (v : Option Slot) : (setSlot s k v).nibs = s.nibs := rfl
@[simp] theorem setSlot_chans (s : State) (k : Nat) (v : Option Slot) : (setSlot s k v).chans = s.chans := rfl
@[simp] theorem setSlot_sends (s : State) (k : Nat) (v : Option Slot) : (setSlot s k v).sends = s.sends := rfl
@[simp] theorem setSlot_locks (s : State) (k : Nat) (v : Option Slot) : (setSlot s k v).locks = s.locks := rfl
@[simp] theorem setSlot_ctxs (s : State) (k : Nat) (v : Option Slot) : (setSlot s k v).ctxs = s.ctxs := rfl
@[simp] theorem setSlot_ctxServed (s : State) (k : Nat) (v : Option Slot) : (setSlot s k v).ctxServed = s.ctxServed := rfl
@[simp] theorem setSlot_lanes (s : State) (k : Nat) (v : Option Slot) : (setSlot s k v).lanes = s.lanes := rfl
@[simp] theorem setSlot_stylusQ (s : State) (k : Nat) (v : Option Slot) : (setSlot s k v).stylusQ = s.stylusQ := rfl
@[simp] theorem setSlot_dispatchQ (s : State) (k : Nat) (v : Option Slot) : (setSlot s k v).dispatchQ = s.dispatchQ := rfl
@[simp] theorem setSlot_classNext (s : State) (k : Nat) (v : Option Slot) : (setSlot s k v).classNext = s.classNext := rfl
@[simp] theorem setSlot_holes (s : State) (k : Nat) (v : Option Slot) : (setSlot s k v).holes = s.holes := rfl
@[simp] theorem setSlot_slotOrder (s : State) (k : Nat) (v : Option Slot) : (setSlot s k v).slotOrder = s.slotOrder := rfl
@[simp] theorem setSlot_maxKey (s : State) (k : Nat) (v : Option Slot) : (setSlot s k v).maxKey = s.maxKey := rfl
@[simp] theorem setSlot_compl (s : State) (k : Nat) (v : Option Slot) : (setSlot s k v).compl = s.compl := rfl
@[simp] theorem setSlot_queues (s : State) (k : Nat) (v : Option Slot) : (setSlot s k v).queues = s.queues := rfl
@[simp] theorem setSlot_tokens (s : State) (k : Nat) (v : Option Slot) : (setSlot s k v).tokens = s.tokens := rfl
@[simp] theorem setSlot_shapers (s : State) (k : Nat) (v : Option Slot) : (setSlot s k v).shapers = s.shapers := rfl
@[simp] theorem setSlot_gateSkip (s : State) (k : Nat) (v : Option Slot) : (setSlot s k v).gateSkip = s.gateSkip := rfl
@[simp] theorem setSlot_xings (s : State) (k : Nat) (v : Option Slot) : (setSlot s k v).xings = s.xings := rfl
@[simp] theorem setSlot_extents (s : State) (k : Nat) (v : Option Slot) : (setSlot s k v).extents = s.extents := rfl
@[simp] theorem setSlot_lineTags (s : State) (k : Nat) (v : Option Slot) : (setSlot s k v).lineTags = s.lineTags := rfl
@[simp] theorem setSlot_frameOrder (s : State) (k : Nat) (v : Option Slot) : (setSlot s k v).frameOrder = s.frameOrder := rfl
@[simp] theorem setSlot_decisions (s : State) (k : Nat) (v : Option Slot) : (setSlot s k v).decisions = s.decisions := rfl
@[simp] theorem setSlot_decBatch (s : State) (k : Nat) (v : Option Slot) : (setSlot s k v).decBatch = s.decBatch := rfl
@[simp] theorem setSlot_accepts (s : State) (k : Nat) (v : Option Slot) : (setSlot s k v).accepts = s.accepts := rfl
@[simp] theorem setSlot_copy (s : State) (k : Nat) (v : Option Slot) : (setSlot s k v).copy = s.copy := rfl
@[simp] theorem setSlot_accOuts (s : State) (k : Nat) (v : Option Slot) : (setSlot s k v).accOuts = s.accOuts := rfl
@[simp] theorem setSlot_copybook (s : State) (k : Nat) (v : Option Slot) : (setSlot s k v).copybook = s.copybook := rfl
@[simp] theorem setSlot_ductus (s : State) (k : Nat) (v : Option Slot) : (setSlot s k v).ductus = s.ductus := rfl
@[simp] theorem setSlot_ink (s : State) (k : Nat) (v : Option Slot) : (setSlot s k v).ink = s.ink := rfl
@[simp] theorem setSlot_ddrs (s : State) (k : Nat) (v : Option Slot) : (setSlot s k v).ddrs = s.ddrs := rfl
@[simp] theorem setSlot_parts (s : State) (k : Nat) (v : Option Slot) : (setSlot s k v).parts = s.parts := rfl
@[simp] theorem setSlot_ports (s : State) (k : Nat) (v : Option Slot) : (setSlot s k v).ports = s.ports := rfl
@[simp] theorem setSlot_signet (s : State) (k : Nat) (v : Option Slot) : (setSlot s k v).signet = s.signet := rfl
@[simp] theorem setSlot_blotter (s : State) (k : Nat) (v : Option Slot) : (setSlot s k v).blotter = s.blotter := rfl
@[simp] theorem setSlot_mgt (s : State) (k : Nat) (v : Option Slot) : (setSlot s k v).mgt = s.mgt := rfl
@[simp] theorem setSlot_perf (s : State) (k : Nat) (v : Option Slot) : (setSlot s k v).perf = s.perf := rfl
@[simp] theorem setSlot_free (s : State) (k : Nat) (v : Option Slot) : (setSlot s k v).free = s.free := rfl
@[simp] theorem setSlot_writer (s : State) (k : Nat) (v : Option Slot) : (setSlot s k v).writer = s.writer := rfl
@[simp] theorem setSlot_resp (s : State) (k : Nat) (v : Option Slot) : (setSlot s k v).resp = s.resp := rfl
@[simp] theorem setSlot_out (s : State) (k : Nat) (v : Option Slot) : (setSlot s k v).out = s.out := rfl

@[simp] theorem setQueue_pending (s : State) (q : Nat) (v : List FD) : (setQueue s q v).pending = s.pending := rfl
@[simp] theorem setQueue_regs (s : State) (q : Nat) (v : List FD) : (setQueue s q v).regs = s.regs := rfl
@[simp] theorem setQueue_mem (s : State) (q : Nat) (v : List FD) : (setQueue s q v).mem = s.mem := rfl
@[simp] theorem setQueue_badWords (s : State) (q : Nat) (v : List FD) : (setQueue s q v).badWords = s.badWords := rfl
@[simp] theorem setQueue_addrTags (s : State) (q : Nat) (v : List FD) : (setQueue s q v).addrTags = s.addrTags := rfl
@[simp] theorem setQueue_phase (s : State) (q : Nat) (v : List FD) : (setQueue s q v).phase = s.phase := rfl
@[simp] theorem setQueue_threads (s : State) (q : Nat) (v : List FD) : (setQueue s q v).threads = s.threads := rfl
@[simp] theorem setQueue_nibs (s : State) (q : Nat) (v : List FD) : (setQueue s q v).nibs = s.nibs := rfl
@[simp] theorem setQueue_chans (s : State) (q : Nat) (v : List FD) : (setQueue s q v).chans = s.chans := rfl
@[simp] theorem setQueue_sends (s : State) (q : Nat) (v : List FD) : (setQueue s q v).sends = s.sends := rfl
@[simp] theorem setQueue_locks (s : State) (q : Nat) (v : List FD) : (setQueue s q v).locks = s.locks := rfl
@[simp] theorem setQueue_ctxs (s : State) (q : Nat) (v : List FD) : (setQueue s q v).ctxs = s.ctxs := rfl
@[simp] theorem setQueue_ctxServed (s : State) (q : Nat) (v : List FD) : (setQueue s q v).ctxServed = s.ctxServed := rfl
@[simp] theorem setQueue_lanes (s : State) (q : Nat) (v : List FD) : (setQueue s q v).lanes = s.lanes := rfl
@[simp] theorem setQueue_stylusQ (s : State) (q : Nat) (v : List FD) : (setQueue s q v).stylusQ = s.stylusQ := rfl
@[simp] theorem setQueue_dispatchQ (s : State) (q : Nat) (v : List FD) : (setQueue s q v).dispatchQ = s.dispatchQ := rfl
@[simp] theorem setQueue_classNext (s : State) (q : Nat) (v : List FD) : (setQueue s q v).classNext = s.classNext := rfl
@[simp] theorem setQueue_slots (s : State) (q : Nat) (v : List FD) : (setQueue s q v).slots = s.slots := rfl
@[simp] theorem setQueue_holes (s : State) (q : Nat) (v : List FD) : (setQueue s q v).holes = s.holes := rfl
@[simp] theorem setQueue_slotOrder (s : State) (q : Nat) (v : List FD) : (setQueue s q v).slotOrder = s.slotOrder := rfl
@[simp] theorem setQueue_maxKey (s : State) (q : Nat) (v : List FD) : (setQueue s q v).maxKey = s.maxKey := rfl
@[simp] theorem setQueue_compl (s : State) (q : Nat) (v : List FD) : (setQueue s q v).compl = s.compl := rfl
@[simp] theorem setQueue_tokens (s : State) (q : Nat) (v : List FD) : (setQueue s q v).tokens = s.tokens := rfl
@[simp] theorem setQueue_shapers (s : State) (q : Nat) (v : List FD) : (setQueue s q v).shapers = s.shapers := rfl
@[simp] theorem setQueue_gateSkip (s : State) (q : Nat) (v : List FD) : (setQueue s q v).gateSkip = s.gateSkip := rfl
@[simp] theorem setQueue_xings (s : State) (q : Nat) (v : List FD) : (setQueue s q v).xings = s.xings := rfl
@[simp] theorem setQueue_extents (s : State) (q : Nat) (v : List FD) : (setQueue s q v).extents = s.extents := rfl
@[simp] theorem setQueue_lineTags (s : State) (q : Nat) (v : List FD) : (setQueue s q v).lineTags = s.lineTags := rfl
@[simp] theorem setQueue_frameOrder (s : State) (q : Nat) (v : List FD) : (setQueue s q v).frameOrder = s.frameOrder := rfl
@[simp] theorem setQueue_decisions (s : State) (q : Nat) (v : List FD) : (setQueue s q v).decisions = s.decisions := rfl
@[simp] theorem setQueue_decBatch (s : State) (q : Nat) (v : List FD) : (setQueue s q v).decBatch = s.decBatch := rfl
@[simp] theorem setQueue_accepts (s : State) (q : Nat) (v : List FD) : (setQueue s q v).accepts = s.accepts := rfl
@[simp] theorem setQueue_copy (s : State) (q : Nat) (v : List FD) : (setQueue s q v).copy = s.copy := rfl
@[simp] theorem setQueue_accOuts (s : State) (q : Nat) (v : List FD) : (setQueue s q v).accOuts = s.accOuts := rfl
@[simp] theorem setQueue_copybook (s : State) (q : Nat) (v : List FD) : (setQueue s q v).copybook = s.copybook := rfl
@[simp] theorem setQueue_ductus (s : State) (q : Nat) (v : List FD) : (setQueue s q v).ductus = s.ductus := rfl
@[simp] theorem setQueue_ink (s : State) (q : Nat) (v : List FD) : (setQueue s q v).ink = s.ink := rfl
@[simp] theorem setQueue_ddrs (s : State) (q : Nat) (v : List FD) : (setQueue s q v).ddrs = s.ddrs := rfl
@[simp] theorem setQueue_parts (s : State) (q : Nat) (v : List FD) : (setQueue s q v).parts = s.parts := rfl
@[simp] theorem setQueue_ports (s : State) (q : Nat) (v : List FD) : (setQueue s q v).ports = s.ports := rfl
@[simp] theorem setQueue_signet (s : State) (q : Nat) (v : List FD) : (setQueue s q v).signet = s.signet := rfl
@[simp] theorem setQueue_blotter (s : State) (q : Nat) (v : List FD) : (setQueue s q v).blotter = s.blotter := rfl
@[simp] theorem setQueue_mgt (s : State) (q : Nat) (v : List FD) : (setQueue s q v).mgt = s.mgt := rfl
@[simp] theorem setQueue_perf (s : State) (q : Nat) (v : List FD) : (setQueue s q v).perf = s.perf := rfl
@[simp] theorem setQueue_free (s : State) (q : Nat) (v : List FD) : (setQueue s q v).free = s.free := rfl
@[simp] theorem setQueue_writer (s : State) (q : Nat) (v : List FD) : (setQueue s q v).writer = s.writer := rfl
@[simp] theorem setQueue_resp (s : State) (q : Nat) (v : List FD) : (setQueue s q v).resp = s.resp := rfl
@[simp] theorem setQueue_out (s : State) (q : Nat) (v : List FD) : (setQueue s q v).out = s.out := rfl

@[simp] theorem emit_pending (s : State) (o : Out) : (emit s o).pending = s.pending := rfl
@[simp] theorem emit_regs (s : State) (o : Out) : (emit s o).regs = s.regs := rfl
@[simp] theorem emit_mem (s : State) (o : Out) : (emit s o).mem = s.mem := rfl
@[simp] theorem emit_badWords (s : State) (o : Out) : (emit s o).badWords = s.badWords := rfl
@[simp] theorem emit_addrTags (s : State) (o : Out) : (emit s o).addrTags = s.addrTags := rfl
@[simp] theorem emit_phase (s : State) (o : Out) : (emit s o).phase = s.phase := rfl
@[simp] theorem emit_threads (s : State) (o : Out) : (emit s o).threads = s.threads := rfl
@[simp] theorem emit_nibs (s : State) (o : Out) : (emit s o).nibs = s.nibs := rfl
@[simp] theorem emit_chans (s : State) (o : Out) : (emit s o).chans = s.chans := rfl
@[simp] theorem emit_sends (s : State) (o : Out) : (emit s o).sends = s.sends := rfl
@[simp] theorem emit_locks (s : State) (o : Out) : (emit s o).locks = s.locks := rfl
@[simp] theorem emit_ctxs (s : State) (o : Out) : (emit s o).ctxs = s.ctxs := rfl
@[simp] theorem emit_ctxServed (s : State) (o : Out) : (emit s o).ctxServed = s.ctxServed := rfl
@[simp] theorem emit_lanes (s : State) (o : Out) : (emit s o).lanes = s.lanes := rfl
@[simp] theorem emit_stylusQ (s : State) (o : Out) : (emit s o).stylusQ = s.stylusQ := rfl
@[simp] theorem emit_dispatchQ (s : State) (o : Out) : (emit s o).dispatchQ = s.dispatchQ := rfl
@[simp] theorem emit_classNext (s : State) (o : Out) : (emit s o).classNext = s.classNext := rfl
@[simp] theorem emit_slots (s : State) (o : Out) : (emit s o).slots = s.slots := rfl
@[simp] theorem emit_holes (s : State) (o : Out) : (emit s o).holes = s.holes := rfl
@[simp] theorem emit_slotOrder (s : State) (o : Out) : (emit s o).slotOrder = s.slotOrder := rfl
@[simp] theorem emit_maxKey (s : State) (o : Out) : (emit s o).maxKey = s.maxKey := rfl
@[simp] theorem emit_compl (s : State) (o : Out) : (emit s o).compl = s.compl := rfl
@[simp] theorem emit_queues (s : State) (o : Out) : (emit s o).queues = s.queues := rfl
@[simp] theorem emit_tokens (s : State) (o : Out) : (emit s o).tokens = s.tokens := rfl
@[simp] theorem emit_shapers (s : State) (o : Out) : (emit s o).shapers = s.shapers := rfl
@[simp] theorem emit_gateSkip (s : State) (o : Out) : (emit s o).gateSkip = s.gateSkip := rfl
@[simp] theorem emit_xings (s : State) (o : Out) : (emit s o).xings = s.xings := rfl
@[simp] theorem emit_extents (s : State) (o : Out) : (emit s o).extents = s.extents := rfl
@[simp] theorem emit_lineTags (s : State) (o : Out) : (emit s o).lineTags = s.lineTags := rfl
@[simp] theorem emit_frameOrder (s : State) (o : Out) : (emit s o).frameOrder = s.frameOrder := rfl
@[simp] theorem emit_decisions (s : State) (o : Out) : (emit s o).decisions = s.decisions := rfl
@[simp] theorem emit_decBatch (s : State) (o : Out) : (emit s o).decBatch = s.decBatch := rfl
@[simp] theorem emit_accepts (s : State) (o : Out) : (emit s o).accepts = s.accepts := rfl
@[simp] theorem emit_copy (s : State) (o : Out) : (emit s o).copy = s.copy := rfl
@[simp] theorem emit_accOuts (s : State) (o : Out) : (emit s o).accOuts = s.accOuts := rfl
@[simp] theorem emit_copybook (s : State) (o : Out) : (emit s o).copybook = s.copybook := rfl
@[simp] theorem emit_ductus (s : State) (o : Out) : (emit s o).ductus = s.ductus := rfl
@[simp] theorem emit_ink (s : State) (o : Out) : (emit s o).ink = s.ink := rfl
@[simp] theorem emit_ddrs (s : State) (o : Out) : (emit s o).ddrs = s.ddrs := rfl
@[simp] theorem emit_parts (s : State) (o : Out) : (emit s o).parts = s.parts := rfl
@[simp] theorem emit_ports (s : State) (o : Out) : (emit s o).ports = s.ports := rfl
@[simp] theorem emit_signet (s : State) (o : Out) : (emit s o).signet = s.signet := rfl
@[simp] theorem emit_blotter (s : State) (o : Out) : (emit s o).blotter = s.blotter := rfl
@[simp] theorem emit_mgt (s : State) (o : Out) : (emit s o).mgt = s.mgt := rfl
@[simp] theorem emit_perf (s : State) (o : Out) : (emit s o).perf = s.perf := rfl
@[simp] theorem emit_free (s : State) (o : Out) : (emit s o).free = s.free := rfl
@[simp] theorem emit_writer (s : State) (o : Out) : (emit s o).writer = s.writer := rfl
@[simp] theorem emit_resp (s : State) (o : Out) : (emit s o).resp = s.resp := rfl

@[simp] theorem respond_pending (s : State) (l : List Nat) : (respond s l).pending = s.pending := rfl
@[simp] theorem respond_regs (s : State) (l : List Nat) : (respond s l).regs = s.regs := rfl
@[simp] theorem respond_mem (s : State) (l : List Nat) : (respond s l).mem = s.mem := rfl
@[simp] theorem respond_badWords (s : State) (l : List Nat) : (respond s l).badWords = s.badWords := rfl
@[simp] theorem respond_addrTags (s : State) (l : List Nat) : (respond s l).addrTags = s.addrTags := rfl
@[simp] theorem respond_phase (s : State) (l : List Nat) : (respond s l).phase = s.phase := rfl
@[simp] theorem respond_threads (s : State) (l : List Nat) : (respond s l).threads = s.threads := rfl
@[simp] theorem respond_nibs (s : State) (l : List Nat) : (respond s l).nibs = s.nibs := rfl
@[simp] theorem respond_chans (s : State) (l : List Nat) : (respond s l).chans = s.chans := rfl
@[simp] theorem respond_sends (s : State) (l : List Nat) : (respond s l).sends = s.sends := rfl
@[simp] theorem respond_locks (s : State) (l : List Nat) : (respond s l).locks = s.locks := rfl
@[simp] theorem respond_ctxs (s : State) (l : List Nat) : (respond s l).ctxs = s.ctxs := rfl
@[simp] theorem respond_ctxServed (s : State) (l : List Nat) : (respond s l).ctxServed = s.ctxServed := rfl
@[simp] theorem respond_lanes (s : State) (l : List Nat) : (respond s l).lanes = s.lanes := rfl
@[simp] theorem respond_stylusQ (s : State) (l : List Nat) : (respond s l).stylusQ = s.stylusQ := rfl
@[simp] theorem respond_dispatchQ (s : State) (l : List Nat) : (respond s l).dispatchQ = s.dispatchQ := rfl
@[simp] theorem respond_classNext (s : State) (l : List Nat) : (respond s l).classNext = s.classNext := rfl
@[simp] theorem respond_slots (s : State) (l : List Nat) : (respond s l).slots = s.slots := rfl
@[simp] theorem respond_holes (s : State) (l : List Nat) : (respond s l).holes = s.holes := rfl
@[simp] theorem respond_slotOrder (s : State) (l : List Nat) : (respond s l).slotOrder = s.slotOrder := rfl
@[simp] theorem respond_maxKey (s : State) (l : List Nat) : (respond s l).maxKey = s.maxKey := rfl
@[simp] theorem respond_compl (s : State) (l : List Nat) : (respond s l).compl = s.compl := rfl
@[simp] theorem respond_queues (s : State) (l : List Nat) : (respond s l).queues = s.queues := rfl
@[simp] theorem respond_tokens (s : State) (l : List Nat) : (respond s l).tokens = s.tokens := rfl
@[simp] theorem respond_shapers (s : State) (l : List Nat) : (respond s l).shapers = s.shapers := rfl
@[simp] theorem respond_gateSkip (s : State) (l : List Nat) : (respond s l).gateSkip = s.gateSkip := rfl
@[simp] theorem respond_xings (s : State) (l : List Nat) : (respond s l).xings = s.xings := rfl
@[simp] theorem respond_extents (s : State) (l : List Nat) : (respond s l).extents = s.extents := rfl
@[simp] theorem respond_lineTags (s : State) (l : List Nat) : (respond s l).lineTags = s.lineTags := rfl
@[simp] theorem respond_frameOrder (s : State) (l : List Nat) : (respond s l).frameOrder = s.frameOrder := rfl
@[simp] theorem respond_decisions (s : State) (l : List Nat) : (respond s l).decisions = s.decisions := rfl
@[simp] theorem respond_decBatch (s : State) (l : List Nat) : (respond s l).decBatch = s.decBatch := rfl
@[simp] theorem respond_accepts (s : State) (l : List Nat) : (respond s l).accepts = s.accepts := rfl
@[simp] theorem respond_copy (s : State) (l : List Nat) : (respond s l).copy = s.copy := rfl
@[simp] theorem respond_accOuts (s : State) (l : List Nat) : (respond s l).accOuts = s.accOuts := rfl
@[simp] theorem respond_copybook (s : State) (l : List Nat) : (respond s l).copybook = s.copybook := rfl
@[simp] theorem respond_ductus (s : State) (l : List Nat) : (respond s l).ductus = s.ductus := rfl
@[simp] theorem respond_ink (s : State) (l : List Nat) : (respond s l).ink = s.ink := rfl
@[simp] theorem respond_ddrs (s : State) (l : List Nat) : (respond s l).ddrs = s.ddrs := rfl
@[simp] theorem respond_parts (s : State) (l : List Nat) : (respond s l).parts = s.parts := rfl
@[simp] theorem respond_ports (s : State) (l : List Nat) : (respond s l).ports = s.ports := rfl
@[simp] theorem respond_signet (s : State) (l : List Nat) : (respond s l).signet = s.signet := rfl
@[simp] theorem respond_blotter (s : State) (l : List Nat) : (respond s l).blotter = s.blotter := rfl
@[simp] theorem respond_mgt (s : State) (l : List Nat) : (respond s l).mgt = s.mgt := rfl
@[simp] theorem respond_perf (s : State) (l : List Nat) : (respond s l).perf = s.perf := rfl
@[simp] theorem respond_free (s : State) (l : List Nat) : (respond s l).free = s.free := rfl
@[simp] theorem respond_writer (s : State) (l : List Nat) : (respond s l).writer = s.writer := rfl
@[simp] theorem respond_out (s : State) (l : List Nat) : (respond s l).out = s.out := rfl

end Sys2Proof.Machine
end

