-- ==== Sys2Proof/Laws/Table.lean ====
section
/-! SUPPORT. The laws of sparse tables: reading after writing, and the canonical form kept by every write. -/

namespace Sys2Proof.Machine
namespace Tbl

variable {α : Type}

@[simp] theorem get_nil (d : Nat → α) (k : Nat) : get d [] k = d k := rfl

theorem get_erase (d : Nat → α) (t : Tbl α) (k j : Nat) : get d (erase t k) j = if j = k then d j else get d t j := by
  induction t with
  | nil => simp [erase, get]
  | cons e t ih =>
    obtain ⟨i, v⟩ := e
    by_cases h : i = k
    · subst h
      by_cases h' : i = j
      · subst h'; simp [erase, ih]
      · simp [erase, get, ih, h', Ne.symm h']
    · by_cases h' : i = j
      · subst h'; simp [erase, get, h]
      · simp [erase, get, ih, h, h']

theorem get_insert (d : Nat → α) (t : Tbl α) (k j : Nat) (v : α) (hn : ∀ u, (k, u) ∉ t) :
    get d (insert t k v) j = if j = k then v else get d t j := by
  induction t with
  | nil => simp [insert, get, eq_comm]
  | cons e t ih =>
    obtain ⟨i, u⟩ := e
    have hik : i ≠ k := fun h => hn u (by simp [h])
    have ih := ih (fun u hu => hn u (List.mem_cons_of_mem _ hu))
    unfold insert
    split
    · by_cases hj : j = k
      · simp [get, hj]
      · simp [get, hj, Ne.symm hj]
    · by_cases hij : i = j
      · have hjk : ¬ j = k := by omega
        simp [get, hij, hjk]
      · simp [get, hij, ih]

theorem not_mem_erase (t : Tbl α) (k : Nat) (u : α) : (k, u) ∉ erase t k := by
  induction t with
  | nil => simp [erase]
  | cons e t ih =>
    obtain ⟨i, v⟩ := e
    by_cases h : i = k
    · simpa [erase, h] using ih
    · simp [erase, h, ih, Ne.symm h]

/-- Reading after writing. -/
theorem get_set [DecidableEq α] (d : Nat → α) (t : Tbl α) (k j : Nat) (v : α) :
    get d (set d t k v) j = if j = k then v else get d t j := by
  unfold set
  split
  · rename_i h
    rw [get_erase]
    split
    · rename_i hj; rw [hj, h]
    · rfl
  · rw [get_insert _ _ _ _ _ (fun u => not_mem_erase t k u), get_erase]
    split <;> rfl

@[simp] theorem get_set_same [DecidableEq α] (d : Nat → α) (t : Tbl α) (k : Nat) (v : α) : get d (set d t k v) k = v := by
  simp [get_set]

theorem get_set_other [DecidableEq α] (d : Nat → α) (t : Tbl α) {k j : Nat} (v : α) (h : j ≠ k) :
    get d (set d t k v) j = get d t j := by simp [get_set, h]

theorem rising_mono {b b' : Nat} (h : b' ≤ b) {t : Tbl α} (ht : rising b t = true) : rising b' t = true := by
  cases t with
  | nil => rfl
  | cons e t =>
    obtain ⟨k, v⟩ := e
    simp only [rising, Bool.and_eq_true, decide_eq_true_eq] at ht ⊢
    exact ⟨by omega, ht.2⟩

theorem rising_erase {b : Nat} {t : Tbl α} (k : Nat) (ht : rising b t = true) : rising b (erase t k) = true := by
  induction t generalizing b with
  | nil => rfl
  | cons e t ih =>
    obtain ⟨i, v⟩ := e
    simp only [rising, Bool.and_eq_true, decide_eq_true_eq] at ht
    by_cases h : i = k
    · simp only [erase, h, if_true]
      exact rising_mono (by omega) (ih ht.2)
    · simp only [erase, h, if_false, rising, Bool.and_eq_true, decide_eq_true_eq]
      exact ⟨ht.1, ih ht.2⟩

theorem rising_insert {b : Nat} {t : Tbl α} (k : Nat) (v : α) (hb : b ≤ k) (ht : rising b t = true)
    (hn : ∀ u, (k, u) ∉ t) : rising b (insert t k v) = true := by
  induction t generalizing b with
  | nil => simp [insert, rising, hb]
  | cons e t ih =>
    obtain ⟨i, u⟩ := e
    simp only [rising, Bool.and_eq_true, decide_eq_true_eq] at ht
    have hik : i ≠ k := fun h => hn u (by simp [h])
    by_cases h : k < i
    · simp only [insert, h, if_true, rising, Bool.and_eq_true, decide_eq_true_eq]
      exact ⟨hb, by omega, ht.2⟩
    · simp only [insert, h, if_false, rising, Bool.and_eq_true, decide_eq_true_eq]
      exact ⟨ht.1, ih (by omega) ht.2 (fun u hu => hn u (List.mem_cons_of_mem _ hu))⟩

theorem lean_erase [DecidableEq α] {d : Nat → α} {t : Tbl α} (k : Nat) (ht : lean d t = true) : lean d (erase t k) = true := by
  induction t with
  | nil => rfl
  | cons e t ih =>
    obtain ⟨i, v⟩ := e
    simp only [lean, Bool.and_eq_true] at ht
    by_cases h : i = k
    · simpa only [erase, h, if_true] using ih ht.2
    · simp only [erase, h, if_false, lean, Bool.and_eq_true]
      exact ⟨ht.1, ih ht.2⟩

theorem lean_insert [DecidableEq α] {d : Nat → α} {t : Tbl α} (k : Nat) (v : α) (hv : v ≠ d k) (ht : lean d t = true) :
    lean d (insert t k v) = true := by
  induction t with
  | nil => simp [insert, lean, hv]
  | cons e t ih =>
    obtain ⟨i, u⟩ := e
    simp only [lean, Bool.and_eq_true] at ht
    by_cases h : k < i
    · simp only [insert, h, if_true, lean, Bool.and_eq_true]
      exact ⟨by simp [hv], ht.1, ht.2⟩
    · simp only [insert, h, if_false, lean, Bool.and_eq_true]
      exact ⟨ht.1, ih ht.2⟩

/-- Every write keeps the canonical form. -/
theorem wf_set [DecidableEq α] {d : Nat → α} {t : Tbl α} (k : Nat) (v : α) (ht : wf d t = true) : wf d (set d t k v) = true := by
  simp only [wf, Bool.and_eq_true] at ht ⊢
  unfold set
  split
  · exact ⟨rising_erase k ht.1, lean_erase k ht.2⟩
  · rename_i h
    exact ⟨rising_insert k v (Nat.zero_le _) (rising_erase k ht.1) (not_mem_erase t k), lean_insert k v h (lean_erase k ht.2)⟩

theorem rising_filter {b : Nat} {t : Tbl α} (f : Nat × α → Bool) (ht : rising b t = true) : rising b (t.filter f) = true := by
  induction t generalizing b with
  | nil => rfl
  | cons e t ih =>
    obtain ⟨i, v⟩ := e
    simp only [rising, Bool.and_eq_true, decide_eq_true_eq] at ht
    rw [List.filter_cons]
    split
    · simp only [rising, Bool.and_eq_true, decide_eq_true_eq]
      exact ⟨ht.1, ih ht.2⟩
    · exact rising_mono (by omega) (ih ht.2)

theorem lean_filter [DecidableEq α] {d : Nat → α} {t : Tbl α} (f : Nat × α → Bool) (ht : lean d t = true) : lean d (t.filter f) = true := by
  induction t with
  | nil => rfl
  | cons e t ih =>
    obtain ⟨i, v⟩ := e
    simp only [lean, Bool.and_eq_true] at ht
    rw [List.filter_cons]
    split
    · simp only [lean, Bool.and_eq_true]
      exact ⟨ht.1, ih ht.2⟩
    · exact ih ht.2

/-- Dropping entries keeps the canonical form. -/
theorem wf_filter [DecidableEq α] {d : Nat → α} {t : Tbl α} (f : Nat × α → Bool) (ht : wf d t = true) : wf d (t.filter f) = true := by
  simp only [wf, Bool.and_eq_true] at ht ⊢
  exact ⟨rising_filter f ht.1, lean_filter f ht.2⟩

end Tbl
end Sys2Proof.Machine
end

