-- ==== Sys2Proof/Laws/Ops.lean ====
section
/-! SUPPORT. What each named update of Ops.lean leaves in each named view of the state, and the laws of memory: reading
after writing, and the canonical form. -/

namespace Sys2Proof.Machine

@[simp] theorem thread_setReg (s : State) (a : Nat) (v : Word) (u : Nat) : thread (setReg s a v) u = thread s u := rfl
@[simp] theorem nib_setReg (s : State) (a : Nat) (v : Word) (m : Nat) : nib (setReg s a v) m = nib s m := rfl
@[simp] theorem chan_setReg (s : State) (a : Nat) (v : Word) (m d : Nat) : chan (setReg s a v) m d = chan s m d := rfl
@[simp] theorem lock_setReg (s : State) (a : Nat) (v : Word) (r j : Nat) : lock (setReg s a v) r j = lock s r j := rfl
@[simp] theorem part_setReg (s : State) (a : Nat) (v : Word) (r : Nat) : part (setReg s a v) r = part s r := rfl
@[simp] theorem lane_setReg (s : State) (a : Nat) (v : Word) (m : Nat) : lane (setReg s a v) m = lane s m := rfl
@[simp] theorem port_setReg (s : State) (a : Nat) (v : Word) (j : Nat) : port (setReg s a v) j = port s j := rfl
@[simp] theorem ddr_setReg (s : State) (a : Nat) (v : Word) (d : Nat) : ddr (setReg s a v) d = ddr s d := rfl
@[simp] theorem xing_setReg (s : State) (a : Nat) (v : Word) (d : Nat) : xing (setReg s a v) d = xing s d := rfl
@[simp] theorem slot_setReg (s : State) (a : Nat) (v : Word) (j : Nat) : slot (setReg s a v) j = slot s j := rfl
@[simp] theorem queue_setReg (s : State) (a : Nat) (v : Word) (r : Nat) : queue (setReg s a v) r = queue s r := rfl
@[simp] theorem thread_setFld (s : State) (a hi lo v : Nat) (u : Nat) : thread (setFld s a hi lo v) u = thread s u := rfl
@[simp] theorem nib_setFld (s : State) (a hi lo v : Nat) (m : Nat) : nib (setFld s a hi lo v) m = nib s m := rfl
@[simp] theorem chan_setFld (s : State) (a hi lo v : Nat) (m d : Nat) : chan (setFld s a hi lo v) m d = chan s m d := rfl
@[simp] theorem lock_setFld (s : State) (a hi lo v : Nat) (r j : Nat) : lock (setFld s a hi lo v) r j = lock s r j := rfl
@[simp] theorem part_setFld (s : State) (a hi lo v : Nat) (r : Nat) : part (setFld s a hi lo v) r = part s r := rfl
@[simp] theorem lane_setFld (s : State) (a hi lo v : Nat) (m : Nat) : lane (setFld s a hi lo v) m = lane s m := rfl
@[simp] theorem port_setFld (s : State) (a hi lo v : Nat) (j : Nat) : port (setFld s a hi lo v) j = port s j := rfl
@[simp] theorem ddr_setFld (s : State) (a hi lo v : Nat) (d : Nat) : ddr (setFld s a hi lo v) d = ddr s d := rfl
@[simp] theorem xing_setFld (s : State) (a hi lo v : Nat) (d : Nat) : xing (setFld s a hi lo v) d = xing s d := rfl
@[simp] theorem slot_setFld (s : State) (a hi lo v : Nat) (j : Nat) : slot (setFld s a hi lo v) j = slot s j := rfl
@[simp] theorem queue_setFld (s : State) (a hi lo v : Nat) (r : Nat) : queue (setFld s a hi lo v) r = queue s r := rfl
@[simp] theorem thread_setFlag (s : State) (a i : Nat) (b : Bool) (u : Nat) : thread (setFlag s a i b) u = thread s u := rfl
@[simp] theorem nib_setFlag (s : State) (a i : Nat) (b : Bool) (m : Nat) : nib (setFlag s a i b) m = nib s m := rfl
@[simp] theorem chan_setFlag (s : State) (a i : Nat) (b : Bool) (m d : Nat) : chan (setFlag s a i b) m d = chan s m d := rfl
@[simp] theorem lock_setFlag (s : State) (a i : Nat) (b : Bool) (r j : Nat) : lock (setFlag s a i b) r j = lock s r j := rfl
@[simp] theorem part_setFlag (s : State) (a i : Nat) (b : Bool) (r : Nat) : part (setFlag s a i b) r = part s r := rfl
@[simp] theorem lane_setFlag (s : State) (a i : Nat) (b : Bool) (m : Nat) : lane (setFlag s a i b) m = lane s m := rfl
@[simp] theorem port_setFlag (s : State) (a i : Nat) (b : Bool) (j : Nat) : port (setFlag s a i b) j = port s j := rfl
@[simp] theorem ddr_setFlag (s : State) (a i : Nat) (b : Bool) (d : Nat) : ddr (setFlag s a i b) d = ddr s d := rfl
@[simp] theorem xing_setFlag (s : State) (a i : Nat) (b : Bool) (d : Nat) : xing (setFlag s a i b) d = xing s d := rfl
@[simp] theorem slot_setFlag (s : State) (a i : Nat) (b : Bool) (j : Nat) : slot (setFlag s a i b) j = slot s j := rfl
@[simp] theorem queue_setFlag (s : State) (a i : Nat) (b : Bool) (r : Nat) : queue (setFlag s a i b) r = queue s r := rfl
@[simp] theorem reg_modThread (s : State) (t : Nat) (f : Thread → Thread) (b2 : Nat) : reg (modThread s t f) b2 = reg s b2 := rfl
@[simp] theorem nib_modThread (s : State) (t : Nat) (f : Thread → Thread) (m : Nat) : nib (modThread s t f) m = nib s m := rfl
@[simp] theorem chan_modThread (s : State) (t : Nat) (f : Thread → Thread) (m d : Nat) : chan (modThread s t f) m d = chan s m d := rfl
@[simp] theorem lock_modThread (s : State) (t : Nat) (f : Thread → Thread) (r j : Nat) : lock (modThread s t f) r j = lock s r j := rfl
@[simp] theorem part_modThread (s : State) (t : Nat) (f : Thread → Thread) (r : Nat) : part (modThread s t f) r = part s r := rfl
@[simp] theorem lane_modThread (s : State) (t : Nat) (f : Thread → Thread) (m : Nat) : lane (modThread s t f) m = lane s m := rfl
@[simp] theorem port_modThread (s : State) (t : Nat) (f : Thread → Thread) (j : Nat) : port (modThread s t f) j = port s j := rfl
@[simp] theorem ddr_modThread (s : State) (t : Nat) (f : Thread → Thread) (d : Nat) : ddr (modThread s t f) d = ddr s d := rfl
@[simp] theorem xing_modThread (s : State) (t : Nat) (f : Thread → Thread) (d : Nat) : xing (modThread s t f) d = xing s d := rfl
@[simp] theorem slot_modThread (s : State) (t : Nat) (f : Thread → Thread) (j : Nat) : slot (modThread s t f) j = slot s j := rfl
@[simp] theorem queue_modThread (s : State) (t : Nat) (f : Thread → Thread) (r : Nat) : queue (modThread s t f) r = queue s r := rfl
@[simp] theorem reg_modNib (s : State) (n : Nat) (f : Nib → Nib) (b2 : Nat) : reg (modNib s n f) b2 = reg s b2 := rfl
@[simp] theorem thread_modNib (s : State) (n : Nat) (f : Nib → Nib) (u : Nat) : thread (modNib s n f) u = thread s u := rfl
@[simp] theorem chan_modNib (s : State) (n : Nat) (f : Nib → Nib) (m d : Nat) : chan (modNib s n f) m d = chan s m d := rfl
@[simp] theorem lock_modNib (s : State) (n : Nat) (f : Nib → Nib) (r j : Nat) : lock (modNib s n f) r j = lock s r j := rfl
@[simp] theorem part_modNib (s : State) (n : Nat) (f : Nib → Nib) (r : Nat) : part (modNib s n f) r = part s r := rfl
@[simp] theorem lane_modNib (s : State) (n : Nat) (f : Nib → Nib) (m : Nat) : lane (modNib s n f) m = lane s m := rfl
@[simp] theorem port_modNib (s : State) (n : Nat) (f : Nib → Nib) (j : Nat) : port (modNib s n f) j = port s j := rfl
@[simp] theorem ddr_modNib (s : State) (n : Nat) (f : Nib → Nib) (d : Nat) : ddr (modNib s n f) d = ddr s d := rfl
@[simp] theorem xing_modNib (s : State) (n : Nat) (f : Nib → Nib) (d : Nat) : xing (modNib s n f) d = xing s d := rfl
@[simp] theorem slot_modNib (s : State) (n : Nat) (f : Nib → Nib) (j : Nat) : slot (modNib s n f) j = slot s j := rfl
@[simp] theorem queue_modNib (s : State) (n : Nat) (f : Nib → Nib) (r : Nat) : queue (modNib s n f) r = queue s r := rfl
@[simp] theorem reg_modChan (s : State) (n c : Nat) (f : Chan → Chan) (b2 : Nat) : reg (modChan s n c f) b2 = reg s b2 := rfl
@[simp] theorem thread_modChan (s : State) (n c : Nat) (f : Chan → Chan) (u : Nat) : thread (modChan s n c f) u = thread s u := rfl
@[simp] theorem nib_modChan (s : State) (n c : Nat) (f : Chan → Chan) (m : Nat) : nib (modChan s n c f) m = nib s m := rfl
@[simp] theorem lock_modChan (s : State) (n c : Nat) (f : Chan → Chan) (r j : Nat) : lock (modChan s n c f) r j = lock s r j := rfl
@[simp] theorem part_modChan (s : State) (n c : Nat) (f : Chan → Chan) (r : Nat) : part (modChan s n c f) r = part s r := rfl
@[simp] theorem lane_modChan (s : State) (n c : Nat) (f : Chan → Chan) (m : Nat) : lane (modChan s n c f) m = lane s m := rfl
@[simp] theorem port_modChan (s : State) (n c : Nat) (f : Chan → Chan) (j : Nat) : port (modChan s n c f) j = port s j := rfl
@[simp] theorem ddr_modChan (s : State) (n c : Nat) (f : Chan → Chan) (d : Nat) : ddr (modChan s n c f) d = ddr s d := rfl
@[simp] theorem xing_modChan (s : State) (n c : Nat) (f : Chan → Chan) (d : Nat) : xing (modChan s n c f) d = xing s d := rfl
@[simp] theorem slot_modChan (s : State) (n c : Nat) (f : Chan → Chan) (j : Nat) : slot (modChan s n c f) j = slot s j := rfl
@[simp] theorem queue_modChan (s : State) (n c : Nat) (f : Chan → Chan) (r : Nat) : queue (modChan s n c f) r = queue s r := rfl
@[simp] theorem reg_modLock (s : State) (q k : Nat) (f : Lock → Lock) (b2 : Nat) : reg (modLock s q k f) b2 = reg s b2 := rfl
@[simp] theorem thread_modLock (s : State) (q k : Nat) (f : Lock → Lock) (u : Nat) : thread (modLock s q k f) u = thread s u := rfl
@[simp] theorem nib_modLock (s : State) (q k : Nat) (f : Lock → Lock) (m : Nat) : nib (modLock s q k f) m = nib s m := rfl
@[simp] theorem chan_modLock (s : State) (q k : Nat) (f : Lock → Lock) (m d : Nat) : chan (modLock s q k f) m d = chan s m d := rfl
@[simp] theorem part_modLock (s : State) (q k : Nat) (f : Lock → Lock) (r : Nat) : part (modLock s q k f) r = part s r := rfl
@[simp] theorem lane_modLock (s : State) (q k : Nat) (f : Lock → Lock) (m : Nat) : lane (modLock s q k f) m = lane s m := rfl
@[simp] theorem port_modLock (s : State) (q k : Nat) (f : Lock → Lock) (j : Nat) : port (modLock s q k f) j = port s j := rfl
@[simp] theorem ddr_modLock (s : State) (q k : Nat) (f : Lock → Lock) (d : Nat) : ddr (modLock s q k f) d = ddr s d := rfl
@[simp] theorem xing_modLock (s : State) (q k : Nat) (f : Lock → Lock) (d : Nat) : xing (modLock s q k f) d = xing s d := rfl
@[simp] theorem slot_modLock (s : State) (q k : Nat) (f : Lock → Lock) (j : Nat) : slot (modLock s q k f) j = slot s j := rfl
@[simp] theorem queue_modLock (s : State) (q k : Nat) (f : Lock → Lock) (r : Nat) : queue (modLock s q k f) r = queue s r := rfl
@[simp] theorem reg_modPart (s : State) (p : Nat) (f : Part → Part) (b2 : Nat) : reg (modPart s p f) b2 = reg s b2 := rfl
@[simp] theorem thread_modPart (s : State) (p : Nat) (f : Part → Part) (u : Nat) : thread (modPart s p f) u = thread s u := rfl
@[simp] theorem nib_modPart (s : State) (p : Nat) (f : Part → Part) (m : Nat) : nib (modPart s p f) m = nib s m := rfl
@[simp] theorem chan_modPart (s : State) (p : Nat) (f : Part → Part) (m d : Nat) : chan (modPart s p f) m d = chan s m d := rfl
@[simp] theorem lock_modPart (s : State) (p : Nat) (f : Part → Part) (r j : Nat) : lock (modPart s p f) r j = lock s r j := rfl
@[simp] theorem lane_modPart (s : State) (p : Nat) (f : Part → Part) (m : Nat) : lane (modPart s p f) m = lane s m := rfl
@[simp] theorem port_modPart (s : State) (p : Nat) (f : Part → Part) (j : Nat) : port (modPart s p f) j = port s j := rfl
@[simp] theorem ddr_modPart (s : State) (p : Nat) (f : Part → Part) (d : Nat) : ddr (modPart s p f) d = ddr s d := rfl
@[simp] theorem xing_modPart (s : State) (p : Nat) (f : Part → Part) (d : Nat) : xing (modPart s p f) d = xing s d := rfl
@[simp] theorem slot_modPart (s : State) (p : Nat) (f : Part → Part) (j : Nat) : slot (modPart s p f) j = slot s j := rfl
@[simp] theorem queue_modPart (s : State) (p : Nat) (f : Part → Part) (r : Nat) : queue (modPart s p f) r = queue s r := rfl
@[simp] theorem reg_modLane (s : State) (n : Nat) (f : Lane → Lane) (b2 : Nat) : reg (modLane s n f) b2 = reg s b2 := rfl
@[simp] theorem thread_modLane (s : State) (n : Nat) (f : Lane → Lane) (u : Nat) : thread (modLane s n f) u = thread s u := rfl
@[simp] theorem nib_modLane (s : State) (n : Nat) (f : Lane → Lane) (m : Nat) : nib (modLane s n f) m = nib s m := rfl
@[simp] theorem chan_modLane (s : State) (n : Nat) (f : Lane → Lane) (m d : Nat) : chan (modLane s n f) m d = chan s m d := rfl
@[simp] theorem lock_modLane (s : State) (n : Nat) (f : Lane → Lane) (r j : Nat) : lock (modLane s n f) r j = lock s r j := rfl
@[simp] theorem part_modLane (s : State) (n : Nat) (f : Lane → Lane) (r : Nat) : part (modLane s n f) r = part s r := rfl
@[simp] theorem port_modLane (s : State) (n : Nat) (f : Lane → Lane) (j : Nat) : port (modLane s n f) j = port s j := rfl
@[simp] theorem ddr_modLane (s : State) (n : Nat) (f : Lane → Lane) (d : Nat) : ddr (modLane s n f) d = ddr s d := rfl
@[simp] theorem xing_modLane (s : State) (n : Nat) (f : Lane → Lane) (d : Nat) : xing (modLane s n f) d = xing s d := rfl
@[simp] theorem slot_modLane (s : State) (n : Nat) (f : Lane → Lane) (j : Nat) : slot (modLane s n f) j = slot s j := rfl
@[simp] theorem queue_modLane (s : State) (n : Nat) (f : Lane → Lane) (r : Nat) : queue (modLane s n f) r = queue s r := rfl
@[simp] theorem reg_modPort (s : State) (k : Nat) (f : Port → Port) (b2 : Nat) : reg (modPort s k f) b2 = reg s b2 := rfl
@[simp] theorem thread_modPort (s : State) (k : Nat) (f : Port → Port) (u : Nat) : thread (modPort s k f) u = thread s u := rfl
@[simp] theorem nib_modPort (s : State) (k : Nat) (f : Port → Port) (m : Nat) : nib (modPort s k f) m = nib s m := rfl
@[simp] theorem chan_modPort (s : State) (k : Nat) (f : Port → Port) (m d : Nat) : chan (modPort s k f) m d = chan s m d := rfl
@[simp] theorem lock_modPort (s : State) (k : Nat) (f : Port → Port) (r j : Nat) : lock (modPort s k f) r j = lock s r j := rfl
@[simp] theorem part_modPort (s : State) (k : Nat) (f : Port → Port) (r : Nat) : part (modPort s k f) r = part s r := rfl
@[simp] theorem lane_modPort (s : State) (k : Nat) (f : Port → Port) (m : Nat) : lane (modPort s k f) m = lane s m := rfl
@[simp] theorem ddr_modPort (s : State) (k : Nat) (f : Port → Port) (d : Nat) : ddr (modPort s k f) d = ddr s d := rfl
@[simp] theorem xing_modPort (s : State) (k : Nat) (f : Port → Port) (d : Nat) : xing (modPort s k f) d = xing s d := rfl
@[simp] theorem slot_modPort (s : State) (k : Nat) (f : Port → Port) (j : Nat) : slot (modPort s k f) j = slot s j := rfl
@[simp] theorem queue_modPort (s : State) (k : Nat) (f : Port → Port) (r : Nat) : queue (modPort s k f) r = queue s r := rfl
@[simp] theorem reg_modDdr (s : State) (c : Nat) (f : Ddr → Ddr) (b2 : Nat) : reg (modDdr s c f) b2 = reg s b2 := rfl
@[simp] theorem thread_modDdr (s : State) (c : Nat) (f : Ddr → Ddr) (u : Nat) : thread (modDdr s c f) u = thread s u := rfl
@[simp] theorem nib_modDdr (s : State) (c : Nat) (f : Ddr → Ddr) (m : Nat) : nib (modDdr s c f) m = nib s m := rfl
@[simp] theorem chan_modDdr (s : State) (c : Nat) (f : Ddr → Ddr) (m d : Nat) : chan (modDdr s c f) m d = chan s m d := rfl
@[simp] theorem lock_modDdr (s : State) (c : Nat) (f : Ddr → Ddr) (r j : Nat) : lock (modDdr s c f) r j = lock s r j := rfl
@[simp] theorem part_modDdr (s : State) (c : Nat) (f : Ddr → Ddr) (r : Nat) : part (modDdr s c f) r = part s r := rfl
@[simp] theorem lane_modDdr (s : State) (c : Nat) (f : Ddr → Ddr) (m : Nat) : lane (modDdr s c f) m = lane s m := rfl
@[simp] theorem port_modDdr (s : State) (c : Nat) (f : Ddr → Ddr) (j : Nat) : port (modDdr s c f) j = port s j := rfl
@[simp] theorem xing_modDdr (s : State) (c : Nat) (f : Ddr → Ddr) (d : Nat) : xing (modDdr s c f) d = xing s d := rfl
@[simp] theorem slot_modDdr (s : State) (c : Nat) (f : Ddr → Ddr) (j : Nat) : slot (modDdr s c f) j = slot s j := rfl
@[simp] theorem queue_modDdr (s : State) (c : Nat) (f : Ddr → Ddr) (r : Nat) : queue (modDdr s c f) r = queue s r := rfl
@[simp] theorem reg_modXing (s : State) (e : Nat) (f : Xing → Xing) (b2 : Nat) : reg (modXing s e f) b2 = reg s b2 := rfl
@[simp] theorem thread_modXing (s : State) (e : Nat) (f : Xing → Xing) (u : Nat) : thread (modXing s e f) u = thread s u := rfl
@[simp] theorem nib_modXing (s : State) (e : Nat) (f : Xing → Xing) (m : Nat) : nib (modXing s e f) m = nib s m := rfl
@[simp] theorem chan_modXing (s : State) (e : Nat) (f : Xing → Xing) (m d : Nat) : chan (modXing s e f) m d = chan s m d := rfl
@[simp] theorem lock_modXing (s : State) (e : Nat) (f : Xing → Xing) (r j : Nat) : lock (modXing s e f) r j = lock s r j := rfl
@[simp] theorem part_modXing (s : State) (e : Nat) (f : Xing → Xing) (r : Nat) : part (modXing s e f) r = part s r := rfl
@[simp] theorem lane_modXing (s : State) (e : Nat) (f : Xing → Xing) (m : Nat) : lane (modXing s e f) m = lane s m := rfl
@[simp] theorem port_modXing (s : State) (e : Nat) (f : Xing → Xing) (j : Nat) : port (modXing s e f) j = port s j := rfl
@[simp] theorem ddr_modXing (s : State) (e : Nat) (f : Xing → Xing) (d : Nat) : ddr (modXing s e f) d = ddr s d := rfl
@[simp] theorem slot_modXing (s : State) (e : Nat) (f : Xing → Xing) (j : Nat) : slot (modXing s e f) j = slot s j := rfl
@[simp] theorem queue_modXing (s : State) (e : Nat) (f : Xing → Xing) (r : Nat) : queue (modXing s e f) r = queue s r := rfl
@[simp] theorem reg_setSlot (s : State) (k : Nat) (v : Option Slot) (b2 : Nat) : reg (setSlot s k v) b2 = reg s b2 := rfl
@[simp] theorem thread_setSlot (s : State) (k : Nat) (v : Option Slot) (u : Nat) : thread (setSlot s k v) u = thread s u := rfl
@[simp] theorem nib_setSlot (s : State) (k : Nat) (v : Option Slot) (m : Nat) : nib (setSlot s k v) m = nib s m := rfl
@[simp] theorem chan_setSlot (s : State) (k : Nat) (v : Option Slot) (m d : Nat) : chan (setSlot s k v) m d = chan s m d := rfl
@[simp] theorem lock_setSlot (s : State) (k : Nat) (v : Option Slot) (r j : Nat) : lock (setSlot s k v) r j = lock s r j := rfl
@[simp] theorem part_setSlot (s : State) (k : Nat) (v : Option Slot) (r : Nat) : part (setSlot s k v) r = part s r := rfl
@[simp] theorem lane_setSlot (s : State) (k : Nat) (v : Option Slot) (m : Nat) : lane (setSlot s k v) m = lane s m := rfl
@[simp] theorem port_setSlot (s : State) (k : Nat) (v : Option Slot) (j : Nat) : port (setSlot s k v) j = port s j := rfl
@[simp] theorem ddr_setSlot (s : State) (k : Nat) (v : Option Slot) (d : Nat) : ddr (setSlot s k v) d = ddr s d := rfl
@[simp] theorem xing_setSlot (s : State) (k : Nat) (v : Option Slot) (d : Nat) : xing (setSlot s k v) d = xing s d := rfl
@[simp] theorem queue_setSlot (s : State) (k : Nat) (v : Option Slot) (r : Nat) : queue (setSlot s k v) r = queue s r := rfl
@[simp] theorem reg_setQueue (s : State) (q : Nat) (v : List FD) (b2 : Nat) : reg (setQueue s q v) b2 = reg s b2 := rfl
@[simp] theorem thread_setQueue (s : State) (q : Nat) (v : List FD) (u : Nat) : thread (setQueue s q v) u = thread s u := rfl
@[simp] theorem nib_setQueue (s : State) (q : Nat) (v : List FD) (m : Nat) : nib (setQueue s q v) m = nib s m := rfl
@[simp] theorem chan_setQueue (s : State) (q : Nat) (v : List FD) (m d : Nat) : chan (setQueue s q v) m d = chan s m d := rfl
@[simp] theorem lock_setQueue (s : State) (q : Nat) (v : List FD) (r j : Nat) : lock (setQueue s q v) r j = lock s r j := rfl
@[simp] theorem part_setQueue (s : State) (q : Nat) (v : List FD) (r : Nat) : part (setQueue s q v) r = part s r := rfl
@[simp] theorem lane_setQueue (s : State) (q : Nat) (v : List FD) (m : Nat) : lane (setQueue s q v) m = lane s m := rfl
@[simp] theorem port_setQueue (s : State) (q : Nat) (v : List FD) (j : Nat) : port (setQueue s q v) j = port s j := rfl
@[simp] theorem ddr_setQueue (s : State) (q : Nat) (v : List FD) (d : Nat) : ddr (setQueue s q v) d = ddr s d := rfl
@[simp] theorem xing_setQueue (s : State) (q : Nat) (v : List FD) (d : Nat) : xing (setQueue s q v) d = xing s d := rfl
@[simp] theorem slot_setQueue (s : State) (q : Nat) (v : List FD) (j : Nat) : slot (setQueue s q v) j = slot s j := rfl
@[simp] theorem reg_emit (s : State) (o : Out) (b2 : Nat) : reg (emit s o) b2 = reg s b2 := rfl
@[simp] theorem thread_emit (s : State) (o : Out) (u : Nat) : thread (emit s o) u = thread s u := rfl
@[simp] theorem nib_emit (s : State) (o : Out) (m : Nat) : nib (emit s o) m = nib s m := rfl
@[simp] theorem chan_emit (s : State) (o : Out) (m d : Nat) : chan (emit s o) m d = chan s m d := rfl
@[simp] theorem lock_emit (s : State) (o : Out) (r j : Nat) : lock (emit s o) r j = lock s r j := rfl
@[simp] theorem part_emit (s : State) (o : Out) (r : Nat) : part (emit s o) r = part s r := rfl
@[simp] theorem lane_emit (s : State) (o : Out) (m : Nat) : lane (emit s o) m = lane s m := rfl
@[simp] theorem port_emit (s : State) (o : Out) (j : Nat) : port (emit s o) j = port s j := rfl
@[simp] theorem ddr_emit (s : State) (o : Out) (d : Nat) : ddr (emit s o) d = ddr s d := rfl
@[simp] theorem xing_emit (s : State) (o : Out) (d : Nat) : xing (emit s o) d = xing s d := rfl
@[simp] theorem slot_emit (s : State) (o : Out) (j : Nat) : slot (emit s o) j = slot s j := rfl
@[simp] theorem queue_emit (s : State) (o : Out) (r : Nat) : queue (emit s o) r = queue s r := rfl
@[simp] theorem reg_respond (s : State) (l : List Nat) (b2 : Nat) : reg (respond s l) b2 = reg s b2 := rfl
@[simp] theorem thread_respond (s : State) (l : List Nat) (u : Nat) : thread (respond s l) u = thread s u := rfl
@[simp] theorem nib_respond (s : State) (l : List Nat) (m : Nat) : nib (respond s l) m = nib s m := rfl
@[simp] theorem chan_respond (s : State) (l : List Nat) (m d : Nat) : chan (respond s l) m d = chan s m d := rfl
@[simp] theorem lock_respond (s : State) (l : List Nat) (r j : Nat) : lock (respond s l) r j = lock s r j := rfl
@[simp] theorem part_respond (s : State) (l : List Nat) (r : Nat) : part (respond s l) r = part s r := rfl
@[simp] theorem lane_respond (s : State) (l : List Nat) (m : Nat) : lane (respond s l) m = lane s m := rfl
@[simp] theorem port_respond (s : State) (l : List Nat) (j : Nat) : port (respond s l) j = port s j := rfl
@[simp] theorem ddr_respond (s : State) (l : List Nat) (d : Nat) : ddr (respond s l) d = ddr s d := rfl
@[simp] theorem xing_respond (s : State) (l : List Nat) (d : Nat) : xing (respond s l) d = xing s d := rfl
@[simp] theorem slot_respond (s : State) (l : List Nat) (j : Nat) : slot (respond s l) j = slot s j := rfl
@[simp] theorem queue_respond (s : State) (l : List Nat) (r : Nat) : queue (respond s l) r = queue s r := rfl

/-- A register after a register is stored. -/
theorem reg_setReg (s : State) (a b : Nat) (v : Word) : reg (setReg s a v) b = if b = a then v else reg s b :=
  Tbl.get_set regReset s.regs a b v

@[simp] theorem reg_setReg_same (s : State) (a : Nat) (v : Word) : reg (setReg s a v) a = v := by simp [reg_setReg]

theorem reg_setReg_other (s : State) {a b : Nat} (v : Word) (h : b ≠ a) : reg (setReg s a v) b = reg s b := by
  simp [reg_setReg, h]

theorem reg_setFld (s : State) (a hi lo v b : Nat) :
    reg (setFld s a hi lo v) b = if b = a then setBits (reg s a) hi lo v else reg s b := reg_setReg s a b _

theorem reg_setFlag (s : State) (a i b : Nat) (x : Bool) :
    reg (setFlag s a i x) b = if b = a then setBit (reg s a) i x else reg s b := reg_setReg s a b _

theorem thread_setThread (s : State) (t u : Nat) (v : Thread) :
    thread (setThread s t v) u = if u = t then v else thread s u := Tbl.get_set threadReset s.threads t u v

theorem thread_modThread (s : State) (t u : Nat) (f : Thread → Thread) :
    thread (modThread s t f) u = if u = t then f (thread s t) else thread s u := Tbl.get_set threadReset s.threads t u _

@[simp] theorem thread_modThread_same (s : State) (t : Nat) (f : Thread → Thread) :
    thread (modThread s t f) t = f (thread s t) := by simp [thread_modThread]

theorem nib_modNib (s : State) (n m : Nat) (f : Nib → Nib) : nib (modNib s n f) m = if m = n then f (nib s n) else nib s m :=
  by
  unfold nib modNib
  exact Tbl.get_set _ _ _ _ _

theorem part_modPart (s : State) (p q : Nat) (f : Part → Part) :
    part (modPart s p f) q = if q = p then f (part s p) else part s q := by
  unfold part modPart
  exact Tbl.get_set _ _ _ _ _

theorem lane_modLane (s : State) (n m : Nat) (f : Lane → Lane) :
    lane (modLane s n f) m = if m = n then f (lane s n) else lane s m := by
  unfold lane modLane
  exact Tbl.get_set _ _ _ _ _

theorem port_modPort (s : State) (k j : Nat) (f : Port → Port) :
    port (modPort s k f) j = if j = k then f (port s k) else port s j := by
  unfold port modPort
  exact Tbl.get_set _ _ _ _ _

theorem ddr_modDdr (s : State) (c d : Nat) (f : Ddr → Ddr) :
    ddr (modDdr s c f) d = if d = c then f (ddr s c) else ddr s d := by
  unfold ddr modDdr
  exact Tbl.get_set _ _ _ _ _

theorem xing_modXing (s : State) (b d : Nat) (f : Xing → Xing) :
    xing (modXing s b f) d = if d = b then f (xing s b) else xing s d := by
  unfold xing modXing
  exact Tbl.get_set _ _ _ _ _

theorem slot_setSlot (s : State) (k j : Nat) (v : Option Slot) : slot (setSlot s k v) j = if j = k then v else slot s j :=
  Tbl.get_set (fun _ => none) s.slots k j v

theorem queue_setQueue (s : State) (q r : Nat) (v : List FD) : queue (setQueue s q v) r = if r = q then v else queue s r :=
  Tbl.get_set (fun _ => []) s.queues q r v

/-! ## Memory -/

/-- The memory of a state is canonical. -/
theorem wr_wf (s : State) (k : Nat) (b : Byte) (h : s.mem.wf = true) : (wr s k b).mem.wf = true := by
  unfold wr
  split
  · exact Tbl.wf_set _ _ h
  · exact h

theorem wrBytes_wf (s : State) (k : Nat) (bs : List Byte) (h : s.mem.wf = true) : (wrBytes s k bs).mem.wf = true := by
  induction bs generalizing s k with
  | nil => exact h
  | cons b bs ih => exact ih _ _ (wr_wf s k b h)

@[simp] theorem setBad_mem (s : State) (k : Nat) (b : Bool) : (setBad s k b).mem = s.mem := by
  unfold setBad; split
  · split <;> rfl
  · rfl

theorem wrWord_wf (s : State) (k : Nat) (v : Word) (h : s.mem.wf = true) : (wrWord s k v).mem.wf = true := by
  simpa [wrWord] using wrBytes_wf s k _ h

theorem foldl_setBad_mem (f : Nat → Nat) (l : List Nat) (s : State) :
    (l.foldl (fun s i => setBad s (f i) false) s).mem = s.mem := by
  induction l generalizing s with
  | nil => rfl
  | cons i l ih => simp [ih]

theorem wrClean_wf (s : State) (k : Nat) (bs : List Byte) (h : s.mem.wf = true) : (wrClean s k bs).mem.wf = true := by
  simpa [wrClean, foldl_setBad_mem (fun i => k - k % 8 + 8 * i)] using wrBytes_wf s k bs h

@[simp] theorem wr_regs (s : State) (k : Nat) (b : Byte) : (wr s k b).regs = s.regs := by unfold wr; split <;> rfl
@[simp] theorem wr_ddrs (s : State) (k : Nat) (b : Byte) : (wr s k b).ddrs = s.ddrs := by unfold wr; split <;> rfl

/-- Where a key is kept depends on the registers and the DRAM channels alone. -/
theorem memKey_congr {s s' : State} (hr : s'.regs = s.regs) (hd : s'.ddrs = s.ddrs) (k : Nat) : memKey s' k = memKey s k := by
  have h : memKey s' k = memKey { s with regs := s'.regs, ddrs := s'.ddrs } k := rfl
  rw [h, hr, hd]

/-- Reading a byte after a byte is written, by the places where the two are kept. -/
theorem rd_wr (s : State) (k j : Nat) (b : Byte) :
    rd (wr s k b) j = if (memKey s k).isSome ∧ memKey s j = memKey s k then b else rd s j := by
  have hm := memKey_congr (wr_regs s k b) (wr_ddrs s k b) j
  unfold rd
  rw [hm]
  cases hk : memKey s k with
  | none => simp [wr, hk]
  | some x =>
    cases hj : memKey s j with
    | none => simp
    | some y =>
      by_cases h : y = x
      · subst h; simp [wr, hk]
      · simp [wr, hk, h, Tbl.get_set]

/-- On-chip memory: a written byte reads back, and every other key reads as before. -/
theorem rd_wr_onchip (s : State) (k j : Nat) (b : Byte) (hk : k < dramBase) (hj : j < dramBase) :
    rd (wr s k b) j = if j = k then b else rd s j := by
  rw [rd_wr]; simp [memKey, hk, hj]

end Sys2Proof.Machine
end

