-- ==== Sys2Proof/Laws/Issue.lean ====
section
/-! SUPPORT. What the shared operations of the instruction set can do: counting an event, retiring, and the issue of a
word. -/

namespace Sys2Proof.Machine

/-- `Beside` without a change of the thread itself. -/
def Counted (s s' : State) (n : Nat) : Prop :=
  s' = { s with nibs := s'.nibs, regs := s'.regs, free := s'.free, out := s'.out }
  ∧ (∀ m, m ≠ n → nib s' m = nib s m)
  ∧ (∃ b l, nib s' n = { nib s n with retired := b, notices := l })
  ∧ (∀ a, a / 0x1000 ≠ Reg.nibPage n / 0x1000 → a / 0x1000 ≠ 9 → reg s' a = reg s a)

theorem Counted.refl (s : State) (n : Nat) : Counted s s n := ⟨rfl, fun _ _ => rfl, ⟨_, _, rfl⟩, fun _ _ _ => rfl⟩

theorem Counted.trans {s s' s'' : State} {n : Nat} (h : Counted s s' n) (h' : Counted s' s'' n) : Counted s s'' n := by
  obtain ⟨e, a, ⟨b, l, hn⟩, r⟩ := h
  obtain ⟨e', a', ⟨b', l', hn'⟩, r'⟩ := h'
  refine ⟨?_, fun m hm => (a' m hm).trans (a m hm), ⟨b', l', by rw [hn', hn]⟩, fun x hx hp => (r' x hx hp).trans (r x hx hp)⟩
  rw [e', e]

theorem nibPage_mod (n : Nat) : Reg.nibPage n % 0x1000 = 0 := by
  unfold Reg.nibPage Reg.stewardPage; split <;> omega

theorem Counted.setReg {s : State} {n a : Nat} (v : Word) (h : a / 0x1000 = Reg.nibPage n / 0x1000 ∨ a / 0x1000 = 9) :
    Counted s (setReg s a v) n := by
  refine ⟨rfl, fun _ _ => rfl, ⟨_, _, rfl⟩, fun b hb hp => ?_⟩
  rw [reg_setReg_other]
  rintro rfl
  cases h <;> contradiction

theorem Counted.free {s : State} {n : Nat} (k : Nat) : Counted s { s with free := k } n :=
  ⟨rfl, fun _ _ => rfl, ⟨_, _, rfl⟩, fun _ _ _ => rfl⟩

theorem Counted.out {s : State} {n : Nat} (l : List Out) : Counted s { s with out := l } n :=
  ⟨rfl, fun _ _ => rfl, ⟨_, _, rfl⟩, fun _ _ _ => rfl⟩

theorem Counted.notices {s : State} {n : Nat} (l : List (List Word)) :
    Counted s (modNib s n (fun b => { b with notices := l })) n := by
  refine ⟨rfl, fun m hm => ?_, ⟨(nib s n).retired, l, ?_⟩, fun _ _ _ => rfl⟩ <;> simp [nib_modNib, *]

theorem Counted.retired {s : State} {n : Nat} (b : Bool) : Counted s (modNib s n (fun x => { x with retired := b })) n := by
  refine ⟨rfl, fun m hm => ?_, ⟨b, (nib s n).notices, ?_⟩, fun _ _ _ => rfl⟩ <;> simp [nib_modNib, *]

theorem nibReg (n o : Nat) (h : o < 0x1000) : (Reg.nibPage n + o) / 0x1000 = Reg.nibPage n / 0x1000 := by
  have := nibPage_mod n; omega

theorem Counted.irq {s : State} {n page : Nat} (i : Nat) (h : page = Reg.nibPage n ∨ page = Reg.perfPage) :
    Counted s (Machine.irq s page i) n := by
  have h1 : Counted s (setFlag s (Reg.PG_IRQ_RAW page) i true) n := by
    refine Counted.setReg _ ?_
    rcases h with rfl | rfl
    · exact .inl (nibReg n 0x14 (by omega))
    · exact .inr rfl
  exact h1.trans (Counted.out _)

theorem Counted.postNotice {s : State} {n : Nat} (w : List Word) : Counted s (Machine.postNotice s n w) n := by
  have key : ∀ x : State, Counted x (modNib x n (fun b => { b with notices := b.notices ++ [w] })) n := fun x => by
    simpa [modNib] using Counted.notices (s := x) (n := n) ((nib x n).notices ++ [w])
  unfold Machine.postNotice
  dsimp only
  split
  · exact key s
  · exact (Counted.irq 2 (.inl rfl)).trans (key _)

theorem Counted.setFlag {s : State} {n a : Nat} (i : Nat) (b : Bool)
    (h : a / 0x1000 = Reg.nibPage n / 0x1000 ∨ a / 0x1000 = 9) : Counted s (Machine.setFlag s a i b) n := Counted.setReg _ h

theorem Counted.setFld {s : State} {n a : Nat} (hi lo v : Nat)
    (h : a / 0x1000 = Reg.nibPage n / 0x1000 ∨ a / 0x1000 = 9) : Counted s (Machine.setFld s a hi lo v) n := Counted.setReg _ h

/-- A 48-bit counter of the Nib's page counts. -/
theorem Counted.add48 {s : State} {n a : Nat} (k : Nat) (h : a / 0x1000 = Reg.nibPage n / 0x1000)
    (h4 : (a + 4) / 0x1000 = Reg.nibPage n / 0x1000) : Counted s (Machine.add48 s a k).2 n := by
  unfold Machine.add48
  exact (Counted.setReg _ (.inl h)).trans (Counted.setFld _ _ _ (.inl h4))

theorem perfReg (k : Nat) (h : k < 0x1000) : (0x9000 + k) / 0x1000 = 9 := by omega

theorem Counted.takeSample {s : State} (n i t : Nat) (hn : n ≤ 128) : Counted s (Machine.takeSample s n i t) n := by
  have hi : Reg.PC_SAMPLE_INFO n / 0x1000 = Reg.nibPage n / 0x1000 := by have := nibPage_mod n; unfold Reg.PC_SAMPLE_INFO; omega
  have hp : Reg.PC_SAMPLE_PC n / 0x1000 = Reg.nibPage n / 0x1000 := by have := nibPage_mod n; unfold Reg.PC_SAMPLE_PC; omega
  have hs : Reg.PF_SAMPLE (n / 32) / 0x1000 = 9 := by unfold Reg.PF_SAMPLE; omega
  unfold Machine.takeSample
  dsimp only
  split
  · exact Counted.setFlag _ _ (.inl hi)
  · have base : ∀ v w, Counted s (Machine.setReg (Machine.setReg { s with free := s.free + 1 } (Reg.PC_SAMPLE_PC n) v) (Reg.PC_SAMPLE_INFO n) w) n :=
      fun v w => ((Counted.free _).trans (Counted.setReg _ (.inl hp))).trans (Counted.setReg _ (.inl hi))
    split
    · exact (base _ _).trans (Counted.postNotice _)
    · refine Counted.trans ?_ (Counted.irq 0 (.inr rfl))
      split
      · exact (base _ _).trans (Counted.setFlag _ _ (.inr rfl))
      · exact (base _ _).trans (Counted.setFlag _ _ (.inr hs))
    · exact base _ _

/-- What follows a count: the overflow bit, and a sample where it is asked for. -/
theorem Counted.overflow {s : State} (n i t : Nat) (sample : Bool) (hn : n ≤ 128) (r : Bool × State) :
    Counted s r.2 n → Counted s (match r with
      | (false, s) => s
      | (true, s) =>
        let s := Machine.setFlag s (Reg.PC_OVF n) i true
        if sample then Machine.takeSample s n i t else s) n := by
  have ho : Reg.PC_OVF n / 0x1000 = Reg.nibPage n / 0x1000 := by have := nibPage_mod n; unfold Reg.PC_OVF; omega
  obtain ⟨b, s1⟩ := r
  intro h
  cases b
  · exact h
  · have h2 : Counted s (Machine.setFlag s1 (Reg.PC_OVF n) i true) n := Counted.trans h (Counted.setFlag i true (.inl ho))
    dsimp only
    split
    · exact h2.trans (Counted.takeSample n i t hn)
    · exact h2

/-- A counter of the Nib meets events: its page, the PERF page and its notices may change. -/
theorem Counted.pcCount {s : State} (n t evt k i : Nat) (hn : n ≤ 128) (hi : i < 8) :
    Counted s (Machine.pcCount n t evt k s i) n := by
  have h1 : Reg.PC_CNT_LO n i / 0x1000 = Reg.nibPage n / 0x1000 := by
    have := nibPage_mod n; unfold Reg.PC_CNT_LO; omega
  have h2 : (Reg.PC_CNT_LO n i + 4) / 0x1000 = Reg.nibPage n / 0x1000 := by
    have := nibPage_mod n; unfold Reg.PC_CNT_LO; omega
  unfold Machine.pcCount
  extract_lets sel
  split
  · exact Counted.overflow n i t _ hn _ (Counted.add48 _ h1 h2)
  · exact Counted.refl s n

theorem Counted.fold {s : State} {n : Nat} (f : State → Nat → State) (l : List Nat)
    (h : ∀ s, ∀ i ∈ l, Counted s (f s i) n) : Counted s (l.foldl f s) n := by
  induction l generalizing s with
  | nil => exact Counted.refl s n
  | cons i l ih =>
    exact (h s i (by simp)).trans (ih (fun s j hj => h s j (by simp [hj])))

theorem nibOf_le (t : Nat) (h : t < 1028) : nibOf t ≤ 128 := by unfold nibOf; split <;> omega

/-- Events of a thread are counted. -/
theorem Counted.pcEvent {s : State} (t evt k : Nat) (h : t < 1028) : Counted s (Machine.pcEvent s t evt k) (nibOf t) := by
  unfold Machine.pcEvent
  dsimp only
  split
  · exact Counted.refl s _
  · exact Counted.fold _ _ (fun s i hi => Counted.pcCount _ _ _ _ _ (nibOf_le t h) (by simpa using hi))

/-- An instruction retires. -/
theorem Counted.retire {s : State} (t : Nat) (h : t < 1028) : Counted s (Machine.retire s t) (nibOf t) :=
  (Counted.pcEvent t 0x01 1 h).trans (Counted.retired true)

/-- What counting leaves of the threads. -/
theorem Counted.thread_eq {s s' : State} {n : Nat} (h : Counted s s' n) (u : Nat) : thread s' u = thread s u := by
  rw [h.1]; rfl

/-- A change of one thread, then counting: `Beside`. -/
theorem Counted.beside {s s' : State} {t : Nat} (f : Thread → Thread) (h : Counted (modThread s t f) s' (nibOf t)) :
    Beside s s' t ∧ thread s' t = f (thread s t) := by
  have e := h.thread_eq
  obtain ⟨h1, h2, h3, h4⟩ := h
  refine ⟨⟨?_, fun u hu => ?_, fun m hm => ?_, ?_, fun a ha hp => ?_⟩, ?_⟩
  · rw [h1]; rfl
  · rw [e, thread_modThread]; simp [hu]
  · rw [h2 m hm]; rfl
  · simpa using h3
  · rw [h4 a ha hp]; rfl
  · rw [e]; simp

/-! ## Issue -/

/-- No armed pipeline error: no check is in the way. -/
theorem pipelineCheck_none {s : State} {t : Nat} (h : NoInjection s (nibOf t)) : pipelineCheck s t = none := by
  have : takeInjection s (Reg.nibPage (nibOf t)) 0xFF = (none, s) := by
    unfold takeInjection
    dsimp only
    rw [if_neg]
    exact h
  unfold pipelineCheck
  rw [this]

/-- Nothing is armed on the check: no injection is taken. -/
theorem takeInjection_none {s : State} {page src : Nat} (h : NoArm s page src) : takeInjection s page src = (none, s) := by
  unfold takeInjection
  dsimp only
  rw [if_neg]
  exact h

theorem nibOf_lt (t : Nat) (h : t < 1028) : nibOf t < 129 := by have := nibOf_le t h; omega

theorem instrPc_lt (s : State) (t : Nat) : instrPc s t < 0x10000 := by
  unfold instrPc
  dsimp only
  split <;> omega

/-- A key of the instruction memory of a Nib. -/
theorem checkPage_ispace {s : State} {n a : Nat} (hn : n < 129) (ha : a < 0x10000) :
    checkPage s (ispace n + a) = some (Reg.nibPage n, 5, none) := by
  unfold checkPage ispace Reg.nibPage
  by_cases h : n = 128
  · subst h
    simp only [if_true, dramBase, if_neg (show ¬ (128 : Nat) < 128 by omega)]
    repeat rw [if_neg (by omega)]
    rw [if_pos (by omega)]
  · simp only [if_neg h]
    repeat rw [if_neg (by omega)]
    rw [if_pos (by omega)]
    have e : (0xE000000 + 0x30000 * n + a - 0xE000000) / 0x30000 = n := by omega
    rw [e]

/-- A good word of the instruction memory, with nothing armed on its check, reads good and leaves nothing. -/
theorem fetch_good {s : State} {n a mid acc : Nat} (hn : n < 129) (ha : a < 0x10000)
    (hb : badAt s (ispace n + a) = false) (h : NoArm s (Reg.nibPage n) 5) :
    checkRead s (ispace n + a) mid acc = (false, s) := by
  unfold checkRead
  rw [checkPage_ispace hn ha]
  simp [hb, takeInjection_none h]

/-- A word that issues with no early cause, not under RPT, runs. -/
theorem issue_runs {r : Row} {t : Nat} {w : Word} {s : State} (ht : t < 1028) (hi : Issues s t) (hw : r.is w = true)
    (he : earlyTrap r s t w = none) (hp : ∀ dir, (thread s t).pfx ≠ .rpt dir) :
    issue r t w s = applyRes s t false (r.run t w s) := by
  obtain ⟨h1, h2, h3, h4, -⟩ := hi
  unfold issue
  rw [if_neg (by simp [hw, h1]), pipelineCheck_none h3]
  have hrep : (match (thread s t).pfx with | .rpt _ => true | _ => false) = false := by
    cases hq : (thread s t).pfx with
    | rpt d => exact absurd hq (hp d)
    | none => rfl
    | ext _ => rfl
  simp only [fetch_good (nibOf_lt t ht) (instrPc_lt s t) h2 h4, he]
  simp

/-- `stepEnd` does nothing for a thread that is not being stepped. -/
theorem stepEnd_off {s : State} {t : Nat} (h : (thread s t).stepping = false) : stepEnd s t = s := by
  simp [stepEnd, h]

/-- `s'` is `s` with thread `t` as `th`: nothing else differs. -/
def Only (s s' : State) (t : Nat) (th : Thread) : Prop :=
  s' = { s with threads := s'.threads } ∧ thread s' t = th ∧ ∀ u, u ≠ t → thread s' u = thread s u

theorem Only.refl (s : State) (t : Nat) : Only s s t (thread s t) := ⟨rfl, rfl, fun _ _ => rfl⟩

theorem Only.mod {s s' : State} {t : Nat} {th : Thread} (h : Only s s' t th) (f : Thread → Thread) :
    Only s (modThread s' t f) t (f th) := by
  obtain ⟨h1, h2, h3⟩ := h
  refine ⟨?_, by simp [h2], fun u hu => by rw [thread_modThread]; simp [hu, h3 u hu]⟩
  show { s' with threads := _ } = { s with threads := _ }
  rw [h1]
  rfl

theorem Only.modThread (s : State) (t : Nat) (f : Thread → Thread) : Only s (modThread s t f) t (f (thread s t)) :=
  (Only.refl s t).mod f

/-- A change of one thread, then counting: `Beside`, and the thread is as it was left. -/
theorem Only.counted {s s' s'' : State} {t : Nat} {th : Thread} (h : Only s s' t th) (hc : Counted s' s'' (nibOf t)) :
    Beside s s'' t ∧ thread s'' t = th := by
  obtain ⟨h1, h2, h3⟩ := h
  have e := hc.thread_eq
  obtain ⟨c1, c2, c3, c4⟩ := hc
  have hn : ∀ m, nib s' m = nib s m := fun m => by rw [h1]; rfl
  have hr : ∀ a, reg s' a = reg s a := fun m => by rw [h1]; rfl
  refine ⟨⟨?_, fun u hu => ?_, fun m hm => ?_, ?_, fun a ha hp => ?_⟩, ?_⟩
  · rw [c1, h1]
  · rw [e, h3 u hu]
  · rw [c2 m hm, hn]
  · simpa [hn] using c3
  · rw [c4 a ha hp, hr]
  · rw [e, h2]

/-- A unit that changes its thread alone completes: `Beside`, and the thread is as it left it, at the next word. -/
theorem done_beside {s s1 : State} {t : Nat} {th : Thread} (ht : t < 1028) (h : Only s s1 t th) (hf : th.stepping = false)
    (hp : th.pc = (thread s t).pc ∧ th.pfx = (thread s t).pfx) :
    Beside s (applyRes s t false (.done s1)) t
    ∧ thread (applyRes s t false (.done s1)) t = { th with pc := pcAfter s t, pfx := .none } := by
  have hnext : nextPc s1 t = nextPc s t := by simp [nextPc, instrPc, h.2.1, hp]
  have h' : Only s (advancePc s1 t (nextPc s1 t)) t { th with pc := pcAfter s t, pfx := .none } := by
    have := h.mod (fun th => { th with pc := BitVec.ofNat 16 (nextPc s1 t), pfx := .none })
    simpa [advancePc, pcAfter, hnext] using this
  have hc := h'.counted (Counted.retire t ht)
  have hs : stepEnd (retire (advancePc s1 t (nextPc s1 t)) t) t = retire (advancePc s1 t (nextPc s1 t)) t :=
    stepEnd_off (by rw [hc.2]; exact hf)
  show Beside s (stepEnd (retire (advancePc s1 t (nextPc s1 t)) t) t) t ∧ _
  rw [show applyRes s t false (.done s1) = stepEnd (retire (advancePc s1 t (nextPc s1 t)) t) t from rfl, hs]
  exact hc

/-- What an instruction of registers alone leaves when it does not trap. -/
theorem aluRes_done (s : State) (t d : Nat) (o : Alu) (h : o.trap = none) :
    ∃ s1, aluRes s t d o = .done s1 ∧ Only s s1 t { thread s t with
      w := match o.d with
        | some v => Tbl.set (fun _ => 0) (thread s t).w d v
        | none => (thread s t).w
      st := o.st } := by
  unfold aluRes
  simp only [h]
  have h1 : Only s (setSt s t o.st) t { thread s t with st := o.st } := Only.modThread s t _
  cases hd : o.d with
  | none => exact ⟨_, rfl, h1⟩
  | some v => exact ⟨_, rfl, h1.mod (fun th => { th with w := Tbl.set (fun _ => 0) th.w d v })⟩

/-! ## Changes that follow each other -/

theorem Beside.trans {s s' s'' : State} {t : Nat} (h : Beside s s' t) (h' : Beside s' s'' t) : Beside s s'' t := by
  obtain ⟨e, a, b, ⟨b1, l1, c⟩, d⟩ := h
  obtain ⟨e', a', b', ⟨b2, l2, c'⟩, d'⟩ := h'
  refine ⟨?_, fun u hu => (a' u hu).trans (a u hu), fun m hm => (b' m hm).trans (b m hm), ⟨b2, l2, by rw [c', c]⟩,
    fun x hx hp => (d' x hx hp).trans (d x hx hp)⟩
  rw [e', e]

theorem Beside.refl (s : State) (t : Nat) : Beside s s t :=
  ⟨rfl, fun _ _ => rfl, fun _ _ => rfl, ⟨_, _, rfl⟩, fun _ _ _ => rfl⟩

theorem Counted.toBeside {s s' : State} {t : Nat} (h : Counted s s' (nibOf t)) : Beside s s' t ∧ thread s' t = thread s t :=
  (Only.refl s t).counted h

theorem Only.toBeside {s s' : State} {t : Nat} {th : Thread} (h : Only s s' t th) : Beside s s' t ∧ thread s' t = th :=
  h.counted (Counted.refl s' (nibOf t))

/-- A change of thread `t` alone. -/
theorem Beside.modThread (s : State) (t : Nat) (f : Thread → Thread) :
    Beside s (modThread s t f) t ∧ thread (modThread s t f) t = f (thread s t) := (Only.modThread s t f).toBeside

theorem Beside.pcEvent (s : State) {t : Nat} (evt k : Nat) (h : t < 1028) :
    Beside s (pcEvent s t evt k) t ∧ thread (pcEvent s t evt k) t = thread s t := (Counted.pcEvent t evt k h).toBeside

theorem Beside.retire (s : State) {t : Nat} (h : t < 1028) :
    Beside s (retire s t) t ∧ thread (retire s t) t = thread s t := (Counted.retire t h).toBeside

/-- The trap vector and the check bits of I-space are as before. -/
theorem Beside.tvec {s s' : State} {t : Nat} (h : Beside s s' t) : (nib s' (nibOf t)).tvec = (nib s (nibOf t)).tvec := by
  obtain ⟨-, -, -, ⟨b, l, c⟩, -⟩ := h
  rw [c]

/-- The check bits below DRAM hold no register. -/
theorem Beside.badAt {s s' : State} {t : Nat} (h : Beside s s' t) (k : Nat) (hk : k < dramBase) : badAt s' k = badAt s k := by
  have e := h.1
  unfold Machine.badAt memKey inPoison
  rw [if_pos hk, if_pos hk, e]
  rfl

theorem ispace_lt (t : Nat) (h : t < 1028) : ispace (nibOf t) ≤ 0x10000000 := by
  have := nibOf_le t h
  unfold ispace; split <;> omega

/-- Trap entry: what a trap that enters its handler changes. -/
theorem takeTrap_enters {s : State} {t code sub : Nat} {tinfo : Word} {epc pc : Nat} (ht : t < 1028) (hc : code < 16)
    (h : Enters s t code) : Beside s (takeTrap s t code sub tinfo epc pc) t
    ∧ thread (takeTrap s t code sub tinfo epc pc) t = trapped s t code sub tinfo (word epc) (thread s t) := by
  obtain ⟨h1, h2, h3⟩ := h
  obtain ⟨b1, e1⟩ := Beside.pcEvent s 0x0A 1 ht
  have hi := ispace_lt t ht
  have hb : handlerPc s t code < 0x20000 := by
    unfold handlerPc bits
    have : ∀ x : Nat, x % 2 ^ (15 + 1 - 10) < 64 := fun x => Nat.mod_lt _ (by decide)
    have := this ((nib s (nibOf t)).tvec.toNat >>> 10)
    omega
  have h3' : Machine.badAt (Machine.pcEvent s t 0x0A) (ispace (nibOf t) + handlerPc s t code) = false := by
    rw [b1.badAt _ (by unfold dramBase; omega)]; exact h3
  unfold takeTrap
  extract_lets n s1 th cause tvec vec
  have hv : vec = handlerPc s t code := by
    show bits (nib s1 n).tvec 15 10 * 0x400 + _ = _
    rw [b1.tvec]; rfl
  have hth : th = thread s t := e1
  rw [if_neg (by
    rw [show tvec = (nib s (nibOf t)).tvec from b1.tvec, hth, hv]
    simp [h1, h2, h3', s1, n])]
  obtain ⟨b2, e2⟩ := Beside.modThread s1 t (fun th => { th with
      epc := word epc, cause := cause, tinfo := tinfo,
      st := setBits (setBit th.st 29 true) 31 30 (if bits (thread s1 t).st 31 30 = 3 then 3 else 1),
      pc := BitVec.ofNat 16 vec, pfx := .none, load := none })
  refine ⟨b1.trans b2, ?_⟩
  refine e2.trans ?_
  rw [show thread s1 t = thread s t from e1, hv]
  unfold trapped
  have : cause = causeFor (thread s t) code sub := by
    show causeWord s1 t code sub = _
    unfold causeWord causeFor
    simp only [show thread s1 t = thread s t from e1]
    cases (thread s t).pfx <;> simp
  rw [this]

/-- An early cause, with no injected error in the way: the instruction is the trap. -/
theorem issue_early {r : Row} {t : Nat} {w : Word} {s : State} {code sub : Nat} (ht : t < 1028) (hi : Issues s t) (hw : r.is w = true)
    (he : earlyTrap r s t w = some (code, sub)) : issue r t w s = stepEnd (takeTrap s t code sub w (thread s t).pc.toNat (thread s t).pc.toNat) t := by
  obtain ⟨h1, h2, h3, h4, -⟩ := hi
  unfold issue
  rw [if_neg (by simp [hw, h1]), pipelineCheck_none h3]
  simp only [fetch_good (nibOf_lt t ht) (instrPc_lt s t) h2 h4, he]
  simp [applyRes]

/-- A precise trap that enters its handler. -/
theorem precise {s : State} {t code sub : Nat} {tinfo : Word} (ht : t < 1028) (hc : code < 16) (h : Enters s t code)
    (hs : (thread s t).stepping = false) :
    Precise s t code sub tinfo (stepEnd (takeTrap s t code sub tinfo (thread s t).pc.toNat (thread s t).pc.toNat) t) := by
  have := takeTrap_enters (sub := sub) (tinfo := tinfo) (epc := (thread s t).pc.toNat) (pc := (thread s t).pc.toNat) ht hc h
  rw [stepEnd_off (by rw [this.2]; exact hs)]
  exact this

/-- Completion of a unit that has changed `s` to `s1` beside its thread. -/
theorem done_of_beside {s s1 : State} {t : Nat} {th : Thread} (ht : t < 1028) (h : Beside s s1 t) (e : thread s1 t = th)
    (hf : th.stepping = false) (hp : th.pc = (thread s t).pc ∧ th.pfx = (thread s t).pfx) :
    Beside s (applyRes s t false (.done s1)) t
    ∧ thread (applyRes s t false (.done s1)) t = { th with pc := pcAfter s t, pfx := .none } := by
  have hnext : nextPc s1 t = nextPc s t := by simp [nextPc, instrPc, e, hp]
  obtain ⟨b2, e2⟩ := Beside.modThread s1 t (fun th => { th with pc := BitVec.ofNat 16 (nextPc s1 t), pfx := .none })
  obtain ⟨b3, e3⟩ := Beside.retire (advancePc s1 t (nextPc s1 t)) ht
  have e4 : thread (Machine.retire (advancePc s1 t (nextPc s1 t)) t) t = { th with pc := pcAfter s t, pfx := .none } := by
    rw [e3]; refine e2.trans ?_; rw [e, hnext]; rfl
  rw [show applyRes s t false (.done s1) = stepEnd (Machine.retire (advancePc s1 t (nextPc s1 t)) t) t from rfl,
    stepEnd_off (by rw [e4]; exact hf)]
  exact ⟨h.trans (b2.trans b3), e4⟩

/-- A jump that has changed `s` to `s1` beside its thread. -/
theorem jump_of_beside {s s1 : State} {t : Nat} {th : Thread} (pc : Nat) (ht : t < 1028) (h : Beside s s1 t) (e : thread s1 t = th)
    (hf : th.stepping = false) :
    Beside s (applyRes s t false (.jump s1 pc)) t
    ∧ thread (applyRes s t false (.jump s1 pc)) t = { th with pc := BitVec.ofNat 16 (pc % 65536), pfx := .none } := by
  obtain ⟨b2, e2⟩ := Beside.modThread s1 t (fun th => { th with pc := BitVec.ofNat 16 (pc % 65536), pfx := .none })
  obtain ⟨b3, e3⟩ := Beside.retire (advancePc s1 t (pc % 65536)) ht
  have e4 : thread (Machine.retire (advancePc s1 t (pc % 65536)) t) t = { th with pc := BitVec.ofNat 16 (pc % 65536), pfx := .none } := by
    rw [e3]; refine e2.trans ?_; rw [e]
  rw [show applyRes s t false (.jump s1 pc) = stepEnd (Machine.retire (advancePc s1 t (pc % 65536)) t) t from rfl,
    stepEnd_off (by rw [e4]; exact hf)]
  exact ⟨h.trans (b2.trans b3), e4⟩

/-- The checks before an instruction's own effect find nothing: no prefix, good fields. -/
theorem early_none {r : Row} {s : State} {t : Nat} {w : Word} (hb : Bare s t) (hf : FieldsOk (r.fields w) r.three w)
    (hc : r.clean w = true) (he : r.early s t w = none) : earlyTrap r s t w = none := by
  unfold earlyTrap
  obtain ⟨h1, h2⟩ := hf
  simp only [h1, h2, hc, he, show (thread s t).pfx = .none from hb, prefixTrap]
  simp

theorem Bare.not_rpt {s : State} {t : Nat} (h : Bare s t) : ∀ dir, (thread s t).pfx ≠ .rpt dir := by
  intro d e
  rw [show (thread s t).pfx = .none from h] at e
  cases e

theorem BareOrExt.not_rpt {s : State} {t : Nat} (h : BareOrExt s t) : ∀ dir, (thread s t).pfx ≠ .rpt dir := by
  intro d e
  rcases h with h | ⟨hi, h⟩ <;> rw [h] at e <;> cases e

/-- As `early_none`, for an instruction that EXT may precede. -/
theorem early_none_ext {r : Row} {s : State} {t : Nat} {w : Word} (hb : BareOrExt s t) (hx : r.ext = true)
    (hf : FieldsOk (r.fields w) r.three w) (hc : r.clean w = true) (he : r.early s t w = none) : earlyTrap r s t w = none := by
  unfold earlyTrap
  obtain ⟨h1, h2⟩ := hf
  rcases hb with hb | ⟨hi, hb⟩ <;> simp [h1, h2, hc, he, hb, prefixTrap, hx]

/-- An instruction of registers alone that does not trap completes. -/
theorem alu_gives {r : Row} {t : Tid} {w : Word} {s : State} {o : Alu} {c : Instr}
    (hc : exec c s = .next (issue r t w s)) (hw : r.is w = true) (hi : Issues s t)
    (hp : ∀ dir, (thread s t).pfx ≠ .rpt dir)
    (he : earlyTrap r s t w = none) (hr : r.run t w s = aluRes s t (wD w) o) (ht : o.trap = none) :
    Gives c s (fun s' => Beside s s' t ∧ thread s' t = afterAlu s t (wD w) o) := by
  obtain ⟨s1, h1, h2⟩ := aluRes_done s t (wD w) o ht
  refine ⟨_, hc, ?_⟩
  rw [issue_runs t.isLt hi hw he hp, hr, h1]
  exact done_beside t.isLt h2 hi.2.2.2.2 ⟨rfl, rfl⟩

/-- An instruction that completes and then traps, with a trap that enters its handler. -/
theorem late_beside {s s1 : State} {t : Nat} {th : Thread} (code : Nat) (ht : t < 1028) (hc : code < 16) (h : Only s s1 t th) 
    (hf : th.stepping = false) (h2 : stTl th.st = false) (he : Enters s t code) :
    Beside s (applyRes s t false (.late s1 code)) t
    ∧ thread (applyRes s t false (.late s1 code)) t = trapped s t code 0 (word (instrPc s t)) (word (nextPc s t)) th := by
  obtain ⟨b0, e0⟩ := h.toBeside
  obtain ⟨b1, e1⟩ := Beside.retire s1 ht
  obtain ⟨g1, g2, g3⟩ := he
  have hv : handlerPc (Machine.retire s1 t) t code = handlerPc s t code := by
    unfold handlerPc; rw [b1.tvec, b0.tvec]
  have he' : Enters (Machine.retire s1 t) t code := by
    refine ⟨?_, ?_, ?_⟩
    · rw [b1.tvec, b0.tvec]; exact g1
    · rw [e1, e0]; exact h2
    · rw [hv, b1.badAt, b0.badAt]; exact g3
      · have := ispace_lt t ht; unfold handlerPc bits dramBase;
        have : ∀ x : Nat, x % 2 ^ (15 + 1 - 10) < 64 := fun x => Nat.mod_lt _ (by decide)
        have := this ((nib s (nibOf t)).tvec.toNat >>> 10)
        omega
      · have := ispace_lt t ht; unfold handlerPc bits dramBase;
        have : ∀ x : Nat, x % 2 ^ (15 + 1 - 10) < 64 := fun x => Nat.mod_lt _ (by decide)
        have := this ((nib s (nibOf t)).tvec.toNat >>> 10)
        omega
  obtain ⟨b2, e2⟩ := takeTrap_enters (sub := 0) (tinfo := word (instrPc s t)) (epc := nextPc s t) (pc := nextPc s t) ht hc he'
  have e3 : thread (takeTrap (Machine.retire s1 t) t code 0 (word (instrPc s t)) (nextPc s t) (nextPc s t)) t = trapped s t code 0 (word (instrPc s t)) (word (nextPc s t)) th := by
    rw [e2, e1, e0]; unfold trapped; rw [hv]
  have : applyRes s t false (.late s1 code) = stepEnd (takeTrap (Machine.retire s1 t) t code 0 (word (instrPc s t)) (nextPc s t) (nextPc s t)) t := rfl
  rw [this, stepEnd_off (by rw [e3]; exact hf)]
  exact ⟨b0.trans (b1.trans b2), e3⟩

/-- A unit that changes its thread, beside counting, completes. -/
theorem completes_of {s s1 : State} {t : Tid} {th : Thread} (h : Beside s s1 t) (e : thread s1 t = th)
    (hf : th.stepping = false) (hp : th.pc = (thread s t).pc ∧ th.pfx = (thread s t).pfx) :
    Completes s t th (applyRes s t false (.done s1)) := done_of_beside t.isLt h e hf hp

end Sys2Proof.Machine
end

