-- ==== Sys2Proof/Laws/Report.lean ====
section
/-! SUPPORT. What raising an interrupt and recording an error may change: one lemma per operation, and how they
compose; and a domain that loses its contents keeps the memory's form. -/

namespace Sys2Proof.Machine

theorem Raises.refl (s : State) (l : List Nat) : Raises s s l := ⟨rfl, fun _ _ => rfl⟩

theorem Raises.trans {s s' s'' : State} {l : List Nat} (h : Raises s s' l) (h' : Raises s' s'' l) : Raises s s'' l :=
  ⟨by rw [h'.1, h.1], fun a ha => (h'.2 a ha).trans (h.2 a ha)⟩

theorem Raises.setReg (s : State) (a : Nat) (v : Word) {l : List Nat} (h : a ∈ l) : Raises s (Machine.setReg s a v) l :=
  ⟨rfl, fun _ hb => reg_setReg_other s v (fun e => hb (e ▸ h))⟩

theorem Raises.irq (s : State) (page i : Nat) {l : List Nat} (h : Reg.PG_IRQ_RAW page ∈ l) : Raises s (Machine.irq s page i) l := by
  refine ⟨rfl, fun b hb => ?_⟩
  have e : reg (Machine.irq s page i) b = reg (setFlag s (Reg.PG_IRQ_RAW page) i true) b := rfl
  rw [e, reg_setFlag, if_neg (fun (x : b = _) => hb (x ▸ h))]

theorem reg_irq (s : State) (page i a : Nat) :
    reg (irq s page i) a = if a = Reg.PG_IRQ_RAW page then setBit (reg s (Reg.PG_IRQ_RAW page)) i true else reg s a := by
  have e : reg (irq s page i) a = reg (setFlag s (Reg.PG_IRQ_RAW page) i true) a := rfl
  rw [e, reg_setFlag]

theorem Raises.records {s s' : State} {l : List Nat} (h : Raises s s' l) : Records s s' l :=
  by
  have hm : s'.mem = s.mem := by rw [h.1]
  have hf : s'.free = s.free := by rw [h.1]
  refine ⟨?_, fun a ha _ _ => h.2 a ha, fun j _ => by simp [kept, hm]⟩
  rw [hm, hf]
  exact h.1

theorem Records.refl (s : State) (l : List Nat) : Records s s l := ⟨rfl, fun _ _ _ _ => rfl, fun _ _ => rfl⟩

theorem Records.trans {s s' s'' : State} {l : List Nat} (h : Records s s' l) (h' : Records s' s'' l) : Records s s'' l :=
  ⟨by rw [h'.1, h.1], fun a ha hb hc => (h'.2.1 a ha hb hc).trans (h.2.1 a ha hb hc),
    fun j hj => (h'.2.2 j hj).trans (h.2.2 j hj)⟩

theorem Records.mono {s s' : State} {l l' : List Nat} (h : Records s s' l) (hl : ∀ a ∈ l, a ∈ l') : Records s s' l' :=
  ⟨h.1, fun a ha hb hc => h.2.1 a (fun e => ha (hl a e)) hb hc, h.2.2⟩

/-- A register that error records or a listed write may change is stored. -/
theorem Records.setReg (s : State) (a : Nat) (v : Word) {l : List Nat}
    (h : a ∈ l ∨ a % 0x1000 < 0x100 ∨ a / 0x1000 = Reg.blotterPage / 0x1000) : Records s (Machine.setReg s a v) l := by
  refine ⟨rfl, fun b hb hc hd => reg_setReg_other s v (fun e => ?_), fun j _ => rfl⟩
  subst e
  rcases h with h | h | h
  · exact hb h
  · omega
  · exact hd h

theorem Records.setFlag (s : State) (a i : Nat) (b : Bool) {l : List Nat}
    (h : a ∈ l ∨ a % 0x1000 < 0x100 ∨ a / 0x1000 = Reg.blotterPage / 0x1000) : Records s (Machine.setFlag s a i b) l :=
  Records.setReg s a _ h

theorem Records.setFld (s : State) (a hi lo v : Nat) {l : List Nat}
    (h : a ∈ l ∨ a % 0x1000 < 0x100 ∨ a / 0x1000 = Reg.blotterPage / 0x1000) : Records s (Machine.setFld s a hi lo v) l :=
  Records.setReg s a _ h

theorem Records.free (s : State) (k : Nat) {l : List Nat} : Records s { s with free := k } l := ⟨rfl, fun _ _ _ _ => rfl, fun _ _ => rfl⟩

theorem Records.out (s : State) (o : List Out) {l : List Nat} : Records s { s with out := o } l :=
  ⟨rfl, fun _ _ _ _ => rfl, fun _ _ => rfl⟩

theorem Records.wr (s : State) (k : Nat) (b : Byte) {l : List Nat} (h : 0xFFF8000 ≤ k ∧ k < 0x10000000) : Records s (Machine.wr s k b) l := by
  have hk : memKey s k = some k := by simp [memKey, show k < dramBase by simp [dramBase]; omega]
  have e : Machine.wr s k b = { s with mem := Tbl.set memDefault s.mem k b } := by simp [Machine.wr, hk]
  rw [e]
  refine ⟨rfl, fun _ _ _ _ => rfl, fun j hj => ?_⟩
  show Tbl.get memDefault (Tbl.set memDefault s.mem k b) j = _
  rw [Tbl.get_set, if_neg (by omega)]
  rfl

theorem Records.wrBytes (s : State) (k : Nat) (bs : List Byte) {l : List Nat} (h : 0xFFF8000 ≤ k ∧ k + bs.length ≤ 0x10000000) :
    Records s (Machine.wrBytes s k bs) l := by
  induction bs generalizing s k with
  | nil => exact Records.refl _ _
  | cons b bs ih =>
    simp only [List.length_cons] at h
    exact (Records.wr s k b (by omega)).trans (ih (Machine.wr s k b) (k + 1) (by omega))

/-- The page of a header register lies at its page. -/
theorem headerPage_mod {page : Nat} (h : page % 0x1000 = 0) : headerPage page % 0x1000 = 0 := by
  unfold headerPage
  split
  · simp only [Reg.partPage]; omega
  · exact h

theorem Records.capture (s : State) (page src : Nat) (r : Report) {l : List Nat} (hp : page % 0x1000 = 0) :
    Records s (Machine.capture s page src r) l := by
  have hh : ∀ o < 0x100, (page + o) % 0x1000 < 0x100 := fun o ho => by omega
  unfold Machine.capture
  split
  · exact Records.refl _ _
  · split <;>
    exact (((((Records.setReg s _ _ (.inr (.inl (hh _ (by omega))))).trans
      (Records.setReg _ _ _ (.inr (.inl (hh _ (by omega)))))).trans
      (Records.setReg _ _ _ (.inr (.inl (hh _ (by omega)))))).trans
      (Records.setReg _ _ _ (.inr (.inl (hh _ (by omega)))))).trans
      (Records.setReg _ _ _ (.inr (.inl (hh _ (by omega))))))

theorem Records.withIrq {s : State} {f : State → State} {l : List Nat} (h : Records s (f s) l) : Records s (Machine.withIrq f s) l :=
  h.trans (Records.out _ _)

/-- The page operand of a report is a page base. -/
abbrev Based (page : Nat) : Prop := page % 0x1000 = 0

theorem Records.recordOn (s : State) (page : Nat) (r : Report) {l : List Nat} (hp : Based page) (hs : r.sev < 4) :
    Records s (Machine.recordOn s page r) l := by
  unfold Machine.recordOn count countN
  refine ((Records.setFlag s _ _ _ (.inr (.inl ?_))).trans (Records.capture _ _ _ _ hp)).trans
    (Records.setReg _ _ _ (.inr (.inr ?_)))
  · simp only [Reg.PG_ERR_STICKY]; omega
  · simp only [Reg.BL_COUNT, Reg.blotterPage]; omega

theorem quillPage_mod (q : Nat) : Reg.quillPage q % 0x1000 = 0 := by simp only [Reg.quillPage]; omega

theorem Records.recordFolios (s : State) (r : Report) {l : List Nat} : Records s (Machine.recordFolios s r) l := by
  have h1 : ∀ (s : State) (page src i : Nat), Based page →
      Records s (Machine.capture (Machine.setFlag s (Reg.PG_ERR_STICKY page) i true) page src r) l := fun s page src i hp =>
    (Records.setFlag s _ _ _ (.inr (.inl (by simp only [Reg.PG_ERR_STICKY]; omega)))).trans (Records.capture _ _ _ _ hp)
  unfold Machine.recordFolios
  split
  · exact Records.refl _ _
  · split
    · exact Records.refl _ _
    · refine Records.trans ?_ (h1 _ _ _ _ (by decide))
      split
      · exact h1 _ _ _ _ (quillPage_mod _)
      · exact Records.refl _ _

theorem Records.recordFirst (s : State) (r : Report) {l : List Nat} : Records s (Machine.recordFirst s r) l := by
  unfold Machine.recordFirst
  split
  · exact Records.refl _ _
  · exact (((Records.setReg s _ _ (.inr (.inr (by decide)))).trans (Records.setReg _ _ _ (.inr (.inr (by decide))))).trans
      (Records.setReg _ _ _ (.inr (.inr (by decide))))).trans (Records.setReg _ _ _ (.inr (.inr (by decide))))

theorem leBytes_length (n v : Nat) : (leBytes n v).length = n := by simp [leBytes]

theorem logRecord_length (s : State) (r : Report) : (logRecord s r).length = 32 := by
  simp [logRecord, leBytes_length]

theorem Records.recordLog (s : State) (r : Report) {l : List Nat} : Records s (Machine.recordLog s r) l := by
  unfold Machine.recordLog
  split
  · exact Records.refl _ _
  · dsimp only
    split
    · exact (Records.wrBytes s _ _ (by rw [logRecord_length]; omega)).trans (Records.setReg _ _ _ (.inr (.inr (by decide))))
    · exact (Records.setFlag s _ _ _ (.inr (.inr (by decide)))).trans (Records.recordOn _ _ _ (by decide) (by decide))

theorem headerPage_based {page : Nat} (h : Based page) : Based (headerPage page) := headerPage_mod h

/-- What recording an error changes (R321, R322, R324, R334, R392). -/
theorem Records.record (s : State) (r : Report) {l : List Nat} (hp : Based r.page) (hs : r.sev < 4) :
    Records s (Machine.record s r) l := by
  have hb := headerPage_based hp
  unfold Machine.record
  refine Records.withIrq ?_
  have h := fun q : Report => fun (hq : Based q.page) (hv : q.sev < 4) =>
    (((Records.recordOn s q.page q (l := l) hq hv).trans (Records.recordFolios _ q)).trans (Records.recordFirst _ q)).trans
      (Records.recordLog _ q)
  replace h := h { r with page := headerPage r.page } hb hs
  dsimp only at h ⊢
  split
  · split
    · exact h.trans (Records.setFlag _ _ _ _ (.inr (.inl (by simp only [Reg.PG_IRQ_RAW]; simp only [Based] at hb; omega))))
    · exact h
  · exact h

/-- A sticky bit that is set stays set over a register write that does not clear it. -/
theorem sticky_setReg {s : State} {page i : Nat} (a : Nat) (v : Word) (h : flag s (Reg.PG_ERR_STICKY page) i = true)
    (ha : a ≠ Reg.PG_ERR_STICKY page) : flag (setReg s a v) (Reg.PG_ERR_STICKY page) i = true := by
  unfold flag; rw [reg_setReg_other s v (Ne.symm ha)]; exact h

theorem sticky_setFlag {s : State} {page i : Nat} (a j : Nat) (h : flag s (Reg.PG_ERR_STICKY page) i = true) :
    flag (setFlag s a j true) (Reg.PG_ERR_STICKY page) i = true := by
  unfold flag; rw [reg_setFlag]
  split
  · next e =>
    subst e
    rw [bit_setBit]
    split
    · simpa using BitVec.lt_of_getLsbD h
    · exact h
  · exact h

theorem sticky_capture {s : State} {page i : Nat} (pg src : Nat) (r : Report) (hp : Based page) (hq : Based pg)
    (h : flag s (Reg.PG_ERR_STICKY page) i = true) : flag (capture s pg src r) (Reg.PG_ERR_STICKY page) i = true := by
  unfold capture
  split
  · exact h
  · simp only [Based] at hp hq
    split <;>
    exact sticky_setReg _ _ (sticky_setReg _ _ (sticky_setReg _ _ (sticky_setReg _ _ (sticky_setReg _ _ h
      (by simp only [Reg.PG_FERR_SRC, Reg.PG_ERR_STICKY]; omega)) (by simp only [Reg.PG_FERR_ADDR_LO, Reg.PG_ERR_STICKY]; omega))
      (by simp only [Reg.PG_FERR_ADDR_HI, Reg.PG_ERR_STICKY]; omega)) (by simp only [Reg.PG_FERR_PHASE_LO, Reg.PG_ERR_STICKY]; omega))
      (by simp only [Reg.PG_FERR_PHASE_HI, Reg.PG_ERR_STICKY]; omega)

theorem sticky_keep {s : State} {page i : Nat} (a : Nat) (v : Word) (hp : Based page)
    (h : flag s (Reg.PG_ERR_STICKY page) i = true) (ha : a % 0x1000 ≠ 0x20) :
    flag (setReg s a v) (Reg.PG_ERR_STICKY page) i = true :=
  sticky_setReg a v h (fun e => ha (by simp only [Based] at hp; simp only [e, Reg.PG_ERR_STICKY]; omega))

theorem sticky_recordOn {s : State} {page i : Nat} (pg : Nat) (r : Report) (hp : Based page) (hq : Based pg) (hs : r.sev < 4)
    (h : flag s (Reg.PG_ERR_STICKY page) i = true) : flag (recordOn s pg r) (Reg.PG_ERR_STICKY page) i = true :=
  sticky_keep _ _ hp (sticky_capture _ _ _ hp hq (sticky_setFlag _ _ h)) (by simp only [Reg.BL_COUNT]; omega)

theorem sticky_recordFolios {s : State} {page i : Nat} (r : Report) (hp : Based page)
    (h : flag s (Reg.PG_ERR_STICKY page) i = true) : flag (recordFolios s r) (Reg.PG_ERR_STICKY page) i = true := by
  unfold recordFolios
  split
  · exact h
  · split
    · exact h
    · refine sticky_capture _ _ _ hp (by decide) (sticky_setFlag _ _ ?_)
      split
      · exact sticky_capture _ _ _ hp (quillPage_mod _) (sticky_setFlag _ _ h)
      · exact h

theorem sticky_recordFirst {s : State} {page i : Nat} (r : Report) (hp : Based page)
    (h : flag s (Reg.PG_ERR_STICKY page) i = true) : flag (recordFirst s r) (Reg.PG_ERR_STICKY page) i = true := by
  unfold recordFirst
  split
  · exact h
  · exact sticky_keep _ _ hp (sticky_keep _ _ hp (sticky_keep _ _ hp (sticky_keep _ _ hp h (by decide)) (by decide)) (by decide))
      (by decide)

theorem wrBytes_regs (s : State) (k : Nat) (bs : List Byte) : (wrBytes s k bs).regs = s.regs := by
  induction bs generalizing s k with
  | nil => rfl
  | cons b bs ih => exact (ih _ _).trans (wr_regs s k b)

theorem sticky_recordLog {s : State} {page i : Nat} (r : Report) (hp : Based page)
    (h : flag s (Reg.PG_ERR_STICKY page) i = true) : flag (recordLog s r) (Reg.PG_ERR_STICKY page) i = true := by
  unfold recordLog
  split
  · exact h
  · dsimp only
    split
    · refine sticky_keep _ _ hp ?_ (by decide)
      have e : ∀ a, reg (wrBytes s (0xFFF8000 + 32 * ((reg s Reg.BL_LOG_HEAD).toNat % 1024)) (logRecord s r)) a = reg s a :=
        fun a => by unfold reg; rw [wrBytes_regs]
      unfold flag
      rw [e]
      exact h
    · exact sticky_recordOn _ _ hp (by decide) (by decide) (sticky_keep _ _ hp h (by decide))

/-- The source of a record stands in the PG_ERR_STICKY of its page header. -/
theorem sticky_record {s : State} {r : Report} (hp : Based r.page) (hs : r.sev < 4) (hr : r.src < 31) :
    flag (record s r) (Reg.PG_ERR_STICKY (headerPage r.page)) r.src = true := by
  have hb := headerPage_based hp
  have e : ∀ (f : State → State) (a : Nat), reg (withIrq f s) a = reg (f s) a := fun _ _ => rfl
  unfold record flag
  rw [e]
  have h0 : flag (recordOn s (headerPage r.page) { r with page := headerPage r.page }) (Reg.PG_ERR_STICKY (headerPage r.page)) r.src
      = true := by
    refine sticky_keep _ _ hb (sticky_capture _ _ _ hb hb ?_) (by simp only [Reg.BL_COUNT]; omega)
    unfold flag
    rw [reg_setFlag, if_pos rfl, bit_setBit, if_pos (by simp [hr])]
    simp; omega
  have h := sticky_recordLog { r with page := headerPage r.page } hb
    (sticky_recordFirst { r with page := headerPage r.page } hb (sticky_recordFolios { r with page := headerPage r.page } hb h0))
  dsimp only at h ⊢
  split
  · split
    · exact sticky_keep _ _ hb h (by simp only [Reg.PG_IRQ_RAW]; simp only [Based] at hb; omega)
    · exact h
  · exact h

/-- A NOTE of a page that has its own header. -/
theorem noted_note (s : State) (page src access mid addr : Nat) (l : List Nat) (hp : Based page) (hh : headerPage page = page)
    (hs : src < 31) : Noted s (note s page src access mid addr) l page src :=
  ⟨Records.record s _ hp (by simp), by
    have h := sticky_record (s := s) (r := ⟨page, src, 0, access, mid, addr, none⟩) hp (by simp) hs
    rw [hh] at h
    exact h⟩

theorem Records.note (s : State) (page src access mid addr : Nat) {l : List Nat} (hp : Based page) :
    Records s (Machine.note s page src access mid addr) l := Records.record s _ hp (by simp)

/-- The master of a write is known, or one free value is drawn. -/
theorem writerMid_cases (s : State) : ∃ mid n, writerMid s = (mid, { s with free := n }) := by
  unfold writerMid
  split
  · exact ⟨_, s.free, rfl⟩
  · exact ⟨_, s.free + 1, rfl⟩

/-- A refused write is a NOTE of access type 6, with one free value drawn at most. -/
theorem refuseWrite_eq (s : State) (page src a : Nat) :
    ∃ mid addr n, refuseWrite s page src a = Machine.note { s with free := n } page src 6 mid addr := by
  obtain ⟨mid, n, h⟩ := writerMid_cases s
  unfold refuseWrite
  rw [h]
  exact ⟨mid, _, n, rfl⟩

theorem noted_refuseWrite (s : State) (page src a : Nat) (l : List Nat) (hp : Based page) (hh : headerPage page = page)
    (hs : src < 31) : Noted s (refuseWrite s page src a) l page src := by
  obtain ⟨mid, addr, n, h⟩ := refuseWrite_eq s page src a
  have h' := noted_note { s with free := n } page src 6 mid addr l hp hh hs
  rw [h]
  exact ⟨(Records.free s n).trans h'.1, h'.2⟩

theorem Records.refuseWrite (s : State) (page src a : Nat) {l : List Nat} (hp : Based page) :
    Records s (Machine.refuseWrite s page src a) l := by
  obtain ⟨mid, addr, n, h⟩ := refuseWrite_eq s page src a
  rw [h]
  exact (Records.free s n).trans (Records.note _ _ _ _ _ _ hp)

/-- A domain that is emptied keeps the memory's canonical form (R346). -/
theorem emptyDomain_wf (s : State) (d : Nat) (h : s.mem.wf = true) : (emptyDomain s d).mem.wf = true := by
  have hm : (emptyDomain s d).mem = dropKeys s.mem (keyInDomain d) := by
    unfold emptyDomain clearCore clearQuill
    repeat' split
    all_goals rfl
  rw [hm]
  exact Tbl.wf_filter _ h

end Sys2Proof.Machine
end

