-- ==== Sys2Proof/Tests/Slice0.lean ====
section
/-! SUPPORT. The model's own tests: what the checks of WellFormed refuse, small facts taken from the spec's rules, and for each
statement a state and operands that meet its hypotheses. -/

namespace Sys2Proof.Tests

open Sys2Proof Sys2Proof.Machine

set_option Elab.async false

/-! ## Small states and words -/

/-- Every domain is on and the device is in mode `m`. -/
def on (m : Nat) : State := setReg (setReg State.reset Reg.PD_STAT 0xFFFFFF) Reg.MODE_CUR (word m)

/-- Thread 8, which is thread 0 of Nib 1 and runs at S, with its registers. -/
def at8 (w : Tbl Word) : Thread := { threadReset 8 with state := .running, w := w }

/-- In RUN, with thread 8 as given. -/
def with8 (th : Thread) : State := setThread (on 4) 8 th

/-- Registers changed one after another. -/
def put (l : List (Nat × Word)) (s : State) : State := l.foldl (fun s e => setReg s e.1 e.2) s

/-- Vectors are installed on Nib 1. -/
def vectored (s : State) : State := modNib s 1 (fun n => { n with tvec := 1 })

/-- Words of the formats F3, FI and FX. -/
def f3 (op fn d a b : Nat) : Word := word (op * 2 ^ 26 + d * 2 ^ 21 + a * 2 ^ 16 + b * 2 ^ 11 + fn)
def fi (op sel d a imm : Nat) : Word := word (op * 2 ^ 26 + d * 2 ^ 21 + a * 2 ^ 16 + sel * 2 ^ 14 + imm)
def fx (op sub d a x : Nat) : Word := word (op * 2 ^ 26 + d * 2 ^ 21 + a * 2 ^ 16 + sub * 2 ^ 8 + x)

/-- The fields d, a, b that a word uses: registers 3, 1 and 2, the others 0. -/
def used : Fields → Nat × Nat × Nat
  | .dab => (3, 1, 2) | .da => (3, 1, 0) | .db => (3, 0, 2) | .ab => (0, 1, 2) | .d => (3, 0, 0) | .a => (0, 1, 0) | _ => (0, 0, 0)
def f3of (op fn : Nat) (f : Fields) : Word := f3 op fn (used f).1 (used f).2.1 (used f).2.2
def fiof (op sel imm : Nat) (f : Fields) : Word := fi op sel (used f).1 (used f).2.1 imm

/-- The state after a command. -/
def after (c : Instr) (s : State) : State :=
  match exec c s with
  | .next t => t
  | _ => s

/-- A word of the format FP, without an index register. -/
def fp (op d port : Nat) : Word := word (op * 2 ^ 26 + d * 2 ^ 21 + 31 * 2 ^ 16 + port)

/-! ## ALU, immediate, decimal; traps (R115–R138) -/

theorem witness_AluAndImmediateInstructions_alu : let s := with8 (at8 [(1, 5), (2, 7)])
    Issues s 8 ∧ Bare s 8 ∧ ∀ e ∈ aluOps, IsF3 0x01 e.fn e.fields (f3of 0x01 e.fn e.fields) ∧ (e.f (thread s 8).st 0 5 7).trap = none := by
  decide +kernel

theorem witness_AluAndImmediateInstructions_imm : let s := with8 (at8 [(1, 5), (2, 7)])
    Issues s 8 ∧ Bare s 8 ∧ ∀ e ∈ immOps, IsFI e.op e.sel e.fields (fiof e.op e.sel 9 e.fields) ∧ (e.f (thread s 8).st 5 9).trap = none := by
  decide +kernel

theorem witness_AluAndImmediateInstructions_ext : let s := with8 { at8 [(1, 5)] with pfx := .ext 3, pc := 0 }
    Issues s 8 ∧ BareOrExt s 8 ∧ ∃ e ∈ immOps, e.ext = true ∧ IsFI e.op e.sel e.fields (fiof e.op e.sel 9 e.fields)
      ∧ (e.f (thread s 8).st 5 (e.imm s 8 (fiof e.op e.sel 9 e.fields))).trap = none := by
  refine ⟨by decide +kernel, .inr ⟨3, by decide +kernel⟩, by decide +kernel⟩

/-- A carry into a sum and a borrow into a difference, at 0 and at 1. -/
theorem witness_AddAndSubtractFlags : (0 : Nat) ≤ 1 ∧ (1 : Nat) ≤ 1 ∧ (∃ e ∈ aluOps, e.fn ∉ [0x000, 0x001, 0x002, 0x003, 0x00C, 0x010])
    ∧ ∃ e ∈ immOps, (e.op, e.sel) ∉ [(0x02, 0), (0x04, 0), (0x04, 2)] := by decide +kernel

theorem witness_ArithmeticAtTheEdges : (1 ≤ (1 : Word).toNat ∧ (31 : Word).toNat ≤ 31) ∧ 32 ≤ (32 : Word).toNat
    ∧ overflows ((0x7FFFFFFF : Word).toInt + (1 : Word).toInt + 0) = true ∧ overflows ((0x80000000 : Word).toInt - (1 : Word).toInt - 0) = true := by
  decide +kernel

/-- R115, R116: 0x7FFF_FFFF + 1 wraps, with V, N and vs set and no carry out of bit 31. -/
theorem test_add_overflows : let o := aluAdd 0 0x7FFFFFFF 1 0
    o.d = some 0x80000000 ∧ stV o.st = true ∧ stN o.st = true ∧ stC o.st = false ∧ stVs o.st = true ∧ stNc o.st 6 = true := by
  decide +kernel
theorem test_sub_borrows : let o := aluSub 0 3 5 0
    o.d = some 0xFFFFFFFE ∧ stC o.st = true ∧ stN o.st = true ∧ stV o.st = false := by decide +kernel
theorem test_shl_32 : (aluShl 0 0x80000001 32).d = some 0 ∧ stC (aluShl 0 0x80000001 32).st = true ∧ (aluShl 0 1 33).d = some 0
    ∧ stC (aluShl 0 1 33).st = false := by decide +kernel
/-- R128: 0x0999 + 0x0001 in packed decimal. -/
theorem test_dadd_carries : (decAdd 0 0x999 0x1 0).d = some 0x1000 := by decide +kernel

/-- ovt: ADD of 0x7FFF_FFFF and 1 traps OVF after completion; DADD of an invalid digit traps BCD. -/
theorem witness_TrapsAfterCompletion : let th := { at8 [(1, 0x7FFFFFFF), (2, 1)] with st := 0x40800000 }
    let s := vectored (with8 th)
    Issues s 8 ∧ Bare s 8 ∧ Enters s 8 7 ∧ (∃ e ∈ aluOps, IsF3 0x01 e.fn e.fields (f3of 0x01 e.fn e.fields)
      ∧ (e.f (thread s 8).st 0 0x7FFFFFFF 1).trap = some 7) ∧ (∃ e ∈ immOps, IsFI e.op e.sel e.fields (fiof e.op e.sel 1 e.fields)
      ∧ (e.f (thread s 8).st 0x7FFFFFFF (e.imm s 8 (fiof e.op e.sel 1 e.fields))).trap = some 7) := by decide +kernel
theorem witness_TrapsAfterCompletion_decimal : let th := { at8 [(1, 0xA), (2, 1)] with st := 0x40200000 }
    let s := vectored (with8 th)
    Issues s 8 ∧ Bare s 8 ∧ Enters s 8 8 ∧ ∃ e ∈ decOps, IsF3 0x07 e.fn e.fields (f3of 0x07 e.fn e.fields)
      ∧ (e.f (thread s 8).st 0 0xA 1).trap = some 8 := by decide +kernel

theorem witness_PreciseTraps : let s := vectored (with8 (at8 []))
    let e := vectored (with8 { at8 [] with pfx := .ext 1 })
    let r := vectored (with8 { at8 [] with pfx := .rpt false })
    IsFX 0x15 0x03 .none (fx 0x15 3 0 0 7) ∧ Issues s 8 ∧ Bare s 8 ∧ Enters s 8 9 ∧ Enters s 8 0 ∧ wOp 0 = 0 ∧ wOp (f3 0x3D 0 0 0 0) = 0x3D
    ∧ (∀ o ∈ aluOps, badReg o.fields (f3 1 o.fn 24 24 24) = true) ∧ (∃ o ∈ aluOps, badReg o.fields (f3 1 o.fn 3 1 2) = false ∧ badUnused o.fields true (f3 1 o.fn 3 1 2) = true)
    ∧ Issues e 8 ∧ Issues r 8 ∧ Enters e 8 5 ∧ Enters r 8 5 ∧ FieldsOk .dab true (f3 1 0 3 1 2) ∧ (thread e 8).pfx = .ext 1 ∧ (thread r 8).pfx = .rpt false := by
  decide +kernel

theorem witness_ThreadFaults : let s := setThread (on 4) 9 { threadReset 9 with state := .running }
    (9 : Nat) < 1024 ∧ idxOf 9 ≠ 0 ∧ IsFX 0x15 0x03 .none (fx 0x15 3 0 0 7) ∧ Issues s 9 ∧ Bare s 9 ∧ ¬ Enters s 9 9 := by decide +kernel

/-! ## Branches, memory, products, decimal, fused (R118–R133, R167–R169) -/

theorem witness_BranchesAndReturns : let s := vectored (with8 (at8 [(1, 8), (2, 6)]))
    let h := with8 { at8 [] with st := 0x60000000, cause := 0x100000 }
    Issues s 8 ∧ Bare s 8 ∧ wOp (f3 0x10 8 0 0 0) = 0x10 ∧ wCond (f3 0x10 8 0 0 0) ≠ 15 ∧ bit (f3 0x10 8 0 0 0) 20 = false
    ∧ IsFX 0x15 0x01 .a (fx 0x15 1 0 1 0) ∧ IsFX 0x15 0x02 .da (fx 0x15 2 3 1 0) ∧ bits (wreg s 8 1) 1 0 = 0 ∧ bits (wreg s 8 2) 1 0 ≠ 0 ∧ Enters s 8 2
    ∧ IsFX 0x15 0x04 .none (fx 0x15 4 0 0 0) ∧ stTl (thread s 8).st = false ∧ Enters s 8 0
    ∧ Issues h 8 ∧ stTl (thread h 8).st = true ∧ level h 8 ≠ 0 ∧ bits (thread h 8).cause 21 20 ≠ 3 := by decide +kernel
/-- R118: BR 0x10 with an offset of −1 word, condition AL, at PC 0x100. -/
theorem test_branch_back : let s := with8 { at8 [] with pc := 0x100 }
    let t := after (.br 8 (word (0x10 * 2 ^ 26 + 0xFFFFF))) s
    (thread t 8).pc = 0xFC := by decide +kernel

theorem witness_SystemAndSpecialRegisters : let s := with8 (at8 [(1, 8)])
    Issues s 8 ∧ Bare s 8 ∧ (thread s 8).products = [] ∧ (thread s 8).quotients = [] ∧ (thread s 8).stbuf = [] ∧ level s 8 ≠ 0
    ∧ (∀ e ∈ [(0x00, Fields.none), (0x05, .none), (0x06, .none), (0x07, .none), (0x0A, .none), (0x0B, .none), (0x08, .da), (0x09, .da)],
      IsFX 0x15 e.1 e.2 (fx 0x15 e.1 (used e.2).1 (used e.2).2.1 0))
    ∧ bits (wreg s 8 1) 1 0 = 0 ∧ badAt s (ispace 1 + 8) = false ∧ IsFX 0x14 0 .d (fx 0x14 0 3 0 0) ∧ sprKnown 0 = true ∧ IsFX 0x14 1 .a (fx 0x14 1 0 1 0x10)
    ∧ (sprPriv 0x10 = true → level s 8 ≠ 0) := by decide +kernel

theorem witness_Loads : let s := vectored (with8 (at8 [(1, 8), (2, 0x10000000), (4, 9), (5, 0x20000)]))
    Issues s 8 ∧ (∀ e ∈ loadOps, IsFI e.op e.sz .da (fi e.op e.sz 3 1 0)) ∧ effAddr s 8 (fi 8 2 3 1 0) = 8 ∧ LocalAt s 8 8 4 true false ∧ LocalGood s 8 8
    ∧ route s 8 (effAddr s 8 (fi 8 2 3 2 0)) false = some 0 ∧ isLocal 1 0 = false ∧ watched s 8 0x10000000 true false = false ∧ dramRoom s 0 = true
    ∧ effAddr s 8 (fi 8 2 3 4 0) % 4 ≠ 0 ∧ Enters s 8 2 ∧ effAddr s 8 (fi 8 2 3 5 0) = 0x20000 ∧ Enters s 8 3 := by decide +kernel
theorem witness_Loads_return : let l : PendingLoad := { addr := 0x10000000, key := 0, size := 4, signed := false, d := 3, value := 7, bad := false }
    let s := fun b => vectored (with8 { at8 [] with load := some { l with bad := b } })
    ∀ b ∈ [false, true], (thread (s b) 8).load = some { l with bad := b } ∧ (thread (s b) 8).stepping = false ∧ loadWaiting (s b) 8 { l with bad := b } = false
      ∧ Enters (s b) 8 0x0A := by decide +kernel

theorem witness_Stores : let s := with8 (at8 [(1, 8)])
    let p : PostedStore := { key := localData 1 + 8, data := [1, 2, 3, 4] }
    let d := with8 { at8 [] with stbuf := [p] }
    Issues s 8 ∧ (∀ e ∈ storeOps, IsFI 0x0A e.sz .da (fi 0x0A e.sz 3 1 0) ∧ effAddr s 8 (fi 0x0A e.sz 3 1 0) % e.size = 0
      ∧ route s 8 (effAddr s 8 (fi 0x0A e.sz 3 1 0)) true = some (localData 1 + 8) ∧ watched s 8 8 false true = false) ∧ (thread s 8).stbuf.length < 4
    ∧ (thread d 8).stbuf = [p] ∧ p.home = none ∧ p.key < dramBase ∧ p.key + p.data.length ≤ dramBase ∧ ¬ (0xF800000 ≤ p.key ∧ p.key < 0x10000000)
    ∧ (∀ i < p.data.length, ¬ (0xFFF8000 ≤ p.key + i ∧ p.key + i < 0x10000000)) ∧ isLocal 1 p.key = true ∧ NoArm d Reg.blotterPage 6 := by
  decide +kernel

theorem witness_AtomicsAndStrings : let s := with8 (at8 [(1, 8), (2, 12)])
    Issues s 8 ∧ Bare s 8 ∧ (thread s 8).stbuf = [] ∧ LocalAt s 8 8 4 false true ∧ LocalGood s 8 8 ∧ (∀ e ∈ atomOps, IsF3 0x0B e.fn e.fields (f3of 0x0B e.fn e.fields))
    ∧ IsF3 0x0C 0 .da (f3 0x0C 0 2 1 0) ∧ LocalAt s 8 8 4 true false ∧ LocalAt s 8 12 4 false true ∧ LocalAt s 8 12 4 true false ∧ LocalGood s 8 12
    ∧ IsF3 0x0C 1 .db (f3 0x0C 1 2 0 1) ∧ IsF3 0x0C 2 .da (f3 0x0C 2 2 1 0) ∧ IsF3 0x0C 3 .da (f3 0x0C 3 2 1 0) := by decide +kernel
theorem witness_AtomicsAndStrings_repeat : ∀ c ∈ [0, 2], let s := with8 { at8 [(2, 12)] with pfx := .rpt false, cnt := word c }
    Issues s 8 ∧ (thread s 8).pfx = .rpt false ∧ (thread s 8).cnt.toNat = c ∧ LocalAt s 8 12 4 false true ∧ (thread s 8).stbuf.length < 4 := by decide +kernel
/-- R121: CAS that finds what W[d] holds stores W[b] and sets Z. -/
theorem test_cas : let s := wrBytes (with8 (at8 [(1, 8), (2, 12), (3, 5)])) (localData 1 + 8) [5, 0, 0, 0]
    let t := after (.atomCas 8 (f3 0x0B 1 3 1 2)) s
    rdWord t (localData 1 + 8) = 12 ∧ wreg t 8 3 = 5 ∧ stZ (thread t 8).st = true := by decide +kernel
/-- R122: WCPY of one word posts the store and steps both pointers. -/
theorem test_wcpy : let s := wrBytes (with8 (at8 [(1, 8), (2, 12)])) (localData 1 + 8) [1, 2, 3, 4]
    let t := after (.wcpy 8 (f3 0x0C 0 2 1 0)) s
    wreg t 8 1 = 12 ∧ wreg t 8 2 = 16 ∧ (thread t 8).stbuf.map (·.data) = [[1, 2, 3, 4]] := by decide +kernel

theorem witness_ProductsAndQuotients : let s := with8 (at8 [(1, 6), (2, 7)])
    let l := with8 { at8 [] with products := [9], quotients := [(3, 4)] }
    Issues s 8 ∧ Bare s 8 ∧ (∀ f ∈ [0, 1, 2, 4, 5], IsF3 0x06 f .ab (f3 0x06 f 0 1 2)) ∧ (divSigned (thread s 8).st 6 7).trap = none ∧ (divUnsigned (thread s 8).st 6 7).trap = none
    ∧ (thread l 8).products = [9] ∧ (thread l 8).quotients = [(3, 4)] := by decide +kernel
/-- R125: −7 divided by 2 truncates to −3, remainder −1. -/
theorem test_divs : (divSigned 0 (-7) 2).qu = -3 ∧ (divSigned 0 (-7) 2).rm = -1 := by decide +kernel

theorem witness_PackedDecimal : let s := with8 (at8 [(1, 0x99999999), (2, 1)])
    Issues s 8 ∧ Bare s 8 ∧ (∀ e ∈ decOps, IsF3 0x07 e.fn e.fields (f3of 0x07 e.fn e.fields) ∧ (e.f (thread s 8).st 0 0x99999999 1).trap = none)
    ∧ decOk 0x99999999 = true ∧ decOk 0 = true ∧ decOk 0xA = false := by decide +kernel
theorem witness_DecimalCorrection : (1 : Nat) ≤ 1 ∧ decOk 0x99999999 = true ∧ decOk 0x00000009 = true := by decide +kernel
/-- R129: 0x19 + 0x28 is 0x41 in binary, and corrects to 0x47. -/
theorem test_dca : let o := aluAdd 0 0x19 0x28 0
    (decAdjust o.st 0x41 false).d = some 0x47 := by decide +kernel

theorem witness_PrefixesAndFusedOperations : let s := vectored (with8 (at8 [(1, 5), (2, 7)]))
    let e := vectored (with8 { at8 [] with pfx := .ext 1 })
    let off := put [(Reg.HLP_EN 1, 0)] s
    Issues s 8 ∧ Bare s 8 ∧ wOp (word (0x3E * 2 ^ 26 + 2 ^ 24)) = 0x3E ∧ bits (word (0x3E * 2 ^ 26 + 2 ^ 24)) 25 24 ≤ 1 ∧ bits (word (0x3E * 2 ^ 26 + 2 ^ 24)) 23 0 = 0
    ∧ wOp (word (0x3F * 2 ^ 26 + 0x3FFFF)) = 0x3F ∧ bits (word (0x3F * 2 ^ 26 + 0x3FFFF)) 25 18 = 0 ∧ Issues e 8 ∧ (thread e 8).pfx = .ext 1 ∧ Enters e 8 5
    ∧ (∀ o ∈ fuseOps, IsF3 0x12 o.fn o.fields (f3of 0x12 o.fn o.fields)) ∧ hlpClassOn s 8 0 = true ∧ hlpClassOn off 8 0 = false ∧ Issues off 8 ∧ Enters off 8 0 := by
  decide +kernel

/-! ## Helpers, threads, channels, locks (R145–R187) -/

theorem witness_HelperInstructions : let s := vectored (with8 (at8 [(1, 4)]))
    let full : State := { s with ctxs := [(8 + 1, { queue := [{ fn := 0, param := 0, tag := 1, notify := false, tid := 8, pid := 0, h := [], epoch := 0, rds := [], wrs := [] },
      { fn := 0, param := 0, tag := 2, notify := false, tid := 8, pid := 0, h := [], epoch := 0, rds := [], wrs := [] }] })] }
    (8 : Nat) < 1024 ∧ Issues s 8 ∧ Bare s 8 ∧ (∀ ty < 4, hlpClassOn s 8 (1 + ty) = true) ∧ IsFX 0x13 0 .a (fx 0x13 0 0 1 0) ∧ IsFX 0x13 1 .d (fx 0x13 1 3 0 0)
    ∧ IsFX 0x13 3 .d (fx 0x13 3 3 0 0) ∧ IsFX 0x13 2 .da (fx 0x13 2 3 1 0) ∧ bits (fx 0x13 2 3 1 0) 4 0 < fnCount 0 ∧ (ctx s 0 0 1).queue.length < 2
    ∧ starts s (Reg.helperPage 0 0) = true ∧ Enters s 8 0 ∧ fnCount 0 ≤ bits (fx 0x13 2 3 1 0x1F) 4 0 ∧ hlpType (fx 0x13 2 3 1 0x40) = 1
    ∧ (∀ h < 4, IsIn s 8 (fp 0x0D 3 (0x200 + h)) (0x200 + h) ∧ ctxIdle (ctx s 0 h 1) = true) ∧ 2 ≤ (ctx full 0 1 1).queue.length ∧ ctxIdle (ctx full 0 1 1) = false := by
  decide +kernel

theorem witness_HelperOperations : let o : HelperOp := { fn := 0, param := 3, tag := 1, notify := true, tid := 8, pid := 0, h := [(0, 5)], epoch := 0, rds := [], wrs := [] }
    let r : HelperResult := { status := stOk, r := 0, h := [], mem := [], bins := none }
    let s : State := { on 4 with ctxs := [(1, { queue := [o] }), (2, { running := some (o, r) }), (3, { running := some ({ o with epoch := 9 }, r), held := some [1, 2] })] }
    (ctx s 0 0 1).queue = [o] ∧ (ctx s 0 0 2).running = some (o, r) ∧ partEpoch s o.pid = 0 ∧ (nib (modNib s 2 (fun n => { n with fenced := true })) 2).fenced = true ∧ (ctx s 0 0 2).clearAfter = false ∧ chanRoom s 2 2 = true
    ∧ (nib s 2).fenced = false ∧ (chan s 2 2).readers = [] ∧ (ctx s 0 0 3).held = some [1, 2] ∧ 1 ≤ bits o.param 6 0 ∧ bits o.param 6 0 ≤ 64 := by decide +kernel
theorem witness_HelperOperations_start : let o : HelperOp := { fn := 0, param := 3, tag := 1, notify := true, tid := 8, pid := 0, h := [(0, 5)], epoch := 0, rds := [], wrs := [] }
    let s : State := { on 4 with ctxs := [(1, { queue := [o] })] }
    helperBusy s 0 0 = false ∧ helperTurn s 0 0 = some 1 ∧ pageOn s (Reg.helperPage 0 0) = true := by decide +kernel
/-- R175: SORT of the keys 3, 1 and 2. -/
theorem test_sort : let o : HelperOp := { fn := 0, param := 3, tag := 1, notify := false, tid := 8, pid := 0, h := [(0, 0x200010003)], epoch := 0, rds := [], wrs := [] }
    (List.range 3).map (keyLane (landRegs o.h (runFunction State.reset 0 o []).1.h)) = [1, 2, 3] := by decide +kernel

theorem witness_ThreadControl : (thread (on 4) 8).state = .idle ∧ (∀ st ∈ [ThrState.running, .blocked, .parked, .halted], (thread (with8 { at8 [] with state := st }) 8).state = st)
    ∧ (thread (with8 { at8 [] with state := .halted, staging := some (0x10000, [1]) }) 8).staging = some (0x10000, [1])
    ∧ bits (reg (on 4) (Reg.DBG_SEL 1)) 12 10 = 0 ∧ 0 < threadsOf 1 ∧ bits (reg (on 4) (Reg.DBG_SEL 1)) 7 0 < 24 ∧ bits (reg (on 4) (Reg.DBG_SEL 1)) 9 8 = 0 := by
  decide +kernel
theorem test_start_at_entry : (thread (after (.thrStart 8) (put [(Reg.THR_ENTRY 1 0, 0x40)] (on 4))) 8).pc = 0x40 := by decide +kernel

theorem witness_ChannelsReceive : let m := fun (th : Thread) => modChan (with8 th) 1 4 (fun c => { c with msgs := [[7, 8]] })
    Issues (m (at8 [])) 8 ∧ Bare (m (at8 [])) 8 ∧ IsIn (m (at8 [])) 8 (fp 0x0D 3 4) 4 ∧ (thread (m (at8 [])) 8).claim = none ∧ (chan (m (at8 [])) 1 4).msgs = [[7, 8]]
    ∧ (thread (with8 { at8 [] with claim := some ⟨4, 3, [1, 2]⟩ }) 8).claim = some ⟨4, 3, [1, 2]⟩ ∧ (thread (with8 { at8 [] with claim := some ⟨4, 3, [2]⟩ }) 8).claim = some ⟨4, 3, [2]⟩
    ∧ IsIn (with8 (at8 [])) 8 (fp 0x0D 3 0) 0 ∧ (thread (with8 { at8 [] with ch0 := [{}] }) 8).ch0 = [{}] ∧ (chan (with8 (at8 [])) 1 4).msgs = []
    ∧ IsIn (with8 (at8 [])) 8 (fp 0x0D 3 0x20) 0x20 ∧ IsOut (with8 (at8 [])) 8 (fp 0x0E 3 0x21) 0x21 := by decide +kernel
theorem witness_ChannelsReceive_deliver : let m : Send := ⟨16, 1, 4, [7]⟩
    let s : State := { on 4 with sends := [m] }
    let b := modChan { with8 { at8 [] with state := .blocked, waitPort := some (4, 3) } with sends := [m] } 1 4 (fun c => { c with readers := [8] })
    (∀ x ∈ [s, b], x.sends.find? (fun m => m.src = 16 && m.dest = 1 && m.ch = 4) = some m ∧ chanRoom x 1 4 = true ∧ (nib x 1).fenced = false)
    ∧ (chan s 1 4).readers = [] ∧ (chan b 1 4).readers = [8] ∧ nibOf 8 = 1 ∧ (thread b 8).state = .blocked ∧ (thread b 8).waitPort = some (4, 3) := by decide +kernel
theorem test_message_wakes_reader : let m : Send := ⟨16, 1, 4, [7]⟩
    let b := modChan { with8 { at8 [] with state := .blocked, waitPort := some (4, 3) } with sends := [m] } 1 4 (fun c => { c with readers := [8] })
    let t := after (.messageDeliver 16 1 4) b
    wreg t 8 3 = 7 ∧ (thread t 8).state = .running ∧ t.sends = [] := by decide +kernel

theorem witness_SendingAndSubmitting : let s := with8 (at8 [(3, 0x10104)])
    let d := fun (ws : List Word) => with8 { at8 [] with staging := some (0x20104, ws) }
    let full : State := { d [1] with sends := List.replicate 64 ⟨8, 1, 4, [1]⟩ }
    let other := put [(Reg.NIB_PID 1, 2)] s
    Issues s 8 ∧ IsOut s 8 (fp 0x0E 3 0x24) 0x24 ∧ (thread s 8).staging = none ∧ bits (wreg s 8 3) 19 16 = 1 ∧ bits (wreg s 8 3) 15 8 < 128 ∧ bits (wreg s 8 3) 4 0 = 4
    ∧ nibPid s 1 = tidPid s 8 ∧ IsOut s 8 (fp 0x0E 3 0x25) 0x25 ∧ (thread (d [1]) 8).staging = some (0x20104, [1]) ∧ bits (0x20104 : Word) 19 16 = 2 ∧ sendFull (d [1]) 8 = false
    ∧ sendFull full 8 = true ∧ IsOut s 8 (fp 0x0E 3 0x27) 0x27 ∧ IsIn s 8 (fp 0x0D 3 0x26) 0x26 ∧ IsIn s 8 (fp 0x0D 3 0x29) 0x29 ∧ IsOut s 8 (fp 0x0E 3 0x28) 0x28
    ∧ nibPid (put [(Reg.NIB_PID 0, 2)] s) 0 ≠ tidPid (put [(Reg.NIB_PID 0, 2)] s) 8 ∧ tidPid other 8 = 2 := by decide +kernel
theorem witness_SendingAndSubmitting_fd : let s : State := { with8 { at8 [(3, 0)] with fdStage := [0, 0, 0, 0, 0, 0, 0] } with
      slots := [(0, some { pid := 0, cls := 0, fd := {}, b := 0, takenAt := 0, order := 0, unordered := false, done := none, hole := false, reserved := false, tid := some 8 })] }
    (thread s 8).fdStage.length = 7 ∧ ¬ (fdKind (fdOf ([0, 0, 0, 0, 0, 0, 0] ++ [wreg s 8 3])) = 1 ∨ fdKind (fdOf ([0, 0, 0, 0, 0, 0, 0] ++ [wreg s 8 3])) = 5)
    ∧ (slot s 0).isSome = true ∧ partState s (tidPid s 8) ≠ 6 := by decide +kernel

theorem witness_Locks : let s := with8 (at8 [(3, 5)])
    let by_ := fun (l : Lock) => modLock s 0 5 (fun _ => l)
    (8 : Nat) < 1024 ∧ Issues s 8 ∧ Bare s 8 ∧ lockPid s 0 5 = tidPid s 8 ∧ IsIn s 8 (fp 0x0D 3 0x105) 0x105 ∧ (lock s 0 5).owner = none
    ∧ (lock (by_ { owner := some 9 }) 0 5).owner = some 9 ∧ (lock (by_ { owner := some 8 }) 0 5).owner = some 8 ∧ (lock (by_ { owner := some 8 }) 0 5).queue = []
    ∧ IsOut s 8 (fp 0x0E 3 0x2A) 0x2A ∧ bits (wreg s 8 3) 7 0 = 5 ∧ IsIn s 8 (fp 0x0D 3 0x2B) 0x2B ∧ IsOut s 8 (fp 0x0E 3 0x105) 0x105
    ∧ lockPid (put [(Reg.NIB_PID 1, 2)] s) 0 5 ≠ tidPid (put [(Reg.NIB_PID 1, 2)] s) 8 := by decide +kernel
theorem witness_Locks_force : let s := modLock (with8 { at8 [] with state := .blocked, waitPort := some (0x105, 3) }) 0 5 (fun _ => { owner := some 9, queue := [8] })
    (lock s 0 5).owner = some 9 ∧ (lock s 0 5).queue = 8 :: [] ∧ (thread s 8).state = .blocked ∧ (thread s 8).waitPort = some (0x105, 3) ∧ (thread s 8).pfx = .none
    ∧ (thread s 8).stepping = false := by decide +kernel

theorem witness_TimersAndPhaseWaits : let s := with8 (at8 [(3, 7)])
    let w := fun (th : Thread) => with8 th
    Issues s 8 ∧ Bare s 8 ∧ IsOut s 8 (fp 0x0E 3 0x31) 0x31 ∧ IsIn s 8 (fp 0x0D 3 0x31) 0x31 ∧ timer s 8 1 = .off
    ∧ timer (w { at8 [] with tmr1 := .expired 4 }) 8 1 = .expired 4 ∧ timer (w { at8 [] with tmr1 := .run 4 }) 8 1 = .run 4
    ∧ IsIn s 8 (fp 0x0D 3 0x4F) 0x4F ∧ alarmPid s 15 = tidPid s 8 ∧ alarmPid (put [(Reg.PH_ALARM 15, 0xC000000)] s) 15 ≠ tidPid (put [(Reg.PH_ALARM 15, 0xC000000)] s) 8
    ∧ IsOut s 8 (fp 0x0E 3 0x320) 0x320 ∧ IsIn s 8 (fp 0x0D 3 0x320) 0x320 ∧ (thread s 8).target = none
    ∧ targetReached s 0 = true ∧ targetReached s 0x50000 = false := by decide +kernel
theorem witness_TimersAndPhaseWaits_expiry : let s : State := { with8 { at8 [] with state := .blocked, tmr1 := .run 0, waitPort := some (0x31, 3) } with phase := { started := true } }
    let p := with8 { at8 [] with state := .blocked, target := some 0, waitPort := some (0x320, 3) }
    timer s 8 1 = .run 0 ∧ 0 ≤ s.phase.count ∧ s.phase.started = true ∧ (thread s 8).waitPort = some (0x31, 3) ∧ (thread s 8).state = .blocked ∧ (thread s 8).pfx = .none
    ∧ (thread s 8).stepping = false ∧ blockedOn (with8 { at8 [] with tmr1 := .run 0 }) 8 0x31 = false
    ∧ (thread p 8).target = some 0 ∧ targetReached p 0 = true ∧ (thread p 8).waitPort = some (0x320, 3) ∧ (thread p 8).state = .blocked := by decide +kernel
theorem witness_TimersAndPhaseWaits_alarm : let s : State := { put [(Reg.PH_ALARM 5, 0x80000000)] (on 4) with phase := { alarmsDue := [5] } }
    s.phase.alarmsDue.contains 5 = true ∧ flag s (Reg.PH_ALARM 5) 31 = true := by decide +kernel

theorem witness_NoticesAndDeadlock : let s := modNib (on 4) 1 (fun n => { n with notices := [[1, 2]] })
    (nib s 1).notices = [1, 2] :: [] ∧ chanRoom s 1 31 = true ∧ (nib s 1).fenced = false ∧ (chan s 1 31).readers = [] := by decide +kernel
theorem witness_NoticesAndDeadlock_quiet : let s := put [(Reg.DL_CTL 0, 0x80000000)] (with8 { at8 [] with state := .blocked, waitPort := some (4, 3) })
    supervisorNib s 0 = some 0 ∧ enField s (Reg.nibPage 0) (Reg.DL_CTL 0) 31 = true ∧ dlCand s 0 ≠ [] ∧ (dlCand s 0).all (fun t => onChannel s t || onLock s t) = true ∧ dlPending s 0 = false
    ∧ dlUnread s 0 = false ∧ (thread s 0).waitPort = none := by decide +kernel

/-! ## Machine phase (R7–R35) -/

/-- MCLK is present, aligned and counting, at crossing `i` of orbit 0. -/
def counting (i : Nat) (s : State) : State :=
  { put [(Reg.PH_STAT, 7), (Reg.PH_CTL, 0xC), (Reg.PG_CTL Reg.phasePage, 1)] s with
    phase := { count := i, now := { orbit := 0, index := i }, started := true, counting := true } }

theorem witness_ClockAndMarkers : let s := counting 3 (on 4)
    phStat s 0 = true ∧ substOn s = false ∧ s.phase.counting = true ∧ morbOn s = true ∧ s.phase.now.index ≠ 0 ∧ s.phase.realignPending = false
    ∧ s.phase.alignNext = false ∧ fld s Reg.ORB_ERR_CNT 1 0 < 3 ∧ (counting 0 (on 4)).phase.now.index = 0 ∧ fld (put [(Reg.ORB_ERR_CNT, 3)] s) Reg.ORB_ERR_CNT 1 0 = 3
    ∧ mode s ≠ 2 ∧ mode s ≠ 7 ∧ phStat (on 4) 0 = false ∧ substOn (on 4) = false := by decide +kernel
/-- The count stopped after it had begun and restarts at the next marker. -/
theorem witness_ClockAndMarkers_again : let s : State := { counting 3 (on 4) with phase := { count := 9, started := true, restart := true } }
    let a : State := { counting 3 (on 4) with phase := { count := 9, started := true, alignNext := true } }
    phStat s 0 = true ∧ substOn s = false ∧ s.phase.counting = false ∧ s.phase.restart = true ∧ morbOn s = true ∧ s.phase.started = true ∧ s.phase.edgeRestart = false
    ∧ a.phase.counting = false ∧ a.phase.restart = false ∧ a.phase.alignNext = true ∧ a.phase.started = true := by decide +kernel
theorem witness_ClockAndMarkers_other : let s := put [(Reg.PH_STAT, 1), (Reg.PH_CTL, 8), (Reg.PG_CTL Reg.phasePage, 1)] (on 2)
    let armed : State := { s with phase := { alignNext := true, missingDue := true } }
    let b := put [(Reg.PH_CTL, 3)] s
    phStat armed 0 = true ∧ substOn armed = false ∧ armed.phase.counting = false ∧ armed.phase.alignNext = true ∧ morbOn armed = true ∧ armed.phase.started = false
    ∧ armed.phase.restart = false ∧ armed.phase.missingDue = true ∧ mode s = 2 ∧ flag s Reg.PH_CTL 1 = false ∧ flag b Reg.PH_CTL 1 = true
    ∧ phStat b 0 = true ∧ substOn b = true := by decide +kernel
/-- R17: the first marker after arm. -/
theorem test_first_marker : let s : State := { put [(Reg.PH_STAT, 1), (Reg.PH_CTL, 8), (Reg.PG_CTL Reg.phasePage, 1)] (on 4) with phase := { alignNext := true } }
    let t := after .morbMarker s
    t.phase.now = {} ∧ t.phase.counting = true ∧ phStat t 1 = true := by decide +kernel
/-- R19: a marker three crossings late. -/
theorem test_misplaced_marker : let t := after .morbMarker (counting 3 (on 4))
    t.phase.now.index = 3 ∧ fld t Reg.ORB_ERR_CNT 31 16 = 1 := by decide +kernel

theorem witness_CrossingsBegin : let s := counting 3 (on 4)
    substOn s = false ∧ phStat s 0 = true ∧ s.phase.counting = true ∧ s.phase.now.index + 1 < orbitLen s ∧ s.phase.calOpens = [] ∧ s.phase.calEnd = none
    ∧ s.phase.testPulses = [] ∧ s.phase.qsOrbit = false ∧ downMask s = 0 ∧ s.phase.lockLostAt = none ∧ role s ≠ 3 ∧ (∀ p < 16, admits s p = false)
    ∧ (counting 0xFFF s).phase.now.index + 1 = orbitLen (counting 0xFFF s) := by decide +kernel
theorem witness_CrossingsBegin_admitting : let s := put [(Reg.PH_STAT, 15)] (counting 3 (on 4))
    let t : State := { s with parts := [(0, { admitting := true })] }
    admits t 0 = true ∧ (∀ d ∈ t.decisions, d.b < 4) ∧ t.phase.admissionDue ≠ some false ∧ fatal t = false := by decide +kernel
theorem witness_CrossingsBegin_subst : let s := put [(Reg.PH_STAT, 2), (Reg.PH_CTL, 3), (Reg.PG_CTL Reg.phasePage, 1)] (on 7)
    substOn s = true ∧ domainOn s 2 = true ∧ s.phase.counting = false ∧ s.phase.started = false := by decide +kernel
theorem witness_CrossingsBegin_due : let s : State := { counting 3 (on 4) with phase :=
      { count := 3, orbitResetDue := some 7, admissionDue := some true, calOpens := [2], calEnd := some 3, testPulses := [3], orbitLenDue := true } }
    let t := put [(Reg.PH_STAT, 15)] { s with phase := { count := 3, admissionDue := some false, capture := some ({}, 5, 6) } }
    phStat s 3 = false ∧ t.phase.admissionDue = some false ∧ phStat t 3 = true ∧ t.phase.capture = some (t.phase.now, 5, 6)
    ∧ portState (put [(Reg.SK_PSTAT 1, 0x80000000)] s) 1 = 2 ∧
    s.phase.orbitResetDue = some 7 ∧ s.phase.admissionDue = some true ∧ mode s = 4 ∧ fatal s = false ∧ s.phase.calOpens = 2 :: [] ∧ (2 : Nat) ≤ s.phase.count
    ∧ s.phase.calEnd = some 3 ∧ s.phase.count ∈ s.phase.testPulses ∧ s.phase.orbitLenDue = true := by decide +kernel
theorem test_tick_wraps_orbit : (after .crossingTick (counting 0xFFF (on 4))).phase.now = { orbit := 1, index := 0 } := by decide +kernel

theorem witness_CommandChannel : let s := counting 3 (on 4)
    phStat s 0 = true ∧ phStat (on 4) 0 = false ∧ substOn (on 4) = false ∧ modeLocked (on 3) = false ∧ phStat s 2 = true ∧ substOn s = false ∧ enField s Reg.phasePage Reg.PH_CTL 2 = true ∧ NoArm s Reg.phasePage 1 ∧ crc8 (beBytes 2 0x3001) ≠ crc8 (beBytes 2 0x3000)
    ∧ modeLocked s = true ∧ modeLocked (counting 3 (on 3)) = false ∧ runPending (counting 3 (on 3)) = false ∧ guard s + 32 ≤ 16384 := by decide +kernel
theorem witness_CommandChannel_due : let s := fun (w : BitVec 16) => ({ counting 3 (on 4) with phase :=
      { count := 3, counting := true, sched := [{ due := 3, injected := false, word := w }], capture := some ({}, 5, 6) } } : State)
    ((List.range 16).all fun ty => firstDue (s (BitVec.ofNat 16 (ty * 4096))) == some ⟨3, false, BitVec.ofNat 16 (ty * 4096)⟩
      && cmdType (BitVec.ofNat 16 (ty * 4096)) == ty && cmdArg (BitVec.ofNat 16 (ty * 4096)) == 0) = true
    ∧ cmdArg 0x1001 ≠ 0 ∧ mode (s 0) = 4 ∧ (s 0).phase.capture = some ({}, 5, 6) ∧ fld (put [(Reg.CAL_WIN, 9)] (s 0)) Reg.CAL_WIN 15 0 = 9
    ∧ fld (put [(Reg.CAL_WIN, 0)] (s 0)) Reg.CAL_WIN 15 0 = 0 := by decide +kernel
/-- R14: RUN_START 2 admits after three boundaries. -/
theorem test_run_start : let s : State := { counting 3 (on 4) with phase := { count := 3, counting := true, sched := [{ due := 3, injected := false, word := 0x3002 }] } }
    (after .runStart s).phase.admissions = [(3, true)] := by decide +kernel

/-! ## Frame path (R36–R83, R211–R214, R226–R240) -/

/-- The header of channel `ch`, orbit 0, crossing `i`, payload length `len`, with its check. -/
def cfh (ch i len : Nat) : List Byte :=
  let c := [0xD1, 0xA6, 1, 0, 0] ++ beBytes 3 ch ++ beBytes 6 0 ++ beBytes 2 i ++ beBytes 2 7 ++ beBytes 2 len ++ List.replicate 10 0
  c ++ beBytes 2 (crc16 c).toNat
/-- A frame of that header with a payload of `len` zeros and its link check. -/
def frameBytes (ch i len : Nat) : List Byte :=
  let f := cfh ch i len ++ List.replicate len 0
  f ++ leBytes 4 (crc32 f).toNat
/-- Lane 0 is UP in STROKE mode, the header at byte 0. -/
def laneUp0 (s : State) : State := put [(Reg.LANE_CTL 0, 0x101), (Reg.LANE_STAT 0, 2), (Reg.PG_CTL (Reg.lanePage 0), 1)] s

theorem witness_FramesComeIn : let s := laneUp0 (counting 3 (on 4))
    let head := cfh 0x123 3 64 ++ List.replicate 32 0
    looped s 0 = false ∧ frameLane s 0 = true ∧ (lane s 0).rx = none ∧ starts s (Reg.lanePage 0) = true ∧ otherEtype s 0 head = false ∧ parseStep s (cfhOf s 0 head) = 0
    ∧ stampCause s false (cfhPs (cfhOf s 0 head)) = none ∧ (xing s (countAt s (ageOfPs s (cfhPs (cfhOf s 0 head)))).toNat).extents = []
    ∧ frameLines 64 false ≤ 64 ∧ scrollPtr s < 32768 ∧ (extent s (scrollPtr s)).owner = none ∧ dispatchWaiting s < 4096
    ∧ stampCause (laneUp0 (on 4)) false {} = some .noPhase ∧ (extent { s with extents := [(0, { owner := some 1 })] } (scrollPtr s)).owner ≠ none := by decide +kernel
/-- A frame held on lane 0 whose Stylus result is a hit that forwards to class 2. -/
def heldFrame (action : Nat) : RxFrame := { head := cfh 0x123 3 64 ++ List.replicate 32 0, parse := 0, cause := none, b := 3, ps := { orbit := 0, index := 3 }, line := 0
                                            lines := 2, order := 0, result := some { miss := false, action := action, cls := 2, eq := 5, mq := 0, copyFwd := false, entry := 9 }, fin := none }
def holding (action : Nat) (s : State) : State := { s with lanes := [(0, { rx := some (heldFrame action) })] }
set_option maxRecDepth 100000 in
theorem witness_FramesComeIn_end : let s := put [(Reg.ST_CLASS 2, 0x80000000), (Reg.PG_CTL Reg.stylusPage, 1)] (holding 1 (laneUp0 (counting 3 (on 4))))
    let f := frameBytes 0x123 3 64
    receivedFrame (.blocks (frameBlocks f)) = some (f, .ended) ∧ receivedFrame (.bytes f true) = some (f, .codeErr) ∧ looped s 0 = false ∧ frameLane s 0 = true ∧ (heldFrame 1).line < 2097152
    ∧ (lane s 0).rx = some (heldFrame 1) ∧ f.length ≤ 9216 ∧ linkCrcOk f = true ∧ 64 ≤ f.length ∧ linkCrcOk (f.set 40 1) = false ∧ (endOf s 0 (heldFrame 1) f).2 = 0
    ∧ mode s ≠ 2 ∧ framesDropped s 0 = false ∧ classOpen s 2 0 = true ∧ (f.take 20).length < 64 ∧ starts s Reg.stylusPage = true := by decide +kernel
theorem witness_FramesComeIn_other : let s := put [(Reg.LANE_CTL 0, 0x201)] (laneUp0 (counting 3 (on 4)))
    looped s 0 = false ∧ frameLane s 0 = true ∧ (lane s 0).rx = none ∧ starts s (Reg.lanePage 0) = true ∧ receivedFrame (.bytes (List.replicate 64 0) false) = some (List.replicate 64 0, .ended)
    ∧ otherEtype s 0 (List.replicate 64 0) = true ∧ otherEtype (laneUp0 (on 4)) 0 [0] = false := by decide +kernel
theorem witness_FramesComeIn_classify : let s : State := { holding 1 (laneUp0 (counting 3 (on 4))) with stylusQ := [0] }
    starts s Reg.stylusPage = true ∧ s.stylusQ = 0 :: [] ∧ (lane s 0).ended = [] ∧ (lane s 0).rx = some (heldFrame 1) ∧ (heldFrame 1).parse = 0 ∧ mode s ≠ 2 := by
  decide +kernel
set_option maxRecDepth 100000 in
theorem test_frame_is_dispatched : let s := put [(Reg.ST_CLASS 2, 0x80000000), (Reg.PG_CTL Reg.stylusPage, 1)] (holding 1 (laneUp0 (counting 3 (on 4))))
    (after (.frameEnd 0 (.blocks (frameBlocks (frameBytes 0x123 3 64))) {} {}) s).dispatchQ.map (fun f => (fdClass f, fdLane f, fdChannel f, fdLen f, fdSeq f)) = [(2, 0, 0x123, 96, 7)] := by
  decide +kernel

/-- A slot of class 2 that thread 8 holds. -/
def slot8 : Slot := { cls := 2, pid := 0, fd := {}, b := 0, takenAt := 0, order := 0, unordered := false, done := none, hole := false, reserved := false, tid := some 8 }
theorem witness_DispatchAndRelease : let f : FD := { w0 := setBits 0 11 8 15 }
    let s : State := { on 4 with dispatchQ := [f] }
    starts s Reg.stylusPage = true ∧ starts s Reg.ligaturePage = true ∧ s.dispatchQ.find? (fun f => fdClass f = fdClass f) = some f ∧ slot s 0 = none ∧ 0 < poolFree s := by
  decide +kernel
theorem witness_DispatchAndRelease_thread : let f : FD := {}
    let s : State := put [(Reg.ST_CLASS 0, 0x80010101)] { on 4 with dispatchQ := [f] }
    fdClass f = 0 ∧ bit f.w0 10 = false ∧ nextThread s 0 = some (0, 8) ∧ blockedOn s 8 0 = false ∧ nextThread { on 4 with dispatchQ := [f] } 0 = none := by decide +kernel
theorem witness_DispatchAndRelease_complete : let g : FD := { w0 := setBits 0 31 28 1 }
    let s : State := { on 7 with slots := [(3, some slot8)], compl := [(3, g)], phase := { count := 700 } }
    s.compl.find? (fun e => e.1 = 3) = some (3, g) ∧ slot s 3 = some slot8 ∧ slot8.hole = false ∧ fdKey slot8.fd = fdKey g ∧ slot8.done = none
    ∧ slot8.takenAt + ligTimeoutOf s slot8.cls ≤ (({ s with phase := { count := 100000 } } : State)).phase.count ∧ s.phase.count < slot8.takenAt + ligTimeoutOf s slot8.cls
    ∧ releasable s 3 slot8 = false ∧ releasable s 3 { slot8 with hole := true } = true ∧ releasable s 3 { slot8 with done := some g } = true := by decide +kernel
theorem test_complete_slot : let g : FD := { w0 := setBits 0 31 28 1 }
    slot (after (.ligatureCompletion 3) { on 4 with slots := [(3, some slot8)], compl := [(3, g)] }) 3 = some { slot8 with done := some g } := by decide +kernel

/-- Queue 5 holds one FD for lane 0. -/
def queued5 (s : State) : State := { put [(Reg.queueCfg 5, 0x80000000), (Reg.PG_CTL Reg.rulingPage, 1)] s with queues := [(5, [{}])] }
theorem witness_EgressScheduling : let s := queued5 (laneUp0 (on 4))
    frameLane s 0 = true ∧ txOpen s 0 = true ∧ ((queue s 5).all fun f => !bit f.w0 5) = true ∧ (lane s 0).tx = none ∧ fatal s = false ∧ starts s Reg.rulingPage = true ∧ eligible s 0 5 = true
    ∧ (List.range 256).all (fun q => !eligible s 0 q || (queue s q).head?.all (fun f => !(fdXing s f).any (retentionOver s))) = true
    ∧ frameLane (on 4) 0 = false ∧ (List.range 256).all (fun q => !eligible (laneUp0 (on 4)) 0 q) = true := by decide +kernel
theorem witness_EgressScheduling_end : let f : TxFrame := { fd := { w5 := crc32c [] }, queue := 5, b := none, stomp := false }
    let s : State := { on 4 with lanes := [(0, { tx := some f })] }
    looped s 0 = false ∧ bufKey s f.fd.w4 + fdLen f.fd ≤ 0x8000000 ∧ Uninjected s ∧ (lane s 0).tx = some f ∧ fdLen f.fd = 0 ∧ crc32c (rdBytes s (bufKey s f.fd.w4) 0) = f.fd.w5 ∧ f.stomp = false ∧ bit f.fd.w0 5 = false := by decide +kernel

theorem witness_LaneStates : let s := put [(Reg.LANE_CTL 0, 0x100), (Reg.PG_CTL (Reg.lanePage 0), 1), (Reg.PART_STAT 0, 0x30000)] (on 3)
    let v := (setBit (reg s (Reg.LANE_CTL 0)) 0 true) &&& 0x00FCFFFF
    laneMode s 0 ≠ 3 ∧ laneMode s 0 ≠ 4 ∧ flag s (Reg.LANE_CTL 0) 0 = false ∧ laneEnableOk s 0 v = true ∧ reg s (Reg.LANE_CTL 0) &&& 0x00FCFFFF = reg s (Reg.LANE_CTL 0) ∧ comboOk s 0 v = true ∧ laneCfh s 0 ≤ 32 ∧ usesFec s 0 = false ∧ flag s (Reg.PG_CTL (Reg.lanePage 0)) 0 = true ∧ laneMode s 0 ≠ 0
    ∧ laneState s 0 = 0 ∧ domainOn State.reset 4 = false ∧ flag State.reset (Reg.LANE_CTL 0) 0 = false
    ∧ laneState (put [(Reg.LANE_STAT 0, 0x21)] s) 0 = 1 ∧ flag (put [(Reg.LANE_STAT 0, 0x21)] s) (Reg.LANE_STAT 0) 5 = true
    ∧ laneOn (laneUp0 s) 0 = true ∧ laneState (laneUp0 s) 0 = 2 ∧ strokeBlocks (laneUp0 s) 0 = true := by decide +kernel
theorem test_lane_goes_down : let t := after (.laneDown 0 false) (laneUp0 (on 4))
    laneState t 0 = 3 ∧ reg t (Reg.DOWN_EVENTS 0) = 1 ∧ (lane t 0).qsDown = true := by decide +kernel

/-! ## Decisions and readout (R204, R215–R225, R238) -/

/-- A decision slot of partition 0 for crossing 0. -/
def dec0 : Decision := { p := 0, b := 0, ps := {}, bits := 1, closed := true, complete := true }
theorem witness_DecisionsAndReadout : let s : State := { counting 9000 (on 4) with decisions := [dec0] }
    let o : State := { counting 9000 (on 4) with decisions := [{ dec0 with closed := false }] }
    firstSlot o 0 (fun d => !d.closed && deadline o d.b ≤ o.phase.count) = some { dec0 with closed := false } ∧ fatal s = false ∧ (faultMarked s dec0).fault = false ∧ copyistRuns (put [(Reg.PART_STAT 0, 0x30000)] s) 0 = true
    ∧ firstSlot s 0 (fun d => d.b + lat s ≤ s.phase.count) = some dec0 ∧ orphaned s = false ∧ bit (xing s 0).dead 0 = false ∧ throttled s 0 false = false
    ∧ fld s Reg.ACC_OUT_CTL 19 16 = 0 ∧ decidesHere s 0 = true ∧ decidesHere (put [(Reg.PART_STAT 0, 0x30000)] s) 0 = true ∧ partState s 0 ≠ 6 ∧ partState s 0 ≠ 7 ∧ s.accepts.length < 1024
    ∧ fatal (put [(Reg.BL_SUMMARY, 0x80000000)] s) = true
    ∧ enField (put [(Reg.CP_PCTL 0, 0x80000000), (Reg.PG_CTL Reg.copyistPage, 1)] s) Reg.copyistPage (Reg.CP_PCTL 0) 31 = true := by decide +kernel
/-- Channel 0 holds one rank, mapped from device address 0 as a region of partition 0. -/
def mapped (s : State) : State := put [(Reg.DR_BASE 0 0, 0x80000000), (Reg.DR_SIZE 0 0, 8), (Reg.DDR_IMODE 0, 0xC00), (Reg.DDR_GEOM 0, 0x100), (Reg.DDR_STAT 0, 2)] s
/-- The DRAM pool is ready with buffer 3 on its stack and two more in its ring, and its states lie 16 MB behind the ring. -/
def dramPool : State := { put [(Reg.IW_DCFG, 0xC0001000), (Reg.IW_DSTATE_BASE, 0x1000)] (mapped (on 4)) with ink := { dStack := [3, 4], rLen := 2 } }
theorem witness_DecisionsAndReadout_copy : let a : Accept := { p := 0, b := 0, ps := {}, bits := 1, qs := false, defaulted := false, seq := 0 }
    let s : State := { on 4 with accepts := [a], accOuts := [{ b := 0, bits := 1 }] }
    let c : State := { on 4 with copy := some { acc := a, fds := [{}] } }
    s.accOuts = { b := 0, bits := 1 } :: [] ∧ (0 : Nat) ≤ s.phase.count ∧ s.accepts = a :: [] ∧ s.copy = none ∧ starts s Reg.copyistPage = true
    ∧ (iwAlloc dramPool true 0x82 0 none).1 = stOk ∧ (iwAlloc State.reset true 0x82 0 none).1 ≠ stOk ∧ c.copy = some { acc := a, fds := [{}] }
    ∧ a.epoch = partEpoch c 0 ∧ flag (put [(Reg.CP_PCTL 0, 0x40000000)] c) (Reg.CP_PCTL 0) 30 = true ∧ Tbl.wf (fun _ => []) c.queues = true := by decide +kernel
theorem witness_DecisionsAndReadout_queue : let s := put [(Reg.CP_PCTL 0, 5), (Reg.queueCfg 5, 0x80000000), (Reg.PG_CTL Reg.rulingPage, 1)] (on 4)
    flag s (Reg.CP_PCTL 0) 30 = false ∧ fld s (Reg.CP_PCTL 0) 9 8 = 0 ∧ queuePid s (fld s (Reg.CP_PCTL 0) 7 0) = 0 ∧ queueOn s 5 = true
    ∧ (queue s 5).length + 1 ≤ fld s (Reg.queueLim 5) 13 0 ∧ storeUsed s + 1 ≤ 16384 ∧ Tbl.wf (fun _ => {}) s.xings = true := by decide +kernel
/-- R216: the record of a complete slot leaves at b + L. -/
theorem test_release : let t := after (.decisionRelease 0 false) { counting 9000 (on 4) with decisions := [dec0] }
    t.decisions = [] ∧ (part t 0).seq = 1 ∧ t.accOuts.map (·.bits) = [1] := by decide +kernel

/-! ## The Copybook (R84–R102) -/

/-- Entry for channel 0x123 of partition 0, DROP, class 0, at slot `i`. -/
def entry0 : Entry := sealEntry { w0 := setBit 0x123 28 true, w1 := 0, w2 := 0, w3 := 0 }
/-- The key of channel 0x123 stands in CBC_DATA of slot 0. -/
def keyed (s : State) : State := put [(Reg.CBC_DATA0 0, 0x123)] s
/-- Its entry stands in the lowest way of its first bucket. -/
def place0 : Nat := 4 * (bucketsA (on 4) 0x123).1
def stored0 (s : State) : State := { s with copybook := { s.copybook with entries := [(place0, entry0)] } }
theorem witness_CopybookCommands : let s := keyed (on 4)
    starts s Reg.copybookPage = true ∧ NoArm s Reg.copybookPage 0 ∧ NoArm s Reg.copybookPage 1 ∧ s.copybook.waiting = [] ∧ s.copybook.learn = [] ∧ partState s 0 ≠ 6 ∧ partState (put [(Reg.PART_STAT 0, 0x60000)] s) 0 = 6
    ∧ flag s (Reg.CBC_RESULT 0) 31 = false ∧ cbDataKey s 0 = 0x123 ∧ ((cbProbe s 0x123).all fun j => parityOk (entry s j)) = true ∧ parityOk (entry s 0) = true
    ∧ cbFind s 0x123 = none ∧ cbRefused s 0 (entryAction (cbData s 0)) (entryClass (cbData s 0)) = false ∧ cbUsed s 0 < fld s (Reg.CB_PLIM 0) 21 0
    ∧ freeWay s (bucketsIn s 0x123).1 = some place0 ∧ fld (put [(Reg.CB_PLIM 0, 0)] s) (Reg.CB_PLIM 0) 21 0 ≤ cbUsed s 0 := by decide +kernel
theorem witness_CopybookCommands_found : let s := stored0 (keyed (on 4))
    cbFind s 0x123 = some place0 ∧ ((cbProbe s 0x123).all fun j => parityOk (entry s j)) = true ∧ entryPid (entry s place0) = 0 ∧ entryValid (entry s place0) = true
    ∧ entryPid (entry s place0) ≠ 1 ∧ cbRefused (put [(Reg.CBC_DATA0 0 + 4, 9)] s) 0 9 0 = true := by decide +kernel
theorem witness_CopybookCommands_queued : let c : CbWaiting := { slot := 3, cmd := 0, authority := false, epoch := 0, mid := 1 }
    let s : State := { on 4 with copybook := { waiting := [c], served := 2 } }
    s.copybook.waiting = [c] ∧ c.slot < 16 ∧ c.slot ≠ 0 ∧ flag s (Reg.CBC_RESULT 0) 31 = false
    ∧ cbTurn { s with copybook := { s.copybook with waiting := [c, { slot := 0, cmd := 0, authority := false, epoch := partEpoch s 0, mid := 9 }] } } = some 3 ∧ s.copybook.learn = [] ∧ partState s 0 ≠ 6 := by decide +kernel
/-- R92, R94: INSERT puts the entry into its bucket, where LOOKUP finds it. -/
theorem test_insert : let t := after (.cbInsert 0 2) (keyed (on 4))
    fld t (Reg.CBC_RESULT 0) 7 0 = 0 ∧ cbFind t 0x123 = some place0 := by decide +kernel
theorem test_lookup : let t := after (.cbLookup 0 0) (stored0 (keyed (on 4)))
    fld t (Reg.CBC_RESULT 0) 7 0 = 0 ∧ fld t (Reg.CBC_RESULT 0) 28 8 = place0 := by decide +kernel

theorem witness_CopybookUpkeep : let s : State := { on 4 with copybook := { learn := [(0, 0x123)] } }
    NoArm s Reg.copybookPage 0 ∧ NoArm s Reg.copybookPage 1 ∧ s.copybook.learn = (0, 0x123) :: [] ∧ s.copybook.waiting = [] ∧ pageOn s Reg.copybookPage = true ∧ bits (0x123 : Word) 27 24 = 0 ∧ bits (0x123 : Word) 31 28 = 0
    ∧ ((cbProbe s 0x123).all fun j => parityOk (entry s j)) = true ∧ cbFind s 0x123 = none ∧ fld s (Reg.CBC_LEARN 0) 1 0 ≤ 3
    ∧ cbRefused s 0 (fld s (Reg.CBC_LEARN 0) 1 0) (fld s (Reg.CBC_LEARN 0) 27 24) = false ∧ cbUsed s 0 < fld s (Reg.CB_PLIM 0) 21 0
    ∧ freeWay s (bucketsIn s 0x123).1 = some place0 ∧ cbFind (stored0 s) 0x123 = some place0 ∧ ((waysOf s.copybook.scan).all fun i => parityOk (entry s i)) = true
    ∧ starts s Reg.copybookPage = true ∧ migrating s = false ∧ migrating (after .cbMigrateSet s) = true := by decide +kernel
theorem test_learn : entryLearned (entry (after .learnServe { on 4 with copybook := { learn := [(0, 0x123)] } }) place0) = true := by decide +kernel

/-! ## The Ductus (R188–R210) -/

/-- Template 1 of partition 0: one node without edges or inputs, under check. -/
def tpl1 (s : State) : State := { wrWord s (tplBase 1 + 0x40) 0x80000000 with ductus := { checking := [1] } }
theorem witness_DuctusTemplates : dxTakes (on 4) = true ∧ 1 ∉ (on 4).ductus.enabled ∧ 1 ∉ (on 4).ductus.checking ∧ 1 ∈ (tpl1 (on 4)).ductus.checking := by decide +kernel
/-- Template 1 passes the checks of R190; it has no edge, so no node is on a cycle. -/
theorem witness_DuctusTemplates_passes : tplLast (tpl1 (on 4)) 1 = 0 ∧ (∀ n < 64, bit (nodeWord (tpl1 (on 4)) 1 n 0) 31 = decide (n ≤ 0))
    ∧ nodeInputs (tpl1 (on 4)) 1 0 ≤ 8 ∧ nodeHint (tpl1 (on 4)) 1 0 ≤ 4 ∧ (∀ i < 4, nodeEdge (tpl1 (on 4)) 1 0 i = 0) ∧ nodeFinal (tpl1 (on 4)) 1 0 = false
    ∧ tplMask (tpl1 (on 4)) 1 = 0 ∧ nibPid (tpl1 (on 4)) (nodeHome (tpl1 (on 4)) 1 0) = tplPid (tpl1 (on 4)) 1 ∧ (∀ i < 4, tplWord (tpl1 (on 4)) 1 i = 0)
    ∧ bits (nodeWord (tpl1 (on 4)) 1 0 0) 1 0 = 0 ∧ bits (nodeWord (tpl1 (on 4)) 1 0 3) 15 14 = 0 := by decide +kernel
theorem witness_DuctusTemplates_acyclic :
    ¬ Relation.TransGen (fun n m => ∃ i < 4, edgeValid (nodeEdge (tpl1 (on 4)) 1 n i) = true ∧ edgeNode (nodeEdge (tpl1 (on 4)) 1 n i) = m) 0 0 := by
  intro h
  obtain ⟨m, ⟨i, hi, hv, -⟩, -⟩ := Relation.TransGen.head'_iff.mp h
  rw [witness_DuctusTemplates_passes.2.2.2.2.1 i hi] at hv
  exact absurd hv (by decide)
theorem test_template_enabled : (after (.templateCheckDone 1) (tpl1 (on 4))).ductus.enabled = [1] := by decide +kernel
/-- R190: a template whose node 0 is not valid fails check 1. -/
theorem test_template_refused : (tplCheck (on 4) 1).map (·.1) = some 1 := by decide +kernel

/-- Instance 7 of template 1 in crossing 0, with nodes `ns`, and operation 3 of its node 0 at `pl`. -/
def inst7 (ns : List NodeState) : Inst := { num := 7, tpl := 1, pid := 0, b := 0, ps := {}, epoch := 0, nodes := ns, tokens := [], decided := false, closed := false, cancelled := 0 }
def op3 (pl : OpPlace) : Op := { handle := 3, inst := 7, node := 0, pid := 0, place := pl, readyAt := 0, aborted := false, epoch := 0 }
def dx (x : Inst) (d : Ductus) (s : State) : State := { tpl1 s with ductus := { d with enabled := [1], insts := [x] } }

theorem witness_DuctusLifecycle : let s := dx (inst7 [.waiting]) {} (on 4)
    findInst s 7 = some (inst7 [.waiting]) ∧ dxTakes s = true ∧ (inst7 [.waiting]).nodes.getD 0 .done = .waiting ∧ instLate s (inst7 [.waiting]) = false
    ∧ 0 + nodeNotBefore s 1 0 ≤ s.phase.count ∧ nodeInputs s 1 0 ≤ 0 ∧ findOp s 0 = none
    ∧ (nib s (nodeHome s 1 0)).fenced = false ∧ nibPid s (nodeHome s 1 0) = 0 ∧ (dxList s (nodeHome s 1 0)).length < 512 ∧ resident s 0 < fld s (Reg.DX_PLIM 0) 16 0
    ∧ ¬ resident s 0 < fld (put [(Reg.DX_PLIM 0, 0)] s) (Reg.DX_PLIM 0) 16 0
    ∧ enField (put [(Reg.DX_SPILL_SIZE 0, 0x8000000C), (Reg.PG_CTL Reg.ductusPage, 1)] s) Reg.ductusPage (Reg.DX_SPILL_SIZE 0) 31 = true := by decide +kernel
theorem witness_DuctusLifecycle_close : let s : State := { dx (inst7 [.ready]) { ops := [op3 (.list 1)], lists := [(1, [3])] } (on 4) with phase := { count := 9000 } }
    findInst s 7 = some (inst7 [.ready]) ∧ deadline s 0 ≤ s.phase.count ∧ (inst7 [.ready]).closed = false ∧ instOver (inst7 [.done]) = true
    ∧ bit (tplWord s 1 0) 15 = false ∧ Tbl.wf (fun _ => []) s.ductus.lists = true := by decide +kernel
theorem witness_DuctusLifecycle_ring : let s : State := dx (inst7 [.ready]) { ops := [op3 (.ring 0)], rings := [(0, [some 3])] } (mapped (on 4))
    let n := modNib s 1 (fun n => { n with dxNotices := [[1, 2]] })
    let e : State := dx (inst7 [.ready]) { rings := [(0, [none])] } (on 4)
    dxRing e 0 = none :: [] ∧ dxTakes e = true ∧ 0 ∈ liveNibs e 0 ∧ (dxList e 0).length < fld e Reg.DX_CTL 25 16 ∧ instLate s (inst7 [.ready]) = false ∧ (ringEntry s 0).1 = false
    ∧ dxRing s 0 = some 3 :: [] ∧ dxTakes s = true ∧ findOp s 3 = some (op3 (.ring 0)) ∧ (op3 (.ring 0)).place = .ring 0 ∧ findInst s 7 = some (inst7 [.ready])
    ∧ (inst7 [.ready]).closed = false ∧ 0 ∈ liveNibs s 0 ∧ (dxList s 0).length < fld s Reg.DX_CTL 25 16 ∧ NoArm s Reg.ductusPage 6
    ∧ ((liveNibs s 0).all fun k => (dxList s k).isEmpty) = true ∧ (nib n 1).dxNotices = [1, 2] :: [] ∧ (nib n 1).fenced = false ∧ chanRoom n 1 1 = true ∧ (chan n 1 1).readers = [] := by
  decide +kernel
/-- R198: a ready operation joins its home list. -/
theorem test_operation_ready : let s := dx (inst7 [.waiting]) {} (on 4)
    let t := after (.operationReady 7 0) s
    (dxList t 0).length = 1 ∧ t.ductus.ops.length = 1 ∧ (findInst t 7).map (·.nodes) = some [.ready] := by decide +kernel

/-- Thread 8 holds operation 3. -/
def worker (x : Inst) (s : State) : State := { dx x { ops := [op3 (.held 8)] } s with threads := [(8, { at8 [(3, 5)] with dxHeld := some 3 })] }
theorem witness_DuctusPorts : let s := worker (inst7 [.ready]) (on 4)
    (8 : Nat) < 1024 ∧ Issues s 8 ∧ Bare s 8 ∧ dxTakes s = true ∧ heldOp s 8 = some (op3 (.held 8)) ∧ (thread s 8).dxHeld = some 3 ∧ opStale s (op3 (.held 8)) = false
    ∧ (op3 (.held 8)).aborted = false ∧ nodeFinal s 1 0 = false ∧ instLate s (inst7 [.ready]) = false ∧ IsOut s 8 (fp 0x0E 3 0x302) 0x302 ∧ IsOut s 8 (fp 0x0E 3 0x303) 0x303
    ∧ IsOut s 8 (fp 0x0E 3 0x304) 0x304 ∧ IsIn s 8 (fp 0x0D 3 0x305) 0x305 ∧ IsOut s 8 (fp 0x0E 3 0x306) 0x306 ∧ IsOut s 8 (fp 0x0E 3 0x307) 0x307
    ∧ IsOut s 8 (fp 0x0E 3 0x308) 0x308 ∧ IsOut s 8 (fp 0x0E 3 0x309) 0x309 ∧ IsIn s 8 (fp 0x0D 3 0x301) 0x301 ∧ IsIn s 8 (fp 0x0D 3 0x300) 0x300 := by decide +kernel
theorem witness_DuctusPorts_token : let s := { worker { inst7 [.ready, .waiting] with nodes := [.ready, .waiting] } (on 4) with
      threads := [(8, { at8 [(3, 5)] with dxHeld := some 3, dxTgt := some 0x80024000, dxData := [1, 2, 3, 4, 5] })] }
    let e := wrWord (wrWord s (tplBase 1 + 0x44) 0x8001) (tplBase 1 + 0x50) 0x81000000
    (thread s 8).dxTgt = some 0x80024000 ∧ (thread s 8).dxData.length = 5 ∧ edgeValid (nodeEdge e 1 0 0) = true ∧ edgeNode (nodeEdge e 1 0 0) = 1
    ∧ edgeSlot (nodeEdge e 1 0 0) < nodeInputs e 1 1 ∧ tokensUsed e < 131072 ∧ tplPid s 0 = tidPid s 8 := by decide +kernel
theorem witness_DuctusPorts_decide : let d : Decision := { p := 0, b := 0, ps := {} }
    let s : State := { wrWord (worker (inst7 [.ready]) (on 4)) (tplBase 1 + 0x40) 0xC0000000 with decisions := [d] }
    nodeFinal s 1 0 = true ∧ findDecision s 0 0 = some d ∧ d.closed = false ∧ instLate s (inst7 [.ready]) = false ∧ (inst7 [.ready]).decided = false := by decide +kernel
theorem witness_DuctusPorts_start : let s : State := put [(Reg.PH_STAT, 15), (Reg.PART_STAT 0, 0x30000)] (worker (inst7 [.ready]) { on 4 with phase := { started := true }, parts := [(0, { admitting := true })] })
    let v : State := { s with ductus := { s.ductus with insts := [] } }
    tplPid s 1 = tidPid s 8 ∧ 1 ∈ s.ductus.enabled ∧ dxEnabled s = true ∧ s.phase.started = true ∧ spsCount s 0 ≤ s.phase.count
    ∧ (s.phase.count : Int) < spsCount s 0 + lat s - guard s ∧ (s.ductus.insts.any (fun x => x.tpl = 1 && (x.b : Int) = spsCount s 0)) = true
    ∧ (v.ductus.insts.any (fun x => x.tpl = 1 && (x.b : Int) = spsCount s 0)) = false ∧ 0 ≤ spsCount s 0 ∧ partState v 0 = 3 ∧ admits v 0 = true ∧ findInst v 0 = none := by decide +kernel
theorem witness_DuctusPorts_pull : let s : State := { dx (inst7 [.ready]) { ops := [op3 (.list 1)], lists := [(1, [3])] } (on 4) with threads := [(8, at8 [])] }
    let b := modNib { s with threads := [(8, { at8 [] with state := .blocked, waitPort := some (0x300, 3) })] } 1 (fun n => { n with pullers := [8] })
    (thread s 8).dxHeld = none ∧ (nib s 1).pullers = [] ∧ NoArm s Reg.ductusPage 0 ∧ NoArm s Reg.ductusPage 1 ∧ liveList s 1 = 3 :: [] ∧ findOp s 3 = some (op3 (.list 1))
    ∧ (nib b 1).pullers = 8 :: [] ∧ (thread b 8).state = .blocked ∧ (thread b 8).waitPort = some (0x300, 3) ∧ (thread b 8).pfx = .none ∧ (thread b 8).stepping = false ∧ liveList b 1 = 3 :: []
    ∧ ((List.range 128).all fun k => (liveList (on 4) k).isEmpty) = true := by decide +kernel
theorem witness_DuctusPorts_steal : let s : State := { dx (inst7 [.ready]) { ops := [op3 (.list 2)], lists := [(2, [3])] } (on 4) with threads := [(8, at8 [])] }
    liveList s 1 = [] ∧ enField s Reg.ductusPage Reg.DX_CTL 0 = true ∧ 2 ∈ liveNibs s (tidPid s 8)
    ∧ ((liveNibs s (tidPid s 8)).all fun k => decide ((liveList s k).length < (liveList s 2).length ∨ (liveList s k).length = (liveList s 2).length ∧ 2 ≤ k)) = true
    ∧ ((liveList s 2).take 8).find? (fun h => hintMet s 1 (opHint s h)) = some 3 ∧ findOp s 3 = some (op3 (.list 2)) := by decide +kernel
theorem test_pull : let s : State := { dx (inst7 [.ready]) { ops := [op3 (.list 1)], lists := [(1, [3])] } (on 4) with threads := [(8, at8 [])] }
    let t := after (.dxPull 8 (fp 0x0D 3 0x300)) s
    (thread t 8).dxHeld = some 3 ∧ dxList t 1 = [] := by decide +kernel
theorem test_done : let t := after (.dxDone 8 (fp 0x0E 3 0x306)) (worker (inst7 [.ready]) (on 4))
    t.ductus.ops = [] ∧ (findInst t 7).map (·.nodes) = some [.done] ∧ (thread t 8).dxStat = stOk := by decide +kernel

/-! ## Host memory, Inkwell, DRAM (R234–R264) -/

theorem witness_HostMemory : let s := with8 (at8 [])
    domainOn s 2 = true ∧ domainOn s (8 + 1 / 8) = true ∧ (thread s 16).state = .idle ∧ nibOf 8 = 1 ∧ (thread s 8).state ≠ .idle ∧ (3 : Nat) ∉ s.ductus.enabled ∧ (3 : Nat) ∉ s.ductus.checking
    ∧ 1 ∈ (dx (inst7 []) {} s).ductus.enabled ∧ badAt s 0xC000000 = false ∧ bits (0 : Word) 27 24 = tplPid s 3 ∧ (0xC000000 : Nat) % 4 = 0 := by decide +kernel
theorem witness_HostMemory_uninjected : Uninjected (on 4) := by decide +kernel
theorem test_host_swap : let t := after (.hostSwap 0xC000004 7 4) (wrWord (on 4) 0xC000004 5)
    rdWord t 0xC000004 = 7 ∧ t.resp = [5] := by decide +kernel

theorem witness_InkwellAlloc : let s := with8 (at8 [])
    let n : State := { s with ink := { sFresh := 16384 } }
    iwTakes s = true ∧ NoArm s Reg.inkwellPage 0 ∧ NoArm s Reg.inkwellPage 1 ∧ Issues s 8 ∧ Bare s 8 ∧ IsIn s 8 (fp 0x0D 3 0x310) 0x310 ∧ IsIn s 8 (fp 0x0D 3 0x311) 0x311
    ∧ enField s Reg.inkwellPage Reg.IW_CTL 0 = true ∧ s.ink.sStack = [] ∧ s.ink.sFresh < 16384 ∧ ¬ (partQuota s false 0 ≤ use s (partKey false 0) ∨ midQuota s false 1 ≤ use s (midKey false 1))
    ∧ inkFull s false 8 = false ∧ tidPid s 8 < 16 ∧ n.ink.sStack = [] ∧ 16384 ≤ n.ink.sFresh ∧ partQuota (put [(Reg.IW_QPART_S 0, 0)] s) false 0 ≤ 0
    ∧ enField dramPool Reg.inkwellPage Reg.IW_DCFG 31 = true ∧ flag dramPool Reg.IW_DCFG 30 = true ∧ dramPool.ink.dStack = 3 :: [4] ∧ partState (put [(Reg.PART_STAT 2, 0x60000)] s) 2 = 6 ∧ partState s 2 ≠ 6
    ∧ (∀ c < 4, ∀ k < 24, rankLost dramPool c k = false) ∧ (dramMap dramPool (fld dramPool Reg.IW_DSTATE_BASE 25 0 * 0x1000 + 8 * 3)).isSome = true := by decide +kernel
/-- R242: allocations rise until the first FREE. -/
theorem test_alloc : let t := after (.iwAllocS (.inr (2, false))) (put [(Reg.IW_QPART_S 2, 5)] (on 4))
    reg t (Reg.IW_HARG 2) = 0x40000000 ∧ fld t (Reg.IW_HRESULT 2) 7 0 = 0 ∧ (buf t 0x40000000).owner = 0x92 := by decide +kernel

/-- Buffer 5 of the SRAM pool as `b`, its handle in IW_HARG of slot 0 and in W3 of thread 8. -/
def buffer5 (b : Buf) : State := { put [(Reg.IW_HARG 0, 0x40000005)] (with8 (at8 [(3, 0x40000005)])) with ink := { bufs := [(0x40000005, b)] } }
theorem witness_InkwellBuffers : let mine : Buf := { st := 1, pid := 0, owner := 0x90, charged := 0x90 }
    let s := buffer5 mine
    iwTakes s = true ∧ bits (0x40000005 : Word) 31 30 = 1 ∧ bits (0x40000005 : Word) 29 0 < 16384 ∧ reg s (Reg.IW_HARG 0) = 0x40000005 ∧ buf s 0x40000005 = mine
    ∧ (buf (buffer5 { mine with pid := 3 }) 0x40000005).pid ≠ 0 ∧ (buf (buffer5 {}) 0x40000005).st = 0 ∧ (buf (buffer5 { mine with st := 2, refs := 1 }) 0x40000005).refs = 1
    ∧ Issues s 8 ∧ Bare s 8 ∧ wreg s 8 3 = 0x40000005 ∧ IsOut s 8 (fp 0x0E 3 0x313) 0x313 ∧ IsOut s 8 (fp 0x0E 3 0x314) 0x314 ∧ IsOut s 8 (fp 0x0E 3 0x315) 0x315
    ∧ IsOut s 8 (fp 0x0E 3 0x312) 0x312 ∧ IsIn s 8 (fp 0x0D 3 0x316) 0x316 ∧ iwCheck s 0x40000005 1 0 = none ∧ bits (wreg s 8 3) 31 30 = 1 ∧ partState s 0 ≠ 6 := by decide +kernel
theorem witness_InkwellBuffers_dram : let s := put [(Reg.IW_HARG 0, 0x80000003)] dramPool
    iwTakes s = true ∧ NoArm s Reg.inkwellPage 0 ∧ NoArm s Reg.inkwellPage 1 ∧ bits (0x80000003 : Word) 29 0 < fld s Reg.IW_DCFG 20 0
    ∧ (engineRead s (stateKey s 3) 8 0x86).1 = false ∧ (engineRead (setBad s (stateKey s 3) true) (stateKey s 3) 8 0x86).1 = true
    ∧ (∀ c < 4, ∀ k < 24, rankLost s c k = false) ∧ (dramMap s (fld s Reg.IW_DSTATE_BASE 25 0 * 0x1000 + 8 * 3)).isSome = true ∧ iwCheck s 0x80000003 1 0 = none := by decide +kernel
theorem test_free_returns : let t := after (.iwFree (.inr (0, false))) (buffer5 { st := 1, pid := 0, owner := 0x90, charged := 0x90 })
    t.ink.sStack = [5] ∧ buf t 0x40000005 = {} ∧ fld t (Reg.IW_HRESULT 0) 7 0 = 0 := by decide +kernel
theorem test_free_by_another : fld (after (.iwFree (.inr (0, false))) (buffer5 { st := 1, pid := 0, owner := 1, charged := 1 })) (Reg.IW_HRESULT 0) 7 0 = stNotOwner.toNat := by
  decide +kernel

theorem witness_InkwellDramPool : let s := dramPool
    let off : State := { put [(Reg.IW_DBUF_BASE, 0x1000), (Reg.IW_DCFG, 64)] (mapped (on 4)) with ink := { filling := true } }
    enField s Reg.inkwellPage Reg.IW_DCFG 31 = true ∧ flag s Reg.IW_DCFG 30 = true ∧ iwTakes s = true ∧ Uninjected s ∧ 0 < fld s Reg.IW_DCFG 20 0 ∧ min 64 s.ink.rLen = 2
    ∧ s.ink.dStack.length < fld s Reg.IW_DCACHE 7 0 ∧ badAt s (ringKey s 0) = false ∧ fld s Reg.IW_DCACHE 15 8 < (List.range 250).length ∧ flag off Reg.IW_DCFG 31 = false
    ∧ fld off Reg.IW_DCACHE 7 0 + 64 ≤ fld off Reg.IW_DCACHE 15 8 ∧ inRegionOf off 0 (fld off Reg.IW_DBUF_BASE 23 0 * 0x4000) (0x4000 * 64) = true
    ∧ inRegionOf off 0 (fld off Reg.IW_DRING_BASE 25 0 * 0x1000) (4 * 64) = true ∧ inRegionOf off 0 (fld off Reg.IW_DSTATE_BASE 25 0 * 0x1000) (8 * 64) = true
    ∧ off.ink.filling = true ∧ s.ink.dStack.length + s.ink.rLen ≠ fld s Reg.IW_DCFG 20 0
    ∧ 0 + fld off Reg.IW_DCFG 20 0 = (({ off with ink := { rLen := 64 } } : State).ink.dStack.length + 64) := by decide +kernel
/-- The places of the ring's first 64 entries are kept one behind the other, each word in four cells of its own. -/
theorem witness_InkwellDramPool_apart : ((List.range 256).all fun x => memKey dramPool (ringKey dramPool (x / 4) + x % 4) == some (dramBase + x)) = true := by decide +kernel
/-- R243: the two oldest entries of the ring go below the stack's. -/
theorem test_refill : (after .iwRefill (wrWord (wrWord dramPool (ringKey dramPool 0) 5) (ringKey dramPool 1) 6)).ink.dStack = [3, 4, 5, 6] := by decide +kernel

/-- Channel 0 is in a supported configuration, enabled and READY. -/
def ddr0 (d : Ddr) (s : State) : State := { put [(Reg.DDR_GEOM 0, 0x100), (Reg.DDR_CTL 0, 1), (Reg.DDR_STAT 0, 2), (Reg.DDR_IMODE 0, 0xC00)] s with ddrs := [(0, d)] }
theorem witness_DramTraining : let s := ddr0 {} (on 4)
    let t := put [(Reg.DDR_STAT 0, 1)] s
    (fld s (Reg.DDR_GEOM 0) 9 8 = 1 ∧ fld s (Reg.DDR_GEOM 0) 3 2 ≤ 1 ∧ fld s (Reg.DDR_GEOM 0) 1 0 ≤ 2 ∧ flag s (Reg.DDR_GEOM 0) 4 = false)
    ∧ ¬ (fld (put [(Reg.DDR_GEOM 0, 0)] s) (Reg.DDR_GEOM 0) 9 8 = 1) ∧ ddrEn s 0 = true ∧ ddrEn (put [(Reg.DDR_CTL 0, 0)] s) 0 = false
    ∧ fld t (Reg.DDR_STAT 0) 1 0 = 1 ∧ (ddr t 0).restoring = false ∧ (ddr (ddr0 { restoring := true } (on 4)) 0).restoring = true := by decide +kernel
/-- R254: whatever the training words 0 to 254 are, their check word can stand in word 255. -/
theorem witness_DramTraining_crc (s : State) (v : Word)
    (hv : crc32c ((List.range 255).flatMap (fun w => leBytes 4 (reg s (Reg.trainWord 0 w)).toNat) ++ leBytes 4 (reg s (Reg.DDR_GEOM 0)).toNat) = v) :
    let t := setReg s (Reg.trainWord 0 255) v
    reg t (Reg.trainWord 0 255) = crc32c ((List.range 255).flatMap (fun w => leBytes 4 (reg t (Reg.trainWord 0 w)).toNat) ++ leBytes 4 (reg t (Reg.DDR_GEOM 0)).toNat) := by
  have h : ∀ w ∈ List.range 255, leBytes 4 (reg (setReg s (Reg.trainWord 0 255) v) (Reg.trainWord 0 w)).toNat = leBytes 4 (reg s (Reg.trainWord 0 w)).toNat := by
    intro w hw
    rw [reg_setReg_other]
    have := List.mem_range.mp hw
    simp only [Reg.trainWord]; omega
  have g : reg (setReg s (Reg.trainWord 0 255) v) (Reg.DDR_GEOM 0) = reg s (Reg.DDR_GEOM 0) := reg_setReg_other s v (by decide)
  simp only [reg_setReg_same, List.flatMap_congr h, g, hv]

theorem witness_DramService : let r : DramReq := { off := 0, order := 0, mid := 1, write := false }
    let s := ddr0 { reqs0 := [r], openRows := [needs (ddr0 {} (on 4)) 0 r] } (on 4)
    ddrServes s 0 = true ∧ ddrWorks s 0 = true ∧ (0 : Nat) < fld s (Reg.DDR_GEOM 0) 9 8 ∧ rankOf s 0 r.off = 0 ∧ needs s 0 r ∈ (ddr s 0).openRows
    ∧ postponed (ddr s 0) 0 < 4 ∧ postponed (ddr (ddr0 { postponed0 := 4 } (on 4)) 0) 0 = 4 ∧ fld s (Reg.DDR_SCHED 0) 15 0 ≠ 0 ∧ subReqs s 0 0 = [r]
    ∧ (flag s (Reg.DDR_GEOM 0) 12 = false ∨ NoArm s (Reg.ddrPage 0) 2) ∧ flag s (Reg.DDR_GEOM 0) 4 = false ∧ fld s (Reg.DDR_GEOM 0) 3 2 = 0 := by decide +kernel
theorem witness_DramService_scrub : let s := put [(Reg.DDR_GEOM 0, 0x1100)] (ddr0 {} (on 4))
    ddrServes s 0 = true ∧ enField s (Reg.ddrPage 0) (Reg.DDR_SCRUB 0) 31 = true ∧ capUnits s 0 ≠ 0 ∧ NoArm s (Reg.ddrPage 0) 0 ∧ NoArm s (Reg.ddrPage 0) 1
    ∧ lineBad s 0 0 = false ∧ ddrWorks s 0 = true ∧ flag s (Reg.DDR_GEOM 0) 12 = true ∧ (ddr s 0).parityTries < 2
    ∧ 2 ≤ (ddr (ddr0 { parityTries := 2 } (on 4)) 0).parityTries := by decide +kernel
/-- R260: order 0 puts bank, bank group and row at bits 13, 15 and 18. -/
theorem test_bank : needs (ddr0 {} (on 4)) 0 { off := 5 * 2 ^ 18 + 3 * 2 ^ 15 + 2 * 2 ^ 13 + 64, order := 0, mid := 1, write := false } = (64 + 4 * 3 + 2, 5) := by decide +kernel

theorem witness_DramRegionsAndRanks : let s := put [(Reg.DDR_SPARE 1, 0x40000000)] (ddr0 { bad0 := 4, filling := true } (on 3))
    capUnits s 0 ≠ 0 ∧ mayMove s 0 0 = true ∧ regionInUse s 3 = false ∧ drValid s 0 = false ∧ mode s = 3 ∧ (8 : Nat) ≤ bits (0xC00 : Word) 11 8
    ∧ (0 : Nat) + bits (0x80010000 : Word) 26 16 * 0x4000000 ≤ capUnits s 0 * 0x4000000 ∧ (regionExtents s 0).isEmpty = true ∧ (ddr s 0).filling = true
    ∧ (0 : Nat) < fld s (Reg.DDR_GEOM 0) 9 8 ∧ rankLost s 0 0 = false ∧ 4 ≤ (ddr s 0).bad0 ∧ recovOk s 0 = true ∧ fatal s = false := by decide +kernel
theorem witness_DramRegionsAndRanks_lost : let s := put [(Reg.DR_BASE 0 0, 0x80000000), (Reg.DR_SIZE 0 0, 8)] (ddr0 { bad0 := 4 } (on 3))
    let t := put [(Reg.DDR_STAT 0, 0x102)] s
    recovOk s 0 = false ∧ rankLost t 0 0 = true ∧ (∀ m ∈ (ddr t 0).remaps, m.rank ≠ 0) ∧ rankLost t 0 1 = false ∧ fatal t = false := by decide +kernel
theorem test_rank_lost_is_fatal : fatal (after (.ddrRankLost 0 0) (put [(Reg.DR_BASE 0 0, 0x80000000), (Reg.DR_SIZE 0 0, 8)] (ddr0 { bad0 := 4 } (on 3)))) = true := by decide +kernel

/-! ## Partitions (R266–R282) -/

/-- Partition 1 in state `st`. -/
def part1 (st : Nat) (s : State) : State := put [(Reg.PART_STAT 1, word (st * 65536))] s
theorem witness_PartitionCommands : let s := part1 1 (on 3)
    let ready := put [(Reg.NIB_PID 1, 1), (Reg.LK_PIDMAP 0 0, 1), (Reg.IW_QPART_S 0, 0), (Reg.IW_QPART_D 0, 0), (Reg.CB_PLIM 0, 0), (Reg.DX_PLIM 0, 0)] s
    pageOn s (Reg.partPage 1) = true ∧ flag s (Reg.PART_STAT 1) 31 = false ∧ mode s = 3 ∧ (on 7 |> mode) ≠ 3 ∧ partState s 1 = 1
    ∧ ((List.range 8).all fun st => partState (part1 st (on 3)) 1 == st) = true ∧ flag (put [(Reg.PART_STAT 1, 0x80030000)] s) (Reg.PART_STAT 1) 31 = true
    ∧ ((List.range 128).all fun n => nibPid s n != 1) = true ∧ nibPid ready 1 = 1 ∧ lockPid ready 0 0 = 1 := by decide +kernel
theorem witness_PartitionCommands_commit : let s := put [(Reg.NIB_PID 1, 1), (Reg.LK_PIDMAP 0 0, 1)] (part1 1 (on 3))
    ¬ 16384 < ((List.range 16).map fun k => fld s (Reg.IW_QPART_S k) 14 0).sum ∧ ¬ 1048576 < ((List.range 16).map fun k => fld s (Reg.IW_QPART_D k) 20 0).sum
    ∧ ¬ 2097152 < ((List.range 16).map fun k => fld s (Reg.CB_PLIM k) 21 0).sum ∧ ¬ 65536 < ((List.range 16).map fun k => fld s (Reg.DX_PLIM k) 16 0).sum
    ∧ ((List.range 256).all fun t => tplPid s t != 1) = true
    ∧ 16384 < ((List.range 16).map fun k => fld (put [(Reg.IW_QPART_S 1, 1)] s) (Reg.IW_QPART_S k) 14 0).sum
    ∧ 2097152 < ((List.range 16).map fun k => fld (put [(Reg.CB_PLIM 1, 1)] s) (Reg.CB_PLIM k) 21 0).sum
    ∧ 65536 < ((List.range 16).map fun k => fld (put [(Reg.DX_PLIM 1, 1)] s) (Reg.DX_PLIM k) 16 0).sum := by decide +kernel
theorem test_create : let t := after (.partCreate 1) (part1 0 (on 3))
    partState t 1 = 1 ∧ fld t (Reg.PART_STAT 1) 7 0 = 0 := by decide +kernel
/-- R268: with a Nib and its locks, COMMIT passes. -/
theorem test_commit : partState (after (.partCommit 1) (put [(Reg.NIB_PID 1, 1), (Reg.LK_PIDMAP 0 0, 1)] (part1 1 (on 3)))) 1 = 2 := by decide +kernel

theorem witness_PartitionStates : let s := part1 4 (on 4)
    let q : State := { part1 3 (on 4) with parts := [(1, { startDue := true, saving := true })], signet := { finished := [(1, [1])] } }
    partState s 1 = 4 ∧ (part s 1).admitting = false ∧ (part s 1).stopPend = false ∧ enginesOf s 1 = 0 ∧ workOf s 1 = 0 ∧ (part s 1).toFrozen = false
    ∧ (part q 1).startDue = true ∧ partState q 1 = 3 ∧ flag q Reg.PH_STAT 3 = false ∧ pageOn q (Reg.partPage 1) = true ∧ mode q = 4
    ∧ enginesOf (part1 6 (on 4)) 1 = 0 ∧ flag q (Reg.PART_STAT 1) 31 = false ∧ use q (partKey false 1) + use q (partKey true 1) = 0
    ∧ Tbl.get (fun _ => []) q.signet.finished 1 = [1] ∧ (part q 1).saving = true := by decide +kernel
theorem witness_PartitionStates_restore : let s : State := { part1 2 (on 4) with parts := [(1, { restoring := some [] })] }
    (part s 1).restoring = some [] ∧ (imageFails s 1 []).isSome = true := by decide +kernel
theorem test_drain_ends : partState (after (.partDrainEnd 1) (part1 4 (on 4))) 1 = 2 := by decide +kernel

theorem witness_ImageRoundTrip : (image (on 4) 1 (List.replicate 312 0)).length < 2 ^ 32 ∧ bits (reg (on 4) Reg.DEVICE_ID) 31 16 = 0x6440 := by decide +kernel

/-- Rings 0 to 2 of partition 1 are on, with 16 entries each and two produced in rings 1 and 2. -/
def rings1 (s : State) : State := put [(Reg.PW_RING_CFG 1 0, 0x80000004), (Reg.PW_RING_CFG 1 1, 0x80000004), (Reg.PW_RING_CFG 1 2, 0x80000004), (Reg.PW_RING_PROD 1 1, 2), (Reg.PW_RING_PROD 1 2, 2)] (part1 3 s)
theorem witness_HostRings : let f : FD := { w0 := setBits 0 31 28 2 }
    let s : State := { rings1 (on 4) with parts := [(1, { rxPend := [(f, {}), ({}, {})] })] }
    partState s 1 ∈ [2, 3, 4, 5, 7] ∧ mode s = 4 ∧ partState (part1 6 (on 4)) 1 = 6 ∧ (part s 1).rxPend = (f, {}) :: [({}, {})] ∧ flag s (Reg.PW_RING_CFG 1 0) 31 = true ∧ (fld s (Reg.PW_RING_PROD 1 0) 15 0 + 1) % 16 ≠ fld s (Reg.PW_RING_CONS 1 0) 15 0
    ∧ fld s (Reg.PW_RING_CFG 1 0) 4 0 = 4 ∧ fld s (Reg.PW_RING_PROD 1 1) 15 0 ≠ fld s (Reg.PW_RING_CONS 1 1) 15 0 ∧ fld s (Reg.PW_RING_PROD 1 2) 15 0 ≠ fld s (Reg.PW_RING_CONS 1 2) 15 0
    ∧ partState s 1 ≠ 6 ∧ NoArm s Reg.inkwellPage 0 ∧ NoArm s Reg.inkwellPage 1 ∧ pageOn s (Reg.partPage 1) = true ∧ flag (on 4) (Reg.PW_RING_CFG 1 0) 31 = false
    ∧ (rxData (modPart s 1 (fun q => { q with rxPend := [({}, {})] })) { f with w0 := 0 }).2.1 = false := by decide +kernel
/-- An EVENT of no bytes reads nothing, in any state. -/
theorem witness_HostRings_data (s : State) : let f : FD := { w0 := setBits 0 31 28 6 }
    (rxData s f).2.1 = false ∧ (rxData s f).2.2 = { s with perf := (rxData s f).2.2.perf, ddrs := (rxData s f).2.2.ddrs } := by
  have a : engineAccess s 0 0 0x90 false = bw s 20 0 := by simp [engineAccess, dramTraffic, bwKey, dramBase]
  have b : bufKey s 0 = 0 := by simp [bufKey, bhPool, bhIndex, bits]
  obtain ⟨k, l, p⟩ : fdKind { w0 := setBits 0 31 28 6 } = 6 ∧ fdLen { w0 := setBits 0 31 28 6 } = 0 ∧ fdPid { w0 := setBits 0 31 28 6 } = 0 := by decide
  intro f
  simp only [rxData, f, if_neg (show ¬ fdKind { w0 := setBits 0 31 28 6 } = 2 by rw [k]; decide), l, p, b]
  simp only [engineRead, a, checkRange, bw, Nat.add_zero]
  split <;> exact ⟨rfl, rfl⟩
theorem test_rx_doorbell : reg (after (.rxbDoorbell 1 5) (rings1 (on 4))) (Reg.PW_RING_PROD 1 1) = 5 := by decide +kernel

/-! ## The Skovub (R283–R299) -/

/-- Port 1 of a device of role `r` is up on lane 0, with `p` behind it. -/
def port1 (r : Nat) (p : Port) (s : State) : State :=
  { put [(Reg.STRAPS, word r), (Reg.SK_PCFG 1, 0x80000000), (Reg.SK_PSTAT 1, 0x80000000), (Reg.LANE_CTL 0, 0x8501), (Reg.LANE_STAT 0, 2), (Reg.PG_CTL (Reg.skovubPage 1), 1)] s with ports := [(1, p)] }
def msg1 : SkMsg := { ty := 1, hdr := 0, body := [] }
theorem witness_SkovubLink : let f : Flit := { seq := 5, cls := 0, msg := msg1 }
    let s := port1 2 { replay := [f], resend := [f], q0 := [msg1], cr0 := 1 } (on 4)
    let t := put [(Reg.SK_PSTAT 1, 0x40000000)] (port1 2 { probing := true, probes := [] } (on 4))
    portOn t 1 = true ∧ portLanesUp t 1 = true ∧ starts t (Reg.skovubPage 1) = true ∧ fatal t = false ∧ portState t 1 ≠ 2 ∧ portState t 1 = 1 ∧ (port t 1).probing = true
    ∧ (port t 1).probes = [] ∧ portSends s 1 = true ∧ portSends t 1 = false ∧ (port s 1).resend = f :: [] ∧ (port s 1).replay.length < 256 ∧ (port s 1).q0 = msg1 :: []
    ∧ 0 < (port s 1).cr0 ∧ portState s 1 = 2 ∧ NoArm s (Reg.skovubPage 1) 0 ∧ (port s 1).recvSeq = 0 ∧ (port s 1).resends < 8
    ∧ (port s 1).replay.findIdx? (fun f => f.seq = 5) = some 0 ∧ (port s 1).replay.findIdx? (fun f => f.seq = 6) = none
    ∧ (3 : BitVec 16) ∈ (port (port1 2 { probing := true, probes := [3] } (on 4)) 1).probes := by decide +kernel
/-- FLIT blocks read back; with a wrong check they are none. On two lanes the flit after the next one is early. -/
theorem witness_SkovubLink_flit : let l := flitBlocks (flitHead ⟨0, 0, msg1⟩ (ackBytes true 7 1 2)) (flitData msg1 ++ List.replicate (60 - (flitData msg1).length) 0)
    let s := put [(Reg.SK_PCFG 1, 0xC0000000), (Reg.SK_RTT_FCLK 1, 100)] (port1 2 {} (on 4))
    (List.replicate (60 - (flitData msg1).length) (0 : Byte)).length + (flitData msg1).length = 60
    ∧ readFlit l = some { seq := 0, cls := 0, ackValid := true, acked := 7, credits0 := 1, credits1 := 2 } ∧ l ≠ [] ∧ readFlit [{ sync := 0, bytes := [] }] = none
    ∧ flitEarly s 1 1 = true ∧ flitEarly s 1 2 = false ∧ flag s (Reg.SK_PCFG 1) 30 = true := by decide +kernel
theorem test_flit_sent : let t := after (.flitSend 1) (port1 2 { q0 := [msg1], cr0 := 1 } (on 4))
    (port t 1).q0.length = 0 ∧ (port t 1).cr0 = 0 ∧ (port t 1).replay = [{ seq := 0, cls := 0, msg := msg1 }] ∧ reg t (Reg.SK_FLITS_TX 1) = 1 := by decide +kernel

theorem witness_SkovubTree : let s := port1 1 {} (on 4)
    let t : State := { port1 2 {} (counting 512 (on 4)) with decisions := [{ p := 0, b := 412, ps := {} }] }
    let m := put [(Reg.SK_PMERGE 1, 0x80000000), (Reg.MG_CTL 0, 0x80000000), (Reg.MG_DEADLINE 0, 100), (Reg.PG_CTL (Reg.skovubPage 0), 1)] t
    portState s 1 = 2 ∧ s.phase.count % 256 = 0 ∧ portOn t 1 = true ∧ (port t 1).hbSince + 256 ≤ t.phase.count ∧ (port t 1).hbMissed < 2
    ∧ 2 ≤ (port (port1 2 { hbMissed := 2 } t) 1).hbMissed ∧ portDown t 1 = false ∧ t.phase.started = true ∧ flag m (Reg.SK_PMERGE 1) 31 = true ∧ 2 ≤ role m
    ∧ flag m (Reg.PG_CTL (Reg.skovubPage 0)) 0 = true ∧ flag m (Reg.MG_CTL 0) 31 = true ∧ fld m (Reg.MG_DEADLINE 0) 14 0 ≤ m.phase.count
    ∧ (findDecision m 0 412).isSome = true ∧ flag m (Reg.MG_CTL 0) 30 = false ∧ ageOf m 16 0 412 = 100 ∧ role (port1 3 {} (on 4)) = 3 := by decide +kernel
theorem witness_SkovubTree_uplink : let s := put [(Reg.SK_UPLINK, 0x80000100), (Reg.SK_ROLE, 0x100), (Reg.PG_CTL (Reg.skovubPage 0), 1)] (port1 1 {} (counting 512 (on 4)))
    uplinkPort s = some 1 ∧ 0 ≤ ageOf s 16 0 412 ∧ ageOf s 16 0 412 ≤ s.phase.count ∧ s.accepts.length < 1024 ∧ ageOf s 16 0 600 < 0
    ∧ enField (put [(Reg.CP_PCTL 0, 0x80000000), (Reg.PG_CTL Reg.copyistPage, 1)] s) Reg.copyistPage (Reg.CP_PCTL 0) 31 = true := by decide +kernel
/-- A merge in mode 1 with its table in Inkwell SRAM and an open instance whose node 0 waits for its one input. -/
theorem witness_SkovubTree_table : let s := wrWord (dx { inst7 [.waiting] with b := 412 } {} (port1 2 {} (counting 512 (on 4)))) (tplBase 1 + 0x40) 0x84000000
    let m := put [(Reg.SK_PMERGE 1, 0x80000000), (Reg.MG_CTL 0, 0xC0000100), (Reg.MG_DEADLINE 0, 100), (Reg.MG_TBASE 0, 0x1C000000), (Reg.PG_CTL (Reg.skovubPage 0), 1)] s
    flag m (Reg.MG_CTL 0) 30 = true ∧ fld m (Reg.MG_CTL 0) 15 8 = 1 ∧ fld m (Reg.MG_CTL 0) 21 16 = 0 ∧ fld m (Reg.MG_TBASE 0) 31 7 * 128 + 7 * 128 < 0x1E000000
    ∧ (m.ductus.insts.find? (fun x => x.tpl = 1 && x.b = 412 && x.pid = 0)).isSome = true ∧ (findInst m 7).isSome = true ∧ instLate m { inst7 [.waiting] with b := 412 } = false
    ∧ 1 ≤ nodeInputs m 1 0 ∧ tokensUsed m < 131072 := by decide +kernel
/-- A standby whose primary is down and that has seen the quorum for three boundaries takes over. -/
theorem witness_SkovubTree_takeover : let s : State := { put [(Reg.SK_UPLINK, 0x80000100), (Reg.SK_PSTAT 1, 0xA0000000)] (port1 3 {} (counting 0 (on 4))) with mgt := { quorumRuns := 3 } }
    role s = 3 ∧ flag s Reg.SK_ROLE 4 = false ∧ s.phase.now.index = 0 ∧ portDown s (primaryPort s) = true ∧ 3 ≤ s.mgt.quorumRuns := by decide +kernel
/-- R292: the merge ORs the fragments of its members; a missing one gives its absent bits. -/
theorem test_merge : let s : State := { port1 2 { frags := [(412, { d0 := 0, d1 := 6, d2 := 0, d3 := 0 })] } (counting 512 (on 4)) with decisions := [{ p := 0, b := 412, ps := {} }] }
    let m := put [(Reg.SK_PMERGE 1, 0x80000000), (Reg.SK_PMERGE 2, 0x80000009), (Reg.MG_CTL 0, 0x80000000), (Reg.MG_DEADLINE 0, 100), (Reg.PG_CTL (Reg.skovubPage 0), 1)] s
    (after (.mergeClose 0) m).decisions.map (fun d => (d.bits, d.missing)) = [(15, 1)] := by decide +kernel

theorem witness_RemoteRequests : let r : RemoteReq := { tag := 7 }
    let s := port1 2 { remotes := [r] } (on 4)
    role (on 4) < 2 ∧ 2 ≤ role s ∧ portDown s 1 = false ∧ portDown (put [(Reg.SK_PSTAT 1, 0xA0000000)] s) 1 = true ∧ portState s 1 = 2
    ∧ (port s 1).remotes.find? (fun r => r.tag = 7) = some r ∧ r.back = none ∧ r.poll = none ∧ r.reader = .host ∧ (port s 1).remotes = r :: []
    ∧ (port s 1).remotes.find? (fun r => r.tag = 8) = none ∧ portState (on 4) 1 ≠ 2 := by decide +kernel
theorem witness_RemoteRequests_readers : let s := port1 2 { remotes := [{ tag := 7, reader := .thread 8 0x4000 }, { tag := 8, poll := some 2 }, { tag := 9, back := some (3, 5) }] } (with8 { at8 [] with state := .blocked, waitPort := some (0x4000, 3) })
    ((port s 1).remotes.find? (fun r => r.tag = 7)).map (·.reader) = some (.thread 8 0x4000) ∧ (thread s 8).state = .blocked ∧ (thread s 8).waitPort = some (0x4000, 3)
    ∧ (thread s 8).pfx = .none ∧ (thread s 8).stepping = false ∧ ((port s 1).remotes.find? (fun r => r.tag = 8)).bind (·.poll) = some 2
    ∧ ((port s 1).remotes.find? (fun r => r.tag = 9)).bind (·.back) = some (3, 5) := by decide +kernel
theorem test_window_read_of_peer_down : (after (.remoteWindowRead 1 0) (put [(Reg.SK_PSTAT 1, 0xA0000000)] (port1 2 {} (on 4)))).resp = [0x00700101] := by decide +kernel

/-! ## Signet, Blotter, modes, resets (R301–R356) -/

/-- The journal is ready with memory `n`, and `g` is the Signet. -/
def signet0 (g : Signet) (s : State) : State := { put [(Reg.SIG_STAT, 0x10000000)] s with signet := { g with journalBytes := 0x10000 } }
theorem witness_SignetIsland : let s := signet0 { queue := [(1, 0xF, {}, [0, 0, 0, 0, 0, 0])], seals := [(0x5A, 7)], session := some 0x10007, dipFrom := some 3 } (on 4)
    let u := signet0 { session := some 0x10007 } (on 4)
    flag s Reg.SIG_STAT 28 = true ∧ s.signet.breaks < s.signet.seals.length ∧ ¬ u.signet.breaks < u.signet.seals.length ∧ s.signet.queue.length < 64 ∧ s.signet.queue ≠ []
    ∧ s.signet.dipFrom = some 3 ∧ s.signet.dipLong = false ∧ u.signet.dipFrom = none ∧ s.signet.session = some 0x10007 ∧ ((0x10007 : Word).setWidth 16 : BitVec 16) = 7
    ∧ ((0x10007 : Word).setWidth 16 : BitVec 16) ≠ 8 ∧ u.signet.seals.length < 65 ∧ s.signet.breaks < 64 ∧ NoArm s Reg.signetPage 4
    ∧ fld (put [(Reg.SIG_CFG, 0x10005A)] s) Reg.SIG_CFG 23 20 ≠ 0 ∧ s.signet.queue.length + 16 ≤ 64
    ∧ (signet0 { tallies := [(512, 5)] } (on 4)).signet.ckptAt + 2 ^ fld (put [(Reg.SIG_CFG, 0x10005A)] s) Reg.SIG_CFG 23 20 ≤ Tbl.get (fun _ => 0) (signet0 { tallies := [(512, 5)] } (on 4)).signet.tallies (32 * 16) := by decide +kernel
theorem witness_SignetIsland_reading : let r : Reading := { num := 0, who := 16, body := [], written := some none }
    let s := signet0 { making := [r], journal := [(0, 4, List.replicate 32 0)], audRec := 4, finished := [(16, [1])] } (on 4)
    s.signet.making.find? (fun r => r.written.isSome) = some r ∧ r.written = some none ∧ (s.signet.journal.find? (fun r => r.2.1 = s.signet.audRec)).isSome = true
    ∧ r ∈ s.signet.making ∧ r.who = 16 ∧ Tbl.get (fun _ => []) s.signet.finished 16 = [1] ∧ s.signet.journal.find? (fun r => r.2.1 = 9) = none := by decide +kernel
/-- R304: a tally reads as 20 decimal digits. -/
theorem test_tally : reg (after .sigTallyRead (signet0 { tallies := [(512, 1234567890)] } (put [(Reg.SIG_SEL, 0x100)] (on 4)))) Reg.SIG_TALLY_D0 = 0x34567890 := by decide +kernel

theorem witness_BlotterAndFaults : let s := put [(Reg.BL_WDT, 0x80000064), (Reg.BL_INJECT_CTL, 1), (Reg.SIG_STAT, 0x10000000)] (on 4)
    let b : State := { s with blotter := { wdtLeft := 5, aliveOn := true, intervals := [{ kind := 1, unit := 2, parts := 1, opened := 0 }] } }
    hasHeader Reg.phasePage = true ∧ hasHeader 0x700 = false ∧ flag s (Reg.PG_FERR_SRC Reg.phasePage) 31 = false ∧ flag s (Reg.PG_ERR_MODE Reg.phasePage) 0 = true
    ∧ flag s Reg.BL_FIRST_PAGE 31 = false ∧ domainOn s 2 = true ∧ fatal s = false ∧ severity s Reg.blotterPage 3 = 3 ∧ severity s Reg.phasePage 5 = 0 ∧ severity s Reg.phasePage 8 = 2
    ∧ (∃ i ∈ b.blotter.intervals, i.done = none) ∧ b.blotter.aliveOn = true ∧ b.blotter.aliveStopped = false ∧ flag b Reg.BL_WDT 31 = true ∧ b.blotter.wdtLeft ≠ 0
    ∧ flag s Reg.BL_INJECT_CTL 0 = true ∧ isCheck Reg.blotterPage 6 = true := by decide +kernel
theorem witness_BlotterAndFaults_nibs : let s := modNib (with8 (at8 [])) 1 (fun n => { n with hangRuns := 4 })
    let f := modNib s 1 (fun n => { n with fenceDue := true })
    let d : State := { counting 9 (on 4) with blotter := { intervals := [{ kind := 1, unit := 2, parts := 1, opened := 0, done := some 3 }] } }
    (nib s 1).fenced = false ∧ (nib s 1).fenceDue = false ∧ flag s (Reg.PG_CTL (Reg.nibPage 1)) 0 = true ∧ (thread s 8).state = .running ∧ (nib s 1).retired = false
    ∧ flag (put [(Reg.PG_CTL (Reg.nibPage 2), 0)] s) (Reg.PG_CTL (Reg.nibPage 2)) 0 = false ∧ ((List.range 128).all fun m => m == 1 || nibPid (put [(Reg.NIB_PID 1, 1)] f) m != nibPid (put [(Reg.NIB_PID 1, 1)] f) 1) = true
    ∧ 5 ≤ (nib s 1).hangRuns + 1 ∧ (nib f 1).fenceDue = true ∧ fatal f = false ∧ (nib f 2).fenced = false ∧ nibPid f 2 = nibPid f 1
    ∧ (d.blotter.intervals.find? (fun i => i.done.any (fun c => decide (c < d.phase.count)))).isSome = true := by decide +kernel
theorem test_watchdog_is_fatal : fatal (after .wdtExpire { put [(Reg.BL_WDT, 0x80000064)] (on 4) with blotter := { wdtLeft := 5 } }) = true := by decide +kernel
theorem test_hang : (nib (after .hangSample (modNib (with8 (at8 [])) 1 (fun n => { n with hangRuns := 3 }))) 1).hangRuns = 4 := by decide +kernel

theorem witness_DeviceModes : (on 1).mgt.held = false ∧ flag (on 1) Reg.MODE_CUR 31 = false ∧ ¬ (mode (on 1) = 7 ∧ flag (on 1) Reg.TEST_STAT 31 = true) ∧ mode (on 1) = 1
    ∧ role (on 1) = 0 ∧ role (put [(Reg.STRAPS, 2)] (on 1)) ≠ 0 ∧ ((List.range 4).all fun g => domainOn (on 1) (4 + g)) = true ∧ 2 ≤ partState (on 1) 0
    ∧ ((List.range 16).all fun p => !(decide (3 ≤ partState (on 1) p ∧ partState (on 1) p ≤ 6))) = true ∧ 3 ≤ partState (part1 3 (on 3)) 1 ∧ partState (part1 3 (on 3)) 1 ≤ 6
    ∧ mode State.reset = 0 ∧ mode (on 5) = 5 ∧ reg State.reset Reg.PD_STAT = 3 ∧ reg State.reset Reg.PD_CTL &&& 0xFFFF08 = 0 := by decide +kernel
theorem witness_DeviceModes_run : let s := put [(Reg.SC_FIT, 0x80000000), (Reg.PH_STAT, 7), (Reg.DDR_IMODE 0, 0xC00)] (on 3)
    flag s Reg.SC_FIT 31 = true ∧ flag s Reg.PH_STAT 1 = true ∧ flag s Reg.PH_CTL 1 = false ∧ ((List.range 4).all fun c => !flag s (Reg.DDR_CTL c) 0) = true
    ∧ flag s Reg.IW_DCFG 31 = false ∧ flag s (Reg.DDR_IMODE 0) 31 = false ∧ flag s Reg.TEMP_STAT 31 = false ∧ flag (on 3) Reg.SC_FIT 31 = false := by decide +kernel
theorem witness_DeviceModes_pending : let s := fun (q : Seq) (l : List (Nat × Bool)) => ({ put [(Reg.MODE_CUR, 0xB0000001)] (on 1) with mgt := { seq := some q, switches := l } } : State)
    let d := put [(Reg.MODE_CUR, 0xB0000005)] (on 5)
    flag (s .s1 []) Reg.MODE_CUR 31 = true ∧ (s .s1 []).mgt.switches.isEmpty = true ∧ fatal (s .s7 []) = false ∧ (s .s6 []).mgt.seq = some .s6
    ∧ ((List.range 128).all fun n => laneState (s .s7 []) n == 0) = true ∧ (s .s1 [(4, true)]).mgt.switches = (4, true) :: [] ∧ (s .s2 [(4, false)]).mgt.switches = (4, false) :: []
    ∧ mode d = 5 ∧ flag d Reg.MODE_CUR 31 = true ∧ flag d Reg.PH_STAT 3 = false ∧ d.phase.admissions = [] ∧ d.phase.admissionDue = none ∧ fatal d = false
    ∧ d.decisions.isEmpty = true ∧ d.decBatch.isEmpty = true ∧ ((List.range 16).all fun p => enginesOf d p == 0 && workOf d p == 0) = true := by decide +kernel
theorem test_boot_starts : let t := after (.requestBoot true) State.reset
    flag t Reg.MODE_CUR 31 = true ∧ t.mgt.switches.map (·.1) = [2, 4, 5, 6, 7] := by decide +kernel
theorem test_run_needs_fit : fld (after (.requestRun false) (on 3)) Reg.MODE_CUR 23 16 = 1 := by decide +kernel

theorem witness_ResetsAndBoot : let h : State := { State.reset with mgt := { held := true } }
    let b : State := { on 1 with mgt := { boot := .booting, dip := true } }
    h.mgt.held = true ∧ State.reset.mgt.boot = .ready ∧ State.reset.mgt.held = false ∧ bits (0xB0070001 : Word) 31 16 = 0xB007 ∧ b.mgt.boot = .booting ∧ flag b Reg.MODE_CUR 31 = false
    ∧ mode b ≠ 0 ∧ fld b Reg.STRAPS 3 2 = 0 ∧ fld (put [(Reg.STRAPS, 8)] b) Reg.STRAPS 3 2 = 2 ∧ b.mgt.dip = true ∧ bits (0x5B0E0005 : Word) 31 16 = 0x5B0E ∧ b.mgt.svn < 5
    ∧ (State.reset.blotter.aliveOn = false) ∧ flag (signet0 {} (on 1)) Reg.SIG_STAT 28 = true ∧ (signet0 {} (on 1)).signet.queue.length < 63 := by decide +kernel
/-- R377: an image without sections has no valid header. -/
theorem witness_ResetsAndBoot_image : let f := List.replicate 32 (0 : Byte)
    ¬ (leNat (f.take 4) = 0x59564249 ∧ leNat ((f.drop 4).take 2) = 1) := by decide +kernel
/-- R350: a warm reset clears the count and leaves the ROM ready. -/
theorem test_warm_reset : (after (.rstWarm 0xB0070001) (counting 3 (on 4))).phase = {} ∧ (after (.rstWarm 0xB0070001) (counting 3 (on 4))).mgt.boot = .ready := by decide +kernel
theorem test_boot_rom_starts : (after .bootRomStart State.reset).mgt.boot = .booting := by decide +kernel

/-! ## Counters, management and test (R358–R382) -/

theorem witness_PerformanceCounters : let n := Reg.nibPage 1
    let s := put [(Reg.PC_SEL 1 0, 0x80000000), (Reg.PC_SEL 1 1, 0x80000001)] (on 4)
    pageOn s n = true ∧ pageOn State.reset n = false ∧ pageOn s (Reg.quillPage 3) = true ∧ flag s (Reg.PC_SEL 1 0) 31 = true ∧ flag s (Reg.PC_SEL 1 2) 31 = false
    ∧ fld s (Reg.PC_SEL 1 1) 7 0 = 1 ∧ ((List.range 8).all fun i => !flag (on 4) (Reg.PC_SEL 1 i) 31) = true ∧ bits (0x17 : Word) 7 0 = 0x17 ∧ bits (0x4B : Word) 7 0 = 0x4B
    ∧ flag (on 4) Reg.PF_CTL 0 = false ∧ flag (put [(Reg.PF_CTL, 1)] (on 4)) Reg.PF_CTL 0 = true ∧ bits (0x80000000 : Word) 30 0 = 0 ∧ bits (0x80000001 : Word) 30 0 = 1
    ∧ flag (put [(Reg.PF_WIN, 0x80000010)] (on 4)) Reg.PF_WIN 31 = true ∧ (on 4).phase.counting = false := by decide +kernel
theorem witness_PerformanceCounters_freeze : ((List.range 129).all fun n => (List.range 8).all fun i => !flag State.reset (Reg.PC_SEL n i) 31) = true
    ∧ ((List.range 16).all fun q => (List.range 4).all fun i => !flag State.reset (Reg.QPC_SEL q i) 31) = true := by decide +kernel
/-- R359: a read of LO latches the high bits, which a stopped counter keeps. -/
theorem test_counter_latch : let s := after (.counterRead (Reg.nibPage 1) 2) (put [(Reg.PC_CNT_LO 1 2, 5), (Reg.PC_CNT_LO 1 2 + 4, 7)] (on 4))
    s.resp = [5] ∧ Tbl.get (fun _ => 0) s.perf.latched (Reg.PC_CNT_LO 1 2) = 7 := by decide +kernel
theorem test_window_end : let t := after .pfWindowEnd { on 4 with perf := { bytes := [(3, 0x200000005), (50, 9)] } }
    reg t (Reg.PF_BW_LO 3) = 5 ∧ Tbl.get (fun _ => 0) t.perf.bwHi 3 = 2 ∧ reg t (Reg.PF_BW_LO 50) = 0 ∧ reg t Reg.PF_WSTAT = 1 := by decide +kernel

theorem witness_ManagementAndTest : let s := on 4
    let h : State := { s with mgt := { mbHeld := [(2, 0x55)] } }
    let m := wrWord (wrWord (put [(Reg.MN_CTL, 0x80000000), (Reg.PG_CTL Reg.mgtnetPage, 1), (Reg.MN_RX_RING, 0x20000000), (Reg.MN_TX_RING, 0x20000100)] s) 0xC000000 0x40000010) 0xC000004 0x01000000
    let x := wrWord (wrWord m 0xC000100 0x40000010) 0xC000104 0x01000040
    (nib s 128).fenced = false ∧ (chan s 128 5).readers = [] ∧ (chan s 128 5).msgs.length + (chan s 128 5).claimed < 16 ∧ (∃ e ∈ h.mgt.mbHeld, e.1 = 2)
    ∧ h.mgt.mbHeld.find? (fun e => e.1 = 2) = some (2, 0x55) ∧ ¬ (∃ e ∈ h.mgt.mbHeld, e.1 = 1)
    ∧ flag m (Reg.PG_CTL Reg.mgtnetPage) 0 = true ∧ flag m Reg.MN_CTL 31 = true ∧ NoArm m Reg.mgtnetPage 0 ∧ bit (rd m 0xC000007) 0 = true ∧ bits (rdWord m 0xC000000) 31 30 = 1
    ∧ bits (rdWord m 0xC000000) 29 0 = 16 ∧ bit (rd x 0xC000107) 0 = true ∧ bits (rdWord x 0xC000100) 31 30 = 1 ∧ rdLe x 0xC000104 2 = 64
    ∧ s.mgt.held = false ∧ domainOn s 1 = true ∧ s.mgt.brdOff < 0x1000000 := by decide +kernel
theorem witness_ManagementAndTest_full : let s := modChan (on 4) 128 5 (fun c => { c with msgs := List.replicate 16 [0, 0] })
    ¬ (chan s 128 5).msgs.length + (chan s 128 5).claimed < 16 ∧ ({ s with mgt := { held := true } } : State).mgt.held = true := by decide +kernel
theorem witness_ManagementAndTest_bist : let s := put [(Reg.TEST_DOMAIN, 0x48000000)] (on 7)
    let b : State := { put [(Reg.TEST_STAT, 0x80000000)] (on 7) with mgt := { bist := [(9, 1)] } }
    mode s = 7 ∧ mode (on 4) ≠ 7 ∧ flag s Reg.TEST_STAT 31 = false ∧ flag b Reg.TEST_STAT 31 = true ∧ fld s Reg.TEST_DOMAIN 31 27 = 9 ∧ fld (on 7) Reg.TEST_DOMAIN 31 27 = 2 ∧ fld (put [(Reg.TEST_DOMAIN, 0)] (on 7)) Reg.TEST_DOMAIN 31 27 = 0
    ∧ b.mgt.bist = (9, 1) :: [] ∧ s.mgt.bist = [] := by decide +kernel
theorem test_idcode : (after .idcode State.reset).resp = [0x16440B53] := by decide +kernel
/-- R373: the identity, with its packet error code. -/
theorem test_board_id : (after .brdReadId State.reset).resp.take 5 = [4, 0x64, 0x40, 0x0A, 0x01] := by decide +kernel
theorem test_mbist_all : let t := after .mbistAll (on 7)
    t.mgt.bist.length = 22 ∧ flag t Reg.TEST_STAT 31 = true := by decide +kernel
theorem test_mailbox_to_host : (after (.mbToHostWrite 2 0x77) (on 4)).out = [.msix 6] := by decide +kernel

/-! ## Register pages, reset, the step (R383–R400) -/

theorem witness_RegisterPages : let s := on 3
    let c := Reg.copyistPage
    let w : State → Nat → Bool := fun t p => hasHeader p && pageOn t p
    hasHeader 0x700 = false ∧ pageOn State.reset c = false ∧ w s c ∧ w s 0x1000 ∧ w s 0 ∧ w s (Reg.quillPage 2) ∧ w s (Reg.lanePage 7) ∧ w s (Reg.skovubPage 1) ∧ w s (Reg.ddrPage 0)
    ∧ w s (Reg.nibPage 1) ∧ mode (on 5) = 5 ∧ mode s = 3 ∧ w (on 5) c ∧ flag s (Reg.PG_CTL (Reg.lanePage 7)) 0 = true ∧ laneMode s 7 ≠ 4
    ∧ partState (part1 3 (on 3)) 1 = 3 ∧ partState s (nibPid s 1) = 2 ∧ s.writer = none ∧ flag (put [(Reg.PG_CTL c, 5)] s) (Reg.PG_CTL c) 2 = true
    ∧ begun (put [(Reg.PG_CTL c, 5)] s) c = false := by decide +kernel
theorem witness_RegisterPages_nib : let s := setReg (part1 3 (on 3)) (Reg.NIB_PID 1) 1
    partState s (nibPid s 1) = 3 ∧ nibPid s 1 ≠ nibPid s 2 := by decide +kernel
theorem witness_RegisterPages_write : let s := put [(Reg.PG_CTL Reg.copyistPage, 8)] (on 3)
    (Reg.copyistPage + 0x204) % 4 = 0 ∧ (pageAt ((Reg.copyistPage + 0x204) / 0x1000)).map Prod.fst = some .copyist ∧ (regRow (Reg.copyistPage + 0x204)).isSome = true
    ∧ (regRow (Reg.skovubPage 0 + 0x200)).isSome = true ∧ (regRow (Reg.nibPage 1 + 0x140)).isSome = true ∧ (regRow (Reg.lanePage 1 + 0x108)).isSome = true
    ∧ flag s (Reg.PG_CTL Reg.copyistPage) 3 = true ∧ regRow (Reg.copyistPage + 0xFFC) = none ∧ (128 ≤ (0x8F : Mid).toNat ∧ ¬ ((0x8F : Mid) = 0x80 ∨ 0x90 ≤ (0x8F : Mid).toNat))
    ∧ s.mgt.boot ≠ .waitHost ∧ pageOn s Reg.perfPage = true := by decide +kernel
theorem witness_RegisterPages_rows : (pageAt 0x100).isSome = true
    ∧ ([(PageKind.sgroup, 0x100), (.lane, 0x108), (.nib, 0x140), (.copyist, 0x204), (.skovub, 0x200), (.part, 0x118), (.boot, 0x10C), (.perf, 0x110)].all fun e =>
      (List.range 0x400).any fun p => (pageAt p).map Prod.fst == some e.1 && (regRow (p * 0x1000 + e.2)).isSome) = true := by decide +kernel
/-- R388: the lock is set and stays. -/
theorem test_lock_stays : flag (after (.pgLock Reg.copyistPage false) (after (.pgLock Reg.copyistPage true) (on 3))) (Reg.PG_CTL Reg.copyistPage) 3 = true := by decide +kernel
theorem test_quill_enable : flag (after (.pgEnable (Reg.quillPage 2) false) (on 3)) (Reg.PG_CTL (Reg.quillPage 2 + 0x3000)) 0 = false := by decide +kernel
/-- R383: reserved bits ignore a write; R388: an RWL field takes none while its page is locked. -/
theorem test_register_write_masks : let s := put [(Reg.PG_CTL (Reg.skovubPage 3), 9)] (on 3)
    reg (after (.registerWrite 0x80 Reg.BT_I2C 0xFFFFFFFF) s) Reg.BT_I2C = 0x7F ∧ reg (after (.registerWrite 0x80 (Reg.skovubPage 3 + 0x110) 0x80000001) s) (Reg.skovubPage 3 + 0x110) = 0
    ∧ reg (after (.registerWrite 0x80 (Reg.lanePage 3 + 0x10C) 0xFFFFFFFF) s) (Reg.lanePage 3 + 0x10C) = 0xFFFF := by decide +kernel

theorem witness_StepRunsFrontCommand : State.reset.pending = [] := by decide +kernel
theorem test_step_front : step { State.reset with pending := [.extest, .idcode] } = .next { State.reset with pending := [.idcode], mgt := { State.reset.mgt with tapIr := 0 } } := rfl
theorem witness_StepKeepsMemoryCanonical : let s : State := { wrWord (with8 (at8 [(3, 0x123)])) 0x40 0x55 with pending := [.idcode] }
    Memory.wf s.mem = true ∧ s.mem ≠ [] ∧ (match step s with | .next t => Memory.wf t.mem | _ => false) = true := by decide +kernel
theorem witness_ResetState : mode State.reset = 0 ∧ reg State.reset Reg.DEVICE_ID = 0x64400A01 ∧ State.reset.mem = [] := by decide +kernel

/-! ## What the checks of WellFormed refuse -/

theorem test_wf_head : Instr.wf (.headerCapture 0 (List.replicate 65 0)) = false ∧ Instr.wf (.headerCapture 0 (List.replicate 64 0)) = true := by decide
theorem test_wf_atomics : Instr.wf (.hostFetchadd 0 1 5) = false ∧ Instr.wf (.hostSwap 0 1 0) = false ∧ Instr.wf (.hostCas 0 1 2 5) = false ∧ Instr.wf (.hostCas 0 1 2 16) = true ∧ Instr.wf (.hostCas 0 1 2 8) = true := by decide
theorem test_wf_reports : Instr.wf (.errorReport 0x1004 0 0 0x80 0) = false ∧ Instr.wf (.errStickyClear 0x20000000 1) = false ∧ Instr.wf (.injectArm 0x1800 1) = false
    ∧ Instr.wf (.errStickyClear 0x1000 1) = true := by decide
theorem test_wf_counters : Instr.wf (.pcSelWrite 0x100001 0 0) = false ∧ Instr.wf (.counterRead 0x100FFF 0) = false ∧ Instr.wf (.counterWrite 0x30000000 0 true 0) = false := by decide
theorem test_wf_pages : Instr.wf (.pgEnable 0x1001 true) = false ∧ Instr.wf (.pgFreeze 0x1002 true) = false ∧ Instr.wf (.pageFrozen 0x1800) = false
    ∧ Instr.wf (.pgSoftReset 0x20000000) = false ∧ Instr.wf (.pgLock 0x1010 true) = false ∧ Instr.wf (.irqRawClear 0x1014 1) = false := by decide
theorem test_wf_register : Instr.wf (.registerWrite 0x80 0x1002 0) = false ∧ Instr.wf (.registerWrite 0x80 0x1004 0) = true := by decide
theorem test_decode_none : decodeTableWord 32 0x12345678 = none := rfl

end Sys2Proof.Tests
end

section
/-! PROOFS. The state after the power-on reset (O59). -/

namespace Sys2Proof.Machine

/-! ## The state after reset (R8, R145, R344, R384) -/

/-- Right after reset every register reads its reset value (R344, R384). -/
@[simp] theorem reg_reset (a : Nat) : reg State.reset a = regReset a := rfl

/-- Right after reset every thread is as a thread reset leaves it (R145, R146). -/
@[simp] theorem thread_reset (t : Nat) : thread State.reset t = threadReset t := rfl

/-- The level of a thread right after reset (R104). -/
theorem stReset_level (t : Nat) : bits (stReset t) 31 30 = if 1024 ≤ t then 3 else if t % 8 = 0 then 1 else 0 := by
  unfold stReset
  split
  · rfl
  · split <;> rfl

/-- The reset values of a lane's control and status registers (R54, R69). -/
theorem regReset_lane : ∀ n < 128, regReset (Reg.LANE_CTL n) = 0x9008 ∧ regReset (Reg.LANE_STAT n) = 0 := by decide

/-- No lane is bonded to its neighbour right after reset (R68). -/
theorem linkOf_reset {n : Nat} (h : n < 128) : linkOf State.reset n = n := by
  have hm : laneMode State.reset n = 0 := by
    simp only [laneMode, fld, reg_reset, (regReset_lane n h).1]; rfl
  simp [linkOf, hm]

/-- Every lane is OFF right after reset (R69). -/
theorem laneState_reset {n : Nat} (h : n < 128) : laneState State.reset n = 0 := by
  simp only [laneState, linkOf_reset h, fld, reg_reset, (regReset_lane n h).2]; rfl

/-- The enable bit and the capture mode of a page header reset to 1 (R384). -/
theorem regReset_header : ∀ p ∈ [0, 0x1000, 0xA0000, 0xB0000, 0x100000],
    regReset (Reg.PG_CTL p) = 1 ∧ regReset (Reg.PG_ERR_MODE p) = 1 := by decide

/-- Settles O59: the reset state lists nothing, so every view of it reads the default of its key; the named registers are
read off the register map. -/
theorem resetState : Obligations.ResetState := by
  unfold Obligations.ResetState
  refine ⟨reg_reset, by decide, by decide, by decide, by decide, by decide, by decide, by decide, by decide, by decide,
    by decide, by decide, by decide, ?lanes, regReset_header, ?threads, fun _ _ _ _ => rfl, fun _ _ _ _ => rfl,
    fun _ _ => ⟨rfl, rfl⟩, fun _ => rfl, rfl, rfl, rfl, rfl⟩
  case lanes => exact fun n hn => ⟨(regReset_lane n hn).1, laneState_reset hn⟩
  case threads => exact fun t _ => ⟨rfl, rfl, fun _ _ => rfl, stReset_level t⟩

end Sys2Proof.Machine
end

section
/-! PROOFS. INs and OUTs outside a repeat, blocked INs that end, and the timers, alarms and phase port (O22). -/

namespace Sys2Proof.Machine

/-! ## Ports without a prefix (R123, R149) -/

/-- An IN on a port of its row, with no prefix before it, does what the port does. -/
theorem inRow_bare {ports : Nat → Bool} {f : Nat → Nat → State → InRes} {t p : Nat} {w : Word} {s : State}
    (hb : Bare s t) (hp : portOf s t w = p) (ho : ports p = true) :
    inRow ports f t w s = match f t p s with
      | .give s v => .done (putIn s t (wD w) v)
      | .block s => .wait (modThread s t (fun th => { th with state := .blocked, waitPort := some (p, wD w) }))
      | .deny s => portDenied s p := by
  have hh : ∀ q, holdPort s t q = s := fun q => by simp [holdPort, hb]
  have hs : inStore s t (wD w) = [] := by simp [inStore, hb]
  unfold inRow
  simp only [hp, hh, ho, hs, memRes, accessFault, watchTrap]
  cases hf : f t p s <;> simp [readWords, hf]

/-- An OUT on a port of its row, with no prefix before it, sends W[d]. -/
theorem outRow_bare {ports : Nat → Bool} {f : Nat → Nat → Word → State → Option State} {t p : Nat} {w : Word} {s : State}
    (hb : Bare s t) (hp : portOf s t w = p) (ho : ports p = true) :
    outRow ports f t w s = match f t p (wreg s t (wD w)) s with
      | some s => .done s
      | none => portDenied s p := by
  have hh : ∀ q, holdPort s t q = s := fun q => by simp [holdPort, hb]
  unfold outRow
  simp only [hp, hh, ho, hb]
  cases f t p (wreg s t (wD w)) s <;> rfl

/-- An IN that issues with no prefix and good register fields runs its port. -/
theorem issue_in {ports : Nat → Bool} {f : Nat → Nat → State → InRes} {t p : Nat} {w : Word} {s : State} (ht : t < 1028)
    (hi : Issues s t) (hb : Bare s t) (hin : IsIn s t w p) :
    issue (inSpec ports f) t w s = applyRes s t false (inRow ports f t w s) := by
  obtain ⟨hop, ⟨hreg, hun⟩, -⟩ := hin
  exact issue_runs (r := inSpec ports f) ht hi (by simp [inSpec, hop])
    (by simp [earlyTrap, inSpec, hreg, hun, hb, prefixTrap]) (fun _ => by simp [hb])

/-- An OUT that issues with no prefix and good register fields runs its port. -/
theorem issue_out {ports : Nat → Bool} {f : Nat → Nat → Word → State → Option State} {t p : Nat} {w : Word} {s : State}
    (ht : t < 1028) (hi : Issues s t) (hb : Bare s t) (hout : IsOut s t w p) :
    issue (outSpec ports f) t w s = applyRes s t false (outRow ports f t w s) := by
  obtain ⟨hop, ⟨hreg, hun⟩, -⟩ := hout
  exact issue_runs (r := outSpec ports f) ht hi (by simp [outSpec, hop])
    (by simp [earlyTrap, outSpec, hreg, hun, hb, prefixTrap]) (fun _ => by simp [hb])

/-- An IN outside a repeat delivers to its destination register and ST. -/
theorem Only.putIn {s s1 : State} {t : Nat} {th : Thread} (h : Only s s1 t th) (hp : th.pfx = .none) (d : Nat) (v : PortVal) :
    Only s (Machine.putIn s1 t d v) t (tookIn th d v) := by
  have h1 : Only s (setSt s1 t (v.flags th.st)) t { th with st := v.flags th.st } :=
    h.mod (fun th' => { th' with st := v.flags th.st })
  have hpf : (thread (setSt s1 t (v.flags th.st)) t).pfx = .none := by rw [h1.2.1]; exact hp
  have he : Machine.putIn s1 t d v = setW (setSt s1 t (v.flags th.st)) t d v.value := by
    unfold Machine.putIn
    rw [h.2.1]
    simp only [hpf]
  rw [he]
  exact h1.mod (fun th' => { th' with w := Tbl.set (fun _ => 0) th'.w d v.value })

/-- An IN whose port gives `v`, having changed the thread alone, completes with `v`. -/
theorem in_completes {ports : Nat → Bool} {f : Nat → Nat → State → InRes} {t p : Nat} {w : Word} {s s1 : State} {v : PortVal}
    {th : Thread} (ht : t < 1028) (hi : Issues s t) (hb : Bare s t) (hin : IsIn s t w p) (ho : ports p = true)
    (hf : f t p s = .give s1 v) (h : Only s s1 t th) (hth : th.stepping = false)
    (hpc : th.pc = (thread s t).pc ∧ th.pfx = (thread s t).pfx) :
    Completes s t (tookIn th (wD w) v) (issue (inSpec ports f) t w s) := by
  rw [issue_in ht hi hb hin, inRow_bare hb hin.2.2 ho, hf]
  exact done_beside ht (h.putIn (hpc.2.trans hb) (wD w) v) hth hpc

/-- An IN whose port has nothing to give blocks its thread, and changes nothing else. -/
theorem in_blocks {ports : Nat → Bool} {f : Nat → Nat → State → InRes} {t p : Nat} {w : Word} {s : State} (ht : t < 1028)
    (hi : Issues s t) (hb : Bare s t) (hin : IsIn s t w p) (ho : ports p = true) (hf : f t p s = .block s) :
    Blocks s t w p (issue (inSpec ports f) t w s) := by
  have hst : (thread s t).stepping = false := hi.2.2.2.2
  rw [issue_in ht hi hb hin, inRow_bare hb hin.2.2 ho, hf]
  simp only [applyRes, thread_modThread_same]
  rw [stepEnd_off (by simpa using hst)]
  rfl

/-- An OUT whose port takes the word, changing the thread alone, completes. -/
theorem out_completes {ports : Nat → Bool} {f : Nat → Nat → Word → State → Option State} {t p : Nat} {w : Word} {s s1 : State}
    {th : Thread} (ht : t < 1028) (hi : Issues s t) (hb : Bare s t) (hout : IsOut s t w p) (ho : ports p = true)
    (hf : f t p (wreg s t (wD w)) s = some s1) (h : Only s s1 t th) (hth : th.stepping = false)
    (hpc : th.pc = (thread s t).pc ∧ th.pfx = (thread s t).pfx) :
    Completes s t th (issue (outSpec ports f) t w s) := by
  rw [issue_out ht hi hb hout, outRow_bare hb hout.2.2 ho, hf]
  exact done_beside ht h hth hpc

/-! ## Blocked INs that end (R153) -/

/-- Every thread number names a Nib or the Steward. -/
theorem nibOf_le_steward (t : Nat) : nibOf t ≤ 128 := by unfold nibOf; split <;> omega

/-- An instruction of any thread number retires within its Nib. -/
theorem retire_counted (s : State) (t : Nat) : Counted s (retire s t) (nibOf t) := by
  have hev : Counted s (pcEvent s t 0x01) (nibOf t) := by
    unfold pcEvent
    dsimp only
    split
    · exact Counted.refl s _
    · exact Counted.fold _ _ (fun s i hi => Counted.pcCount _ _ _ _ _ (nibOf_le_steward t) (by simpa using hi))
  exact hev.trans (Counted.retired true)

/-- `s'` differs from `s` at thread `t` alone. -/
def OnlyThread (s s' : State) (t : Nat) : Prop := ∃ th, Only s s' t th

theorem OnlyThread.refl (s : State) (t : Nat) : OnlyThread s s t := ⟨_, Only.refl s t⟩

theorem OnlyThread.mod {s s' : State} {t : Nat} (h : OnlyThread s s' t) (f : Thread → Thread) :
    OnlyThread s (modThread s' t f) t := by
  obtain ⟨th, h⟩ := h
  exact ⟨_, h.mod f⟩

theorem OnlyThread.putIn {s s' : State} {t : Nat} (h : OnlyThread s s' t) (d : Nat) (v : PortVal) :
    OnlyThread s (Machine.putIn s' t d v) t := by
  unfold Machine.putIn
  dsimp only
  split
  · refine OnlyThread.mod ?_ _
    split
    · exact (h.mod _).mod _
    · exact h.mod _
  · exact (h.mod _).mod _

theorem OnlyThread.countIteration {s s' : State} {t : Nat} (h : OnlyThread s s' t) :
    OnlyThread s (Machine.countIteration s' t) t := by
  unfold Machine.countIteration
  dsimp only
  split
  · exact (h.mod _).mod _
  · exact h.mod _

theorem OnlyThread.ite {s a b : State} {t : Nat} {c : Prop} [Decidable c] (ha : OnlyThread s a t) (hb : OnlyThread s b t) :
    OnlyThread s (if c then a else b) t := by
  split
  · exact ha
  · exact hb

/-- The thread alone has changed, and its unit ends: nothing beside it changes but what its Nib counts. -/
theorem OnlyThread.retires {s s' : State} {t : Nat} (h : OnlyThread s s' t) : Beside s (stepEnd (retire s' t) t) t := by
  obtain ⟨th, h⟩ := h
  have hr := (h.counted (retire_counted s' t)).1
  unfold stepEnd
  split
  · exact hr.trans (Beside.modThread _ t _).1
  · exact hr

/-- A delivery to a thread changes nothing beside it but what its Nib counts. -/
theorem deliverIn_beside (s : State) (t : Nat) (v : PortVal) : Beside s (deliverIn s t v) t := by
  unfold deliverIn
  cases waitsOn s t with
  | none => exact Beside.refl s t
  | some pd =>
    have took := fun f => ((OnlyThread.refl s t).putIn pd.2 v).mod f
    refine OnlyThread.retires (OnlyThread.ite (OnlyThread.mod ?_ _) ?_) <;>
      exact OnlyThread.ite (took _).countIteration ((took _).mod _)

/-- A delivery to a blocked thread outside a repeat: the IN completes, and the thread runs on after its unit. -/
theorem deliverIn_bare {s s1 : State} {t p d : Nat} {th : Thread} (v : PortVal) (h : Only s s1 t th)
    (hw : th.waitPort = some (p, d)) (hs : th.state = .blocked) (hp : th.pfx = .none) (hst : th.stepping = false)
    (hpc : th.pc = (thread s t).pc ∧ th.pfx = (thread s t).pfx) :
    Beside s (deliverIn s1 t v) t ∧ thread (deliverIn s1 t v) t
      = { tookIn th d v with pc := pcAfter s t, pfx := .none, state := .running, waitPort := none } := by
  have h1 := (h.putIn hp d v).mod (fun th => { th with
      waitPort := none
      state := if th.state = .blocked then .running else th.state
      before := if th.state = .halted then .running else th.before })
  generalize hs2 : modThread (putIn s1 t d v) t _ = s2 at h1
  have hnext : nextPc s2 t = nextPc s t := by simp [nextPc, instrPc, h1.2.1, tookIn, withW, hpc]
  have h2 := h1.mod (fun th => { th with pc := BitVec.ofNat 16 (nextPc s2 t), pfx := .none })
  have hrun : (thread (advancePc s2 t (nextPc s2 t)) t).state = .running := by
    rw [show thread (advancePc s2 t (nextPc s2 t)) t = _ from h2.2.1]; simp [tookIn, withW, hs]
  have he : deliverIn s1 t v = stepEnd (retire (advancePc s2 t (nextPc s2 t)) t) t := by
    unfold deliverIn
    simp only [waitsOn, h.2.1, hw, hp, hs2]
    simp [hrun]
  obtain ⟨hb, hth⟩ := h2.counted (retire_counted _ t)
  rw [he, stepEnd_off (by rw [show thread (retire (advancePc s2 t (nextPc s2 t)) t) t = _ from hth]; exact hst)]
  refine ⟨hb, ?_⟩
  rw [show thread (retire (advancePc s2 t (nextPc s2 t)) t) t = _ from hth, hnext]
  simp [tookIn, withW, hs, pcAfter]

/-! ## Timers and the phase port (R28–R30, R151) -/

/-- A thread with its timer `i` set. -/
def withTimer (th : Thread) (i : Nat) (x : Timer) : Thread := if i = 0 then { th with tmr0 := x } else { th with tmr1 := x }

@[simp] theorem withTimer_pc (th : Thread) (i : Nat) (x : Timer) : (withTimer th i x).pc = th.pc := by
  unfold withTimer; split <;> rfl
@[simp] theorem withTimer_pfx (th : Thread) (i : Nat) (x : Timer) : (withTimer th i x).pfx = th.pfx := by
  unfold withTimer; split <;> rfl
@[simp] theorem withTimer_stepping (th : Thread) (i : Nat) (x : Timer) : (withTimer th i x).stepping = th.stepping := by
  unfold withTimer; split <;> rfl
@[simp] theorem withTimer_waitPort (th : Thread) (i : Nat) (x : Timer) : (withTimer th i x).waitPort = th.waitPort := by
  unfold withTimer; split <;> rfl
@[simp] theorem withTimer_state (th : Thread) (i : Nat) (x : Timer) : (withTimer th i x).state = th.state := by
  unfold withTimer; split <;> rfl

/-- A timer is stored in its thread alone. -/
theorem setTimer_only (s : State) (t i : Nat) (x : Timer) : Only s (setTimer s t i x) t (withTimer (thread s t) i x) :=
  Only.modThread s t _

/-- An OUT to a timer's port starts or stops it (R151). -/
theorem tmrSet_completes {t i : Nat} {w : Word} {s : State} (ht : t < 1028) (hi : Issues s t) (hb : Bare s t) (h2 : i < 2)
    (hout : IsOut s t w (0x30 + i)) :
    Completes s t (withTimer (thread s t) i
      (if bits (wreg s t (wD w)) 23 0 = 0 then .off else .run (dueTick s (bits (wreg s t (wD w)) 23 0))))
      (issue tmrSetRow t w s) :=
  out_completes ht hi hb hout (by simp; omega) (by simp) (setTimer_only s t i _) (by simpa using hi.2.2.2.2) (by simp)

/-- An IN on a stopped timer returns EMPTY (R151). -/
theorem tmrWait_off {t i : Nat} {w : Word} {s : State} (ht : t < 1028) (hi : Issues s t) (hb : Bare s t) (h2 : i < 2)
    (hin : IsIn s t w (0x30 + i)) (ho : timer s t i = .off) :
    Completes s t (tookIn (thread s t) (wD w) (.fail stEmpty)) (issue tmrWaitRow t w s) :=
  in_completes ht hi hb hin (by simp; omega) (by simp [ho]) (Only.refl s t) hi.2.2.2.2 (by simp)

/-- An IN on an expired timer returns the SPS of its expiry and stops it (R151). -/
theorem tmrWait_expired {t i : Nat} {w x : Word} {s : State} (ht : t < 1028) (hi : Issues s t) (hb : Bare s t) (h2 : i < 2)
    (hin : IsIn s t w (0x30 + i)) (hx : timer s t i = .expired x) :
    Completes s t (tookIn (withTimer (thread s t) i .off) (wD w) (.data x)) (issue tmrWaitRow t w s) :=
  in_completes ht hi hb hin (by simp; omega) (by simp [hx]) (setTimer_only s t i .off) (by simpa using hi.2.2.2.2) (by simp)

/-- An IN on a running timer waits (R151). -/
theorem tmrWait_run {t i n : Nat} {w : Word} {s : State} (ht : t < 1028) (hi : Issues s t) (hb : Bare s t) (h2 : i < 2)
    (hin : IsIn s t w (0x30 + i)) (hn : timer s t i = .run n) : Blocks s t w (0x30 + i) (issue tmrWaitRow t w s) :=
  in_blocks ht hi hb hin (by simp; omega) (by simp [hn])

/-- An IN on an alarm of the thread's partition waits; on another's it is DENIED (R28, R29). -/
theorem alarmWait_own {t n : Nat} {w : Word} {s : State} (ht : t < 1028) (hi : Issues s t) (hb : Bare s t) (hn : n < 16)
    (hin : IsIn s t w (0x40 + n)) (hp : alarmPid s n = tidPid s t) : Blocks s t w (0x40 + n) (issue alarmWaitRow t w s) :=
  in_blocks ht hi hb hin (by simp; omega) (by rw [show (0x40 + n) % 16 = n by omega, if_pos hp])

theorem alarmWait_denied {t n : Nat} {w : Word} {s : State} (ht : t < 1028) (hi : Issues s t) (hb : Bare s t) (hn : n < 16)
    (hin : IsIn s t w (0x40 + n)) (hp : alarmPid s n ≠ tidPid s t) :
    Completes s t (tookIn (thread s t) (wD w) (.fail stDenied)) (issue alarmWaitRow t w s) :=
  in_completes ht hi hb hin (by simp; omega) (by rw [show (0x40 + n) % 16 = n by omega, if_neg hp]) (Only.refl s t) hi.2.2.2.2
    (by simp)

/-- An OUT to the phase port sets the target (R30). -/
theorem phaseOut_completes {t : Nat} {w : Word} {s : State} (ht : t < 1028) (hi : Issues s t) (hb : Bare s t)
    (hout : IsOut s t w 0x320) :
    Completes s t { thread s t with target := some (wreg s t (wD w)) } (issue phaseOutRow t w s) :=
  out_completes ht hi hb hout rfl rfl (Only.modThread s t _) hi.2.2.2.2 (by simp)

/-- An IN on the phase port without a target returns the current SPS (R30). -/
theorem phaseIn_none {t : Nat} {w : Word} {s : State} (ht : t < 1028) (hi : Issues s t) (hb : Bare s t)
    (hin : IsIn s t w 0x320) (hx : (thread s t).target = none) :
    Completes s t (tookIn (thread s t) (wD w) (.plain (spsNow s))) (issue phaseInRow t w s) :=
  in_completes ht hi hb hin rfl (by simp [hx]) (Only.refl s t) hi.2.2.2.2 (by simp)

/-- An IN on the phase port with a target that is reached returns the current SPS and clears the target (R30). -/
theorem phaseIn_reached {t : Nat} {w x : Word} {s : State} (ht : t < 1028) (hi : Issues s t) (hb : Bare s t)
    (hin : IsIn s t w 0x320) (hx : (thread s t).target = some x) (hr : targetReached s x = true) :
    Completes s t { tookIn (thread s t) (wD w) (.plain (spsNow s)) with target := none } (issue phaseInRow t w s) :=
  in_completes (s1 := modThread s t (fun th => { th with target := none })) (th := { thread s t with target := none })
    (v := .plain (spsNow s)) ht hi hb hin rfl (by simp [hx, hr]) (Only.modThread s t _) hi.2.2.2.2 ⟨rfl, rfl⟩

/-- An IN on the phase port with a target that is not reached waits (R30). -/
theorem phaseIn_waits {t : Nat} {w x : Word} {s : State} (ht : t < 1028) (hi : Issues s t) (hb : Bare s t)
    (hin : IsIn s t w 0x320) (hx : (thread s t).target = some x) (hr : targetReached s x = false) :
    Blocks s t w 0x320 (issue phaseInRow t w s) :=
  in_blocks ht hi hb hin rfl (by simp [hx, hr])

/-- An expiry that nobody waits for leaves the timer expired with the current SPS (R151). -/
theorem timerExpiry_expires {t i due : Nat} {s : State} (hr : timer s t i = .run due) (hd : due ≤ s.phase.count)
    (hs : s.phase.started = true) (hb : blockedOn s t (0x30 + i) = false) :
    timerExpiry t i s = setThread s t (withTimer (thread s t) i (.expired (spsNow s))) := by
  unfold timerExpiry
  simp only [hr]
  rw [if_neg (by simp [hs, hd]), if_neg (by simp [hb])]
  rfl

/-- An expiry that the thread waits for stops the timer and delivers the current SPS (R151). -/
theorem timerExpiry_wakes {t i due d : Nat} {s : State} (hr : timer s t i = .run due) (hd : due ≤ s.phase.count)
    (hs : s.phase.started = true) (hw : (thread s t).waitPort = some (0x30 + i, d)) :
    timerExpiry t i s = deliverIn (setTimer s t i .off) t (.data (spsNow s)) := by
  unfold timerExpiry
  simp only [hr]
  rw [if_neg (by simp [hs, hd]), if_pos (by simp [blockedOn, waitsOn, hw])]

/-- A reached target wakes the thread that waits for it (R30). -/
theorem phaseTargetReached_wakes {t d : Nat} {x : Word} {s : State} (hx : (thread s t).target = some x)
    (hr : targetReached s x = true) (hw : (thread s t).waitPort = some (0x320, d)) :
    phaseTargetReached t s = deliverIn (modThread s t (fun th => { th with target := none })) t (.plain (spsNow s)) := by
  unfold phaseTargetReached
  simp only [hx]
  rw [if_pos ⟨by simp [blockedOn, waitsOn, hw], hr⟩]

/-! ## Alarms (R28, R29) -/

/-- The phase block and its page are as before. -/
def PhaseKept (s s' : State) : Prop := s'.phase = s.phase ∧ ∀ a, a / 0x1000 = 2 → reg s' a = reg s a

theorem PhaseKept.trans {s s' s'' : State} (h : PhaseKept s s') (h' : PhaseKept s' s'') : PhaseKept s s'' :=
  ⟨h'.1.trans h.1, fun a ha => (h'.2 a ha).trans (h.2 a ha)⟩

/-- What a Nib counts lies beside the phase block. -/
theorem Beside.phaseKept {s s' : State} {t : Nat} (h : Beside s s' t) : PhaseKept s s' := by
  obtain ⟨he, -, -, -, hr⟩ := h
  refine ⟨by rw [he], fun a ha => hr a ?_ (by omega)⟩
  have := nibOf_le_steward t
  unfold Reg.nibPage Reg.stewardPage
  split <;> omega

/-- Deliveries to threads leave the phase block and its page. -/
theorem deliveries_phaseKept (l : List Nat) (v : State → PortVal) (s : State) :
    PhaseKept s (l.foldl (fun s t => deliverIn s t (v s)) s) := by
  induction l generalizing s with
  | nil => exact ⟨rfl, fun _ _ => rfl⟩
  | cons t l ih => exact (deliverIn_beside s t (v s)).phaseKept.trans (ih _)

/-- An alarm that is due and armed fires: it is no longer due, ALARM_STAT and interrupt 7 are set, and it stays armed when
it repeats (R28, R29, R35). -/
theorem alarmFire_fires {n : Nat} {s : State} (hn : n < 16) (hd : s.phase.alarmsDue.contains n = true)
    (ha : flag s (Reg.PH_ALARM n) 31 = true) :
    (alarmFire n s).phase = { s.phase with alarmsDue := s.phase.alarmsDue.filter (· ≠ n) }
    ∧ flag (alarmFire n s) Reg.ALARM_STAT n = true ∧ flag (alarmFire n s) (Reg.PG_IRQ_RAW Reg.phasePage) 7 = true
    ∧ flag (alarmFire n s) (Reg.PH_ALARM n) 31 = flag s (Reg.PH_ALARM n) 30 := by
  generalize hs1 : irq (setFlag { s with phase := { s.phase with alarmsDue := s.phase.alarmsDue.filter (· ≠ n) } }
    Reg.ALARM_STAT n true) Reg.phasePage 7 = s1
  generalize hs2 : (if flag s1 (Reg.PH_ALARM n) 30 then s1 else setFlag s1 (Reg.PH_ALARM n) 31 false) = s2
  have he : PhaseKept s2 (alarmFire n s) := by
    unfold alarmFire
    rw [if_neg (by rw [hd, ha]; simp)]
    simp only [hs1, hs2]
    exact deliveries_phaseKept _ (fun s => .data (spsNow s)) s2
  have e1 : Reg.PH_ALARM n ≠ Reg.ALARM_STAT := by unfold Reg.PH_ALARM Reg.ALARM_STAT; omega
  have e2 : Reg.PH_ALARM n ≠ Reg.PG_IRQ_RAW Reg.phasePage := by
    unfold Reg.PH_ALARM Reg.PG_IRQ_RAW Reg.phasePage; omega
  have h30 : reg s1 (Reg.PH_ALARM n) = reg s (Reg.PH_ALARM n) := by
    rw [← hs1, reg_irq, if_neg e2, reg_setFlag, if_neg e1]; rfl
  have hp : s2.phase = s1.phase := by rw [← hs2]; split <;> rfl
  have hr : ∀ a, a ≠ Reg.PH_ALARM n → reg s2 a = reg s1 a := fun a hne => by
    rw [← hs2]; split
    · rfl
    · rw [reg_setFlag, if_neg hne]
  refine ⟨?_, ?_, ?_, ?_⟩
  · rw [he.1, hp, ← hs1]; rfl
  · unfold flag
    rw [he.2 _ (by decide), hr _ (Ne.symm e1), ← hs1, reg_irq, if_neg (by decide), reg_setFlag, if_pos rfl, bit_setBit]
    simp; omega
  · unfold flag
    rw [he.2 _ (by decide), hr _ (Ne.symm e2), ← hs1, reg_irq, if_pos rfl, bit_setBit]
    simp
  · unfold flag at ha ⊢
    rw [he.2 _ (by unfold Reg.PH_ALARM; omega), ← hs2]
    split
    · next h => rw [h30, ha, ← h30]; exact h.symm
    · next h =>
      rw [reg_setFlag, if_pos rfl, bit_setBit, ← h30]
      simpa [flag] using h

/-- Settles O22: each port's row under its own lemma, and the three events that end a wait. -/
theorem timersAndPhaseWaits : Obligations.TimersAndPhaseWaits := by
  unfold Obligations.TimersAndPhaseWaits
  have hfin : ∀ (th : Thread) (i : Fin 2) (x : Timer), withTimer th i x
      = if i = 0 then { th with tmr0 := x } else { th with tmr1 := x } := fun th i x => by
    simp only [withTimer, Fin.ext_iff]; rfl
  refine ⟨fun t w s i hi hb => ⟨?set, fun hin => ⟨?off, ?expired, ?run⟩, fun n hn hin => ⟨?own, ?denied⟩, ?out,
    fun hin => ⟨?none, ?reached, ?waits⟩⟩, fun t s i due hr hd hs => ⟨?expires, ?wakes⟩, ?target, ?alarm⟩
  case set => exact fun hout => ⟨_, rfl, by beta_reduce; rw [← hfin]; exact tmrSet_completes t.2 hi hb i.2 hout⟩
  case off => exact fun h => ⟨_, rfl, tmrWait_off t.2 hi hb i.2 hin h⟩
  case expired => exact fun x h => ⟨_, rfl, by beta_reduce; rw [← hfin]; exact tmrWait_expired t.2 hi hb i.2 hin h⟩
  case run => exact fun x h => ⟨_, rfl, tmrWait_run t.2 hi hb i.2 hin h⟩
  case own => exact fun h => ⟨_, rfl, alarmWait_own t.2 hi hb hn hin h⟩
  case denied => exact fun h => ⟨_, rfl, alarmWait_denied t.2 hi hb hn hin h⟩
  case out => exact fun hout => ⟨_, rfl, phaseOut_completes t.2 hi hb hout⟩
  case none => exact fun h => ⟨_, rfl, phaseIn_none t.2 hi hb hin h⟩
  case reached => exact fun x h hr => ⟨_, rfl, phaseIn_reached t.2 hi hb hin h hr⟩
  case waits => exact fun x h hr => ⟨_, rfl, phaseIn_waits t.2 hi hb hin h hr⟩
  case expires =>
    intro hb
    rw [← hfin, ← timerExpiry_expires hr hd hs hb]; rfl
  case wakes =>
    intro d hw hst hp hstep
    obtain ⟨hbeside, hth⟩ := deliverIn_bare (.data (spsNow s)) (setTimer_only s t i .off) (by simpa using hw)
      (by simpa using hst) (by simpa using hp) (by simpa using hstep) (by simp)
    refine ⟨_, rfl, ?_⟩
    rw [timerExpiry_wakes hr hd hs hw]
    refine ⟨hbeside, ?_, ?_, ?_, ?_, ?_⟩
    · unfold timer; rw [hth]; unfold withTimer; split <;> simp_all [tookIn, withW]
    · rw [hth]
    · unfold wreg; rw [hth]; simp [tookIn, withW, PortVal.value]
    · rw [hth]; simp [tookIn, PortVal.flags, stC, setC, bit_setBit]
    · rw [hth]
  case target =>
    intro t s x d hx hr hw hst hp hstep
    obtain ⟨hbeside, hth⟩ := deliverIn_bare (.plain (spsNow s)) (Only.modThread s t (fun th => { th with target := none }))
      hw hst hp hstep ⟨rfl, rfl⟩
    refine ⟨_, rfl, ?_⟩
    rw [phaseTargetReached_wakes hx hr hw]
    refine ⟨hbeside, by rw [hth]; rfl, by rw [hth], ?_, by rw [hth]⟩
    unfold wreg; rw [hth]; simp [tookIn, withW, PortVal.value]
  case alarm => exact fun n s hd ha => ⟨_, rfl, alarmFire_fires n.2 hd ha⟩

end Sys2Proof.Machine
end

section
/-! PROOFS. What error records, the Ductus, the engines and the release of records leave of the phase block and its page. -/

namespace Sys2Proof.Machine

/-! ## The phase page and FATAL under error records (R321, R322, R384, R392) -/

/-- What error records leave of the phase page and of FATAL: PG_CTL and every register of the block keep their values, and
no bit of the header's PG_IRQ_RAW and PG_ERR_STICKY falls. -/
structure Steady (s s' : State) : Prop where
  regs : ∀ a, a / 0x1000 = 2 → a % 0x1000 = 0xC ∨ 0x100 ≤ a % 0x1000 → reg s' a = reg s a
  rise : ∀ a, a % 0x1000 = 0x14 ∨ a % 0x1000 = 0x20 → ∀ i, flag s a i = true → flag s' a i = true
  fatal : fatal s' = fatal s

theorem Steady.refl (s : State) : Steady s s := ⟨fun _ _ _ => rfl, fun _ _ _ h => h, rfl⟩

theorem Steady.trans {s s' s'' : State} (h : Steady s s') (h' : Steady s' s'') : Steady s s'' :=
  ⟨fun a ha hb => (h'.regs a ha hb).trans (h.regs a ha hb), fun a ha i hi => h'.rise a ha i (h.rise a ha i hi),
    h'.fatal.trans h.fatal⟩

/-- A state with the same registers. -/
theorem Steady.of_regs {s s' : State} (h : s'.regs = s.regs) : Steady s s' := by
  have hr : ∀ a, reg s' a = reg s a := fun a => by unfold reg; rw [h]
  exact ⟨fun a _ _ => hr a, fun a _ i hi => by unfold flag at hi ⊢; rw [hr]; exact hi,
    by unfold Machine.fatal flag; rw [hr]⟩

/-- A register address outside the phase block: no PG_IRQ_RAW or PG_ERR_STICKY, and no BL_SUMMARY. -/
abbrev Beyond (a : Nat) : Prop :=
  a ≠ Reg.BL_SUMMARY ∧ a % 0x1000 ≠ 0x14 ∧ a % 0x1000 ≠ 0x20 ∧ (a / 0x1000 ≠ 2 ∨ (0x28 ≤ a % 0x1000 ∧ a % 0x1000 < 0x100))

theorem Steady.setReg (s : State) {a : Nat} (v : Word) (h : Beyond a) : Steady s (Machine.setReg s a v) := by
  obtain ⟨hb, hi, hs, hp⟩ := h
  refine ⟨fun b h2 ho => reg_setReg_other s v ?_, fun b hh i hf => ?_, ?_⟩
  · rintro rfl; omega
  · unfold flag at hf ⊢
    rw [reg_setReg_other s v (by rintro rfl; omega)]
    exact hf
  · unfold Machine.fatal flag
    rw [reg_setReg_other s v (Ne.symm hb)]

/-- A bit of a header's PG_IRQ_RAW or PG_ERR_STICKY is set. -/
theorem Steady.raise (s : State) {a : Nat} (i : Nat) (h : a % 0x1000 = 0x14 ∨ a % 0x1000 = 0x20) :
    Steady s (setFlag s a i true) := by
  have hb : Reg.BL_SUMMARY ≠ a := by rintro rfl; revert h; decide
  refine ⟨fun b _ ho => ?_, fun b _ j hf => ?_, ?_⟩
  · rw [reg_setFlag, if_neg (by rintro rfl; omega)]
  · unfold flag at hf ⊢
    rw [reg_setFlag]
    split
    · next he =>
      rw [bit_setBit]
      split
      · next hj => subst hj; simpa using BitVec.lt_of_getLsbD hf
      · rw [← he]; exact hf
    · exact hf
  · unfold Machine.fatal flag
    rw [reg_setFlag, if_neg hb]

/-- A bit of BL_SUMMARY other than FATAL is stored. -/
theorem Steady.summary (s : State) (i : Nat) (b : Bool) (h : i ≠ 31) : Steady s (setFlag s Reg.BL_SUMMARY i b) := by
  refine ⟨fun a ha _ => ?_, fun a ha j hf => ?_, ?_⟩
  · rw [reg_setFlag, if_neg (by rintro rfl; revert ha; decide)]
  · unfold flag at hf ⊢
    rw [reg_setFlag, if_neg (by rintro rfl; revert ha; decide)]
    exact hf
  · unfold Machine.fatal flag
    rw [reg_setFlag, if_pos rfl, bit_setBit, if_neg (Ne.symm h)]

theorem Steady.capture (s : State) (page src : Nat) (r : Report) (hp : Based page) : Steady s (Machine.capture s page src r) := by
  have hb : ∀ o, 0x28 ≤ o ∧ o < 0x100 → Beyond (page + o) := fun o ho => by
    simp only [Based] at hp
    refine ⟨?_, by omega, by omega, .inr (by omega)⟩
    intro he
    have hm : (page + o) % 0x1000 = 0x104 := by rw [he]; decide
    omega
  have store : ∀ x v o, 0x28 ≤ o ∧ o < 0x100 → Steady x (Machine.setReg x (page + o) v) := fun x v o ho =>
    Steady.setReg x v (hb o ho)
  unfold Machine.capture
  split
  · exact Steady.refl s
  · split <;>
    exact ((((store _ _ 0x28 (by omega)).trans (store _ _ 0x2C (by omega))).trans (store _ _ 0x30 (by omega))).trans
      (store _ _ 0x34 (by omega))).trans (store _ _ 0x38 (by omega))

theorem Steady.sticky (s : State) {page : Nat} (i : Nat) (hp : Based page) :
    Steady s (setFlag s (Reg.PG_ERR_STICKY page) i true) :=
  Steady.raise s i (.inr (by simp only [Based] at hp; simp only [Reg.PG_ERR_STICKY]; omega))

theorem Steady.irqRaw (s : State) {page : Nat} (i : Nat) (hp : Based page) :
    Steady s (setFlag s (Reg.PG_IRQ_RAW page) i true) :=
  Steady.raise s i (.inl (by simp only [Based] at hp; simp only [Reg.PG_IRQ_RAW]; omega))

theorem Steady.recordOn (s : State) {page : Nat} {r : Report} (hp : Based page) (hs : r.sev < 4) :
    Steady s (Machine.recordOn s page r) := by
  unfold Machine.recordOn
  refine ((Steady.sticky s _ hp).trans (Steady.capture _ _ _ _ hp)).trans (Steady.setReg _ _ ?_)
  have h := r.sev
  simp only [Beyond, Reg.BL_COUNT, Reg.BL_SUMMARY]
  omega

theorem Steady.recordFolios (s : State) (r : Report) : Steady s (Machine.recordFolios s r) := by
  have folio : ∀ (s : State) (page src i : Nat), Based page →
      Steady s (Machine.capture (setFlag s (Reg.PG_ERR_STICKY page) i true) page src r) := fun s page src i hp =>
    (Steady.sticky s i hp).trans (Steady.capture _ _ _ _ hp)
  unfold Machine.recordFolios
  split
  · exact Steady.refl s
  · split
    · exact Steady.refl s
    · refine Steady.trans ?_ (folio _ _ _ _ (by decide))
      split
      · exact folio _ _ _ _ (quillPage_mod _)
      · exact Steady.refl s

theorem Steady.recordFirst (s : State) (r : Report) : Steady s (Machine.recordFirst s r) := by
  unfold Machine.recordFirst
  split
  · exact Steady.refl s
  · exact (((Steady.setReg s _ (by decide)).trans (Steady.setReg _ _ (by decide))).trans (Steady.setReg _ _ (by decide))).trans
      (Steady.setReg _ _ (by decide))

theorem Steady.recordLog (s : State) (r : Report) : Steady s (Machine.recordLog s r) := by
  unfold Machine.recordLog
  split
  · exact Steady.refl s
  · dsimp only
    split
    · exact (Steady.of_regs (wrBytes_regs s _ _)).trans (Steady.setReg _ _ (by decide))
    · exact (Steady.summary s 28 true (by decide)).trans (Steady.recordOn _ (by decide) (by decide))

theorem Steady.withIrq {s : State} {f : State → State} (h : Steady s (f s)) : Steady s (Machine.withIrq f s) :=
  h.trans (Steady.of_regs rfl)

theorem Steady.irq (s : State) {page : Nat} (i : Nat) (hp : Based page) : Steady s (Machine.irq s page i) :=
  Steady.withIrq (Steady.irqRaw s i hp)

/-- What recording an error leaves of the phase page (R321, R322, R324, R334, R392). -/
theorem Steady.record (s : State) {r : Report} (hp : Based r.page) (hs : r.sev < 4) : Steady s (Machine.record s r) := by
  have hb := headerPage_based hp
  unfold Machine.record
  refine Steady.withIrq ?_
  have h := (((Steady.recordOn s (r := { r with page := headerPage r.page }) hb hs).trans
    (Steady.recordFolios _ { r with page := headerPage r.page })).trans
    (Steady.recordFirst _ { r with page := headerPage r.page })).trans (Steady.recordLog _ { r with page := headerPage r.page })
  dsimp only at h ⊢
  split
  · split
    · exact h.trans (Steady.irqRaw _ _ hb)
    · exact h
  · exact h

theorem Steady.note (s : State) {page : Nat} (src access mid addr : Nat) (hp : Based page) :
    Steady s (Machine.note s page src access mid addr) := Steady.record s hp (by simp)

/-- A report of severity NOTE or DEGRADE records, and shows DEGRADE in BL_SUMMARY (R325). -/
theorem report_light (s : State) {r : Report} {l : List Nat} (hp : Based r.page) (hs : r.sev = 0 ∨ r.sev = 2) :
    Records s (report s r) l ∧ Steady s (report s r) := by
  have hr := Records.record s r (l := l) hp (by omega)
  have hk := Steady.record s (r := r) hp (by omega)
  unfold report
  rcases hs with hs | hs <;> simp only [hs]
  · exact ⟨hr, hk⟩
  · exact ⟨(hr.trans (Records.setFlag _ _ _ _ (.inr (.inr (by decide))))).trans (Records.out _ _),
      (hk.trans (Steady.summary _ 30 true (by decide))).trans (Steady.of_regs rfl)⟩

/-- A report's source stands in the PG_ERR_STICKY of its page. -/
theorem report_sticky (s : State) {r : Report} (hp : Based r.page) (hh : headerPage r.page = r.page) (hs : r.sev = 0 ∨ r.sev = 2)
    (hr : r.src < 31) : flag (report s r) (Reg.PG_ERR_STICKY r.page) r.src = true := by
  have h := sticky_record (s := s) hp (by omega) hr
  rw [hh] at h
  unfold report
  rcases hs with hs | hs <;> simp only [hs]
  · exact h
  · exact (Steady.summary _ 30 true (by decide)).rise _
      (.inr (by simp only [Based] at hp; simp only [Reg.PG_ERR_STICKY]; omega)) _ h

/-- The sources of the phase page are NOTE or DEGRADE (R16, R21, R34). -/
theorem severity_phase (s : State) (src : Nat) : severity s Reg.phasePage src = 0 ∨ severity s Reg.phasePage src = 2 := by
  have h : severity s Reg.phasePage src = if mode s = 4 ∧ (src = 8 ∨ src = 9) then 2 else 0 := rfl
  rw [h]
  split
  · exact .inr rfl
  · exact .inl rfl

/-- A fault of the phase page records, leaves the block and stands in PG_ERR_STICKY (R16, R21, R34). -/
theorem fault_phase (s : State) {src : Nat} (hs : src < 31) :
    Records s (fault s Reg.phasePage src) [] ∧ Steady s (fault s Reg.phasePage src)
    ∧ flag (fault s Reg.phasePage src) (Reg.PG_ERR_STICKY Reg.phasePage) src = true := by
  have hb : Based Reg.phasePage := by decide
  have hh : headerPage Reg.phasePage = Reg.phasePage := by decide
  obtain ⟨hr, hk⟩ := report_light s (r := ⟨Reg.phasePage, src, severity s Reg.phasePage src, 5, 0, 0, none⟩) (l := []) hb
    (severity_phase s src)
  exact ⟨hr, hk, report_sticky s (r := ⟨Reg.phasePage, src, severity s Reg.phasePage src, 5, 0, 0, none⟩) hb hh
    (severity_phase s src) hs⟩

/-- A report of severity DEGRADE shows in BL_SUMMARY (R325). -/
theorem report_degrades (s : State) {r : Report} (hs : r.sev = 2) : flag (report s r) Reg.BL_SUMMARY 30 = true := by
  have e : report s r = emit (setFlag (record s r) Reg.BL_SUMMARY 30 true) (.msix 0) := by unfold report; simp only [hs]
  rw [e]
  unfold flag
  rw [reg_emit, reg_setFlag, if_pos rfl, bit_setBit]
  rfl

/-! ## What leaves the phase block and the Ductus alone -/

/-- The phase block and the Ductus are as before, and the phase page is steady. -/
structure Calm (s s' : State) : Prop where
  phase : s'.phase = s.phase
  ductus : s'.ductus = s.ductus
  steady : Steady s s'

theorem Calm.refl (s : State) : Calm s s := ⟨rfl, rfl, Steady.refl s⟩

theorem Calm.trans {s s' s'' : State} (h : Calm s s') (h' : Calm s' s'') : Calm s s'' :=
  ⟨h'.phase.trans h.phase, h'.ductus.trans h.ductus, h.steady.trans h'.steady⟩

/-- A change of other fields than the phase block, the Ductus and the registers. -/
theorem Calm.of_eq {s s' : State} (hp : s'.phase = s.phase) (hd : s'.ductus = s.ductus) (hr : s'.regs = s.regs) : Calm s s' :=
  ⟨hp, hd, Steady.of_regs hr⟩

theorem Calm.foldl {α : Type} (f : State → α → State) (l : List α) (h : ∀ s, ∀ a ∈ l, Calm s (f s a)) (s : State) :
    Calm s (l.foldl f s) := by
  induction l generalizing s with
  | nil => exact Calm.refl s
  | cons a l ih => exact (h s a (by simp)).trans (ih (fun s b hb => h s b (by simp [hb])) _)

theorem Calm.ite {s a b : State} {c : Prop} [Decidable c] (ha : Calm s a) (hb : Calm s b) : Calm s (if c then a else b) := by
  split
  · exact ha
  · exact hb

theorem Calm.setReg (s : State) {a : Nat} (v : Word) (h : Beyond a) : Calm s (Machine.setReg s a v) :=
  ⟨rfl, rfl, Steady.setReg s v h⟩

theorem Calm.setFlag (s : State) {a : Nat} (i : Nat) (b : Bool) (h : Beyond a) : Calm s (Machine.setFlag s a i b) :=
  Calm.setReg s _ h

theorem Calm.count (s : State) {a : Nat} (h : Beyond a) : Calm s (Machine.count s a) := Calm.setReg s _ h

theorem Calm.of_records {s s' : State} {l : List Nat} (h : Records s s' l) (hk : Steady s s') : Calm s s' :=
  ⟨by rw [h.1], by rw [h.1], hk⟩

theorem Calm.note (s : State) {page : Nat} (src access mid addr : Nat) (hp : Based page) :
    Calm s (Machine.note s page src access mid addr) :=
  Calm.of_records (l := []) (Records.note s page src access mid addr hp) (Steady.note s src access mid addr hp)

theorem Calm.irq (s : State) {page : Nat} (i : Nat) (hp : Based page) : Calm s (Machine.irq s page i) :=
  ⟨rfl, rfl, Steady.irq s i hp⟩

theorem Calm.takeInjection (s : State) {page : Nat} (src : Nat) (h : Beyond (Reg.PG_INJECT page)) :
    ∃ o s1, Machine.takeInjection s page src = (o, s1) ∧ Calm s s1 := by
  unfold Machine.takeInjection
  dsimp only
  split
  · exact ⟨_, _, rfl, Calm.setFlag s _ _ h⟩
  · exact ⟨_, _, rfl, Calm.refl s⟩

/-! ## The Signet (R303–R306, R309, R320) -/

theorem Calm.tally (s : State) (set i n : Nat) : Calm s (Machine.tally s set i n) := Calm.of_eq rfl rfl rfl

theorem Calm.journal (s : State) (ty pid : Nat) (data : List Byte) : Calm s (Machine.journal s ty pid data) := by
  unfold Machine.journal journalLost
  split
  · exact (Calm.tally s 16 5 1).trans (Calm.note _ _ _ _ _ (by decide))
  · exact Calm.of_eq rfl rfl rfl

theorem Calm.tallyErr (s : State) (src : Nat) : Calm s (Machine.tallyErr s src) :=
  ((Calm.note s _ _ _ _ (by decide)).trans (Calm.setFlag _ _ _ (by decide))).trans (Calm.journal _ _ _ _)

theorem Calm.tallyCheck (s : State) : Calm s (Machine.tallyCheck s) := by
  unfold Machine.tallyCheck
  obtain ⟨o, s1, e, h⟩ := Calm.takeInjection s (page := Reg.signetPage) 4 (by decide)
  rw [e]
  cases o with
  | none => exact h
  | some flip => exact h.trans (Calm.tallyErr s1 4)

theorem Calm.tallyBits (s : State) (p b : Nat) : Calm s (Machine.tallyBits s p b) :=
  Calm.foldl _ _ (fun s _ _ => Calm.ite (Calm.tally s _ _ _) (Calm.refl s)) s

/-- Counting a released record (R304, R306, R320). -/
theorem Calm.signetCount (s : State) (p b : Nat) (r : DR) : Calm s (Machine.signetCount s p b r) := by
  unfold Machine.signetCount
  obtain ⟨bad, s1, e, h0⟩ := Calm.takeInjection s (page := Reg.signetPage) 3 (by decide)
  rw [e]
  dsimp only
  have h1 := h0.trans (Calm.tally s1 p 0 1)
  generalize hs2 : (if drQs r ∨ inMarkedRange (Machine.tally s1 p 0 1) b then _ else _ : State) = s2
  have h2 : Calm s s2 := by
    subst hs2
    split
    · exact h1.trans (Calm.tally _ _ _ _)
    · split
      · split
        · exact h1.trans (Calm.of_eq rfl rfl rfl)
        · exact h1
      · exact h1
  split
  · exact h2.trans (Calm.tallyErr s2 3)
  · refine (Calm.trans ?_ (Calm.tallyBits _ _ _)).trans (Calm.tallyCheck _)
    split
    · exact h2.trans (Calm.tally _ _ _ _)
    · exact h2

/-! ## Engines and buffers (R242–R247, R258, R365) -/

theorem Calm.bwKey (s : State) (k n : Nat) (write : Bool) : Calm s (Machine.bwKey s k n write) := by
  have port : ∀ i, Calm s (bw s i n) := fun i => Calm.ite (Calm.refl s) (Calm.of_eq rfl rfl rfl)
  unfold Machine.bwKey
  refine Calm.ite (port _) (Calm.ite (port _) (Calm.ite (port _) (Calm.ite (Calm.refl s) (Calm.ite (port _) ?_))))
  split
  · exact port _
  · exact Calm.refl s

theorem Calm.dramRequest (s : State) (k mid : Nat) (write : Bool) : Calm s (Machine.dramRequest s k mid write) := by
  unfold Machine.dramRequest
  split
  · exact Calm.refl s
  · exact Calm.of_eq rfl rfl rfl

theorem Calm.engineAccess (s : State) (k n mid : Nat) (write : Bool) : Calm s (Machine.engineAccess s k n mid write) := by
  have traffic : Calm s (dramTraffic (Machine.bwKey s k n write) k n mid write) := by
    refine (Calm.bwKey s k n write).trans (Calm.ite (Calm.refl _) ?_)
    exact Calm.foldl _ _ (fun s _ _ => Calm.ite (Calm.dramRequest s _ _ _) (Calm.refl s)) _
  unfold Machine.engineAccess
  exact Calm.ite (traffic.trans (Calm.note _ _ _ _ _ (by decide))) traffic

theorem Calm.setBad (s : State) (k : Nat) (b : Bool) : Calm s (Machine.setBad s k b) := by
  unfold Machine.setBad renewKept
  split
  · exact Calm.ite (Calm.of_eq rfl rfl rfl) (Calm.of_eq rfl rfl rfl)
  · exact Calm.refl s

theorem Calm.wr (s : State) (k : Nat) (b : Byte) : Calm s (Machine.wr s k b) := by
  unfold Machine.wr
  split
  · exact Calm.of_eq rfl rfl rfl
  · exact Calm.refl s

theorem Calm.wrBytes (s : State) (k : Nat) (bs : List Byte) : Calm s (Machine.wrBytes s k bs) := by
  induction bs generalizing s k with
  | nil => exact Calm.refl s
  | cons b bs ih => exact (Calm.wr s k b).trans (ih _ _)

theorem Calm.engineWrite (s : State) (k : Nat) (bs : List Byte) (mid : Nat) : Calm s (Machine.engineWrite s k bs mid) :=
  ((Calm.engineAccess s k bs.length mid true).trans (Calm.wrBytes _ _ _)).trans
    (Calm.foldl _ _ (fun s _ _ => Calm.setBad s _ _) _)

theorem Calm.setBuf (s : State) (bh : Word) (v : Buf) : Calm s (Machine.setBuf s bh v) :=
  Calm.ite (Calm.engineWrite s _ _ _) (Calm.of_eq rfl rfl rfl)

theorem Calm.setUse (s : State) (k v : Nat) : Calm s (Machine.setUse s k v) := Calm.of_eq rfl rfl rfl

theorem Calm.inkInjected (s : State) : ∃ b s1, Machine.inkInjected s = (b, s1) ∧ Calm s s1 := by
  have flipped : ∀ s1, Calm s s1 → Calm s (Machine.note s1 Reg.inkwellPage 0x00 8) := fun s1 h =>
    h.trans (Calm.note _ _ _ _ _ (by decide))
  obtain ⟨o, s1, e, h⟩ := Calm.takeInjection s (page := Reg.inkwellPage) 0 (by decide)
  obtain ⟨o', s2, e', h'⟩ := Calm.takeInjection s1 (page := Reg.inkwellPage) 1 (by decide)
  unfold Machine.inkInjected
  rw [e]
  match o with
  | some 0 => exact ⟨_, _, rfl, flipped s1 h⟩
  | some (_ + 1) => exact ⟨_, _, rfl, h⟩
  | none =>
    dsimp only
    rw [e']
    match o' with
    | some 0 => exact ⟨_, _, rfl, flipped s2 (h.trans h')⟩
    | some (_ + 1) => exact ⟨_, _, rfl, h.trans h'⟩
    | none => exact ⟨_, _, rfl, h.trans h'⟩

theorem Calm.popFree {s s' : State} {d : Bool} {bh : Word} (h : Machine.popFree s d = some (bh, s')) : Calm s s' := by
  unfold Machine.popFree at h
  repeat' split at h
  all_goals cases h
  all_goals exact Calm.of_eq rfl rfl rfl

theorem Calm.storeCheck (s : State) (d : Bool) : Calm s (Machine.storeCheck s d) := by
  unfold Machine.storeCheck
  obtain ⟨b, s1, e, h0⟩ := Calm.inkInjected s
  rw [e]
  cases b with
  | false => exact h0
  | true =>
    have h1 : Calm s (inkLost s1 8) := (h0.trans (Calm.count s1 (a := Reg.IW_LOST) (by decide))).trans (Calm.note _ _ _ _ _ (by decide))
    dsimp only
    split
    · next h => exact h1.trans (Calm.popFree h)
    · exact h1

theorem Calm.iwAlloc (s : State) (d : Bool) (mid p : Nat) (t : Option Nat) :
    ∃ st bh s1, Machine.iwAlloc s d mid p t = (st, bh, s1) ∧ Calm s s1 := by
  have h0 := Calm.storeCheck s d
  unfold Machine.iwAlloc
  split
  · exact ⟨_, _, _, rfl, Calm.count s (a := Reg.IW_OVERQ) (by decide)⟩
  · split
    · exact ⟨_, _, _, rfl, Calm.count s (a := Reg.IW_EMPTY) (by decide)⟩
    · next h =>
      have h1 := h0.trans (Calm.popFree h)
      refine ⟨_, _, _, rfl, Calm.trans ?_ (Calm.setBuf _ _ _)⟩
      split
      · exact h1.trans (((Calm.setUse _ _ _).trans (Calm.setUse _ _ _)).trans (Calm.setUse _ _ _))
      · exact h1.trans ((Calm.setUse _ _ _).trans (Calm.setUse _ _ _))

theorem Calm.iwReturn (s : State) (bh : Word) : Calm s (Machine.iwReturn s bh) := by
  unfold Machine.iwReturn
  extract_lets b d s1 s2 s3 s4
  have h2 : Calm s s2 := (Calm.setUse s _ _).trans (Calm.setUse _ _ _)
  have h3 : Calm s s3 := by
    simp only [s3]
    split
    · exact h2.trans (Calm.setUse _ _ _)
    · exact h2
  have h4 : Calm s s4 := h3.trans (Calm.setBuf _ _ _)
  exact Calm.ite (h4.trans (Calm.of_eq rfl rfl rfl)) (h4.trans (Calm.of_eq rfl rfl rfl))

theorem Calm.freeFd (s : State) (f : FD) : Calm s (Machine.freeFd s f) := by
  unfold Machine.freeFd iwRelinquish
  split
  · exact Calm.ite (Calm.ite (Calm.iwReturn s _) (Calm.setBuf s _ _)) (Calm.refl s)
  · exact Calm.refl s

theorem Calm.ownFd (s : State) (f : FD) (mid : Nat) : Calm s (Machine.ownFd s f mid) := by
  unfold Machine.ownFd
  split
  · exact Calm.ite (Calm.setBuf s _ _) (Calm.refl s)
  · exact Calm.refl s

theorem Calm.enqueue (s : State) (q p : Nat) (f : FD) (mid : Nat) : Calm s (Machine.enqueue s q p f mid) := by
  have dropped : ∀ a src, Beyond a → Calm s (Machine.freeFd (Machine.note (Machine.count s a) Reg.rulingPage src 1 mid) f) :=
    fun a src ha => ((Calm.count s ha).trans (Calm.note _ _ _ _ _ (by decide))).trans (Calm.freeFd _ _)
  unfold Machine.enqueue
  refine Calm.ite (dropped _ _ (by decide)) (Calm.ite (dropped _ _ (by decide)) (Calm.trans ?_ (Calm.ownFd _ _ _)))
  exact Calm.of_eq rfl rfl rfl

/-! ## The release of records (R215–R221, R291, R294) -/

theorem Calm.sendBatch (s : State) (rs : List (DR × PS)) : Calm s (Machine.sendBatch s rs) := by
  unfold Machine.sendBatch
  obtain ⟨st, bh, s1, e, h⟩ := Calm.iwAlloc s false 0x85 (fld s Reg.RU_DEC_STREAM 15 12) none
  dsimp only
  rw [e]
  split
  · next e' =>
    rw [← (Prod.mk.inj (Prod.mk.inj e').2).2]
    exact (h.trans (Calm.engineWrite _ _ _ _)).trans (Calm.enqueue _ _ _ _ _)
  · next e' =>
    rw [← (Prod.mk.inj (Prod.mk.inj e').2).2]
    exact h.trans (Calm.count _ (by decide))

theorem Calm.streamDr (s : State) (p : Nat) (r : DR) (ps : PS) : Calm s (Machine.streamDr s p r ps) := by
  unfold Machine.streamDr
  refine Calm.ite (Calm.ite (Calm.trans ?_ (Calm.sendBatch _ _)) (Calm.of_eq rfl rfl rfl)) (Calm.refl s)
  exact Calm.of_eq rfl rfl rfl

theorem Calm.skSend (s : State) (k ty : Nat) (hdr : Word) (body : List Word) : Calm s (Machine.skSend s k ty hdr body) :=
  Calm.of_eq rfl rfl rfl

theorem Calm.sendFragment (s : State) (p : Nat) (r : DR) : Calm s (Machine.sendFragment s p r) := by
  unfold Machine.sendFragment
  refine Calm.ite ?_ (Calm.refl s)
  split
  · exact Calm.skSend s _ _ _ _
  · exact Calm.refl s

theorem Calm.sendEvents (s : State) (p : Nat) (r : DR) : Calm s (Machine.sendEvents s p r) :=
  Calm.ite (Calm.foldl _ _ (fun s _ _ => Calm.skSend s _ _ _ _) s) (Calm.refl s)

theorem Calm.pushAccept (s : State) (a : Accept) : Calm s (Machine.pushAccept s a) := by
  unfold Machine.pushAccept
  refine Calm.ite (Calm.refl s) (Calm.ite ((Calm.count s (by decide)).trans (Calm.note _ _ _ _ _ (by decide))) ?_)
  unfold markHead
  dsimp only
  split
  · exact Calm.ite (Calm.of_eq rfl rfl rfl) (Calm.of_eq rfl rfl rfl)
  · exact Calm.of_eq rfl rfl rfl

/-- Releasing a record touches neither the phase block nor the Ductus (R215, R217, R219, R221). -/
theorem Calm.releaseDr (s : State) (d : Decision) (cause : Nat) (throttle live : Bool) :
    Calm s (Machine.releaseDr s d cause throttle live) := by
  unfold Machine.releaseDr
  extract_lets r s1 s2 s3 s4 s5 s6 s7
  have h2 : Calm s s2 := Calm.of_eq rfl rfl rfl
  have h5 : Calm s s5 := ((h2.trans (Calm.signetCount _ _ _ _)).trans (Calm.streamDr _ _ _ _)).trans (Calm.sendFragment _ _ _)
  have h6 : Calm s s6 := Calm.ite (h5.trans (Calm.of_eq rfl rfl rfl)) h5
  exact Calm.ite ((Calm.ite (h6.trans (Calm.sendEvents _ _ _)) h6).trans (Calm.pushAccept _ _)) h6

/-- The records that the loss of MCLK flushes (R23). -/
theorem Calm.flushDecisions (s : State) : Calm s (Machine.flushDecisions s) :=
  Calm.ite (Calm.refl s) (Calm.foldl _ _ (fun s _ _ => Calm.releaseDr s _ _ _ _) s)

end Sys2Proof.Machine
end

section
/-! PROOFS. Saturating counts with their NOTE, and the labels, marks and captures of the current crossing. -/

namespace Sys2Proof.Machine

/-! ## Counts with their NOTE (R12, R15, R18, R19) -/

/-- A field of a register of the phase block counts up, and saturates. -/
theorem fld_countSat (s : State) (a : Nat) {hi lo : Nat} (hl : lo ≤ hi) (hn : hi < 32) :
    fld (countSat s a hi lo) a hi lo = sat (2 ^ (hi + 1 - lo) - 1) (fld s a hi lo + 1) := by
  have hp : 0 < 2 ^ (hi + 1 - lo) := Nat.two_pow_pos _
  unfold countSat fld
  rw [reg_setFld, if_pos rfl, bits_setBits _ _ _ _ hl hn, Nat.mod_eq_of_lt]
  unfold sat
  split <;> omega

/-- A NOTE leaves the registers of the phase block. -/
theorem reg_note_phase (s : State) (page src access mid addr : Nat) (hp : Based page) {a : Nat} (h2 : a / 0x1000 = 2)
    (ho : 0x100 ≤ a % 0x1000) : reg (note s page src access mid addr) a = reg s a :=
  (Steady.note s src access mid addr hp).regs a h2 (.inr ho)

/-- A saturating count of the phase block with its NOTE changes its field, and records. -/
theorem countSat_noted (s : State) {a hi lo src access : Nat} (h2 : a / 0x1000 = 2) (ho : 0x100 ≤ a % 0x1000) (hl : lo ≤ hi)
    (hn : hi < 32) (hs : src < 31) :
    Noted s (note (countSat s a hi lo) Reg.phasePage src access) [a] Reg.phasePage src
    ∧ fld (note (countSat s a hi lo) Reg.phasePage src access) a hi lo = sat (2 ^ (hi + 1 - lo) - 1) (fld s a hi lo + 1) := by
  obtain ⟨hr, hf⟩ := noted_note (countSat s a hi lo) Reg.phasePage src access 0 0 [a] (by decide) (by decide) hs
  refine ⟨⟨(Records.setReg s a _ (.inl (by simp))).trans hr, hf⟩, ?_⟩
  rw [← fld_countSat s a hl hn]
  unfold fld
  rw [reg_note_phase _ _ _ _ _ _ (by decide) h2 ho]

/-! ## Labels, marks and captures of the current crossing (R9, R14, R31, R290) -/

/-- The label of a capture follows a new label of its crossing. -/
def recapture (ph : Phase) (l : PS) : Option (PS × Nat × Nat) := ph.capture.map (fun c => if c.1 = ph.now then (l, c.2) else c)

/-- A new label stands in the phase block, in the marks, decision slots and instances of the crossing, and begins a run of
labels. -/
theorem relabel_eq (l : PS) (s : State) : ∃ x, relabel l s = { s with
    phase := { s.phase with now := l, capture := recapture s.phase l,
                            runs := ⟨s.phase.count, l, s.phase.len⟩ :: s.phase.runs.filter (fun r => r.b ≠ s.phase.count) }
    xings := x
    decisions := s.decisions.map (fun d => if d.b = s.phase.count then { d with ps := l } else d)
    ductus := { s.ductus with insts := s.ductus.insts.map (fun x => if x.b = s.phase.count then { x with ps := l } else x) } } := by
  unfold relabel
  dsimp only
  split
  · exact ⟨_, rfl⟩
  · exact ⟨_, rfl⟩

/-- A PHASE_CHECK changes the ports' queues alone. -/
theorem sendPhaseCheck_eq (s : State) : ∃ p, sendPhaseCheck s = { s with ports := p } := by
  have fold : ∀ (l : List Nat) (f : State → Nat) (g : State → List Word) (s : State),
      ∃ p, l.foldl (fun s k => skSend s k (f s) 0 (g s)) s = { s with ports := p } := by
    intro l f g
    induction l with
    | nil => exact fun s => ⟨_, rfl⟩
    | cons k l ih =>
      intro s
      obtain ⟨p, h⟩ := ih (skSend s k (f s) 0 (g s))
      exact ⟨p, h⟩
  exact fold _ (fun _ => 2) (fun s => [word (psNat s.phase.now / 2 ^ 32), word (psNat s.phase.now)]) s

/-- A capture changes the 1588 clock, the captured time and PTP_CAPTURE. -/
theorem captureTime_eq (s : State) : ∃ ns sec c n, captureTime s = { s with
    phase := { s.phase with todNs := ns, todSec := sec, capture := c }, free := n, regs := (captureTime s).regs }
    ∧ RegsBut s (captureTime s) [Reg.PTP_CAPTURE] := by
  unfold captureTime
  split
  · refine ⟨_, _, _, _, rfl, fun a ha => ?_⟩
    rw [reg_setFlag, if_neg (by simpa using ha)]
    unfold countFld
    rw [reg_setFld, if_neg (by simpa using ha)]
    rfl
  · exact ⟨_, _, _, _, rfl, fun _ _ => rfl⟩

/-- The marks of the current crossing change its entry alone. -/
theorem markXing_eq (s : State) : ∃ x, markXing s = { s with xings := x } := by
  unfold markXing
  extract_lets b q
  split
  · exact ⟨_, rfl⟩
  · exact ⟨_, rfl⟩

theorem xing_markXing_other (s : State) {b : Nat} (h : b ≠ s.phase.count) : xing (markXing s) b = xing s b := by
  unfold markXing
  extract_lets c q
  split
  · rw [xing_modXing, if_neg h]
  · rfl

theorem markXing_cal {s : State} (h : calMark s s.phase.count = true) : (xing (markXing s) s.phase.count).cal = true := by
  unfold markXing
  dsimp only
  rw [if_pos (.inl h), xing_modXing, if_pos rfl]
  exact h

theorem markXing_tp {s : State} (h : tpMark s s.phase.count = true) : (xing (markXing s) s.phase.count).tp = true := by
  unfold markXing
  dsimp only
  rw [if_pos (.inr (.inl h)), xing_modXing, if_pos rfl]
  exact h

end Sys2Proof.Machine
end

section
/-! PROOFS. The command channel (O26). -/

namespace Sys2Proof.Machine

/-! ## Commands that are due (R13–R15, R35) -/

/-- A state whose wait `c` has left. -/
def leaving (s : State) (c : SchedCmd) : State := { s with phase := { s.phase with sched := s.phase.sched.erase c } }

/-- A command whose crossing has come and that is allowed has its effect and is executed. -/
theorem actCmd_runs {ty : Nat → Bool} {ok : State → Nat → Bool} {f : Nat → State → State} {s : State} {c : SchedCmd}
    (hc : firstDue s = some c) (ht : ty (cmdType c.word) = true) (ho : ok (leaving s c) (cmdArg c.word) = true) :
    actCmd ty ok f s = executed (f (cmdArg c.word) (leaving s c)) c.word := by
  unfold actCmd
  simp only [hc, ht]
  exact if_pos ho

/-- One that is not allowed only counts as refused. -/
theorem actCmd_refuses {ty : Nat → Bool} {ok : State → Nat → Bool} {f : Nat → State → State} {s : State} {c : SchedCmd}
    (hc : firstDue s = some c) (ht : ty (cmdType c.word) = true) (ho : ok (leaving s c) (cmdArg c.word) = false) :
    actCmd ty ok f s = refuseCmd (leaving s c) := by
  unfold actCmd
  simp only [hc, ht]
  exact if_neg (ne_true_of_eq_false ho)

/-- What an execution stores: the count, the last command and interrupt 6. -/
theorem reg_executed (s : State) (w : BitVec 16) (a : Nat) : reg (executed s w) a =
    if a = Reg.PG_IRQ_RAW Reg.phasePage then setBit (reg s (Reg.PG_IRQ_RAW Reg.phasePage)) 6 true
    else if a = Reg.CMD_LAST then word (s.phase.now.index * 65536 + w.toNat)
    else if a = Reg.CMD_CNT then reg s Reg.CMD_CNT + 1 else reg s a := by
  have hc : ∀ a, reg (count s Reg.CMD_CNT) a = if a = Reg.CMD_CNT then reg s Reg.CMD_CNT + 1 else reg s a :=
    fun a => reg_setReg s _ a _
  unfold executed
  rw [reg_irq]
  split
  · rw [reg_setReg_other _ _ (by decide), hc, if_neg (by decide)]
  · rw [reg_setReg]
    split
    · rfl
    · exact hc a

theorem executed_cnt (s : State) (w : BitVec 16) : reg (executed s w) Reg.CMD_CNT = reg s Reg.CMD_CNT + 1 := by
  rw [reg_executed, if_neg (by decide), if_neg (by decide), if_pos rfl]

theorem executed_last (s : State) (w : BitVec 16) :
    reg (executed s w) Reg.CMD_LAST = word (s.phase.now.index * 65536 + w.toNat) := by
  rw [reg_executed, if_neg (by decide), if_pos rfl]

theorem executed_irq (s : State) (w : BitVec 16) : flag (executed s w) (Reg.PG_IRQ_RAW Reg.phasePage) 6 = true := by
  unfold flag
  rw [reg_executed, if_pos rfl, bit_setBit]
  rfl

/-- A command with an effect on the phase block alone runs: it is counted and recorded, and raises interrupt 6. -/
theorem executed_ran (s : State) (w : BitVec 16) :
    Raises s (executed s w) [Reg.CMD_CNT, Reg.CMD_LAST, Reg.PG_IRQ_RAW Reg.phasePage]
    ∧ reg (executed s w) Reg.CMD_CNT = reg s Reg.CMD_CNT + 1
    ∧ reg (executed s w) Reg.CMD_LAST = word (s.phase.now.index * 65536 + w.toNat)
    ∧ flag (executed s w) (Reg.PG_IRQ_RAW Reg.phasePage) 6 = true :=
  ⟨((Raises.setReg s _ _ (by simp)).trans (Raises.setReg _ _ _ (by simp))).trans (Raises.irq _ _ _ (by simp)),
    executed_cnt s w, executed_last s w, executed_irq s w⟩

/-- An execution leaves the phase block, the threads, the queues and the marks of crossings. -/
theorem executed_phase (s : State) (w : BitVec 16) : (executed s w).phase = s.phase := by rw [(executed_ran s w).1.1]

theorem executed_threads (s : State) (w : BitVec 16) : (executed s w).threads = s.threads := by rw [(executed_ran s w).1.1]

theorem executed_queues (s : State) (w : BitVec 16) : (executed s w).queues = s.queues := by rw [(executed_ran s w).1.1]

theorem executed_xing (s : State) (w : BitVec 16) (b : Nat) : xing (executed s w) b = xing s b := by
  have h : (executed s w).xings = s.xings := by rw [(executed_ran s w).1.1]
  unfold xing
  rw [h]

/-- A refused command is counted with source 0x04. -/
theorem refuseCmd_noted (s : State) : Noted s (refuseCmd s) [Reg.CMD_ERR_CNT] Reg.phasePage 4
    ∧ fld (refuseCmd s) Reg.CMD_ERR_CNT 7 0 = sat 255 (fld s Reg.CMD_ERR_CNT 7 0 + 1) :=
  countSat_noted s (by decide) (by decide) (by decide) (by decide) (by decide)

/-! ## Effects (R14, R16) -/

/-- CROSSING_RESET at a crossing 0 changes nothing. -/
theorem crossingResetEffect_zero {s : State} (h : s.phase.now.index = 0) : crossingResetEffect s = s := if_pos h

/-- CROSSING_RESET makes the crossing a crossing 0 of its orbit, with no register stored but PTP_CAPTURE. -/
theorem crossingResetEffect_resets (s : State) :
    let s' := crossingResetEffect s
    s'.phase.now = { s.phase.now with index := 0 } ∧ s'.phase.count = s.phase.count ∧ s'.phase.sched = s.phase.sched
    ∧ RegsBut s s' [Reg.PTP_CAPTURE] ∧ s'.threads = s.threads ∧ s'.queues = s.queues := by
  by_cases h : s.phase.now.index = 0
  · rw [crossingResetEffect_zero h]
    exact ⟨by rw [← h], rfl, rfl, fun _ _ => rfl, rfl, rfl⟩
  unfold crossingResetEffect
  rw [if_neg h]
  obtain ⟨x, h1⟩ := relabel_eq { s.phase.now with index := 0 } s
  generalize relabel { s.phase.now with index := 0 } s = s1 at h1
  obtain ⟨p, h2⟩ := sendPhaseCheck_eq s1
  obtain ⟨ns, sec, c, n, h3, hr⟩ := captureTime_eq (sendPhaseCheck s1)
  generalize captureTime (sendPhaseCheck s1) = s3 at h3 hr
  rw [h2, h1] at hr
  dsimp only
  unfold modPhase
  dsimp only
  rw [h3, h2, h1]
  exact ⟨rfl, rfl, rfl, hr, rfl, rfl⟩

/-- CAL_WINDOW with a length: the window is set, and one that opens at once marks the crossing. -/
theorem calWindowEffect_opens {s : State} (o : Nat) (h : 0 < fld s Reg.CAL_WIN 15 0) :
    let s' := calWindowEffect o s
    (∃ x, s' = { s with phase := { s.phase with calOpens := s.phase.calOpens ++ [s.phase.count + o] }, xings := x })
    ∧ (o = 0 → (xing s' s.phase.count).cal = true) ∧ ∀ b, b ≠ s.phase.count → xing s' b = xing s b := by
  unfold calWindowEffect
  rw [if_neg (by omega)]
  generalize hs1 : modPhase s (fun ph => { ph with calOpens := ph.calOpens ++ [ph.count + o] }) = s1
  have hc : s1.phase.count = s.phase.count := by rw [← hs1]; rfl
  obtain ⟨x, e⟩ := markXing_eq s1
  refine ⟨⟨x, by rw [e, ← hs1]; rfl⟩, fun ho => ?_, fun b hb => ?_⟩
  · rw [← hc]
    refine markXing_cal ?_
    have hl : fld s1 Reg.CAL_WIN 15 0 = fld s Reg.CAL_WIN 15 0 := by rw [← hs1]; rfl
    unfold calMark
    rw [hl, hc]
    simp [← hs1, modPhase, ho, h]
  · rw [xing_markXing_other s1 (by rw [hc]; exact hb), ← hs1]
    rfl

/-- TEST_PULSE: the crossing is set, and this one is marked if it is it. -/
theorem testPulseEffect_sets (s : State) (o : Nat) :
    let s' := testPulseEffect o s
    (∃ x, s' = { s with phase := { s.phase with testPulses := s.phase.testPulses ++ [s.phase.count + o] }, xings := x })
    ∧ (o = 0 → (xing s' s.phase.count).tp = true) ∧ ∀ b, b ≠ s.phase.count → xing s' b = xing s b := by
  unfold testPulseEffect
  generalize hs1 : modPhase s (fun ph => { ph with testPulses := ph.testPulses ++ [ph.count + o] }) = s1
  have hc : s1.phase.count = s.phase.count := by rw [← hs1]; rfl
  obtain ⟨x, e⟩ := markXing_eq s1
  refine ⟨⟨x, by rw [e, ← hs1]; rfl⟩, fun ho => ?_, fun b hb => ?_⟩
  · rw [← hc]
    refine markXing_tp ?_
    unfold tpMark
    rw [hc]
    simp [← hs1, modPhase, ho]
  · rw [xing_markXing_other s1 (by rw [hc]; exact hb), ← hs1]
    rfl

/-- SYNC_CHECK compares the low orbit bits; a difference is source 0x09, which degrades the device in RUN. -/
theorem syncCheckEffect_compares (s : State) (a : Nat) :
    let s' := syncCheckEffect a s
    let differs := a ≠ s.phase.now.orbit % 4096
    s'.phase = s.phase ∧ phStat s' 7 = decide differs ∧ reg s' Reg.CMD_CNT = reg s Reg.CMD_CNT
    ∧ (differs → flag s' (Reg.PG_ERR_STICKY Reg.phasePage) 9 = true)
    ∧ (differs → mode s = 4 → flag s' Reg.BL_SUMMARY 30 = true) := by
  have hstat : ∀ b, phStat (setPhStat s 7 b) 7 = b := fun b => by
    unfold phStat setPhStat flag; rw [reg_setFlag, if_pos rfl, bit_setBit]; simp
  have hcnt : ∀ b, reg (setPhStat s 7 b) Reg.CMD_CNT = reg s Reg.CMD_CNT := fun b => by
    unfold setPhStat; rw [reg_setFlag, if_neg (by decide)]
  unfold syncCheckEffect
  dsimp only
  split
  · next h => exact ⟨rfl, by rw [hstat]; simp [h], hcnt false, fun hd => absurd h hd, fun hd => absurd h hd⟩
  · next h =>
    obtain ⟨hr, hk, hf⟩ := fault_phase (setPhStat s 7 true) (src := 9) (by decide)
    refine ⟨by rw [hr.1]; rfl, ?_, ?_, fun _ => hf, fun _ hm => ?_⟩
    · have he : phStat (fault (setPhStat s 7 true) Reg.phasePage 9) 7 = phStat (setPhStat s 7 true) 7 := by
        unfold phStat flag
        rw [hk.regs _ (by decide) (.inr (by decide))]
      rw [he, hstat]
      simp [h]
    · rw [← hcnt true]
      exact hk.regs _ (by decide) (.inr (by decide))
    · have hm' : mode (setPhStat s 7 true) = 4 := by
        rw [← hm]; unfold mode setPhStat fld; rw [reg_setFlag, if_neg (by decide)]
      exact report_degrades _ (if_pos ⟨hm', .inr rfl⟩)

/-! ## The latency registers and the capture (R26, R27, R32) -/

/-- A field that plain writes may change takes the written one. -/
theorem fld_plainWrite (s : State) {a hi lo : Nat} (v : Word) (h : ∀ i ≤ hi, lo ≤ i → bit (rwMask a) i = true) :
    fld (plainWrite s a v) a hi lo = bits v hi lo := by
  have hb : ∀ i ≤ hi, lo ≤ i → bit (written s a v) i = bit v i := fun i hi hl => by
    have hm := h i hi hl
    unfold bit at hm ⊢
    have hn : i < 32 := BitVec.lt_of_getLsbD hm
    simp only [written, BitVec.getLsbD_or, BitVec.getLsbD_and, BitVec.getLsbD_not, hm]
    simp
  unfold fld plainWrite
  rw [reg_setReg_same]
  apply Nat.eq_of_testBit_eq
  intro i
  rw [testBit_bits, testBit_bits]
  by_cases hi' : i < hi + 1 - lo
  · rw [hb _ (by omega) (by omega)]
  · simp [hi']

/-- Plain writes change the whole value fields of the latency registers. -/
theorem rwMask_orbitLen : ∀ i ≤ 16, 0 ≤ i → bit (rwMask Reg.ORBIT_LEN) i = true := by
  rw [show rwMask Reg.ORBIT_LEN = 0x1FFFF by decide]; decide

theorem rwMask_decisionLat : ∀ i ≤ 14, 0 ≤ i → bit (rwMask Reg.DECISION_LAT) i = true := by
  rw [show rwMask Reg.DECISION_LAT = 0x7FFF by decide]; decide

theorem rwMask_guard : ∀ i ≤ 7, 0 ≤ i → bit (rwMask Reg.GUARD) i = true := by
  rw [show rwMask Reg.GUARD = 0xFF by decide]; decide

/-- A refused write of the phase page is a NOTE of source 0x0A. -/
theorem phaseWrite_refused (s : State) (a : Nat) :
    Noted s (refuseWrite s Reg.phasePage 0x0A a) [] Reg.phasePage 0x0A :=
  noted_refuseWrite s Reg.phasePage 0x0A a [] (by decide) (by decide) (by decide)

theorem orbitLenWrite_takes {s : State} {v : Word} (hm : modeLocked s = false) (h1 : 1 ≤ bits v 16 0)
    (h2 : bits v 16 0 ≤ 65536) :
    orbitLenWrite v s = modPhase (plainWrite s Reg.ORBIT_LEN v) (fun ph => { ph with orbitLenStaged := true }) := by
  unfold orbitLenWrite
  exact if_neg (by simp [hm]; omega)

theorem orbitLenWrite_refuses {s : State} {v : Word} (h : modeLocked s = true ∨ bits v 16 0 = 0 ∨ 65536 < bits v 16 0) :
    orbitLenWrite v s = refuseWrite s Reg.phasePage 0x0A Reg.ORBIT_LEN := by
  unfold orbitLenWrite
  exact if_pos (by rcases h with h | h | h <;> simp [h])

theorem decisionLatWrite_takes {s : State} {v : Word} (hm : modeLocked s = false) (hp : runPending s = false)
    (h1 : 64 ≤ bits v 14 0) (h2 : bits v 14 0 ≤ 16384) (h3 : guard s + 32 ≤ bits v 14 0) :
    decisionLatWrite v s = refit (plainWrite s Reg.DECISION_LAT v) := by
  unfold decisionLatWrite
  exact if_neg (by simp [hm, hp]; omega)

theorem decisionLatWrite_refuses {s : State} {v : Word} (h : modeLocked s = true ∨ runPending s = true ∨ bits v 14 0 < 64
    ∨ 16384 < bits v 14 0 ∨ bits v 14 0 < guard s + 32) :
    decisionLatWrite v s = refuseWrite s Reg.phasePage 0x0A Reg.DECISION_LAT := if_pos h

theorem guardWrite_takes {s : State} {v : Word} (hm : modeLocked s = false) (h1 : 1 ≤ bits v 7 0)
    (h2 : bits v 7 0 + 32 ≤ lat s) : guardWrite v s = plainWrite s Reg.GUARD v := by
  unfold guardWrite
  exact if_neg (by simp [hm]; omega)

theorem guardWrite_refuses {s : State} {v : Word} (h : modeLocked s = true ∨ bits v 7 0 = 0 ∨ lat s < bits v 7 0 + 32) :
    guardWrite v s = refuseWrite s Reg.phasePage 0x0A Reg.GUARD := by
  unfold guardWrite
  exact if_pos (by rcases h with h | h | h <;> simp [h])

/-- The fit of DECISION_LAT is stored in SC_RATE and SC_FIT alone (R241). -/
theorem refit_onlyRegs (s : State) : OnlyRegs s (refit s) [Reg.SC_RATE, Reg.SC_FIT] := by
  refine ⟨rfl, fun a ha => ?_⟩
  have h1 : a ≠ Reg.SC_RATE := fun e => ha (by simp [e])
  have h2 : a ≠ Reg.SC_FIT := fun e => ha (by simp [e])
  unfold refit
  dsimp only
  rw [reg_setReg_other _ _ h2, reg_setReg_other _ _ h1]

/-- The read of PTP_CAPTURE copies the latest capture into five words. -/
theorem ptpCaptureRead_copies {s : State} {ps : PS} {sec ns : Nat} (h : s.phase.capture = some (ps, sec, ns)) :
    let s' := ptpCaptureRead s
    s' = { s with regs := s'.regs, resp := [(reg s Reg.PTP_CAPTURE).toNat] }
    ∧ RegsBut s s' [Reg.PTP_CAP_ORBIT_LO, Reg.PTP_CAP_ORBIT_HI, Reg.PTP_CAP_SEC_LO, Reg.PTP_CAP_SEC_HI, Reg.PTP_CAP_NS]
    ∧ reg s' Reg.PTP_CAP_ORBIT_LO = word ps.orbit ∧ reg s' Reg.PTP_CAP_ORBIT_HI = word (ps.orbit / 2 ^ 32 % 65536)
    ∧ reg s' Reg.PTP_CAP_SEC_LO = word sec ∧ reg s' Reg.PTP_CAP_SEC_HI = word (sec / 2 ^ 32 % 65536)
    ∧ reg s' Reg.PTP_CAP_NS = word (ns % 2 ^ 30) := by
  have he : ptpCaptureRead s = setReg (setReg (setReg (setReg (setReg (respond s [(reg s Reg.PTP_CAPTURE).toNat])
      Reg.PTP_CAP_ORBIT_LO (word ps.orbit)) Reg.PTP_CAP_ORBIT_HI (word (ps.orbit / 2 ^ 32 % 65536)))
      Reg.PTP_CAP_SEC_LO (word sec)) Reg.PTP_CAP_SEC_HI (word (sec / 2 ^ 32 % 65536))) Reg.PTP_CAP_NS (word (ns % 2 ^ 30)) := by
    unfold ptpCaptureRead
    have h' : (respond s [(reg s Reg.PTP_CAPTURE).toNat]).phase.capture = some (ps, sec, ns) := h
    simp only [h']
  dsimp only
  rw [he]
  refine ⟨rfl, fun a ha => ?_, ?_⟩
  · simp only [List.mem_cons, List.not_mem_nil, or_false, not_or] at ha
    obtain ⟨h1, h2, h3, h4, h5⟩ := ha
    rw [reg_setReg_other _ _ h5, reg_setReg_other _ _ h4, reg_setReg_other _ _ h3, reg_setReg_other _ _ h2,
      reg_setReg_other _ _ h1, reg_respond]
  · simp [reg_setReg, Reg.PTP_CAP_ORBIT_LO, Reg.PTP_CAP_ORBIT_HI, Reg.PTP_CAP_SEC_LO, Reg.PTP_CAP_SEC_HI, Reg.PTP_CAP_NS]

/-! ## Frames and lock (R12, R33, R34) -/

/-- A code or check error, or a lost clock, is counted and recorded. -/
theorem frameError_noted (s : State) {hi lo src : Nat} (h : hi = lo + 7) (hh : hi < 32) (hs : src < 31) :
    Noted s (note (countSat s Reg.CMD_ERR_CNT hi lo) Reg.phasePage src) [Reg.CMD_ERR_CNT] Reg.phasePage src
    ∧ fld (note (countSat s Reg.CMD_ERR_CNT hi lo) Reg.phasePage src) Reg.CMD_ERR_CNT hi lo
      = sat 255 (fld s Reg.CMD_ERR_CNT hi lo + 1) := by
  have e : 2 ^ (hi + 1 - lo) - 1 = 255 := by rw [show hi + 1 - lo = 8 by omega]; rfl
  rw [← e]
  exact countSat_noted s (by decide) (by decide) (by omega) hh hs

theorem mcmdFrame_unclocked {s : State} (w : BitVec 16) (chk : Byte) (e : Bool) (h0 : phStat s 0 = false)
    (hs : substOn s = false) : mcmdFrame w chk e s = note (countSat s Reg.CMD_ERR_CNT 31 24) Reg.phasePage 0 := by
  unfold mcmdFrame
  rw [if_neg (by simp [hs]), if_pos (by simp [h0])]

theorem mcmdFrame_codeErr {s : State} (w : BitVec 16) (chk : Byte) (h0 : phStat s 0 = true) (h2 : phStat s 2 = true)
    (hs : substOn s = false) : mcmdFrame w chk true s = note (countSat s Reg.CMD_ERR_CNT 31 24) Reg.phasePage 0 := by
  unfold mcmdFrame
  rw [if_neg (by simp [hs]), if_neg (by simp [h0]), if_neg (by simp [h2]), if_pos rfl]

theorem mcmdFrame_badCheck {s : State} {w : BitVec 16} {chk : Byte} (h0 : phStat s 0 = true) (h2 : phStat s 2 = true)
    (hs : substOn s = false) (hc : crc8 (beBytes 2 w.toNat) ≠ chk) :
    mcmdFrame w chk false s = note (countSat s Reg.CMD_ERR_CNT 23 16) Reg.phasePage 1 := by
  unfold mcmdFrame
  rw [if_neg (by simp [hs]), if_neg (by simp [h0]), if_neg (by simp [h2]), if_neg (by simp), if_pos hc]

theorem mcmdFrame_good {s : State} {w : BitVec 16} {chk : Byte} (h0 : phStat s 0 = true) (h2 : phStat s 2 = true)
    (hs : substOn s = false) (he : enField s Reg.phasePage Reg.PH_CTL 2 = true) (ha : NoArm s Reg.phasePage 1)
    (hc : crc8 (beBytes 2 w.toNat) = chk) :
    mcmdFrame w chk false s = modPhase s (fun ph =>
      { ph with sched := ph.sched ++ [{ due := ph.count + 16, injected := false, word := w }] }) := by
  have ht : takeInjection s Reg.phasePage 1 = (none, s) := if_neg ha
  unfold mcmdFrame
  rw [if_neg (by simp [hs]), if_neg (by simp [h0]), if_neg (by simp [h2]), if_neg (by simp), if_neg (by simp [hc]), ht]
  exact if_neg (by simp [he])

/-- The loss of the MCMD lock is a NOTE of source 0x02. -/
theorem mcmdLockLost_noted {s : State} (h : phStat s 2 = true) :
    Noted { s with phase := { s.phase with lockLostAt := some s.phase.count } } (mcmdLockLost s) [Reg.PH_STAT] Reg.phasePage 2
    ∧ reg (mcmdLockLost s) Reg.PH_STAT = setBit (reg s Reg.PH_STAT) 2 false := by
  generalize hs1 : setPhStat { s with phase := { s.phase with lockLostAt := some s.phase.count } } 2 false = s1
  have he : mcmdLockLost s = note s1 Reg.phasePage 0x02 := by
    unfold mcmdLockLost
    rw [← hs1]
    exact if_pos h
  obtain ⟨hr, hf⟩ := noted_note s1 Reg.phasePage 2 5 0 0 [Reg.PH_STAT] (by decide) (by decide) (by decide)
  rw [he]
  refine ⟨⟨Records.trans ?_ hr, hf⟩, ?_⟩
  · rw [← hs1]; exact Records.setReg _ _ _ (.inl (by simp))
  · rw [reg_note_phase _ _ _ _ _ _ (by decide) (by decide) (by decide), ← hs1]
    unfold setPhStat
    rw [reg_setFlag, if_pos rfl]
    rfl

/-- HOLD and RESUME store PH_STAT.held. -/
theorem executed_held (s : State) (w : BitVec 16) (b : Bool) :
    let s' := executed (setPhStat s 4 b) w
    s'.phase = s.phase ∧ reg s' Reg.PH_STAT = setBit (reg s Reg.PH_STAT) 4 b ∧ reg s' Reg.CMD_CNT = reg s Reg.CMD_CNT + 1 := by
  refine ⟨executed_phase _ w, ?_, ?_⟩
  · rw [reg_executed, if_neg (by decide), if_neg (by decide), if_neg (by decide)]
    exact (reg_setFlag s _ _ _ _).trans (if_pos rfl)
  · rw [executed_cnt]
    exact congrArg (· + 1) ((reg_setFlag s _ _ _ _).trans (if_neg (by decide)))

/-- A command of a reserved type leaves its wait and is counted with source 0x03. -/
theorem reservedCmd_counts {s : State} {c : SchedCmd} (hc : firstDue s = some c) (ht : 10 ≤ cmdType c.word) :
    reservedCmd s = note (countSat (leaving s c) Reg.CMD_ERR_CNT 15 8) Reg.phasePage 0x03 := by
  unfold reservedCmd
  simp only [hc]
  exact if_neg (by omega)

/-! ## The statement -/

/-- Settles O26: a command that is due leaves its wait and is executed or refused under one lemma each, its effect under
the lemma of its type; frames, lock, injection and the latency registers each under their own. -/
theorem commandChannel : Obligations.CommandChannel := by
  unfold Obligations.CommandChannel
  intro s ph refused
  refine ⟨⟨_, rfl, rfl, ?_, ?_⟩, ?lost, ?unclocked, ?frames, ?due, ?inject, ?len, ?lat, ?guard, ?capture⟩
  · exact fun a ha => reg_setReg_other s _ (by simpa using ha)
  · exact reg_setReg_same s _ _
  case lost => exact fun h => ⟨_, rfl, mcmdLockLost_noted h⟩
  case unclocked =>
    intro w chk e h0 hs
    refine ⟨_, rfl, ?_⟩
    rw [mcmdFrame_unclocked w chk e h0 hs]
    exact frameError_noted s rfl (by decide) (by decide)
  case frames =>
    intro w chk h0 h2 hs he
    refine ⟨fun ha hc => congrArg _ (mcmdFrame_good h0 h2 hs he ha hc), fun hc => ⟨_, rfl, ?_⟩, ⟨_, rfl, ?_⟩⟩
    · rw [mcmdFrame_badCheck h0 h2 hs hc]
      exact frameError_noted s rfl (by decide) (by decide)
    · rw [mcmdFrame_codeErr w chk h0 h2 hs]
      exact frameError_noted s rfl (by decide) (by decide)
  case due =>
    intro c hc a left ran turned ty
    have runs : ∀ {cmd : Instr} {k : Nat} {ok : State → Nat → Bool} {f : Nat → State → State} {P : State → Prop},
        exec cmd s = .next (actCmd (· = k) ok f s) → ty = k → ok (leaving s c) a = true → P (executed (f a (leaving s c)) c.word) →
        Gives cmd s P := fun he ht ho hP => ⟨_, he, by rw [actCmd_runs hc (by simpa using ht) ho]; exact hP⟩
    have refuses : ∀ {cmd : Instr} {k : Nat} {ok : State → Nat → Bool} {f : Nat → State → State},
        exec cmd s = .next (actCmd (· = k) ok f s) → ty = k → ok (leaving s c) a = false → Gives cmd s turned :=
      fun he ht ho => ⟨_, he, by rw [actCmd_refuses hc (by simpa using ht) ho]; exact refuseCmd_noted (leaving s c)⟩
    refine ⟨?nop, ?crossingReset, ?orbitReset, ?runStart, ?runStop, ?calWindow, ?testPulse, ?hold, ?resume, ?sync, ?reserved⟩
    case nop => exact fun ht => runs rfl ht rfl (executed_ran (leaving s c) c.word)
    case crossingReset =>
      refine fun ht => ⟨fun ha hm => ?_, fun h => refuses rfl ht ?_⟩
      · refine runs rfl ht (by rw [Bool.and_eq_true]; exact ⟨decide_eq_true ha, (congrArg _ hm : _ = !false)⟩) ?_
        obtain ⟨hnow, hcount, hsched, hregs, hthreads, hqueues⟩ := crossingResetEffect_resets (leaving s c)
        rw [executed_phase, executed_threads, executed_queues]
        refine ⟨hnow, hcount, hsched, ?_, ?_, executed_irq _ _, hthreads, hqueues, fun h0 => ?_⟩
        · rw [executed_cnt, hregs _ (by decide)]
          rfl
        · rw [executed_last, hnow]
          simp
        · rw [crossingResetEffect_zero (s := leaving s c) h0]
          exact executed_ran (leaving s c) c.word
      · rcases h with h | h
        · rw [Bool.and_eq_false_iff]; exact .inl (decide_eq_false h)
        · rw [Bool.and_eq_false_iff]; exact .inr (congrArg _ h : _ = !true)
    case orbitReset =>
      exact fun ht => ⟨fun hm => runs rfl ht (congrArg _ hm : _ = !false) (executed_ran _ _),
        fun hm => refuses rfl ht (congrArg _ hm : _ = !true)⟩
    case runStart =>
      exact fun ht => ⟨fun hm => runs rfl ht (decide_eq_true hm) (executed_ran _ _),
        fun hm => refuses rfl ht (decide_eq_false hm)⟩
    case runStop =>
      exact fun ht => ⟨fun ha => runs rfl ht (decide_eq_true ha) (executed_ran _ _),
        fun ha => refuses rfl ht (decide_eq_false ha)⟩
    case calWindow =>
      refine fun ht => ⟨fun h0 => runs rfl ht rfl ?_, fun h0 => runs rfl ht rfl ?_⟩
      · rw [show calWindowEffect a (leaving s c) = leaving s c from if_pos h0]
        exact executed_ran (leaving s c) c.word
      · obtain ⟨⟨x, he⟩, hcal, hother⟩ := calWindowEffect_opens (s := leaving s c) a h0
        simp only [executed_phase, executed_xing, executed_cnt]
        refine ⟨?_, ?_, hcal, hother⟩
        · rw [he]; rfl
        · rw [he]; rfl
    case testPulse =>
      refine fun ht => runs rfl ht rfl ?_
      obtain ⟨⟨x, he⟩, htp, hother⟩ := testPulseEffect_sets (leaving s c) a
      simp only [executed_phase, executed_xing, executed_cnt]
      refine ⟨?_, ?_, htp, hother⟩
      · rw [he]; rfl
      · rw [he]; rfl
    case hold =>
      exact fun ht => ⟨fun ha => runs rfl ht (decide_eq_true ha) (executed_held (leaving s c) c.word true),
        fun ha => refuses rfl ht (decide_eq_false ha)⟩
    case resume =>
      exact fun ht => ⟨fun ha => runs rfl ht (decide_eq_true ha) (executed_held (leaving s c) c.word false),
        fun ha => refuses rfl ht (decide_eq_false ha)⟩
    case sync =>
      refine fun ht => runs rfl ht rfl ?_
      obtain ⟨hp, hstat, hcnt, hsticky, hdegrade⟩ := syncCheckEffect_compares (leaving s c) a
      have other : ∀ {b : Nat} (i : Nat), b ≠ Reg.PG_IRQ_RAW Reg.phasePage → b ≠ Reg.CMD_LAST → b ≠ Reg.CMD_CNT →
          flag (executed (syncCheckEffect a (leaving s c)) c.word) b i = flag (syncCheckEffect a (leaving s c)) b i :=
        fun i h1 h2 h3 => by unfold flag; rw [reg_executed, if_neg h1, if_neg h2, if_neg h3]
      rw [executed_phase]
      refine ⟨hp, ?_, ?_, fun hd => ?_, fun hd hm => ?_⟩
      · exact (other 7 (by decide) (by decide) (by decide)).trans hstat
      · rw [executed_cnt, hcnt]; rfl
      · exact (other 9 (by decide) (by decide) (by decide)).trans (hsticky hd)
      · exact (other 30 (by decide) (by decide) (by decide)).trans (hdegrade hd hm)
    case reserved =>
      refine fun ht => ⟨_, rfl, ?_⟩
      rw [reservedCmd_counts hc ht]
      exact countSat_noted (leaving s c) (by decide) (by decide) (by decide) (by decide) (by decide)
  case inject =>
    refine fun w => ⟨fun h => ?_, fun h => ⟨_, rfl, ?_⟩⟩
    · exact congrArg _ (if_neg (by simp [h]))
    · rw [show cmdInject w s = refuseCmd s from if_pos h]
      exact refuseCmd_noted s
  case len =>
    intro v n
    refine ⟨fun hm h1 h2 => ⟨_, rfl, ?_⟩, fun h => ⟨_, rfl, ?_⟩⟩
    · rw [orbitLenWrite_takes hm h1 h2]
      exact ⟨rfl, fun a ha => reg_setReg_other s _ (by simpa using ha), fld_plainWrite s v rwMask_orbitLen⟩
    · rw [orbitLenWrite_refuses h]
      exact phaseWrite_refused s _
  case lat =>
    intro v n
    refine ⟨fun hm hp h1 h2 h3 => ⟨_, rfl, ?_⟩, fun h => ⟨_, rfl, ?_⟩⟩
    · rw [decisionLatWrite_takes hm hp h1 h2 h3]
      obtain ⟨he, hr⟩ := refit_onlyRegs (plainWrite s Reg.DECISION_LAT v)
      refine ⟨⟨by rw [he]; rfl, fun a ha => ?_⟩, ?_⟩
      · rw [hr a (fun h => ha (List.mem_cons_of_mem _ h))]
        exact reg_setReg_other s _ (fun e => ha (by simp [e]))
      · refine Eq.trans ?_ (fld_plainWrite s v rwMask_decisionLat)
        unfold Machine.lat fld
        rw [hr _ (by decide)]
    · rw [decisionLatWrite_refuses h]
      exact phaseWrite_refused s _
  case guard =>
    intro v n
    refine ⟨fun hm h1 h2 => ⟨_, rfl, ?_⟩, fun h => ⟨_, rfl, ?_⟩⟩
    · rw [guardWrite_takes hm h1 h2]
      exact ⟨⟨rfl, fun a ha => reg_setReg_other s _ (by simpa using ha)⟩, fld_plainWrite s v rwMask_guard⟩
    · rw [guardWrite_refuses h]
      exact phaseWrite_refused s _
  case capture => exact fun ps sec ns h => ⟨_, rfl, ptpCaptureRead_copies h⟩

end Sys2Proof.Machine
end

section
/-! PROOFS. What admission, schedules and the beginning of a crossing may change. -/

namespace Sys2Proof.Machine

/-! ## What admission and scheduling may change (R192, R204) -/

/-- The same decision slot, but for its count of final nodes. -/
def SameSlot (d d' : Decision) : Prop := d'.p = d.p ∧ d'.b = d.b ∧ d'.ps = d.ps ∧ d'.closed = d.closed ∧ d'.bits = d.bits

/-- Decision slots open and instances come and go: partitions, the Ductus, error records and counters change, no slot is
lost, and the phase block and its page stay. -/
structure Schedules (s s' : State) : Prop where
  frame : s' = { s with parts := s'.parts, decisions := s'.decisions, ductus := s'.ductus, regs := s'.regs, mem := s'.mem,
                        out := s'.out, free := s'.free }
  steady : Steady s s'
  slots : ∀ d ∈ s.decisions, ∃ d' ∈ s'.decisions, SameSlot d d'

theorem Schedules.refl (s : State) : Schedules s s := ⟨rfl, Steady.refl s, fun d hd => ⟨d, hd, rfl, rfl, rfl, rfl, rfl⟩⟩

theorem Schedules.trans {s s' s'' : State} (h : Schedules s s') (h' : Schedules s' s'') : Schedules s s'' := by
  refine ⟨by rw [h'.frame, h.frame], h.steady.trans h'.steady, fun d hd => ?_⟩
  obtain ⟨d1, hd1, hp, hb, hps, hc, hbits⟩ := h.slots d hd
  obtain ⟨d2, hd2, hp', hb', hps', hc', hbits'⟩ := h'.slots d1 hd1
  exact ⟨d2, hd2, hp'.trans hp, hb'.trans hb, hps'.trans hps, hc'.trans hc, hbits'.trans hbits⟩

theorem Schedules.foldl {α : Type} (f : State → α → State) (l : List α) (h : ∀ s a, Schedules s (f s a)) (s : State) :
    Schedules s (l.foldl f s) := by
  induction l generalizing s with
  | nil => exact Schedules.refl s
  | cons a l ih => exact (h s a).trans (ih _)

theorem Schedules.ite {s a b : State} {c : Prop} [Decidable c] (ha : Schedules s a) (hb : Schedules s b) :
    Schedules s (if c then a else b) := by
  split
  · exact ha
  · exact hb

/-- A change of the Ductus, of partitions or of the supply of free values alone. -/
theorem Schedules.of_fields (s : State) (x : Ductus) (p : Tbl Part) (n : Nat) :
    Schedules s { s with ductus := x, parts := p, free := n } :=
  ⟨rfl, Steady.of_regs rfl, fun d hd => ⟨d, hd, rfl, rfl, rfl, rfl, rfl⟩⟩

theorem Schedules.of_records {s s' : State} {l : List Nat} (h : Records s s' l) (hk : Steady s s') : Schedules s s' :=
  ⟨by rw [h.1], hk, fun d hd => ⟨d, by rw [h.1]; exact hd, rfl, rfl, rfl, rfl, rfl⟩⟩

theorem Schedules.count (s : State) {a : Nat} (h : Beyond a) : Schedules s (Machine.count s a) :=
  ⟨rfl, Steady.setReg s _ h, fun d hd => ⟨d, hd, rfl, rfl, rfl, rfl, rfl⟩⟩

theorem Schedules.modDecision (s : State) (p b : Nat) {f : Decision → Decision} (hf : ∀ d, SameSlot d (f d)) :
    Schedules s (Machine.modDecision s p b f) := by
  refine ⟨rfl, Steady.of_regs rfl, fun d hd => ⟨_, List.mem_map_of_mem hd, ?_⟩⟩
  split
  · exact hf d
  · exact ⟨rfl, rfl, rfl, rfl, rfl⟩

theorem Schedules.createInst (s : State) (t b : Nat) (ps : PS) : Schedules s (Machine.createInst s t b ps).1 := by
  unfold Machine.createInst
  split
  · exact Schedules.refl s
  · split
    · next h =>
      have h1 := Schedules.of_fields s s.ductus s.parts (s.free + 1)
      have hb : Based Reg.ductusPage := by decide
      rw [← (Prod.mk.inj h).2]
      dsimp only
      exact (h1.trans (Schedules.count _ (a := Reg.DX_INST_DROP) (by decide))).trans
        (Schedules.of_records (l := []) (Records.note _ _ _ _ _ _ hb) (Steady.note _ _ _ _ _ hb))
    · next h =>
      rw [← (Prod.mk.inj h).2]
      have h1 : ∀ x, Schedules s { s with free := s.free + 1, ductus := x } := fun x => Schedules.of_fields s x s.parts _
      dsimp only
      exact Schedules.ite ((h1 _).trans (Schedules.modDecision _ _ _ (fun d => ⟨rfl, rfl, rfl, rfl, rfl⟩))) (h1 _)

theorem Schedules.scheduleInsts (s : State) (p : Nat) : Schedules s (Machine.scheduleInsts s p) := by
  unfold Machine.scheduleInsts
  exact Schedules.ite (Schedules.refl s) (Schedules.foldl _ _ (fun s t => Schedules.createInst s t _ _) s)

theorem Schedules.openDecision (s : State) (p b : Nat) (ps : PS) : Schedules s (Machine.openDecision s p b ps) :=
  ⟨rfl, Steady.of_regs rfl, fun d hd => ⟨d, List.mem_append_left _ hd, rfl, rfl, rfl, rfl, rfl⟩⟩

theorem Schedules.modPart (s : State) (p : Nat) (f : Part → Part) : Schedules s (Machine.modPart s p f) :=
  Schedules.of_fields s s.ductus _ s.free

theorem Schedules.admitNow (s : State) (p : Nat) : Schedules s (Machine.admitNow s p) :=
  ((Schedules.openDecision s p _ _).trans (Schedules.modPart _ _ _)).trans (Schedules.scheduleInsts _ _)

theorem Schedules.admitAll (s : State) : Schedules s (Machine.admitAll s) := by
  unfold Machine.admitAll
  exact Schedules.ite (Schedules.refl s) (Schedules.foldl _ _ Schedules.admitNow s)

theorem Schedules.unplace (s : State) (o : Op) : Schedules s (Machine.unplace s o) := by
  unfold Machine.unplace
  split
  · exact Schedules.of_fields s _ s.parts s.free
  · exact Schedules.of_fields s _ s.parts s.free
  · exact Schedules.refl s

theorem Schedules.dropOp (s : State) (o : Op) : Schedules s (Machine.dropOp s o) :=
  (Schedules.unplace s o).trans (Schedules.of_fields _ _ _ _)

theorem Schedules.dropInst (s : State) (x : Inst) : Schedules s (Machine.dropInst s x) := by
  unfold Machine.dropInst
  extract_lets s1 dx s2
  have h1 : Schedules s s1 := Schedules.foldl _ _ Schedules.dropOp s
  have h2 : Schedules s s2 := h1.trans (Schedules.of_fields _ _ _ _)
  exact Schedules.ite (h2.trans (Schedules.modDecision _ _ _ (fun d => ⟨rfl, rfl, rfl, rfl, rfl⟩))) h2

theorem Schedules.reschedule (s : State) : Schedules s (Machine.reschedule s) :=
  (Schedules.foldl _ _ Schedules.dropInst s).trans (Schedules.foldl _ _ Schedules.scheduleInsts _)

theorem Schedules.phase {s s' : State} (h : Schedules s s') : s'.phase = s.phase := by rw [h.frame]

/-- A partition that is admitted has an open slot for the current crossing, with no trigger bit. -/
def Opened (s : State) (p : Nat) (s' : State) : Prop :=
  ∃ d ∈ s'.decisions, d.p = p ∧ d.b = s.phase.count ∧ d.ps = s.phase.now ∧ d.closed = false ∧ d.bits = 0

theorem Opened.keeps {s s1 s' : State} {p : Nat} (h : Opened s p s1) (h' : Schedules s1 s') : Opened s p s' := by
  obtain ⟨d, hd, hp, hb, hps, hc, hbits⟩ := h
  obtain ⟨d', hd', hp', hb', hps', hc', hbits'⟩ := h'.slots d hd
  exact ⟨d', hd', hp'.trans hp, hb'.trans hb, hps'.trans hps, hc'.trans hc, hbits'.trans hbits⟩

theorem admitNow_opens (s : State) (p : Nat) : Opened s p (Machine.admitNow s p) := by
  have h : Opened s p (Machine.openDecision s p s.phase.count s.phase.now) :=
    ⟨_, List.mem_append_right _ (List.mem_singleton_self _), rfl, rfl, rfl, rfl, rfl⟩
  exact h.keeps ((Schedules.modPart _ _ _).trans (Schedules.scheduleInsts _ _))

theorem admitNow_foldl_opens {l : List Nat} {p : Nat} (s0 : State) (hp : p ∈ l) (s : State) (h : s.phase = s0.phase) :
    Opened s0 p (l.foldl Machine.admitNow s) := by
  induction l generalizing s with
  | nil => exact absurd hp List.not_mem_nil
  | cons q l ih =>
    rcases List.mem_cons.mp hp with rfl | hp
    · have h1 := admitNow_opens s p
      unfold Opened at h1
      rw [h] at h1
      exact Opened.keeps h1 (Schedules.foldl _ _ Schedules.admitNow _)
    · exact ih hp _ ((Schedules.admitNow s q).phase.trans h)

/-- Each admitting partition without a slot for the current crossing gets an open one (R204). -/
theorem admitAll_opens {s : State} {p : Nat} (hp : p < 16) (ha : admits s p = true)
    (hn : findDecision s p s.phase.count = none) (hd : s.phase.admissionDue ≠ some false) (hf : fatal s = false) :
    Opened s p (Machine.admitAll s) := by
  unfold Machine.admitAll
  rw [if_neg (by simp [hd, hf])]
  exact admitNow_foldl_opens s (by simp [hp, ha, hn]) s rfl

/-- With no partition admitting there is nothing to admit. -/
theorem admitAll_none {s : State} (h : ∀ p < 16, admits s p = false) : Machine.admitAll s = s := by
  have hl : (List.range 16).filter (fun p => admits s p && (findDecision s p s.phase.count).isNone) = [] := by
    rw [List.filter_eq_nil_iff]
    intro p hp
    simp [h p (List.mem_range.mp hp)]
  unfold Machine.admitAll
  rw [hl, List.foldl_nil]
  exact ite_self s

/-! ## What crossing 0 of an orbit brings (R10, R14, R31, R298) -/

/-- The label, the count and what the phase block knows of alignment are as before, and of PH_STAT all but running; no
counter of markers changes. -/
structure SameCrossing (s s' : State) : Prop where
  now : s'.phase.now = s.phase.now
  count : s'.phase.count = s.phase.count
  counting : s'.phase.counting = s.phase.counting
  started : s'.phase.started = s.phase.started
  alignNext : s'.phase.alignNext = s.phase.alignNext
  realignPending : s'.phase.realignPending = s.phase.realignPending
  misplacedFrom : s'.phase.misplacedFrom = s.phase.misplacedFrom
  ranges : s'.signet.ranges = s.signet.ranges
  stat : ∀ i, i ≠ 3 → phStat s' i = phStat s i
  errCnt : reg s' Reg.ORB_ERR_CNT = reg s Reg.ORB_ERR_CNT

theorem SameCrossing.refl (s : State) : SameCrossing s s := ⟨rfl, rfl, rfl, rfl, rfl, rfl, rfl, rfl, fun _ _ => rfl, rfl⟩

theorem SameCrossing.trans {s s' s'' : State} (h : SameCrossing s s') (h' : SameCrossing s' s'') : SameCrossing s s'' :=
  ⟨h'.now.trans h.now, h'.count.trans h.count, h'.counting.trans h.counting, h'.started.trans h.started,
    h'.alignNext.trans h.alignNext, h'.realignPending.trans h.realignPending, h'.misplacedFrom.trans h.misplacedFrom,
    h'.ranges.trans h.ranges, fun i hi => (h'.stat i hi).trans (h.stat i hi), h'.errCnt.trans h.errCnt⟩

theorem SameCrossing.ite {s a b : State} {c : Prop} [Decidable c] (ha : SameCrossing s a) (hb : SameCrossing s b) :
    SameCrossing s (if c then a else b) := by
  split
  · exact ha
  · exact hb

/-- Changes of the registers that leave PH_STAT and ORB_ERR_CNT, and of other fields than the phase block and the Signet. -/
theorem SameCrossing.of_regs {s s' : State} (hp : s'.phase = s.phase) (hs : s'.signet = s.signet)
    (h1 : reg s' Reg.PH_STAT = reg s Reg.PH_STAT) (h2 : reg s' Reg.ORB_ERR_CNT = reg s Reg.ORB_ERR_CNT) : SameCrossing s s' :=
  ⟨by rw [hp], by rw [hp], by rw [hp], by rw [hp], by rw [hp], by rw [hp], by rw [hp], by rw [hs],
    fun i _ => by unfold phStat flag; rw [h1], h2⟩

theorem SameCrossing.of_steady {s s' : State} (hp : s'.phase = s.phase) (hs : s'.signet = s.signet) (h : Steady s s') :
    SameCrossing s s' :=
  SameCrossing.of_regs hp hs (h.regs _ (by decide) (.inr (by decide))) (h.regs _ (by decide) (.inr (by decide)))

theorem SameCrossing.setRunning (s : State) (b : Bool) : SameCrossing s (Machine.setRunning s b) := by
  unfold Machine.setRunning
  refine SameCrossing.ite (SameCrossing.refl s) ⟨rfl, rfl, rfl, rfl, rfl, rfl, rfl, rfl, fun i hi => ?_, ?_⟩
  · unfold phStat flag
    rw [reg_irq, if_neg (by decide), reg_setFlag, if_pos rfl, bit_setBit, if_neg hi]
  · rw [reg_irq, if_neg (by decide), reg_setFlag, if_neg (by decide)]

theorem SameCrossing.captureTime (s : State) : SameCrossing s (Machine.captureTime s) := by
  obtain ⟨ns, sec, c, n, h, hr⟩ := captureTime_eq s
  refine ⟨?_, ?_, ?_, ?_, ?_, ?_, ?_, ?_, fun i _ => ?_, hr _ (by decide)⟩
  case refine_9 => unfold phStat flag; rw [hr _ (by decide)]
  all_goals rw [h]

theorem SameCrossing.sendPhaseCheck (s : State) : SameCrossing s (Machine.sendPhaseCheck s) := by
  obtain ⟨p, h⟩ := sendPhaseCheck_eq s
  rw [h]
  exact SameCrossing.of_regs rfl rfl rfl rfl

theorem SameCrossing.standaloneAdmission (s : State) : SameCrossing s (Machine.standaloneAdmission s) :=
  SameCrossing.ite ((SameCrossing.setRunning s true).trans (SameCrossing.of_regs rfl rfl rfl rfl)) (SameCrossing.refl s)

theorem SameCrossing.boundary (wrapped : Bool) (s : State) : SameCrossing s (Machine.boundary wrapped s) := by
  unfold Machine.boundary
  extract_lets ph1 ph2 s1 s2 s3 s4
  have h2 : SameCrossing s s2 := ⟨rfl, rfl, rfl, rfl, rfl, rfl, rfl, rfl, fun _ _ => rfl, rfl⟩
  have h3 : SameCrossing s s3 := SameCrossing.ite (h2.trans (SameCrossing.standaloneAdmission _)) h2
  have h4 : SameCrossing s s4 := h3.trans ⟨rfl, rfl, rfl, rfl, rfl, rfl, rfl, rfl, fun _ _ => rfl, rfl⟩
  exact (SameCrossing.ite h4 (h4.trans (SameCrossing.sendPhaseCheck _))).trans (SameCrossing.captureTime _)

theorem SameCrossing.handbackNow (s : State) : SameCrossing s (Machine.handbackNow s) := by
  have active : ∀ (s : State) (b : Bool), SameCrossing s (setActive s b) := fun s b => by
    refine SameCrossing.ite (SameCrossing.refl s) (SameCrossing.of_steady rfl rfl ?_)
    exact (Steady.setReg s _ (by decide)).trans (Steady.irq _ _ (by decide))
  unfold Machine.handbackNow
  refine SameCrossing.ite (SameCrossing.trans ?_ (active _ _)) (SameCrossing.refl s)
  exact SameCrossing.of_regs rfl rfl rfl rfl

/-! ## What every crossing brings (R14, R28, R34, R298) -/

/-- The watch of the MCMD lock ends its wait, and records in RUN. -/
theorem lockWatch_watches (s : State) : ∃ c, Records { s with phase := { s.phase with lockLostAt := c } } (lockWatch s) []
    ∧ Steady s (lockWatch s) := by
  unfold lockWatch
  split
  · split
    · refine ⟨none, ?_⟩
      dsimp only
      split
      · obtain ⟨hr, hk⟩ := report_light (modPhase s (fun ph => { ph with lockLostAt := none })) (l := [])
          (r := { page := Reg.phasePage, src := 2, sev := 2 }) (by decide) (.inr rfl)
        exact ⟨hr, hk.regs, hk.rise, hk.fatal⟩
      · exact ⟨Records.refl _ _, Steady.of_regs rfl⟩
    · exact ⟨s.phase.lockLostAt, Records.refl _ _, Steady.refl s⟩
  · exact ⟨s.phase.lockLostAt, Records.refl _ _, Steady.refl s⟩

theorem quorumWatch_eq (s : State) : ∃ m, quorumWatch s = { s with mgt := m } := by
  unfold quorumWatch
  split
  · exact ⟨_, rfl⟩
  · exact ⟨_, rfl⟩

/-- What a crossing brings before its slots open: marks, the watches and the alarms that are due. -/
theorem crossingStarts (s : State) : ∃ (c : Option Nat) (x : Tbl Xing) (m : Mgt),
    Records { s with phase := { s.phase with lockLostAt := c }, xings := x, mgt := m } (quorumWatch (lockWatch (markXing s))) []
    ∧ Steady s (quorumWatch (lockWatch (markXing s))) := by
  obtain ⟨x, hx⟩ := markXing_eq s
  obtain ⟨c, hr, hk⟩ := lockWatch_watches (markXing s)
  obtain ⟨m, hm⟩ := quorumWatch_eq (lockWatch (markXing s))
  rw [hm]
  refine ⟨c, x, m, ⟨?_, ?_, ?_⟩, ?_⟩
  · rw [hr.1, hx]
  · intro a h1 h2 h3
    have := hr.2.1 a h1 h2 h3
    rw [hx] at this ⊢
    exact this
  · intro j hj
    have := hr.2.2 j hj
    rw [hx] at this ⊢
    exact this
  · rw [hx] at hk ⊢
    exact ⟨hk.regs, hk.rise, hk.fatal⟩

/-- The alarms that are due follow the phase page, the label and the length of the orbit. -/
theorem dueAlarms_congr {s s' : State} (h : Steady s s') (hn : s'.phase.now = s.phase.now) (hl : s'.phase.len = s.phase.len) :
    dueAlarms s' = dueAlarms s := by
  unfold dueAlarms orbitLen
  rw [hn, hl]
  refine List.filter_congr (fun i hi => ?_)
  have hi := List.mem_range.mp hi
  have hr : reg s' (Reg.PH_ALARM i) = reg s (Reg.PH_ALARM i) := by
    refine h.regs _ ?_ (.inr ?_) <;> unfold Reg.PH_ALARM <;> omega
  unfold flag fld
  rw [hr]

theorem mem_dueAlarms (s : State) {a : Nat} (ha : a < 16) : a ∈ dueAlarms s ↔ flag s (Reg.PH_ALARM a) 31 = true
    ∧ fld s (Reg.PH_ALARM a) 15 0 = s.phase.now.index ∧ s.phase.now.index < orbitLen s := by
  unfold dueAlarms
  simp [List.mem_filter, ha, and_assoc]

/-- The crossing has begun, but for its slots and instances. -/
def xingBegun (s : State) : State :=
  modPhase (quorumWatch (lockWatch (markXing s))) (fun ph => { ph with alarmsDue := dueAlarms (quorumWatch (lockWatch (markXing s))) })

/-- A crossing begins, and then its slots open. -/
theorem enterCrossing_eq (wrapped zero : Bool) (s : State) :
    enterCrossing wrapped zero s = admitAll (xingBegun (if zero then handbackNow (boundary wrapped s) else s)) := rfl

/-- What has changed when a crossing has begun. -/
theorem xingBegun_eq (s : State) : Steady s (xingBegun s) ∧ ∃ c x m, xingBegun s = { s with
    phase := { s.phase with lockLostAt := c, alarmsDue := dueAlarms s }, xings := x, mgt := m
    regs := (xingBegun s).regs, mem := (xingBegun s).mem, out := (xingBegun s).out, free := (xingBegun s).free } := by
  obtain ⟨c, x, m, hr, hk⟩ := crossingStarts s
  unfold xingBegun
  generalize quorumWatch (lockWatch (markXing s)) = s1 at hr hk
  have hd : dueAlarms s1 = dueAlarms s := dueAlarms_congr hk (by rw [hr.1]) (by rw [hr.1])
  refine ⟨⟨hk.regs, hk.rise, hk.fatal⟩, c, x, m, ?_⟩
  rw [hd]
  unfold modPhase
  dsimp only
  rw [hr.1]

theorem SameCrossing.xingBegun (s : State) : SameCrossing s (Machine.xingBegun s) := by
  obtain ⟨hk, c, x, m, h⟩ := xingBegun_eq s
  refine ⟨?_, ?_, ?_, ?_, ?_, ?_, ?_, ?_, fun i _ => ?_, hk.regs _ (by decide) (.inr (by decide))⟩
  case refine_9 => unfold phStat flag; rw [hk.regs _ (by decide) (.inr (by decide))]
  all_goals rw [h]

theorem Schedules.sameCrossing {s s' : State} (h : Schedules s s') : SameCrossing s s' :=
  SameCrossing.of_steady h.phase (by rw [h.frame]) h.steady

/-- Beginning a crossing keeps its label, the count, and what the phase block knows of alignment. -/
theorem SameCrossing.enterCrossing (wrapped zero : Bool) (s : State) : SameCrossing s (Machine.enterCrossing wrapped zero s) := by
  rw [enterCrossing_eq]
  refine (SameCrossing.trans ?_ (SameCrossing.xingBegun _)).trans (Schedules.admitAll _).sameCrossing
  exact SameCrossing.ite ((SameCrossing.boundary wrapped s).trans (SameCrossing.handbackNow _)) (SameCrossing.refl s)

/-! ## A crossing inside an orbit (R10, R28, R204) -/

/-- It touches no thread, queue, lane or port, and the alarms armed for its index are due. -/
theorem enterCrossing_inside (wrapped : Bool) (s : State) : let s' := enterCrossing wrapped false s
    s'.threads = s.threads ∧ s'.queues = s.queues ∧ s'.sends = s.sends ∧ s'.lanes = s.lanes ∧ s'.ports = s.ports
    ∧ s'.phase.alarmsDue = dueAlarms s := by
  obtain ⟨-, c, x, m, h⟩ := xingBegun_eq s
  have ha := (Schedules.admitAll (xingBegun s)).frame
  dsimp only
  rw [enterCrossing_eq, if_neg (by decide), ha, h]
  exact ⟨rfl, rfl, rfl, rfl, rfl, rfl⟩

/-- What decides admission is as before when the crossing has begun. -/
theorem xingBegun_admits (s : State) (p : Nat) : admits (xingBegun s) p = admits s p := by
  obtain ⟨hk, c, x, m, h⟩ := xingBegun_eq s
  have hp : (xingBegun s).parts = s.parts := by rw [h]
  unfold admits flag part
  rw [hk.regs _ (by decide) (.inr (by decide)), hp]

/-- Each admitting partition that has no slot for the crossing gets an open one. -/
theorem enterCrossing_opens {wrapped : Bool} {s : State} {p : Nat} (hp : p < 16) (ha : admits s p = true)
    (hn : findDecision s p s.phase.count = none) (hd : s.phase.admissionDue ≠ some false) (hf : fatal s = false) :
    Opened s p (enterCrossing wrapped false s) := by
  obtain ⟨hk, c, x, m, h⟩ := xingBegun_eq s
  have hdec : (xingBegun s).decisions = s.decisions := by rw [h]
  have hc : (xingBegun s).phase.count = s.phase.count := by rw [h]
  have hnow : (xingBegun s).phase.now = s.phase.now := by rw [h]
  have hdue : (xingBegun s).phase.admissionDue = s.phase.admissionDue := by rw [h]
  have ho := admitAll_opens (s := xingBegun s) hp ((xingBegun_admits s p).trans ha) (by unfold findDecision at hn ⊢; rw [hdec, hc]; exact hn)
    (by rw [hdue]; exact hd) (hk.fatal.trans hf)
  unfold Opened at ho ⊢
  rw [hc, hnow] at ho
  exact ho

/-- With no partition admitting no slot opens. -/
theorem enterCrossing_none {wrapped : Bool} {s : State} (h : ∀ p < 16, admits s p = false) :
    enterCrossing wrapped false s = xingBegun s := by
  rw [enterCrossing_eq, if_neg (by decide)]
  exact admitAll_none (fun p hp => (xingBegun_admits s p).trans (h p hp))

/-- With no mark and no watch a crossing begins with its alarms alone. -/
theorem xingBegun_quiet {s : State} (h1 : s.phase.calOpens = []) (h2 : s.phase.calEnd = none) (h3 : s.phase.testPulses = [])
    (h4 : s.phase.qsOrbit = false) (h5 : downMask s = 0) (h6 : s.phase.lockLostAt = none) (h7 : role s ≠ 3) :
    xingBegun s = modPhase s (fun ph => { ph with alarmsDue := dueAlarms s }) := by
  have hm : markXing s = s := by
    unfold markXing
    exact if_neg (by simp [calMark, tpMark, h1, h2, h3, h4, h5])
  have hl : lockWatch s = s := by unfold lockWatch; simp only [h6]
  have hq : quorumWatch s = s := if_neg (fun h => h7 h.1)
  unfold xingBegun
  rw [hm, hl, hq]

end Sys2Proof.Machine
end

section
/-! PROOFS. The beginning of a crossing (O25). -/

namespace Sys2Proof.Machine

/-! ## The next crossing (R8–R10, R17, R24) -/

/-- The count raised by one, with the next label. -/
def stepped (s : State) : State := { s with phase := { s.phase with count := s.phase.count + 1, now := nextLabel s } }

theorem advance_eq (s : State) : advance s = enterCrossing (decide ((nextLabel s).index = 0)) (decide ((nextLabel s).index = 0)) (stepped s) :=
  rfl

/-- Inside an orbit the index rises. -/
theorem nextLabel_inside {s : State} (h : s.phase.now.index + 1 < orbitLen s) :
    nextLabel s = { orbit := s.phase.now.orbit, index := s.phase.now.index + 1 } := if_neg (by omega)

/-- After the last crossing of an orbit comes crossing 0 of the next one. -/
theorem nextLabel_wraps {s : State} (h : s.phase.now.index + 1 = orbitLen s) :
    nextLabel s = { orbit := (s.phase.now.orbit + 1) % 2 ^ 48, index := 0 } := if_pos (by omega)

theorem advance_inside {s : State} (h : s.phase.now.index + 1 < orbitLen s) : advance s = enterCrossing false false (stepped s) := by
  rw [advance_eq, nextLabel_inside h, decide_eq_false (Nat.succ_ne_zero _)]

theorem advance_ran {s : State} (hc : s.phase.counting = true) :
    (advance s).phase.count = s.phase.count + 1 ∧ (advance s).phase.now = nextLabel s ∧ (advance s).phase.counting = true := by
  have h := SameCrossing.enterCrossing (decide ((nextLabel s).index = 0)) (decide ((nextLabel s).index = 0)) (stepped s)
  rw [advance_eq]
  exact ⟨h.count, h.now, h.counting.trans hc⟩

theorem findDecision_none {s : State} {p b : Nat} (h : ∀ d ∈ s.decisions, d.b < b) : findDecision s p b = none := by
  unfold findDecision
  rw [List.find?_eq_none]
  intro d hd
  have := h d hd
  simp; omega

/-- The first crossing of a count: its label is set, and the count runs, aligned. -/
theorem startCount_starts (s : State) (l : PS) (zero : Bool) : let s' := startCount s l zero
    s'.phase.now = l ∧ s'.phase.count = (if s.phase.started then s.phase.count + 1 else s.phase.count)
    ∧ s'.phase.counting = true ∧ s'.phase.started = true ∧ s'.phase.alignNext = false
    ∧ s'.phase.realignPending = s.phase.realignPending ∧ phStat s' 1 = true
    ∧ ∀ i, i ≠ 1 → i ≠ 3 → phStat s' i = phStat s i := by
  unfold startCount
  extract_lets s1 sg s2 s3
  have h := SameCrossing.enterCrossing false zero s3
  have hst : ∀ i, phStat s3 i = if i = 1 then true else phStat s i := fun i => by
    have e : reg s3 Reg.PH_STAT = setBit (reg s Reg.PH_STAT) 1 true := by
      simp only [s3]
      rw [reg_setFld, if_neg (by decide), reg_irq, if_neg (by decide)]
      exact (reg_setFlag s2 _ _ _ _).trans (if_pos rfl)
    unfold phStat flag
    rw [e, bit_setBit]
    split
    · next h => rw [h]; rfl
    · rfl
  refine ⟨h.now, h.count, h.counting, h.started, h.alignNext, h.realignPending, ?_, fun i h1 h3 => ?_⟩
  · rw [h.stat 1 (by decide), hst]; rfl
  · rw [h.stat i h3, hst, if_neg h1]

/-! ## A PHASE_CHECK on every port that is up (R289, R290) -/

/-- The flit of a PHASE_CHECK. -/
def phaseCheckFlit (l : PS) : SkMsg :=
  { ty := 2, hdr := 0, body := [word (psNat l / 2 ^ 32), word (psNat l)], part := 0, parts := 1 }

theorem sendPhaseCheck_fold (l : List Nat) (s : State) (hn : l.Nodup) (k : Nat) :
    port (l.foldl (fun s k => skSend s k 0x02 0 [word (psNat s.phase.now / 2 ^ 32), word (psNat s.phase.now)]) s) k
    = if k ∈ l then { port s k with q0 := (port s k).q0 ++ [phaseCheckFlit s.phase.now] } else port s k := by
  induction l generalizing s with
  | nil => simp
  | cons j l ih =>
    obtain ⟨hj, hn⟩ := List.nodup_cons.mp hn
    have hp : ∀ i, port (skSend s j 0x02 0 [word (psNat s.phase.now / 2 ^ 32), word (psNat s.phase.now)]) i
        = if i = j then { port s j with q0 := (port s j).q0 ++ [phaseCheckFlit s.phase.now] } else port s i :=
      fun i => port_modPort s j i _
    rw [List.foldl_cons, ih _ hn]
    by_cases hk : k = j
    · subst hk
      rw [if_neg hj, hp, if_pos rfl, if_pos List.mem_cons_self]
    · rw [hp, if_neg hk]
      simp only [List.mem_cons, hk, false_or]
      rfl

/-- Each UP port gets a PHASE_CHECK of the current label. -/
theorem sendPhaseCheck_up {s : State} {k : Nat} (hk : k < 32) (hu : portState s k = 2) :
    (port (sendPhaseCheck s) k).q0 = (port s k).q0 ++ [phaseCheckFlit s.phase.now] := by
  unfold sendPhaseCheck
  rw [sendPhaseCheck_fold (upPorts s) s (List.nodup_range.filter _) k, if_pos (by simp [upPorts, hk, hu])]

/-! ## What falls due at a crossing 0 (R14, R27) -/

/-- A due ORBIT_RESET labels its crossing and sends the label (R14, R290). -/
theorem orbitResetApply_labels {s : State} {v : Nat} (hv : s.phase.orbitResetDue = some v) :
    let s' := orbitResetApply s
    let l : PS := { s.phase.now with orbit := v }
    s'.phase.now = l ∧ s'.phase.count = s.phase.count ∧ s'.phase.orbitResetDue = none
    ∧ RegsBut s s' [Reg.PH_STAT] ∧ reg s' Reg.PH_STAT = setBit (reg s Reg.PH_STAT) 6 false
    ∧ s'.decisions = s.decisions.map (fun d => if d.b = s.phase.count then { d with ps := l } else d)
    ∧ s'.ductus = { s.ductus with insts := s.ductus.insts.map (fun x => if x.b = s.phase.count then { x with ps := l } else x) }
    ∧ (∀ t, s.phase.capture = some (s.phase.now, t) → s'.phase.capture = some (l, t))
    ∧ s'.threads = s.threads ∧ s'.mem = s.mem ∧ s'.queues = s.queues
    ∧ (∀ k < 32, portState s k = 2 → (port s' k).q0 = (port s k).q0 ++ [phaseCheckFlit l]) := by
  obtain ⟨x, h1⟩ := relabel_eq { s.phase.now with orbit := v } (modPhase s (fun ph => { ph with orbitResetDue := none }))
  have he : orbitResetApply s = sendPhaseCheck (setPhStat (relabel { s.phase.now with orbit := v }
      (modPhase s (fun ph => { ph with orbitResetDue := none }))) 6 false) := by
    unfold orbitResetApply
    simp only [hv]
  rw [h1] at he
  generalize hs2 : setPhStat _ 6 false = s2 at he
  have hr : ∀ a, reg s2 a = if a = Reg.PH_STAT then setBit (reg s Reg.PH_STAT) 6 false else reg s a := fun a => by
    rw [← hs2]; exact reg_setFlag _ _ _ a _
  obtain ⟨p, h3⟩ := sendPhaseCheck_eq s2
  have hup : ∀ k < 32, portState s k = 2 → (port (sendPhaseCheck s2) k).q0 = (port s k).q0 ++ [phaseCheckFlit { s.phase.now with orbit := v }] :=
    fun k hk hu => by
      have hu2 : portState s2 k = 2 := by
        unfold portState fld at hu ⊢
        rw [hr, if_neg (by unfold Reg.SK_PSTAT Reg.skovubPage Reg.PH_STAT; omega)]
        exact hu
      rw [sendPhaseCheck_up hk hu2, ← hs2]
      rfl
  dsimp only
  rw [he]
  refine ⟨?_, ?_, ?_, fun a ha => ?_, ?_, ?_, ?_, fun t ht => ?_, ?_, ?_, ?_, hup⟩
  case refine_4 => rw [h3]; exact (hr a).trans (if_neg (by simpa using ha))
  case refine_5 => rw [h3]; exact (hr _).trans (if_pos rfl)
  case refine_8 =>
    rw [h3, ← hs2]
    show recapture _ _ = _
    unfold recapture modPhase
    simp only [ht]
    simp
  all_goals rw [h3, ← hs2]; rfl

/-- A START that is due in RUN sets running (R14). -/
theorem admissionStart_runs {s : State} (hd : s.phase.admissionDue = some true) (hm : mode s = 4) (hf : fatal s = false)
    (h3 : phStat s 3 = false) : let s' := admissionStart s
    phStat s' 3 = true ∧ flag s' (Reg.PG_IRQ_RAW Reg.phasePage) 4 = true ∧ s'.phase = { s.phase with admissionDue := none } := by
  generalize hs1 : irq (setFlag (modPhase s (fun ph => { ph with admissionDue := none })) Reg.PH_STAT 3 true) Reg.phasePage 4 = s1
  have he : admissionStart s = admitAll s1 := by
    have hrun : setRunning (modPhase s (fun ph => { ph with admissionDue := none })) true = s1 := by
      rw [← hs1]
      exact if_neg (by rw [show flag (modPhase s _) Reg.PH_STAT 3 = false from h3]; decide)
    unfold admissionStart
    rw [if_pos hd]
    dsimp only
    rw [if_pos ⟨hm, by rw [show fatal (modPhase s _) = false from hf]; decide⟩, hrun]
  have h := Schedules.admitAll s1
  dsimp only
  rw [he]
  refine ⟨?_, h.steady.rise _ (by decide) _ ?_, ?_⟩
  · unfold phStat flag
    rw [h.steady.regs _ (by decide) (.inr (by decide)), ← hs1, reg_irq, if_neg (by decide), reg_setFlag, if_pos rfl, bit_setBit]
    rfl
  · unfold flag
    rw [← hs1, reg_irq, if_pos rfl, bit_setBit]
    rfl
  · rw [h.phase, ← hs1]; rfl

/-- A STOP that is due clears running (R14). -/
theorem admissionStop_stops {s : State} (hd : s.phase.admissionDue = some false) (h3 : phStat s 3 = true) :
    let s' := admissionStop s
    Raises { s with phase := { s.phase with admissionDue := none } } s' [Reg.PH_STAT, Reg.PG_IRQ_RAW Reg.phasePage]
    ∧ reg s' Reg.PH_STAT = setBit (reg s Reg.PH_STAT) 3 false ∧ flag s' (Reg.PG_IRQ_RAW Reg.phasePage) 5 = true := by
  have he : admissionStop s
      = irq (setFlag { s with phase := { s.phase with admissionDue := none } } Reg.PH_STAT 3 false) Reg.phasePage 5 := by
    unfold admissionStop
    rw [if_pos hd]
    exact if_neg (by rw [show flag (modPhase s _) Reg.PH_STAT 3 = true from h3]; decide)
  dsimp only
  rw [he]
  refine ⟨(Raises.setReg _ _ _ (by simp)).trans (Raises.irq _ _ _ (by simp)), ?_, ?_⟩
  · rw [reg_irq, if_neg (by decide), reg_setFlag, if_pos rfl]; rfl
  · unfold flag
    rw [reg_irq, if_pos rfl, bit_setBit]; rfl

/-- A window whose crossing has come opens (R14). -/
theorem calWindowOpen_opens {s : State} {o : Nat} {r : List Nat} (h : s.phase.calOpens = o :: r) (ho : o ≤ s.phase.count) :
    calWindowOpen s = setPhStat { s with phase := { s.phase with
      calOpens := r, calEnd := some (max (o + fld s Reg.CAL_WIN 15 0) (s.phase.calEnd.getD 0)) } } 5 true := by
  have hf : s.phase.calOpens.find? (fun o => o ≤ s.phase.count) = some o := by rw [h]; simp [ho]
  unfold calWindowOpen
  simp only [hf]
  unfold modPhase
  simp only [h, List.erase_cons_head]

/-- A window that has ended closes (R14). -/
theorem calWindowClose_closes {s : State} {e : Nat} (h : s.phase.calEnd = some e) (he : e ≤ s.phase.count) :
    calWindowClose s = setPhStat { s with phase := { s.phase with calEnd := none } } 5 false := by
  unfold calWindowClose
  simp only [h]
  exact if_pos he

/-- A test-pulse crossing that has come ends its mark (R14). -/
theorem testPulseCrossing_ends {s : State} (h : s.phase.count ∈ s.phase.testPulses) :
    testPulseCrossing s = { modXing s s.phase.count (fun x => { x with tp := true }) with
      phase := { s.phase with testPulses := s.phase.testPulses.filter (fun c => s.phase.count < c) } } := by
  have ha : s.phase.testPulses.any (fun c => decide (c ≤ s.phase.count)) = true := List.any_eq_true.mpr ⟨_, h, by simp⟩
  have hc : s.phase.testPulses.contains s.phase.count = true := by simpa using h
  unfold testPulseCrossing
  rw [if_pos ha]
  simp only [hc, Bool.or_true]
  rfl

/-- An accepted orbit length comes into force, and every gate list is disabled (R27, R231). -/
theorem orbitLenApply_applies {s : State} (h : s.phase.orbitLenDue = true) :
    orbitLenApply s = setReg (newRun { s with phase := { s.phase with
      len := fld s Reg.ORBIT_LEN 16 0, orbitLenStaged := false, orbitLenDue := false } }) Reg.RU_GEN 0 := if_pos h

/-! ## The statement -/

/-- Inside an orbit a tick opens the slots of the admitting partitions and touches nothing else than the crossing's own. -/
theorem advance_insideOrbit {s : State} (hi : s.phase.now.index + 1 < orbitLen s) :
    let s' := advance s
    s'.threads = s.threads ∧ s'.queues = s.queues ∧ s'.sends = s.sends ∧ s'.lanes = s.lanes ∧ s'.ports = s.ports
    ∧ (∀ a < 16, (a ∈ s'.phase.alarmsDue ↔ flag s (Reg.PH_ALARM a) 31 = true ∧ fld s (Reg.PH_ALARM a) 15 0 = (nextLabel s).index
        ∧ (nextLabel s).index < orbitLen s))
    ∧ (∀ p < 16, (∀ d ∈ s.decisions, d.b < s.phase.count + 1) → admits s p = true → s.phase.admissionDue ≠ some false →
        fatal s = false → Opened (stepped s) p s')
    ∧ ((∀ p < 16, admits s p = false) → s'.decisions = s.decisions) := by
  have h := enterCrossing_inside false (stepped s)
  dsimp only at h ⊢
  rw [advance_inside hi]
  obtain ⟨h1, h2, h3, h4, h5, h6⟩ := h
  refine ⟨h1, h2, h3, h4, h5, fun a ha => ?_, fun p hp hb ha hd hf => ?_, fun hn => ?_⟩
  · rw [h6]
    exact mem_dueAlarms (stepped s) ha
  · exact enterCrossing_opens (s := stepped s) hp ha (findDecision_none hb) hd hf
  · rw [enterCrossing_none (s := stepped s) hn]
    obtain ⟨-, c, x, m, he⟩ := xingBegun_eq (stepped s)
    rw [he]
    rfl

/-- With no partition admitting, no schedule and no mark, a tick inside an orbit changes the phase alone. -/
theorem advance_quiet {s : State} (hi : s.phase.now.index + 1 < orbitLen s) (h1 : s.phase.calOpens = [])
    (h2 : s.phase.calEnd = none) (h3 : s.phase.testPulses = []) (h4 : s.phase.qsOrbit = false) (h5 : downMask s = 0)
    (h6 : s.phase.lockLostAt = none) (h7 : role s ≠ 3) (h8 : ∀ p < 16, admits s p = false) :
    advance s = modPhase (stepped s) (fun ph => { ph with alarmsDue := dueAlarms (stepped s) }) := by
  rw [advance_inside hi, enterCrossing_none (s := stepped s) h8]
  exact xingBegun_quiet (s := stepped s) h1 h2 h3 h4 h5 h6 h7

/-- Settles O25: both ticks begin a crossing by `advance`, whose crossing 0 and whose crossings inside an orbit have a lemma
each; what falls due at a crossing 0 is applied under one lemma per command. -/
theorem crossingsBegin : Obligations.CrossingsBegin := by
  unfold Obligations.CrossingsBegin
  refine ⟨fun s => ?_, fun s => ⟨nextLabel_inside, nextLabel_wraps, ?reset, ?start, ?stop, ?opens, ?close, ?pulse, ?len⟩⟩
  · intro n l ran inside quiet alone
    have hin : s.phase.counting = true → s.phase.now.index + 1 < orbitLen s → inside (advance s) ∧ (quiet → alone (advance s)) := by
      intro hc hi
      refine ⟨⟨advance_ran hc, advance_insideOrbit hi⟩, fun hq => ?_⟩
      obtain ⟨h1, h2, h3, h4, h5, h6, h7, h8⟩ := hq
      show advance s = _
      rw [advance_quiet hi h1 h2 h3 h4 h5 h6 h7 h8]
      rfl
    refine ⟨fun h0 hm hc => ?_, fun hs hd => ⟨fun hc => ?_, fun hc hst => ?_⟩⟩
    · have he : crossingTick s = advance s := by
        unfold crossingTick
        rw [if_neg (by simp [h0, hm]), if_pos hc]
      have hg : ∀ {P : State → Prop}, P (advance s) → Gives .crossingTick s P := fun hP => ⟨_, congrArg Host.Outcome.next he, hP⟩
      exact ⟨hg (advance_ran hc), fun hi => ⟨hg (hin hc hi).1, fun hq => hg ((hin hc hi).2 hq)⟩⟩
    · have he : substTick s = advance s := by
        unfold substTick
        rw [if_neg (by simp [hs, hd]), if_pos hc]
      have hg : ∀ {P : State → Prop}, P (advance s) → Gives .substTick s P := fun hP => ⟨_, congrArg Host.Outcome.next he, hP⟩
      exact ⟨hg (advance_ran hc), fun hi => ⟨hg (hin hc hi).1, fun hq => hg ((hin hc hi).2 hq)⟩⟩
    · have he : substTick s = startCount s {} true := by
        unfold substTick
        rw [if_neg (by simp [hs, hd]), if_neg (by simp [hc]), if_neg (by simp [hst])]
      obtain ⟨h1, h2, h3, -, -, -, h4, -⟩ := startCount_starts s {} true
      rw [if_neg (by simp [hst])] at h2
      exact ⟨_, congrArg Host.Outcome.next he, h1, h2, h3, h4⟩
  case reset => exact fun v hv => ⟨_, rfl, orbitResetApply_labels hv⟩
  case start => exact fun hd hm hf h3 => ⟨_, rfl, admissionStart_runs hd hm hf h3⟩
  case stop => exact fun hd h3 => ⟨_, rfl, admissionStop_stops hd h3⟩
  case opens =>
    refine fun o r h ho => ⟨_, rfl, ?_⟩
    rw [calWindowOpen_opens h ho]
    exact ⟨rfl, fun a ha => (reg_setFlag _ _ _ a _).trans (if_neg (by simpa using ha)),
      (reg_setFlag _ _ _ _ _).trans (if_pos rfl)⟩
  case close =>
    refine fun e h he => ⟨_, rfl, ?_⟩
    rw [calWindowClose_closes h he]
    exact ⟨rfl, fun a ha => (reg_setFlag _ _ _ a _).trans (if_neg (by simpa using ha)),
      (reg_setFlag _ _ _ _ _).trans (if_pos rfl)⟩
  case pulse =>
    refine fun h => ⟨_, rfl, ?_⟩
    rw [testPulseCrossing_ends h]
    have hx : ∀ b, _ = _ := fun b => xing_modXing s s.phase.count b (fun x => { x with tp := true })
    exact ⟨rfl, (hx _).trans (if_pos rfl), fun b hb => (hx b).trans (if_neg hb)⟩
  case len =>
    refine fun h => ⟨_, rfl, ?_⟩
    rw [orbitLenApply_applies h]
    exact ⟨rfl, fun a ha => reg_setReg_other _ _ (by simpa using ha), reg_setReg_same _ _ _⟩

end Sys2Proof.Machine
end

section
/-! PROOFS. The bunch clock and the orbit markers (O24). -/

namespace Sys2Proof.Machine

/-! ## Closing every instance (R23, R194) -/

theorem PhaseKept.refl (s : State) : PhaseKept s s := ⟨rfl, fun _ _ => rfl⟩

/-- The number of each instance, and whether it is closed. -/
def instTags (s : State) : List (Nat × Bool) := s.ductus.insts.map (fun x => (x.num, x.closed))

/-- Nodes and operations may change, but neither the phase block and its page nor the instances' numbers and closings. -/
structure Cancels (s s' : State) : Prop where
  phase : PhaseKept s s'
  tags : instTags s' = instTags s

theorem Cancels.refl (s : State) : Cancels s s := ⟨PhaseKept.refl s, rfl⟩

theorem Cancels.trans {s s' s'' : State} (h : Cancels s s') (h' : Cancels s' s'') : Cancels s s'' :=
  ⟨h.phase.trans h'.phase, h'.tags.trans h.tags⟩

theorem Cancels.foldl {α : Type} (f : State → α → State) (l : List α) (h : ∀ s a, Cancels s (f s a)) (s : State) :
    Cancels s (l.foldl f s) := by
  induction l generalizing s with
  | nil => exact Cancels.refl s
  | cons a l ih => exact (h s a).trans (ih _)

theorem Cancels.modInst (s : State) (i : Nat) {f : Inst → Inst} (hn : ∀ x, (f x).num = x.num)
    (hc : ∀ x, (f x).closed = x.closed) : Cancels s (Machine.modInst s i f) := by
  refine ⟨⟨rfl, fun _ _ => rfl⟩, ?_⟩
  unfold instTags Machine.modInst
  rw [List.map_map]
  refine List.map_congr_left (fun x _ => ?_)
  dsimp only [Function.comp]
  split
  · rw [hn, hc]
  · rfl

theorem Cancels.count (s : State) (p : Nat) : Cancels s (Machine.count s (Reg.DX_PCANCEL p)) := by
  refine ⟨⟨rfl, fun a ha => reg_setReg_other s _ ?_⟩, rfl⟩
  unfold Reg.DX_PCANCEL
  omega

theorem Cancels.dropOp (s : State) (o : Op) : Cancels s (Machine.dropOp s o) := by
  have h : Cancels s (unplace s o) := by
    unfold unplace
    split
    · exact ⟨⟨rfl, fun _ _ => rfl⟩, rfl⟩
    · exact ⟨⟨rfl, fun _ _ => rfl⟩, rfl⟩
    · exact Cancels.refl s
  exact h.trans ⟨⟨rfl, fun _ _ => rfl⟩, rfl⟩

/-- An instance gives up a node: it keeps its number and whether it is closed. -/
theorem Cancels.giveUp (s : State) (x : Inst) (i n : Nat) :
    Cancels s (Machine.count (Machine.modInst s i (fun x => { setNode x n .cancelled with
      tokens := x.tokens.filter (fun k => k.node ≠ n), cancelled := x.cancelled + 1 })) (Reg.DX_PCANCEL x.pid)) := by
  refine Cancels.trans ?_ (Cancels.count _ _)
  exact Cancels.modInst s i (fun _ => rfl) (fun _ => rfl)

theorem Cancels.cancelOp (s : State) (o : Op) : Cancels s (Machine.cancelOp s o) := by
  unfold Machine.cancelOp
  extract_lets s1
  have h1 : Cancels s s1 := Cancels.dropOp s o
  split
  · exact h1
  · exact h1.trans (Cancels.giveUp s1 _ _ _)

theorem Cancels.cancelNode (i : Nat) (s : State) (n : Nat) : Cancels s (Machine.cancelNode i s n) := by
  unfold Machine.cancelNode
  split
  · exact Cancels.refl s
  · split
    · exact Cancels.giveUp s _ _ _
    · split
      · split
        · exact Cancels.refl s
        · exact Cancels.cancelOp s _
      · exact Cancels.refl s
    · exact Cancels.refl s

/-- Closing an instance closes those of its number, and no other. -/
theorem closeInst_closes (s : State) (i : Nat) : PhaseKept s (closeInst s i)
    ∧ instTags (closeInst s i) = (instTags s).map (fun e => (e.1, e.2 || decide (e.1 = i))) := by
  unfold closeInst
  split
  · next h =>
    refine ⟨PhaseKept.refl s, ?_⟩
    unfold findInst at h
    rw [List.find?_eq_none] at h
    unfold instTags
    rw [List.map_map]
    refine List.map_congr_left (fun x hx => ?_)
    have hx : x.num ≠ i := by simpa using h x hx
    simp [hx]
  · next x h =>
    have hc := Cancels.foldl (cancelNode i) (List.range x.nodes.length) (Cancels.cancelNode i) s
    refine ⟨hc.phase.trans ⟨rfl, fun _ _ => rfl⟩, ?_⟩
    rw [← hc.tags]
    unfold instTags modInst
    rw [List.map_map, List.map_map]
    refine List.map_congr_left (fun y _ => ?_)
    dsimp only [Function.comp]
    split
    · next hy => simp [hy]
    · next hy => simp [hy]

/-- An instance that is still open after a series of closings was open before and is none of them. -/
theorem closeInst_foldl (l : List Nat) (s : State) : PhaseKept s (l.foldl closeInst s)
    ∧ ∀ e ∈ instTags (l.foldl closeInst s), e.2 = false → e ∈ instTags s ∧ e.1 ∉ l := by
  induction l generalizing s with
  | nil => exact ⟨PhaseKept.refl s, fun e he _ => ⟨he, List.not_mem_nil⟩⟩
  | cons i l ih =>
    obtain ⟨hp, ht⟩ := closeInst_closes s i
    obtain ⟨hp', ht'⟩ := ih (closeInst s i)
    refine ⟨hp.trans hp', fun e he h2 => ?_⟩
    obtain ⟨hm, hl⟩ := ht' e he h2
    rw [ht, List.mem_map] at hm
    obtain ⟨⟨num, closed⟩, hmem, rfl⟩ := hm
    obtain ⟨h3, h4⟩ : closed = false ∧ num ≠ i := by simpa using h2
    subst h3
    refine ⟨by simpa [h4] using hmem, by simpa [h4] using hl⟩

/-- Closing every open instance leaves none open. -/
theorem closeInsts_all (s : State) : PhaseKept s (closeInsts s (fun _ => true))
    ∧ ∀ x ∈ (closeInsts s (fun _ => true)).ductus.insts, x.closed = true := by
  obtain ⟨hp, ht⟩ := closeInst_foldl ((s.ductus.insts.filter (fun x => true && !x.closed)).map (·.num)) s
  refine ⟨hp, fun x hx => ?_⟩
  by_contra hc
  have hc : x.closed = false := by simpa using hc
  obtain ⟨hm, hl⟩ := ht (x.num, x.closed) (List.mem_map_of_mem hx) hc
  unfold instTags at hm
  obtain ⟨y, hy, he⟩ := List.mem_map.mp hm
  obtain ⟨hnum, hcl⟩ := Prod.mk.inj he
  refine hl (List.mem_map.mpr ⟨y, List.mem_filter.mpr ⟨hy, ?_⟩, hnum⟩)
  rw [hcl, hc]
  rfl

/-! ## The loss and the return of MCLK (R21–R24) -/

/-- A stored bit of PH_STAT, and the others. -/
theorem phStat_setPhStat (s : State) (i j : Nat) (b : Bool) (hi : i < 32) :
    phStat (setPhStat s i b) j = if j = i then b else phStat s j := by
  unfold phStat setPhStat flag
  rw [reg_setFlag, if_pos rfl, bit_setBit]
  split
  · next h => rw [h, decide_eq_true hi, Bool.true_and]
  · rfl

theorem Steady.phStat {s s' : State} (h : Steady s s') (i : Nat) : phStat s' i = phStat s i := by
  unfold Machine.phStat flag
  rw [h.regs _ (by decide) (.inr (by decide))]

theorem Steady.substOn {s s' : State} (h : Steady s s') : substOn s' = substOn s := by
  unfold Machine.substOn enField flag
  rw [h.regs _ (by decide) (.inl (by decide)), h.regs _ (by decide) (.inr (by decide))]

/-- MCLK_LOST has cleared mclk_ok and recorded. -/
def lossNoted (s : State) : State :=
  let s := irq (fault (setPhStat s 0 false) Reg.phasePage 0x08) Reg.phasePage 2
  journal { s with signet := { s.signet with mclkLost := true } } 0x05 0xF []

theorem mclkLost_eq {s : State} (h : phStat s 0 = true) :
    mclkLost s = if substOn (lossNoted s) then lossNoted s else lossFlush (lossNoted s) := by
  unfold mclkLost
  exact if_neg (by simp [h])

/-- Beside mclk_ok, the record of a loss leaves the phase block and its page, where source 0x08 stands. -/
theorem lossNoted_calm (s : State) : Calm (setPhStat s 0 false) (lossNoted s)
    ∧ flag (lossNoted s) (Reg.PG_ERR_STICKY Reg.phasePage) 8 = true := by
  obtain ⟨hr, hk, hf⟩ := fault_phase (setPhStat s 0 false) (src := 8) (by decide)
  unfold lossNoted
  generalize fault (setPhStat s 0 false) Reg.phasePage 8 = s1 at hr hk hf
  have h2 := Calm.irq s1 (page := Reg.phasePage) 2 (by decide)
  generalize irq s1 Reg.phasePage 2 = s2 at h2
  have h3 : Calm s2 { s2 with signet := { s2.signet with mclkLost := true } } := Calm.of_eq rfl rfl rfl
  have h := (h2.trans h3).trans (Calm.journal _ 0x05 0xF [])
  exact ⟨(Calm.of_records hr hk).trans h, h.steady.rise _ (by decide) _ hf⟩

theorem lossNoted_substOn (s : State) : substOn (lossNoted s) = substOn s := by
  refine (lossNoted_calm s).1.steady.substOn.trans ?_
  unfold substOn enField flag setPhStat
  rw [reg_setFlag, if_neg (by decide), reg_setFlag, if_neg (by decide)]

/-- Admission off: running is 0, and the rest of PH_STAT as it was. -/
theorem phStat_setRunning_false (s : State) (i : Nat) :
    phStat (setRunning s false) i = if i = 3 then false else phStat s i := by
  unfold setRunning
  split
  · next h =>
    split
    · next hi => rw [hi]; exact h
    · rfl
  · unfold phStat flag
    rw [reg_irq, if_neg (by decide), reg_setFlag, if_pos rfl, bit_setBit]
    simp

/-- A change of running stores PH_STAT and raises an interrupt, and nothing else. -/
theorem setRunning_raises (s : State) (b : Bool) :
    Raises s (setRunning s b) [Reg.PH_STAT, Reg.PG_IRQ_RAW Reg.phasePage] := by
  unfold setRunning
  split
  · exact Raises.refl s _
  · exact (Raises.setReg s _ _ (by simp)).trans (Raises.irq _ _ _ (by simp))

/-- Alignment and admission are off: PH_STAT's aligned and running are 0, and nothing else is stored but an interrupt. -/
theorem unaligned_raises (s : State) :
    Raises s (setRunning (setPhStat s 1 false) false) [Reg.PH_STAT, Reg.PG_IRQ_RAW Reg.phasePage]
    ∧ ∀ i, phStat (setRunning (setPhStat s 1 false) false) i = if i = 1 ∨ i = 3 then false else phStat s i := by
  refine ⟨Raises.trans (Raises.setReg s _ _ (by simp)) (setRunning_raises _ _), fun i => ?_⟩
  rw [phStat_setRunning_false, phStat_setPhStat _ _ _ _ (by decide)]
  by_cases h1 : i = 1 <;> by_cases h3 : i = 3 <;> simp [h1, h3]

/-- The flush of a loss stops the count, closes every instance and clears aligned, running and the ACC_OUT pairs (R23). -/
theorem lossFlush_flushes (s : State) :
    (∀ i, phStat (lossFlush s) i = if i = 1 ∨ i = 3 then false else phStat s i) ∧ (lossFlush s).phase.counting = false
    ∧ (lossFlush s).phase.count = s.phase.count ∧ (lossFlush s).phase.now = s.phase.now ∧ (lossFlush s).accOuts = []
    ∧ (lossFlush s).out.getLast? = some (.accOut s.phase.count 0)
    ∧ (∀ i, flag s (Reg.PG_ERR_STICKY Reg.phasePage) i = true → flag (lossFlush s) (Reg.PG_ERR_STICKY Reg.phasePage) i = true)
    ∧ ∀ x ∈ (lossFlush s).ductus.insts, x.closed = true := by
  obtain ⟨hp, hc⟩ := closeInsts_all s
  obtain ⟨s2, w, h2, he⟩ : ∃ s2 w, s2 = { closeInsts s (fun _ => true) with
      phase := { (closeInsts s (fun _ => true)).phase with wasRunning := w, counting := false, admissionDue := none } }
      ∧ lossFlush s = accZero (flushDecisions (setRunning (setPhStat s2 1 false) false)) := ⟨_, _, rfl, rfl⟩
  have hkept : ∀ a, a / 0x1000 = 2 → reg s2 a = reg s a := fun a ha => by rw [h2]; exact hp.2 a ha
  obtain ⟨⟨hfr, hregs⟩, hst⟩ := unaligned_raises s2
  generalize setRunning (setPhStat s2 1 false) false = s3 at hfr hregs hst he
  have hf := Calm.flushDecisions s3
  have hph : (flushDecisions s3).phase = s2.phase := by rw [hf.phase, hfr]
  have hcount : (flushDecisions s3).phase.count = s.phase.count := by rw [hph, h2, ← hp.1]
  have hnow : (flushDecisions s3).phase.now = s.phase.now := by rw [hph, h2, ← hp.1]
  rw [he]
  refine ⟨fun i => ?_, ?_, hcount, ?_, rfl, ?_, fun i hi => ?_, ?_⟩
  · refine (hf.steady.phStat i).trans ?_
    rw [hst]
    unfold phStat flag
    rw [hkept _ (by decide)]
  · exact (congrArg (·.counting) hph).trans (by rw [h2])
  · exact hnow
  · show ((flushDecisions s3).out ++ [Out.accOut (flushDecisions s3).phase.count 0]).getLast? = _
    rw [List.getLast?_concat, hcount]
  · refine hf.steady.rise (Reg.PG_ERR_STICKY Reg.phasePage) (by decide) i ?_
    unfold flag at hi ⊢
    rw [hregs _ (by decide), hkept _ (by decide)]
    exact hi
  · have hd : (flushDecisions s3).ductus = (closeInsts s (fun _ => true)).ductus := by rw [hf.ductus, hfr, h2]
    show ∀ x ∈ (flushDecisions s3).ductus.insts, x.closed = true
    rw [hd]
    exact hc

/-- MCLK_LOST outside the substitute phase (R21, R23). -/
theorem mclkLost_stops {s : State} (h : phStat s 0 = true) (hs : substOn s = false) : let s' := mclkLost s
    phStat s' 0 = false ∧ phStat s' 1 = false ∧ phStat s' 3 = false ∧ s'.phase.counting = false
    ∧ s'.phase.count = s.phase.count ∧ s'.phase.now = s.phase.now ∧ s'.accOuts = []
    ∧ s'.out.getLast? = some (.accOut s.phase.count 0)
    ∧ flag s' (Reg.PG_ERR_STICKY Reg.phasePage) 8 = true ∧ (∀ x ∈ s'.ductus.insts, x.closed = true) := by
  obtain ⟨hcalm, hsticky⟩ := lossNoted_calm s
  obtain ⟨hst, h1, h2, h3, h4, h5, h6, h7⟩ := lossFlush_flushes (lossNoted s)
  have hph : (lossNoted s).phase = s.phase := hcalm.phase
  have h0 : phStat (lossNoted s) 0 = false := by
    rw [hcalm.steady.phStat, phStat_setPhStat _ _ _ _ (by decide), if_pos rfl]
  dsimp only
  rw [mclkLost_eq h, lossNoted_substOn, hs, if_neg (by decide)]
  rw [hph] at h2 h3 h5
  exact ⟨(hst 0).trans h0, hst 1, hst 3, h1, h2, h3, h4, h5, h6 8 hsticky, h7⟩

/-- In the substitute phase the loss clears mclk_ok, and the phase block goes on (R24). -/
theorem mclkLost_substitute {s : State} (h : phStat s 0 = true) (hs : substOn s = true) :
    phStat (mclkLost s) 0 = false ∧ (mclkLost s).phase = s.phase := by
  obtain ⟨hcalm, -⟩ := lossNoted_calm s
  rw [mclkLost_eq h, lossNoted_substOn, hs, if_pos rfl]
  exact ⟨by rw [hcalm.steady.phStat, phStat_setPhStat _ _ _ _ (by decide), if_pos rfl], hcalm.phase⟩

/-- A journal record changes the Signet, or is lost with a NOTE. -/
theorem journal_frame (s : State) (ty pid : Nat) (data : List Byte) : ∃ sg, Records { s with signet := sg } (journal s ty pid data) []
    ∧ sg.ranges = s.signet.ranges := by
  unfold journal
  split
  · exact ⟨(tally s 16 5 1).signet, Records.note (tally s 16 5 1) _ _ _ _ _ (by decide), rfl⟩
  · exact ⟨_, Records.refl _ _, rfl⟩

/-- MCLK_OK sets mclk_ok and interrupt 3, and a count that had started and stopped restarts (R22). -/
theorem mclkOk_restarts {s : State} (h : phStat s 0 = false) : let s' := mclkOk s
    phStat s' 0 = true ∧ flag s' (Reg.PG_IRQ_RAW Reg.phasePage) 3 = true
    ∧ s'.phase = { s.phase with restart := s.phase.restart || (s.phase.started && !s.phase.counting) }
    ∧ s'.threads = s.threads ∧ s'.decisions = s.decisions := by
  unfold mclkOk
  rw [if_neg (by simp [h])]
  extract_lets s1 s2
  have h0 : phStat s1 0 = true := by
    refine Eq.trans ?_ ((phStat_setPhStat s 0 0 true (by decide)).trans (if_pos rfl))
    unfold phStat flag
    simp only [s1]
    rw [reg_irq, if_neg (by decide)]
  have h3 : flag s1 (Reg.PG_IRQ_RAW Reg.phasePage) 3 = true := by
    unfold flag
    simp only [s1]
    rw [reg_irq, if_pos rfl, bit_setBit]
    rfl
  have hj : ∀ n sg w, let x := journal { s1 with free := n, signet := sg } 6 0xF w
      x.phase = s.phase ∧ x.threads = s.threads ∧ x.decisions = s.decisions ∧ Steady s1 x := fun n sg w => by
    obtain ⟨g, hr, -⟩ := journal_frame { s1 with free := n, signet := sg } 6 0xF w
    have hc : Calm s1 { s1 with free := n, signet := sg } := Calm.of_eq rfl rfl rfl
    exact ⟨by rw [hr.1]; rfl, by rw [hr.1]; rfl, by rw [hr.1]; rfl, (hc.trans (Calm.journal _ _ _ _)).steady⟩
  have hk : s2.phase = s.phase ∧ s2.threads = s.threads ∧ s2.decisions = s.decisions ∧ Steady s1 s2 := by
    simp only [s2]
    split
    · exact hj _ _ _
    · exact ⟨rfl, rfl, rfl, Steady.refl _⟩
  obtain ⟨hp, ht, hd, hs⟩ := hk
  refine ⟨(hs.phStat 0).trans h0, hs.rise (Reg.PG_IRQ_RAW Reg.phasePage) (by decide) 3 h3, ?_, ht, hd⟩
  exact congrArg (fun p : Phase => { p with restart := p.restart || (p.started && !p.counting) }) hp

/-! ## Frequency measurements (R21, R25) -/

theorem OnlyRegs.trans {s s' s'' : State} {l : List Nat} (h : OnlyRegs s s' l) (h' : OnlyRegs s' s'' l) : OnlyRegs s s'' l :=
  ⟨by rw [h'.1, h.1], fun a ha => (h'.2 a ha).trans (h.2 a ha)⟩

theorem OnlyRegs.setReg (s : State) {a : Nat} (v : Word) {l : List Nat} (h : a ∈ l) : OnlyRegs s (Machine.setReg s a v) l :=
  ⟨rfl, fun _ hb => reg_setReg_other s v (fun e => hb (e ▸ h))⟩

theorem OnlyRegs.mono {s s' : State} {l l' : List Nat} (h : OnlyRegs s s' l) (hl : ∀ a ∈ l, a ∈ l') : OnlyRegs s s' l' :=
  ⟨h.1, fun a ha => h.2 a (fun e => ha (hl a e))⟩

/-- The ports' round trips follow the measurement. -/
theorem OnlyRegs.foldRtt (l : List Nat) (hl : ∀ k ∈ l, k < 32) (s : State) :
    OnlyRegs s (l.foldl (fun s k => setFld s (Reg.SK_PSTAT k) 15 8 (rttCrossings s (fld s (Reg.SK_RTT_FCLK k) 15 0))) s)
      ((List.range 32).map Reg.SK_PSTAT) := by
  induction l generalizing s with
  | nil => exact ⟨rfl, fun _ _ => rfl⟩
  | cons k l ih =>
    have hk : Reg.SK_PSTAT k ∈ (List.range 32).map Reg.SK_PSTAT := List.mem_map_of_mem (List.mem_range.mpr (hl k (by simp)))
    exact (OnlyRegs.setReg s _ hk).trans (ih (fun j hj => hl j (by simp [hj])) _)

/-- The registers that follow MCLK_FREQ and XING_FCLK: the sums of the sheet and the ports' round trips. -/
abbrev measureFollowers : List Nat := [Reg.SC_RATE, Reg.SC_FIT] ++ (List.range 32).map Reg.SK_PSTAT

/-- No register of the phase page follows. -/
theorem measureFollowers_beyond {a : Nat} (h : a / 0x1000 = 2) : a ∉ measureFollowers := by
  intro hm
  rcases List.mem_append.mp hm with hm | hm
  · simp only [List.mem_cons, List.not_mem_nil, or_false, Reg.SC_RATE, Reg.SC_FIT] at hm
    omega
  · obtain ⟨k, -, hk⟩ := List.mem_map.mp hm
    unfold Reg.SK_PSTAT Reg.skovubPage at hk
    omega

/-- What a measurement stores. -/
def measured (khz : BitVec 19) (s : State) : State :=
  let s := setReg s Reg.MCLK_FREQ (word (0x80000000 + khz.toNat))
  let s := setReg s Reg.XING_FCLK (word (if khz = 0 then 0 else 1000000 * 65536 / khz.toNat))
  (upPorts s).foldl (fun s k => setFld s (Reg.SK_PSTAT k) 15 8 (rttCrossings s (fld s (Reg.SK_RTT_FCLK k) 15 0))) (refit s)

theorem mclkFreqUpdate_eq (khz : BitVec 19) (s : State) : mclkFreqUpdate khz s
    = if khz.toNat < 10000 ∨ 400000 < khz.toNat then mclkLost (measured khz s) else measured khz s := rfl

/-- A measurement stores the period and the registers that follow it, and nothing else. -/
theorem measured_stores (khz : BitVec 19) (s : State) :
    OnlyRegs s (measured khz s) ([Reg.MCLK_FREQ, Reg.XING_FCLK] ++ measureFollowers)
    ∧ reg (measured khz s) Reg.MCLK_FREQ = word (0x80000000 + khz.toNat)
    ∧ reg (measured khz s) Reg.XING_FCLK = word (if khz = 0 then 0 else 1000000 * 65536 / khz.toNat) := by
  unfold measured
  extract_lets s1 s2
  have h2 : OnlyRegs s s2 [Reg.MCLK_FREQ, Reg.XING_FCLK] :=
    (OnlyRegs.setReg s _ (by simp)).trans (OnlyRegs.setReg _ _ (by simp))
  have hup : ∀ k ∈ upPorts s2, k < 32 := fun k hk => List.mem_range.mp (List.mem_filter.mp hk).1
  have h3 := ((refit_onlyRegs s2).mono (l' := measureFollowers) (fun a ha => List.mem_append_left _ ha)).trans
    ((OnlyRegs.foldRtt (upPorts s2) hup (refit s2)).mono (fun a ha => List.mem_append_right _ ha))
  refine ⟨(h2.mono (fun a ha => List.mem_append_left _ ha)).trans (h3.mono (fun a ha => List.mem_append_right _ ha)), ?_, ?_⟩
  · rw [h3.2 _ (measureFollowers_beyond (by decide))]
    exact (reg_setReg_other s1 _ (by decide)).trans (reg_setReg_same s _ _)
  · rw [h3.2 _ (measureFollowers_beyond (by decide))]
    exact reg_setReg_same s1 _ _

/-- What decides a loss of MCLK does not follow a measurement. -/
theorem measured_status (khz : BitVec 19) (s : State) :
    phStat (measured khz s) 0 = phStat s 0 ∧ substOn (measured khz s) = substOn s := by
  have h := (measured_stores khz s).1.2
  have beyond : ∀ a, a / 0x1000 = 2 → a ≠ Reg.MCLK_FREQ → a ≠ Reg.XING_FCLK → reg (measured khz s) a = reg s a :=
    fun a ha h1 h2 => h a (by
      rw [List.mem_append]
      rintro (hm | hm)
      · simp only [List.mem_cons, List.not_mem_nil, or_false] at hm
        exact hm.elim h1 h2
      · exact measureFollowers_beyond ha hm)
  unfold phStat substOn enField flag
  rw [beyond _ (by decide) (by decide) (by decide), beyond _ (by decide) (by decide) (by decide),
    beyond _ (by decide) (by decide) (by decide)]
  exact ⟨rfl, rfl⟩

/-! ## Orbit markers while the count runs (R18–R20) -/

/-- A marker that is judged goes to `judgeMarker`. -/
theorem morbMarker_judges {s : State} (h0 : phStat s 0 = true) (hs : substOn s = false) (hc : s.phase.counting = true)
    (hj : morbOn s = true ∨ s.phase.realignPending = true ∨ s.phase.alignNext = true) : morbMarker s = judgeMarker s := by
  unfold morbMarker
  rw [if_neg (by simp [hs, h0]), if_pos hc, if_pos hj]

/-- A marker at crossing 0 ends the consecutive count. -/
theorem judgeMarker_correct {s : State} (h : s.phase.now.index = 0) : judgeMarker s = setFld { s with
    signet := { s.signet with pendingQs := [] }
    phase := { s.phase with markerSeen := true, misplacedFrom := none, realignPending := false, alignNext := false } }
    Reg.ORB_ERR_CNT 1 0 0 := if_pos h

/-- A misplaced marker is counted, and noted with source 0x05. -/
theorem judgeMarker_misplaced {s : State} (h : s.phase.now.index ≠ 0) (hr : s.phase.realignPending = false)
    (ha : s.phase.alignNext = false) (hn : fld s Reg.ORB_ERR_CNT 1 0 < 3) :
    let since := if fld s Reg.ORB_ERR_CNT 1 0 = 0 then some s.phase.count else s.phase.misplacedFrom
    let s' := judgeMarker s
    Noted { s with phase := { s.phase with markerSeen := true, misplacedFrom := since } } s' [Reg.ORB_ERR_CNT] Reg.phasePage 5
    ∧ fld s' Reg.ORB_ERR_CNT 31 16 = (fld s Reg.ORB_ERR_CNT 31 16 + 1) % 65536
    ∧ fld s' Reg.ORB_ERR_CNT 1 0 = fld s Reg.ORB_ERR_CNT 1 0 + 1 := by
  intro since
  obtain ⟨s1, h1, he⟩ : ∃ s1, s1 = countFld (countFld { s with phase := { s.phase with markerSeen := true, misplacedFrom := since } }
      Reg.ORB_ERR_CNT 31 16) Reg.ORB_ERR_CNT 1 0 ∧ judgeMarker s = note s1 Reg.phasePage 0x05 := by
    refine ⟨_, rfl, ?_⟩
    unfold judgeMarker
    rw [if_neg h, if_neg (by simp [hr, ha]; omega)]
    simp only [since]
    rfl
  have hreg : reg s1 Reg.ORB_ERR_CNT = setBits (setBits (reg s Reg.ORB_ERR_CNT) 31 16 (fld s Reg.ORB_ERR_CNT 31 16 + 1)) 1 0
      (fld s Reg.ORB_ERR_CNT 1 0 + 1) := by
    have e : ∀ (x : State) hi lo, reg (countFld x Reg.ORB_ERR_CNT hi lo) Reg.ORB_ERR_CNT
        = setBits (reg x Reg.ORB_ERR_CNT) hi lo (fld x Reg.ORB_ERR_CNT hi lo + 1) :=
      fun x hi lo => (reg_setFld x _ hi lo _ _).trans (if_pos rfl)
    rw [h1, e, e]
    unfold fld
    rw [e, bits_setBits_other _ _ _ _ _ _ (by decide) (by decide)]
    rfl
  have hnote : reg (note s1 Reg.phasePage 0x05) Reg.ORB_ERR_CNT = reg s1 Reg.ORB_ERR_CNT :=
    reg_note_phase s1 _ _ _ _ _ (by decide) (by decide) (by decide)
  obtain ⟨hrec, hf⟩ := noted_note s1 Reg.phasePage 5 5 0 0 [Reg.ORB_ERR_CNT] (by decide) (by decide) (by decide)
  dsimp only
  rw [he]
  refine ⟨⟨Records.trans ?_ hrec, hf⟩, ?_, ?_⟩
  · rw [h1]
    exact (Records.setReg _ _ _ (.inl (by simp))).trans (Records.setReg _ _ _ (.inl (by simp)))
  · unfold fld
    rw [hnote, hreg, bits_setBits_other _ _ _ _ _ _ (by decide) (by decide), bits_setBits _ _ _ _ (by decide) (by decide)]
    rfl
  · unfold fld at hn ⊢
    rw [hnote, hreg, bits_setBits _ _ _ _ (by decide) (by decide), Nat.mod_eq_of_lt]
    · rfl
    · exact Nat.lt_of_le_of_lt (Nat.succ_le_of_lt hn) (by decide)

/-! ## Re-alignment (R19, R20, R306) -/

theorem settleQs_ranges (s : State) : (settleQs s).signet.ranges = s.signet.ranges := by
  have fold : ∀ (l : List (Nat × Nat)) (s : State), (l.foldl (fun s e => tally s e.1 8 e.2) s).signet.ranges = s.signet.ranges := by
    intro l
    induction l with
    | nil => exact fun _ => rfl
    | cons e l ih => exact fun s => ih _
  exact fold _ _

theorem Calm.settleQs (s : State) : Calm s (Machine.settleQs s) := by
  unfold Machine.settleQs
  extract_lets pend sg s1
  have h1 : Calm s s1 := Calm.of_eq rfl rfl rfl
  exact h1.trans (Calm.foldl _ _ (fun s e _ => Calm.tally s _ _ _) _)

/-- The journal record of a re-alignment, and the range of the misplaced markers, if there were some. -/
def rangeClosed (s : State) : State :=
  match s.phase.misplacedFrom with
  | some m =>
    let s' := journal s 0x04 0xF (beBytes 4 (s.phase.count - m + 1))
    settleQs { s' with signet := { s'.signet with ranges := s'.signet.ranges ++ [(m, s.phase.count)] } }
  | none => journal s 0x04 0xF (beBytes 4 0)

theorem rangeClosed_calm (s : State) : Calm s (rangeClosed s)
    ∧ ∀ m, s.phase.misplacedFrom = some m → (m, s.phase.count) ∈ (rangeClosed s).signet.ranges := by
  unfold rangeClosed
  cases h : s.phase.misplacedFrom with
  | none => exact ⟨Calm.journal s _ _ _, fun m hm => by cases hm⟩
  | some k =>
    have h1 := Calm.journal s 0x04 0xF (beBytes 4 (s.phase.count - k + 1))
    refine ⟨Calm.trans (h1.trans ?_) (Calm.settleQs _), fun m hm => ?_⟩
    · exact Calm.of_eq rfl rfl rfl
    obtain rfl : k = m := by simpa using hm
    dsimp only
    rw [settleQs_ranges]
    exact List.mem_append_right _ (List.mem_singleton_self _)

/-- The marker's crossing becomes crossing 0 of the next orbit: what was waiting ends, and it is counted (R19, R20). -/
theorem realign_aligns (s : State) : let s' := realign s
    s'.phase.now = { orbit := (s.phase.now.orbit + 1) % 2 ^ 48, index := 0 } ∧ s'.phase.count = s.phase.count
    ∧ fld s' Reg.ORB_ERR_CNT 1 0 = 0 ∧ fld s' Reg.ORB_ERR_CNT 31 16 = fld s Reg.ORB_ERR_CNT 31 16
    ∧ fld s' Reg.ORB_ERR_CNT 7 4 = sat 15 (fld s Reg.ORB_ERR_CNT 7 4 + 1)
    ∧ s'.phase.misplacedFrom = none ∧ s'.phase.realignPending = false
    ∧ (∀ m, s.phase.misplacedFrom = some m → (m, s.phase.count) ∈ s'.signet.ranges) := by
  obtain ⟨hcalm, hrange⟩ := rangeClosed_calm s
  obtain ⟨s2, s3, s4, s5, h2, h3, h4, h5, he⟩ : ∃ s2 s3 s4 s5,
      s2 = countSat (setFld (rangeClosed s) Reg.ORB_ERR_CNT 1 0 0) Reg.ORB_ERR_CNT 7 4
      ∧ s3 = irq (note s2 Reg.phasePage 0x07) Reg.phasePage 1
      ∧ s4 = relabel { orbit := (s3.phase.now.orbit + 1) % 2 ^ 48, index := 0 }
        { s3 with phase := { s3.phase with misplacedFrom := none, realignPending := false, alignNext := false } }
      ∧ s5 = boundary false (reschedule s4)
      ∧ realign s = modPhase s5 (fun ph => { ph with markerSeen := true, alarmsDue := dueAlarms s5 }) :=
    ⟨_, _, _, _, rfl, rfl, rfl, rfl, rfl⟩
  have hnote := Records.note s2 Reg.phasePage 7 5 0 0 (l := []) (by decide)
  have hp3 : s3.phase = s.phase := by rw [h3, ← hcalm.phase]; exact (congrArg (·.phase) hnote.1).trans (by rw [h2])
  have hs3 : s3.signet = (rangeClosed s).signet := by rw [h3]; exact (congrArg (·.signet) hnote.1).trans (by rw [h2])
  have hr3 : reg s3 Reg.ORB_ERR_CNT = reg s2 Reg.ORB_ERR_CNT := by
    rw [h3, reg_irq, if_neg (by decide), reg_note_phase _ _ _ _ _ _ (by decide) (by decide) (by decide)]
  obtain ⟨x, h4⟩ : ∃ x, s4 = _ := h4 ▸ relabel_eq _ _
  have hsame : SameCrossing s4 s5 := by
    rw [h5]
    exact (Schedules.reschedule s4).sameCrossing.trans (SameCrossing.boundary false _)
  have hcnt : ∀ hi lo, fld (realign s) Reg.ORB_ERR_CNT hi lo = fld s2 Reg.ORB_ERR_CNT hi lo := fun hi lo => by
    have e : reg s4 Reg.ORB_ERR_CNT = reg s3 Reg.ORB_ERR_CNT := by rw [h4]; rfl
    rw [he]
    unfold fld
    rw [← hr3, ← e, ← hsame.errCnt]
    rfl
  have hother : ∀ hi lo, hi < 4 ∨ 7 < lo → fld s2 Reg.ORB_ERR_CNT hi lo = fld (setFld (rangeClosed s) Reg.ORB_ERR_CNT 1 0 0)
      Reg.ORB_ERR_CNT hi lo := fun hi lo h => by
    rw [h2]
    unfold countSat fld
    rw [reg_setFld, if_pos rfl, bits_setBits_other _ _ _ _ _ _ (by decide) h]
  have hfirst : ∀ hi lo, 1 < lo → fld (setFld (rangeClosed s) Reg.ORB_ERR_CNT 1 0 0) Reg.ORB_ERR_CNT hi lo
      = fld s Reg.ORB_ERR_CNT hi lo := fun hi lo h => by
    unfold fld
    rw [reg_setFld, if_pos rfl, bits_setBits_other _ _ _ _ _ _ (by decide) (.inr h),
      hcalm.steady.regs _ (by decide) (.inr (by decide))]
  refine ⟨?_, ?_, ?_, ?_, ?_, ?_, ?_, fun m hm => ?_⟩
  · rw [he]; exact hsame.now.trans (by rw [h4, ← hp3])
  · rw [he]; exact hsame.count.trans (by rw [h4, ← hp3])
  · rw [hcnt, hother _ _ (.inl (by decide))]
    unfold fld
    rw [reg_setFld, if_pos rfl, bits_setBits _ _ _ _ (by decide) (by decide)]
    rfl
  · rw [hcnt, hother _ _ (.inr (by decide)), hfirst _ _ (by decide)]
  · rw [hcnt, h2, fld_countSat _ _ (by decide) (by decide), hfirst _ _ (by decide)]
    rfl
  · rw [he]; exact hsame.misplacedFrom.trans (by rw [h4])
  · rw [he]; exact hsame.realignPending.trans (by rw [h4])
  · have hrg : (realign s).signet.ranges = (rangeClosed s).signet.ranges := by
      rw [he]
      exact hsame.ranges.trans (by rw [h4, ← hs3])
    rw [hrg]
    exact hrange m hm

/-! ## Markers that start the count (R17, R20, R22) -/

/-- The first marker after arm starts the count at crossing 0. -/
theorem morbMarker_arms {s : State} (h0 : phStat s 0 = true) (hs : substOn s = false) (hc : s.phase.counting = false)
    (ha : s.phase.alignNext = true) (hr : ¬ (s.phase.restart = true ∧ (morbOn s = true ∨ s.phase.edgeRestart = false))) :
    morbMarker s = modPhase (startCount { s with phase := { s.phase with realignPending := false } } (restartLabel s) true)
      (fun ph => { ph with markerSeen := true }) := by
  unfold morbMarker
  rw [if_neg (by simp [hs, h0]), if_neg (by simp [hc])]
  refine (if_neg fun h => hr ⟨h.1, h.2.imp id (fun h => by simpa [modPhase] using h)⟩).trans ?_
  exact if_pos ha

/-- A marker restarts a count that waits for one. -/
theorem morbMarker_restarts {s : State} (h0 : phStat s 0 = true) (hs : substOn s = false) (hc : s.phase.counting = false)
    (hr : s.phase.restart = true ∧ (morbOn s = true ∨ s.phase.edgeRestart = false)) :
    morbMarker s = modPhase (restartCount true { s with phase := { s.phase with realignPending := false } })
      (fun ph => { ph with markerSeen := true }) := by
  unfold morbMarker
  rw [if_neg (by simp [hs, h0]), if_neg (by simp [hc])]
  exact if_pos ⟨hr.1, hr.2.imp id (fun h => by simp [modPhase, h])⟩

/-- Admission resumes with the count: it ran when MCLK was lost, and the device is in RUN (R22). -/
def resumes (s : State) : Bool := s.phase.wasRunning && decide (mode s = 4) && !fatal s

/-- A count that restarts at a marker takes crossing 0 of the orbit after the last one, which is suspect. -/
theorem restartCount_starts {s : State} (hst : s.phase.started = true) : let s' := restartCount true s
    s'.phase.now = { orbit := (s.phase.now.orbit + 1) % 2 ^ 48, index := 0 } ∧ s'.phase.count = s.phase.count + 1
    ∧ s'.phase.counting = true ∧ phStat s' 1 = true ∧ s'.phase.realignPending = s.phase.realignPending
    ∧ phStat s' 6 = true := by
  obtain ⟨s1, h1, he⟩ : ∃ s1, s1 = { setPhStat s 6 true with phase := { s.phase with qsOrbit := resumes s, wasRunning := false } }
      ∧ restartCount true s = startCount (if resumes s then setRunning s1 true else s1) (restartLabel s1) true := ⟨_, rfl, rfl⟩
  generalize h2 : (if resumes s then setRunning s1 true else s1) = s2 at he
  have hsame : SameCrossing s1 s2 := by
    rw [← h2]
    exact SameCrossing.ite (SameCrossing.setRunning s1 true) (SameCrossing.refl s1)
  have hcount : s2.phase.count = s.phase.count := hsame.count.trans (by rw [h1])
  have hstarted : s2.phase.started = true := hsame.started.trans (by rw [h1]; exact hst)
  have hpend : s2.phase.realignPending = s.phase.realignPending := hsame.realignPending.trans (by rw [h1])
  have hlabel : restartLabel s1 = { orbit := (s.phase.now.orbit + 1) % 2 ^ 48, index := 0 } := by
    rw [h1]
    exact if_pos hst
  have h6 : phStat s2 6 = true := by
    refine (hsame.stat 6 (by decide)).trans ?_
    rw [h1]
    exact (phStat_setPhStat s 6 6 true (by decide)).trans (if_pos rfl)
  obtain ⟨g1, g2, g3, -, -, g4, g5, g6⟩ := startCount_starts s2 (restartLabel s1) true
  dsimp only
  rw [he]
  rw [if_pos hstarted] at g2
  exact ⟨g1.trans hlabel, g2.trans (by rw [hcount]), g3, g5, g4.trans hpend, (g6 6 (by decide) (by decide)).trans h6⟩

/-- A marker with the count stopped, when the count had never started: crossing 0 of orbit 0 (R17). -/
theorem morbMarker_starts {s : State} (h0 : phStat s 0 = true) (hs : substOn s = false) (hc : s.phase.counting = false)
    (ha : s.phase.alignNext = true) (hst : s.phase.started = false) (hr : s.phase.restart = false) : let s' := morbMarker s
    s'.phase.now = {} ∧ s'.phase.count = s.phase.count ∧ s'.phase.counting = true
    ∧ s'.phase.started = true ∧ phStat s' 1 = true ∧ s'.phase.alignNext = false ∧ s'.phase.realignPending = false := by
  obtain ⟨g1, g2, g3, g4, g5, g6, g7, -⟩ := startCount_starts { s with phase := { s.phase with realignPending := false } }
    (restartLabel s) true
  have hlabel : restartLabel s = {} := if_neg (by simp [hst])
  dsimp only
  rw [morbMarker_arms h0 hs hc ha (by simp [hr])]
  generalize startCount _ _ _ = x at g1 g2 g3 g4 g5 g6 g7 ⊢
  exact ⟨g1.trans hlabel, g2.trans (if_neg (by simp [hst])), g3, g4, g7, g5, g6⟩

/-- A marker with the count stopped, when the count had started: crossing 0 of the next orbit, suspect when the count
restarts by itself (R17, R22). -/
theorem morbMarker_resumes {s : State} (h0 : phStat s 0 = true) (hs : substOn s = false) (hc : s.phase.counting = false)
    (hst : s.phase.started = true) :
    let again := s.phase.restart = true ∧ (morbOn s = true ∨ s.phase.edgeRestart = false)
    again ∨ s.phase.alignNext = true → let s' := morbMarker s
    s'.phase.now = { orbit := (s.phase.now.orbit + 1) % 2 ^ 48, index := 0 }
    ∧ s'.phase.count = s.phase.count + 1 ∧ s'.phase.counting = true ∧ phStat s' 1 = true ∧ s'.phase.realignPending = false
    ∧ (again → phStat s' 6 = true) := by
  intro again hor
  dsimp only
  by_cases hr : again
  · obtain ⟨g1, g2, g3, g4, g5, g6⟩ := restartCount_starts (s := { s with phase := { s.phase with realignPending := false } }) hst
    rw [morbMarker_restarts h0 hs hc hr]
    generalize restartCount _ _ = x at g1 g2 g3 g4 g5 g6 ⊢
    exact ⟨g1, g2, g3, g4, g5, fun _ => g6⟩
  · obtain ⟨g1, g2, g3, -, -, g6, g7, -⟩ := startCount_starts { s with phase := { s.phase with realignPending := false } }
      (restartLabel s) true
    have hlabel : restartLabel s = { orbit := (s.phase.now.orbit + 1) % 2 ^ 48, index := 0 } := if_pos hst
    rw [morbMarker_arms h0 hs hc (hor.resolve_left hr) hr]
    generalize startCount _ _ _ = x at g1 g2 g3 g6 g7 ⊢
    exact ⟨g1.trans hlabel, g2.trans (if_pos hst), g3, g7, g6, fun h => absurd h hr⟩

/-! ## PH_CTL (R17, R24) -/

/-- PH_CTL.arm is set, and with mclk_ok at 1 the next marker aligns. -/
theorem phCtlArm_eq (s : State) : phCtlArm s = { setFlag s Reg.PH_CTL 0 true with
    phase := { s.phase with alignNext := s.phase.alignNext || phStat s 0 } } := by
  have h : phStat (setFlag s Reg.PH_CTL 0 true) 0 = phStat s 0 := by
    unfold phStat flag
    rw [reg_setFlag, if_neg (by decide)]
  unfold phCtlArm
  dsimp only
  rw [h]
  cases phStat s 0
  · rw [Bool.or_false]; rfl
  · rw [Bool.or_true]; rfl

theorem substEnable_eq {s : State} (hm : mode s = 2 ∨ mode s = 7) (h : flag s Reg.PH_CTL 1 = false) :
    substEnable s = setPhStat (setFlag { s with phase := { s.phase with counting := false, restart := false } } Reg.PH_CTL 1 true)
      1 true := by
  unfold substEnable
  rw [if_pos hm]
  exact if_neg (by simp [h])

theorem substDisable_eq {s : State} (h : flag s Reg.PH_CTL 1 = true) :
    substDisable s = { setPhStat (setFlag s Reg.PH_CTL 1 false) 1 false with
      phase := { s.phase with counting := false, restart := true, edgeRestart := true } } := if_pos h

/-- Bit 1 of PH_CTL and bit 1 of PH_STAT are stored, and no other register. -/
theorem substStored (s : State) (b : Bool) : let s' := setPhStat (setFlag s Reg.PH_CTL 1 b) 1 b
    RegsBut s s' [Reg.PH_CTL, Reg.PH_STAT] ∧ flag s' Reg.PH_CTL 1 = b
    ∧ reg s' Reg.PH_STAT = setBit (reg s Reg.PH_STAT) 1 b := by
  unfold setPhStat
  refine ⟨fun a ha => ?_, ?_, ?_⟩
  · simp only [List.mem_cons, List.not_mem_nil, or_false, not_or] at ha
    rw [reg_setFlag, if_neg ha.2, reg_setFlag, if_neg ha.1]
  · unfold flag
    rw [reg_setFlag, if_neg (by decide), reg_setFlag, if_pos rfl, bit_setBit]
    simp
  · rw [reg_setFlag, if_pos rfl, reg_setFlag, if_neg (by decide)]

/-! ## The statement -/

/-- Settles O24: the loss and return of MCLK, the markers by what the count does, and the writes of PH_CTL, each under its
own lemma. -/
theorem clockAndMarkers : Obligations.ClockAndMarkers := by
  unfold Obligations.ClockAndMarkers
  intro s since
  refine ⟨fun h hs => ⟨_, rfl, mclkLost_stops h hs⟩, fun h hs => ⟨_, rfl, mclkLost_substitute h hs⟩,
    fun h => ⟨_, rfl, mclkOk_restarts h⟩, ?inRange, ?outOfRange, ?markers, ?missing, ?arm, rfl, ?enable, ?refused, ?disable⟩
  case inRange =>
    intro khz hl hh
    obtain ⟨hr, hf, hx⟩ := measured_stores khz s
    have he : mclkFreqUpdate khz s = measured khz s := (mclkFreqUpdate_eq khz s).trans (if_neg (by omega))
    have h0 : khz ≠ 0 := by rintro rfl; exact absurd hl (by decide)
    rw [if_neg h0] at hx
    exact ⟨_, congrArg Host.Outcome.next he, hr, hf, hx⟩
  case outOfRange =>
    intro khz h h0 hs
    obtain ⟨e0, es⟩ := measured_status khz s
    have he : mclkFreqUpdate khz s = mclkLost (measured khz s) := (mclkFreqUpdate_eq khz s).trans (if_pos h)
    obtain ⟨g0, -, -, gc, -⟩ := mclkLost_stops (e0.trans h0) (es.trans hs)
    exact ⟨_, congrArg Host.Outcome.next he, g0, gc⟩
  case markers =>
    intro h0 hs
    refine ⟨fun hc hj => ⟨fun hi => ⟨_, rfl, ?_⟩, fun hi hr ha hn => ⟨_, rfl, ?_⟩, fun hi hor => ⟨_, rfl, ?_⟩⟩,
      fun hc ha hst hr => ⟨_, rfl, morbMarker_starts h0 hs hc ha hst hr⟩, ?_⟩
    · rw [morbMarker_judges h0 hs hc hj, judgeMarker_correct hi]
      exact ⟨rfl, fun a ha => (reg_setFld _ _ _ _ _ a).trans (if_neg (by simpa using ha)),
        (reg_setFld _ _ _ _ _ _).trans (if_pos rfl)⟩
    · rw [morbMarker_judges h0 hs hc hj]
      exact judgeMarker_misplaced hi hr ha hn
    · have he : judgeMarker s = realign s := by
        unfold judgeMarker
        rw [if_neg hi, if_pos hor]
      rw [morbMarker_judges h0 hs hc hj, he]
      exact realign_aligns s
    · exact fun hc hor hst => ⟨_, rfl, morbMarker_resumes h0 hs hc hst hor⟩
  case missing =>
    intro h
    have he : missingMarker s = note (countSat (modPhase s (fun ph => { ph with missingDue := false })) Reg.ORB_ERR_CNT 15 8)
      Reg.phasePage 0x06 := if_pos h
    refine ⟨_, congrArg Host.Outcome.next he, ?_⟩
    exact countSat_noted { s with phase := { s.phase with missingDue := false } } (by decide) (by decide) (by decide) (by decide)
      (by decide)
  case arm =>
    refine ⟨_, congrArg Host.Outcome.next (phCtlArm_eq s), rfl, fun a ha => ?_, ?_⟩
    · exact (reg_setFlag s _ _ a _).trans (if_neg (by simpa using ha))
    · exact (reg_setFlag s _ _ _ _).trans (if_pos rfl)
  case enable =>
    intro hm h
    exact ⟨_, congrArg Host.Outcome.next (substEnable_eq hm h), rfl, substStored _ true⟩
  case refused =>
    intro h2 h7
    have he : substEnable s = refuseWrite s Reg.phasePage 0x0A Reg.PH_CTL := if_neg (by simp [h2, h7])
    exact ⟨_, congrArg Host.Outcome.next he, noted_refuseWrite s _ _ _ [] (by decide) (by decide) (by decide)⟩
  case disable =>
    intro h
    obtain ⟨g1, g2, g3⟩ := substStored s false
    refine ⟨_, congrArg Host.Outcome.next (substDisable_eq h), rfl, g1, g2, ?_⟩
    exact (phStat_setPhStat (setFlag s Reg.PH_CTL 1 false) 1 1 false (by decide)).trans (if_pos rfl)

end Sys2Proof.Machine
end

section
/-! PROOFS. Frames come in (O27): a state in which the FEC count of a bonded pair's odd lane falls on a class register. -/

namespace Sys2Proof.Machine

/-! ## A pair of lanes 127 and 128 (R56, R68, R80) -/

/-- A frame of 60 zero bytes with its link check. -/
def zeroFrame : List Byte := List.replicate 60 0 ++ leBytes 4 (crc32 (List.replicate 60 0)).toNat

/-- The Stylus found the entry of a frame held on a lane: it forwards the frame to class 6. -/
def toClass6 : StylusResult := { miss := false, action := 1, cls := 6, eq := 0, mq := 0, copyFwd := false, entry := 0 }

/-- The frame that lane 127 holds. -/
def heldZeros : RxFrame :=
  { head := List.replicate 64 0, parse := 0, cause := none, b := 0, ps := {}, line := 0, lines := 1, order := 0,
    result := some toClass6, fin := none }

/-- Lane 127 is UP in mode ETH100 and holds a frame for class 6, which is open. The register that a lane 128 would have as
its LANE_CTL reads mode BONDED there, so that lane 127 counts as the even lane of a pair. -/
def strayPair : State :=
  { State.reset with
    regs := [(Reg.LANE_CTL 127, 0x300), (Reg.LANE_STAT 127, 2), (Reg.LANE_CTL 128, 0x400), (Reg.ST_CLASS 6, 0x80000000)]
    lanes := [(127, { rx := some heldZeros })] }

/-- 2^31 corrected codewords on the odd lane of that pair: they flip bit 31 of ST_CLASS 6, where its FEC_CORR would lie. -/
def strayCount : FecCount := { corr := 0x80000000 }

/-- The state and the frame satisfy every premise of a good frame that a hit forwards to an open class. -/
theorem strayPair_takes : looped strayPair 127 = false ∧ frameLane strayPair 127 = true ∧ mode strayPair ≠ 2
    ∧ lanePid strayPair 127 = 0 ∧ framesDropped strayPair 0 = false ∧ classOpen strayPair 6 0 = true := by decide

theorem zeroFrame_good : linkCrcOk zeroFrame = true ∧ zeroFrame.length = 64
    ∧ (endOf strayPair 127 heldZeros zeroFrame).2 = 0 := by decide +kernel

/-- FRAME_END is the end of a frame from the peer. -/
theorem exec_frameEnd (n : LaneId) (link : LinkFrame) (fec fecOdd : FecCount) (s : State) :
    exec (.frameEnd n link fec fecOdd) s = .next (fromPeer n (frameEnd n link fec fecOdd) s) := rfl

/-- A link frame of bytes without a code error has ended with them. -/
theorem receivedFrame_bytes (l : List Byte) : receivedFrame (.bytes l false) = some (l, .ended) := rfl

/-- The count of the odd lane closes class 6 before the frame's FD is built: no FD is. -/
theorem strayPair_noFd :
    (fromPeer 127 (frameEnd 127 (.bytes zeroFrame false) {} strayCount) strayPair).dispatchQ = [] := by decide +kernel

/-- Refutes O27: a state in which lane 127 is in mode ETH100 and the register after the lanes' pages reads as a LANE_CTL in
mode BONDED. FRAME_END then counts the codewords of an odd lane 128, whose FEC_CORR would lie at the address of ST_CLASS 6;
the count closes the class, and a good frame that a hit forwards to it builds no FD. -/
theorem not_framesComeIn : ¬ Obligations.FramesComeIn := by
  unfold Obligations.FramesComeIn
  rintro ⟨-, -, hends, -⟩
  obtain ⟨hloop, hframe, hmode, hpid, hdropped, hclass⟩ := strayPair_takes
  obtain ⟨hcrc, hlen, hparse⟩ := zeroFrame_good
  obtain ⟨-, hgood⟩ := hends 127 (.bytes zeroFrame false) zeroFrame .ended {} strayCount strayPair heldZeros toClass6
    (receivedFrame_bytes zeroFrame) hloop hframe rfl rfl rfl (by omega) (by decide)
  obtain ⟨s', hs', -, -, -, -, hfds⟩ := hgood hcrc (by omega) rfl (by decide)
  obtain ⟨-, hforward⟩ := hfds hparse hmode (hpid ▸ hdropped) rfl
  obtain ⟨g, hg, -⟩ := hforward rfl (by decide) (by decide) (by decide) (hpid ▸ hclass)
  obtain rfl := Host.Outcome.next.inj ((exec_frameEnd _ _ _ _ _).symm.trans hs')
  exact absurd (strayPair_noFd.symm.trans hg) (by simp [strayPair])

end Sys2Proof.Machine
end

section
/-! PROOFS. What engines and the Inkwell's buffers leave of the rest of the device, and what leaves the device under error
records. -/

namespace Sys2Proof.Machine

/-- A counter after one event of the counter at `a`. -/
theorem reg_count (s : State) (a b : Nat) : reg (count s a) b = if b = a then reg s a + 1 else reg s b := reg_setReg s a b _

theorem reg_count_same (s : State) (a : Nat) : reg (count s a) a = reg s a + 1 := by rw [reg_count, if_pos rfl]

theorem reg_count_other (s : State) {a b : Nat} (h : b ≠ a) : reg (count s a) b = reg s b := by rw [reg_count, if_neg h]

/-! ## What leaves the device under error records (R334, R391) -/

theorem wr_out (s : State) (k : Nat) (b : Byte) : (wr s k b).out = s.out := by unfold wr; split <;> rfl

theorem wrBytes_out (s : State) (k : Nat) (bs : List Byte) : (wrBytes s k bs).out = s.out := by
  induction bs generalizing s k with
  | nil => rfl
  | cons b bs ih => exact (ih _ _).trans (wr_out s k b)

theorem capture_out (s : State) (page src : Nat) (r : Report) : (capture s page src r).out = s.out := by
  unfold capture
  split
  · rfl
  · split <;> rfl

theorem recordOn_out (s : State) (page : Nat) (r : Report) : (recordOn s page r).out = s.out := by
  unfold recordOn
  rw [count_out, capture_out, setFlag_out]

theorem recordFolios_out (s : State) (r : Report) : (recordFolios s r).out = s.out := by
  unfold recordFolios
  split
  · rfl
  · split
    · rfl
    · rw [capture_out, setFlag_out]
      split
      · rw [capture_out, setFlag_out]
      · rfl

theorem recordFirst_out (s : State) (r : Report) : (recordFirst s r).out = s.out := by
  unfold recordFirst
  split <;> rfl

theorem recordLog_out (s : State) (r : Report) : (recordLog s r).out = s.out := by
  unfold recordLog
  split
  · rfl
  · dsimp only
    split
    · rw [setReg_out, wrBytes_out]
    · rw [recordOn_out, setFlag_out]

/-- A change under which vectors may fire: what has left the device before stays in front. -/
theorem withIrq_out (f : State → State) (s : State) : (f s).out <+: (withIrq f s).out := by
  unfold withIrq
  dsimp only
  rw [List.append_assoc]
  exact List.prefix_append _ _

/-- Recording an error only adds to what has left the device. -/
theorem record_out (s : State) (r : Report) : s.out <+: (record s r).out := by
  unfold record
  refine List.IsPrefix.trans ?_ (withIrq_out _ _)
  have logged : ∀ q : Report, (recordLog (recordFirst (recordFolios (recordOn s (headerPage r.page) q) q) q) q).out = s.out :=
    fun q => by rw [recordLog_out, recordFirst_out, recordFolios_out, recordOn_out]
  dsimp only
  split
  · split
    · rw [setFlag_out, logged]
    · rw [logged]
  · rw [logged]

theorem note_out (s : State) (page src access mid addr : Nat) : s.out <+: (note s page src access mid addr).out := record_out s _

/-! ## Engines' accesses and the Inkwell's buffers (R242–R246, R256, R258, R365) -/

/-- What an engine's access, its write, and the return of a buffer change: memory with its check bits, the DRAM
controllers, the Inkwell, the bandwidth counts, and what an error record changes. -/
structure Stores (s s' : State) : Prop where
  frame : s' = { s with regs := s'.regs, mem := s'.mem, badWords := s'.badWords, addrTags := s'.addrTags, ddrs := s'.ddrs,
                        ink := s'.ink, perf := s'.perf, out := s'.out, free := s'.free }
  regs : ∀ a, 0x100 ≤ a % 0x1000 → a / 0x1000 ≠ 3 → reg s' a = reg s a
  out : s.out <+: s'.out

theorem Stores.refl (s : State) : Stores s s := ⟨rfl, fun _ _ _ => rfl, List.prefix_refl _⟩

theorem Stores.trans {s s' s'' : State} (h : Stores s s') (h' : Stores s' s'') : Stores s s'' :=
  ⟨by rw [h'.frame, h.frame], fun a ha hb => (h'.regs a ha hb).trans (h.regs a ha hb), h.out.trans h'.out⟩

theorem Stores.ite {s a b : State} {c : Prop} [Decidable c] (ha : Stores s a) (hb : Stores s b) : Stores s (if c then a else b) := by
  split
  · exact ha
  · exact hb

theorem Stores.foldl {α : Type} (f : State → α → State) (l : List α) (h : ∀ s a, Stores s (f s a)) (s : State) :
    Stores s (l.foldl f s) := by
  induction l generalizing s with
  | nil => exact Stores.refl s
  | cons a l ih => exact (h s a).trans (ih _)

/-- Memory, the DRAM controllers, the Inkwell and the bandwidth counts, with the registers as they are. -/
theorem Stores.fields (s : State) (m : Memory) (b : Tbl Bool) (t : Tbl Nat) (d : Tbl Ddr) (i : Inkwell) (p : Perf) :
    Stores s { s with mem := m, badWords := b, addrTags := t, ddrs := d, ink := i, perf := p } :=
  ⟨rfl, fun _ _ _ => rfl, List.prefix_refl _⟩

theorem Stores.note (s : State) {page : Nat} (src access mid addr : Nat) (hp : Based page) :
    Stores s (Machine.note s page src access mid addr) := by
  obtain ⟨hf, hr, -⟩ := Records.note s page src access mid addr (l := []) hp
  refine ⟨?_, fun a ha hb => hr a (by simp) ha hb, note_out _ _ _ _ _ _⟩
  rw [hf]

theorem Stores.bw (s : State) (i k : Nat) : Stores s (Machine.bw s i k) :=
  Stores.ite (Stores.refl s) (Stores.fields s _ _ _ _ _ _)

theorem Stores.bwKey (s : State) (k n : Nat) (write : Bool) : Stores s (Machine.bwKey s k n write) := by
  have port : ∀ i, Stores s (Machine.bw s i n) := fun i => Stores.bw s i n
  unfold Machine.bwKey
  refine Stores.ite (port _) (Stores.ite (port _) (Stores.ite (port _) (Stores.ite (Stores.refl s) (Stores.ite (port _) ?_))))
  split
  · exact port _
  · exact Stores.refl s

theorem Stores.dramRequest (s : State) (k mid : Nat) (write : Bool) : Stores s (Machine.dramRequest s k mid write) := by
  unfold Machine.dramRequest
  split
  · exact Stores.refl s
  · exact Stores.fields s _ _ _ _ _ _

theorem Stores.engineAccess (s : State) (k n mid : Nat) (write : Bool) : Stores s (Machine.engineAccess s k n mid write) := by
  have traffic : Stores s (dramTraffic (Machine.bwKey s k n write) k n mid write) :=
    (Stores.bwKey s k n write).trans (Stores.ite (Stores.refl _)
      (Stores.foldl _ _ (fun s _ => Stores.ite (Stores.dramRequest s _ _ _) (Stores.refl s)) _))
  unfold Machine.engineAccess
  exact Stores.ite (traffic.trans (Stores.note _ _ _ _ _ (by decide))) traffic

theorem Stores.setBad (s : State) (k : Nat) (b : Bool) : Stores s (Machine.setBad s k b) := by
  unfold Machine.setBad renewKept
  split
  · exact Stores.ite (Stores.fields s _ _ _ _ _ _) (Stores.fields s _ _ _ _ _ _)
  · exact Stores.refl s

theorem Stores.wr (s : State) (k : Nat) (b : Byte) : Stores s (Machine.wr s k b) := by
  unfold Machine.wr
  split
  · exact Stores.fields s _ _ _ _ _ _
  · exact Stores.refl s

theorem Stores.wrBytes (s : State) (k : Nat) (bs : List Byte) : Stores s (Machine.wrBytes s k bs) := by
  induction bs generalizing s k with
  | nil => exact Stores.refl s
  | cons b bs ih => exact (Stores.wr s k b).trans (ih _ _)

theorem Stores.engineWrite (s : State) (k : Nat) (bs : List Byte) (mid : Nat) : Stores s (Machine.engineWrite s k bs mid) :=
  ((Stores.engineAccess s k bs.length mid true).trans (Stores.wrBytes _ _ _)).trans
    (Stores.foldl _ _ (fun s _ => Stores.setBad s _ _) _)

theorem Stores.setBuf (s : State) (bh : Word) (v : Buf) : Stores s (Machine.setBuf s bh v) :=
  Stores.ite (Stores.engineWrite s _ _ _) (Stores.fields s _ _ _ _ _ _)

theorem Stores.setUse (s : State) (k v : Nat) : Stores s (Machine.setUse s k v) := Stores.fields s _ _ _ _ _ _

theorem Stores.iwReturn (s : State) (bh : Word) : Stores s (Machine.iwReturn s bh) := by
  unfold Machine.iwReturn
  extract_lets b d s1 s2 s3 s4
  have h2 : Stores s s2 := (Stores.setUse s _ _).trans (Stores.setUse _ _ _)
  have h3 : Stores s s3 := by
    simp only [s3]
    split
    · exact h2.trans (Stores.setUse _ _ _)
    · exact h2
  have h4 : Stores s s4 := h3.trans (Stores.setBuf _ _ _)
  exact Stores.ite (h4.trans (Stores.fields _ _ _ _ _ _ _)) (h4.trans (Stores.fields _ _ _ _ _ _ _))

theorem Stores.freeFd (s : State) (f : FD) : Stores s (Machine.freeFd s f) := by
  unfold Machine.freeFd iwRelinquish
  split
  · exact Stores.ite (Stores.ite (Stores.iwReturn s _) (Stores.setBuf s _ _)) (Stores.refl s)
  · exact Stores.refl s

theorem Stores.ownFd (s : State) (f : FD) (mid : Nat) : Stores s (Machine.ownFd s f mid) := by
  unfold Machine.ownFd
  split
  · exact Stores.ite (Stores.setBuf s _ _) (Stores.refl s)
  · exact Stores.refl s

end Sys2Proof.Machine
end

section
/-! PROOFS. Dispatch, and the slots of the Ligature (O28). -/

namespace Sys2Proof.Machine

/-! ## Slots (R51, R211) -/

/-- A choice among `n` numbers finds one that is not used, if there is one. -/
theorem pick_finds (s : State) {n : Nat} {used : Nat → Bool} (h : ∃ k < n, used k = false) :
    ∃ k < n, used k = false ∧ pick s n used = (some k, { s with free := s.free + 1 }) := by
  obtain ⟨j, hj, hu⟩ := h
  unfold pick
  generalize (Config.freeWord s.free).toNat % n = start
  have hsome : (((List.range n).map (fun i => (start + i) % n)).find? (fun k => !used k)).isSome := by
    rw [List.find?_isSome]
    refine ⟨j, List.mem_map.mpr ⟨(j + (n - start % n)) % n, List.mem_range.mpr (Nat.mod_lt _ (by omega)), ?_⟩, by simp [hu]⟩
    have hs : start % n < n := Nat.mod_lt _ (by omega)
    rw [Nat.add_mod, Nat.mod_mod, ← Nat.add_mod, Nat.add_mod start, Nat.add_mod_mod,
      show start % n + (j + (n - start % n)) = j + n by omega, Nat.add_mod_right, Nat.mod_eq_of_lt hj]
  obtain ⟨k, hk⟩ := Option.isSome_iff_exists.mp hsome
  obtain ⟨i, -, hi⟩ := List.mem_map.mp (List.mem_of_find?_eq_some hk)
  exact ⟨k, hi ▸ Nat.mod_lt _ (by omega), by simpa using List.find?_some hk, by dsimp only; rw [hk]⟩

theorem fdSlot_setBits (f : FD) {k : Nat} (h : k < 16384) : fdSlot { f with w7 := setBits f.w7 13 0 k } = k := by
  unfold fdSlot
  rw [bits_setBits _ _ _ _ (by omega) (by omega)]
  exact Nat.mod_eq_of_lt h

/-- Neither the UNORDERED flag nor the slot number is part of an FD's key. -/
theorem fdKey_marked (f : FD) (u : Bool) (v : Word) : fdKey { (if u then fdSetFlag f 11 else f) with w7 := v } = fdKey f := by
  cases u with
  | false => rfl
  | true =>
    show fdKey (fdSetFlag f 11) = fdKey f
    unfold fdKey fdSetFlag fdLane fdSeq
    rw [bits_setBit_other _ _ _ _ _ (by omega)]

/-- Slot `k` of the device is taken for FD `f` and thread `tid`: `x` stands in it, and its FD is `f` but for the slot number
and the UNORDERED flag (R51, R211). -/
structure TakesSlot (s : State) (f : FD) (tid : Option Nat) (k : Nat) (x : Slot) (s' : State) : Prop where
  lt : k < 16384
  free : slot s k = none
  state : ∃ n o h, s' = { setSlot s k (some x) with free := n, slotOrder := o, holes := h }
  fd : fdKey x.fd = fdKey f ∧ fdSlot x.fd = k
  cls : x.cls = fdClass f
  done : x.done = if fdClass f = 15 then some x.fd else none
  hole : x.hole = false
  tid : x.tid = tid
  takenAt : x.takenAt = s.phase.count

/-- With a free slot, and room in the reserve of the class or in the pool, an FD takes a slot. -/
theorem takeSlot_takes {s : State} {f : FD} (tid : Option Nat) (hfree : ∃ k < 16384, slot s k = none)
    (hroom : classReserved s (fdClass f) < reserveOf s (fdClass f) ∨ 0 < poolFree s) :
    ∃ k g x s', takeSlot s f tid = some (k, g, s') ∧ x.fd = g ∧ TakesSlot s f tid k x s' := by
  obtain ⟨k, hk, hfk, hpick⟩ := pick_finds s (n := 16384) (used := fun k => (slot s k).isSome)
    (hfree.imp fun k h => ⟨h.1, by simp [h.2]⟩)
  have hnot : ¬ (¬ decide (classReserved s (fdClass f) < reserveOf s (fdClass f)) = true ∧ poolFree s = 0) := by
    simp only [decide_eq_true_eq]; omega
  unfold takeSlot
  simp only [if_neg hnot, hpick]
  refine ⟨k, _, _, _, rfl, ?_, hk, by simpa using hfk, ⟨_, _, _, rfl⟩, ⟨?key, ?number⟩, ?_, ?_, ?_, ?_, ?_⟩
  case key => exact fdKey_marked f _ _
  case number => exact fdSlot_setBits _ hk
  all_goals rfl

/-! ## Dispatch (R37, R42, R49, R81) -/

section Dispatch

variable {s : State} {c : Nat} {f : FD} (hst : starts s Reg.stylusPage = true) (hlg : starts s Reg.ligaturePage = true)
  (hf : s.dispatchQ.find? (fun f => fdClass f = c) = some f)

theorem fdClass_of_find (hf : s.dispatchQ.find? (fun f => fdClass f = c) = some f) : fdClass f = c := by
  simpa using List.find?_some hf

/-- An FD that holds no slot yet has no flag RE_DISPATCHED. -/
theorem heldSlot_new (h : bit f.w0 10 = false) : heldSlot s f = none := by simp [heldSlot, h]

include hst hlg hf

/-- A frame with CHKERR that holds no slot is dropped. -/
theorem dispatchClass_drops (h5 : bit f.w0 5 = true) (h10 : bit f.w0 10 = false) :
    dispatchClass c s = { s with dispatchQ := s.dispatchQ.erase f } := by
  unfold dispatchClass
  simp [hst, hlg, hf, h5, heldSlot_new h10]

/-- In class 15 the FD takes a slot, which is complete. -/
theorem dispatchClass_completes (hc : c = 15) (h5 : bit f.w0 5 = false) (hfree : ∃ k < 16384, slot s k = none)
    (hroom : classReserved s c < reserveOf s c ∨ 0 < poolFree s) :
    ∃ k x s', TakesSlot s f none k x s' ∧ dispatchClass c s = { s' with dispatchQ := s.dispatchQ.erase f } := by
  obtain ⟨k, _, x, s', he, rfl, ht⟩ := takeSlot_takes (f := f) none hfree (by rw [fdClass_of_find hf]; exact hroom)
  refine ⟨k, x, s', ht, ?_⟩
  subst hc
  unfold dispatchClass
  simp [hst, hlg, hf, h5, he]

/-- In any other class the FD takes a slot, and goes to the next thread of the class with room. -/
theorem dispatchClass_deals {i t : Nat} (hc : c ≠ 15) (h5 : bit f.w0 5 = false) (h10 : bit f.w0 10 = false)
    (hn : nextThread s c = some (i, t)) (hb : blockedOn s t 0 = false) (hfree : ∃ k < 16384, slot s k = none)
    (hroom : classReserved s c < reserveOf s c ∨ 0 < poolFree s) :
    ∃ k x s' l, TakesSlot s f (some t) k x s' ∧ dispatchClass c s
      = modThread { s' with dispatchQ := s.dispatchQ.erase f, classNext := l } t (fun th => { th with ch0 := th.ch0 ++ [x.fd] }) := by
  obtain ⟨k, _, x, s', he, rfl, ht⟩ := takeSlot_takes (f := f) (some t) hfree (by rw [fdClass_of_find hf]; exact hroom)
  obtain ⟨n, o, h, hs'⟩ := ht.state
  refine ⟨k, x, s', Tbl.set (fun _ => 0) s.classNext c ((i + 1) % (classThreads s c).length), ht, ?_⟩
  have hw : ∀ l, blockedOn { s' with dispatchQ := s.dispatchQ.erase f, classNext := l } t 0 = false := fun l => by
    rw [hs']; exact hb
  unfold dispatchClass
  simp only [hst, hlg, hf, h5, hc, hn, heldSlot_new h10, he, not_true, or_self, if_false, Bool.false_eq_true]
  unfold dealFd
  rw [if_neg (by simp [hw])]

/-- While no thread of the class has room the FD waits. -/
theorem dispatchClass_waits (hc : c ≠ 15) (h5 : bit f.w0 5 = false) (hn : nextThread s c = none) : dispatchClass c s = s := by
  unfold dispatchClass
  simp [hst, hlg, hf, h5, hc, hn]

end Dispatch

/-! ## Completions and timeouts (R212, R213) -/

/-- A late completion is noted as source 0x01 and counted. -/
theorem lateCompl_noted (s : State) : let s' := note (count s Reg.LG_LATE_COMPL) Reg.ligaturePage 0x01
    Noted s s' [Reg.LG_LATE_COMPL] Reg.ligaturePage 1 ∧ reg s' Reg.LG_LATE_COMPL = reg s Reg.LG_LATE_COMPL + 1 := by
  obtain ⟨hr, hs⟩ := noted_note (count s Reg.LG_LATE_COMPL) Reg.ligaturePage 0x01 5 0 0 [Reg.LG_LATE_COMPL] (by decide)
    (by decide) (by decide)
  refine ⟨⟨(Records.setReg s _ _ (.inl (by simp))).trans hr, hs⟩, ?_⟩
  rw [(Records.note _ Reg.ligaturePage 0x01 5 0 0 (l := []) (by decide)).2.1 _ (by simp) (by decide) (by decide),
    reg_count_same]

section Slots

variable {s : State} {k : Nat} {x : Slot} (hx : slot s k = some x)

theorem tblAt_setSlot (s : State) (k : Nat) (v : Option Slot) : TblAt (fun _ => none) s.slots (setSlot s k v).slots k v :=
  ⟨Tbl.get_set_same _ _ _ _, fun _ h => Tbl.get_set_other _ _ _ h⟩

include hx

/-- A completion that reaches an open slot of its key completes it. -/
theorem ligatureCompletion_completes {g : FD} (hg : s.compl.find? (fun e => e.1 = k) = some (k, g)) (hh : x.hole = false)
    (hk : fdKey x.fd = fdKey g) :
    ligatureCompletion k s = setSlot { s with compl := s.compl.erase (k, g) } k (some { x with done := some g }) := by
  have hx' : slot { s with compl := s.compl.erase (k, g) } k = some x := hx
  unfold ligatureCompletion
  simp only [hg, hx', hh, hk]
  simp

/-- A completion that reaches a HOLE counts as late. -/
theorem ligatureCompletion_late {g : FD} (hg : s.compl.find? (fun e => e.1 = k) = some (k, g)) (hh : x.hole = true) :
    ligatureCompletion k s
      = note (count { s with compl := s.compl.erase (k, g) } Reg.LG_LATE_COMPL) Reg.ligaturePage 0x01 := by
  have hx' : slot { s with compl := s.compl.erase (k, g) } k = some x := hx
  unfold ligatureCompletion
  simp only [hg, hx', hh]
  simp

/-- An incomplete slot whose timeout has passed becomes a HOLE. -/
theorem ligTimeout_holes (hd : x.done = none) (hh : x.hole = false)
    (ht : x.takenAt + ligTimeoutOf s x.cls ≤ s.phase.count) : let s' := ligTimeout k s
    TblAt (fun _ => none) s.slots s'.slots k (some { x with hole := true }) ∧ s'.threads = s.threads ∧ s'.queues = s.queues
    ∧ flag s' (Reg.PG_ERR_STICKY Reg.ligaturePage) 0 = true := by
  have he : ∃ l, ligTimeout k s
      = note { setSlot s k (some { x with hole := true }) with dispatchQ := l } Reg.ligaturePage 0x00 7 := by
    unfold ligTimeout
    simp only [hx, hd, hh]
    rw [if_neg (by simp; omega)]
    exact ⟨_, rfl⟩
  obtain ⟨l, he⟩ := he
  obtain ⟨⟨hf, -⟩, hs⟩ := noted_note { setSlot s k (some { x with hole := true }) with dispatchQ := l } Reg.ligaturePage 0x00 7 0 0 []
    (by decide) (by decide) (by decide)
  dsimp only
  rw [he]
  refine ⟨?_, by rw [hf]; rfl, by rw [hf]; rfl, hs⟩
  rw [hf]
  exact tblAt_setSlot s k (some { x with hole := true })

/-- Before its timeout a slot stays as it is. -/
theorem ligTimeout_waits (ht : s.phase.count < x.takenAt + ligTimeoutOf s x.cls) : ligTimeout k s = s := by
  unfold ligTimeout
  simp only [hx]
  rw [if_pos (.inr (.inr ht))]

end Slots

/-! ## Release (R45, R49, R51, R213, R214) -/

section Release

variable {s : State} {k : Nat} {x : Slot} (hx : slot s k = some x) (hlg : starts s Reg.ligaturePage = true)

include hx

theorem ligatureRelease_waits (hr : releasable s k x = false) : ligatureRelease k s = s := by
  unfold ligatureRelease
  simp [hx, hr]

include hlg

/-- A released slot is free; beside that the largest key of its class and the HOLEs last released may change. -/
theorem ligatureRelease_releases (hr : releasable s k x = true) :
    ∃ m h, ligatureRelease k s = verdict { setSlot s k none with maxKey := m, holes := h } x := by
  have raised : ∀ (s : State) (c : Nat) (key : Word × Nat × Nat), ∃ m, raiseKey s c key = { s with maxKey := m } := fun s c key => by
    unfold raiseKey
    split
    · split
      · exact ⟨_, rfl⟩
      · exact ⟨s.maxKey, rfl⟩
    · exact ⟨_, rfl⟩
  obtain ⟨m, hm⟩ := raised (setSlot s k none) x.cls (fdKey x.fd)
  unfold ligatureRelease
  simp only [hx, hr, hlg, hm]
  rw [if_neg (by simp)]
  split
  · exact ⟨m, _, rfl⟩
  · exact ⟨m, s.holes, rfl⟩

end Release

/-- The verdict of a HOLE: counted, and reported to the partition's host ring where LG_CFG of the class asks for it. -/
theorem verdict_hole {s : State} {x : Slot} (hh : x.hole = true) : verdict s x
    = if flag s (Reg.LG_CFG x.cls) 31 then toRing (count s Reg.LG_HOLES) x.pid (holeFd x) (psOfSps s x.fd.w2)
      else count s Reg.LG_HOLES := by
  have hc : flag (count s Reg.LG_HOLES) (Reg.LG_CFG x.cls) 31 = flag s (Reg.LG_CFG x.cls) 31 := by
    unfold flag
    rw [reg_count_other]
    simp only [Reg.LG_CFG, Reg.LG_HOLES]; omega
  unfold verdict
  rw [if_pos hh]
  simp only [hc]
  rfl

/-- The FD of a HOLE carries the key of its slot, kind 2 and flag HOLE. -/
theorem holeFd_fields (x : Slot) : fdKind (holeFd x) = 2 ∧ bit (holeFd x).w0 6 = true ∧ fdKey (holeFd x) = fdKey x.fd := by
  refine ⟨?_, ?_, ?_⟩
  · exact bits_setBits _ 31 28 2 (by omega) (by omega)
  · unfold holeFd
    rw [bit_setBits _ _ _ _ _ (by omega), if_neg (by omega), bit_setBit]
    rfl
  · unfold holeFd fdKey fdLane fdSeq
    rw [bits_setBits_other _ _ _ _ _ _ (by omega) (by omega), bits_setBit_other _ _ _ _ _ (by omega)]

/-- The verdict of a complete slot that is ordered and whose frame has no CHKERR. -/
theorem verdict_done {s : State} {x : Slot} {g : FD} (hh : x.hole = false) (hd : x.done = some g) (hu : x.unordered = false)
    (hg : bit g.w0 5 = false) (hx : bit x.fd.w0 5 = false) : verdict s x
    = if fdAction g = 0x10 then enqueue s (fdQueue g) x.pid { g with w0 := setBits g.w0 27 24 x.pid }
      else if fdAction g = 0x11 then s else count s Reg.LG_DISCARD := by
  have h5 : bit (setBits g.w0 27 24 x.pid) 5 = false := by
    rw [bit_setBits _ _ _ _ _ (by omega), if_neg (by omega), hg]
  unfold verdict
  simp only [hh, hd, hu, Bool.false_eq_true, if_false, h5, hx, or_self]
  split
  · next h => rw [if_pos (show fdAction g = 0x10 from h)]; rfl
  · next h =>
    have h : fdAction g = 0x11 := h
    rw [if_neg (by omega), if_pos h]
  · next h h' => rw [if_neg (show fdAction g ≠ 0x10 from h), if_neg (show fdAction g ≠ 0x11 from h')]

/-- A queue with room takes an FD of its partition at its end; no other queue, no thread and no slot changes. -/
theorem enqueue_queues {s : State} {q p : Nat} (f : FD) (hp : queuePid s q = p) (ho : queueOn s q = true)
    (hl : (queue s q).length < fld s (Reg.queueLim q) 13 0) (hs : storeUsed s < 16384) : let s' := enqueue s q p f
    TblAt (fun _ => []) s.queues s'.queues q (queue s q ++ [f]) ∧ s'.slots = s.slots ∧ s'.threads = s.threads := by
  have he : enqueue s q p f = ownFd (setQueue s q (queue s q ++ [f])) f 0x85 := by
    unfold enqueue
    rw [if_neg (by simp [hp]), if_neg (by simp [ho]; omega)]
  have hw := (Stores.ownFd (setQueue s q (queue s q ++ [f])) f 0x85).frame
  dsimp only
  rw [he, hw]
  exact ⟨⟨Tbl.get_set_same _ _ _ _, fun _ h => Tbl.get_set_other _ _ _ h⟩, rfl, rfl⟩

/-- Settles O28: each command's cases under their own lemmas; a released slot is free whatever its verdict does. -/
theorem dispatchAndRelease : Obligations.DispatchAndRelease := by
  unfold Obligations.DispatchAndRelease
  refine ⟨fun c s f hst hlg hf => ⟨?drop, fun h5 hfree hroom => ⟨?class15, ?deal, ?wait⟩⟩,
    fun k s g x hg hx => ⟨?complete, ?late⟩, fun k s x hx hd hh => ⟨?hole, ?stays⟩, fun k s x hx hlg => ⟨?held, ?release⟩⟩
  case drop => exact fun h5 h10 => congrArg Host.Outcome.next (dispatchClass_drops hst hlg hf h5 h10)
  case class15 =>
    intro hc
    obtain ⟨k, x, s', ht, he⟩ := dispatchClass_completes hst hlg hf (by rw [hc]; rfl) h5 hfree hroom
    obtain ⟨n, o, h, hs'⟩ := ht.state
    have hcls := fdClass_of_find hf
    refine ⟨_, congrArg Host.Outcome.next he, rfl, by rw [hs']; rfl, k, ht.lt, ht.free, fun j hj => ?_, x, ?_, ?_, ht.hole,
      ?_, ht.fd.1, ht.fd.2⟩
    · rw [hs']; exact (slot_setSlot s k j (some x)).trans (if_neg hj)
    · rw [hs']; exact (slot_setSlot s k k (some x)).trans (if_pos rfl)
    · rw [ht.done, if_pos (by rw [hcls, hc]; rfl)]
    · rw [ht.cls, hcls, hc]; rfl
  case deal =>
    intro i t hc h10 hn hb
    have hc' : c.val ≠ 15 := fun h => hc (Fin.ext h)
    obtain ⟨k, x, s', l, ht, he⟩ := dispatchClass_deals hst hlg hf hc' h5 h10 hn hb hfree hroom
    obtain ⟨n, o, h, hs'⟩ := ht.state
    have hcls := fdClass_of_find hf
    refine ⟨_, congrArg Host.Outcome.next he, rfl, k, ht.lt, ht.free, fun j hj => ?_, x, ?_, ?_, ht.hole, ?_, ht.tid,
      ht.takenAt, ht.fd.1, ht.fd.2, ?_, fun u hu => ?_⟩
    · rw [hs']; exact (slot_setSlot s k j (some x)).trans (if_neg hj)
    · rw [hs']; exact (slot_setSlot s k k (some x)).trans (if_pos rfl)
    · rw [ht.done, if_neg (by rw [hcls]; exact hc')]
    · rw [ht.cls, hcls]
    · rw [thread_modThread, if_pos rfl, hs']; rfl
    · rw [thread_modThread, if_neg hu, hs']; rfl
  case wait =>
    exact fun hc hn => congrArg Host.Outcome.next (dispatchClass_waits hst hlg hf (fun h => hc (Fin.ext h)) h5 hn)
  case complete =>
    exact fun hh hk => ⟨_, congrArg Host.Outcome.next (ligatureCompletion_completes hx hg hh hk), rfl,
      tblAt_setSlot s k (some { x with done := some g })⟩
  case late =>
    exact fun hh => ⟨_, congrArg Host.Outcome.next (ligatureCompletion_late hx hg hh), lateCompl_noted _⟩
  case hole => exact fun ht => ⟨_, rfl, ligTimeout_holes hx hd hh ht⟩
  case stays => exact fun ht => congrArg Host.Outcome.next (ligTimeout_waits hx ht)
  case held => exact fun hr => congrArg Host.Outcome.next (ligatureRelease_waits hx hr)
  case release =>
    intro hr
    obtain ⟨m, h, he⟩ := ligatureRelease_releases hx hlg hr
    have hfreed : ∀ s' : State, s'.slots = (setSlot s k none).slots → s'.threads = s.threads →
        slot s' k = none ∧ (∀ j, j ≠ k.val → slot s' j = slot s j) ∧ s'.threads = s.threads := fun s' hslots hthreads => by
      have hslot : ∀ j, slot s' j = if j = k.val then none else slot s j := fun j => by
        rw [← slot_setSlot, slot, slot, hslots]
      exact ⟨(hslot k).trans (if_pos rfl), fun j hj => (hslot j).trans (if_neg hj), hthreads⟩
    refine ⟨fun hh => ?lost, fun g hh hd hu hg hfd => ⟨fun ha hp ho hpid hl hroom => ?transmit, fun ha => ?consume,
      fun ha hb => ?discard⟩⟩
    case lost =>
      rw [verdict_hole hh] at he
      split at he
      · next hring =>
        refine ⟨_, congrArg Host.Outcome.next he, hfreed _ rfl rfl, (reg_modPart _ _ _ _).trans (reg_count_same _ _), rfl,
          fun _ => ⟨holeFd x, ?_, holeFd_fields x⟩⟩
        unfold toRing
        rw [part_modPart, if_pos rfl, List.map_append]
        rfl
      · next hring => exact ⟨_, congrArg Host.Outcome.next he, hfreed _ rfl rfl, reg_count_same _ _, rfl, fun h => absurd h hring⟩
    case transmit =>
      rw [verdict_done hh hd hu hg hfd, if_pos ha] at he
      obtain ⟨hqueues, hslots, hthreads⟩ := enqueue_queues (s := { setSlot s k none with maxKey := m, holes := h })
        { g with w0 := setBits g.w0 27 24 x.pid } hp ho hl hroom
      exact ⟨_, congrArg Host.Outcome.next he, hfreed _ hslots hthreads, hqueues⟩
    case consume =>
      rw [verdict_done hh hd hu hg hfd, if_neg (by omega), if_pos ha] at he
      exact ⟨_, congrArg Host.Outcome.next he, hfreed _ rfl rfl, rfl, rfl⟩
    case discard =>
      rw [verdict_done hh hd hu hg hfd, if_neg ha, if_neg hb] at he
      exact ⟨_, congrArg Host.Outcome.next he, hfreed _ rfl rfl, rfl, fun a h => reg_count_other _ (by simpa using h),
        reg_count_same _ _⟩

end Sys2Proof.Machine
end

section
/-! PROOFS. What leaves the lanes' state and registers alone, and engines' reads among it (O29). -/

namespace Sys2Proof.Machine

/-! ## What lies off the lanes -/

/-- MODE_CUR, or a register of a lane's block. -/
abbrev LaneReg (a : Nat) : Prop := a = Reg.MODE_CUR ∨ (0x20000 ≤ a ∧ a < 0xA0000 ∧ 0x100 ≤ a % 0x1000)

/-- The lanes, their registers and the mode are as before, and what has left the device stays in front. -/
structure OffLanes (s s' : State) : Prop where
  lanes : s'.lanes = s.lanes
  regs : ∀ a, LaneReg a → reg s' a = reg s a
  out : s.out <+: s'.out

theorem OffLanes.refl (s : State) : OffLanes s s := ⟨rfl, fun _ _ => rfl, List.prefix_refl _⟩

theorem OffLanes.trans {s s' s'' : State} (h : OffLanes s s') (h' : OffLanes s' s'') : OffLanes s s'' :=
  ⟨h'.lanes.trans h.lanes, fun a ha => (h'.regs a ha).trans (h.regs a ha), h.out.trans h'.out⟩

theorem OffLanes.ite {s a b : State} {c : Prop} [Decidable c] (ha : OffLanes s a) (hb : OffLanes s b) :
    OffLanes s (if c then a else b) := by
  split
  · exact ha
  · exact hb

/-- A state with the same lanes, registers and outputs. -/
theorem OffLanes.of_eq {s s' : State} (hl : s'.lanes = s.lanes) (hr : s'.regs = s.regs) (ho : s'.out = s.out) : OffLanes s s' :=
  ⟨hl, fun a _ => by unfold reg; rw [hr], by rw [ho]⟩

theorem OffLanes.of_stores {s s' : State} (h : Stores s s') : OffLanes s s' :=
  ⟨by rw [h.frame], fun a ha => h.regs a (by rcases ha with rfl | ha; decide; exact ha.2.2)
    (by rcases ha with rfl | ha; decide; omega), h.out⟩

theorem OffLanes.setReg (s : State) {a : Nat} (v : Word) (h : ¬ LaneReg a) : OffLanes s (Machine.setReg s a v) :=
  ⟨rfl, fun _ hb => reg_setReg_other s v (fun e => h (e ▸ hb)), List.prefix_refl _⟩

theorem OffLanes.count (s : State) {a : Nat} (h : ¬ LaneReg a) : OffLanes s (Machine.count s a) := OffLanes.setReg s _ h

theorem OffLanes.note (s : State) {page : Nat} (src access mid addr : Nat) (hp : Based page) :
    OffLanes s (Machine.note s page src access mid addr) := OffLanes.of_stores (Stores.note s src access mid addr hp)

theorem OffLanes.takeInjection (s : State) {page : Nat} (src : Nat) (hp : Based page) :
    ∃ o s1, Machine.takeInjection s page src = (o, s1) ∧ OffLanes s s1 := by
  have h : ¬ LaneReg (Reg.PG_INJECT page) := by
    simp only [Based] at hp
    simp only [LaneReg, Reg.PG_INJECT, Reg.MODE_CUR]; omega
  unfold Machine.takeInjection
  dsimp only
  split
  · exact ⟨_, _, rfl, OffLanes.setReg s _ h⟩
  · exact ⟨_, _, rfl, OffLanes.refl s⟩

/-! ## Engines' reads (R49, R256, R262, R337) -/

theorem OffLanes.showRecovery (s : State) (kind unit : Nat) : OffLanes s (Machine.showRecovery s kind unit) :=
  OffLanes.setReg s _ (by decide)

theorem OffLanes.markChk (s : State) (k : Nat) : OffLanes s (Machine.markChk s k) := OffLanes.of_eq rfl rfl rfl

theorem OffLanes.countRank (s : State) (c r : Nat) (bad : Bool) : OffLanes s (Machine.countRank s c r bad) := OffLanes.of_eq rfl rfl rfl

theorem OffLanes.countCheck (s : State) (k : Nat) (corrected bad : Bool) : OffLanes s (Machine.countCheck s k corrected bad) := by
  have ddrReg : ∀ c, ¬ LaneReg (Reg.DDR_CORR c) ∧ ¬ LaneReg (Reg.DDR_UNCORR c) := fun c => by
    simp only [LaneReg, Reg.DDR_CORR, Reg.DDR_UNCORR, Reg.ddrPage, Reg.MODE_CUR]; omega
  unfold Machine.countCheck
  split
  · have h1 : OffLanes s (if bad = true then Machine.showRecovery s 4 0 else s) :=
      OffLanes.ite (OffLanes.showRecovery s 4 0) (OffLanes.refl s)
    refine h1.trans ?_
    generalize (if bad = true then Machine.showRecovery s 4 0 else s) = t
    have hc : OffLanes t (Machine.count t Reg.SC_CORR) := OffLanes.count t (by decide)
    have hb : OffLanes t (if bad = true then Machine.markChk t k else t) := OffLanes.ite (OffLanes.markChk t k) (OffLanes.refl t)
    exact OffLanes.ite (OffLanes.refl t) (OffLanes.ite hc hb)
  · split
    · exact OffLanes.refl s
    · next c off _ =>
      have h1 : OffLanes s (if corrected = true then Machine.count s (Reg.DDR_CORR c) else s) :=
        OffLanes.ite (OffLanes.count s (ddrReg c).1) (OffLanes.refl s)
      refine h1.trans ?_
      generalize (if corrected = true then Machine.count s (Reg.DDR_CORR c) else s) = t
      have h2 : OffLanes t (if bad = true then Machine.count t (Reg.DDR_UNCORR c) else t) :=
        OffLanes.ite (OffLanes.count t (ddrReg c).2) (OffLanes.refl t)
      exact h2.trans (OffLanes.countRank _ _ _ _)

/-- The pages that report check errors are page bases. -/
theorem checkPage_based {s : State} {k page cor : Nat} {unc : Option Nat} (h : checkPage s k = some (page, cor, unc)) :
    Based page := by
  have nib : ∀ n, Reg.nibPage n % 0x1000 = 0 := fun n => by
    unfold Reg.nibPage Reg.stewardPage; split <;> omega
  unfold checkPage at h
  repeat' split at h
  all_goals cases h
  · decide
  · decide
  · decide
  · exact nib _
  · decide
  · decide
  · simp only [Based, Reg.ddrPage]; omega

theorem OffLanes.checkRead (s : State) (k mid acc : Nat) : OffLanes s (Machine.checkRead s k mid acc).2 := by
  unfold Machine.checkRead
  split
  · exact OffLanes.refl s
  · next page cor unc hpage =>
    have hp := checkPage_based hpage
    extract_lets report injected
    have hreport : ∀ s acc, OffLanes s (report s acc) := fun s acc => by
      simp only [report]
      split
      · exact OffLanes.note s _ _ _ _ hp
      · exact OffLanes.refl s
    have hinjected : ∀ s flip, OffLanes s (injected s flip).2 := fun s flip => by
      simp only [injected]
      split
      · exact (OffLanes.note s _ _ _ _ hp).trans (OffLanes.countCheck _ _ _ _)
      · exact (hreport s _).trans (OffLanes.countCheck _ _ _ _)
    split
    · exact (hreport s _).trans (OffLanes.countCheck _ _ _ _)
    · obtain ⟨o, s1, e, h1⟩ := OffLanes.takeInjection s cor hp
      rw [e]
      cases o with
      | some flip => exact h1.trans (hinjected s1 flip)
      | none =>
        cases unc with
        | none => exact h1
        | some u =>
          obtain ⟨o', s2, e', h2⟩ := OffLanes.takeInjection s1 u hp
          dsimp only
          rw [e']
          cases o' with
          | some flip => exact (h1.trans h2).trans (hinjected s2 flip)
          | none => exact (h1.trans h2).trans (OffLanes.countCheck _ _ _ _)

theorem OffLanes.engineRead (s : State) (k n mid : Nat) : OffLanes s (Machine.engineRead s k n mid).2.2 := by
  have folded : ∀ (l : List Nat) (r : Bool × State), OffLanes s r.2 → OffLanes s (l.foldl (fun r i =>
      let (b, t) := Machine.checkRead r.2 (k - k % 8 + 8 * i) mid 0
      (r.1 || b, t)) r).2 := fun l => by
    induction l with
    | nil => exact fun _ h => h
    | cons i l ih => exact fun r h => ih _ (h.trans (OffLanes.checkRead _ _ _ _))
  exact folded _ _ (OffLanes.of_stores (Stores.engineAccess s k n mid false))

end Sys2Proof.Machine
end

section
/-! PROOFS. The end of a frame sent (O29). -/

namespace Sys2Proof.Machine

/-! ## The end of a frame sent (R49, R50, R67) -/

theorem laneReg_lanePage {n o : Nat} (hn : n < 128) (ho : 0x100 ≤ o ∧ o < 0x1000) : LaneReg (Reg.lanePage n + o) := by
  refine .inr ?_
  simp only [Reg.lanePage]
  omega

/-- A lane's page begins at the base of a lane's block. -/
theorem pageAt_lanePage {n : Nat} (hn : n < 128) : pageAt (Reg.lanePage n / 0x1000) = some (.lane, n) := by
  have h : Reg.lanePage n / 0x1000 = 0x20 + n := by simp only [Reg.lanePage]; omega
  unfold pageAt
  rw [h]
  repeat rw [if_neg (by omega)]
  rw [if_pos (by omega), Nat.add_sub_cancel_left]

/-- A source whose severity is NOTE is recorded, and nothing more (R325). -/
theorem fault_note {s : State} {page src : Nat} (h : severity s page src = 0) (access mid addr : Nat) :
    fault s page src access mid addr = note s page src access mid addr := by
  unfold fault report
  simp only [h]
  rfl

/-- A lane's registers, read by their offset. -/
theorem OffLanes.reg {s s' : State} (h : OffLanes s s') {n o : Nat} (hn : n < 128) (ho : 0x100 ≤ o ∧ o < 0x1000) :
    Machine.reg s' (Reg.lanePage n + o) = Machine.reg s (Reg.lanePage n + o) := h.regs _ (laneReg_lanePage hn ho)

theorem OffLanes.laneMode {s s' : State} (h : OffLanes s s') {n : Nat} (hn : n < 128) :
    Machine.laneMode s' n = Machine.laneMode s n := by
  have e : Machine.reg s' (Reg.LANE_CTL n) = Machine.reg s (Reg.LANE_CTL n) := h.reg hn (by omega)
  unfold Machine.laneMode fld
  rw [e]

/-- A frame's bytes on the link are its lane's registers and its data. -/
theorem OffLanes.linkFrame {s s' : State} (h : OffLanes s s') {n : Nat} (hn : n < 128) (data : List Byte) (stomp : Bool) :
    Machine.linkFrame s' n data stomp = Machine.linkFrame s n data stomp := by
  have ctl : Machine.reg s' (Reg.LANE_CTL n) = Machine.reg s (Reg.LANE_CTL n) := h.reg hn (by omega)
  have dl : Machine.reg s' (Reg.LANE_ETH_DA_LO n) = Machine.reg s (Reg.LANE_ETH_DA_LO n) := h.reg hn (by omega)
  have dh : Machine.reg s' (Reg.LANE_ETH_DA_HI n) = Machine.reg s (Reg.LANE_ETH_DA_HI n) := h.reg hn (by omega)
  have sl : Machine.reg s' (Reg.LANE_ETH_SA_LO n) = Machine.reg s (Reg.LANE_ETH_SA_LO n) := h.reg hn (by omega)
  have sh : Machine.reg s' (Reg.LANE_ETH_SA_HI n) = Machine.reg s (Reg.LANE_ETH_SA_HI n) := h.reg hn (by omega)
  have vl : Machine.reg s' (Reg.LANE_VLAN n) = Machine.reg s (Reg.LANE_VLAN n) := h.reg hn (by omega)
  have hh : linkHeader s' n = linkHeader s n := by
    unfold linkHeader laneVlan fld flag
    rw [h.laneMode hn, ctl, dl, dh, sl, sh, vl]
  unfold Machine.linkFrame
  rw [hh]

theorem OffLanes.bw (s : State) (i k : Nat) : OffLanes s (Machine.bw s i k) := OffLanes.of_stores (Stores.bw s i k)

theorem OffLanes.emit (s : State) (o : Out) : OffLanes s (Machine.emit s o) := ⟨rfl, fun _ _ => rfl, List.prefix_append _ _⟩

/-- The crossings due give up their extents: no lane, no register and nothing that left the device changes (R238). -/
theorem freeDue_keeps (s : State) : (freeDue s).lanes = s.lanes ∧ (freeDue s).regs = s.regs ∧ (freeDue s).out = s.out := by
  unfold freeDue
  generalize List.map _ _ = l
  induction l generalizing s with
  | nil => exact ⟨rfl, rfl, rfl⟩
  | cons b l ih => exact ih (freeXing s b)

/-- The frame's hold on its crossing or its buffer ends (R238, R246). -/
def endHold (s : State) (f : TxFrame) : State :=
  match f.b with
  | some b => freeDue (modXing s b (fun x => { x with txHolds := x.txHolds - 1 }))
  | none => freeFd s f.fd

theorem endHold_offLanes (s : State) (f : TxFrame) : OffLanes s (endHold s f) := by
  unfold endHold
  split
  · obtain ⟨hl, hr, ho⟩ := freeDue_keeps (modXing s ‹_› (fun x => { x with txHolds := x.txHolds - 1 }))
    exact OffLanes.of_eq hl hr ho
  · exact OffLanes.of_stores (Stores.freeFd s f.fd)

theorem endHold_steady (s : State) (f : TxFrame) : Steady s (endHold s f) := by
  unfold endHold
  split
  · exact Steady.of_regs (freeDue_keeps (modXing s ‹_› (fun x => { x with txHolds := x.txHolds - 1 }))).2.1
  · exact (Calm.freeFd s f.fd).steady

/-- What reading the frame to be sent gives: whether a word was bad, the data, and the state after it (R49). -/
abbrev sendRead (s : State) (f : TxFrame) : Bool × List Byte × State := engineRead s (bufKey s f.fd.w4) (fdLen f.fd) 0x85

/-- The check that the frame sent meets in the Blotter, armed or not (R337). -/
abbrev sendCheck (s : State) (f : TxFrame) : Option Nat × State := takeInjection (sendRead s f).2.2 Reg.blotterPage 0

/-- The frame's words or its carry check are wrong (R50, R67). -/
def sendBroken (s : State) (f : TxFrame) : Bool :=
  (sendRead s f).1 || (sendCheck s f).1.isSome || crc32c (sendRead s f).2.1 ≠ f.fd.w5

/-- The frame ends with the complement of its CRC (R67). -/
def sendStomp (s : State) (f : TxFrame) : Bool := f.stomp || sendBroken s f || bit f.fd.w0 5

/-- The frame `f` as it leaves lane `n`. -/
def sentOut (s : State) (n : Nat) (f : TxFrame) (data : List Byte) (stomp : Bool) : Out :=
  let bytes := linkFrame s n data stomp
  .frame n f.fd bytes (if laneMode s n = 1 then frameBlocks bytes else []) stomp

theorem OffLanes.sentOut {s s' : State} (h : OffLanes s s') {n : Nat} (hn : n < 128) (f : TxFrame) (data : List Byte) (stomp : Bool) :
    Machine.sentOut s' n f data stomp = Machine.sentOut s n f data stomp := by
  unfold Machine.sentOut
  rw [h.linkFrame hn, h.laneMode hn]

/-- The state when the frame's words have been read and checked and the ports have counted them. -/
def sendCounted (s : State) (n : Nat) (f : TxFrame) : State :=
  bw (bw (sendCheck s f).2 (36 + n / 32) (fdLen f.fd)) 41 (fdLen f.fd)

/-- A stomped frame is counted and recorded on its lane (R67). -/
def stompNoted (s : State) (n : Nat) (stomp : Bool) : State :=
  if stomp then fault (count s (Reg.STOMPED n)) (Reg.lanePage n) 0x05 else s

/-- A frame whose check is wrong is recorded in the Blotter (R50). -/
def brokenNoted (s : State) (broken injected : Bool) : State :=
  if broken then fault s Reg.blotterPage 0x00 (if injected then 0xD else 5) else s

theorem egressFrameEnd_of_tx {s : State} {n : Nat} {f : TxFrame} (h : (lane s n).tx = some f) :
    egressFrameEnd n s = loopBack n (linkFrame (sendCounted s n f) n (sendRead s f).2.1 (sendStomp s f))
      (endHold (modLane (brokenNoted (stompNoted
        (emit (sendCounted s n f) (sentOut (sendCounted s n f) n f (sendRead s f).2.1 (sendStomp s f))) n (sendStomp s f))
          (sendBroken s f) (sendCheck s f).1.isSome) n (fun l => { l with tx := none })) f) := by
  unfold egressFrameEnd
  rw [h]
  rfl

theorem sendCounted_offLanes (s : State) (n : Nat) (f : TxFrame) : OffLanes s (sendCounted s n f) := by
  obtain ⟨o, s1, e, h⟩ := OffLanes.takeInjection (sendRead s f).2.2 0 (page := Reg.blotterPage) (by decide)
  unfold sendCounted sendCheck
  rw [e]
  exact (((OffLanes.engineRead s _ _ _).trans h).trans (OffLanes.bw s1 _ _)).trans (OffLanes.bw _ _ _)

/-- Ending a stomped frame changes no register of a lane but STOMPED, which counts it. -/
theorem stompNoted_counts (s : State) {n : Nat} (hn : n < 128) (stomp : Bool) :
    (stompNoted s n stomp).lanes = s.lanes ∧ s.out <+: (stompNoted s n stomp).out
    ∧ (∀ a, LaneReg a → reg (stompNoted s n stomp) a = if a = Reg.STOMPED n then reg s a + (if stomp then 1 else 0) else reg s a) := by
  cases stomp with
  | false => exact ⟨rfl, List.prefix_refl _, fun a _ => by rw [show stompNoted s n false = s from rfl]; simp⟩
  | true =>
    have hs : severity (count s (Reg.STOMPED n)) (Reg.lanePage n) 5 = 0 := by
      unfold severity
      rw [pageAt_lanePage hn]
      simp
    have e : stompNoted s n true = note (count s (Reg.STOMPED n)) (Reg.lanePage n) 5 5 0 0 := fault_note hs 5 0 0
    have h := OffLanes.note (count s (Reg.STOMPED n)) 5 5 0 0 (page := Reg.lanePage n) (by simp only [Based, Reg.lanePage]; omega)
    rw [e]
    refine ⟨h.lanes, h.out, fun a ha => ?_⟩
    rw [h.regs a ha, reg_count]
    split
    · next ea => rw [ea]; rfl
    · rfl

theorem brokenNoted_eq (s : State) (injected : Bool) :
    brokenNoted s true injected = note s Reg.blotterPage 0 (if injected then 0xD else 5) 0 0 := by
  have hs : severity s Reg.blotterPage 0 = 0 := rfl
  unfold brokenNoted
  rw [if_pos rfl, fault_note hs]

theorem brokenNoted_offLanes (s : State) (broken injected : Bool) : OffLanes s (brokenNoted s broken injected) := by
  cases broken with
  | false => exact OffLanes.refl s
  | true => rw [brokenNoted_eq]; exact OffLanes.note s 0 _ 0 0 (by decide)

theorem brokenNoted_sticky (s : State) (injected : Bool) :
    flag (brokenNoted s true injected) (Reg.PG_ERR_STICKY Reg.blotterPage) 0 = true := by
  rw [brokenNoted_eq]
  exact (noted_note s Reg.blotterPage 0 _ 0 0 [] (by decide) (by decide) (by decide)).2

/-- What the end of a frame sent does: its lane is free, the frame has left, STOMPED counts it if it was stomped, and a wrong
check is recorded. -/
structure FrameSent (n : Nat) (s s' : State) (f : TxFrame) : Prop where
  free : (lane s' n).tx = none
  others : ∀ m, m ≠ n → lane s' m = lane s m
  out : sentOut s n f (sendRead s f).2.1 (sendStomp s f) ∈ s'.out
  stomped : reg s' (Reg.STOMPED n) = reg s (Reg.STOMPED n) + (if sendStomp s f then 1 else 0)
  sticky : sendBroken s f = true → flag s' (Reg.PG_ERR_STICKY Reg.blotterPage) 0 = true

theorem egressFrameEnd_sends {s : State} {n : Nat} {f : TxFrame} (hn : n < 128) (htx : (lane s n).tx = some f)
    (hloop : looped s n = false) : FrameSent n s (egressFrameEnd n s) f := by
  rw [egressFrameEnd_of_tx htx]
  generalize linkFrame _ _ _ _ = bytes
  have h1 := sendCounted_offLanes s n f
  rw [h1.sentOut hn]
  have h2 := h1.trans (OffLanes.emit (sendCounted s n f) (sentOut s n f (sendRead s f).2.1 (sendStomp s f)))
  have ho : sentOut s n f (sendRead s f).2.1 (sendStomp s f) ∈
      (emit (sendCounted s n f) (sentOut s n f (sendRead s f).2.1 (sendStomp s f))).out := by simp [emit]
  generalize emit (sendCounted s n f) _ = t2 at h2 ho
  obtain ⟨hl3, ho3, hr3⟩ := stompNoted_counts t2 hn (sendStomp s f)
  generalize stompNoted t2 n (sendStomp s f) = t3 at hl3 ho3 hr3
  have h4 := brokenNoted_offLanes t3 (sendBroken s f) (sendCheck s f).1.isSome
  have hk : sendBroken s f = true → flag (brokenNoted t3 (sendBroken s f) (sendCheck s f).1.isSome)
      (Reg.PG_ERR_STICKY Reg.blotterPage) 0 = true := fun hb => by rw [hb]; exact brokenNoted_sticky t3 _
  generalize brokenNoted t3 (sendBroken s f) (sendCheck s f).1.isSome = t4 at h4 hk
  have h5 := endHold_offLanes (modLane t4 n (fun l => { l with tx := none })) f
  have hk5 := endHold_steady (modLane t4 n (fun l => { l with tx := none })) f
  generalize endHold (modLane t4 n (fun l => { l with tx := none })) f = t5 at h5 hk5
  have regs : ∀ a, LaneReg a → reg t5 a = if a = Reg.STOMPED n then reg s a + (if sendStomp s f then 1 else 0) else reg s a :=
    fun a ha => by rw [h5.regs a ha, show reg (modLane t4 n _) a = reg t4 a from rfl, h4.regs a ha, hr3 a ha, h2.regs a ha]
  have hloop5 : looped t5 n = false := by
    have ctl : reg t5 (Reg.LANE_CTL n) = reg s (Reg.LANE_CTL n) := by
      have hc : LaneReg (Reg.LANE_CTL n) := laneReg_lanePage hn (by omega)
      rw [regs _ hc, if_neg (by simp only [Reg.LANE_CTL, Reg.STOMPED]; omega)]
    have hm : reg t5 Reg.MODE_CUR = reg s Reg.MODE_CUR := by
      rw [regs _ (.inl rfl), if_neg (by simp only [Reg.MODE_CUR, Reg.STOMPED, Reg.lanePage]; omega)]
    unfold looped mode fld flag at hloop ⊢
    rw [ctl, hm]
    exact hloop
  have lanes : ∀ m, lane t5 m = lane (modLane t4 n (fun l => { l with tx := none })) m := fun m => by
    unfold lane; rw [h5.lanes]
  have hlane : ∀ m, lane t4 m = lane s m := fun m => by unfold lane; rw [h4.lanes, hl3, h2.lanes]
  have e : loopBack n bytes t5 = t5 := by unfold loopBack; rw [hloop5]; rfl
  rw [e]
  refine ⟨?_, fun m hm => ?_, ?_, ?_, fun hb => hk5.rise _ (.inr (by decide)) _ (hk hb)⟩
  · rw [lanes, lane_modLane, if_pos rfl]
  · rw [lanes, lane_modLane, if_neg hm, hlane]
  · exact h5.out.subset (h4.out.subset (ho3.subset ho))
  · have hc : LaneReg (Reg.STOMPED n) := laneReg_lanePage hn (by omega)
    rw [regs _ hc, if_pos rfl]

end Sys2Proof.Machine
end

section
/-! PROOFS. A Scroll frame that reads good (O29). -/

namespace Sys2Proof.Machine

/-! ## A Scroll frame that reads good (R49) -/

theorem Uninjected.noArm {s : State} (h : Uninjected s) {k : Nat} (hk : k < 0x200) (src : Nat) : NoArm s (0x1000 * k) src :=
  fun ha => Bool.false_ne_true ((h k hk).symm.trans ha.1)

/-- An engine's access to the Scroll is only counted. -/
theorem engineAccess_scroll (s : State) {k n : Nat} (mid : Nat) (h : k ≤ 0x8000000) :
    ∃ p, engineAccess s k n mid false = { s with perf := p } := by
  have counted : ∀ i, ∃ p, bw s i n = { s with perf := p } := fun i => by
    unfold bw
    split
    · exact ⟨s.perf, rfl⟩
    · exact ⟨_, rfl⟩
  have hd : k < dramBase := by unfold dramBase; omega
  have e : engineAccess s k n mid false = bwKey s k n false := by
    unfold engineAccess dramTraffic
    rw [if_pos hd]
    exact if_neg (by omega)
  rw [e]
  unfold bwKey
  by_cases hk : k < 0x8000000
  · rw [if_pos hk]; exact counted 20
  · rw [if_neg hk, if_pos (by omega)]; exact counted 21

/-- A good Scroll word is read without a trace. -/
theorem checkRead_scroll {s : State} {k : Nat} (mid : Nat) (hk : k < 0x8000000) (hb : badAt s k = false) (hu : Uninjected s) :
    checkRead s k mid = (false, s) := by
  have hp : checkPage s k = some (Reg.scrollPage, 0, some 1) := if_pos hk
  have arm : ∀ src, takeInjection s Reg.scrollPage src = (none, s) := fun src =>
    takeInjection_none (hu.noArm (k := 0xB4) (by decide) src)
  have hc : countCheck s k false false = s := by
    unfold countCheck
    rw [if_pos (by unfold dramBase; omega)]
    simp [Nat.not_le.mpr hk]
  unfold checkRead
  rw [hp]
  simp only [hb, arm, hc, Bool.false_eq_true, if_false]

theorem checkRange_scroll {s : State} {k n : Nat} (mid : Nat) (h : k + n ≤ 0x8000000)
    (hb : ∀ i, i < (k % 8 + n + 7) / 8 → badAt s (k - k % 8 + 8 * i) = false) (hu : Uninjected s) :
    checkRange s k n mid = (false, s) := by
  have folded : ∀ l : List Nat, (∀ i ∈ l, i < (k % 8 + n + 7) / 8) → l.foldl (fun r i =>
      let (b, t) := checkRead r.2 (k - k % 8 + 8 * i) mid 0
      (r.1 || b, t)) (false, s) = (false, s) := fun l hl => by
    induction l with
    | nil => rfl
    | cons i l ih =>
      have hi := hl i (by simp)
      rw [List.foldl_cons, checkRead_scroll mid (by omega) (hb i hi) hu]
      exact ih (fun j hj => hl j (by simp [hj]))
  exact folded _ (fun i hi => List.mem_range.mp hi)

/-- A Scroll frame whose words are good reads as its bytes. -/
theorem engineRead_scroll {s : State} {k n : Nat} (mid : Nat) (h : k + n ≤ 0x8000000)
    (hb : ∀ i, i < (k % 8 + n + 7) / 8 → badAt s (k - k % 8 + 8 * i) = false) (hu : Uninjected s) :
    ∃ p, engineRead s k n mid = (false, rdBytes s k n, { s with perf := p }) := by
  obtain ⟨p, e⟩ := engineAccess_scroll s (n := n) mid (show k ≤ 0x8000000 by omega)
  refine ⟨p, ?_⟩
  unfold engineRead
  rw [e, checkRange_scroll (s := { s with perf := p }) mid h hb hu]
  rfl

/-- A frame in the Scroll whose words are good and whose carry check matches is not broken. -/
theorem sendBroken_scroll {s : State} {f : TxFrame} (h : bufKey s f.fd.w4 + fdLen f.fd ≤ 0x8000000)
    (hb : ∀ i, i < (bufKey s f.fd.w4 % 8 + fdLen f.fd + 7) / 8 →
      badAt s (bufKey s f.fd.w4 - bufKey s f.fd.w4 % 8 + 8 * i) = false) (hu : Uninjected s)
    (hc : crc32c (sendRead s f).2.1 = f.fd.w5) : sendBroken s f = false := by
  obtain ⟨p, e⟩ := engineRead_scroll 0x85 h hb hu
  have arm : takeInjection { s with perf := p } Reg.blotterPage 0 = (none, { s with perf := p }) :=
    takeInjection_none (Uninjected.noArm (s := { s with perf := p }) hu (k := 3) (by decide) 0)
  unfold sendBroken sendCheck
  simp only [sendRead, e, arm] at hc ⊢
  simp [hc]

end Sys2Proof.Machine
end

section
/-! PROOFS. What the Ruling selects (O29). -/

namespace Sys2Proof.Machine

/-! ## Selection (R226–R228, R231) -/

/-- A key with a value of its own is listed. -/
theorem mem_of_get_ne {α : Type} {d : Nat → α} {t : Tbl α} {k : Nat} (h : Tbl.get d t k ≠ d k) : (k, Tbl.get d t k) ∈ t := by
  induction t with
  | nil => exact absurd rfl h
  | cons e t ih =>
    obtain ⟨j, v⟩ := e
    unfold Tbl.get at h ⊢
    split
    · next hj => subst hj; exact List.mem_cons_self ..
    · next hj => rw [if_neg hj] at h; exact List.mem_cons_of_mem _ (ih h)

/-- An eligible queue has a head. -/
theorem eligible_head {s : State} {n q : Nat} (h : eligible s n q = true) : ∃ f rest, queue s q = f :: rest := by
  unfold eligible at h
  cases hq : queue s q with
  | nil => simp [hq] at h
  | cons f rest => exact ⟨f, rest, rfl⟩

/-- The eligible queues of a lane, as RULING_SELECT lists them. -/
def eligibles (s : State) (n : Nat) : List Nat := (s.queues.map Prod.fst).filter (fun q => q < 256 && eligible s n q)

theorem mem_eligibles (s : State) (n q : Nat) : q ∈ eligibles s n ↔ q < 256 ∧ eligible s n q = true := by
  unfold eligibles
  simp only [List.mem_filter, Bool.and_eq_true, decide_eq_true_eq, and_iff_right_iff_imp]
  rintro ⟨-, he⟩
  obtain ⟨f, rest, hq⟩ := eligible_head he
  have hne : queue s q ≠ [] := by rw [hq]; exact List.cons_ne_nil _ _
  exact List.mem_map_of_mem (f := Prod.fst) (mem_of_get_ne hne)

theorem queuePrio_lt (s : State) (q : Nat) : queuePrio s q < 4 := by
  unfold queuePrio fld bits
  omega

/-- With no eligible head, nothing is selected. -/
theorem selectQueue_none {s : State} {n : Nat} (h : ∀ q < 256, eligible s n q = false) : selectQueue s n = none := by
  have hl : eligibles s n = [] := List.eq_nil_iff_forall_not_mem.mpr fun q hq => by
    obtain ⟨hlt, he⟩ := (mem_eligibles s n q).mp hq
    rw [h q hlt] at he
    exact Bool.false_ne_true he
  unfold eligibles at hl
  unfold selectQueue
  rw [hl]
  rfl

/-- A queue of the least priority code among the eligible queues. -/
abbrev Foremost (s : State) (n q : Nat) : Prop :=
  q < 256 ∧ eligible s n q = true ∧ ∀ r < 256, eligible s n r = true → queuePrio s q ≤ queuePrio s r

/-- An eligible queue of code `p`, where no eligible queue has a lower code, is foremost. -/
theorem foremost_of_mem {s : State} {n p q : Nat} (hlow : ∀ j < p, ∀ r ∈ eligibles s n, queuePrio s r ≠ j)
    (hq : q ∈ (eligibles s n).filter (fun q => queuePrio s q = p)) : Foremost s n q := by
  obtain ⟨hm, hp⟩ := List.mem_filter.mp hq
  obtain ⟨hlt, he⟩ := (mem_eligibles s n q).mp hm
  have hp : queuePrio s q = p := of_decide_eq_true hp
  refine ⟨hlt, he, fun r hr her => Nat.le_of_not_lt fun hlow' => ?_⟩
  exact hlow (queuePrio s r) (hp ▸ hlow') r ((mem_eligibles s n r).mpr ⟨hr, her⟩) rfl

/-- With an eligible head, an eligible one of the highest priority is selected. -/
theorem selectQueue_some {s : State} {n : Nat} (h : ∃ q < 256, eligible s n q = true) :
    ∃ q, selectQueue s n = some q ∧ Foremost s n q := by
  obtain ⟨r, hlt, he⟩ := h
  have hr := (mem_eligibles s n r).mpr ⟨hlt, he⟩
  unfold selectQueue
  rw [show (s.queues.map Prod.fst).filter (fun q => q < 256 && eligible s n q) = eligibles s n from rfl]
  dsimp only
  split
  · next hf =>
    have hno := List.find?_eq_none.mp hf (queuePrio s r) (List.mem_range.mpr (queuePrio_lt s r))
    exact absurd (List.any_eq_true.mpr ⟨r, hr, by simp⟩) hno
  · next p hf =>
    obtain ⟨hp, -, hj⟩ := List.find?_range_eq_some.mp hf
    have hlow : ∀ j < p, ∀ r ∈ eligibles s n, queuePrio s r ≠ j := fun j hjp => by simpa using hj j hjp
    split
    · next q hg => exact ⟨q, rfl, foremost_of_mem hlow (List.mem_of_find?_eq_some hg)⟩
    · obtain ⟨q, hq, hqp⟩ := List.any_eq_true.mp hp
      have hne : (eligibles s n).filter (fun q => queuePrio s q = p) ≠ [] :=
        List.ne_nil_of_mem (List.mem_filter.mpr ⟨hq, hqp⟩)
      exact ⟨_, List.head?_eq_some_head hne, foremost_of_mem hlow (List.head_mem hne)⟩

end Sys2Proof.Machine
end

section
/-! PROOFS. The head that the Ruling takes (O29). -/

namespace Sys2Proof.Machine

theorem shTokens_setTokens (s : State) (k j : Nat) (v : Int) : shTokens (setTokens s k v) j = if j = k then v else shTokens s j :=
  Tbl.get_set _ s.tokens k j v

/-- A queue's shaper, where it has one, pays a frame's cost (R229). -/
def payShaper (s : State) (shaper : Option Nat) (cost : Nat) : State :=
  match shaper with
  | some k => setTokens s k (shTokens s k - (cost * 256 : Nat))
  | none => s

theorem payShaper_eq (s : State) (shaper : Option Nat) (cost : Nat) :
    payShaper s shaper cost = { s with tokens := (payShaper s shaper cost).tokens } := by
  cases shaper <;> rfl

theorem shTokens_payShaper (s : State) (shaper : Option Nat) (cost k : Nat) :
    shTokens (payShaper s shaper cost) k = if shaper = some k then shTokens s k - (cost * 256 : Nat) else shTokens s k := by
  cases shaper with
  | none => rfl
  | some j =>
    refine (shTokens_setTokens s j k _).trans ?_
    split
    · next h => subst h; simp
    · next h => rw [if_neg (by simpa using Ne.symm h)]

/-- A frame on a lane holds its crossing, where it has one (R238). -/
def holdXing (s : State) (b : Option Nat) : State :=
  match b with
  | some b => modXing s b (fun x => { x with txHolds := x.txHolds + 1 })
  | none => s

theorem holdXing_eq (s : State) (b : Option Nat) : holdXing s b = { s with xings := (holdXing s b).xings } := by
  cases b <;> rfl

/-- The head of queue `q` leaves it, and the round robin of its priority goes on after it (R227). -/
def headLeaves (s : State) (n q : Nat) (rest : List FD) : State :=
  modLane (setQueue s q rest) n (fun l => { l with rr := Tbl.set (fun _ => 0) l.rr (queuePrio s q) (q + 1) })

/-- A head with no CHKERR that has not expired starts (R227–R229). -/
theorem takeHead_sends {s : State} (n q : Nat) {f : FD} (rest : List FD) (h5 : bit f.w0 5 = false)
    (hx : (fdXing s f).any (retentionOver s) = false) :
    takeHead s n q f rest = (true, modLane (count (holdXing (payShaper (headLeaves s n q rest) (queueShaper s q) (costOf s n q f))
      (fdXing s f)) (Reg.TX_FRAMES n)) n (fun l => { l with tx := some { fd := f, queue := q, b := fdXing s f, stomp := false } })) := by
  unfold takeHead
  rw [if_neg (by simp [h5]), if_neg (by simp [hx])]
  rfl

/-- The head of queue `q` is on lane `n`: it left its queue, TX_FRAMES counts it, and its shaper pays its cost. -/
structure HeadSent (n q : Nat) (f : FD) (rest : List FD) (s s' : State) : Prop where
  queues : s'.queues = (setQueue s q rest).queues
  regs : s'.regs = (count s (Reg.TX_FRAMES n)).regs
  tx : (lane s' n).tx = some { fd := f, queue := q, b := fdXing s f, stomp := false }
  others : ∀ m, m ≠ n → lane s' m = lane s m
  tokens : ∀ k, shTokens s' k = if queueShaper s q = some k then shTokens s k - (costOf s n q f * 256 : Nat) else shTokens s k

theorem takeHead_headSent {s : State} (n q : Nat) {f : FD} (rest : List FD) (h5 : bit f.w0 5 = false)
    (hx : (fdXing s f).any (retentionOver s) = false) : ∃ t, takeHead s n q f rest = (true, t) ∧ HeadSent n q f rest s t := by
  refine ⟨_, takeHead_sends n q rest h5 hx, ?_⟩
  rw [holdXing_eq]
  have ht := shTokens_payShaper (headLeaves s n q rest) (queueShaper s q) (costOf s n q f)
  rw [payShaper_eq] at ht ⊢
  refine ⟨rfl, rfl, ?_, fun m hm => ?_, ht⟩
  · rw [lane_modLane, if_pos rfl]
  · rw [lane_modLane, if_neg hm]
    have ho : lane (headLeaves s n q rest) m = lane s m := (lane_modLane _ _ _ _).trans (if_neg hm)
    exact ho

theorem length_le_storeUsed (s : State) (q : Nat) : (queue s q).length ≤ storeUsed s := by
  by_cases h : queue s q = []
  · rw [h]; exact Nat.zero_le _
  · exact List.le_sum_of_mem (List.mem_map_of_mem (f := fun e : Nat × List FD => e.2.length) (mem_of_get_ne h))

theorem selectLoop_none {s : State} {n : Nat} (h : selectQueue s n = none) (fuel : Nat) : selectLoop n fuel s = s := by
  cases fuel with
  | zero => rfl
  | succ fuel => unfold selectLoop; rw [h]

theorem selectLoop_sends {s t : State} {n q : Nat} {f : FD} {rest : List FD} (hs : selectQueue s n = some q)
    (hq : queue s q = f :: rest) (ht : takeHead s n q f rest = (true, t)) : selectLoop n (storeUsed s) s = t := by
  have hpos := length_le_storeUsed s q
  rw [hq, List.length_cons] at hpos
  cases he : storeUsed s with
  | zero => omega
  | succ fuel => unfold selectLoop; simp only [hs, hq, ht]

/-- A lane that cannot start a frame starts none. -/
theorem rulingSelect_idle {s : State} {n : Nat}
    (h : frameLane s n = false ∨ txOpen s n = false ∨ (lane s n).tx ≠ none ∨ fatal s = true) : rulingSelect n s = s := by
  unfold rulingSelect
  rw [if_pos]
  rcases h with h | h | h | h
  · exact .inl (by simp [h])
  · exact .inr (.inl (by simp [h]))
  · exact .inr (.inr (.inl (Option.isSome_iff_ne_none.mpr h)))
  · exact .inr (.inr (.inr (.inl h)))

/-- A lane that can start a frame goes through the queues' heads. -/
theorem rulingSelect_runs {s : State} {n : Nat} (hf : frameLane s n = true) (htx : (lane s n).tx = none) (hfat : fatal s = false)
    (ho : txOpen s n = true) (hst : starts s Reg.rulingPage = true) :
    rulingSelect n s = { selectLoop n (storeUsed s) s with free := (selectLoop n (storeUsed s) s).free + 1 } := by
  unfold rulingSelect
  rw [if_neg (by simp [hf, htx, hfat, ho, hst])]

end Sys2Proof.Machine
end

section
/-! PROOFS. Shapers and gate lists (O29). -/

namespace Sys2Proof.Machine

/-! ## Shapers (R229) -/

/-- A shaper's tokens after one refill: its rate in force added, up to its burst. -/
def refilled (s : State) (k : Nat) : Int :=
  let burst : Int := (fld s (Reg.RU_SH_BURST k) 23 0 * 256 : Nat)
  min burst (min burst (shTokens s k) + fld s (Reg.RU_SH_RATE k) 23 0)

/-- The shapers of `l` are refilled, with their rate and burst in force, and nothing else changes. -/
structure Refilled (l : List Nat) (s s' : State) : Prop where
  frame : s' = { s with tokens := s'.tokens, shapers := s'.shapers }
  tokens : ∀ k, shTokens s' k = if k ∈ l then refilled s k else shTokens s k
  force : ∀ k, shForce s' k = if k ∈ l then (fld s (Reg.RU_SH_RATE k) 23 0, fld s (Reg.RU_SH_BURST k) 23 0) else shForce s k

theorem refillOne_refills (s : State) (k : Nat) : Refilled [k] s (refillOne s k) := by
  refine ⟨rfl, fun j => ?_, fun j => ?_⟩
  · refine (shTokens_setTokens _ k j _).trans ?_
    split
    · next h => subst h; rw [if_pos (by simp)]; rfl
    · next h => rw [if_neg (by simpa using h)]; rfl
  · refine (Tbl.get_set _ s.shapers k j _).trans ?_
    split
    · next h => subst h; rw [if_pos (by simp)]
    · next h => rw [if_neg (by simpa using h)]; rfl

theorem refillAll_refills (l : List Nat) (hl : l.Nodup) (s : State) : Refilled l s (l.foldl refillOne s) := by
  induction l generalizing s with
  | nil => exact ⟨rfl, fun k => by simp, fun k => by simp⟩
  | cons k l ih =>
    obtain ⟨hk, hl⟩ := List.nodup_cons.mp hl
    have h1 := refillOne_refills s k
    have h2 := ih hl (refillOne s k)
    have regs : ∀ a hi lo, fld (refillOne s k) a hi lo = fld s a hi lo := fun a hi lo => by rw [h1.frame]; rfl
    rw [List.foldl_cons]
    refine ⟨by rw [h2.frame, h1.frame], fun j => ?_, fun j => ?_⟩
    · rw [h2.tokens, refilled, regs, regs, h1.tokens]
      by_cases hj : j = k
      · subst hj; simp [hk]
      · simp [hj, refilled]
    · rw [h2.force, regs, regs, h1.force]
      by_cases hj : j = k
      · subst hj; simp [hk]
      · simp [hj]

/-! ## Gate lists (R230, R231) -/

/-- A gate list is `b` in RU_GEN, and only a list enabled in a crossing in which a window of it begins may miss a window. -/
structure GateSet (s s' : State) (g : Nat) (b : Bool) : Prop where
  frame : s' = { s with regs := s'.regs, gateSkip := s'.gateSkip, free := s'.free }
  regs : RegsBut s s' [Reg.RU_GEN]
  gen : ∀ h, flag s' Reg.RU_GEN h = if h = g then b else flag s Reg.RU_GEN h
  skip : ∀ h, (h = g → b = false ∨ flag s Reg.RU_GEN g = true ∨ ∀ w < 64, winLen s g w = 0 ∨ winStart s g w ≠ s.phase.now.index) →
    Tbl.get (fun _ => none) s'.gateSkip h = Tbl.get (fun _ => none) s.gateSkip h

theorem flag_setFlag_gen (s : State) {g : Nat} (hg : g < 8) (b : Bool) (h : Nat) :
    flag (setFlag s Reg.RU_GEN g b) Reg.RU_GEN h = if h = g then b else flag s Reg.RU_GEN h := by
  unfold flag
  rw [reg_setFlag, if_pos rfl, bit_setBit]
  split
  · next e => rw [e, decide_eq_true (by omega), Bool.true_and]
  · rfl

/-- A list's windows are registers of the Ruling's window page, apart from RU_GEN. -/
theorem gateWin_ne (g w : Nat) : Reg.gateWin g w ∉ [Reg.RU_GEN] := by
  simp only [List.mem_singleton, Reg.gateWin, Reg.RU_GEN]; omega

theorem setFlag_gateSet (s : State) {g : Nat} (hg : g < 8) (b : Bool) : GateSet s (setFlag s Reg.RU_GEN g b) g b :=
  ⟨rfl, fun a ha => by rw [reg_setFlag, if_neg (by simpa using ha)], flag_setFlag_gen s hg b, fun _ _ => rfl⟩

theorem gateOn_gateSet (s : State) {g : Nat} (hg : g < 8) (hf : flag s Reg.RU_GEN g = false) : GateSet s (gateOn s g) g true := by
  obtain ⟨hframe, hregs, hgen, -⟩ := setFlag_gateSet s hg true
  have hwin : ∀ w hi lo, fld (setFlag s Reg.RU_GEN g true) (Reg.gateWin g w) hi lo = fld s (Reg.gateWin g w) hi lo :=
    fun w hi lo => by unfold fld; rw [hregs _ (gateWin_ne g w)]
  unfold gateOn
  dsimp only
  split
  · next hany =>
    obtain ⟨w, hw, hb⟩ := List.any_eq_true.mp hany
    simp only [winLen, winStart, hwin, Bool.and_eq_true, decide_eq_true_eq] at hb
    refine ⟨rfl, hregs, hgen, fun h hh => Tbl.get_set_other _ _ _ fun e => ?_⟩
    rcases hh e with h1 | h1 | h1
    · exact absurd h1 (by decide)
    · rw [hf] at h1; exact absurd h1 (by decide)
    · rcases h1 w (List.mem_range.mp hw) with h1 | h1
      · exact hb.1 h1
      · exact h1 hb.2
  · exact ⟨rfl, hregs, hgen, fun _ _ => rfl⟩

/-- List `g` is refused as `v` asks for it: it was not enabled, and its windows do not pass the check. -/
abbrev GateRefused (v : BitVec 8) (s : State) (g : Nat) : Prop :=
  bit v g = true ∧ flag s Reg.RU_GEN g = false ∧ gateListOk s g = false

theorem gateEnable_sets {v : BitVec 8} {s : State} {g : Nat} (hg : g < 8) (h : ¬ GateRefused v s g) :
    GateSet s (gateEnable v s g) g (bit v g) := by
  unfold gateEnable
  cases hb : bit v g with
  | false => exact setFlag_gateSet s hg false
  | true =>
    rw [if_neg (by decide)]
    cases hf : flag s Reg.RU_GEN g with
    | true =>
      rw [if_pos rfl]
      refine ⟨rfl, fun _ _ => rfl, fun j => ?_, fun _ _ => rfl⟩
      split
      · next e => rw [e, hf]
      · rfl
    | false =>
      have hok : gateListOk s g = true := by simpa [GateRefused, hb, hf] using h
      rw [if_neg (by decide), if_pos hok]
      exact gateOn_gateSet s hg hf

theorem gateEnable_refuses {v : BitVec 8} {s : State} {g : Nat} (h : GateRefused v s g) :
    gateEnable v s g = refuseWrite s Reg.rulingPage 0x03 Reg.RU_GEN := by
  obtain ⟨hb, hf, hok⟩ := h
  unfold gateEnable
  simp [hb, hf, hok]

/-- A list's windows and the orbit's length are what its check reads. -/
theorem gateListOk_congr {s s' : State} {g : Nat} (hp : s'.phase = s.phase)
    (h : ∀ w < 64, reg s' (Reg.gateWin g w) = reg s (Reg.gateWin g w)) : gateListOk s' g = gateListOk s g := by
  have hw : (List.range 64).map (fun w => (winStart s' g w, winLen s' g w))
      = (List.range 64).map (fun w => (winStart s g w, winLen s g w)) := List.map_congr_left fun w hw => by
    unfold winStart winLen fld
    rw [h w (List.mem_range.mp hw)]
  unfold gateListOk orbitLen
  rw [hw, hp]

/-- What GATE_LIST_ENABLE leaves when no list is refused: RU_GEN takes its bits, and only a list enabled in a crossing in
which a window of it begins may miss a window. -/
structure GatesClean (v : BitVec 8) (s s' : State) : Prop where
  frame : s' = { s with regs := s'.regs, gateSkip := s'.gateSkip, free := s'.free }
  regs : RegsBut s s' [Reg.RU_GEN]
  skip : ∀ g, (bit v g = false ∨ flag s Reg.RU_GEN g = true ∨ ∀ w < 64, winLen s g w = 0 ∨ winStart s g w ≠ s.phase.now.index) →
    Tbl.get (fun _ => none) s'.gateSkip g = Tbl.get (fun _ => none) s.gateSkip g

/-- The lists below `i` are done: RU_GEN has their bits, a refused one is recorded, and the lists from `i` up are as before. -/
structure GatesDone (v : BitVec 8) (i : Nat) (s s' : State) : Prop where
  gen : ∀ g, flag s' Reg.RU_GEN g = if g < i then bit v g && (flag s Reg.RU_GEN g || gateListOk s g) else flag s Reg.RU_GEN g
  wins : ∀ g, i ≤ g → g < 8 → ∀ w < 64, reg s' (Reg.gateWin g w) = reg s (Reg.gateWin g w)
  phase : s'.phase = s.phase
  clean : (∀ g < i, ¬ GateRefused v s g) → GatesClean v s s'
  sticky : (∃ g < i, GateRefused v s g) → flag s' (Reg.PG_ERR_STICKY Reg.rulingPage) 3 = true

theorem GatesDone.zero (v : BitVec 8) (s : State) : GatesDone v 0 s s :=
  ⟨fun _ => rfl, fun _ _ _ _ _ => rfl, rfl, fun _ => ⟨rfl, fun _ _ => rfl, fun _ _ => rfl⟩, fun ⟨_, h, _⟩ => absurd h (Nat.not_lt_zero _)⟩

/-- A list not done yet is refused where it was refused at the start. -/
theorem GatesDone.refused {v : BitVec 8} {i : Nat} {s s' : State} (h : GatesDone v i s s') (hi : i < 8) :
    GateRefused v s' i ↔ GateRefused v s i := by
  unfold GateRefused
  rw [h.gen, if_neg (Nat.lt_irrefl i), gateListOk_congr h.phase (h.wins i (Nat.le_refl i) hi)]

/-- A list that may stand as written does. -/
theorem GatesDone.sets {v : BitVec 8} {i : Nat} {s s' : State} (h : GatesDone v i s s') (hi : i < 8) (hr : ¬ GateRefused v s i) :
    GatesDone v (i + 1) s (gateEnable v s' i) := by
  obtain ⟨hframe, hregs, hgen, hskip⟩ := gateEnable_sets hi ((h.refused hi).not.mpr hr)
  refine ⟨fun g => ?_, fun g hg hg8 w hw => ?_, ?_, fun hc => ?_, fun ⟨g, hg, hgr⟩ => ?_⟩
  · have own : bit v i = (bit v i && (flag s Reg.RU_GEN i || gateListOk s i)) := by
      cases hb : bit v i with
      | false => rfl
      | true =>
        cases hf : flag s Reg.RU_GEN i with
        | true => rfl
        | false =>
          have hok : gateListOk s i = true := by simpa [GateRefused, hb, hf] using hr
          rw [hok]; rfl
    rw [hgen, h.gen]
    by_cases e : g = i
    · subst e; rw [if_pos rfl, if_pos (by omega)]; exact own
    · rw [if_neg e]
      simp only [show g < i + 1 ↔ g < i by omega]
  · rw [hregs _ (gateWin_ne g w)]
    exact h.wins g (by omega) hg8 w hw
  · rw [hframe]; exact h.phase
  · obtain ⟨cframe, cregs, cskip⟩ := h.clean fun g hg => hc g (by omega)
    refine ⟨by rw [hframe, cframe], fun a ha => (hregs a ha).trans (cregs a ha), fun g hg => ?_⟩
    rw [hskip g, cskip g hg]
    rintro rfl
    have hwin : ∀ w hi lo, fld s' (Reg.gateWin g w) hi lo = fld s (Reg.gateWin g w) hi lo :=
      fun w hi lo => by unfold fld; rw [cregs _ (gateWin_ne g w)]
    simp only [winLen, winStart, hwin, h.gen, if_neg (Nat.lt_irrefl g), h.phase]
    exact hg
  · have hlt : g < i := Nat.lt_of_le_of_ne (by omega) (fun e => hr (e ▸ hgr))
    unfold flag
    rw [hregs _ (by decide)]
    exact h.sticky ⟨g, hlt, hgr⟩

/-- A list that is refused keeps its bit clear and is recorded. -/
theorem GatesDone.refuses {v : BitVec 8} {i : Nat} {s s' : State} (h : GatesDone v i s s') (hi : i < 8) (hr : GateRefused v s i) :
    GatesDone v (i + 1) s (gateEnable v s' i) := by
  rw [gateEnable_refuses ((h.refused hi).mpr hr)]
  obtain ⟨⟨hframe, hregs, -⟩, hsticky⟩ := noted_refuseWrite s' Reg.rulingPage 3 Reg.RU_GEN [] (by decide) (by decide) (by decide)
  have hgen : ∀ g, flag (refuseWrite s' Reg.rulingPage 3 Reg.RU_GEN) Reg.RU_GEN g = flag s' Reg.RU_GEN g := fun g => by
    unfold flag; rw [hregs _ (by simp) (by decide) (by decide)]
  refine ⟨fun g => ?_, fun g hg hg8 w hw => ?_, by rw [hframe]; exact h.phase, fun hc => absurd hr (hc i (by omega)), fun _ => hsticky⟩
  · rw [hgen, h.gen]
    by_cases e : g = i
    · subst e
      rw [if_neg (Nat.lt_irrefl g), if_pos (by omega), hr.2.1, hr.2.2]
      simp
    · simp only [show g < i + 1 ↔ g < i by omega]
  · have hbase : Reg.blotterPage / 0x1000 = 3 := by decide
    rw [hregs _ (by simp) (by simp only [Reg.gateWin]; omega) (by simp only [Reg.gateWin, hbase]; omega)]
    exact h.wins g (by omega) hg8 w hw

theorem gatesDone (v : BitVec 8) (s : State) : ∀ i ≤ 8, GatesDone v i s ((List.range i).foldl (gateEnable v) s) := fun i => by
  induction i with
  | zero => exact fun _ => GatesDone.zero v s
  | succ i ih =>
    intro hi
    have h := ih (by omega)
    rw [List.range_succ, List.foldl_append]
    by_cases hr : GateRefused v s i
    · exact h.refuses (by omega) hr
    · exact h.sets (by omega) hr

end Sys2Proof.Machine
end

section
/-! PROOFS. The Ruling sends, refills and gates (O29). -/

namespace Sys2Proof.Machine

/-- With an eligible head, and no eligible head with CHKERR or expired, the foremost queue's head is on the lane. -/
theorem rulingSelect_sends {s : State} {n : Nat} (hf : frameLane s n = true) (htx : (lane s n).tx = none) (hfat : fatal s = false)
    (ho : txOpen s n = true) (hst : starts s Reg.rulingPage = true) (he : ∃ q < 256, eligible s n q = true)
    (hgood : ∀ q < 256, eligible s n q = true → ∀ f, (queue s q).head? = some f →
      bit f.w0 5 = false ∧ (fdXing s f).any (retentionOver s) = false) :
    ∃ q f rest, Foremost s n q ∧ queue s q = f :: rest ∧ HeadSent n q f rest s (rulingSelect n s) := by
  obtain ⟨q, hsel, hfore⟩ := selectQueue_some he
  have ⟨hq, heq, _⟩ := hfore
  obtain ⟨f, rest, hqueue⟩ := eligible_head heq
  obtain ⟨h5, hx⟩ := hgood q hq heq f (by rw [hqueue]; rfl)
  obtain ⟨t, htake, hsent⟩ := takeHead_headSent n q rest h5 hx
  refine ⟨q, f, rest, hfore, hqueue, ?_⟩
  rw [rulingSelect_runs hf htx hfat ho hst, selectLoop_sends hsel hqueue htake]
  exact ⟨hsent.queues, hsent.regs, hsent.tx, hsent.others, hsent.tokens⟩

/-- Settles O29: selection goes through the eligible queues as listed, the end of a frame through what leaves the lanes' state
and registers alone, and the gate lists one list after another. -/
theorem egressScheduling : Obligations.EgressScheduling := by
  unfold Obligations.EgressScheduling
  refine ⟨fun n s hf htx hfat ho hst => ⟨?select, ?nothing⟩, ?idle, fun n s f htx hl => ?frameEnd, ?refill, ?gates⟩
  case select =>
    intro he hgood
    obtain ⟨q, f, rest, ⟨hq, heq, hmin⟩, hqueue, hs⟩ := rulingSelect_sends hf htx hfat ho hst he hgood
    have hreg : ∀ a, reg (rulingSelect n s) a = reg (count s (Reg.TX_FRAMES n)) a := fun a => by unfold reg; rw [hs.regs]
    refine ⟨rulingSelect n s, rfl, q, f, rest, hq, heq, hqueue, hmin, ?_, hs.tx, hs.others, ?_, fun a ha => ?_, fun k hk => ?_,
      fun k hk => ?_⟩
    · rw [hs.queues]
      exact ⟨Tbl.get_set_same _ _ _ _, fun j hj => Tbl.get_set_other _ _ _ hj⟩
    · rw [hreg, reg_count_same]
    · rw [hreg, reg_count_other _ (by simpa using ha)]
    · rw [hs.tokens, if_pos hk]
    · rw [hs.tokens, if_neg hk]
  case nothing =>
    intro hno
    have e := rulingSelect_runs hf htx hfat ho hst
    rw [selectLoop_none (selectQueue_none hno)] at e
    exact congrArg Host.Outcome.next e
  case idle => exact fun n s h => congrArg Host.Outcome.next (rulingSelect_idle h)
  case frameEnd =>
    have hs := egressFrameEnd_sends n.isLt htx hl
    have hmem : ∀ b, sendStomp s f = b → sentOut s n f (sendRead s f).2.1 b ∈ (egressFrameEnd n s).out := fun b hb => hb ▸ hs.out
    have hcount : sendStomp s f = true → reg (egressFrameEnd n s) (Reg.STOMPED n) = reg s (Reg.STOMPED n) + 1 := fun hb => by
      rw [hs.stomped, hb]; rfl
    refine ⟨fun hk hwords hu => ⟨?data, fun hc hst h5 => ?good⟩, fun h => ?stomped, fun h => ?broken⟩
    case data =>
      obtain ⟨p, e⟩ := engineRead_scroll 0x85 hk hwords hu
      rw [e]
    case good =>
      have hb : sendStomp s f = false := by
        unfold sendStomp
        rw [hst, h5, sendBroken_scroll hk hwords hu hc]
        rfl
      refine ⟨_, rfl, ⟨hs.free, hmem false hb⟩, ?_, fun _ => hs.others⟩
      rw [hs.stomped, hb]
      exact BitVec.add_zero _
    case stomped =>
      have hb : sendStomp s f = true := by
        unfold sendStomp
        rcases h with h | h <;> simp [h]
      exact ⟨_, rfl, ⟨hs.free, hmem true hb⟩, hcount hb⟩
    case broken =>
      have hbroken : sendBroken s f = true := by
        unfold sendBroken
        rcases h with h | h <;> simp [h]
      have hb : sendStomp s f = true := by
        unfold sendStomp
        simp [hbroken]
      exact ⟨_, rfl, ⟨hs.free, hmem true hb⟩, hcount hb, hs.sticky hbroken⟩
  case refill =>
    intro s hst
    obtain ⟨hframe, htok, hforce⟩ := refillAll_refills (List.range 32) List.nodup_range s
    have e : shaperRefill s = (List.range 32).foldl refillOne s := if_pos hst
    refine ⟨_, congrArg Host.Outcome.next e, hframe, fun k hk => ?_⟩
    have hm : k ∈ List.range 32 := List.mem_range.mpr hk
    exact ⟨(htok k).trans (if_pos hm), (hforce k).trans (if_pos hm)⟩
  case gates =>
    intro v s
    have h := gatesDone v s 8 (Nat.le_refl 8)
    refine ⟨_, rfl, fun g hg => (h.gen g).trans (if_pos hg), fun hc => ?_, fun hr => h.sticky hr⟩
    have hno : ∀ g < 8, ¬ GateRefused v s g := fun g hg ⟨hb, hf, hok⟩ => by
      rcases hc g hg hb with h1 | h1
      · rw [hf] at h1; exact Bool.false_ne_true h1
      · rw [hok] at h1; exact Bool.false_ne_true h1
    obtain ⟨hframe, hregs, hskip⟩ := h.clean hno
    exact ⟨hframe, hregs, hskip⟩

end Sys2Proof.Machine
end

section
/-! PROOFS. A lane in no bonded pair: what stores leave to read of its registers, its locks, and its return to UP (O30). -/

namespace Sys2Proof.Machine

/-! ## Bits of a stored register -/

theorem flag_setFld (s : State) (a i v : Nat) {hi lo : Nat} (h : lo ≤ hi) :
    flag (setFld s a hi lo v) a i = if lo ≤ i ∧ i ≤ hi then decide (i < 32) && v.testBit (i - lo) else flag s a i := by
  unfold flag
  rw [reg_setFld, if_pos rfl, bit_setBits _ _ _ _ _ h]

theorem flag_setFlag (s : State) (a i j : Nat) (b : Bool) :
    flag (setFlag s a i b) a j = if j = i then decide (j < 32) && b else flag s a j := by
  unfold flag
  rw [reg_setFlag, if_pos rfl, bit_setBit]

theorem flag_congr {s t : State} {a : Nat} (h : reg t a = reg s a) (i : Nat) : flag t a i = flag s a i := by
  unfold flag; rw [h]

theorem flag_irq (s : State) (page : Nat) {i : Nat} (h : i < 32) : flag (irq s page i) (Reg.PG_IRQ_RAW page) i = true := by
  unfold flag
  rw [reg_irq, if_pos rfl, bit_setBit, if_pos rfl]
  simp [h]

/-! ## The lane's own registers (R54, R69, R395) -/

theorem lanePage_based (n : Nat) : Based (Reg.lanePage n) := by simp only [Based, Reg.lanePage]; omega

/-- No register of a lane's page is the register that shows its link UP. -/
theorem lanePage_ne_upReg (n o : Nat) : Reg.lanePage n + o ≠ Reg.SG_LANE_UP (n / 32) := by
  simp only [Reg.lanePage, Reg.SG_LANE_UP, Reg.sgroupPage]; omega

theorem headerPage_lanePage {n : Nat} (hn : n < 128) : headerPage (Reg.lanePage n) = Reg.lanePage n := by
  unfold headerPage
  rw [pageAt_lanePage hn]

variable {s t : State} {n : Nat}

theorem linkOf_own (h4 : laneMode s n ≠ 4) : linkOf s n = n := if_neg (fun h => h4 h.2)

theorem linkLanes_own (h3 : laneMode s n ≠ 3) : linkLanes s n = [n] := if_neg (fun h => h3 h.1)

theorem laneMode_congr (h : reg t (Reg.LANE_CTL n) = reg s (Reg.LANE_CTL n)) : laneMode t n = laneMode s n := by
  unfold laneMode fld; rw [h]

/-- The state of a lane in no bonded pair stands in its own LANE_STAT. -/
theorem laneState_own (h4 : laneMode s n ≠ 4) (hc : reg t (Reg.LANE_CTL n) = reg s (Reg.LANE_CTL n)) :
    laneState t n = bits (reg t (Reg.LANE_STAT n)) 1 0 := by
  rw [← laneMode_congr hc] at h4
  unfold laneState fld
  rw [linkOf_own h4]

theorem stat_ne_upReg (n : Nat) : Reg.LANE_STAT n ≠ Reg.SG_LANE_UP (n / 32) := lanePage_ne_upReg n 0x104

theorem ctl_ne_upReg (n : Nat) : Reg.LANE_CTL n ≠ Reg.SG_LANE_UP (n / 32) := lanePage_ne_upReg n 0x100

theorem ctl_ne_stat (n : Nat) : Reg.LANE_CTL n ≠ Reg.LANE_STAT n := by simp [Reg.LANE_CTL, Reg.LANE_STAT]

/-- A store into another field of LANE_STAT keeps the state. -/
theorem laneState_setStat (h4 : laneMode s n ≠ 4) {hi lo : Nat} (v : Nat) (h : lo ≤ hi) (hl : 2 ≤ lo) :
    laneState (setFld s (Reg.LANE_STAT n) hi lo v) n = laneState s n := by
  rw [laneState_own h4 (by rw [reg_setFld, if_neg (ctl_ne_stat n)]), laneState_own h4 rfl, reg_setFld, if_pos rfl,
    bits_setBits_other _ _ _ _ _ _ h (.inl (by omega))]

/-- The word of register `a` once the state of lane `n` is `x`. -/
def stateWord (n x a : Nat) (w : Word) : Word :=
  if a = Reg.SG_LANE_UP (n / 32) then setBit w (n % 32) (x = 2) else if a = Reg.LANE_STAT n then setBits w 1 0 x else w

@[simp] theorem stateWord_upReg (n x : Nat) (w : Word) :
    stateWord n x (Reg.SG_LANE_UP (n / 32)) w = setBit w (n % 32) (x = 2) := if_pos rfl

@[simp] theorem stateWord_stat (n x : Nat) (w : Word) : stateWord n x (Reg.LANE_STAT n) w = setBits w 1 0 x :=
  (if_neg (stat_ne_upReg n)).trans (if_pos rfl)

theorem stateWord_other {n x a : Nat} (w : Word) (hu : a ≠ Reg.SG_LANE_UP (n / 32)) (hs : a ≠ Reg.LANE_STAT n) :
    stateWord n x a w = w := (if_neg hu).trans (if_neg hs)

theorem reg_setLaneState (h3 : laneMode s n ≠ 3) (x a : Nat) : reg (setLaneState s n x) a = stateWord n x a (reg s a) := by
  unfold setLaneState
  rw [linkLanes_own h3, List.foldl_cons, List.foldl_nil, reg_setFlag, reg_setFld, reg_setFld, if_neg (stat_ne_upReg n).symm]
  by_cases hu : a = Reg.SG_LANE_UP (n / 32)
  · rw [if_pos hu, hu, stateWord_upReg]
  · rw [if_neg hu]
    by_cases hs : a = Reg.LANE_STAT n
    · rw [if_pos hs, hs, stateWord_stat]
    · rw [if_neg hs, stateWord_other _ hu hs]

theorem setLaneState_onlyRegs (h3 : laneMode s n ≠ 3) (x : Nat) :
    OnlyRegs s (setLaneState s n x) [Reg.LANE_STAT n, Reg.SG_LANE_UP (n / 32)] := by
  unfold setLaneState
  rw [linkLanes_own h3, List.foldl_cons, List.foldl_nil]
  exact (OnlyRegs.setReg s _ (by simp)).trans (OnlyRegs.setReg _ _ (by simp))

theorem lane_setLaneState (h3 : laneMode s n ≠ 3) (x m : Nat) : lane (setLaneState s n x) m = lane s m := by
  rw [(setLaneState_onlyRegs h3 x).1]
  rfl

/-! ## Changes of lanes, registers and what leaves the device -/

/-- Lanes, registers and what leaves the device may differ, nothing else. -/
abbrev LanesOnly (s t : State) : Prop := t = { s with regs := t.regs, lanes := t.lanes, out := t.out }

theorem LanesOnly.refl (s : State) : LanesOnly s s := rfl

theorem LanesOnly.trans {u : State} (h : LanesOnly s t) (h' : LanesOnly t u) : LanesOnly s u := by
  unfold LanesOnly at *
  rw [h', h]

theorem LanesOnly.of_onlyRegs {l : List Nat} (h : OnlyRegs s t l) : LanesOnly s t := by
  unfold LanesOnly
  rw [h.1]

theorem LanesOnly.setReg (s : State) (a : Nat) (v : Word) : LanesOnly s (Machine.setReg s a v) := rfl

theorem LanesOnly.modLane (s : State) (n : Nat) (f : Lane → Lane) : LanesOnly s (Machine.modLane s n f) := rfl

theorem lane_irq (s : State) (page i m : Nat) : lane (irq s page i) m = lane s m := rfl

theorem LanesOnly.irq (s : State) (page i : Nat) : LanesOnly s (Machine.irq s page i) := rfl

/-! ## Block lock (R60) -/

theorem all_validSync (l : List (BitVec 2)) : l.all validSync = true ↔ ∀ h ∈ l, h = 1 ∨ h = 2 := by
  simp [validSync]

theorem validSync_false (h : BitVec 2) : validSync h = false ↔ h = 0 ∨ h = 3 := by
  revert h; decide

theorem blockLockAcquired_locks {headers : List (BitVec 2)} (hs : laneState s n = 1 ∨ laneState s n = 3)
    (hl : 64 ≤ headers.length) (hv : ∀ h ∈ last64 headers, h = 1 ∨ h = 2) :
    blockLockAcquired n headers s = setFld s (Reg.LANE_STAT n) 5 4 3 := if_pos ⟨hs, hl, (all_validSync _).mpr hv⟩

theorem blockLockAcquired_waits {headers : List (BitVec 2)}
    (h : headers.length < 64 ∨ ∃ h ∈ last64 headers, h = 0 ∨ h = 3) :
    blockLockAcquired n headers s = s := by
  refine if_neg (fun ⟨_, hl, hv⟩ => ?_)
  rcases h with h | ⟨x, hx, hbad⟩
  · omega
  · have hg := List.all_eq_true.mp hv x hx
    rw [(validSync_false x).mpr hbad] at hg
    exact Bool.false_ne_true hg

theorem blockLockLost_headers {headers : List (BitVec 2)} (hs : laneState s n = 1 ∨ laneState s n = 3)
    (h : 16 ≤ (last64 headers).countP (fun h => h = 0 || h = 3)) :
    blockLockLost n headers false s = setFld s (Reg.LANE_STAT n) 6 5 0 := by
  have he : (fun h : BitVec 2 => !validSync h) = fun h => h = 0 || h = 3 := by
    funext x; revert x; decide
  rw [List.countP_eq_length_filter, ← he] at h
  unfold blockLockLost
  rw [if_neg (not_not_intro hs), if_neg Bool.false_ne_true, if_pos h]

theorem blockLockLost_signal (headers : List (BitVec 2)) (hs : laneState s n = 1 ∨ laneState s n = 3) :
    blockLockLost n headers true s = setFld s (Reg.LANE_STAT n) 6 4 0 := by
  unfold blockLockLost
  rw [if_neg (not_not_intro hs), if_pos rfl]

/-! ## The return to UP (R69, R72) -/

/-- The lane after its locks have been held: UP with its lock bits, its crossings no longer marked, interrupt 1. -/
def linkUp (n : Nat) (s : State) : State :=
  irq (modLane (setFlag (setLaneState s n 2) (Reg.LANE_STAT n) 6 (usesFec s n)) n (fun l => { l with qsDown := false }))
    (Reg.lanePage n) 1

theorem laneUp_rises {align : Option Nat} (h3 : laneMode s n ≠ 3) (h4 : laneMode s n ≠ 4)
    (hs : laneState s n = 1 ∨ laneState s n = 3) (hon : laneOn s n = true) (hlock : flag s (Reg.LANE_STAT n) 5 = true)
    (hfec : usesFec s n = true → align ≠ none) : laneUp n align s = linkUp n s := by
  have hl : (linkLanes s n).all (fun k => flag s (Reg.LANE_STAT k) 5) = true := by simp [linkLanes_own h3, hlock]
  unfold laneUp
  rw [if_pos ⟨linkOf_own h4, hon, hs, fun h => absurd h h3, hl, fun h => Option.isSome_iff_ne_none.mpr (hfec h)⟩,
    if_neg (fun h => h3 h.1), linkLanes_own h3]
  rfl

theorem laneUp_waits {align : Option Nat} (h3 : laneMode s n ≠ 3)
    (h : laneOn s n = false ∨ flag s (Reg.LANE_STAT n) 5 = false ∨ (usesFec s n = true ∧ align = none)) :
    laneUp n align s = s := by
  refine if_neg (fun ⟨_, hon, _, _, hl, hf⟩ => ?_)
  rcases h with h | h | ⟨hu, rfl⟩
  · exact Bool.false_ne_true (h.symm.trans hon)
  · simp [linkLanes_own h3, h] at hl
  · exact Bool.false_ne_true (hf hu)

theorem linkUp_lanesOnly (h3 : laneMode s n ≠ 3) : LanesOnly s (linkUp n s) :=
  (((LanesOnly.of_onlyRegs (setLaneState_onlyRegs h3 2)).trans (LanesOnly.setReg _ _ _)).trans (LanesOnly.modLane _ _ _)).trans
    (LanesOnly.irq _ _ _)

theorem reg_linkUp (s : State) {n a : Nat} (ha : a ≠ Reg.PG_IRQ_RAW (Reg.lanePage n)) : reg (linkUp n s) a
    = if a = Reg.LANE_STAT n then setBit (reg (setLaneState s n 2) (Reg.LANE_STAT n)) 6 (usesFec s n)
      else reg (setLaneState s n 2) a := by
  unfold linkUp
  rw [reg_irq, if_neg ha, reg_modLane, reg_setFlag]

theorem linkUp_regsBut (h3 : laneMode s n ≠ 3) :
    RegsBut s (linkUp n s) [Reg.LANE_STAT n, Reg.SG_LANE_UP (n / 32), Reg.PG_IRQ_RAW (Reg.lanePage n)] := fun a ha => by
  simp only [List.mem_cons, List.not_mem_nil, or_false, not_or] at ha
  obtain ⟨h1, h2, hi⟩ := ha
  rw [reg_linkUp s hi, if_neg h1, (setLaneState_onlyRegs h3 2).2 a (by simp [h1, h2])]

theorem linkUp_lanes (h3 : laneMode s n ≠ 3) :
    TblAt (fun _ => {}) s.lanes (linkUp n s).lanes n { lane s n with qsDown := false } := by
  have e : ∀ m, lane (linkUp n s) m = if m = n then { lane s n with qsDown := false } else lane s m := fun m => by
    unfold linkUp
    rw [lane_irq, lane_modLane, lane_setFlag, lane_setFlag, lane_setLaneState h3, lane_setLaneState h3]
  exact ⟨(e n).trans (if_pos rfl), fun m hm => (e m).trans (if_neg hm)⟩

theorem linkUp_shows (h3 : laneMode s n ≠ 3) (h4 : laneMode s n ≠ 4) :
    laneState (linkUp n s) n = 2 ∧ flag (linkUp n s) (Reg.SG_LANE_UP (n / 32)) (n % 32) = true
    ∧ flag (linkUp n s) (Reg.PG_IRQ_RAW (Reg.lanePage n)) 1 = true := by
  refine ⟨?_, ?_, flag_irq _ _ (by decide)⟩
  · have hc : reg (linkUp n s) (Reg.LANE_CTL n) = reg s (Reg.LANE_CTL n) := by
      rw [reg_linkUp s (by simp [Reg.LANE_CTL, Reg.PG_IRQ_RAW]), if_neg (ctl_ne_stat n), reg_setLaneState h3,
        stateWord_other _ (ctl_ne_upReg n) (ctl_ne_stat n)]
    rw [laneState_own h4 hc, reg_linkUp s (by simp [Reg.LANE_STAT, Reg.PG_IRQ_RAW]), if_pos rfl, reg_setLaneState h3,
      stateWord_stat, bits_setBit_other _ _ _ _ _ (by omega), bits_setBits _ _ _ _ (by omega) (by omega)]
    rfl
  · unfold flag
    rw [reg_linkUp s (lanePage_ne_upReg n 0x14).symm, if_neg (stat_ne_upReg n).symm, reg_setLaneState h3,
      stateWord_upReg, bit_setBit, if_pos rfl]
    simp; omega

end Sys2Proof.Machine
end

section
/-! PROOFS. A lane in no bonded pair leaves UP: the frames it carries, what is counted and shown, and what its loss reports
(O30). -/

namespace Sys2Proof.Machine

variable {s : State} {n : Nat}

/-! ## The frames that a link leaves (R60, R70, R72) -/

/-- The frame received is dropped, the frame sent is stomped, and nothing else but two counters changes. -/
structure FramesLeft (n : Nat) (s t : State) : Prop where
  frame : LanesOnly s t
  others : ∀ m, m ≠ n → lane t m = lane s m
  rx : (lane t n).rx = none
  tx : ∀ f, (lane s n).tx = some f → (lane t n).tx = some { f with stomp := true }
  drop : (lane s n).rx ≠ none ∨ (lane s n).held ≠ [] → reg t (Reg.DROP_LINK_CHECK n) = reg s (Reg.DROP_LINK_CHECK n) + 1
  regs : RegsBut s t [Reg.RX_FRAMES n, Reg.DROP_LINK_CHECK n]

theorem cutRx_idle (hr : (lane s n).rx = none) (hh : (lane s n).held = []) : cutRx s n = s := by
  unfold cutRx
  simp only [hr, hh, if_true]

theorem cutRx_cuts (h : (lane s n).rx ≠ none ∨ (lane s n).held ≠ []) :
    ∃ g : Lane → Lane, cutRx s n = modLane (count (count s (Reg.RX_FRAMES n)) (Reg.DROP_LINK_CHECK n)) n g
      ∧ (g (lane s n)).rx = none ∧ (g (lane s n)).tx = (lane s n).tx := by
  unfold cutRx
  cases hr : (lane s n).rx with
  | none =>
    have hh : (lane s n).held ≠ [] := h.resolve_left (fun h => h hr)
    exact ⟨_, if_neg hh, hr, rfl⟩
  | some f => exact ⟨_, rfl, rfl, rfl⟩

theorem leaveFrames_leaves (s : State) (n : Nat) : FramesLeft n s (leaveFrames s n) := by
  have stomp : ∀ (l : Lane) f, l.tx = some f → l.tx.map (fun f => { f with stomp := true }) = some { f with stomp := true } :=
    fun l f hf => by rw [hf]; rfl
  by_cases h : (lane s n).rx ≠ none ∨ (lane s n).held ≠ []
  · obtain ⟨g, e, hr, ht⟩ := cutRx_cuts h
    have hl : ∀ m, lane (leaveFrames s n) m = if m = n
        then { g (lane s n) with tx := (g (lane s n)).tx.map (fun f => { f with stomp := true }) } else lane s m := fun m => by
      unfold leaveFrames
      rw [e, lane_modLane, lane_modLane, lane_modLane, if_pos rfl]
      split <;> rfl
    have hregs : ∀ a, reg (leaveFrames s n) a = reg (count (count s (Reg.RX_FRAMES n)) (Reg.DROP_LINK_CHECK n)) a := fun a => by
      unfold leaveFrames
      rw [e, reg_modLane, reg_modLane]
    have hframe : LanesOnly s (leaveFrames s n) := by
      unfold leaveFrames
      rw [e]
      exact (((LanesOnly.setReg s _ _).trans (LanesOnly.setReg _ _ _)).trans (LanesOnly.modLane _ _ _)).trans
        (LanesOnly.modLane _ _ _)
    refine ⟨hframe, fun m hm => by rw [hl, if_neg hm], by rw [hl, if_pos rfl]; exact hr,
      fun f hf => ?_, fun _ => ?_, fun a ha => ?_⟩
    · rw [hl, if_pos rfl, ht]
      exact stomp _ f hf
    · rw [hregs, reg_count_same, reg_count_other _ (by simp [Reg.DROP_LINK_CHECK, Reg.RX_FRAMES])]
    · simp only [List.mem_cons, List.not_mem_nil, or_false, not_or] at ha
      rw [hregs, reg_count_other _ ha.2, reg_count_other _ ha.1]
  · obtain ⟨hr, hh⟩ := not_or.mp h
    have e : leaveFrames s n = modLane s n (fun l => { l with tx := l.tx.map (fun f => { f with stomp := true }) }) := by
      unfold leaveFrames
      rw [cutRx_idle (not_not.mp hr) (not_not.mp hh)]
    rw [e]
    refine ⟨LanesOnly.modLane _ _ _, fun m hm => by rw [lane_modLane, if_neg hm], ?_, fun f hf => ?_,
      fun h' => absurd h' h, fun a _ => rfl⟩
    · rw [lane_modLane, if_pos rfl]; exact not_not.mp hr
    · rw [lane_modLane, if_pos rfl]; exact stomp _ f hf

/-! ## What leaving UP counts and shows (R70, R72) -/

/-- The word of register `a` once lane `n` has left UP: interrupt 0, and DOWN_EVENTS. -/
def leaveWord (n a : Nat) (w : Word) : Word :=
  if a = Reg.PG_IRQ_RAW (Reg.lanePage n) then setBit w 0 true else if a = Reg.DOWN_EVENTS n then w + 1 else w

@[simp] theorem leaveWord_irqRaw (n : Nat) (w : Word) : leaveWord n (Reg.PG_IRQ_RAW (Reg.lanePage n)) w = setBit w 0 true :=
  if_pos rfl

@[simp] theorem leaveWord_downs (n : Nat) (w : Word) : leaveWord n (Reg.DOWN_EVENTS n) w = w + 1 :=
  (if_neg (by simp [Reg.DOWN_EVENTS, Reg.PG_IRQ_RAW])).trans (if_pos rfl)

theorem leaveWord_other {n a : Nat} (w : Word) (hi : a ≠ Reg.PG_IRQ_RAW (Reg.lanePage n)) (hd : a ≠ Reg.DOWN_EVENTS n) :
    leaveWord n a w = w := (if_neg hi).trans (if_neg hd)

theorem leaveWord_upReg (n : Nat) (w : Word) : leaveWord n (Reg.SG_LANE_UP (n / 32)) w = w :=
  leaveWord_other w (lanePage_ne_upReg n _).symm (lanePage_ne_upReg n _).symm

theorem leaveWord_stat (n : Nat) (w : Word) : leaveWord n (Reg.LANE_STAT n) w = w :=
  leaveWord_other w (by simp [Reg.LANE_STAT, Reg.PG_IRQ_RAW]) (by simp [Reg.LANE_STAT, Reg.DOWN_EVENTS])

theorem leaveWord_drop (n : Nat) (w : Word) : leaveWord n (Reg.DROP_LINK_CHECK n) w = w :=
  leaveWord_other w (by simp [Reg.DROP_LINK_CHECK, Reg.PG_IRQ_RAW]) (by simp [Reg.DROP_LINK_CHECK, Reg.DOWN_EVENTS])

theorem stateWord_drop (n x : Nat) (w : Word) : stateWord n x (Reg.DROP_LINK_CHECK n) w = w :=
  stateWord_other w (lanePage_ne_upReg n 0x134) (by simp [Reg.DROP_LINK_CHECK, Reg.LANE_STAT])

theorem stateWord_irqRaw (n x : Nat) (w : Word) :
    stateWord n x (Reg.PG_IRQ_RAW (Reg.lanePage n)) w = w :=
  stateWord_other w (lanePage_ne_upReg n 0x14) (by simp [Reg.PG_IRQ_RAW, Reg.LANE_STAT])

theorem stateWord_downs (n x : Nat) (w : Word) : stateWord n x (Reg.DOWN_EVENTS n) w = w :=
  stateWord_other w (lanePage_ne_upReg n 0x160) (by simp [Reg.DOWN_EVENTS, Reg.LANE_STAT])

theorem reg_leaveUp (s : State) (n a : Nat) : reg (leaveUp s n) a = leaveWord n a (reg s a) := by
  unfold leaveUp
  rw [reg_irq]
  by_cases hi : a = Reg.PG_IRQ_RAW (Reg.lanePage n)
  · rw [if_pos hi, hi, leaveWord_irqRaw, reg_count_other _ (by simp [Reg.PG_IRQ_RAW, Reg.DOWN_EVENTS])]
  · rw [if_neg hi]
    by_cases hd : a = Reg.DOWN_EVENTS n
    · rw [hd, leaveWord_downs, reg_count_same]
    · rw [leaveWord_other _ hi hd, reg_count_other _ hd]

/-- The order in which the state is stored and the loss is counted does not matter. -/
theorem leaveWord_stateWord (n x a : Nat) (w : Word) :
    leaveWord n a (stateWord n x a w) = stateWord n x a (leaveWord n a w) := by
  by_cases hu : a = Reg.SG_LANE_UP (n / 32)
  · rw [hu, leaveWord_upReg, leaveWord_upReg]
  · by_cases hs : a = Reg.LANE_STAT n
    · rw [hs, leaveWord_stat, leaveWord_stat]
    · rw [stateWord_other _ hu hs, stateWord_other _ hu hs]

theorem lane_leaveUp (s : State) (n m : Nat) : lane (leaveUp s n) m = lane s m := rfl

theorem leaveUp_lanesOnly (s : State) (n : Nat) : LanesOnly s (leaveUp s n) :=
  (LanesOnly.setReg s _ _).trans (LanesOnly.irq _ _ _)

/-- Register `a` on the way out of UP into state `x`. -/
def wayOut (s : State) (n x a : Nat) : Word := stateWord n x a (leaveWord n a (reg s a))

/-- The link has left UP for state `x`, and its crossings are marked or not: the frames are left, the event is counted, the
interrupt raised. -/
structure LinkLeft (n x : Nat) (qs : Bool) (s t : State) : Prop where
  frame : LanesOnly s t
  others : ∀ m, m ≠ n → lane t m = lane s m
  rx : (lane t n).rx = none
  tx : ∀ f, (lane s n).tx = some f → (lane t n).tx = some { f with stomp := true }
  qsDown : (lane t n).qsDown = qs
  drop : (lane s n).rx ≠ none ∨ (lane s n).held ≠ [] → reg t (Reg.DROP_LINK_CHECK n) = reg s (Reg.DROP_LINK_CHECK n) + 1
  regs : ∃ lo v, 2 ≤ lo ∧ lo ≤ 6 ∧ ∀ a, a ≠ Reg.RX_FRAMES n → a ≠ Reg.DROP_LINK_CHECK n →
    reg t a = if a = Reg.LANE_STAT n then setBits (wayOut s n x (Reg.LANE_STAT n)) 6 lo v else wayOut s n x a

section LinkLeft

variable {t : State} {x : Nat} {qs : Bool} (h : LinkLeft n x qs s t)
include h

theorem LinkLeft.state (hx : x < 4) : bits (reg t (Reg.LANE_STAT n)) 1 0 = x := by
  obtain ⟨lo, v, h2, h6, hr⟩ := h.regs
  rw [hr _ (by simp [Reg.LANE_STAT, Reg.RX_FRAMES]) (by simp [Reg.LANE_STAT, Reg.DROP_LINK_CHECK]), if_pos rfl,
    bits_setBits_other _ _ _ _ _ _ h6 (by omega), wayOut, stateWord_stat, bits_setBits _ _ _ _ (by omega) (by omega)]
  exact Nat.mod_eq_of_lt hx

/-- A register that neither the frames left nor LANE_STAT concern. -/
theorem LinkLeft.word {a : Nat} (hs : a ≠ Reg.LANE_STAT n) (hr : a ≠ Reg.RX_FRAMES n) (hd : a ≠ Reg.DROP_LINK_CHECK n) :
    reg t a = wayOut s n x a := by
  obtain ⟨lo, v, _, _, hreg⟩ := h.regs
  rw [hreg a hr hd, if_neg hs]

theorem LinkLeft.shown (hx : x ≠ 2) : flag t (Reg.SG_LANE_UP (n / 32)) (n % 32) = false := by
  unfold flag
  rw [h.word (stat_ne_upReg n).symm (lanePage_ne_upReg n _).symm (lanePage_ne_upReg n _).symm, wayOut, stateWord_upReg, bit_setBit,
    if_pos rfl, decide_eq_false hx, Bool.and_false]

theorem LinkLeft.irq : flag t (Reg.PG_IRQ_RAW (Reg.lanePage n)) 0 = true := by
  unfold flag
  rw [h.word (by simp [Reg.PG_IRQ_RAW, Reg.LANE_STAT]) (by simp [Reg.PG_IRQ_RAW, Reg.RX_FRAMES])
    (by simp [Reg.PG_IRQ_RAW, Reg.DROP_LINK_CHECK]), wayOut, leaveWord_irqRaw,
    stateWord_irqRaw, bit_setBit, if_pos rfl]
  rfl

theorem LinkLeft.downs : reg t (Reg.DOWN_EVENTS n) = reg s (Reg.DOWN_EVENTS n) + 1 := by
  rw [h.word (by simp [Reg.DOWN_EVENTS, Reg.LANE_STAT]) (by simp [Reg.DOWN_EVENTS, Reg.RX_FRAMES])
    (by simp [Reg.DOWN_EVENTS, Reg.DROP_LINK_CHECK]), wayOut, leaveWord_downs,
    stateWord_downs]

/-- Every register that the way out of UP does not name keeps its value. -/
theorem LinkLeft.kept : RegsBut s t [Reg.LANE_STAT n, Reg.SG_LANE_UP (n / 32), Reg.PG_IRQ_RAW (Reg.lanePage n),
    Reg.DOWN_EVENTS n, Reg.RX_FRAMES n, Reg.DROP_LINK_CHECK n] := fun a ha => by
  simp only [List.mem_cons, List.not_mem_nil, or_false, not_or] at ha
  obtain ⟨hs, hu, hi, hd, hr, hk⟩ := ha
  rw [h.word hs hr hk, wayOut, leaveWord_other _ hi hd, stateWord_other _ hu hs]

theorem LinkLeft.ctl : reg t (Reg.LANE_CTL n) = reg s (Reg.LANE_CTL n) :=
  h.kept _ (by simp [lanePage_ne_upReg, Reg.LANE_CTL, Reg.LANE_STAT, Reg.PG_IRQ_RAW, Reg.DOWN_EVENTS, Reg.RX_FRAMES,
    Reg.DROP_LINK_CHECK])

end LinkLeft

/-- A link that loses its lock or its signal, before that is reported. -/
def linkDown (n : Nat) (lost : Bool) (s : State) : State :=
  let t := leaveUp (setLaneState (leaveFrames s n) n 3) n
  modLane (setFld t (Reg.LANE_STAT n) 6 4 (if lost then 0 else fld t (Reg.LANE_STAT n) 4 4)) n
    (fun l => { l with qsDown := true })

/-- A link that is UP and becomes OFF. -/
def linkOff (n : Nat) (s : State) : State :=
  modLane (setFld (setLaneState (leaveFrames (leaveUp s n) n) n 0) (Reg.LANE_STAT n) 6 5 0) n
    (fun l => { l with qsDown := false })

/-- A link whose frames are left, and whose registers are on the way out of UP, has left UP. -/
theorem LinkLeft.of_frames {s0 a t : State} {x lo : Nat} {qs : Bool} (hlo : 2 ≤ lo ∧ lo ≤ 6)
    (h0 : LanesOnly s s0) (h0l : s0.lanes = s.lanes)
    (hd0 : reg s0 (Reg.DROP_LINK_CHECK n) = reg s (Reg.DROP_LINK_CHECK n)) (ha : FramesLeft n s0 a)
    (hf : LanesOnly a t)
    (hl : ∀ m, lane t m = if m = n then { lane a n with qsDown := qs } else lane a m)
    (hd : reg t (Reg.DROP_LINK_CHECK n) = reg a (Reg.DROP_LINK_CHECK n))
    (hr : ∃ v, ∀ r, r ≠ Reg.RX_FRAMES n → r ≠ Reg.DROP_LINK_CHECK n →
      reg t r = if r = Reg.LANE_STAT n then setBits (wayOut s n x (Reg.LANE_STAT n)) 6 lo v else wayOut s n x r) :
    LinkLeft n x qs s t := by
  have h0l : ∀ m, lane s0 m = lane s m := fun m => by unfold lane; rw [h0l]
  refine ⟨h0.trans (ha.frame.trans hf), fun m hm => ?_, ?_, fun f hf => ?_, ?_, fun h => ?_,
    lo, hr.choose, hlo.1, hlo.2, hr.choose_spec⟩
  · rw [hl, if_neg hm, ha.others m hm, h0l]
  · rw [hl, if_pos rfl]; exact ha.rx
  · rw [hl, if_pos rfl]; exact ha.tx f (by rw [h0l]; exact hf)
  · rw [hl, if_pos rfl]
  · rw [hd, ← hd0]; exact ha.drop (by rw [h0l]; exact h)

theorem linkDown_left (h3 : laneMode s n ≠ 3) (lost : Bool) : LinkLeft n 3 true s (linkDown n lost s) := by
  have ha := leaveFrames_leaves s n
  have hc : reg (leaveFrames s n) (Reg.LANE_CTL n) = reg s (Reg.LANE_CTL n) :=
    ha.regs _ (by simp [Reg.LANE_CTL, Reg.RX_FRAMES, Reg.DROP_LINK_CHECK])
  rw [← laneMode_congr hc] at h3
  have hw : ∀ a, a ≠ Reg.RX_FRAMES n → a ≠ Reg.DROP_LINK_CHECK n →
      reg (leaveUp (setLaneState (leaveFrames s n) n 3) n) a = wayOut s n 3 a := fun a h1 h2 => by
    rw [reg_leaveUp, reg_setLaneState h3, leaveWord_stateWord, ha.regs a (by simp [h1, h2]), wayOut]
  refine LinkLeft.of_frames (lo := 4) (by omega) (LanesOnly.refl s) rfl rfl ha ?_ (fun m => ?_) ?_
    ⟨if lost then 0 else fld (leaveUp (setLaneState (leaveFrames s n) n 3) n) (Reg.LANE_STAT n) 4 4, fun r h1 h2 => ?_⟩
  · unfold linkDown
    exact (((LanesOnly.of_onlyRegs (setLaneState_onlyRegs h3 3)).trans (leaveUp_lanesOnly _ n)).trans
      (LanesOnly.setReg _ _ _)).trans (LanesOnly.modLane _ n _)
  · unfold linkDown
    rw [lane_modLane, lane_setFld, lane_setFld, lane_leaveUp, lane_leaveUp, lane_setLaneState h3, lane_setLaneState h3]
  · unfold linkDown
    rw [reg_modLane, reg_setFld, if_neg (by simp [Reg.DROP_LINK_CHECK, Reg.LANE_STAT]), reg_leaveUp, reg_setLaneState h3,
      leaveWord_drop, stateWord_drop]
  · unfold linkDown
    rw [reg_modLane, reg_setFld, hw r h1 h2, hw _ (by simp [Reg.LANE_STAT, Reg.RX_FRAMES])
      (by simp [Reg.LANE_STAT, Reg.DROP_LINK_CHECK])]

theorem linkOff_left (h3 : laneMode s n ≠ 3) : LinkLeft n 0 false s (linkOff n s) := by
  have ha := leaveFrames_leaves (leaveUp s n) n
  have hc : reg (leaveFrames (leaveUp s n) n) (Reg.LANE_CTL n) = reg s (Reg.LANE_CTL n) := by
    rw [ha.regs _ (by simp [Reg.LANE_CTL, Reg.RX_FRAMES, Reg.DROP_LINK_CHECK]), reg_leaveUp,
      leaveWord_other _ (by simp [Reg.LANE_CTL, Reg.PG_IRQ_RAW]) (by simp [Reg.LANE_CTL, Reg.DOWN_EVENTS])]
  rw [← laneMode_congr hc] at h3
  have hw : ∀ a, a ≠ Reg.RX_FRAMES n → a ≠ Reg.DROP_LINK_CHECK n →
      reg (setLaneState (leaveFrames (leaveUp s n) n) n 0) a = wayOut s n 0 a := fun a h1 h2 => by
    rw [reg_setLaneState h3, ha.regs a (by simp [h1, h2]), reg_leaveUp, wayOut]
  refine LinkLeft.of_frames (lo := 5) (by omega) (leaveUp_lanesOnly s n) rfl ?_ ha ?_ (fun m => ?_) ?_ ⟨0, fun r h1 h2 => ?_⟩
  · rw [reg_leaveUp, leaveWord_drop]
  · exact ((LanesOnly.of_onlyRegs (setLaneState_onlyRegs h3 0)).trans (LanesOnly.setReg _ _ _)).trans (LanesOnly.modLane _ n _)
  · unfold linkOff
    rw [lane_modLane, lane_setFld, lane_setFld, lane_setLaneState h3, lane_setLaneState h3]
  · unfold linkOff
    rw [reg_modLane, reg_setFld, if_neg (by simp [Reg.DROP_LINK_CHECK, Reg.LANE_STAT]), reg_setLaneState h3, stateWord_drop]
  · unfold linkOff
    rw [reg_modLane, reg_setFld, hw r h1 h2, hw _ (by simp [Reg.LANE_STAT, Reg.RX_FRAMES])
      (by simp [Reg.LANE_STAT, Reg.DROP_LINK_CHECK])]

end Sys2Proof.Machine
end

section
/-! PROOFS. A lane in no bonded pair becomes DOWN, becomes OFF, and is enabled: what follows on the ports, the sums of the sheet,
the crossings and the error records (O30). -/

namespace Sys2Proof.Machine

variable {s t : State} {n : Nat}

/-! ## What follows a lane's loss (R70, R241, R288) -/

/-- The ports, registers of theirs and of the sheet may differ, and nothing of the lanes' pages or below them. -/
structure PortsOnly (s t : State) : Prop where
  frame : t = { s with regs := t.regs, ports := t.ports }
  regs : ∀ a, a < 0xA0000 → reg t a = reg s a

theorem PortsOnly.refl (s : State) : PortsOnly s s := ⟨rfl, fun _ _ => rfl⟩

theorem PortsOnly.trans {u : State} (h : PortsOnly s t) (h' : PortsOnly t u) : PortsOnly s u :=
  ⟨by rw [h'.frame, h.frame], fun a ha => (h'.regs a ha).trans (h.regs a ha)⟩

theorem PortsOnly.setReg (s : State) {a : Nat} (v : Word) (h : 0xA0000 ≤ a) : PortsOnly s (Machine.setReg s a v) :=
  ⟨rfl, fun b hb => reg_setReg_other s v (by omega)⟩

theorem PortsOnly.modPort (s : State) (k : Nat) (f : Port → Port) :
    PortsOnly s (Machine.modPort s k f) := ⟨rfl, fun _ _ => rfl⟩

theorem PortsOnly.foldl {α : Type} (f : State → α → State) (l : List α) (h : ∀ s a, PortsOnly s (f s a)) (s : State) :
    PortsOnly s (l.foldl f s) := by
  induction l generalizing s with
  | nil => exact PortsOnly.refl s
  | cons a l ih => exact (h s a).trans (ih _)

theorem portsLose_portsOnly (s : State) (n : Nat) : PortsOnly s (portsLose s n) := by
  refine PortsOnly.foldl _ _ (fun s k => ?_) s
  split
  · exact (PortsOnly.modPort s k _).trans (PortsOnly.setReg _ _ (by simp only [Reg.SK_PSTAT, Reg.skovubPage]; omega))
  · exact PortsOnly.refl s

theorem refit_portsOnly (s : State) : PortsOnly s (refit s) :=
  (PortsOnly.setReg s _ (by decide)).trans (PortsOnly.setReg _ _ (by decide))

/-! ## The report of a lane's loss (R70, R73, R325) -/

theorem severity_lane (s : State) {n : Nat} (hn : n < 128) (lost : Bool) :
    severity s (Reg.lanePage n) lost.toNat = if mode s = 4 then 2 else 0 := by
  unfold severity
  rw [pageAt_lanePage hn]
  cases lost <;> simp

/-- What a fault of a lane records of the loss of its lock or its signal. -/
theorem fault_lane (s : State) (hn : n < 128) (lost : Bool) :
    Records s (fault s (Reg.lanePage n) lost.toNat) [] ∧ Steady s (fault s (Reg.lanePage n) lost.toNat)
    ∧ flag (fault s (Reg.lanePage n) lost.toNat) (Reg.PG_ERR_STICKY (Reg.lanePage n)) lost.toNat = true
    ∧ (mode s = 4 → flag (fault s (Reg.lanePage n) lost.toNat) Reg.BL_SUMMARY 30 = true) := by
  have hsev := severity_lane s hn lost
  have hs : severity s (Reg.lanePage n) lost.toNat = 0 ∨ severity s (Reg.lanePage n) lost.toNat = 2 := by
    rw [hsev]; split
    · exact .inr rfl
    · exact .inl rfl
  have hsrc : lost.toNat < 31 := by cases lost <;> decide
  let r : Report := ⟨Reg.lanePage n, lost.toNat, severity s (Reg.lanePage n) lost.toNat, 5, 0, 0, none⟩
  obtain ⟨hr, hk⟩ := report_light s (r := r) (l := []) (lanePage_based n) hs
  exact ⟨hr, hk, report_sticky s (r := r) (lanePage_based n) (headerPage_lanePage hn) hs hsrc,
    fun hm => report_degrades s (r := r) (by rw [← if_pos (c := mode s = 4) (t := 2) (e := 0) hm]; exact hsev)⟩

/-- The loss as the ports, BL_RECOVERY_STAT and the error records show it. -/
def lossReported (n : Nat) (lost : Bool) (s : State) : State :=
  let t := portsLose s n
  fault (if mode t = 4 then showRecovery t 2 n else t) (Reg.lanePage n) lost.toNat

/-- What the report of a loss leaves of registers below the ports' pages, and what it records. -/
structure LossReported (n : Nat) (lost : Bool) (s t : State) : Prop where
  frame : t = { s with regs := t.regs, ports := t.ports, mem := t.mem, out := t.out, free := t.free }
  regs : ∀ a, a < 0xA0000 → 0x100 ≤ a % 0x1000 → a / 0x1000 ≠ Reg.blotterPage / 0x1000 → reg t a = reg s a
  rise : ∀ a, a < 0xA0000 → a % 0x1000 = 0x14 → ∀ i, flag s a i = true → flag t a i = true
  sticky : flag t (Reg.PG_ERR_STICKY (Reg.lanePage n)) lost.toNat = true
  degrade : mode s = 4 → flag t Reg.BL_SUMMARY 30 = true

theorem lossReported_reports (s : State) (hn : n < 128) (lost : Bool) : LossReported n lost s (lossReported n lost s) := by
  have hp := portsLose_portsOnly s n
  unfold lossReported
  dsimp only
  have hm : mode (portsLose s n) = mode s := by unfold mode fld; rw [hp.regs _ (by decide)]
  generalize portsLose s n = p at hp hm
  have hr : Records p (if mode p = 4 then showRecovery p 2 n else p) [] := by
    split
    · exact Records.setReg p _ _ (.inr (.inr (by decide)))
    · exact Records.refl p []
  have hk : Steady p (if mode p = 4 then showRecovery p 2 n else p) := by
    split
    · exact Steady.setReg p _ (by decide)
    · exact Steady.refl p
  generalize (if mode p = 4 then showRecovery p 2 n else p) = q at hr hk
  have hmr : mode q = mode s := by
    rw [← hm]
    unfold mode fld
    rw [hr.2.1 Reg.MODE_CUR (by simp) (by decide) (by decide)]
  obtain ⟨hf, hs, hst, hd⟩ := fault_lane q hn lost
  have hrec := hr.trans hf
  have hsteady := hk.trans hs
  refine ⟨?_, fun a ha hb hc => ?_, fun a ha hb i hi => hsteady.rise a (.inl hb) i ?_, hst, fun h => hd (hmr.trans h)⟩
  · rw [hrec.1, hp.frame]
  · rw [hrec.2.1 a (by simp) hb hc, hp.regs a ha]
  · rw [flag_congr (hp.regs a ha)]; exact hi

/-! ## LANE_DOWN (R70, R72) -/

theorem markQs_frame (s : State) (p : Nat) : markQs s p = { s with xings := (markQs s p).xings } := by
  unfold markQs
  split <;> rfl

theorem markQs_marks (p : Nat) (hp : p < 16) (hs : s.phase.started = true) (hc : s.phase.counting = true) :
    bit (xing (markQs s p) s.phase.count).qs p = true := by
  unfold markQs
  rw [if_pos ⟨hs, hc⟩, xing_modXing, if_pos rfl]
  simp only [bit, BitVec.getLsbD_or, BitVec.getLsbD_shiftLeft]
  simp [hp]

theorem laneDown_eq (h4 : laneMode s n ≠ 4) (hs : laneState s n = 2) (lost : Bool) :
    laneDown n lost s = lossReported n lost (markQs (linkDown n lost s) (lanePid (linkDown n lost s) n)) := by
  unfold laneDown
  rw [linkOf_own h4]
  dsimp only
  rw [if_neg (not_not_intro hs), if_pos rfl]
  cases lost <;> rfl

theorem laneDown_stays (h4 : laneMode s n ≠ 4) (hs : laneState s n ≠ 2) (lost : Bool) : laneDown n lost s = s := by
  unfold laneDown
  rw [linkOf_own h4]
  exact if_pos hs

theorem lanePid_lt (s : State) (n : Nat) : lanePid s n < 16 := Nat.mod_lt _ (by decide)

/-- What the loss of an UP lane leaves: the link has left UP for DOWN, and that is marked and reported. -/
theorem laneDown_drops (hn : n < 128) (h3 : laneMode s n ≠ 3) (h4 : laneMode s n ≠ 4) (hs : laneState s n = 2) (lost : Bool) :
    ∃ u, LinkLeft n 3 true s u ∧ laneDown n lost s = lossReported n lost (markQs u (lanePid s n))
      ∧ LossReported n lost (markQs u (lanePid s n)) (lossReported n lost (markQs u (lanePid s n))) := by
  have hl := linkDown_left h3 lost
  have hp : lanePid (linkDown n lost s) n = lanePid s n := by unfold lanePid fld; rw [hl.ctl]
  refine ⟨linkDown n lost s, hl, ?_, lossReported_reports _ hn lost⟩
  rw [laneDown_eq h4 hs, hp]

/-! ## LANE_CTL (R54, R56, R71, R241) -/

theorem setBit_zero_masked {w : Word} (h : w &&& 0x00FCFFFF = w) (b : Bool) :
    setBit w 0 b &&& 0x00FCFFFF = setBit w 0 b := by
  refine eq_of_bit (fun i hi => ?_)
  have hw : (bit w i && bit (0x00FCFFFF : Word) i) = bit w i := by
    conv_rhs => rw [← h]
    exact BitVec.getLsbD_and.symm
  have he : bit (setBit w 0 b &&& 0x00FCFFFF) i = (bit (setBit w 0 b) i && bit (0x00FCFFFF : Word) i) := BitVec.getLsbD_and
  rw [he, bit_setBit]
  split
  · next h0 => subst h0; exact Bool.and_true _
  · exact hw

theorem xor_setBit_zero {w : Word} {b : Bool} (h : bit w 0 = !b) : w ^^^ setBit w 0 b = 1 := by
  refine eq_of_bit (fun i hi => ?_)
  have he : bit (w ^^^ setBit w 0 b) i = (bit w i ^^ bit (setBit w 0 b) i) := BitVec.getLsbD_xor
  rw [he, bit_setBit]
  split
  · next h0 => subst h0; rw [h]; cases b <;> rfl
  · next h0 =>
    rw [Bool.xor_self]
    simpa [bit, BitVec.getLsbD_one] using h0

theorem laneEnable_stores (h4 : laneMode s n ≠ 4) (hoff : flag s (Reg.LANE_CTL n) 0 = false)
    (hmask : reg s (Reg.LANE_CTL n) &&& 0x00FCFFFF = reg s (Reg.LANE_CTL n))
    (hcombo : comboOk s n (setBit (reg s (Reg.LANE_CTL n)) 0 true) = true) (hcfh : laneCfh s n ≤ 32)
    (hok : laneEnableOk s n (setBit (reg s (Reg.LANE_CTL n)) 0 true) = true) :
    laneEnable n s = refit (laneAcquire n (setFlag s (Reg.LANE_CTL n) 0 true)) := by
  have h1 : bit (setBit (reg s (Reg.LANE_CTL n)) 0 true) 0 = true := by rw [bit_setBit, if_pos rfl]; rfl
  have h0 : bit (reg s (Reg.LANE_CTL n)) 0 = false := hoff
  have hmode : bits (setBit (reg s (Reg.LANE_CTL n)) 0 true) 11 8 ≠ 4 := by
    rw [bits_setBit_other _ _ _ _ _ (by omega)]; exact h4
  have hcfh' : bits (setBit (reg s (Reg.LANE_CTL n)) 0 true) 23 18 ≤ 32 := by
    rw [bits_setBit_other _ _ _ _ _ (by omega)]; exact hcfh
  have hcfg : laneCfgOk s n (reg s (Reg.LANE_CTL n)) (setBit (reg s (Reg.LANE_CTL n)) 0 true) = true := by
    unfold laneCfgOk
    rw [xor_setBit_zero (by rw [h0]; rfl), hcombo, decide_eq_true hcfh']
    simp [laneCfgMask]
  unfold laneEnable laneCtlWrite
  dsimp only
  rw [setBit_zero_masked hmask, h0, h1, if_neg (by simp [hcfg, hok]), if_neg (by simp [hmode]), if_pos rfl]
  rfl

/-- A field under a mask that passes it. -/
theorem bits_masked (w m : Word) {hi lo : Nat} (h : ∀ i < hi + 1 - lo, bit m (lo + i) = true) :
    bits (w &&& m) hi lo = bits w hi lo := by
  apply Nat.eq_of_testBit_eq
  intro i
  have he : bit (w &&& m) (lo + i) = (bit w (lo + i) && bit m (lo + i)) := BitVec.getLsbD_and
  rw [testBit_bits, testBit_bits, he]
  by_cases hi' : i < hi + 1 - lo
  · rw [h i hi', Bool.and_true]
  · rw [decide_eq_false hi', Bool.false_and, Bool.false_and]

theorem laneEnable_refused (h4 : laneMode s n ≠ 4) (hoff : flag s (Reg.LANE_CTL n) 0 = false)
    (hdom : domainOn s (4 + n / 32) = false) :
    laneEnable n s = refuseWrite s (Reg.lanePage n) 0x03 (Reg.LANE_CTL n) := by
  have h0 : bit (reg s (Reg.LANE_CTL n)) 0 = false := hoff
  have h1 : bit (setBit (reg s (Reg.LANE_CTL n)) 0 true &&& 0x00FCFFFF) 0 = true := by
    have he : bit (setBit (reg s (Reg.LANE_CTL n)) 0 true &&& 0x00FCFFFF) 0
      = (bit (setBit (reg s (Reg.LANE_CTL n)) 0 true) 0 && bit (0x00FCFFFF : Word) 0) := BitVec.getLsbD_and
    rw [he, bit_setBit, if_pos rfl]
    rfl
  have hmode : bits (setBit (reg s (Reg.LANE_CTL n)) 0 true &&& 0x00FCFFFF) 11 8 ≠ 4 := by
    rw [bits_masked _ _ (by decide), bits_setBit_other _ _ _ _ _ (by omega)]; exact h4
  have hno : ∀ w, laneEnableOk s n w = false := fun w => by unfold laneEnableOk; rw [hdom, Bool.false_and, Bool.false_and]
  unfold laneEnable laneCtlWrite
  dsimp only
  generalize setBit (reg s (Reg.LANE_CTL n)) 0 true &&& 0x00FCFFFF = v at h1 hmode
  exact if_pos (.inr ⟨by rw [h0, h1]; simp [hmode], by rw [hno]; exact Bool.false_ne_true⟩)

theorem laneDisable_stores (h4 : laneMode s n ≠ 4) (hon : flag s (Reg.LANE_CTL n) 0 = true)
    (hmask : reg s (Reg.LANE_CTL n) &&& 0x00FCFFFF = reg s (Reg.LANE_CTL n)) :
    laneDisable n s = refit (laneOff n (setFlag s (Reg.LANE_CTL n) 0 false)) := by
  have h1 : bit (setBit (reg s (Reg.LANE_CTL n)) 0 false) 0 = false := by rw [bit_setBit, if_pos rfl]; rfl
  have h0 : bit (reg s (Reg.LANE_CTL n)) 0 = true := hon
  have hmode : bits (reg s (Reg.LANE_CTL n)) 11 8 ≠ 4 := h4
  have hmode' : bits (setBit (reg s (Reg.LANE_CTL n)) 0 false) 11 8 ≠ 4 := by
    rw [bits_setBit_other _ _ _ _ _ (by omega)]; exact h4
  have hcfg : laneCfgOk s n (reg s (Reg.LANE_CTL n)) (setBit (reg s (Reg.LANE_CTL n)) 0 false) = true := by
    unfold laneCfgOk
    rw [xor_setBit_zero (by rw [h0]; rfl), h0, h1]
    rfl
  unfold laneDisable laneCtlWrite
  dsimp only
  rw [setBit_zero_masked hmask, h0, h1, if_neg (by simp [hcfg]), if_neg (by simp [hmode, hmode']), if_neg Bool.false_ne_true]
  rfl

/-- A store of enable keeps the mode. -/
theorem laneMode_setEnable (s : State) (n : Nat) (b : Bool) : laneMode (setFlag s (Reg.LANE_CTL n) 0 b) n = laneMode s n := by
  unfold laneMode fld
  rw [reg_setFlag, if_pos rfl, bits_setBit_other _ _ _ _ _ (by omega)]

theorem laneState_setEnable (h4 : laneMode s n ≠ 4) (b : Bool) :
    laneState (setFlag s (Reg.LANE_CTL n) 0 b) n = laneState s n := by
  have h4' : laneMode (setFlag s (Reg.LANE_CTL n) 0 b) n ≠ 4 := by rwa [laneMode_setEnable]
  rw [laneState_own h4' rfl, laneState_own h4 rfl, reg_setFlag, if_neg (ctl_ne_stat n).symm]

theorem laneOff_eq (h3 : laneMode s n ≠ 3) (hs : laneState s n = 2) : laneOff n s = portsLose (linkOff n s) n := by
  unfold laneOff
  dsimp only
  rw [if_pos hs, linkLanes_own h3]
  rfl

theorem laneAcquire_begins (hon : laneOn s n = true) (h0 : laneMode s n ≠ 0) (h4 : laneMode s n ≠ 4)
    (hs : laneState s n = 0) : laneAcquire n s = setLaneState s n 1 := if_pos ⟨hon, h0, h4, hs⟩

/-- A lane that is disabled while UP takes the way out of UP, and only the ports and the sheet follow. -/
theorem laneDisable_leaves (h3 : laneMode s n ≠ 3) (h4 : laneMode s n ≠ 4) (hon : flag s (Reg.LANE_CTL n) 0 = true)
    (hmask : reg s (Reg.LANE_CTL n) &&& 0x00FCFFFF = reg s (Reg.LANE_CTL n)) (hs : laneState s n = 2) :
    ∃ u, LinkLeft n 0 false (setFlag s (Reg.LANE_CTL n) 0 false) u ∧ PortsOnly u (laneDisable n s) := by
  have h3' : laneMode (setFlag s (Reg.LANE_CTL n) 0 false) n ≠ 3 := by rwa [laneMode_setEnable]
  have hs' : laneState (setFlag s (Reg.LANE_CTL n) 0 false) n = 2 := by rwa [laneState_setEnable h4]
  refine ⟨_, linkOff_left h3', ?_⟩
  rw [laneDisable_stores h4 hon hmask, laneOff_eq h3' hs']
  exact (portsLose_portsOnly _ n).trans (refit_portsOnly _)

/-- The lane that is enabled begins to acquire. -/
theorem laneEnable_acquires (h4 : laneMode s n ≠ 4) (hoff : flag s (Reg.LANE_CTL n) 0 = false)
    (hmask : reg s (Reg.LANE_CTL n) &&& 0x00FCFFFF = reg s (Reg.LANE_CTL n))
    (hcombo : comboOk s n (setBit (reg s (Reg.LANE_CTL n)) 0 true) = true) (hcfh : laneCfh s n ≤ 32)
    (hok : laneEnableOk s n (setBit (reg s (Reg.LANE_CTL n)) 0 true) = true)
    (hpage : flag s (Reg.PG_CTL (Reg.lanePage n)) 0 = true) (h0 : laneMode s n ≠ 0) (hs : laneState s n = 0) :
    laneEnable n s = refit (setLaneState (setFlag s (Reg.LANE_CTL n) 0 true) n 1) := by
  have hon : laneOn (setFlag s (Reg.LANE_CTL n) 0 true) n = true := by
    have hd : domainOn s (4 + n / 32) = true := by
      unfold laneEnableOk at hok
      simp only [Bool.and_eq_true] at hok
      exact hok.1.1
    have hd' : domainOn (setFlag s (Reg.LANE_CTL n) 0 true) (4 + n / 32) = domainOn s (4 + n / 32) := by
      unfold domainOn
      rw [reg_setFlag, if_neg (by simp only [Reg.PD_STAT, Reg.LANE_CTL, Reg.lanePage]; omega)]
    have hp : flag (setFlag s (Reg.LANE_CTL n) 0 true) (Reg.PG_CTL (Reg.lanePage n)) 0 = true := by
      rw [flag_congr (s := s) (by rw [reg_setFlag, if_neg (by simp [Reg.PG_CTL, Reg.LANE_CTL])])]; exact hpage
    unfold laneOn enField
    rw [hd', hd, hp, flag_setFlag, if_pos rfl]
    rfl
  rw [laneEnable_stores h4 hoff hmask hcombo hcfh hok, laneAcquire_begins hon (by rwa [laneMode_setEnable])
    (by rwa [laneMode_setEnable]) (by rwa [laneState_setEnable h4])]

end Sys2Proof.Machine
end

section
/-! PROOFS. HELLO blocks, and the states of a lane in no bonded pair (O30). -/

namespace Sys2Proof.Machine

variable {s : State} {n : Nat}

/-! ## HELLO blocks (R57, R61, R73) -/

theorem helloSend_sends (hb : strokeBlocks s n = true) (hs : laneState s n ≠ 0) (htx : (lane s n).tx = none) :
    helloSend n s = emit s (.hello n (helloBlock n (laneState s n ≠ 2))) := by
  unfold helloSend
  rw [if_neg (by simp [hs, htx]), if_pos hb]

/-- The fields that a receiver takes from a HELLO block. -/
theorem helloReceive_takes (hb : strokeBlocks s n = true) (hs : laneState s n ≠ 0) (hl : flag s (Reg.LANE_STAT n) 5 = true)
    {p : Nat} (hp : p < 256) (rf e : Bool) :
    helloReceive n (some (helloBlock p rf)) e s = peerFault n rf (setFld s (Reg.LANE_STAT n) 15 8 p) := by
  have hhead : slice (helloBlock p rf).bytes 0 2 = [0x4B, 0x5A] := rfl
  have hpeer : ((helloBlock p rf).bytes.getD 2 0).toNat = p := by
    show (BitVec.ofNat 8 p).toNat = p
    rw [BitVec.toNat_ofNat]
    exact Nat.mod_eq_of_lt hp
  have hrf : bit ((helloBlock p rf).bytes.getD 3 0) 0 = rf := by
    show bit (BitVec.ofNat 8 rf.toNat) 0 = rf
    cases rf <;> decide
  unfold helloReceive
  rw [if_neg (by simp [hs, hl])]
  dsimp only
  rw [if_pos ⟨hb, rfl, hhead⟩, hpeer, hrf]

/-- The peer's fault bit is stored, and recorded while it is set. -/
def peerNoted (n : Nat) (rf : Bool) (s : State) : State :=
  let t := setFlag s (Reg.LANE_STAT n) 7 rf
  if rf then note t (Reg.lanePage n) 0x07 else t

theorem peerFault_eq (s : State) (n : Nat) (rf : Bool) : peerFault n rf s
    = if flag s (Reg.LANE_STAT n) 7 = rf then peerNoted n rf s else irq (peerNoted n rf s) (Reg.lanePage n) 2 := rfl

theorem peerNoted_notes (s : State) (hn : n < 128) (rf : Bool) :
    Records (setFlag s (Reg.LANE_STAT n) 7 rf) (peerNoted n rf s) []
    ∧ (rf = true → flag (peerNoted n rf s) (Reg.PG_ERR_STICKY (Reg.lanePage n)) 7 = true) := by
  cases rf with
  | false => exact ⟨Records.refl _ _, fun h => absurd h Bool.false_ne_true⟩
  | true =>
    obtain ⟨hr, hs⟩ := noted_note (setFlag s (Reg.LANE_STAT n) 7 true) (Reg.lanePage n) 7 5 0 0 [] (lanePage_based n)
      (headerPage_lanePage hn) (by decide)
    exact ⟨hr, fun _ => hs⟩

/-- Beside the bit of LANE_STAT, the fault state of the peer is recorded and raised. -/
theorem peerFault_records (s : State) (hn : n < 128) (rf : Bool) :
    Records (setFlag s (Reg.LANE_STAT n) 7 rf) (peerFault n rf s) []
    ∧ (rf = true → flag (peerFault n rf s) (Reg.PG_ERR_STICKY (Reg.lanePage n)) 7 = true)
    ∧ (rf ≠ flag s (Reg.LANE_STAT n) 7 → flag (peerFault n rf s) (Reg.PG_IRQ_RAW (Reg.lanePage n)) 2 = true) := by
  obtain ⟨hr, hs⟩ := peerNoted_notes s hn rf
  rw [peerFault_eq]
  generalize peerNoted n rf s = u at hr hs
  have hirq : Records u (irq u (Reg.lanePage n) 2) [] :=
    Records.withIrq (Records.setFlag u _ 2 true (.inr (.inl (by simp only [Reg.PG_IRQ_RAW, Reg.lanePage]; omega))))
  have hkeep : reg (irq u (Reg.lanePage n) 2) (Reg.PG_ERR_STICKY (Reg.lanePage n))
      = reg u (Reg.PG_ERR_STICKY (Reg.lanePage n)) := by
    rw [reg_irq, if_neg (by simp [Reg.PG_ERR_STICKY, Reg.PG_IRQ_RAW])]
  split
  · next h => exact ⟨hr, hs, fun hne => absurd h.symm hne⟩
  · exact ⟨hr.trans hirq, fun h => (flag_congr hkeep 7).trans (hs h), fun _ => flag_irq u _ (by decide)⟩

/-! ## The clauses -/

theorem headers_lock {n : LaneId} {headers : List (BitVec 2)} (h4 : laneMode s n ≠ 4)
    (hs : laneState s n = 1 ∨ laneState s n = 3) (hl : 64 ≤ headers.length) (hv : ∀ h ∈ last64 headers, h = 1 ∨ h = 2) :
    Gives (.blockLockAcquired ⟨n, headers⟩) s (fun t => OnlyRegs s t [Reg.LANE_STAT n] ∧ flag t (Reg.LANE_STAT n) 4 = true
      ∧ flag t (Reg.LANE_STAT n) 5 = true ∧ laneState t n = laneState s n) := by
  refine ⟨_, congrArg Host.Outcome.next (blockLockAcquired_locks hs hl hv), OnlyRegs.setReg s _ (by simp), ?_, ?_,
    laneState_setStat h4 3 (by omega) (by omega)⟩ <;>
  · rw [flag_setFld _ _ _ _ (by omega)]
    rfl

theorem headers_unlock {n : LaneId} {headers : List (BitVec 2)} (h4 : laneMode s n ≠ 4)
    (hs : laneState s n = 1 ∨ laneState s n = 3) (h : 16 ≤ (last64 headers).countP (fun h => h = 0 || h = 3)) :
    Gives (.blockLockLost ⟨n, headers, false⟩) s (fun t => OnlyRegs s t [Reg.LANE_STAT n]
      ∧ flag t (Reg.LANE_STAT n) 5 = false ∧ laneState t n = laneState s n) := by
  refine ⟨_, congrArg Host.Outcome.next (blockLockLost_headers hs h), OnlyRegs.setReg s _ (by simp), ?_,
    laneState_setStat h4 0 (by omega) (by omega)⟩
  rw [flag_setFld _ _ _ _ (by omega)]
  rfl

theorem silence_unlocks {n : LaneId} (h4 : laneMode s n ≠ 4) (headers : List (BitVec 2))
    (hs : laneState s n = 1 ∨ laneState s n = 3) :
    Gives (.blockLockLost ⟨n, headers, true⟩) s (fun t => OnlyRegs s t [Reg.LANE_STAT n]
      ∧ flag t (Reg.LANE_STAT n) 4 = false ∧ flag t (Reg.LANE_STAT n) 5 = false ∧ laneState t n = laneState s n) := by
  refine ⟨_, congrArg Host.Outcome.next (blockLockLost_signal headers hs), OnlyRegs.setReg s _ (by simp), ?_, ?_,
    laneState_setStat h4 0 (by omega) (by omega)⟩ <;>
  · rw [flag_setFld _ _ _ _ (by omega)]
    rfl

theorem lanePage_lt {n o : Nat} (hn : n < 128) (ho : o < 0x1000) : Reg.lanePage n + o < 0xA0000 := by
  simp only [Reg.lanePage]; omega

theorem upReg_lt {n : Nat} (hn : n < 128) : Reg.SG_LANE_UP (n / 32) < 0xA0000 := by
  simp only [Reg.SG_LANE_UP, Reg.sgroupPage]; omega

/-- The lane that begins to acquire, and the sheet that follows: enable is set, and only the registers named differ. -/
theorem acquiring_shows (hn : n < 128) (h3 : laneMode s n ≠ 3) (h4 : laneMode s n ≠ 4) {t : State}
    (ht : t = refit (setLaneState (setFlag s (Reg.LANE_CTL n) 0 true) n 1)) :
    OnlyRegs s t [Reg.LANE_CTL n, Reg.LANE_STAT n, Reg.SG_LANE_UP (n / 32), Reg.SC_RATE, Reg.SC_FIT]
    ∧ flag t (Reg.LANE_CTL n) 0 = true ∧ laneState t n = 1 ∧ laneMode t n = laneMode s n := by
  have h3' : laneMode (setFlag s (Reg.LANE_CTL n) 0 true) n ≠ 3 := by rwa [laneMode_setEnable]
  have h4' : laneMode (setFlag s (Reg.LANE_CTL n) 0 true) n ≠ 4 := by rwa [laneMode_setEnable]
  have hreg : ∀ o < 0x1000, reg t (Reg.lanePage n + o)
      = stateWord n 1 (Reg.lanePage n + o) (reg (setFlag s (Reg.LANE_CTL n) 0 true) (Reg.lanePage n + o)) := fun o ho => by
    rw [ht, (refit_portsOnly _).regs _ (lanePage_lt hn ho), reg_setLaneState h3']
  have hc : reg t (Reg.LANE_CTL n) = reg (setFlag s (Reg.LANE_CTL n) 0 true) (Reg.LANE_CTL n) :=
    (hreg 0x100 (by omega)).trans (stateWord_other _ (ctl_ne_upReg n) (ctl_ne_stat n))
  have hs : reg t (Reg.LANE_STAT n) = setBits (reg (setFlag s (Reg.LANE_CTL n) 0 true) (Reg.LANE_STAT n)) 1 0 1 :=
    (hreg 0x104 (by omega)).trans (stateWord_stat n 1 _)
  refine ⟨?_, ?_, ?_, (laneMode_congr hc).trans (laneMode_setEnable s n true)⟩
  · rw [ht]
    exact ((OnlyRegs.setReg s _ (by simp)).trans ((setLaneState_onlyRegs h3' 1).mono (by simp +contextual))).trans
      ((refit_onlyRegs _).mono (by simp +contextual))
  · rw [flag_congr hc, flag_setFlag, if_pos rfl]; rfl
  · rw [laneState_own h4' hc, hs, bits_setBits _ _ _ _ (by omega) (by omega)]; rfl

/-- The lane that is disabled while UP is OFF: the event is counted and raised, and no error is recorded. -/
theorem disabled_shows (hn : n < 128) (h4 : laneMode s n ≠ 4) {u t : State}
    (hl : LinkLeft n 0 false (setFlag s (Reg.LANE_CTL n) 0 false) u) (hp : PortsOnly u t) :
    flag t (Reg.LANE_CTL n) 0 = false ∧ laneState t n = 0 ∧ flag t (Reg.SG_LANE_UP (n / 32)) (n % 32) = false
    ∧ reg t (Reg.DOWN_EVENTS n) = reg s (Reg.DOWN_EVENTS n) + 1 ∧ flag t (Reg.PG_IRQ_RAW (Reg.lanePage n)) 0 = true
    ∧ ∀ i, flag t (Reg.PG_ERR_STICKY (Reg.lanePage n)) i = flag s (Reg.PG_ERR_STICKY (Reg.lanePage n)) i := by
  have h4' : laneMode (setFlag s (Reg.LANE_CTL n) 0 false) n ≠ 4 := by rwa [laneMode_setEnable]
  have hreg : ∀ o < 0x1000, reg t (Reg.lanePage n + o) = reg u (Reg.lanePage n + o) := fun o ho => hp.regs _ (lanePage_lt hn ho)
  have hc : reg t (Reg.LANE_CTL n) = reg (setFlag s (Reg.LANE_CTL n) 0 false) (Reg.LANE_CTL n) :=
    (hreg 0x100 (by omega)).trans hl.ctl
  refine ⟨?_, ?_, ?_, ?_, ?_, fun i => flag_congr ?_ i⟩
  · rw [flag_congr hc, flag_setFlag, if_pos rfl, Bool.and_false]
  · rw [laneState_own h4' hc]
    exact (congrArg (bits · 1 0) (hreg 0x104 (by omega))).trans (hl.state (by omega))
  · rw [flag_congr (hp.regs _ (upReg_lt hn)), hl.shown (by omega)]
  · refine (hreg 0x160 (by omega)).trans (hl.downs.trans ?_)
    rw [reg_setFlag, if_neg (by simp [Reg.DOWN_EVENTS, Reg.LANE_CTL])]
  · exact (flag_congr (hreg 0x14 (by omega)) 0).trans hl.irq
  · refine (hreg 0x20 (by omega)).trans ((hl.kept _ ?_).trans ?_)
    · simp [lanePage_ne_upReg, Reg.LANE_STAT, Reg.PG_IRQ_RAW, Reg.DOWN_EVENTS, Reg.RX_FRAMES, Reg.DROP_LINK_CHECK]
    · rw [reg_setFlag, if_neg (by simp [Reg.LANE_CTL])]
      rfl

/-- The lane that lost its lock or its signal is DOWN: the event is counted and raised, and the source recorded. -/
theorem down_shows (hn : n < 128) (h4 : laneMode s n ≠ 4) {u t : State} {lost : Bool} {p : Nat}
    (hl : LinkLeft n 3 true s u) (hr : LossReported n lost (markQs u p) t) :
    laneState t n = 3 ∧ flag t (Reg.SG_LANE_UP (n / 32)) (n % 32) = false
    ∧ reg t (Reg.DOWN_EVENTS n) = reg s (Reg.DOWN_EVENTS n) + 1 ∧ flag t (Reg.PG_IRQ_RAW (Reg.lanePage n)) 0 = true
    ∧ ((lane s n).rx ≠ none ∨ (lane s n).held ≠ [] → reg t (Reg.DROP_LINK_CHECK n) = reg s (Reg.DROP_LINK_CHECK n) + 1)
    ∧ (mode s = 4 → flag t Reg.BL_SUMMARY 30 = true) := by
  have hm : ∀ a, reg (markQs u p) a = reg u a := fun a => by rw [markQs_frame]; rfl
  have hreg : ∀ o, 0x100 ≤ o → o < 0x1000 → reg t (Reg.lanePage n + o) = reg u (Reg.lanePage n + o) := fun o h1 h2 => by
    rw [hr.regs _ (lanePage_lt hn h2) (by simp only [Reg.lanePage]; omega)
      (by simp only [Reg.lanePage, Reg.blotterPage]; omega), hm]
  have hc : reg t (Reg.LANE_CTL n) = reg s (Reg.LANE_CTL n) := (hreg 0x100 (by omega) (by omega)).trans hl.ctl
  refine ⟨?_, ?_, ?_, ?_, fun h => ?_, fun h => hr.degrade ?_⟩
  · rw [laneState_own h4 hc]
    exact (congrArg (bits · 1 0) (hreg 0x104 (by omega) (by omega))).trans (hl.state (by omega))
  · rw [flag_congr (hr.regs _ (upReg_lt hn) (by simp only [Reg.SG_LANE_UP, Reg.sgroupPage]; omega)
      (by simp only [Reg.SG_LANE_UP, Reg.sgroupPage, Reg.blotterPage]; omega)), flag_congr (hm _), hl.shown (by omega)]
  · exact (hreg 0x160 (by omega) (by omega)).trans hl.downs
  · exact hr.rise _ (lanePage_lt hn (by omega)) (by simp only [Reg.lanePage]; omega) 0 ((flag_congr (hm _) 0).trans hl.irq)
  · exact (hreg 0x134 (by omega) (by omega)).trans (hl.drop h)
  · have hmode : reg u Reg.MODE_CUR = reg s Reg.MODE_CUR := hl.kept _ (by
      simp only [List.mem_cons, List.not_mem_nil, or_false, not_or, Reg.MODE_CUR, Reg.LANE_STAT, Reg.SG_LANE_UP, Reg.PG_IRQ_RAW,
        Reg.DOWN_EVENTS, Reg.RX_FRAMES, Reg.DROP_LINK_CHECK, Reg.lanePage, Reg.sgroupPage]
      omega)
    unfold mode fld at h ⊢
    rw [hm, hmode]
    exact h

/-- The lane that takes a HELLO block shows the peer's lane and fault bit, and its own state as before. -/
theorem hello_shows (s : State) (hn : n < 128) (h4 : laneMode s n ≠ 4) {p : Nat} (hp : p < 256) (rf : Bool) {t : State}
    (ht : t = peerFault n rf (setFld s (Reg.LANE_STAT n) 15 8 p)) :
    Records s t [Reg.LANE_STAT n] ∧ fld t (Reg.LANE_STAT n) 15 8 = p ∧ flag t (Reg.LANE_STAT n) 7 = rf
    ∧ laneState t n = laneState s n ∧ (rf = true → flag t (Reg.PG_ERR_STICKY (Reg.lanePage n)) 7 = true)
    ∧ (rf ≠ flag s (Reg.LANE_STAT n) 7 → flag t (Reg.PG_IRQ_RAW (Reg.lanePage n)) 2 = true) := by
  obtain ⟨hr, hsticky, hirq⟩ := peerFault_records (setFld s (Reg.LANE_STAT n) 15 8 p) hn rf
  rw [← ht] at hr hsticky hirq
  have hreg : ∀ o, 0x100 ≤ o → o < 0x1000 → reg t (Reg.lanePage n + o)
      = reg (setFlag (setFld s (Reg.LANE_STAT n) 15 8 p) (Reg.LANE_STAT n) 7 rf) (Reg.lanePage n + o) := fun o h1 h2 =>
    hr.2.1 _ (by simp) (by simp only [Reg.lanePage]; omega) (by simp only [Reg.lanePage, Reg.blotterPage]; omega)
  have hstat : reg t (Reg.LANE_STAT n) = setBit (setBits (reg s (Reg.LANE_STAT n)) 15 8 p) 7 rf := by
    refine (hreg 0x104 (by omega) (by omega)).trans ?_
    show reg (setFlag _ (Reg.LANE_STAT n) 7 rf) (Reg.LANE_STAT n) = _
    rw [reg_setFlag, if_pos rfl, reg_setFld, if_pos rfl]
  have hc : reg t (Reg.LANE_CTL n) = reg s (Reg.LANE_CTL n) := by
    refine (hreg 0x100 (by omega) (by omega)).trans ?_
    show reg (setFlag _ _ 7 rf) (Reg.LANE_CTL n) = _
    rw [reg_setFlag, if_neg (ctl_ne_stat n), reg_setFld, if_neg (ctl_ne_stat n)]
  refine ⟨?_, ?_, ?_, ?_, hsticky, fun h => hirq ?_⟩
  · exact ((Records.setFld s _ 15 8 p (.inl (by simp))).trans (Records.setFlag _ _ 7 rf (.inl (by simp)))).trans
      (hr.mono (by simp))
  · unfold fld
    rw [hstat, bits_setBit_other _ _ _ _ _ (by omega), bits_setBits _ _ _ _ (by omega) (by omega)]
    exact Nat.mod_eq_of_lt hp
  · unfold flag
    rw [hstat, bit_setBit, if_pos rfl]
    rfl
  · rw [laneState_own h4 hc, laneState_own h4 rfl, hstat, bits_setBit_other _ _ _ _ _ (by omega),
      bits_setBits_other _ _ _ _ _ _ (by omega) (by omega)]
  · rw [flag_setFld _ _ _ _ (by omega)]
    exact h

/-! ## The statement -/

/-- Settles O30: a lane in no bonded pair is its link, so its state is its own LANE_STAT; the ways out of UP share what they leave
and count, and what follows them lies off the lanes' registers. -/
theorem laneStates : Obligations.LaneStates := by
  unfold Obligations.LaneStates
  intro n s h3 h4
  have hn : n.val < 128 := n.isLt
  refine ⟨?enable, ?refused, ?disable, fun hs => ⟨fun headers => ?locks, fun align hon hlock hfec => ?up, fun align h => ?waits⟩,
    ?down, ?stays, fun hb hs => ⟨fun htx => ?send, fun peer rf e hl => ?receive⟩⟩
  case enable =>
    intro hoff hmask hcombo hcfh hok hpage h0 hs
    exact ⟨_, rfl, acquiring_shows hn h3 h4 (laneEnable_acquires h4 hoff hmask hcombo hcfh hok hpage h0 hs)⟩
  case refused =>
    intro hoff hdom
    refine ⟨_, congrArg Host.Outcome.next (laneEnable_refused h4 hoff hdom), ?_⟩
    exact noted_refuseWrite s _ _ _ [] (lanePage_based n) (headerPage_lanePage hn) (by decide)
  case disable =>
    intro hon hmask hs
    obtain ⟨u, hl, hp⟩ := laneDisable_leaves h3 h4 hon hmask hs
    have hlane : ∀ m, lane (laneDisable n s) m = lane u m := fun m => by rw [hp.frame]; rfl
    obtain ⟨hctl, hstate, hup, hdowns, hirq, hsticky⟩ := disabled_shows hn h4 hl hp
    refine ⟨_, rfl, hctl, hstate, hup, ?_, ?_, fun f hf => ?_, fun m hm => ?_, hdowns, hirq, hsticky⟩
    · rw [hlane]; exact hl.rx
    · rw [hlane]; exact hl.qsDown
    · rw [hlane]; exact hl.tx f hf
    · rw [hlane]; exact hl.others m hm
  case locks =>
    exact ⟨fun hl hv => headers_lock h4 hs hl hv, fun h => congrArg Host.Outcome.next (blockLockAcquired_waits h),
      fun h => headers_unlock h4 hs h, silence_unlocks h4 headers hs⟩
  case up =>
    exact ⟨_, congrArg Host.Outcome.next (laneUp_rises h3 h4 hs hon hlock hfec), linkUp_lanesOnly h3, linkUp_regsBut h3,
      linkUp_lanes h3, linkUp_shows h3 h4⟩
  case waits => exact congrArg Host.Outcome.next (laneUp_waits h3 h)
  case down =>
    intro lost hs
    obtain ⟨u, hl, he, hr⟩ := laneDown_drops hn h3 h4 hs lost
    obtain ⟨hstate, hup, hdowns, hirq, hdrop, hdegrade⟩ := down_shows hn h4 hl hr
    have hm := markQs_frame u (lanePid s n)
    have hlane : ∀ m, lane (lossReported n lost (markQs u (lanePid s n))) m = lane u m := fun m => by
      rw [hr.frame, hm]; rfl
    have hphase : u.phase = s.phase := by rw [hl.frame]
    refine ⟨_, congrArg Host.Outcome.next he, hstate, hup, ?_, ?_, fun f hf => ?_, fun m hm => ?_, hdowns, hirq, hr.sticky, hdrop,
      fun h1 h2 => ?_, hdegrade, ?_, ?_⟩
    · rw [hlane]; exact hl.rx
    · rw [hlane]; exact hl.qsDown
    · rw [hlane]; exact hl.tx f hf
    · rw [hlane]; exact hl.others m hm
    · have hx : xing (lossReported n lost (markQs u (lanePid s n))) s.phase.count
          = xing (markQs u (lanePid s n)) u.phase.count := by rw [hr.frame, hphase]; rfl
      rw [hx]
      exact markQs_marks _ (lanePid_lt s n) (by rw [hphase]; exact h1) (by rw [hphase]; exact h2)
    · rw [hr.frame, hm, hl.frame]
    · rw [hr.frame, hm, hl.frame]
  case stays => exact fun hs lost => congrArg Host.Outcome.next (laneDown_stays h4 hs lost)
  case send => exact congrArg Host.Outcome.next (helloSend_sends hb hs htx)
  case receive =>
    have hp : peer.val < 256 := Nat.lt_trans peer.isLt (by decide)
    exact ⟨_, rfl, hello_shows s hn h4 hp rf (helloReceive_takes hb hs hl hp rf e)⟩

end Sys2Proof.Machine
end

section
/-! PROOFS. Copybook entries: their fields, keys and parity; lookups; and what a slot's write and the display of an entry
change (O32, O33). -/

namespace Sys2Proof.Machine

/-! ## Entries (R84–R86, R92) -/

theorem bits_lt {n : Nat} (w : BitVec n) (hi lo : Nat) : bits w hi lo < 2 ^ (hi + 1 - lo) := Nat.mod_lt _ (Nat.two_pow_pos _)

theorem entryParity_lt (e : Entry) : entryParity e < 16 := by unfold entryParity; omega

/-- The parity bits cover the entry without themselves. -/
theorem entryParity_sealEntry (e : Entry) : entryParity (sealEntry e) = entryParity e := by
  have h : (setBits e.w3 63 60 (entryParity e)).setWidth 60 = e.w3.setWidth 60 := BitVec.eq_of_getLsbD_eq fun i hi => by
    have hb := bit_setBits e.w3 63 60 (entryParity e) i (by omega)
    rw [if_neg (by omega)] at hb
    simpa [hi, bit] using hb
  show popCount e.w0 % 2 + 2 * (popCount e.w1 % 2) + 4 * (popCount e.w2 % 2)
    + 8 * (popCount ((setBits e.w3 63 60 (entryParity e)).setWidth 60) % 2) = _
  rw [h]; rfl

theorem parityOk_sealEntry (e : Entry) : parityOk (sealEntry e) = true := by
  unfold parityOk
  rw [entryParity_sealEntry, decide_eq_true_eq]
  show bits (setBits e.w3 63 60 (entryParity e)) 63 60 = _
  rw [bits_setBits _ _ _ _ (by omega) (by omega)]
  exact Nat.mod_eq_of_lt (entryParity_lt e)

/-- An entry with a partition's key is that partition's. -/
theorem entryPid_of_key {e : Entry} {p c : Nat} (hp : p < 16) (h : entryKey e = cbKey p c) : entryPid e = p := by
  have h' := congrArg BitVec.toNat h
  simp only [entryKey, cbKey, word, BitVec.toNat_ofNat, bits, Nat.shiftRight_eq_div_pow] at h'
  simp only [entryPid, bits, Nat.shiftRight_eq_div_pow]
  omega

/-- Word 0 of a composed entry. -/
theorem cbCompose_w0 (img : Entry) (p : Nat) (l : Bool) (w2 : BitVec 64) : (cbCompose img p l w2).w0
    = setBits (setBit (setBits (setBits (setBit img.w0 28 true) 27 24 p) 31 30 0) 29 l) 47 45 0 := rfl

theorem cbCompose_w1 (img : Entry) (p : Nat) (l : Bool) (w2 : BitVec 64) : (cbCompose img p l w2).w1 = img.w1 := rfl

theorem cbCompose_w2 (img : Entry) (p : Nat) (l : Bool) (w2 : BitVec 64) : (cbCompose img p l w2).w2 = w2 := rfl

/-- Outside the fields that the engine writes, word 0 is the image's. -/
theorem bits_cbCompose (img : Entry) (p : Nat) (l : Bool) (w2 : BitVec 64) {hi lo : Nat}
    (h : hi < 24 ∨ (31 < lo ∧ hi < 45) ∨ 47 < lo) : bits (cbCompose img p l w2).w0 hi lo = bits img.w0 hi lo := by
  rw [cbCompose_w0, bits_setBits_other _ _ _ _ _ _ (by omega) (by omega), bits_setBit_other _ _ _ _ _ (by omega),
    bits_setBits_other _ _ _ _ _ _ (by omega) (by omega), bits_setBits_other _ _ _ _ _ _ (by omega) (by omega),
    bits_setBit_other _ _ _ _ _ (by omega)]

theorem entryPid_cbCompose (img : Entry) {p : Nat} (hp : p < 16) (l : Bool) (w2 : BitVec 64) :
    entryPid (cbCompose img p l w2) = p := by
  unfold entryPid
  rw [cbCompose_w0, bits_setBits_other _ _ _ _ _ _ (by omega) (by omega), bits_setBit_other _ _ _ _ _ (by omega),
    bits_setBits_other _ _ _ _ _ _ (by omega) (by omega), bits_setBits _ _ _ _ (by omega) (by omega)]
  exact Nat.mod_eq_of_lt hp

/-- A composed entry has the key of its partition and of the channel in the image. -/
theorem entryKey_cbCompose (img : Entry) {p : Nat} (hp : p < 16) (l : Bool) (w2 : BitVec 64) :
    entryKey (cbCompose img p l w2) = cbKey p (bits img.w0 23 0) := by
  have hk := entryPid_cbCompose img hp l w2
  have hc := bits_cbCompose img p l w2 (hi := 23) (lo := 0) (by omega)
  unfold entryKey cbKey
  rw [← hc]
  simp only [entryPid, bits, Nat.shiftRight_eq_div_pow] at hk ⊢
  congr 1
  omega

theorem entryValid_cbCompose (img : Entry) (p : Nat) (l : Bool) (w2 : BitVec 64) :
    entryValid (cbCompose img p l w2) = true := by
  unfold entryValid
  simp [cbCompose_w0, bit_setBits, bit_setBit]

theorem entryLearned_cbCompose (img : Entry) (p : Nat) (l : Bool) (w2 : BitVec 64) :
    entryLearned (cbCompose img p l w2) = l := by
  unfold entryLearned
  simp [cbCompose_w0, bit_setBits, bit_setBit]

theorem entryAction_cbCompose (img : Entry) (p : Nat) (l : Bool) (w2 : BitVec 64) :
    entryAction (cbCompose img p l w2) = entryAction img := bits_cbCompose img p l w2 (by omega)

theorem entryClass_cbCompose (img : Entry) (p : Nat) (l : Bool) (w2 : BitVec 64) :
    entryClass (cbCompose img p l w2) = entryClass img := bits_cbCompose img p l w2 (by omega)

theorem parityOk_cbCompose (img : Entry) (p : Nat) (l : Bool) (w2 : BitVec 64) : parityOk (cbCompose img p l w2) = true :=
  parityOk_sealEntry _

/-- The channel in CBC_DATA0 stands in the key field of the image. -/
theorem cbData_channel (s : State) (p : Nat) : bits (cbData s p).w0 23 0 = fld s (Reg.CBC_DATA0 p) 23 0 := by
  show bits (BitVec.ofNat 64 ((reg s (Reg.CBC_DATA0 p)).toNat + _ * 2 ^ 32)) 23 0 = _
  simp only [fld, bits, BitVec.toNat_ofNat, Nat.shiftRight_eq_div_pow]
  omega

/-- What INSERT and REPLACE write has the key in CBC_DATA0 of the slot (R92). -/
theorem entryKey_cbCompose_data (s : State) {p : Nat} (hp : p < 16) (l : Bool) (w2 : BitVec 64) :
    entryKey (cbCompose (cbData s p) p l w2) = cbDataKey s p := by
  rw [entryKey_cbCompose _ hp, cbData_channel]; rfl

/-- Word 2 of a new entry: no hits, and last_seen the current orbit. -/
theorem cbNewSeen_fields (s : State) :
    bits (cbNewSeen s) 63 32 = 0 ∧ bits (cbNewSeen s) 31 0 = s.phase.now.orbit % 2 ^ 32 := by
  simp only [cbNewSeen, bits, BitVec.toNat_ofNat, Nat.shiftRight_eq_div_pow]
  omega

/-! ## Lookups (R89, R97, R337) -/

theorem cbInjected_none {s : State} (h0 : NoArm s Reg.copybookPage 0) (h1 : NoArm s Reg.copybookPage 1) (i : Nat) :
    cbInjected s i = (false, s) := by
  simp only [cbInjected, takeInjection_none h0, takeInjection_none h1]

/-- With every slot that it reads good, a lookup finds the slot that matches and changes nothing. -/
theorem cbLookup_good {s : State} {x : Word} (h0 : NoArm s Reg.copybookPage 0) (h1 : NoArm s Reg.copybookPage 1)
    (hg : ∀ j ∈ cbProbe s x, parityOk (entry s j) = true) : cbLookup s x = (cbFind s x, s) := by
  have hbad : cbReportBad s (cbProbe s x) = s := by
    have : (cbProbe s x).filter (fun i => !parityOk (entry s i)) = [] :=
      List.filter_eq_nil_iff.mpr fun j hj => by simp [hg j hj]
    rw [cbReportBad, this, List.foldl_nil]
  unfold cbLookup
  rw [hbad]
  cases hf : cbFind s x with
  | none => simp only [hf, cbInjected_none h0 h1]
  | some i => simp only [hf, cbInjected_none h0 h1]

/-- The slot that a lookup finds is valid and holds the key, with good parity. -/
theorem cbFind_some {s : State} {x : Word} {j : Nat} (h : cbFind s x = some j) :
    entryValid (entry s j) = true ∧ entryKey (entry s j) = x ∧ parityOk (entry s j) = true := by
  have := List.find?_some h
  simpa [and_assoc] using this

/-- A slot is free when it is not valid and its parity checks (R85). -/
theorem slotFree_empty {s : State} {i : Nat} (hv : entryValid (entry s i) = false) (hp : parityOk (entry s i) = true) :
    slotFree s i = true := by simp [slotFree, hv, hp]

theorem slotFree_valid {s : State} {i : Nat} (hv : entryValid (entry s i) = true) : slotFree s i = false := by simp [slotFree, hv]

theorem slotFree_bad {s : State} {i : Nat} (hp : parityOk (entry s i) = false) : slotFree s i = false := by simp [slotFree, hp]

/-- A free way of a bucket is a slot that is not valid. -/
theorem freeWay_some {s : State} {b d : Nat} (h : freeWay s b = some d) : entryValid (entry s d) = false := by
  have := List.find?_some h
  simp only [slotFree, Bool.and_eq_true, Bool.not_eq_true'] at this
  exact this.1

/-- With a free way in its first bucket an entry goes to the lowest one, and nothing is displaced (R94). -/
theorem cbPlace_free {s : State} {e : Entry} {d : Nat} (h : freeWay s (bucketsIn s (entryKey e)).1 = some d) :
    cbPlace s e = (some (d, 0), cbPut s d e) := by
  simp only [cbPlace, h, Option.some_or]

/-! ## What a slot's write changes (R89, R93, R98) -/

theorem OnlyRegs.refl (s : State) (l : List Nat) : OnlyRegs s s l := ⟨rfl, fun _ _ => rfl⟩

theorem OnlyRegs.records {s t : State} {l : List Nat} (h : OnlyRegs s t l) : Records s t l := by
  obtain ⟨hs, hr⟩ := h
  have hm : t.mem = s.mem := by rw [hs]
  have hf : t.free = s.free := by rw [hs]
  have ho : t.out = s.out := by rw [hs]
  exact ⟨by rw [hm, hf, ho]; exact hs, fun a ha _ _ => hr a ha, fun j _ => by simp [kept, hm]⟩

/-- The registers that follow a slot's write. -/
abbrev slotRegs : List Nat := [Reg.CB_USED, Reg.CB_MIGRATE_LEFT]

/-- A slot's write changes the table of entries, what is reported, and the two registers that follow. -/
theorem cbPut_frame (s : State) (i : Nat) (e : Entry) : OnlyRegs { s with copybook := (cbPut s i e).copybook } (cbPut s i e) slotRegs := by
  refine ⟨rfl, fun a ha => ?_⟩
  simp only [slotRegs, List.mem_cons, List.not_mem_nil, or_false, not_or] at ha
  show reg (setFld (setFld s Reg.CB_USED _ _ _) Reg.CB_MIGRATE_LEFT _ _ _) a = reg s a
  rw [reg_setFld, if_neg ha.2, reg_setFld, if_neg ha.1]

theorem reg_cbPut (s : State) (i : Nat) (e : Entry) {a : Nat} (h : a ∉ slotRegs) : reg (cbPut s i e) a = reg s a :=
  (cbPut_frame s i e).2 a h

theorem entry_cbPut (s : State) (i : Nat) (e : Entry) (j : Nat) : entry (cbPut s i e) j = if j = i then e else entry s j := by
  unfold entry cbPut
  exact Tbl.get_set _ _ _ _ _

theorem cbUse_frame (s : State) (p : Nat) (d : Int) : OnlyRegs s (cbUse s p d) [Reg.CBC_USE p] :=
  OnlyRegs.setReg s _ (by simp)

theorem entry_cbUse (s : State) (p : Nat) (d : Int) (j : Nat) : entry (cbUse s p d) j = entry s j := rfl

theorem entry_cbClear (s : State) (i j : Nat) : entry (cbClear s i) j = if j = i then {} else entry s j := entry_cbPut s i {} j

/-- One more entry of a partition (R93). -/
theorem cbUsed_cbUse (s : State) (p : Nat) : cbUsed (cbUse s p 1) p = (cbUsed s p + 1) % 2 ^ 22 := by
  show bits (reg (setFld s (Reg.CBC_USE p) 21 0 _) (Reg.CBC_USE p)) 21 0 = _
  rw [reg_setFld, if_pos rfl, bits_setBits _ _ _ _ (by omega) (by omega)]
  rfl

/-! ## The display of an entry (R92) -/

/-- The registers CBC_DATA0 to 7 of a slot. -/
abbrev dataRegs (p : Nat) : List Nat := (List.range 8).map (fun k => Reg.CBC_DATA0 p + 4 * k)

/-- Words stored one after another from word `n` of a block of registers on. -/
theorem reg_storeWords (a k n : Nat) (l : List Word) (s : State) :
    reg ((l.zipIdx n).foldl (fun s w => setReg s (a + 4 * w.2) w.1) s) (a + 4 * k)
      = if n ≤ k ∧ k < n + l.length then l.getD (k - n) 0 else reg s (a + 4 * k) := by
  induction l generalizing n s with
  | nil => rw [if_neg (by simp only [List.length_nil]; omega)]; rfl
  | cons w l ih =>
    rw [List.zipIdx_cons, List.foldl_cons, ih]
    simp only [List.length_cons]
    rw [reg_setReg]
    by_cases h : k = n
    · subst h
      rw [if_neg (by omega), if_pos rfl, if_pos (by omega), Nat.sub_self, List.getD_cons_zero]
    · by_cases hk : n + 1 ≤ k ∧ k < n + 1 + l.length
      · rw [if_pos hk, if_pos (by omega), show k - n = k - (n + 1) + 1 by omega, List.getD_cons_succ]
      · rw [if_neg hk, if_neg (by omega), if_neg (by omega)]

theorem OnlyRegs.foldl {α : Type} {l : List Nat} (f : State → α → State) (as : List α) (h : ∀ s, ∀ a ∈ as, OnlyRegs s (f s a) l)
    (s : State) : OnlyRegs s (as.foldl f s) l := by
  induction as generalizing s with
  | nil => exact OnlyRegs.refl s l
  | cons a as ih =>
    exact (h s a List.mem_cons_self).trans (ih (fun s b hb => h s b (List.mem_cons_of_mem a hb)) (f s a))

theorem cbShow_frame (s : State) (p : Nat) (e : Entry) : OnlyRegs s (cbShow s p e) (dataRegs p) := by
  refine OnlyRegs.foldl _ _ (fun s w hw => OnlyRegs.setReg s _ ?_) s
  have h : w.2 < 8 := by simpa [entryWords] using List.snd_lt_of_mem_zipIdx hw
  exact List.mem_map_of_mem (List.mem_range.mpr h)

/-- Each word of the entry stands in its CBC_DATA register. -/
theorem reg_cbShow (s : State) (p : Nat) (e : Entry) {k : Nat} (hk : k < 8) :
    reg (cbShow s p e) (Reg.CBC_DATA0 p + 4 * k) = (entryWords e).getD k 0 := by
  have h := reg_storeWords (Reg.CBC_DATA0 p) k 0 (entryWords e) s
  rwa [if_pos ⟨Nat.zero_le k, by simpa [entryWords] using hk⟩] at h

end Sys2Proof.Machine
end

section
/-! PROOFS. The Copybook's command engine: a command written to an idle slot is served at once, and what its end leaves (O32). -/

namespace Sys2Proof.Machine

/-! ## The registers of a command (R84, R92) -/

/-- The registers that a command of slot `p` may change beside what recording errors changes. -/
abbrev cbRegs (p : Nat) : List Nat :=
  [Reg.CB_USED, Reg.CB_MIGRATE_LEFT, Reg.CB_ROT, Reg.CBC_USE p, Reg.CBC_RESULT p] ++ dataRegs p

/-- A register that is none of a command's. -/
theorem not_mem_cbRegs {p a : Nat} (h : a < 0xA1114 ∨ (0xA112C < a ∧ a < 0xA1204 + 0x40 * p) ∨ 0xA1230 + 0x40 * p ≤ a) :
    a ∉ cbRegs p := by
  simp only [cbRegs, dataRegs, List.mem_append, List.mem_cons, List.mem_map, List.mem_range, List.not_mem_nil, or_false,
    Reg.CB_USED, Reg.CB_MIGRATE_LEFT, Reg.CB_ROT, Reg.CBC_USE, Reg.CBC_RESULT, Reg.CBC_DATA0]
  rintro ((h | h | h | h | h) | ⟨k, hk, h⟩) <;> omega

theorem slotRegs_cbRegs (p : Nat) : ∀ a ∈ slotRegs, a ∈ cbRegs p := fun a ha => by
  simp only [slotRegs, List.mem_cons, List.not_mem_nil, or_false] at ha
  rcases ha with rfl | rfl <;> simp [cbRegs]

theorem dataRegs_cbRegs (p : Nat) : ∀ a ∈ dataRegs p, a ∈ cbRegs p := fun _ ha => List.mem_append_right _ ha

theorem copybook_header : headerPage Reg.copybookPage = Reg.copybookPage := by decide

/-! ## While a command runs -/

/-- State `t` while the engine serves slot `p`: beside the Copybook only the command's registers differ from `s`, and
nothing waits any more. -/
structure CbRun (p : Nat) (s t : State) : Prop where
  frame : Records { s with copybook := t.copybook } t (cbRegs p)
  served : t.copybook.served = p
  waiting : t.copybook.waiting = []

/-- Records speaks of no field of the Copybook. -/
theorem Records.setCopybook {s t : State} {l : List Nat} {x : Copybook} (h : Records { s with copybook := x } t l) (y : Copybook) :
    Records { s with copybook := y } { t with copybook := y } l := by
  obtain ⟨hs, hr, hk⟩ := h
  exact ⟨congrArg (fun u : State => { u with copybook := y }) hs, hr, hk⟩

theorem CbRun.trans {p : Nat} {s t u : State} (h : CbRun p s t) (h' : Records { t with copybook := u.copybook } u (cbRegs p))
    (hs : u.copybook.served = t.copybook.served) (hw : u.copybook.waiting = t.copybook.waiting) : CbRun p s u :=
  ⟨(h.frame.setCopybook u.copybook).trans h', hs.trans h.served, hw.trans h.waiting⟩

theorem CbRun.regs {p : Nat} {s t u : State} {l : List Nat} (h : CbRun p s t) (h' : OnlyRegs t u l) (hl : ∀ a ∈ l, a ∈ cbRegs p) :
    CbRun p s u := by
  have hc : u.copybook = t.copybook := by rw [h'.1]
  exact h.trans (by rw [hc]; exact h'.records.mono hl) (by rw [hc]) (by rw [hc])

theorem CbRun.put {p : Nat} {s t : State} (h : CbRun p s t) (i : Nat) (e : Entry) : CbRun p s (cbPut t i e) :=
  h.trans ((cbPut_frame t i e).records.mono (slotRegs_cbRegs p)) rfl rfl

theorem CbRun.use {p : Nat} {s t : State} (h : CbRun p s t) (d : Int) : CbRun p s (cbUse t p d) :=
  h.regs (cbUse_frame t p d) (by simp [cbRegs])

theorem CbRun.useFld {p : Nat} {s t : State} (h : CbRun p s t) (hi lo v : Nat) : CbRun p s (setFld t (Reg.CBC_USE p) hi lo v) :=
  h.regs (OnlyRegs.setReg t _ (List.mem_singleton_self _)) (by simp [cbRegs])

/-- Clearing a slot of the partition's own. -/
theorem CbRun.clear {p : Nat} {s t : State} (h : CbRun p s t) {i : Nat} (hp : entryPid (entry t i) = p) : CbRun p s (cbClear t i) := by
  unfold cbClear
  rw [hp]
  exact (h.put i {}).use (-1)

theorem CbRun.show {p : Nat} {s t : State} (h : CbRun p s t) (e : Entry) : CbRun p s (cbShow t p e) :=
  h.regs (cbShow_frame t p e) (dataRegs_cbRegs p)

/-- A register that is none of the command's and none that error records change. -/
theorem CbRun.reg {p : Nat} {s t : State} (h : CbRun p s t) {a : Nat} (ha : a ∉ cbRegs p) (h1 : 0x100 ≤ a % 0x1000)
    (h2 : a / 0x1000 ≠ Reg.blotterPage / 0x1000) : reg t a = reg s a := h.frame.2.1 a ha h1 h2

theorem CbRun.partEpoch {p : Nat} {s t : State} (h : CbRun p s t) : partEpoch t p = partEpoch s p := by
  unfold Machine.partEpoch fld
  rw [h.reg (not_mem_cbRegs (.inr (.inr ?_))) ?_ ?_] <;> simp only [Reg.PART_EPOCH, Reg.partPage, Reg.blotterPage] <;> omega

/-! ## The end of a command (R92, R102) -/

/-- A command refused records source 0x04 (R102). -/
def refusalNoted (c : CbWaiting) (st : Byte) (s : State) : State :=
  if st = stRefused then note s Reg.copybookPage 0x04 6 c.mid (Reg.CBC_CMD c.slot) else s

/-- CBC_RESULT of slot `p`: the status, busy clear, and the index where one is given (R92). -/
def resultShown (p : Nat) (st : Byte) (ix : Option Nat) (s : State) : State :=
  let s := setFld (setFlag s (Reg.CBC_RESULT p) 31 false) (Reg.CBC_RESULT p) 7 0 st.toNat
  match ix with
  | some i => setFld s (Reg.CBC_RESULT p) 28 8 i
  | none => s

theorem refusalNoted_records (c : CbWaiting) (st : Byte) (s : State) (l : List Nat) : Records s (refusalNoted c st s) l := by
  unfold refusalNoted
  split
  · exact Records.note _ _ _ _ _ _ (by decide)
  · exact Records.refl _ _

/-- Whether or not a refusal is noted, the epochs read the same. -/
theorem refusalNoted_epoch (c : CbWaiting) (st : Byte) (s : State) (p : Nat) (hp : p < 16) :
    partEpoch (refusalNoted c st s) p = partEpoch s p := by
  unfold partEpoch fld
  rw [(refusalNoted_records c st s []).2.1] <;> simp only [Reg.PART_EPOCH, Reg.partPage, Reg.blotterPage, List.not_mem_nil,
    not_false_eq_true] <;> omega

/-- The end of a command whose partition's epoch stands. -/
theorem cbFinish_eq {c : CbWaiting} {s : State} (hp : c.slot < 16) (he : partEpoch s c.slot = c.epoch) (st : Byte) (ix : Option Nat) :
    cbFinish c (st, ix, s) = irq (resultShown c.slot st ix (refusalNoted c st s)) Reg.copybookPage 2 := by
  have he' := (refusalNoted_epoch c st s c.slot hp).trans he
  have h : cbFinish c (st, ix, s) = irq (resultShown c.slot
    (if partEpoch (refusalNoted c st s) c.slot = c.epoch then st else stStale) ix (refusalNoted c st s)) Reg.copybookPage 2 := rfl
  rw [h, if_pos he']

theorem resultShown_onlyRegs (p : Nat) (st : Byte) (ix : Option Nat) (s : State) :
    OnlyRegs s (resultShown p st ix s) [Reg.CBC_RESULT p] := by
  have store : ∀ s v, OnlyRegs s (setReg s (Reg.CBC_RESULT p) v) [Reg.CBC_RESULT p] := fun s v =>
    OnlyRegs.setReg s v (List.mem_singleton_self _)
  cases ix with
  | none => exact (store _ _).trans (store _ _)
  | some i => exact ((store _ _).trans (store _ _)).trans (store _ _)

/-- The word that stands in CBC_RESULT at the end of a command. -/
theorem reg_resultShown (p : Nat) (st : Byte) (ix : Option Nat) (s : State) :
    reg (resultShown p st ix s) (Reg.CBC_RESULT p)
      = let w := setBits (setBit (reg s (Reg.CBC_RESULT p)) 31 false) 7 0 st.toNat
        match ix with
        | some i => setBits w 28 8 i
        | none => w := by
  cases ix <;> simp [resultShown, reg_setFld, reg_setFlag]

/-- What the end of a command shows: its status with busy clear, the index, interrupt 2, and a refusal's source. -/
structure CbShows (p : Nat) (st : Byte) (ix : Option Nat) (s' : State) : Prop where
  status : fld s' (Reg.CBC_RESULT p) 7 0 = st.toNat
  idle : flag s' (Reg.CBC_RESULT p) 31 = false
  irq : flag s' (Reg.PG_IRQ_RAW Reg.copybookPage) 2 = true
  refusal : st = stRefused → flag s' (Reg.PG_ERR_STICKY Reg.copybookPage) 4 = true
  index : ∀ i, ix = some i → fld s' (Reg.CBC_RESULT p) 28 8 = i % 2 ^ 21

theorem resultShown_fields (p : Nat) (st : Byte) (ix : Option Nat) (s : State) :
    fld (resultShown p st ix s) (Reg.CBC_RESULT p) 7 0 = st.toNat ∧ flag (resultShown p st ix s) (Reg.CBC_RESULT p) 31 = false
      ∧ ∀ i, ix = some i → fld (resultShown p st ix s) (Reg.CBC_RESULT p) 28 8 = i % 2 ^ 21 := by
  have hst : st.toNat < 256 := st.isLt
  unfold fld flag
  rw [reg_resultShown]
  cases ix with
  | none => simp [bits_setBits, bit_setBits, bit_setBit, hst]
  | some i => simp [bits_setBits, bits_setBits_other, bit_setBits, bit_setBit, hst]

/-- The end of a command whose partition's epoch stands: what it changes, and what it shows. -/
theorem cbFinish_ends {c : CbWaiting} {s : State} (hp : c.slot < 16) (he : partEpoch s c.slot = c.epoch) (st : Byte) (ix : Option Nat) :
    Records s (cbFinish c (st, ix, s)) [Reg.CBC_RESULT c.slot] ∧ CbShows c.slot st ix (cbFinish c (st, ix, s)) := by
  have hir : Reg.CBC_RESULT c.slot ≠ Reg.PG_IRQ_RAW Reg.copybookPage := by
    simp only [Reg.CBC_RESULT, Reg.PG_IRQ_RAW, Reg.copybookPage]; omega
  have hes : Reg.PG_ERR_STICKY Reg.copybookPage ∉ [Reg.CBC_RESULT c.slot] := by
    simp only [Reg.CBC_RESULT, Reg.PG_ERR_STICKY, Reg.copybookPage, List.mem_singleton]; omega
  have hshown := resultShown_onlyRegs c.slot st ix (refusalNoted c st s)
  obtain ⟨hst, hidle, hix⟩ := resultShown_fields c.slot st ix (refusalNoted c st s)
  have hres : reg (irq (resultShown c.slot st ix (refusalNoted c st s)) Reg.copybookPage 2) (Reg.CBC_RESULT c.slot)
      = reg (resultShown c.slot st ix (refusalNoted c st s)) (Reg.CBC_RESULT c.slot) := by rw [reg_irq, if_neg hir]
  rw [cbFinish_eq hp he]
  refine ⟨((refusalNoted_records c st s _).trans hshown.records).trans
      (Records.withIrq (Records.setFlag _ _ _ _ (.inr (.inl (by decide))))), ?_, ?_, flag_irq _ _ (by omega), fun hr => ?_, fun i hi => ?_⟩
  · rw [← hst]; unfold fld; rw [hres]
  · rw [← hidle]; exact flag_congr hres 31
  · have hkeep : reg (irq (resultShown c.slot st ix (refusalNoted c st s)) Reg.copybookPage 2) (Reg.PG_ERR_STICKY Reg.copybookPage)
        = reg (refusalNoted c st s) (Reg.PG_ERR_STICKY Reg.copybookPage) := by
      rw [reg_irq, if_neg (by decide)]
      exact hshown.2 _ hes
    rw [flag_congr hkeep, refusalNoted, if_pos hr]
    exact (noted_note s Reg.copybookPage 4 6 c.mid (Reg.CBC_CMD c.slot) [] (by decide) copybook_header (by decide)).2
  · rw [← hix i hi]; unfold fld; rw [hres]

/-! ## Service (R92, R93) -/

/-- What a command reads is the same in `t` as in `s`: the entries, the current orbit, the entries in use, and every register
but the slot's CBC_RESULT and CBC_USE. -/
structure CbReads (p : Nat) (s t : State) : Prop extends CbRun p s t where
  entries : t.copybook.entries = s.copybook.entries
  other : ∀ a, a ≠ Reg.CBC_RESULT p → a ≠ Reg.CBC_USE p → reg t a = reg s a
  used : cbUsed t p = cbUsed s p

/-- Command `c` of slot `p` is served in state `t`: `cmd` was written to CBC_CMD in state `s`. -/
structure CbServing (p : Nat) (cmd : Word) (s : State) (c : CbWaiting) (t : State) : Prop where
  slot : c.slot = p
  epoch : c.epoch = partEpoch s p
  index : cmdIndex c.cmd = cmdIndex cmd
  unforced : bit cmd 29 = false → cmdForce c = false
  reads : CbReads p s t

/-- The Copybook serves: nothing waits, slot `p` is not busy, and its partition is not RESETTING. -/
structure CbIdle (p : Nat) (s : State) : Prop where
  lt : p < 16
  starts : starts s Reg.copybookPage = true
  waiting : s.copybook.waiting = []
  learn : s.copybook.learn = []
  idle : flag s (Reg.CBC_RESULT p) 31 = false
  running : partState s p ≠ 6

/-- Requester `r` has something waiting (R93). -/
def requests (s : State) (r : Nat) : Bool :=
  if r = 16 then !s.copybook.learn.isEmpty else s.copybook.waiting.any (fun c => c.slot = r)

/-- The turn is the only requester's, whoever was served last. -/
theorem cbTurn_sole {s : State} {r : Nat} (hr : r < 17) (h : ∀ q < 17, requests s q = decide (q = r)) : cbTurn s = some r := by
  have hmem : r ∈ (List.range 17).map (fun j => (s.copybook.served + 1 + j) % 17) :=
    List.mem_map.mpr ⟨(r + (17 - (s.copybook.served + 1) % 17)) % 17, List.mem_range.mpr (Nat.mod_lt _ (by decide)), by omega⟩
  have hsome : (cbTurn s).isSome := List.find?_isSome.mpr ⟨r, hmem, (h r hr).trans (decide_eq_true rfl)⟩
  obtain ⟨q, hq⟩ := Option.isSome_iff_exists.mp hsome
  obtain ⟨j, -, rfl⟩ := List.mem_map.mp (List.mem_of_find?_eq_some hq)
  have hreq : requests s _ = true := List.find?_some hq
  rw [h _ (Nat.mod_lt _ (by decide)), decide_eq_true_eq] at hreq
  rw [hq, hreq]

/-- A CBC_CMD written to a slot that is not busy waits for the engine (R92). -/
theorem cbSubmit_waits {p : Nat} {s : State} (hb : flag s (Reg.CBC_RESULT p) 31 = false) (hr : partState s p ≠ 6) (w : Word) (au : Bool) :
    ∃ mid n, cbSubmit p w au s = { setFlag s (Reg.CBC_RESULT p) 31 true with
      free := n
      copybook := { s.copybook with waiting := s.copybook.waiting
        ++ [{ slot := p, cmd := w, authority := au, epoch := partEpoch s p, mid := mid }] } } := by
  obtain ⟨mid, n, hm⟩ := writerMid_cases s
  refine ⟨mid, n, ?_⟩
  unfold cbSubmit
  rw [if_neg (by simp [hb]), hm]
  exact if_neg hr

/-- A CBC_CMD written while the partition is RESETTING ends at once, REFUSED (R280). -/
theorem cbSubmit_refuses {p : Nat} {s : State} (hb : flag s (Reg.CBC_RESULT p) 31 = false) (hr : partState s p = 6) (w : Word) (au : Bool) :
    ∃ mid n, cbSubmit p w au s = cbFinish { slot := p, cmd := w, authority := au, epoch := partEpoch s p, mid := mid }
      (stRefused, none, { s with free := n }) := by
  obtain ⟨mid, n, hm⟩ := writerMid_cases s
  refine ⟨mid, n, ?_⟩
  unfold cbSubmit
  rw [if_neg (by simp [hb]), hm]
  exact if_pos hr

theorem starts_pageOn {s : State} {page : Nat} (h : starts s page = true) : pageOn s page = true := by
  unfold starts at h
  exact (Bool.and_eq_true _ _ ▸ h).1

theorem reg_congr {s t : State} (h : t.regs = s.regs) (a : Nat) : reg t a = reg s a := by unfold reg; rw [h]

/-- Whether a page's domain is on stands in PD_STAT. -/
theorem pageOn_congr {s t : State} (h : reg t Reg.PD_STAT = reg s Reg.PD_STAT) (page : Nat) : pageOn t page = pageOn s page := by
  unfold pageOn domainOn
  rw [h]

theorem cbTurn_congr {s t : State} (h : t.copybook = s.copybook) : cbTurn t = cbTurn s := by unfold cbTurn; rw [h]

/-- Out of its turn a slot is not served. -/
theorem cbServe_waits {p : Nat} {s : State} (h : cbTurn s ≠ some p) (ty : Nat → Bool) (run : CbWaiting → State → CbAnswer) :
    cbServe p ty run s = s := by
  unfold cbServe
  split
  · rfl
  · exact if_neg fun hs => h hs.1

/-- With nothing waiting the engine serves nothing. -/
theorem cbServe_idle {p : Nat} {s : State} (h : s.copybook.waiting = []) (ty : Nat → Bool) (run : CbWaiting → State → CbAnswer) :
    cbServe p ty run s = s := by
  unfold cbServe
  rw [h]
  rfl

/-- The engine with only slot `p`'s command `c` waiting. -/
theorem cbServe_sole {p : Nat} {s : State} {c : CbWaiting} {ty : Nat → Bool} {run : CbWaiting → State → CbAnswer} (hp : p < 16)
    (hw : s.copybook.waiting = [c]) (hl : s.copybook.learn = []) (hc : c.slot = p) (ht : ty (bits c.cmd 3 0) = true)
    (hon : pageOn s Reg.copybookPage = true) :
    cbServe p ty run s = cbFinish c (run c { s with copybook := { s.copybook with served := p, waiting := [] } }) := by
  have hfind : s.copybook.waiting.find? (fun c => c.slot = p && ty (bits c.cmd 3 0)) = some c := by
    rw [hw]; exact List.find?_cons_of_pos (by simp [hc, ht])
  have hturn : cbTurn s = some p := cbTurn_sole (by omega) fun q _ => by
    unfold requests
    rw [hw, hl]
    by_cases hq : q = 16
    · simp [hq]; omega
    · simp [hq, hc, eq_comm]
  unfold cbServe
  rw [hfind]
  dsimp only
  rw [if_pos ⟨hturn, hon⟩, hw, List.erase_cons_head]

/-- A command's code is no part of its index. -/
theorem cmdIndex_setOp (cmd : Word) (op : Nat) : cmdIndex (setBits cmd 3 0 op) = cmdIndex cmd :=
  bits_setBits_other _ _ _ _ _ _ (by omega) (by omega)

/-- The state in which a command written to slot `p` in state `s` is served: the slot is busy, and nothing waits. -/
def cbTaken (p n : Nat) (s : State) : State :=
  { setFlag s (Reg.CBC_RESULT p) 31 true with free := n, copybook := { s.copybook with served := p, waiting := [] } }

theorem reg_cbTaken (p n : Nat) (s : State) {a : Nat} (h : a ≠ Reg.CBC_RESULT p) : reg (cbTaken p n s) a = reg s a := by
  have hr : reg (cbTaken p n s) a = reg (setFlag s (Reg.CBC_RESULT p) 31 true) a := reg_congr rfl a
  rw [hr, reg_setFlag, if_neg h]

theorem cbTaken_reads (p n : Nat) (s : State) : CbReads p s (cbTaken p n s) := by
  refine ⟨⟨⟨rfl, fun a ha _ _ => ?_, fun _ _ => rfl⟩, rfl, rfl⟩, rfl, fun a ha _ => reg_cbTaken p n s ha, ?_⟩
  · exact reg_cbTaken p n s fun e => ha (by rw [e]; simp [cbRegs])
  · unfold cbUsed fld
    rw [reg_cbTaken p n s (by simp only [Reg.CBC_USE, Reg.CBC_RESULT]; omega)]

/-- With nothing else waiting, a command written to an idle slot is served at once (R92, R93). -/
theorem CbIdle.serves {p : Nat} {s : State} (h : CbIdle p s) (cmd : Word) {op : Nat} (hop : op < 16) (au : Bool) {ty : Nat → Bool}
    (ht : ty op = true) (run : CbWaiting → State → CbAnswer) :
    ∃ c t, CbServing p cmd s c t ∧ cbServe p ty run (cbSubmit p (setBits cmd 3 0 op) au s) = cbFinish c (run c t) := by
  obtain ⟨mid, n, hs⟩ := cbSubmit_waits h.idle h.running (setBits cmd 3 0 op) au
  rw [h.waiting, List.nil_append] at hs
  have hop' : bits (setBits cmd 3 0 op) 3 0 = op := by
    rw [bits_setBits _ _ _ _ (by omega) (by omega)]; exact Nat.mod_eq_of_lt hop
  have hforce : bit (setBits cmd 3 0 op) 29 = bit cmd 29 := by rw [bit_setBits _ _ _ _ _ (by omega), if_neg (by omega)]
  have hregs : (cbSubmit p (setBits cmd 3 0 op) au s).regs = (cbTaken p n s).regs := by rw [hs]; rfl
  have hon : pageOn (cbSubmit p (setBits cmd 3 0 op) au s) Reg.copybookPage = true :=
    (pageOn_congr ((reg_congr hregs _).trans
      (reg_cbTaken p n s (by simp only [Reg.PD_STAT, Reg.CBC_RESULT]; omega))) _).trans (starts_pageOn h.starts)
  have hwait := congrArg (fun u : State => u.copybook.waiting) hs
  have hlearn := (congrArg (fun u : State => u.copybook.learn) hs).trans h.learn
  have hserve := cbServe_sole (run := run) h.lt hwait hlearn rfl ((congrArg ty hop').trans ht) hon
  rw [hs] at hserve ⊢
  exact ⟨{ slot := p, cmd := setBits cmd 3 0 op, authority := au, epoch := partEpoch s p, mid := mid }, cbTaken p n s,
    ⟨rfl, rfl, cmdIndex_setOp cmd op, fun hf => by simp [cmdForce, hforce, hf], cbTaken_reads p n s⟩, hserve⟩

/-- Where nothing waits in the slot, a command row writes CBC_CMD first. -/
theorem cbCommand_submits {p : Nat} {s : State} (hst : starts s Reg.copybookPage = true) (hw : ∀ c ∈ s.copybook.waiting, c.slot ≠ p)
    (cmd : Word) (au : Bool) (op : Nat) (run : CbWaiting → State → CbAnswer) :
    cbCommand p cmd au op run s = cbServe p (· = op) run (cbSubmit p (setBits cmd 3 0 op) au s) := by
  unfold cbCommand
  rw [if_neg (by simpa [hst] using hw)]

/-- The code of a reserved command. -/
def reservedOp (cmd : Word) : Nat := if 9 ≤ bits cmd 3 0 then bits cmd 3 0 else 9

theorem reservedOp_reserved (cmd : Word) : 9 ≤ reservedOp cmd ∧ reservedOp cmd < 16 := by
  have h := bits_lt cmd 3 0
  unfold reservedOp
  split <;> omega

theorem cbReserved_submits {p : Nat} {s : State} (hst : starts s Reg.copybookPage = true) (hw : s.copybook.waiting = []) (cmd : Word) :
    cbReserved p cmd s = cbServe p (9 ≤ ·) (fun _ s => (stRefused, none, s)) (cbSubmit p (setBits cmd 3 0 (reservedOp cmd)) false s) := by
  unfold cbReserved
  dsimp only
  rw [if_neg (by simp [hst, hw])]
  rfl

/-- What holds at the end of the command served holds at the end of its row. -/
theorem CbIdle.gives {p : Nat} {s : State} (h : CbIdle p s) {i : Instr} {cmd : Word} {op : Nat} {au : Bool}
    {run : CbWaiting → State → CbAnswer} (hi : exec i s = .next (cbCommand p cmd au op run s)) (hop : op < 16) {P : State → Prop}
    (hP : ∀ c t, CbServing p cmd s c t → P (cbFinish c (run c t))) : Gives i s P := by
  obtain ⟨c, t, hc, he⟩ := h.serves cmd hop au (ty := (· = op)) (decide_eq_true rfl) run
  rw [← cbCommand_submits h.starts (by simp [h.waiting])] at he
  exact ⟨_, hi, he ▸ hP c t hc⟩

end Sys2Proof.Machine
end

section
/-! PROOFS. The Copybook's commands (O32). -/

namespace Sys2Proof.Machine

/-! ## What a command reads -/

section Reads

variable {p : Nat} {s t : State} (h : CbReads p s t)
include h

/-- A register of the Copybook's, Stylus' or a page header's that no command's end changes. -/
theorem CbReads.low {a : Nat} (ha : a < 0xA1204) : reg t a = reg s a :=
  h.other a (by simp only [Reg.CBC_RESULT]; omega) (by simp only [Reg.CBC_USE]; omega)

theorem CbReads.data {k : Nat} (hk : k < 8) : reg t (Reg.CBC_DATA0 p + 4 * k) = reg s (Reg.CBC_DATA0 p + 4 * k) :=
  h.other _ (by simp only [Reg.CBC_DATA0, Reg.CBC_RESULT]; omega) (by simp only [Reg.CBC_DATA0, Reg.CBC_USE]; omega)

theorem CbReads.entry (j : Nat) : entry t j = entry s j := by unfold Machine.entry; rw [h.entries]

theorem CbReads.phase : t.phase = s.phase := by rw [h.frame.1]

theorem CbReads.noArm {src : Nat} (ha : NoArm s Reg.copybookPage src) : NoArm t Reg.copybookPage src := by
  unfold NoArm flag fld
  rw [h.low (by decide)]
  exact ha

theorem CbReads.migrating : migrating t = migrating s := flag_congr (h.low (by decide)) 0

theorem CbReads.bucketsA (x : Word) : bucketsA t x = bucketsA s x := by
  unfold Machine.bucketsA; rw [h.low (by decide), h.low (by decide)]

theorem CbReads.bucketsB (x : Word) : bucketsB t x = bucketsB s x := by
  unfold Machine.bucketsB; rw [h.low (by decide), h.low (by decide)]

theorem CbReads.bucketsIn (x : Word) : bucketsIn t x = bucketsIn s x := by
  unfold Machine.bucketsIn; rw [h.migrating, h.bucketsA, h.bucketsB]

theorem CbReads.probe (x : Word) : cbProbe t x = cbProbe s x := by
  unfold cbProbe; rw [h.migrating, h.bucketsA, h.bucketsB]

theorem CbReads.find (x : Word) : cbFind t x = cbFind s x := by
  unfold cbFind; rw [h.probe]; simp only [h.entry]

theorem CbReads.slotFree (j : Nat) : slotFree t j = slotFree s j := by
  unfold Machine.slotFree; rw [h.entry]

theorem CbReads.freeWay (b : Nat) : freeWay t b = freeWay s b := by
  unfold Machine.freeWay; rw [funext h.slotFree]

theorem CbReads.inNext (j : Nat) (e : Entry) : inNext t j e = inNext s j e := by
  unfold Machine.inNext; rw [h.bucketsB]

theorem CbReads.image : cbData t p = cbData s p := by
  unfold cbData
  simp only [h.data (k := 2 * 0) (by decide), h.data (k := 2 * 0 + 1) (by decide), h.data (k := 2 * 1) (by decide),
    h.data (k := 2 * 1 + 1) (by decide), h.data (k := 2 * 2) (by decide), h.data (k := 2 * 2 + 1) (by decide),
    h.data (k := 2 * 3) (by decide), h.data (k := 2 * 3 + 1) (by decide)]

theorem CbReads.key : cbDataKey t p = cbDataKey s p := by
  have hk : reg t (Reg.CBC_DATA0 p) = reg s (Reg.CBC_DATA0 p) := h.data (k := 0) (by decide)
  unfold cbDataKey fld; rw [hk]

theorem CbReads.refused (a : Nat) {cls : Nat} (hc : cls < 16) : cbRefused t p a cls = cbRefused s p a cls := by
  unfold cbRefused fld
  rw [h.low (by simp only [Reg.ST_CLASS]; omega)]

theorem CbReads.limit (hp : p < 16) : fld t (Reg.CB_PLIM p) 21 0 = fld s (Reg.CB_PLIM p) 21 0 := by
  unfold fld; rw [h.low (by simp only [Reg.CB_PLIM]; omega)]

theorem CbReads.newSeen : cbNewSeen t = cbNewSeen s := by unfold cbNewSeen; rw [h.phase]

/-- With every slot that it reads good and no check error armed, a lookup of the slot's key finds what it would find before. -/
theorem CbReads.lookup (h0 : NoArm s Reg.copybookPage 0) (h1 : NoArm s Reg.copybookPage 1)
    (hg : ∀ j ∈ cbProbe s (cbDataKey s p), parityOk (Machine.entry s j) = true) :
    cbLookup t (cbDataKey t p) = (cbFind s (cbDataKey s p), t) := by
  rw [h.key, cbLookup_good (h.noArm h0) (h.noArm h1), h.find]
  intro j hj
  rw [h.entry]
  exact hg j (h.probe _ ▸ hj)

/-- INSERT clears the count of displacements before it looks the key up. -/
theorem CbReads.useHigh (v : Nat) : CbReads p s (setFld t (Reg.CBC_USE p) 31 28 v) := by
  refine ⟨h.toCbRun.useFld 31 28 v, h.entries, fun a ha hu => ?_, ?_⟩
  · rw [reg_setFld, if_neg hu]; exact h.other a ha hu
  · rw [← h.used]
    unfold cbUsed fld
    rw [reg_setFld, if_pos rfl, bits_setBits_other _ _ _ _ _ _ (by omega) (by omega)]

end Reads

/-! ## What a command leaves -/

/-- The command of slot `p` has ended with status `st`. -/
def CbDid (p : Nat) (s : State) (st : Byte) (s' : State) : Prop :=
  Records { s with copybook := s'.copybook } s' (cbRegs p) ∧ fld s' (Reg.CBC_RESULT p) 7 0 = st.toNat
    ∧ flag s' (Reg.CBC_RESULT p) 31 = false ∧ flag s' (Reg.PG_IRQ_RAW Reg.copybookPage) 2 = true
    ∧ s'.copybook.served = p ∧ s'.copybook.waiting = []

/-- It has changed no entry. -/
def CbSame (p : Nat) (s : State) (st : Byte) (s' : State) : Prop := CbDid p s st s' ∧ ∀ j, entry s' j = entry s j

/-- It has put `e` into slot `j`, and changed no other entry. -/
def CbOnly (p : Nat) (s : State) (j : Nat) (e : Entry) (st : Byte) (s' : State) : Prop :=
  CbDid p s st s' ∧ entry s' j = e ∧ ∀ k, k ≠ j → entry s' k = entry s k

/-- CBC_DATA0 to 7 show `e`. -/
def CbShown (p : Nat) (e : Entry) (s' : State) : Prop := ∀ k < 8, reg s' (Reg.CBC_DATA0 p + 4 * k) = (entryWords e).getD k 0

/-- The end of a command of slot `p`, after the engine has made `t` of `s`. -/
structure CbEnds (p : Nat) (s t : State) (st : Byte) (ix : Option Nat) (s' : State) : Prop where
  did : CbDid p s st s'
  shows : CbShows p st ix s'
  copybook : s'.copybook = t.copybook
  keeps : ∀ a, a ≠ Reg.CBC_RESULT p → 0xA1100 ≤ a → a < 0xA2000 → reg s' a = reg t a

section Ends

variable {p : Nat} {cmd : Word} {s t : State} {c : CbWaiting} {st : Byte} {ix : Option Nat}

theorem CbServing.ends (h : CbServing p cmd s c t) (hp : p < 16) {u : State} (hu : CbRun p s u) (st : Byte) (ix : Option Nat) :
    CbEnds p s u st ix (cbFinish c (st, ix, u)) := by
  have he : partEpoch u c.slot = c.epoch := by rw [h.slot, hu.partEpoch, h.epoch]
  obtain ⟨hrec, hshow⟩ := cbFinish_ends (h.slot.trans_lt hp) he st ix
  rw [h.slot] at hrec hshow
  have hc : (cbFinish c (st, ix, u)).copybook = u.copybook := by rw [hrec.1]
  have hrun : CbRun p s (cbFinish c (st, ix, u)) := hu.trans
    (by rw [hc]; exact hrec.mono (by simp [cbRegs])) (by rw [hc]) (by rw [hc])
  refine ⟨⟨hrun.frame, hshow.status, hshow.idle, hshow.irq, hrun.served, hrun.waiting⟩, hshow, hc, fun a ha h1 h2 => ?_⟩
  exact hrec.2.1 a (by simpa using ha) (by omega) (by simp only [Reg.blotterPage]; omega)

variable {s' : State} (h : CbEnds p s t st ix s')
include h

theorem CbEnds.entry (j : Nat) : entry s' j = entry t j := by unfold Machine.entry; rw [h.copybook]

/-- The engine only read. -/
theorem CbEnds.same (hr : ∀ j, Machine.entry t j = Machine.entry s j) : CbSame p s st s' :=
  ⟨h.did, fun j => (h.entry j).trans (hr j)⟩

/-- The engine wrote one slot. -/
theorem CbEnds.only {j : Nat} {e : Entry} (hr : ∀ k, Machine.entry t k = if k = j then e else Machine.entry s k) :
    CbOnly p s j e st s' :=
  ⟨h.did, by rw [h.entry, hr, if_pos rfl], fun k hk => by rw [h.entry, hr, if_neg hk]⟩

theorem CbEnds.data {k : Nat} (hk : k < 8) (hp : p < 16) : reg s' (Reg.CBC_DATA0 p + 4 * k) = reg t (Reg.CBC_DATA0 p + 4 * k) :=
  h.keeps _ (by simp only [Reg.CBC_DATA0, Reg.CBC_RESULT]; omega) (by simp only [Reg.CBC_DATA0]; omega)
    (by simp only [Reg.CBC_DATA0]; omega)

end Ends

/-- An entry is shown. -/
theorem CbEnds.shown {p : Nat} {s t s' : State} {st : Byte} {ix : Option Nat} {e : Entry} (h : CbEnds p s (cbShow t p e) st ix s')
    (hp : p < 16) : CbShown p e s' := fun k hk => by rw [h.data hk hp, reg_cbShow _ _ _ hk]

theorem entry_cbShow (s : State) (p : Nat) (e : Entry) (j : Nat) : entry (cbShow s p e) j = entry s j := by
  unfold entry; rw [(cbShow_frame s p e).1]

theorem entry_setFld (s : State) (a hi lo v j : Nat) : entry (setFld s a hi lo v) j = entry s j := rfl

/-- What holds of the entry written holds of the slot. -/
theorem CbOnly.holds {p j : Nat} {s s' : State} {e : Entry} {st : Byte} (h : CbOnly p s j e st s') {P : Entry → Prop} (hP : P e) :
    CbOnly p s j (entry s' j) st s' ∧ P (entry s' j) := by
  obtain ⟨hdid, hj, hother⟩ := h
  exact ⟨⟨hdid, rfl, hother⟩, hj ▸ hP⟩

/-! ## READ, DELETE_IDX and MOVE (R92, R93, R98) -/

section ByIndex

variable {c : CbWaiting} {s : State}

theorem cbDoRead_foreign (h : entryPid (entry s (cmdIndex c.cmd)) ≠ c.slot) (hf : cmdForce c = false) :
    cbDoRead c s = (stNotOwner, some (cmdIndex c.cmd), s) := if_pos ⟨h, by simp [hf]⟩

theorem cbDoDeleteIdx_foreign (h : entryPid (entry s (cmdIndex c.cmd)) ≠ c.slot) (hf : cmdForce c = false) :
    cbDoDeleteIdx c s = (stNotOwner, some (cmdIndex c.cmd), s) := if_pos ⟨h, by simp [hf]⟩

theorem cbDoMove_foreign (h : entryPid (entry s (cmdIndex c.cmd)) ≠ c.slot) (hf : cmdForce c = false) :
    cbDoMove c s = (stNotOwner, some (cmdIndex c.cmd), s) := if_pos ⟨h, by simp [hf]⟩

variable (h : entryPid (entry s (cmdIndex c.cmd)) = c.slot)
include h

theorem cbDoRead_own (h0 : NoArm s Reg.copybookPage 0) (h1 : NoArm s Reg.copybookPage 1) :
    cbDoRead c s = (if parityOk (entry s (cmdIndex c.cmd)) then (if entryValid (entry s (cmdIndex c.cmd)) then stOk else stEmpty)
      else stParity, some (cmdIndex c.cmd), cbShow s c.slot (entry s (cmdIndex c.cmd))) := by
  have harm : ∀ src, NoArm s Reg.copybookPage src → NoArm (cbShow s c.slot (entry s (cmdIndex c.cmd))) Reg.copybookPage src := by
    intro src ha
    unfold NoArm flag fld
    rw [(cbShow_frame _ _ _).2 _ ?_]
    · exact ha
    · simp only [dataRegs, List.mem_map, not_exists, Reg.PG_INJECT, Reg.copybookPage, Reg.CBC_DATA0]; omega
  unfold cbDoRead
  rw [if_neg (fun hn => hn.1 h)]
  simp only [cbInjected_none (harm 0 h0) (harm 1 h1), Bool.false_eq_true, false_or, entry_cbShow]
  cases parityOk (entry s (cmdIndex c.cmd)) <;> cases entryValid (entry s (cmdIndex c.cmd)) <;> rfl

theorem cbDoDeleteIdx_own : cbDoDeleteIdx c s = if slotFree s (cmdIndex c.cmd) then (stEmpty, some (cmdIndex c.cmd), s)
    else (stOk, some (cmdIndex c.cmd), cbClear s (cmdIndex c.cmd)) := if_neg (fun hn => hn.1 h)

theorem cbDoMove_empty (hf : slotFree s (cmdIndex c.cmd) = true) : cbDoMove c s = (stEmpty, some (cmdIndex c.cmd), s) :=
  (if_neg (fun hn => hn.1 h)).trans (if_pos hf)

section Migrating

variable (hv : entryValid (entry s (cmdIndex c.cmd)) = true) (hp : parityOk (entry s (cmdIndex c.cmd)) = true)
  (hm : migrating s = true)
include hv hp hm

/-- MOVE of an entry that stands in the next set. -/
theorem cbDoMove_already (hi : inNext s (cmdIndex c.cmd) (entry s (cmdIndex c.cmd)) = true) :
    cbDoMove c s = (stAlready, some (cmdIndex c.cmd), s) := by
  unfold cbDoMove
  rw [if_neg (fun hn => hn.1 h), if_neg (by simp [slotFree, hv]), if_neg (by simp [hp, hm]), if_pos hi]

/-- MOVE of an entry that can be placed in the next set. -/
theorem cbDoMove_places (hi : inNext s (cmdIndex c.cmd) (entry s (cmdIndex c.cmd)) = false) {d n : Nat} {u : State}
    (hd : cbPlace s (entry s (cmdIndex c.cmd)) = (some (d, n), u)) :
    cbDoMove c s = (stOk, some d, cbPut u (cmdIndex c.cmd) {}) := by
  unfold cbDoMove
  rw [if_neg (fun hn => hn.1 h), if_neg (by simp [slotFree, hv]), if_neg (by simp [hp, hm]), if_neg (Bool.eq_false_iff.mp hi), hd]

end Migrating

end ByIndex

section Serving

variable {p : Nat} {cmd : Word} {s t : State} {c : CbWaiting} (h : CbServing p cmd s c t)
include h

theorem CbServing.pid : entryPid (entry t (cmdIndex c.cmd)) = entryPid (entry s (cmdIndex cmd)) := by
  rw [h.index, h.reads.entry]

/-- An entry of another partition is neither shown nor changed. -/
theorem CbServing.foreign (hp : p < 16) (hn : entryPid (entry s (cmdIndex cmd)) ≠ p) (hf : bit cmd 29 = false) :
    ∀ run ∈ [cbDoRead, cbDoDeleteIdx, cbDoMove], CbEnds p s t stNotOwner (some (cmdIndex c.cmd)) (cbFinish c (run c t)) := by
  have hn' : entryPid (entry t (cmdIndex c.cmd)) ≠ c.slot := by rw [h.pid, h.slot]; exact hn
  have ends := h.ends hp h.reads.toCbRun stNotOwner (some (cmdIndex c.cmd))
  simp only [List.forall_mem_cons, List.not_mem_nil, false_implies, implies_true, and_true]
  rw [cbDoRead_foreign hn' (h.unforced hf), cbDoDeleteIdx_foreign hn' (h.unforced hf), cbDoMove_foreign hn' (h.unforced hf)]
  exact ⟨ends, ends, ends⟩

variable (hm : entryPid (entry s (cmdIndex cmd)) = p)
include hm

theorem CbServing.own : entryPid (entry t (cmdIndex c.cmd)) = c.slot := by rw [h.pid, hm, h.slot]

variable (hp : p < 16)
include hp

theorem CbServing.read_shows (h0 : NoArm s Reg.copybookPage 0) (h1 : NoArm s Reg.copybookPage 1) :
    CbSame p s (if parityOk (entry s (cmdIndex cmd)) then (if entryValid (entry s (cmdIndex cmd)) then stOk else stEmpty)
      else stParity) (cbFinish c (cbDoRead c t)) ∧ CbShown p (entry s (cmdIndex cmd)) (cbFinish c (cbDoRead c t)) := by
  rw [cbDoRead_own (h.own hm) (h.reads.noArm h0) (h.reads.noArm h1), h.slot, h.index, h.reads.entry]
  have ends := h.ends hp (h.reads.toCbRun.show (entry s (cmdIndex cmd)))
  exact ⟨(ends _ _).same fun j => by rw [entry_cbShow, h.reads.entry], (ends _ _).shown hp⟩

theorem CbServing.read_good (h0 : NoArm s Reg.copybookPage 0) (h1 : NoArm s Reg.copybookPage 1)
    (hg : parityOk (entry s (cmdIndex cmd)) = true) :
    CbSame p s (if entryValid (entry s (cmdIndex cmd)) then stOk else stEmpty) (cbFinish c (cbDoRead c t))
      ∧ CbShown p (entry s (cmdIndex cmd)) (cbFinish c (cbDoRead c t)) := by
  have hs := h.read_shows hm hp h0 h1
  rwa [if_pos hg] at hs

theorem CbServing.read_bad (h0 : NoArm s Reg.copybookPage 0) (h1 : NoArm s Reg.copybookPage 1)
    (hg : parityOk (entry s (cmdIndex cmd)) = false) :
    CbSame p s stParity (cbFinish c (cbDoRead c t)) ∧ CbShown p (entry s (cmdIndex cmd)) (cbFinish c (cbDoRead c t)) := by
  have hs := h.read_shows hm hp h0 h1
  rwa [if_neg (Bool.eq_false_iff.mp hg)] at hs

theorem CbServing.deleteIdx_clears (hf : slotFree s (cmdIndex cmd) = false) :
    CbOnly p s (cmdIndex cmd) {} stOk (cbFinish c (cbDoDeleteIdx c t)) := by
  have hown := h.own hm
  rw [cbDoDeleteIdx_own hown, h.index, h.reads.slotFree, if_neg (by simp [hf])]
  rw [h.index, h.slot] at hown
  exact (h.ends hp (h.reads.toCbRun.clear hown) _ _).only fun k => by rw [entry_cbClear, h.reads.entry]

/-- A free slot is neither deleted nor moved. -/
theorem CbServing.free (hf : slotFree s (cmdIndex cmd) = true) :
    CbSame p s stEmpty (cbFinish c (cbDoDeleteIdx c t)) ∧ CbSame p s stEmpty (cbFinish c (cbDoMove c t)) := by
  have hown := h.own hm
  have hf' : slotFree t (cmdIndex c.cmd) = true := by rw [h.index, h.reads.slotFree, hf]
  have ends := (h.ends hp h.reads.toCbRun stEmpty (some (cmdIndex c.cmd))).same h.reads.entry
  rw [cbDoDeleteIdx_own hown, if_pos hf', cbDoMove_empty hown hf']
  exact ⟨ends, ends⟩

variable (hv : entryValid (entry s (cmdIndex cmd)) = true) (hg : parityOk (entry s (cmdIndex cmd)) = true)
  (hmig : migrating s = true)
include hv hg hmig

theorem CbServing.move_already (hi : inNext s (cmdIndex cmd) (entry s (cmdIndex cmd)) = true) :
    CbSame p s stAlready (cbFinish c (cbDoMove c t)) := by
  rw [cbDoMove_already (h.own hm) (by rw [h.index, h.reads.entry, hv]) (by rw [h.index, h.reads.entry, hg])
    (h.reads.migrating.trans hmig) (by rw [h.index, h.reads.entry, h.reads.inNext, hi])]
  exact (h.ends hp h.reads.toCbRun _ _).same h.reads.entry

/-- MOVE into a free way of the next set's first bucket. -/
theorem CbServing.move_moves (hi : inNext s (cmdIndex cmd) (entry s (cmdIndex cmd)) = false) {d : Nat}
    (hd : freeWay s (bucketsB s (entryKey (entry s (cmdIndex cmd)))).1 = some d) :
    let s' := cbFinish c (cbDoMove c t)
    CbDid p s stOk s' ∧ entry s' d = entry s (cmdIndex cmd) ∧ entry s' (cmdIndex cmd) = {}
      ∧ ∀ k, k ≠ d → k ≠ cmdIndex cmd → entry s' k = entry s k := by
  have hne : d ≠ cmdIndex cmd := fun e => by
    have := freeWay_some hd
    rw [e, hv] at this
    exact Bool.noConfusion this
  have hplace : cbPlace t (entry t (cmdIndex c.cmd)) = (some (d, 0), cbPut t d (entry t (cmdIndex c.cmd))) := cbPlace_free (by
    rw [h.index, h.reads.entry, h.reads.freeWay, h.reads.bucketsIn, bucketsIn, if_pos hmig, hd])
  rw [cbDoMove_places (h.own hm) (by rw [h.index, h.reads.entry, hv]) (by rw [h.index, h.reads.entry, hg])
    (h.reads.migrating.trans hmig) (by rw [h.index, h.reads.entry, h.reads.inNext, hi]) hplace, h.index, h.reads.entry]
  have ends := h.ends hp ((h.reads.toCbRun.put d (entry s (cmdIndex cmd))).put (cmdIndex cmd) {}) stOk (some d)
  refine ⟨ends.did, ?_, ?_, fun k hd hk => ?_⟩
  · rw [ends.entry, entry_cbPut, if_neg hne, entry_cbPut, if_pos rfl]
  · rw [ends.entry, entry_cbPut, if_pos rfl]
  · rw [ends.entry, entry_cbPut, if_neg hk, entry_cbPut, if_neg hd, h.reads.entry]

end Serving

/-! ## Commands by key (R89, R92–R94) -/

section ByKey

variable {c : CbWaiting} {s : State}

/-- An entry without its hits (R92). -/
def unhit (e : Entry) : Entry := sealEntry { e with w2 := setBits e.w2 63 32 0 }

theorem unhit_fields (e : Entry) : (unhit e).w0 = e.w0 ∧ (unhit e).w1 = e.w1 ∧ bits (unhit e).w2 63 32 = 0
    ∧ bits (unhit e).w2 31 0 = bits e.w2 31 0 ∧ parityOk (unhit e) = true :=
  ⟨rfl, rfl, bits_setBits _ _ _ _ (by omega) (by omega), bits_setBits_other _ _ _ _ _ _ (by omega) (by omega), parityOk_sealEntry _⟩

/-- The image of a slot asks for a reserved action or another's class (R93). -/
def imageRefused (s : State) (p : Nat) : Bool := cbRefused s p (entryAction (cbData s p)) (entryClass (cbData s p))

/-- What REPLACE leaves of the entry in slot `j` (R92). -/
def replaced (s : State) (p j : Nat) : Entry := cbCompose (cbData s p) p (entryLearned (entry s j)) (entry s j).w2

theorem replaced_fields (s : State) {p : Nat} (hp : p < 16) (j : Nat) : let e := replaced s p j
    entryKey e = cbDataKey s p ∧ e.w1 = (cbData s p).w1 ∧ e.w2 = (entry s j).w2 ∧ entryLearned e = entryLearned (entry s j)
      ∧ entryAction e = entryAction (cbData s p) ∧ parityOk e = true :=
  ⟨entryKey_cbCompose_data s hp _ _, cbCompose_w1 _ _ _ _, cbCompose_w2 _ _ _ _, entryLearned_cbCompose _ _ _ _, entryAction_cbCompose _ _ _ _, parityOk_cbCompose _ _ _ _⟩

/-- What INSERT writes (R92). -/
def inserted (s : State) (p : Nat) : Entry := cbCompose (cbData s p) p false (cbNewSeen s)

/-- LOOKUP, DELETE and CLEAR_HITS of a key that does not stand. -/
theorem cbDo_miss (hl : cbLookup s (cbDataKey s c.slot) = (none, s)) :
    ∀ run ∈ [cbDoLookup, cbDoDelete, cbDoClearHits], run c s = (stEmpty, none, s) := by
  simp only [List.forall_mem_cons, List.not_mem_nil, false_implies, implies_true, and_true]
  unfold cbDoLookup cbDoDelete cbDoClearHits
  rw [hl]
  exact ⟨rfl, rfl, rfl⟩

section Found

variable {j : Nat} (hl : cbLookup s (cbDataKey s c.slot) = (some j, s))
include hl

theorem cbDoLookup_hit : cbDoLookup c s = (stOk, some j, cbShow s c.slot (entry s j)) := by unfold cbDoLookup; rw [hl]

theorem cbDoDelete_hit : cbDoDelete c s = (stOk, some j, cbClear s j) := by unfold cbDoDelete; rw [hl]

theorem cbDoClearHits_hit : cbDoClearHits c s = (stOk, some j, cbPut s j (unhit (entry s j))) := by
  unfold cbDoClearHits; rw [hl]; rfl

end Found

theorem cbDoReplace_refused (h : imageRefused s c.slot = true) : cbDoReplace c s = (stRefused, none, s) := if_pos h

section Allowed

variable (h : imageRefused s c.slot = false)
include h

theorem cbDoReplace_miss (hl : cbLookup s (cbDataKey s c.slot) = (none, s)) : cbDoReplace c s = (stEmpty, none, s) := by
  unfold imageRefused at h
  unfold cbDoReplace
  dsimp only
  rw [if_neg (Bool.eq_false_iff.mp h), hl]

theorem cbDoReplace_hit {j : Nat} (hl : cbLookup s (cbDataKey s c.slot) = (some j, s)) :
    cbDoReplace c s = (stOk, some j, cbPut s j (replaced s c.slot j)) := by
  unfold imageRefused at h
  unfold cbDoReplace
  dsimp only
  rw [if_neg (Bool.eq_false_iff.mp h), hl]
  rfl

end Allowed

/-- INSERT begins with no displacement counted (R94). -/
def insertBegun (p : Nat) (s : State) : State := setFld s (Reg.CBC_USE p) 31 28 0

section Insert

variable {b : State} (hb : insertBegun c.slot s = b) (hd : cbData b c.slot = cbData s c.slot)
include hb hd

theorem cbDoInsert_refused (h : imageRefused b c.slot = true) : cbDoInsert c s = (stRefused, none, b) := by
  unfold imageRefused at h
  rw [hd] at h
  subst hb
  exact if_pos h

variable (h : imageRefused b c.slot = false)
include h

theorem cbDoInsert_hit {j : Nat} (hl : cbLookup b (cbDataKey b c.slot) = (some j, b)) : cbDoInsert c s = (stAlready, some j, b) := by
  unfold imageRefused at h
  rw [hd] at h
  unfold insertBegun at hb
  unfold cbDoInsert
  dsimp only
  rw [hb, if_neg (Bool.eq_false_iff.mp h), hl]

variable (hl : cbLookup b (cbDataKey b c.slot) = (none, b))
include hl

theorem cbDoInsert_full (hq : fld b (Reg.CB_PLIM c.slot) 21 0 ≤ cbUsed b c.slot) : cbDoInsert c s = (stOverQuota, none, b) := by
  unfold imageRefused at h
  rw [hd] at h
  unfold insertBegun at hb
  unfold cbDoInsert
  dsimp only
  rw [hb, if_neg (Bool.eq_false_iff.mp h), hl]
  exact if_pos hq

theorem cbDoInsert_places (hq : ¬ fld b (Reg.CB_PLIM c.slot) 21 0 ≤ cbUsed b c.slot) {j n : Nat} {u : State}
    (hj : cbPlace b (inserted b c.slot) = (some (j, n), u)) :
    cbDoInsert c s = (stOk, some j, setFld (cbUse u c.slot 1) (Reg.CBC_USE c.slot) 31 28 n) := by
  unfold imageRefused at h
  unfold inserted at hj
  rw [hd] at h hj
  unfold insertBegun at hb
  unfold cbDoInsert
  dsimp only
  rw [hb, if_neg (Bool.eq_false_iff.mp h), hl]
  dsimp only
  rw [if_neg hq, hj]

end Insert

end ByKey

section Serving

variable {p : Nat} {cmd : Word} {s t : State} {c : CbWaiting} (h : CbServing p cmd s c t)

theorem CbReads.imageRefused (h : CbReads p s t) : imageRefused t p = imageRefused s p := by
  unfold Machine.imageRefused
  rw [h.image, h.refused _ (bits_lt _ _ _)]

include h

/-- INSERT works in the state in which no displacement is counted yet. -/
theorem CbServing.begun : CbReads p s (insertBegun c.slot t) := by
  rw [h.slot]
  exact h.reads.useHigh 0

/-- The slot's image reads the same in it. -/
theorem CbServing.begun_image : cbData (insertBegun c.slot t) c.slot = cbData t c.slot := by
  have hb := h.begun
  rw [h.slot] at hb ⊢
  rw [hb.image, h.reads.image]

theorem CbServing.begun_refused : imageRefused (insertBegun c.slot t) c.slot = imageRefused s p := by
  have hb := h.begun
  rw [h.slot] at hb ⊢
  exact hb.imageRefused

/-- INSERT of a refused image, and REPLACE of it. -/
theorem CbServing.refuses (hp : p < 16) (hr : imageRefused s p = true) :
    CbSame p s stRefused (cbFinish c (cbDoInsert c t)) ∧ CbSame p s stRefused (cbFinish c (cbDoReplace c t)) := by
  rw [cbDoInsert_refused rfl h.begun_image (by rw [h.begun_refused, hr]), cbDoReplace_refused (by rw [h.slot, h.reads.imageRefused, hr])]
  exact ⟨(h.ends hp h.begun.toCbRun _ _).same h.begun.entry, (h.ends hp h.reads.toCbRun _ _).same h.reads.entry⟩

variable (hp : p < 16) (h0 : NoArm s Reg.copybookPage 0) (h1 : NoArm s Reg.copybookPage 1)
  (hg : ∀ j ∈ cbProbe s (cbDataKey s p), parityOk (entry s j) = true)
include hp h0 h1 hg

omit hp in
theorem CbServing.looks {o : Option Nat} (hf : cbFind s (cbDataKey s p) = o) : cbLookup t (cbDataKey t c.slot) = (o, t) := by
  rw [h.slot, h.reads.lookup h0 h1 hg, hf]

omit hp in
theorem CbServing.begun_looks {o : Option Nat} (hf : cbFind s (cbDataKey s p) = o) :
    cbLookup (insertBegun c.slot t) (cbDataKey (insertBegun c.slot t) c.slot) = (o, insertBegun c.slot t) := by
  have hb := h.begun
  rw [h.slot] at hb ⊢
  rw [hb.lookup h0 h1 hg, hf]

/-- LOOKUP, DELETE and CLEAR_HITS of a key that does not stand. -/
theorem CbServing.misses (hf : cbFind s (cbDataKey s p) = none) :
    ∀ run ∈ [cbDoLookup, cbDoDelete, cbDoClearHits], CbSame p s stEmpty (cbFinish c (run c t)) := fun run hr => by
  rw [cbDo_miss (h.looks h0 h1 hg hf) run hr]
  exact (h.ends hp h.reads.toCbRun _ _).same h.reads.entry

section Found

variable {j : Nat} (hf : cbFind s (cbDataKey s p) = some j)
include hf

theorem CbServing.lookup_shows : let s' := cbFinish c (cbDoLookup c t)
    CbSame p s stOk s' ∧ CbShown p (entry s j) s' ∧ (j < 2097152 → fld s' (Reg.CBC_RESULT p) 28 8 = j) := by
  rw [cbDoLookup_hit (h.looks h0 h1 hg hf), h.slot, h.reads.entry]
  have ends := h.ends hp (h.reads.toCbRun.show (entry s j)) stOk (some j)
  refine ⟨ends.same fun k => by rw [entry_cbShow, h.reads.entry], ends.shown hp, fun hj => ?_⟩
  rw [ends.shows.index j rfl]
  exact Nat.mod_eq_of_lt hj

theorem CbServing.delete_clears : CbOnly p s j {} stOk (cbFinish c (cbDoDelete c t)) := by
  have hown : entryPid (entry t j) = p := by
    rw [h.reads.entry]
    exact entryPid_of_key hp (cbFind_some hf).2.1
  rw [cbDoDelete_hit (h.looks h0 h1 hg hf)]
  exact (h.ends hp (h.reads.toCbRun.clear hown) _ _).only fun k => by rw [entry_cbClear, h.reads.entry]

theorem CbServing.clearHits_clears : CbOnly p s j (unhit (entry s j)) stOk (cbFinish c (cbDoClearHits c t)) := by
  rw [cbDoClearHits_hit (h.looks h0 h1 hg hf), h.reads.entry]
  exact (h.ends hp (h.reads.toCbRun.put j _) _ _).only fun k => by rw [entry_cbPut, h.reads.entry]

theorem CbServing.clearHits_leaves : let s' := cbFinish c (cbDoClearHits c t)
    CbOnly p s j (entry s' j) stOk s' ∧ (entry s' j).w0 = (entry s j).w0 ∧ (entry s' j).w1 = (entry s j).w1
      ∧ bits (entry s' j).w2 63 32 = 0 ∧ bits (entry s' j).w2 31 0 = bits (entry s j).w2 31 0 ∧ parityOk (entry s' j) = true :=
  (h.clearHits_clears hp h0 h1 hg hf).holds (P := fun e => e.w0 = (entry s j).w0 ∧ e.w1 = (entry s j).w1 ∧ bits e.w2 63 32 = 0
    ∧ bits e.w2 31 0 = bits (entry s j).w2 31 0 ∧ parityOk e = true) (unhit_fields (entry s j))

theorem CbServing.insert_already (hr : imageRefused s p = false) : CbSame p s stAlready (cbFinish c (cbDoInsert c t)) := by
  rw [cbDoInsert_hit rfl h.begun_image (by rw [h.begun_refused, hr]) (h.begun_looks h0 h1 hg hf)]
  exact (h.ends hp h.begun.toCbRun _ _).same h.begun.entry

theorem CbServing.replace_replaces (hr : imageRefused s p = false) :
    CbOnly p s j (replaced s p j) stOk (cbFinish c (cbDoReplace c t)) := by
  have he : replaced t p j = replaced s p j := by unfold replaced; rw [h.reads.image, h.reads.entry]
  rw [cbDoReplace_hit (by rw [h.slot, h.reads.imageRefused, hr]) (h.looks h0 h1 hg hf), h.slot, he]
  exact (h.ends hp (h.reads.toCbRun.put j (replaced s p j)) _ _).only fun k => by rw [entry_cbPut, h.reads.entry]

theorem CbServing.replace_leaves (hr : imageRefused s p = false) : let s' := cbFinish c (cbDoReplace c t)
    CbOnly p s j (entry s' j) stOk s' ∧ entryKey (entry s' j) = cbDataKey s p ∧ (entry s' j).w1 = (cbData s p).w1
      ∧ (entry s' j).w2 = (entry s j).w2 ∧ entryLearned (entry s' j) = entryLearned (entry s j)
      ∧ entryAction (entry s' j) = entryAction (cbData s p) ∧ parityOk (entry s' j) = true :=
  (h.replace_replaces hp h0 h1 hg hf hr).holds (P := fun e => entryKey e = cbDataKey s p ∧ e.w1 = (cbData s p).w1
    ∧ e.w2 = (entry s j).w2 ∧ entryLearned e = entryLearned (entry s j) ∧ entryAction e = entryAction (cbData s p)
    ∧ parityOk e = true) (replaced_fields s hp j)

end Found

section Absent

variable (hf : cbFind s (cbDataKey s p) = none) (hr : imageRefused s p = false)
include hf hr

theorem CbServing.replace_misses : CbSame p s stEmpty (cbFinish c (cbDoReplace c t)) := by
  rw [cbDoReplace_miss (by rw [h.slot, h.reads.imageRefused, hr]) (h.looks h0 h1 hg hf)]
  exact (h.ends hp h.reads.toCbRun _ _).same h.reads.entry

theorem CbServing.insert_overQuota (hq : fld s (Reg.CB_PLIM p) 21 0 ≤ cbUsed s p) :
    CbSame p s stOverQuota (cbFinish c (cbDoInsert c t)) := by
  have hb := h.begun
  have hq' : fld (insertBegun c.slot t) (Reg.CB_PLIM c.slot) 21 0 ≤ cbUsed (insertBegun c.slot t) c.slot := by
    rw [h.slot] at hb ⊢
    rwa [hb.limit hp, hb.used]
  rw [cbDoInsert_full rfl h.begun_image (by rw [h.begun_refused, hr]) (h.begun_looks h0 h1 hg hf) hq']
  exact (h.ends hp hb.toCbRun _ _).same hb.entry

/-- INSERT below the quota, with a free way in the first bucket. -/
theorem CbServing.insert_inserts (hq : cbUsed s p < fld s (Reg.CB_PLIM p) 21 0) {j : Nat}
    (hj : freeWay s (bucketsIn s (cbDataKey s p)).1 = some j) : let s' := cbFinish c (cbDoInsert c t)
    CbOnly p s j (inserted s p) stOk s' ∧ cbUsed s' p = (cbUsed s p + 1) % 2 ^ 22 := by
  have hb : CbReads p s (insertBegun p t) := h.reads.useHigh 0
  have he : inserted (insertBegun p t) p = inserted s p := by unfold inserted; rw [hb.image, hb.newSeen]
  have hplace : cbPlace (insertBegun p t) (inserted s p) = (some (j, 0), cbPut (insertBegun p t) j (inserted s p)) := cbPlace_free (by
    rw [inserted, entryKey_cbCompose_data s hp, hb.freeWay, hb.bucketsIn, hj])
  have hrun : cbDoInsert c t
      = (stOk, some j, setFld (cbUse (cbPut (insertBegun p t) j (inserted s p)) p 1) (Reg.CBC_USE p) 31 28 0) := by
    rw [cbDoInsert_places rfl h.begun_image (by rw [h.begun_refused, hr]) (h.begun_looks h0 h1 hg hf)
      (by rw [h.slot, hb.limit hp, hb.used]; omega) (by rw [h.slot, he, hplace]), h.slot]
  rw [hrun]
  have ends := h.ends hp (((hb.toCbRun.put j (inserted s p)).use 1).useFld 31 28 0) stOk (some j)
  refine ⟨ends.only fun k => by rw [entry_setFld, entry_cbUse, entry_cbPut, hb.entry], ?_⟩
  have huse : reg (cbPut (insertBegun p t) j (inserted s p)) (Reg.CBC_USE p) = reg (insertBegun p t) (Reg.CBC_USE p) :=
    reg_cbPut _ _ _ (by simp only [slotRegs, Reg.CBC_USE, Reg.CB_USED, Reg.CB_MIGRATE_LEFT, List.mem_cons, List.not_mem_nil, or_false]; omega)
  have hput : cbUsed (cbPut (insertBegun p t) j (inserted s p)) p = cbUsed s p := by
    rw [← hb.used]; unfold cbUsed fld; rw [huse]
  rw [← hput, ← cbUsed_cbUse]
  unfold cbUsed fld
  rw [ends.keeps _ (by simp only [Reg.CBC_USE, Reg.CBC_RESULT]; omega) (by simp only [Reg.CBC_USE]; omega)
    (by simp only [Reg.CBC_USE]; omega), reg_setFld, if_pos rfl, bits_setBits_other _ _ _ _ _ _ (by omega) (by omega)]

theorem CbServing.insert_leaves (hq : cbUsed s p < fld s (Reg.CB_PLIM p) 21 0) {j : Nat}
    (hj : freeWay s (bucketsIn s (cbDataKey s p)).1 = some j) : let s' := cbFinish c (cbDoInsert c t)
    CbOnly p s j (entry s' j) stOk s' ∧ entryKey (entry s' j) = cbDataKey s p ∧ entryValid (entry s' j) = true
      ∧ parityOk (entry s' j) = true ∧ entryLearned (entry s' j) = false ∧ entryAction (entry s' j) = entryAction (cbData s p)
      ∧ entryClass (entry s' j) = entryClass (cbData s p) ∧ (entry s' j).w1 = (cbData s p).w1
      ∧ bits (entry s' j).w2 63 32 = 0 ∧ bits (entry s' j).w2 31 0 = s.phase.now.orbit % 2 ^ 32
      ∧ cbUsed s' p = (cbUsed s p + 1) % 2 ^ 22 := by
  obtain ⟨honly, hused⟩ := h.insert_inserts hp h0 h1 hg hf hr hq hj
  obtain ⟨hhits, hseen⟩ := cbNewSeen_fields s
  exact honly.holds (P := fun e => entryKey e = cbDataKey s p ∧ entryValid e = true ∧ parityOk e = true ∧ entryLearned e = false
    ∧ entryAction e = entryAction (cbData s p) ∧ entryClass e = entryClass (cbData s p) ∧ e.w1 = (cbData s p).w1
    ∧ bits e.w2 63 32 = 0 ∧ bits e.w2 31 0 = s.phase.now.orbit % 2 ^ 32
    ∧ cbUsed (cbFinish c (cbDoInsert c t)) p = (cbUsed s p + 1) % 2 ^ 22)
    ⟨entryKey_cbCompose_data s hp _ _, entryValid_cbCompose _ _ _ _, parityOk_cbCompose _ _ _ _, entryLearned_cbCompose _ _ _ _,
      entryAction_cbCompose _ _ _ _, entryClass_cbCompose _ _ _ _, cbCompose_w1 _ _ _ _, hhits, hseen, hused⟩

end Absent

end Serving

end Sys2Proof.Machine
end

section
/-! PROOFS. The Copybook's commands, by the state of the slot and of the engine (O32). -/

namespace Sys2Proof.Machine

/-- A command row of slot `p` that is written while nothing waits in the slot: CBC_CMD is written, then the engine serves. -/
def RowOf (p : Nat) (s : State) (c : Instr) : Prop :=
  ∃ w au ty run, exec c s = .next (cbServe p ty run (cbSubmit p w au s))

theorem rows_submit {p : PartId} {s : State} (hst : starts s Reg.copybookPage = true) (hw : s.copybook.waiting = []) (cmd : Word) (au : Bool) :
    ∀ c ∈ [Instr.cbNop p cmd, .cbLookup p cmd, .cbRead p cmd au, .cbInsert p cmd, .cbReplace p cmd, .cbDelete p cmd,
      .cbDeleteIdx p cmd au, .cbClearHits p cmd, .cbMove p cmd au, .cbReservedCmd p cmd], RowOf p s c := by
  have row : ∀ au op run, ∃ w b ty r, Host.Outcome.next (cbCommand p cmd au op run s)
      = (.next (cbServe p ty r (cbSubmit p w b s)) : Host.Outcome State Fault Refusal) := fun au op run =>
    ⟨_, _, _, _, congrArg Host.Outcome.next (cbCommand_submits hst (by simp [hw]) cmd au op run)⟩
  simp only [List.forall_mem_cons, List.not_mem_nil, false_implies, implies_true, and_true]
  exact ⟨row _ _ _, row _ _ _, row _ _ _, row _ _ _, row _ _ _, row _ _ _, row _ _ _, row _ _ _, row _ _ _,
    ⟨_, _, _, _, congrArg Host.Outcome.next (cbReserved_submits hst hw cmd)⟩⟩

/-- While the partition is RESETTING every command is refused (R280). -/
theorem RowOf.refused {p : Nat} {s : State} {c : Instr} (h : RowOf p s c) (hp : p < 16) (hw : s.copybook.waiting = [])
    (hb : flag s (Reg.CBC_RESULT p) 31 = false) (hr : partState s p = 6) : Gives c s (fun s' => Records s s' [Reg.CBC_RESULT p]
      ∧ fld s' (Reg.CBC_RESULT p) 7 0 = stRefused.toNat ∧ flag s' (Reg.CBC_RESULT p) 31 = false
      ∧ flag s' (Reg.PG_ERR_STICKY Reg.copybookPage) 4 = true ∧ flag s' (Reg.PG_IRQ_RAW Reg.copybookPage) 2 = true) := by
  obtain ⟨w, au, ty, run, he⟩ := h
  obtain ⟨mid, n, hs⟩ := cbSubmit_refuses hb hr w au
  obtain ⟨hrec, hshow⟩ := cbFinish_ends (c := { slot := p, cmd := w, authority := au, epoch := partEpoch s p, mid := mid })
    (s := { s with free := n }) hp rfl stRefused none
  have hrun := (Records.free s n).trans hrec
  have hwait : (cbFinish { slot := p, cmd := w, authority := au, epoch := partEpoch s p, mid := mid }
      (stRefused, none, { s with free := n })).copybook.waiting = [] := by rw [hrun.1]; exact hw
  refine ⟨_, he.trans (congrArg _ ?_), hrun, hshow.status, hshow.idle, hshow.refusal rfl, hshow.irq⟩
  rw [hs, cbServe_idle hwait]

/-- A NOP written to CBC_CMD of slot `p`, as it waits. -/
def waitingNop (p : Nat) (cmd : Word) (s : State) (mid : Nat) : CbWaiting :=
  { slot := p, cmd := setBits cmd 3 0 0, authority := false, epoch := partEpoch s p, mid := mid }

/-- A NOP waits while another requester has its turn (R93). -/
theorem cbNop_queued {p : PartId} {cmd : Word} {s : State} {c : CbWaiting} (hst : starts s Reg.copybookPage = true)
    (hw : s.copybook.waiting = [c]) (hne : c.slot ≠ p.val) (hb : flag s (Reg.CBC_RESULT p) 31 = false) (hr : partState s p ≠ 6)
    (hturn : ∀ mid, cbTurn { s with copybook := { s.copybook with waiting := [c, waitingNop p cmd s mid] } } = some c.slot) :
    Gives (.cbNop p cmd) s (fun s' => s'.copybook.entries = s.copybook.entries ∧ flag s' (Reg.CBC_RESULT p) 31 = true
      ∧ ∃ mid, s'.copybook.waiting = [c, waitingNop p cmd s mid]) := by
  obtain ⟨mid, n, hs⟩ := cbSubmit_waits hb hr (setBits cmd 3 0 0) false
  rw [hw] at hs
  have hregs : (cbSubmit p (setBits cmd 3 0 0) false s).regs = (setFlag s (Reg.CBC_RESULT p) 31 true).regs :=
    (congrArg State.regs hs).trans rfl
  have hcopy : (cbSubmit p (setBits cmd 3 0 0) false s).copybook = { s.copybook with waiting := [c, waitingNop p cmd s mid] } :=
    (congrArg State.copybook hs).trans rfl
  have hnot : cbTurn (cbSubmit p (setBits cmd 3 0 0) false s) ≠ some p.val := by
    have hc := (cbTurn_congr (s := { s with copybook := { s.copybook with waiting := [c, waitingNop p cmd s mid] } }) hcopy).trans (hturn mid)
    rw [hc]
    exact fun e => hne (Option.some.inj e)
  refine ⟨_, congrArg Host.Outcome.next ((cbCommand_submits hst (by simpa [hw] using hne) cmd false 0 _).trans (cbServe_waits hnot _ _)),
    by rw [hcopy], ?_, mid, by rw [hcopy]⟩
  rw [flag_congr (reg_congr hregs _), flag_setFlag, if_pos rfl]
  rfl

/-- Settles O32: a command written to an idle slot is served in a state that reads as the one it was written in; each command has
a lemma for what the engine makes of that state, and its end one for what it shows. -/
theorem copybookCommands : Obligations.CopybookCommands := by
  unfold Obligations.CopybookCommands
  intro p cmd au s x i img mine frame did same only shown good mayInsert hst h0 h1
  refine ⟨fun hw hb hr c hc => (rows_submit hst hw cmd au c hc).refused p.isLt hw hb hr, fun hw hl hb hr => ?served, ?queued⟩
  case queued =>
    intro c hw hl _ hne hb hr queued hturn
    exact cbNop_queued (cmd := cmd) hst hw hne hb hr hturn
  have hp : p.val < 16 := p.isLt
  have idle : CbIdle p s := ⟨hp, hst, hw, hl, hb, hr⟩
  refine ⟨?nop, ?reserved, ?foreign, ?bad, fun hgood => ⟨?own, ?absent, ?found, ?insert⟩, ?refused⟩
  case nop => exact idle.gives rfl (by decide) fun _ _ h => (h.ends hp h.reads.toCbRun _ _).same h.reads.entry
  case reserved =>
    obtain ⟨hop, hop'⟩ := reservedOp_reserved cmd
    obtain ⟨c, t, h, he⟩ := idle.serves cmd hop' false (ty := (9 ≤ ·)) (decide_eq_true hop) (fun _ s => (stRefused, none, s))
    have ends := h.ends hp h.reads.toCbRun stRefused none
    exact ⟨_, congrArg Host.Outcome.next ((cbReserved_submits hst hw cmd).trans he), ends.same h.reads.entry, ends.shows.refusal rfl⟩
  case foreign =>
    intro hn hf
    refine ⟨idle.gives rfl (by decide) fun _ _ h => ?_, idle.gives rfl (by decide) fun _ _ h => ?_,
      idle.gives rfl (by decide) fun _ _ h => ?_⟩
    · have ends := h.foreign hp hn hf cbDoRead (by simp)
      exact ⟨ends.same h.reads.entry, fun k hk => (ends.data hk hp).trans (h.reads.data hk)⟩
    · exact (h.foreign hp hn hf cbDoDeleteIdx (by simp)).same h.reads.entry
    · exact (h.foreign hp hn hf cbDoMove (by simp)).same h.reads.entry
  case bad =>
    intro hbad hm
    refine ⟨idle.gives rfl (by decide) fun _ _ h => ?_, idle.gives rfl (by decide) fun _ _ h => ?_⟩
    · exact h.read_bad hm hp h0 h1 hbad
    · exact h.deleteIdx_clears hm hp (slotFree_bad hbad)
  case own =>
    intro hm
    obtain ⟨-, hg⟩ := hgood
    refine ⟨idle.gives rfl (by decide) fun _ _ h => ?_, fun hv => idle.gives rfl (by decide) fun _ _ h => ?_,
      fun hv => ?_, fun hv hmig hin => idle.gives rfl (by decide) fun _ _ h => h.move_already hm hp hv hg hmig hin,
      fun d hv hmig hin hd => idle.gives rfl (by decide) fun _ _ h => h.move_moves hm hp hv hg hmig hin hd⟩
    · exact h.read_good hm hp h0 h1 hg
    · exact h.deleteIdx_clears hm hp (slotFree_valid hv)
    · have hfree := slotFree_empty hv hg
      exact ⟨idle.gives rfl (by decide) fun _ _ h => (h.free hm hp hfree).1,
        idle.gives rfl (by decide) fun _ _ h => (h.free hm hp hfree).2⟩
  case absent =>
    intro hf
    obtain ⟨hg, -⟩ := hgood
    exact ⟨idle.gives rfl (by decide) fun _ _ h => h.misses hp h0 h1 hg hf cbDoLookup (by simp),
      idle.gives rfl (by decide) fun _ _ h => h.misses hp h0 h1 hg hf cbDoDelete (by simp),
      idle.gives rfl (by decide) fun _ _ h => h.misses hp h0 h1 hg hf cbDoClearHits (by simp),
      fun hr => idle.gives rfl (by decide) fun _ _ h => h.replace_misses hp h0 h1 hg hf hr⟩
  case found =>
    intro j hf
    obtain ⟨hg, -⟩ := hgood
    exact ⟨idle.gives rfl (by decide) fun _ _ h => h.lookup_shows hp h0 h1 hg hf,
      idle.gives rfl (by decide) fun _ _ h => h.delete_clears hp h0 h1 hg hf,
      idle.gives rfl (by decide) fun _ _ h => h.clearHits_leaves hp h0 h1 hg hf,
      fun hr => ⟨idle.gives rfl (by decide) fun _ _ h => h.insert_already hp h0 h1 hg hf hr,
        idle.gives rfl (by decide) fun _ _ h => h.replace_leaves hp h0 h1 hg hf hr⟩⟩
  case insert =>
    intro hf hr
    obtain ⟨hg, -⟩ := hgood
    exact ⟨fun hq => idle.gives rfl (by decide) fun _ _ h => h.insert_overQuota hp h0 h1 hg hf hr hq,
      fun j hq hj => idle.gives rfl (by decide) fun _ _ h => h.insert_leaves hp h0 h1 hg hf hr hq hj⟩
  case refused =>
    intro hr
    have hr' : imageRefused s p = true := Bool.eq_true_of_not_eq_false hr
    exact ⟨idle.gives rfl (by decide) fun _ _ h => (h.refuses hp hr').1,
      idle.gives rfl (by decide) fun _ _ h => (h.refuses hp hr').2⟩

end Sys2Proof.Machine
end

section
/-! PROOFS. The Copybook's upkeep: learning, aging, migration between the seed sets, and its event queue (O33). -/

namespace Sys2Proof.Machine

/-! ## Learning (R93, R95) -/

/-- The image that a partition's template makes of a key. -/
def templateImage (s : State) (p : Nat) (x : Word) : Entry :=
  let t := reg s (Reg.CBC_LEARN p)
  { w0 := BitVec.ofNat 64 (bits t 23 16 * 2 ^ 56 + bits t 15 8 * 2 ^ 48 + bits t 27 24 * 2 ^ 40 + bits t 1 0 * 2 ^ 32 + bits x 23 0) }

theorem cbTemplateEntry_eq (s : State) (p : Nat) (x : Word) :
    cbTemplateEntry s p x = cbCompose (templateImage s p x) p true (cbNewSeen s) := rfl

theorem templateImage_fields (s : State) (p : Nat) (x : Word) : bits (templateImage s p x).w0 23 0 = bits x 23 0
    ∧ entryAction (templateImage s p x) = fld s (Reg.CBC_LEARN p) 1 0
    ∧ entryClass (templateImage s p x) = fld s (Reg.CBC_LEARN p) 27 24 := by
  simp only [templateImage, entryAction, entryClass, fld, bits, BitVec.toNat_ofNat, Nat.shiftRight_eq_div_pow]
  omega

/-- A key value is its partition and its channel (R86). -/
theorem cbKey_split {x : Word} {p : Nat} (hp : bits x 27 24 = p) (h0 : bits x 31 28 = 0) : cbKey p (bits x 23 0) = x := by
  have hx := x.isLt
  apply BitVec.eq_of_toNat_eq
  simp only [bits, Nat.shiftRight_eq_div_pow] at hp h0
  simp only [cbKey, word, bits, BitVec.toNat_ofNat, Nat.shiftRight_eq_div_pow]
  omega

/-- A learned entry: its key, valid and learned, with the template's action and class, no hits, seen now (R95). -/
theorem cbTemplateEntry_fields (s : State) {p : Nat} {x : Word} (h16 : p < 16) (hp : bits x 27 24 = p) (h0 : bits x 31 28 = 0) :
    let e := cbTemplateEntry s p x
    entryKey e = x ∧ entryValid e = true ∧ entryLearned e = true ∧ parityOk e = true
      ∧ entryAction e = fld s (Reg.CBC_LEARN p) 1 0 ∧ entryClass e = fld s (Reg.CBC_LEARN p) 27 24
      ∧ bits e.w2 63 32 = 0 ∧ bits e.w2 31 0 = s.phase.now.orbit % 2 ^ 32 := by
  obtain ⟨hch, hact, hcls⟩ := templateImage_fields s p x
  obtain ⟨hhits, hseen⟩ := cbNewSeen_fields s
  dsimp only
  rw [cbTemplateEntry_eq, entryKey_cbCompose _ h16, hch, cbKey_split hp h0, entryAction_cbCompose, hact, entryClass_cbCompose, hcls,
    cbCompose_w2]
  exact ⟨rfl, entryValid_cbCompose _ _ _ _, entryLearned_cbCompose _ _ _ _, parityOk_cbCompose _ _ _ _, rfl, rfl, hhits, hseen⟩

/-- The state in which the engine serves the oldest queued key. -/
abbrev learnTaken (s : State) (r : List (Nat × Word)) : State :=
  { s with copybook := { s.copybook with served := 16, learn := r } }

section Learn

variable {s : State} {p : Nat} {x : Word} {r : List (Nat × Word)} (hl : s.copybook.learn = (p, x) :: r)
  (hw : s.copybook.waiting = [])

include hl hw in
/-- With nothing else waiting it is the learn queue's turn. -/
theorem cbTurn_learn : cbTurn s = some 16 := cbTurn_sole (by omega) fun q _ => by
  unfold requests
  rw [hl, hw]
  by_cases hq : q = 16 <;> simp [hq]

variable (hon : pageOn s Reg.copybookPage = true) (h0 : NoArm s Reg.copybookPage 0)
  (h1 : NoArm s Reg.copybookPage 1) (hg : ∀ j ∈ cbProbe s x, parityOk (entry s j) = true)

include h0 h1 hg in
theorem learnTaken_lookup : cbLookup (learnTaken s r) x = (cbFind s x, learnTaken s r) :=
  cbLookup_good (s := learnTaken s r) h0 h1 hg

include hl hw hon h0 h1 hg

/-- A key that stands is only dropped. -/
theorem learnServe_drops {j : Nat} (hf : cbFind s x = some j) : learnServe s = learnTaken s r := by
  have hlook := learnTaken_lookup (r := r) h0 h1 hg
  unfold learnServe
  rw [hl]
  dsimp only
  rw [if_neg (by simp [cbTurn_learn hl hw, hon]), hlook, hf]

/-- An absent key that template, class and quota allow goes into the lowest free way of its first bucket. -/
theorem learnServe_learns {j : Nat} (h16 : p < 16) (hp : bits x 27 24 = p) (hx : bits x 31 28 = 0) (hf : cbFind s x = none)
    (hr : cbRefused s p (fld s (Reg.CBC_LEARN p) 1 0) (fld s (Reg.CBC_LEARN p) 27 24) = false)
    (hq : cbUsed s p < fld s (Reg.CB_PLIM p) 21 0) (hj : freeWay s (bucketsIn s x).1 = some j) :
    learnServe s = cbUse (cbPut (learnTaken s r) j (cbTemplateEntry s p x)) p 1 := by
  have hlook := learnTaken_lookup (r := r) h0 h1 hg
  have hr' : cbRefused (learnTaken s r) p (fld (learnTaken s r) (Reg.CBC_LEARN p) 1 0)
      (fld (learnTaken s r) (Reg.CBC_LEARN p) 27 24) = false := hr
  have hq' : ¬ fld (learnTaken s r) (Reg.CB_PLIM p) 21 0 ≤ cbUsed (learnTaken s r) p := Nat.not_le.mpr hq
  have hplace : cbPlace (learnTaken s r) (cbTemplateEntry (learnTaken s r) p x)
      = (some (j, 0), cbPut (learnTaken s r) j (cbTemplateEntry s p x)) :=
    cbPlace_free (e := cbTemplateEntry s p x) (by rw [(cbTemplateEntry_fields s h16 hp hx).1]; exact hj)
  unfold learnServe
  rw [hl]
  dsimp only
  rw [if_neg (by simp [cbTurn_learn hl hw, hon]), hlook, hf]
  dsimp only
  rw [if_neg (Bool.eq_false_iff.mp hr'), if_neg hq', hplace]

end Learn

/-- The learned entry stands in slot `j`, and its key has left the queue. -/
theorem learned_leaves (s : State) (r : List (Nat × Word)) (p j : Nat) (e : Entry) :
    let s' := cbUse (cbPut (learnTaken s r) j e) p 1
    s' = { s with regs := s'.regs, copybook := s'.copybook } ∧ s'.copybook.learn = r ∧ s'.copybook.served = 16
      ∧ (∀ k, k ≠ j → entry s' k = entry s k) ∧ entry s' j = e := by
  refine ⟨rfl, rfl, rfl, fun k hk => ?_, ?_⟩
  · rw [entry_cbUse, entry_cbPut, if_neg hk]; rfl
  · rw [entry_cbUse, entry_cbPut, if_pos rfl]

/-! ## What error records leave of PG_CTL and PG_INJECT (R321, R322, R384) -/

/-- PG_CTL and PG_INJECT of every page read as before. -/
def ControlsKept (s t : State) : Prop := ∀ a, a % 0x1000 = 0xC ∨ a % 0x1000 = 0x3C → reg t a = reg s a

theorem ControlsKept.refl (s : State) : ControlsKept s s := fun _ _ => rfl

theorem ControlsKept.trans {s t u : State} (h : ControlsKept s t) (h' : ControlsKept t u) : ControlsKept s u :=
  fun a ha => (h' a ha).trans (h a ha)

theorem ControlsKept.of_regs {s t : State} (h : t.regs = s.regs) : ControlsKept s t := fun a _ => reg_congr h a

theorem ControlsKept.setReg (s : State) {a : Nat} (v : Word) (h : a % 0x1000 ≠ 0xC ∧ a % 0x1000 ≠ 0x3C) :
    ControlsKept s (Machine.setReg s a v) := fun b hb => reg_setReg_other s v (by rintro rfl; omega)

theorem ControlsKept.capture (s : State) {page : Nat} (src : Nat) (r : Report) (hp : Based page) :
    ControlsKept s (Machine.capture s page src r) := by
  have store : ∀ s v o, 0x28 ≤ o ∧ o < 0x3C → ControlsKept s (Machine.setReg s (page + o) v) := fun s v o ho =>
    ControlsKept.setReg s v (by simp only [Based] at hp; omega)
  unfold Machine.capture
  split
  · exact ControlsKept.refl s
  · split <;>
    exact ((((store _ _ 0x28 (by omega)).trans (store _ _ 0x2C (by omega))).trans (store _ _ 0x30 (by omega))).trans
      (store _ _ 0x34 (by omega))).trans (store _ _ 0x38 (by omega))

theorem ControlsKept.sticky (s : State) {page : Nat} (i : Nat) (hp : Based page) :
    ControlsKept s (setFlag s (Reg.PG_ERR_STICKY page) i true) :=
  ControlsKept.setReg s _ (by simp only [Based] at hp; simp only [Reg.PG_ERR_STICKY]; omega)

theorem ControlsKept.irqRaw (s : State) {page : Nat} (i : Nat) (hp : Based page) :
    ControlsKept s (setFlag s (Reg.PG_IRQ_RAW page) i true) :=
  ControlsKept.setReg s _ (by simp only [Based] at hp; simp only [Reg.PG_IRQ_RAW]; omega)

theorem ControlsKept.recordOn (s : State) {page : Nat} {r : Report} (hp : Based page) (hs : r.sev < 4) :
    ControlsKept s (Machine.recordOn s page r) :=
  ((ControlsKept.sticky s _ hp).trans (ControlsKept.capture _ _ _ hp)).trans
    (ControlsKept.setReg _ _ (by simp only [Reg.BL_COUNT]; omega))

theorem ControlsKept.recordFolios (s : State) (r : Report) : ControlsKept s (Machine.recordFolios s r) := by
  have folio : ∀ (s : State) (page src i : Nat), Based page →
      ControlsKept s (Machine.capture (setFlag s (Reg.PG_ERR_STICKY page) i true) page src r) := fun s page src i hp =>
    (ControlsKept.sticky s i hp).trans (ControlsKept.capture _ _ _ hp)
  unfold Machine.recordFolios
  split
  · exact ControlsKept.refl s
  · split
    · exact ControlsKept.refl s
    · refine ControlsKept.trans ?_ (folio _ _ _ _ (by decide))
      split
      · exact folio _ _ _ _ (quillPage_mod _)
      · exact ControlsKept.refl s

theorem ControlsKept.recordFirst (s : State) (r : Report) : ControlsKept s (Machine.recordFirst s r) := by
  unfold Machine.recordFirst
  split
  · exact ControlsKept.refl s
  · exact (((ControlsKept.setReg s _ (by decide)).trans (ControlsKept.setReg _ _ (by decide))).trans
      (ControlsKept.setReg _ _ (by decide))).trans (ControlsKept.setReg _ _ (by decide))

theorem ControlsKept.recordLog (s : State) (r : Report) : ControlsKept s (Machine.recordLog s r) := by
  unfold Machine.recordLog
  split
  · exact ControlsKept.refl s
  · dsimp only
    split
    · exact (ControlsKept.of_regs (wrBytes_regs s _ _)).trans (ControlsKept.setReg _ _ (by decide))
    · exact (ControlsKept.setReg s _ (by decide)).trans (ControlsKept.recordOn _ (by decide) (by decide))

theorem ControlsKept.withIrq {s : State} {f : State → State} (h : ControlsKept s (f s)) : ControlsKept s (Machine.withIrq f s) :=
  h.trans (ControlsKept.of_regs rfl)

theorem ControlsKept.irq (s : State) {page : Nat} (i : Nat) (hp : Based page) : ControlsKept s (Machine.irq s page i) :=
  ControlsKept.withIrq (ControlsKept.irqRaw s i hp)

theorem ControlsKept.record (s : State) {r : Report} (hp : Based r.page) (hs : r.sev < 4) : ControlsKept s (Machine.record s r) := by
  have hb := headerPage_based hp
  have h := (((ControlsKept.recordOn s (r := { r with page := headerPage r.page }) hb hs).trans
    (ControlsKept.recordFolios _ { r with page := headerPage r.page })).trans
    (ControlsKept.recordFirst _ { r with page := headerPage r.page })).trans
    (ControlsKept.recordLog _ { r with page := headerPage r.page })
  unfold Machine.record
  refine ControlsKept.withIrq ?_
  dsimp only at h ⊢
  split
  · split
    · exact h.trans (ControlsKept.irqRaw _ _ hb)
    · exact h
  · exact h

theorem ControlsKept.note (s : State) {page : Nat} (src access mid addr : Nat) (hp : Based page) :
    ControlsKept s (Machine.note s page src access mid addr) := ControlsKept.record s hp (by simp)

/-! ## Aging (R96) -/

/-- What the scanner's visit of a slot leaves: the phase, the threads, its place, and the registers that it reads. -/
structure Scans (s t : State) : Prop where
  phase : t.phase = s.phase
  threads : t.threads = s.threads
  scan : t.copybook.scan = s.copybook.scan
  ages : ∀ q < 16, reg t (Reg.CBC_AGE q) = reg s (Reg.CBC_AGE q)
  controls : ControlsKept s t

theorem Scans.refl (s : State) : Scans s s := ⟨rfl, rfl, rfl, fun _ _ => rfl, ControlsKept.refl s⟩

theorem Scans.trans {s t u : State} (h : Scans s t) (h' : Scans t u) : Scans s u :=
  ⟨h'.phase.trans h.phase, h'.threads.trans h.threads, h'.scan.trans h.scan, fun q hq => (h'.ages q hq).trans (h.ages q hq),
    h.controls.trans h'.controls⟩

theorem Scans.of_records {s t : State} {l : List Nat} (h : Records s t l) (hl : ∀ q < 16, Reg.CBC_AGE q ∉ l) (hc : ControlsKept s t) :
    Scans s t := by
  refine ⟨by rw [h.1], by rw [h.1], by rw [h.1], fun q hq => h.2.1 _ (hl q hq) ?_ ?_, hc⟩ <;>
    simp only [Reg.CBC_AGE, Reg.blotterPage] <;> omega

theorem Scans.count (s : State) : Scans s (Machine.count s Reg.CB_EVENT_LOST) :=
  Scans.of_records (l := [Reg.CB_EVENT_LOST]) (Records.setReg s _ _ (.inl (List.mem_singleton_self _)))
    (fun q _ => by simp only [Reg.CBC_AGE, Reg.CB_EVENT_LOST, List.mem_singleton]; omega) (ControlsKept.setReg s _ (by decide))

theorem Scans.note (s : State) (src access mid addr : Nat) : Scans s (Machine.note s Reg.copybookPage src access mid addr) :=
  Scans.of_records (l := []) (Records.note _ _ _ _ _ _ (by decide)) (fun _ _ => List.not_mem_nil)
    (ControlsKept.note s src access mid addr (by decide))

theorem Scans.irq (s : State) (i : Nat) : Scans s (Machine.irq s Reg.copybookPage i) :=
  Scans.of_records (l := []) (Records.withIrq (Records.setFlag _ _ _ _ (.inr (.inl (by decide))))) (fun _ _ => List.not_mem_nil)
    (ControlsKept.irq s i (by decide))

/-- Another list of events or table of entries. -/
theorem Scans.copybook (s : State) {c : Copybook} (h : c.scan = s.copybook.scan) : Scans s { s with copybook := c } :=
  ⟨rfl, rfl, h, fun _ _ => rfl, ControlsKept.of_regs rfl⟩

theorem cbPost_scans (s : State) (ty data : Nat) : Scans s (cbPost s ty data) := by
  unfold cbPost
  split
  · exact ((Scans.count s).trans (Scans.note _ _ _ _ _)).trans (Scans.irq _ _)
  · refine Scans.trans ?_ (Scans.irq _ 0)
    exact Scans.copybook s rfl

/-- An event leaves the entries. -/
theorem entry_cbPost (s : State) (ty data j : Nat) : entry (cbPost s ty data) j = entry s j := by
  unfold cbPost
  split
  · have h : ∀ u : State, u.copybook = s.copybook → entry u j = entry s j := fun u hu => by unfold entry; rw [hu]
    refine h _ ?_
    show (note (count s Reg.CB_EVENT_LOST) Reg.copybookPage 3).copybook = _
    rw [(Records.note (l := []) _ _ _ _ _ _ (by decide)).1]
    rfl
  · rfl

theorem cbClear_scans (s : State) (i : Nat) : Scans s (cbClear s i) := by
  have hput : Scans { s with copybook := (cbPut s i {}).copybook } (cbPut s i {}) :=
    Scans.of_records (cbPut_frame s i {}).records (fun q _ => by
        simp only [slotRegs, Reg.CBC_AGE, Reg.CB_USED, Reg.CB_MIGRATE_LEFT, List.mem_cons, List.not_mem_nil, or_false]; omega)
      fun a ha => (cbPut_frame s i {}).2 a (by
        simp only [slotRegs, Reg.CB_USED, Reg.CB_MIGRATE_LEFT, List.mem_cons, List.not_mem_nil, or_false]; omega)
  have hcopy : Scans s { s with copybook := (cbPut s i {}).copybook } := Scans.copybook s rfl
  refine (hcopy.trans hput).trans (Scans.of_records (cbUse_frame _ _ _).records (fun q _ => ?_) fun a ha => ?_)
  · simp only [Reg.CBC_AGE, Reg.CBC_USE, List.mem_singleton]; omega
  · refine (cbUse_frame _ _ _).2 a ?_
    have hpid := bits_lt (entry s i).w0 27 24
    simp only [Reg.CBC_USE, List.mem_singleton, entryPid]
    omega

/-- The scanner deletes an entry: it is valid and stale, and its partition says so. -/
abbrev AgesOut (s : State) (e : Entry) : Prop :=
  entryValid e = true ∧ cbStale s e = true ∧ flag s (Reg.CBC_AGE (entryPid e)) 30 = true

theorem Scans.agesOut {s t : State} (h : Scans s t) (e : Entry) : AgesOut t e ↔ AgesOut s e := by
  have hage : reg t (Reg.CBC_AGE (entryPid e)) = reg s (Reg.CBC_AGE (entryPid e)) := h.ages _ (bits_lt e.w0 27 24)
  have hctl : reg t (Reg.PG_CTL Reg.copybookPage) = reg s (Reg.PG_CTL Reg.copybookPage) := h.controls _ (.inl (by decide))
  have hstale : cbStale t e = cbStale s e := by
    unfold cbStale enField fld flag
    dsimp only
    rw [hage, hctl, h.phase]
  rw [AgesOut, hstale, flag_congr hage]

theorem Scans.noArm {s t : State} (h : Scans s t) {src : Nat} (ha : NoArm s Reg.copybookPage src) : NoArm t Reg.copybookPage src := by
  unfold NoArm flag fld
  rw [h.controls _ (.inr (by decide))]
  exact ha

/-- The scanner's visit of a good slot. -/
theorem ageSlot_visits {s : State} {i : Nat} (h0 : NoArm s Reg.copybookPage 0) (h1 : NoArm s Reg.copybookPage 1)
    (hg : parityOk (entry s i) = true) : Scans s (ageSlot s i)
      ∧ ∀ k, entry (ageSlot s i) k = if k = i ∧ AgesOut s (entry s i) then {} else entry s k := by
  unfold ageSlot
  simp only [cbInjected_none h0 h1, hg, not_true_eq_false, if_false, Bool.false_eq_true]
  split
  case isTrue hstay =>
    have hn : ¬ AgesOut s (entry s i) := fun h => hstay.elim (fun hv => hv h.1) fun hs => hs h.2.1
    exact ⟨Scans.refl s, fun k => by rw [if_neg fun h => hn h.2]⟩
  case isFalse hstale =>
    simp only [not_or, not_not] at hstale
    split
    case isTrue hdel =>
      refine ⟨(cbClear_scans s i).trans (cbPost_scans _ _ _), fun k => ?_⟩
      rw [entry_cbPost, entry_cbClear]
      exact if_congr (and_iff_left ⟨hstale.1, hstale.2, hdel⟩).symm rfl rfl
    case isFalse hkeep =>
      exact ⟨cbPost_scans _ _ _, fun k => by rw [entry_cbPost, if_neg fun h => hkeep h.2.2.2]⟩

/-- The scanner's visit of several slots, one after another. -/
theorem ageSlots_visit {l : List Nat} (hn : l.Nodup) (s : State) (h0 : NoArm s Reg.copybookPage 0) (h1 : NoArm s Reg.copybookPage 1)
    (hg : ∀ i ∈ l, parityOk (entry s i) = true) : Scans s (l.foldl ageSlot s)
      ∧ ∀ k, entry (l.foldl ageSlot s) k = if k ∈ l ∧ AgesOut s (entry s k) then {} else entry s k := by
  induction l generalizing s with
  | nil => exact ⟨Scans.refl s, fun k => by simp⟩
  | cons i l ih =>
    obtain ⟨hi, hn⟩ := List.nodup_cons.mp hn
    obtain ⟨hscan, hent⟩ := ageSlot_visits h0 h1 (hg i List.mem_cons_self)
    have hother : ∀ k ≠ i, entry (ageSlot s i) k = entry s k := fun k hk => by rw [hent, if_neg fun h => hk h.1]
    obtain ⟨hscan', hent'⟩ := ih hn (ageSlot s i) (hscan.noArm h0) (hscan.noArm h1) fun k hk => by
      rw [hother k fun e => hi (e ▸ hk)]
      exact hg k (List.mem_cons_of_mem i hk)
    refine ⟨hscan.trans hscan', fun k => ?_⟩
    rw [List.foldl_cons, hent']
    by_cases hk : k = i
    · subst hk
      rw [if_neg fun h => hi h.1, hent]
      exact if_congr (by simp) rfl rfl
    · rw [hother k hk]
      exact if_congr (by rw [hscan.agesOut, List.mem_cons, or_iff_right hk]) rfl rfl

/-- AGING_SCAN of a bucket whose slots are good. -/
theorem agingScan_visits {s : State} (hst : starts s Reg.copybookPage = true) (h0 : NoArm s Reg.copybookPage 0)
    (h1 : NoArm s Reg.copybookPage 1) (hg : ∀ i ∈ waysOf s.copybook.scan, parityOk (entry s i) = true) :
    (agingScan s).copybook.scan = (s.copybook.scan + 1) % 524288 ∧ (agingScan s).threads = s.threads
      ∧ ∀ i, entry (agingScan s) i = if i ∈ waysOf s.copybook.scan ∧ AgesOut s (entry s i) then {} else entry s i := by
  obtain ⟨hscan, hent⟩ := ageSlots_visit (l := waysOf s.copybook.scan) (by simp [waysOf]) s h0 h1 hg
  unfold agingScan
  rw [if_neg (by simp [hst])]
  exact ⟨rfl, hscan.threads, hent⟩

/-! ## Migration (R98) -/

theorem cbLeft_congr {s t : State} (hc : t.copybook = s.copybook) (h0 : reg t Reg.CB_SEED_B0 = reg s Reg.CB_SEED_B0)
    (h1 : reg t Reg.CB_SEED_B1 = reg s Reg.CB_SEED_B1) : cbLeft t = cbLeft s := by
  unfold cbLeft inNext bucketsB
  rw [hc, h0, h1]

/-- The count is the number of entries left, in its 22 bits. -/
theorem cbRecount_counts (s : State) :
    OnlyRegs s (cbRecount s) [Reg.CB_MIGRATE_LEFT] ∧ fld (cbRecount s) Reg.CB_MIGRATE_LEFT 21 0 = cbLeft s % 2 ^ 22 := by
  refine ⟨OnlyRegs.setReg s _ (List.mem_singleton_self _), ?_⟩
  unfold fld cbRecount
  rw [reg_setFld, if_pos rfl, bits_setBits _ _ _ _ (by omega) (by omega)]

theorem migrateSet_starts {s : State} (hm : migrating s = false) :
    OnlyRegs s (migrateSet s) [Reg.CB_CTL, Reg.CB_MIGRATE_LEFT] ∧ migrating (migrateSet s) = true
      ∧ fld (migrateSet s) Reg.CB_MIGRATE_LEFT 21 0 = cbLeft s % 2 ^ 22 := by
  have he : migrateSet s = cbRecount (setFlag s Reg.CB_CTL 0 true) := if_neg (by simp [hm])
  obtain ⟨honly, hleft⟩ := cbRecount_counts (setFlag s Reg.CB_CTL 0 true)
  have hset : OnlyRegs s (setFlag s Reg.CB_CTL 0 true) [Reg.CB_CTL, Reg.CB_MIGRATE_LEFT] := OnlyRegs.setReg s _ (by simp)
  rw [he]
  refine ⟨hset.trans (honly.mono (by simp)), ?_, ?_⟩
  · unfold migrating
    rw [flag_congr (honly.2 _ (by decide)), flag_setFlag]
    rfl
  · rw [hleft, cbLeft_congr (s := s) (t := setFlag s Reg.CB_CTL 0 true) rfl (hset.2 Reg.CB_SEED_B0 (by decide)) (hset.2 Reg.CB_SEED_B1 (by decide))]

theorem migrateClear_ends {s : State} (hm : migrating s = true) (hl : fld s Reg.CB_MIGRATE_LEFT 21 0 = 0) :
    let s' := migrateClear s
    OnlyRegs s s' [Reg.CB_CTL, Reg.CB_SEED_A0, Reg.CB_SEED_A1] ∧ migrating s' = false ∧ reg s' Reg.CB_SEED_A0 = reg s Reg.CB_SEED_B0
      ∧ reg s' Reg.CB_SEED_A1 = reg s Reg.CB_SEED_B1 ∧ ∀ x, bucketsA s' x = bucketsB s x := by
  have he : migrateClear s = setReg (setReg (setFlag s Reg.CB_CTL 0 false) Reg.CB_SEED_A0 (reg s Reg.CB_SEED_B0))
      Reg.CB_SEED_A1 (reg s Reg.CB_SEED_B1) := by
    unfold migrateClear
    rw [if_neg (by simp [hm]), if_neg (by simp [hl])]
  have hA0 : reg (migrateClear s) Reg.CB_SEED_A0 = reg s Reg.CB_SEED_B0 := by
    rw [he, reg_setReg, if_neg (by decide), reg_setReg, if_pos rfl]
  have hA1 : reg (migrateClear s) Reg.CB_SEED_A1 = reg s Reg.CB_SEED_B1 := by rw [he, reg_setReg, if_pos rfl]
  refine ⟨?_, ?_, hA0, hA1, fun x => ?_⟩
  · rw [he]
    exact ((OnlyRegs.setReg s _ (by simp)).trans (OnlyRegs.setReg _ _ (by simp))).trans (OnlyRegs.setReg _ _ (by simp))
  · have hctl : reg (migrateClear s) Reg.CB_CTL = reg (setFlag s Reg.CB_CTL 0 false) Reg.CB_CTL := by
      rw [he, reg_setReg, if_neg (by decide), reg_setReg, if_neg (by decide)]
    unfold migrating
    rw [flag_congr hctl, flag_setFlag]
    rfl
  · unfold bucketsA bucketsB
    rw [hA0, hA1]

theorem migrateClear_refuses {s : State} (hm : migrating s = true) (hl : fld s Reg.CB_MIGRATE_LEFT 21 0 ≠ 0) :
    Noted s (migrateClear s) [] Reg.copybookPage 4 := by
  have he : migrateClear s = refuseWrite s Reg.copybookPage 0x04 Reg.CB_CTL := by
    unfold migrateClear
    rw [if_neg (by simp [hm]), if_pos hl]
  rw [he]
  exact noted_refuseWrite s _ _ _ [] (by decide) copybook_header (by decide)

/-- The four seed registers. -/
abbrev seedRegs : List Nat := [Reg.CB_SEED_A0, Reg.CB_SEED_A1, Reg.CB_SEED_B0, Reg.CB_SEED_B1]

theorem swapSeeds_swaps (s : State) : OnlyRegs s (swapSeeds s) seedRegs ∧ ∀ x, bucketsA (swapSeeds s) x = bucketsB s x
    ∧ bucketsB (swapSeeds s) x = bucketsA s x := by
  refine ⟨(((OnlyRegs.setReg s _ ?_).trans (OnlyRegs.setReg _ _ ?_)).trans (OnlyRegs.setReg _ _ ?_)).trans
    (OnlyRegs.setReg _ _ ?_), fun x => ⟨?_, ?_⟩⟩
  · simp
  · simp
  · simp
  · simp
  · simp only [bucketsA, bucketsB, swapSeeds, reg_setReg, Reg.CB_SEED_A0, Reg.CB_SEED_A1, Reg.CB_SEED_B0, Reg.CB_SEED_B1]
    rfl
  · simp only [bucketsA, bucketsB, swapSeeds, reg_setReg, Reg.CB_SEED_A0, Reg.CB_SEED_A1, Reg.CB_SEED_B0, Reg.CB_SEED_B1]
    rfl

theorem cbSwap_swaps {s : State} (hm : migrating s = true) :
    OnlyRegs s (cbSwap s) [Reg.CB_SEED_A0, Reg.CB_SEED_A1, Reg.CB_SEED_B0, Reg.CB_SEED_B1, Reg.CB_MIGRATE_LEFT]
      ∧ ∀ x, bucketsA (cbSwap s) x = bucketsB s x ∧ bucketsB (cbSwap s) x = bucketsA s x := by
  have he : cbSwap s = cbRecount (swapSeeds s) := if_pos hm
  obtain ⟨hswap, hb⟩ := swapSeeds_swaps s
  have hcount := (cbRecount_counts (swapSeeds s)).1
  rw [he]
  refine ⟨(hswap.mono (by simp)).trans (hcount.mono (by simp)), fun x => ?_⟩
  unfold bucketsA bucketsB at hb ⊢
  rw [hcount.2 _ (by decide), hcount.2 _ (by decide), hcount.2 _ (by decide), hcount.2 _ (by decide)]
  exact hb x

/-! ## The statement -/

/-- Settles O33: learning by what a lookup finds, aging slot after slot of the bucket, the migration's registers under one lemma
each, and the event queue by its head. -/
theorem copybookUpkeep : Obligations.CopybookUpkeep := by
  unfold Obligations.CopybookUpkeep
  refine ⟨fun s p x r hl hw hon h0 h1 h16 hp hx hg => ⟨fun j hf => ?stands, fun j hf _ hr hq hj => ?learns⟩,
    fun s hst h0 h1 hg => ⟨_, rfl, agingScan_visits hst h0 h1 hg⟩,
    fun s => ⟨fun hm => ⟨_, rfl, migrateSet_starts hm⟩,
      fun hm => ⟨fun hl => ⟨_, rfl, migrateClear_ends hm hl⟩, fun hl => ⟨_, rfl, migrateClear_refuses hm hl⟩, _, rfl, cbSwap_swaps hm⟩,
      fun e r he => ?event, fun he => ?noEvent⟩⟩
  case stands =>
    exact ⟨_, congrArg Host.Outcome.next (learnServe_drops hl hw hon h0 h1 hg hf), rfl⟩
  case learns =>
    have hserve := learnServe_learns hl hw hon h0 h1 hg h16 hp hx hf hr hq hj
    obtain ⟨hframe, hlearn, hserved, hother, hj'⟩ := learned_leaves s r p j (cbTemplateEntry s p x)
    refine ⟨_, congrArg Host.Outcome.next hserve, hframe, hlearn, hserved, hother, ?_⟩
    rw [hj']
    exact cbTemplateEntry_fields s h16 hp hx
  case event =>
    show Host.Outcome.next (cbEventPop s) = _
    unfold cbEventPop
    rw [he]
    rfl
  case noEvent =>
    show Host.Outcome.next (cbEventPop s) = _
    unfold cbEventPop
    rw [he]
    rfl

end Sys2Proof.Machine
end

section
/-! PROOFS. The flags of ST: what each setter and each operation of the integer and decimal units leaves of every bit (O2, O3). -/

namespace Sys2Proof.Machine

/-! ## One bit of ST after each setter (R105) -/

/-- Fields with the same bits are the same. -/
theorem bits_congr {n : Nat} {v w : BitVec n} {hi lo : Nat} (h : ∀ i, lo ≤ i → i ≤ hi → bit v i = bit w i) :
    bits v hi lo = bits w hi lo := by
  apply Nat.eq_of_testBit_eq
  intro i
  rw [testBit_bits, testBit_bits]
  by_cases hi' : i < hi + 1 - lo
  · rw [h (lo + i) (by omega) (by omega)]
  · simp [hi']

theorem bit_setZ (st : Word) (b : Bool) (i : Nat) : bit (setZ st b) i = if i = 0 then b else bit st i := by
  rw [setZ, bit_setBit]; split <;> simp [*]

theorem bit_setC (st : Word) (b : Bool) (i : Nat) : bit (setC st b) i = if i = 2 then b else bit st i := by
  rw [setC, bit_setBit]; split <;> simp [*]

theorem bit_setZN (st r : Word) (i : Nat) :
    bit (setZN st r) i = if i = 0 then decide (r = 0) else if i = 1 then bit r 31 else bit st i := by
  rw [setZN, bit_setBit, bit_setBit]
  split
  · next h => subst h; simp
  · split <;> simp [*]

theorem bit_setV (st : Word) (b : Bool) (i : Nat) :
    bit (setV st b) i = if i = 3 then b else if i = 16 then bit st 16 || b else bit st i := by
  unfold setV
  cases b <;> simp only [Bool.false_eq_true, if_false, if_true, bit_setBit]
  · split
    · simp [*]
    · split <;> simp [*]
  · split
    · next h => subst h; simp
    · split <;> simp [*]

theorem bit_setNC (st : Word) (v i : Nat) :
    bit (setNC st v) i = if 8 ≤ i ∧ i ≤ 15 then v.testBit (i - 8) else bit st i := by
  rw [setNC, bit_setBits _ _ _ _ _ (by decide)]
  split
  · next h => simp [show i < 32 by omega]
  · rfl

theorem bit_decFlags (st r : Word) (c : Bool) (i : Nat) : bit (decFlags st r c) i
    = if i = 0 then decide (r = 0) else if i = 1 then false else if i = 2 then c else if i = 3 then false else bit st i := by
  simp only [decFlags, bit_setBit, bit_setC, bit_setZ, Bool.and_false]
  by_cases h3 : i = 3
  · subst h3; rfl
  · by_cases h1 : i = 1
    · subst h1; rfl
    · by_cases h0 : i = 0
      · subst h0; rfl
      · simp [h0, h1, h3]

/-! ## Bits that an operation leaves (R105, R115) -/

/-- Bits `lo` to `hi` of ST are as before. -/
def Leaves (lo hi : Nat) (st st' : Word) : Prop := ∀ i, lo ≤ i → i ≤ hi → bit st' i = bit st i

theorem Leaves.refl (lo hi : Nat) (st : Word) : Leaves lo hi st st := fun _ _ _ => rfl

theorem Leaves.trans {lo hi : Nat} {st st' st'' : Word} (h : Leaves lo hi st st') (h' : Leaves lo hi st' st'') :
    Leaves lo hi st st'' := fun i hl hh => (h' i hl hh).trans (h i hl hh)

theorem Leaves.bits {lo hi : Nat} {st st' : Word} (h : Leaves lo hi st st') : bits st' hi lo = bits st hi lo := bits_congr h

theorem Leaves.setBit {lo hi : Nat} (st : Word) (j : Nat) (b : Bool) (hj : j < lo ∨ hi < j) : Leaves lo hi st (setBit st j b) :=
  fun i hl hh => by rw [bit_setBit, if_neg (by omega)]

theorem Leaves.setZ {lo hi : Nat} (st : Word) (b : Bool) (h : 1 ≤ lo) : Leaves lo hi st (setZ st b) :=
  fun i hl _ => by rw [bit_setZ, if_neg (by omega)]

theorem Leaves.setC {lo hi : Nat} (st : Word) (b : Bool) (h : 3 ≤ lo) : Leaves lo hi st (setC st b) :=
  fun i hl _ => by rw [bit_setC, if_neg (by omega)]

theorem Leaves.setZN {lo hi : Nat} (st r : Word) (h : 2 ≤ lo) : Leaves lo hi st (setZN st r) :=
  fun i hl _ => by rw [bit_setZN, if_neg (by omega), if_neg (by omega)]

theorem Leaves.setV {lo hi : Nat} (st : Word) (b : Bool) (h : 4 ≤ lo) (h' : 16 < lo ∨ hi < 16) : Leaves lo hi st (setV st b) :=
  fun i hl hh => by rw [bit_setV, if_neg (by omega), if_neg (by omega)]

theorem Leaves.setNC {lo hi : Nat} (st : Word) (v : Nat) (h : 16 ≤ lo) : Leaves lo hi st (setNC st v) :=
  fun i hl _ => by rw [bit_setNC, if_neg (by omega)]

theorem Leaves.decFlags {lo hi : Nat} (st r : Word) (c : Bool) (h : 4 ≤ lo) : Leaves lo hi st (decFlags st r c) :=
  fun i hl _ => by rw [bit_decFlags, if_neg (by omega), if_neg (by omega), if_neg (by omega), if_neg (by omega)]

/-! ## The exact value and the wrapped word (R115, R124) -/

/-- A bit of a number that lists conditions. -/
theorem testBit_sum_range (f : Nat → Prop) [DecidablePred f] {n i : Nat} (h : i < n) :
    (((List.range n).map (fun j => if f j then 2 ^ j else 0)).sum).testBit i = decide (f i) := by
  have low : ∀ m, ((List.range m).map (fun j => if f j then 2 ^ j else 0)).sum < 2 ^ m := fun m => by
    induction m with
    | zero => simp
    | succ m ih =>
      rw [List.range_succ, List.map_append, List.sum_append, Nat.pow_succ]
      simp only [List.map_cons, List.map_nil, List.sum_cons, List.sum_nil]
      split <;> omega
  induction n with
  | zero => omega
  | succ n ih =>
    rw [List.range_succ, List.map_append, List.sum_append]
    simp only [List.map_cons, List.map_nil, List.sum_cons, List.sum_nil, Nat.add_zero]
    rcases Nat.lt_or_eq_of_le (Nat.le_of_lt_succ h) with hi | rfl
    · split
      · rw [Nat.add_comm, Nat.testBit_two_pow_add_gt hi, ih hi]
      · rw [Nat.add_zero, ih hi]
    · split
      · next hf => rw [Nat.add_comm, Nat.testBit_two_pow_add_eq, Nat.testBit_lt_two_pow (low i)]; simp [hf]
      · next hf => rw [Nat.add_zero, Nat.testBit_lt_two_pow (low i)]; simp [hf]

/-- A nibble carry of a sum, and a nibble borrow of a difference. -/
theorem testBit_addNc (a b : Word) (c : Nat) {i : Nat} (h : i < 8) :
    (addNc a b c).testBit i = decide (16 ^ (i + 1) ≤ a.toNat % 16 ^ (i + 1) + b.toNat % 16 ^ (i + 1) + c) :=
  testBit_sum_range (fun i => 16 ^ (i + 1) ≤ a.toNat % 16 ^ (i + 1) + b.toNat % 16 ^ (i + 1) + c) h

theorem testBit_subNc (a b : Word) (c : Nat) {i : Nat} (h : i < 8) :
    (subNc a b c).testBit i = decide (a.toNat % 16 ^ (i + 1) < b.toNat % 16 ^ (i + 1) + c) :=
  testBit_sum_range (fun i => a.toNat % 16 ^ (i + 1) < b.toNat % 16 ^ (i + 1) + c) h

theorem stNc_aluAdd (st a b : Word) (c : Nat) {i : Nat} (h : i < 8) : stNc (aluAdd st a b c).st i
    = decide (16 ^ (i + 1) ≤ a.toNat % 16 ^ (i + 1) + b.toNat % 16 ^ (i + 1) + c) := by
  unfold stNc aluAdd
  rw [bit_setNC, if_pos (by omega), show 8 + i - 8 = i by omega, testBit_addNc a b c h]

theorem stNc_aluSub (st a b : Word) (c : Nat) {i : Nat} (h : i < 8) : stNc (aluSub st a b c).st i
    = decide (a.toNat % 16 ^ (i + 1) < b.toNat % 16 ^ (i + 1) + c) := by
  unfold stNc aluSub
  rw [bit_setNC, if_pos (by omega), show 8 + i - 8 = i by omega, testBit_subNc a b c h]

end Sys2Proof.Machine
end

section
/-! PROOFS. Packed decimal and its correction (O13, O14). -/

namespace Sys2Proof.Machine

/-! ## Nibbles and their carries (R116, R129) -/

/-- Digit `i` of a word as a nibble of its number. -/
theorem digit_eq (a : Word) (i : Nat) : digit a i = a.toNat / 16 ^ i % 16 := by
  unfold digit bits
  rw [Nat.shiftRight_eq_div_pow, Nat.pow_mul, show 4 * i + 3 + 1 - 4 * i = 4 by omega]
  rfl

/-- The low `i + 1` nibbles of a number are its low `i` nibbles and nibble `i` above them. -/
theorem mod_pow_succ (x i : Nat) : x % 16 ^ (i + 1) = x % 16 ^ i + 16 ^ i * (x / 16 ^ i % 16) := by
  rw [Nat.pow_succ, Nat.mod_mul]

/-- The carry into nibble `i` of a + b + c. -/
def carryInto (a b c i : Nat) : Nat := (a % 16 ^ i + b % 16 ^ i + c) / 16 ^ i

theorem carryInto_succ (a b c i : Nat) : carryInto a b c (i + 1) = (a / 16 ^ i % 16 + b / 16 ^ i % 16 + carryInto a b c i) / 16 := by
  have hp : 0 < 16 ^ i := Nat.pow_pos (by decide)
  unfold carryInto
  rw [mod_pow_succ, mod_pow_succ, Nat.pow_succ, ← Nat.div_div_eq_div_mul,
    show a % 16 ^ i + 16 ^ i * (a / 16 ^ i % 16) + (b % 16 ^ i + 16 ^ i * (b / 16 ^ i % 16)) + c
      = a % 16 ^ i + b % 16 ^ i + c + 16 ^ i * (a / 16 ^ i % 16 + b / 16 ^ i % 16) by ring,
    Nat.add_mul_div_left _ _ hp, Nat.add_comm]

/-- The carry into a nibble is 1 when the nibbles below overflow. -/
theorem carryInto_eq {a b c : Nat} (hc : c ≤ 1) (i : Nat) :
    carryInto a b c i = (decide (16 ^ i ≤ a % 16 ^ i + b % 16 ^ i + c)).toNat := by
  have hp : 0 < 16 ^ i := Nat.pow_pos (by decide)
  have ha := Nat.mod_lt a hp
  have hb := Nat.mod_lt b hp
  unfold carryInto
  by_cases h : 16 ^ i ≤ a % 16 ^ i + b % 16 ^ i + c
  · simp only [h, decide_true, Bool.toNat_true]
    exact Nat.div_eq_of_lt_le (by omega) (by omega)
  · simp only [h, decide_false, Bool.toNat_false]
    exact Nat.div_eq_of_lt (by omega)

/-- A nibble of a sum with the carry out of it is the sum of the nibbles and of the carry into them. -/
theorem nibble_add (a b c i : Nat) : (a + b + c) / 16 ^ i % 16 + 16 * carryInto a b c (i + 1)
    = a / 16 ^ i % 16 + b / 16 ^ i % 16 + carryInto a b c i := by
  have hp : 0 < 16 ^ i := Nat.pow_pos (by decide)
  have hsum : a + b + c = a % 16 ^ i + b % 16 ^ i + c + 16 ^ i * (a / 16 ^ i + b / 16 ^ i) := by
    have ha := Nat.mod_add_div a (16 ^ i)
    have hb := Nat.mod_add_div b (16 ^ i)
    rw [Nat.mul_add]; omega
  have hdiv : (a + b + c) / 16 ^ i = carryInto a b c i + (a / 16 ^ i + b / 16 ^ i) := by
    rw [hsum, Nat.add_mul_div_left _ _ hp]; rfl
  rw [hdiv, carryInto_succ]
  omega

/-- A difference borrows below a place when adding the subtrahend back carries. -/
theorem borrow_iff_carry {a b c x p : Nat} (hp : 0 < p) (hc : c ≤ 1) (h : a % p = (x + b + c) % p) :
    a % p < b % p + c ↔ p ≤ x % p + b % p + c := by
  have hx := Nat.mod_lt x hp
  have hb := Nat.mod_lt b hp
  have hs : a % p = (x % p + b % p + c) % p := by rw [h]; simp [Nat.add_mod]
  by_cases hle : p ≤ x % p + b % p + c
  · have he : (x % p + b % p + c) % p = x % p + b % p + c - p := by
      rw [Nat.mod_eq_sub_mod hle]
      exact Nat.mod_eq_of_lt (by omega)
    omega
  · have he : (x % p + b % p + c) % p = x % p + b % p + c := Nat.mod_eq_of_lt (by omega)
    omega

/-- A word cut to nibbles is its number's residue. -/
theorem nibbles_mod (n : Nat) {i : Nat} (h : i ≤ 8) : n % 2 ^ 32 % 16 ^ i = n % 16 ^ i := by
  rw [show (2 : Nat) ^ 32 = 16 ^ 8 by norm_num]
  exact Nat.mod_mod_of_dvd n (pow_dvd_pow 16 h)

/-! ## Numbers of eight digits (R128) -/

/-- The number that the low `n` digits of a word spell. -/
def lowDigits (a : Word) (n : Nat) : Nat := ((List.range n).map (fun i => digit a i * 10 ^ i)).sum

theorem lowDigits_succ (a : Word) (n : Nat) : lowDigits a (n + 1) = lowDigits a n + 10 ^ n * digit a n := by
  simp [lowDigits, List.range_succ, Nat.mul_comm]

theorem decVal_eq (a : Word) : decVal a = lowDigits a 8 := rfl

theorem digit_le {a : Word} (h : decOk a = true) {i : Nat} (hi : i < 8) : digit a i ≤ 9 := by
  simp only [decOk, List.all_eq_true, List.mem_range, decide_eq_true_eq] at h
  exact h i hi

theorem lowDigits_lt {a : Word} (h : decOk a = true) {n : Nat} (hn : n ≤ 8) : lowDigits a n < 10 ^ n := by
  induction n with
  | zero => simp [lowDigits]
  | succ n ih =>
    have := ih (by omega)
    have hd : 10 ^ n * digit a n ≤ 10 ^ n * 9 := Nat.mul_le_mul_left _ (digit_le h (by omega))
    rw [lowDigits_succ, Nat.pow_succ]
    omega

theorem packDec_succ (n v : Nat) : packDec (n + 1) v = packDec n v + 16 ^ n * (v / 10 ^ n % 10) := by
  induction n generalizing v with
  | zero => simp [packDec]
  | succ n ih =>
    rw [packDec, ih (v / 10), packDec, Nat.div_div_eq_div_mul, ← Nat.pow_succ', Nat.pow_succ 16]
    ring

theorem packDec_lt (n v : Nat) : packDec n v < 16 ^ n := by
  induction n with
  | zero => simp [packDec]
  | succ n ih =>
    have : 16 ^ n * (v / 10 ^ n % 10) ≤ 16 ^ n * 9 := Nat.mul_le_mul_left _ (by omega)
    rw [packDec_succ, Nat.pow_succ]
    omega

/-- Packed digits depend on the number's residue alone. -/
theorem packDec_congr {n v v' : Nat} (h : v % 10 ^ n = v' % 10 ^ n) : packDec n v = packDec n v' := by
  induction n generalizing v v' with
  | zero => rfl
  | succ n ih =>
    have h10 : v % 10 = v' % 10 := by
      have := congrArg (· % 10) h
      simpa [Nat.pow_succ', Nat.mod_mul_right_mod] using this
    have hd : v / 10 % 10 ^ n = v' / 10 % 10 ^ n := by
      rw [Nat.pow_succ'] at h
      have := congrArg (· / 10) h
      simpa [Nat.mod_mul_right_div_self] using this
    rw [packDec, packDec, h10, ih hd]

/-- Nibble `i` of packed digits. -/
theorem packDec_nibble {n i : Nat} (v : Nat) (h : i < n) : packDec n v / 16 ^ i % 16 = v / 10 ^ i % 10 := by
  induction n with
  | zero => omega
  | succ n ih =>
    rw [packDec_succ]
    rcases Nat.lt_or_eq_of_le (Nat.le_of_lt_succ h) with hi | rfl
    · rw [show 16 ^ n = 16 ^ i * (16 * 16 ^ (n - i - 1)) by rw [← Nat.pow_succ', ← Nat.pow_add]; congr 1; omega,
        Nat.mul_assoc, Nat.add_mul_div_left _ _ (Nat.pow_pos (by decide)), Nat.mul_assoc, Nat.add_mul_mod_self_left, ih hi]
    · rw [Nat.add_mul_div_left _ _ (Nat.pow_pos (by decide)), Nat.div_eq_of_lt (packDec_lt _ _)]
      omega

/-- A word of the low nibbles. -/
theorem word_toNat {n : Nat} (h : n < 2 ^ 32) : (word n).toNat = n := by
  simpa [word] using Nat.mod_eq_of_lt h

theorem packDec8_lt (v : Nat) : packDec 8 v < 2 ^ 32 := by simpa using packDec_lt 8 v

theorem digit_packDec (v : Nat) {i : Nat} (h : i < 8) : digit (word (packDec 8 v)) i = v / 10 ^ i % 10 := by
  rw [digit_eq, word_toNat (packDec8_lt v), packDec_nibble v h]

theorem decOk_packDec (v : Nat) : decOk (word (packDec 8 v)) = true := by
  simp only [decOk, List.all_eq_true, List.mem_range, decide_eq_true_eq]
  intro i hi
  rw [digit_packDec v hi]
  omega

/-- Packed digits spell their number. -/
theorem decVal_packDec {v : Nat} (h : v < 100000000) : decVal (word (packDec 8 v)) = v := by
  have low : ∀ n ≤ 8, lowDigits (word (packDec 8 v)) n = v % 10 ^ n := fun n => by
    induction n with
    | zero => intro _; simp [lowDigits, Nat.mod_one]
    | succ n ih =>
      intro hn
      rw [lowDigits_succ, ih (by omega), digit_packDec v (by omega), Nat.pow_succ, Nat.mod_mul]
  rw [decVal_eq, low 8 (by omega)]
  exact Nat.mod_eq_of_lt h

/-- A word of valid digits is the packed digits of its number. -/
theorem packDec_decVal {a : Word} (h : decOk a = true) : packDec 8 (decVal a) = a.toNat := by
  have low : ∀ n ≤ 8, packDec n (lowDigits a n) = a.toNat % 16 ^ n := fun n => by
    induction n with
    | zero => intro _; simp [packDec, Nat.mod_one]
    | succ n ih =>
      intro hn
      have hlt := lowDigits_lt h (n := n) (by omega)
      have hd := digit_le h (i := n) (by omega)
      have hq : (lowDigits a n + 10 ^ n * digit a n) / 10 ^ n = digit a n := by
        rw [Nat.add_mul_div_left _ _ (Nat.pow_pos (by decide)), Nat.div_eq_of_lt hlt, Nat.zero_add]
      rw [packDec_succ, lowDigits_succ, packDec_congr (v' := lowDigits a n) (by simp), ih (by omega), hq, mod_pow_succ, ← digit_eq,
        Nat.mod_eq_of_lt (show digit a n < 10 by omega)]
  rw [decVal_eq, low 8 (by omega)]
  exact Nat.mod_eq_of_lt (by have := a.isLt; omega)

end Sys2Proof.Machine
end

section
/-! PROOFS. DCA and DCS after a binary sum or difference (O14). -/

namespace Sys2Proof.Machine

/-! ## The correction nibble by nibble (R129) -/

/-- The value t of nibble `i`, with `prev` the NC bit below it and `k` carried or borrowed into it. -/
def adjValue (x st : Word) (sub : Bool) (i k prev : Nat) : Int :=
  if sub then (digit x i : Int) - 16 * (stNc st i).toNat + prev - k else (digit x i : Int) + 16 * (stNc st i).toNat - prev + k

/-- A nibble carries, or borrows. -/
def adjOut (sub : Bool) (t : Int) : Bool := if sub then decide (t < 0) else decide (10 ≤ t)

/-- The nibble that is stored. -/
def adjNibble (sub : Bool) (t : Int) : Nat := ((t + (if adjOut sub t then (if sub then 10 else -10) else 0)) % 16).toNat

theorem adjNibble_lt (sub : Bool) (t : Int) : adjNibble sub t < 16 := by unfold adjNibble; omega

theorem adjNibble_cast (sub : Bool) (t : Int) :
    (adjNibble sub t : Int) = (t + (if adjOut sub t then (if sub then 10 else -10) else 0)) % 16 :=
  Int.toNat_of_nonneg (Int.emod_nonneg _ (by decide))

/-- One step of the correction, of a sum and of a difference alike. -/
theorem adjustStep_eq (x st : Word) (sub : Bool) (ds k prev i : Nat) :
    adjustStep x st sub (ds, k, prev) i = (ds + 16 ^ i * adjNibble sub (adjValue x st sub i k prev),
      (adjOut sub (adjValue x st sub i k prev)).toNat, (stNc st i).toNat) := by
  unfold adjustStep adjValue
  cases sub
  · dsimp only [Bool.false_eq_true, if_false]
    generalize (digit x i : Int) + 16 * (stNc st i).toNat - prev + k = t
    by_cases ht : 10 ≤ t
    · simp [adjNibble, adjOut, ht, Nat.mul_comm]; rfl
    · simp [adjNibble, adjOut, ht, Nat.mul_comm]; rfl
  · dsimp only [if_true]
    generalize (digit x i : Int) - 16 * (stNc st i).toNat + prev - k = t
    by_cases ht : t < 0
    · simp [adjNibble, adjOut, ht, Nat.mul_comm]; rfl
    · simp [adjNibble, adjOut, ht, Nat.mul_comm]; rfl

/-- The correction through nibble `n - 1`: the digits so far, k, and the NC bit below nibble `n`. -/
def adjusted (x st : Word) (sub : Bool) (n : Nat) : Nat × Nat × Nat := (List.range n).foldl (adjustStep x st sub) (0, 0, 0)

/-- The NC bit below nibble `i`. -/
def ncBelow (st : Word) (i : Nat) : Nat := if i = 0 then 0 else (stNc st (i - 1)).toNat

theorem adjusted_step (x st : Word) (sub : Bool) (n : Nat) :
    adjusted x st sub (n + 1) = adjustStep x st sub (adjusted x st sub n) n := by
  simp [adjusted, List.range_succ]

theorem adjusted_below (x st : Word) (sub : Bool) (n : Nat) : (adjusted x st sub n).2.2 = ncBelow st n := by
  cases n with
  | zero => rfl
  | succ n => rw [adjusted_step, adjustStep_eq]; rfl

/-- k after nibble `n - 1`, and the value t of nibble `n`. -/
def adjCarry (x st : Word) (sub : Bool) (n : Nat) : Nat := (adjusted x st sub n).2.1
def adjTotal (x st : Word) (sub : Bool) (n : Nat) : Int := adjValue x st sub n (adjCarry x st sub n) (ncBelow st n)

theorem adjusted_succ (x st : Word) (sub : Bool) (n : Nat) :
    (adjusted x st sub (n + 1)).1 = (adjusted x st sub n).1 + 16 ^ n * adjNibble sub (adjTotal x st sub n)
      ∧ adjCarry x st sub (n + 1) = (adjOut sub (adjTotal x st sub n)).toNat := by
  have he : adjusted x st sub n = ((adjusted x st sub n).1, adjCarry x st sub n, ncBelow st n) := by
    rw [← adjusted_below x st sub n]; rfl
  unfold adjCarry adjTotal
  rw [adjusted_step, he, adjustStep_eq]
  exact ⟨rfl, rfl⟩

/-- The digits through nibble `n - 1` fill `n` nibbles, and nibble `i` of them is the one stored. -/
theorem adjusted_digits (x st : Word) (sub : Bool) (n : Nat) : (adjusted x st sub n).1 < 16 ^ n
    ∧ ∀ i < n, (adjusted x st sub n).1 / 16 ^ i % 16 = adjNibble sub (adjTotal x st sub i) := by
  induction n with
  | zero => simp [adjusted]
  | succ n ih =>
    obtain ⟨hlt, hd⟩ := ih
    have hn := adjNibble_lt sub (adjTotal x st sub n)
    have hle : 16 ^ n * adjNibble sub (adjTotal x st sub n) ≤ 16 ^ n * 15 := Nat.mul_le_mul_left _ (by omega)
    rw [(adjusted_succ x st sub n).1]
    refine ⟨by rw [Nat.pow_succ]; omega, fun i hi => ?_⟩
    rcases Nat.lt_or_eq_of_le (Nat.le_of_lt_succ hi) with hi | rfl
    · rw [show 16 ^ n = 16 ^ i * (16 * 16 ^ (n - i - 1)) by rw [← Nat.pow_succ', ← Nat.pow_add]; congr 1; omega,
        Nat.mul_assoc, Nat.add_mul_div_left _ _ (Nat.pow_pos (by decide)), Nat.mul_assoc, Nat.add_mul_mod_self_left, hd i hi]
    · rw [Nat.add_mul_div_left _ _ (Nat.pow_pos (by decide)), Nat.div_eq_of_lt hlt, Nat.zero_add, Nat.mod_eq_of_lt hn]

theorem decAdjust_eq (st x : Word) (sub : Bool) : decAdjust st x sub
    = ⟨some (word (adjusted x st sub 8).1), decFlags st (word (adjusted x st sub 8).1) (decide (adjCarry x st sub 8 = 1)), none⟩ := rfl

/-- The digits, k and the stored nibbles of a correction (R129). -/
theorem digit_adjusted (st x : Word) (sub : Bool) {i : Nat} (hi : i < 8) :
    digit (word (adjusted x st sub 8).1) i = adjNibble sub (adjTotal x st sub i) := by
  obtain ⟨hlt, hd⟩ := adjusted_digits x st sub 8
  rw [digit_eq, word_toNat (by simpa using hlt), hd i hi]

/-! ## After a sum (R129) -/

/-- What one more digit does to packed digits and to the carry above them. -/
theorem packDec_step (n v m : Nat) : packDec (n + 1) (v + 10 ^ n * m) = packDec n v + 16 ^ n * ((v / 10 ^ n + m) % 10)
    ∧ (v + 10 ^ n * m) / 10 ^ (n + 1) = (v / 10 ^ n + m) / 10 := by
  have hp : 0 < 10 ^ n := Nat.pow_pos (by decide)
  rw [packDec_succ, packDec_congr (v' := v) (by simp), Nat.add_mul_div_left _ _ hp, Nat.pow_succ, ← Nat.div_div_eq_div_mul,
    Nat.add_mul_div_left _ _ hp]
  exact ⟨rfl, rfl⟩

/-- The carry or borrow that a binary operation brings into nibble `i`, by the NC bits that it left. -/
def cin (st : Word) (c i : Nat) : Nat := if i = 0 then c else ncBelow st i

/-- What of it R129's k has to bring besides: at nibble 0 alone. -/
def cinFirst (c i : Nat) : Nat := if i = 0 then c else 0

theorem cin_eq (st : Word) (c i : Nat) : cin st c i = ncBelow st i + cinFirst c i := by
  unfold cin cinFirst ncBelow; split <;> simp

theorem nibble_mod32 (n : Nat) {i : Nat} (h : i < 8) : n % 2 ^ 32 / 16 ^ i % 16 = n / 16 ^ i % 16 := by
  rw [← Nat.mod_mul_right_div_self, ← Nat.mod_mul_right_div_self, ← Nat.pow_succ, nibbles_mod n (by omega)]

/-- Nibble `i` of a wrapped sum. -/
theorem digit_sum (a b : Word) {c i : Nat} (hc : c ≤ 1) (h : i < 8) :
    digit (a + b + word c) i = (a.toNat + b.toNat + c) / 16 ^ i % 16 := by
  rw [digit_eq, BitVec.toNat_add, BitVec.toNat_add, word_toNat (by omega), Nat.mod_add_mod, nibble_mod32 _ h]

theorem carryInto_zero (a b c : Nat) : carryInto a b c 0 = c := by simp [carryInto, Nat.mod_one]

/-- The carries that NC lists bring into each nibble what the sum of the nibbles below does. -/
theorem cin_of_nc {st : Word} {a b c : Nat} (h : ∀ i < 8, (stNc st i).toNat = carryInto a b c (i + 1)) {i : Nat} (hi : i < 8) :
    cin st c i = carryInto a b c i := by
  cases i with
  | zero => rw [carryInto_zero]; rfl
  | succ i => exact h i (by omega)

/-- NC of a sum: each nibble with the carry out of it is the sum of the nibbles and of the carry into them. -/
theorem nibble_aluAdd (st a b : Word) {c i : Nat} (hc : c ≤ 1) (hi : i < 8) :
    digit (a + b + word c) i + 16 * (stNc (aluAdd st a b c).st i).toNat = digit a i + digit b i + cin (aluAdd st a b c).st c i := by
  have hnc : ∀ i < 8, (stNc (aluAdd st a b c).st i).toNat = carryInto a.toNat b.toNat c (i + 1) := fun i hi => by
    rw [stNc_aluAdd st a b c hi, carryInto_eq hc]
  rw [hnc i hi, cin_of_nc hnc hi, digit_sum a b hc hi, digit_eq, digit_eq]
  exact nibble_add _ _ _ _

/-- NC of a difference: each nibble of the minuend with the borrow out of it is the sum of the others and of the borrow into them. -/
theorem nibble_aluSub (st a b : Word) {c i : Nat} (hc : c ≤ 1) (hi : i < 8) :
    digit a i + 16 * (stNc (aluSub st a b c).st i).toNat
      = digit (a - b - word c) i + digit b i + cin (aluSub st a b c).st c i := by
  have hback : a - b - word c + b + word c = a := by
    rw [BitVec.sub_sub, BitVec.add_assoc, BitVec.sub_add_cancel]
  have hmod : ∀ j ≤ 8, a.toNat % 16 ^ j = ((a - b - word c).toNat + b.toNat + c) % 16 ^ j := fun j hj => by
    have hw : a.toNat = ((a - b - word c).toNat + b.toNat + c) % 2 ^ 32 := by
      conv_lhs => rw [← hback, BitVec.toNat_add, BitVec.toNat_add, word_toNat (by omega), Nat.mod_add_mod]
    rw [hw, nibbles_mod _ hj]
  have hnc : ∀ i < 8, (stNc (aluSub st a b c).st i).toNat = carryInto (a - b - word c).toNat b.toNat c (i + 1) := fun i hi => by
    rw [stNc_aluSub st a b c hi, carryInto_eq hc]
    exact congrArg _ (decide_eq_decide.mpr (borrow_iff_carry (Nat.pow_pos (by decide)) hc (hmod (i + 1) (by omega))))
  have hd := digit_sum (a - b - word c) b hc hi
  rw [hback] at hd
  rw [hnc i hi, cin_of_nc hnc hi, hd, digit_eq, digit_eq]
  exact nibble_add _ _ _ _

/-- k after the last nibble is a bit. -/
theorem adjCarry_le (x st : Word) (sub : Bool) (n : Nat) : adjCarry x st sub n ≤ 1 := by
  cases n with
  | zero => simp [adjCarry, adjusted]
  | succ n => rw [(adjusted_succ x st sub n).2]; exact Bool.toNat_le _

/-- The stored nibble and the carry of a decimal digit sum. -/
theorem adjDigit_sum {t : Nat} (h : t ≤ 19) : adjNibble false t = t % 10 ∧ (adjOut false t).toNat = t / 10 := by
  unfold adjNibble adjOut
  by_cases ht : (10 : Int) ≤ t <;> simp [ht] <;> omega

/-- The stored nibble and the borrow of a decimal digit difference, of which 10 more is `v`. -/
theorem adjDigit_diff {t : Int} {v : Nat} (ht : t + 10 = v) (h : v ≤ 19) :
    adjNibble true t = v % 10 ∧ (adjOut true t).toNat + v / 10 = 1 := by
  unfold adjNibble adjOut
  by_cases ht : t < 0 <;> simp [ht] <;> omega

/-- Through nibble `n - 1` the corrected digits are those of the decimal sum, and k its carry. -/
theorem adjusted_sum {st x a b : Word} {c : Nat} (hc : c ≤ 1) (ha : decOk a = true) (hb : decOk b = true)
    (h : ∀ i < 8, digit x i + 16 * (stNc st i).toNat = digit a i + digit b i + cin st c i) : ∀ n ≤ 8,
    (adjusted x st false n).1 = packDec n (lowDigits a n + lowDigits b n + c)
      ∧ adjCarry x st false n + cinFirst c n = (lowDigits a n + lowDigits b n + c) / 10 ^ n := fun n => by
  induction n with
  | zero => intro _; simp [adjusted, adjCarry, packDec, lowDigits, cinFirst]
  | succ n ih =>
    intro hn
    obtain ⟨hds, hk⟩ := ih (by omega)
    obtain ⟨hds', hk'⟩ := adjusted_succ x st false n
    have hda := digit_le ha (i := n) (by omega)
    have hdb := digit_le hb (i := n) (by omega)
    have hk1 := adjCarry_le x st false n
    have hs : lowDigits a (n + 1) + lowDigits b (n + 1) + c = lowDigits a n + lowDigits b n + c + 10 ^ n * (digit a n + digit b n) := by
      rw [lowDigits_succ, lowDigits_succ]; ring
    obtain ⟨hpack, hdiv⟩ := packDec_step n (lowDigits a n + lowDigits b n + c) (digit a n + digit b n)
    have ht : adjTotal x st false n = ((adjCarry x st false n + cinFirst c n + (digit a n + digit b n) : Nat) : Int) := by
      have hx := h n (by omega)
      rw [cin_eq] at hx
      unfold adjTotal adjValue
      simp only [Bool.false_eq_true, if_false]
      omega
    have hf : adjCarry x st false n + cinFirst c n ≤ 1 := by
      unfold cinFirst
      split
      · next h0 => subst h0; simpa [adjCarry, adjusted] using hc
      · omega
    obtain ⟨hnib, hout⟩ := adjDigit_sum (t := adjCarry x st false n + cinFirst c n + (digit a n + digit b n)) (by omega)
    rw [hs, hpack, hdiv, hds', hk', hds, ht, hnib, hout, hk]
    exact ⟨rfl, rfl⟩

/-- Through nibble `n - 1` the corrected digits are those of the ten's complement difference, and k its borrow. -/
theorem adjusted_diff {st x a b : Word} {c : Nat} (hc : c ≤ 1) (ha : decOk a = true) (hb : decOk b = true)
    (h : ∀ i < 8, digit a i + 16 * (stNc st i).toNat = digit x i + digit b i + cin st c i) : ∀ n ≤ 8,
    (adjusted x st true n).1 = packDec n (10 ^ n + lowDigits a n - (lowDigits b n + c))
      ∧ adjCarry x st true n + cinFirst c n + (10 ^ n + lowDigits a n - (lowDigits b n + c)) / 10 ^ n = 1 := fun n => by
  induction n with
  | zero =>
    intro _
    simp only [adjusted, adjCarry, packDec, lowDigits, cinFirst, List.range_zero, List.foldl_nil, List.map_nil, List.sum_nil, true_and]
    simp; omega
  | succ n ih =>
    intro hn
    obtain ⟨hds, hk⟩ := ih (by omega)
    obtain ⟨hds', hk'⟩ := adjusted_succ x st true n
    have hda := digit_le ha (i := n) (by omega)
    have hdb := digit_le hb (i := n) (by omega)
    have hlb := lowDigits_lt hb (n := n) (by omega)
    generalize hD : 10 ^ n + lowDigits a n - (lowDigits b n + c) = D at hds hk
    have hs : 10 ^ (n + 1) + lowDigits a (n + 1) - (lowDigits b (n + 1) + c) = D + 10 ^ n * (9 + digit a n - digit b n) := by
      rw [lowDigits_succ, lowDigits_succ, Nat.pow_succ, Nat.mul_sub, Nat.mul_add]
      have := Nat.mul_le_mul_left (10 ^ n) hdb
      omega
    obtain ⟨hpack, hdiv⟩ := packDec_step n D (9 + digit a n - digit b n)
    have ht : adjTotal x st true n + 10 = ((D / 10 ^ n + (9 + digit a n - digit b n) : Nat) : Int) := by
      have hx := h n (by omega)
      rw [cin_eq] at hx
      unfold adjTotal adjValue
      simp only [if_true]
      omega
    obtain ⟨hnib, hout⟩ := adjDigit_diff ht (by omega)
    rw [hs, hpack, hdiv, hds', hk', hds, hnib]
    exact ⟨rfl, hout⟩

/-! ## The corrected sum and difference -/

theorem stZ_decFlags (st r : Word) (c : Bool) : stZ (decFlags st r c) = decide (r = 0) := by
  unfold stZ; rw [bit_decFlags]; rfl
theorem stN_decFlags (st r : Word) (c : Bool) : stN (decFlags st r c) = false := by unfold stN; rw [bit_decFlags]; rfl
theorem stC_decFlags (st r : Word) (c : Bool) : stC (decFlags st r c) = c := by unfold stC; rw [bit_decFlags]; rfl
theorem stV_decFlags (st r : Word) (c : Bool) : stV (decFlags st r c) = false := by unfold stV; rw [bit_decFlags]; rfl

/-- DADD of valid operands. -/
theorem decAdd_ok (st : Word) {a b : Word} (c : Nat) (ha : decOk a = true) (hb : decOk b = true) : decAdd st a b c
    = ⟨some (word (packDec 8 (decVal a + decVal b + c))), decFlags st (word (packDec 8 (decVal a + decVal b + c)))
        (decide (100000000 ≤ decVal a + decVal b + c)), none⟩ := by
  have hp : packDec 8 ((decVal a + decVal b + c) % 100000000) = packDec 8 (decVal a + decVal b + c) :=
    packDec_congr (Nat.mod_mod _ _)
  unfold decAdd
  rw [if_pos (by simp [ha, hb])]
  dsimp only
  rw [hp]

/-- DSUB of valid operands. -/
theorem decSub_ok (st : Word) {a b : Word} (c : Nat) (ha : decOk a = true) (hb : decOk b = true) : decSub st a b c
    = ⟨some (word (packDec 8 (100000000 + decVal a - (decVal b + c)))),
        decFlags st (word (packDec 8 (100000000 + decVal a - (decVal b + c)))) (decide (decVal a < decVal b + c)), none⟩ := by
  have hp : packDec 8 ((decVal a + 100000000 - decVal b - c) % 100000000) = packDec 8 (100000000 + decVal a - (decVal b + c)) := by
    rw [Nat.sub_sub, Nat.add_comm (decVal a)]
    exact packDec_congr (Nat.mod_mod _ _)
  unfold decSub
  rw [if_pos (by simp [ha, hb])]
  dsimp only
  rw [hp]

/-- DCA after a binary sum leaves what DADD does, under the flags of the sum. -/
theorem decAdjust_aluAdd (st : Word) {a b : Word} {c : Nat} (hc : c ≤ 1) (ha : decOk a = true) (hb : decOk b = true) :
    ∃ r k, decAdjust (aluAdd st a b c).st (a + b + word c) false = ⟨some r, decFlags (aluAdd st a b c).st r k, none⟩
      ∧ decAdd st a b c = ⟨some r, decFlags st r k, none⟩ := by
  obtain ⟨hds, hk⟩ := adjusted_sum hc ha hb (fun i hi => nibble_aluAdd st a b hc hi) 8 (by omega)
  rw [decAdjust_eq, decAdd_ok st c ha hb, hds, ← decVal_eq, ← decVal_eq]
  refine ⟨_, _, rfl, ?_⟩
  have hva := lowDigits_lt ha (n := 8) (by omega)
  have hvb := lowDigits_lt hb (n := 8) (by omega)
  rw [← decVal_eq] at hva hvb
  rw [← decVal_eq, ← decVal_eq] at hk
  rw [show cinFirst c 8 = 0 from rfl] at hk
  congr 2
  apply decide_eq_decide.mpr
  omega

/-- DCS after a binary difference leaves what DSUB does, under the flags of the difference. -/
theorem decAdjust_aluSub (st : Word) {a b : Word} {c : Nat} (hc : c ≤ 1) (ha : decOk a = true) (hb : decOk b = true) :
    ∃ r k, decAdjust (aluSub st a b c).st (a - b - word c) true = ⟨some r, decFlags (aluSub st a b c).st r k, none⟩
      ∧ decSub st a b c = ⟨some r, decFlags st r k, none⟩ := by
  obtain ⟨hds, hk⟩ := adjusted_diff hc ha hb (fun i hi => nibble_aluSub st a b hc hi) 8 (by omega)
  rw [decAdjust_eq, decSub_ok st c ha hb, hds, ← decVal_eq, ← decVal_eq]
  refine ⟨_, _, rfl, ?_⟩
  have hva := lowDigits_lt ha (n := 8) (by omega)
  have hvb := lowDigits_lt hb (n := 8) (by omega)
  rw [← decVal_eq] at hva hvb
  rw [← decVal_eq, ← decVal_eq] at hk
  rw [show cinFirst c 8 = 0 from rfl] at hk
  congr 2
  apply decide_eq_decide.mpr
  omega

/-- Settles O14: nibble by nibble the correction carries what the decimal sum carries. -/
theorem decimalCorrection : Obligations.DecimalCorrection := by
  unfold Obligations.DecimalCorrection
  refine ⟨fun st a b c hc ha hb => ⟨?sum, ?difference⟩,
    fun st x sub => ⟨adjCarry x st sub, word (adjusted x st sub 8).1, rfl, rfl, stC_decFlags _ _ _, fun i hi => ?nibbles⟩⟩
  case sum =>
    obtain ⟨r, k, ho, hy⟩ := decAdjust_aluAdd st hc ha hb
    dsimp only
    rw [ho, hy]
    simp only [stZ_decFlags, stC_decFlags, stN_decFlags, stV_decFlags, (Leaves.decFlags (hi := 15) _ r k (by decide : 4 ≤ 8)).bits,
      and_self]
  case difference =>
    obtain ⟨r, k, ho, hy⟩ := decAdjust_aluSub st hc ha hb
    dsimp only
    rw [ho, hy]
    simp only [stZ_decFlags, stC_decFlags, stN_decFlags, stV_decFlags, (Leaves.decFlags (hi := 15) _ r k (by decide : 4 ≤ 8)).bits,
      and_self]
  case nibbles =>
    intro prev t out
    have hprev : prev = (ncBelow st i : Int) := by
      show (if i = 0 then (0 : Int) else _) = _
      unfold ncBelow
      split <;> rfl
    have ht : t = adjTotal x st sub i := by
      show (if sub = true then _ else _) = _
      rw [hprev]
      rfl
    have hout : out = adjOut sub t := rfl
    rw [digit_adjusted st x sub hi, hout, ht]
    exact ⟨(adjusted_succ x st sub i).2, adjNibble_cast sub _⟩

end Sys2Proof.Machine
end

section
/-! PROOFS. Flags of the integer and decimal operations (O2, O3). -/

namespace Sys2Proof.Machine

/-! ## Flags of a sum and of a difference (R115, R116) -/

/-- ST with the flags of a sum or difference: its word, carry or borrow, overflow and nibble carries. -/
def sumFlags (st r : Word) (c v : Bool) (nc : Nat) : Word := setNC (setV (setC (setZN st r) c) v) nc

theorem bit_sumFlags (st r : Word) (c v : Bool) (nc i : Nat) : bit (sumFlags st r c v nc) i
    = if 8 ≤ i ∧ i ≤ 15 then nc.testBit (i - 8) else if i = 3 then v else if i = 16 then bit st 16 || v else if i = 2 then c
      else if i = 0 then decide (r = 0) else if i = 1 then bit r 31 else bit st i := by
  rw [sumFlags, bit_setNC, bit_setV, bit_setC, bit_setC, bit_setZN, bit_setZN]
  rfl

theorem aluAdd_st (st a b : Word) (c : Nat) : (aluAdd st a b c).st = sumFlags st (a + b + word c)
    (decide (2 ^ 32 ≤ a.toNat + b.toNat + c)) (overflows (a.toInt + b.toInt + c)) (addNc a b c) := rfl

theorem aluSub_st (st a b : Word) (c : Nat) : (aluSub st a b c).st = sumFlags st (a - b - word c)
    (decide (a.toNat < b.toNat + c)) (overflows (a.toInt - b.toInt - c)) (subNc a b c) := rfl

@[simp] theorem stZ_sumFlags (st r : Word) (c v : Bool) (nc : Nat) : stZ (sumFlags st r c v nc) = decide (r = 0) := by
  unfold stZ; rw [bit_sumFlags]; rfl
@[simp] theorem stC_sumFlags (st r : Word) (c v : Bool) (nc : Nat) : stC (sumFlags st r c v nc) = c := by
  unfold stC; rw [bit_sumFlags]; rfl
@[simp] theorem stV_sumFlags (st r : Word) (c v : Bool) (nc : Nat) : stV (sumFlags st r c v nc) = v := by
  unfold stV; rw [bit_sumFlags]; rfl
@[simp] theorem stVs_sumFlags (st r : Word) (c v : Bool) (nc : Nat) : stVs (sumFlags st r c v nc) = (stVs st || v) := by
  unfold stVs; rw [bit_sumFlags]; rfl
@[simp] theorem stN_sumFlags (st r : Word) (c v : Bool) (nc : Nat) : stN (sumFlags st r c v nc) = r.msb := by
  unfold stN; rw [bit_sumFlags, BitVec.msb_eq_getLsbD_last]; rfl

theorem sumFlags_other (st r : Word) (c v : Bool) (nc : Nat) {i : Nat} (h4 : 4 ≤ i) (h : ¬ (8 ≤ i ∧ i ≤ 16)) :
    bit (sumFlags st r c v nc) i = bit st i := by
  rw [bit_sumFlags, if_neg (by omega), if_neg (by omega), if_neg (by omega), if_neg (by omega), if_neg (by omega), if_neg (by omega)]

/-- A wrapped value differs from the exact one when that overflows. -/
theorem overflows_iff {r : Word} {x : Int} (h : r.toInt = x.bmod (2 ^ 32)) : overflows x = decide (r.toInt ≠ x) := by
  rw [h]
  unfold overflows
  apply decide_eq_decide.mpr
  rw [Int.bmod_def]
  split <;> omega

theorem toInt_bit {c : Nat} (hc : c ≤ 1) : (word c).toInt = c := by
  rcases Nat.le_one_iff_eq_zero_or_eq_one.mp hc with rfl | rfl <;> rfl

theorem toInt_sum (a b : Word) {c : Nat} (hc : c ≤ 1) : (a + b + word c).toInt = (a.toInt + b.toInt + c).bmod (2 ^ 32) := by
  rw [BitVec.toInt_add, BitVec.toInt_add, toInt_bit hc, Int.bmod_add_bmod]

theorem toInt_difference (a b : Word) {c : Nat} (hc : c ≤ 1) : (a - b - word c).toInt = (a.toInt - b.toInt - c).bmod (2 ^ 32) := by
  rw [BitVec.toInt_sub, BitVec.toInt_sub, toInt_bit hc, Int.sub_eq_add_neg, Int.bmod_add_bmod, ← Int.sub_eq_add_neg]

theorem ovf_eq (v : Bool) (st : Word) : ovf v st = if v ∧ stOvt st then some 7 else none := by
  unfold ovf
  cases v <;> simp

/-! ## What an operation leaves of ST (R115–R117, R128, R167, R168) -/

section Leaves
variable {lo hi : Nat} (st : Word)

@[simp] theorem leaves_same : Leaves lo hi st st := Leaves.refl lo hi st

/-- A sum or difference leaves all but Z, N, C, V, vs and NC. -/
@[simp] theorem leaves_aluAdd (a b : Word) (c : Nat) (h : 17 ≤ lo) : Leaves lo hi st (aluAdd st a b c).st := fun i hl _ => by
  rw [aluAdd_st, sumFlags_other _ _ _ _ _ (by omega) (by omega)]

@[simp] theorem leaves_aluSub (a b : Word) (c : Nat) (h : 17 ≤ lo) : Leaves lo hi st (aluSub st a b c).st := fun i hl _ => by
  rw [aluSub_st, sumFlags_other _ _ _ _ _ (by omega) (by omega)]

@[simp] theorem leaves_aluCmp (a b : Word) (h : 17 ≤ lo) : Leaves lo hi st (aluCmp st a b).st := leaves_aluSub st a b 0 h

@[simp] theorem leaves_aluLogic (r : Word) (h : 2 ≤ lo) : Leaves lo hi st (aluLogic st r).st := .setZN st r h

@[simp] theorem leaves_aluTest (r : Word) (h : 2 ≤ lo) : Leaves lo hi st (aluTest st r).st := .setZN st r h

@[simp] theorem leaves_aluMove (r : Word) : Leaves lo hi st (aluMove st r).st := .refl lo hi st

theorem leaves_shift (r : Word) (c : Bool) (h : 3 ≤ lo) : Leaves lo hi st (setC (setZN st r) c) :=
  (Leaves.setZN st r (by omega)).trans (.setC _ c h)

@[simp] theorem leaves_aluShl (a n : Word) (h : 3 ≤ lo) : Leaves lo hi st (aluShl st a n).st := leaves_shift st _ _ h
@[simp] theorem leaves_aluShr (a n : Word) (h : 3 ≤ lo) : Leaves lo hi st (aluShr st a n).st := leaves_shift st _ _ h
@[simp] theorem leaves_aluSar (a n : Word) (h : 3 ≤ lo) : Leaves lo hi st (aluSar st a n).st := leaves_shift st _ _ h
@[simp] theorem leaves_aluRot (a n : Word) (h : 3 ≤ lo) : Leaves lo hi st (aluRot st a n).st := leaves_shift st _ _ h

@[simp] theorem leaves_aluAbs (a : Word) (h : 4 ≤ lo) (h' : 16 < lo ∨ hi < 16) : Leaves lo hi st (aluAbs st a).st :=
  (Leaves.setZN st _ (by omega)).trans (.setV _ _ h h')

theorem leaves_decBad (h : 18 < lo ∨ hi < 18) : Leaves lo hi st (decBad st).st := .setBit st 18 true (by omega)

/-- A decimal operation sets Z, N, C and V, or bi. -/
@[simp] theorem leaves_decAdd (a b : Word) (c : Nat) (h : 4 ≤ lo) (h' : 18 < lo ∨ hi < 18) : Leaves lo hi st (decAdd st a b c).st := by
  unfold decAdd
  split
  · exact .decFlags st _ _ h
  · exact leaves_decBad st h'

@[simp] theorem leaves_decSub (a b : Word) (c : Nat) (h : 4 ≤ lo) (h' : 18 < lo ∨ hi < 18) : Leaves lo hi st (decSub st a b c).st := by
  unfold decSub
  split
  · exact .decFlags st _ _ h
  · exact leaves_decBad st h'

@[simp] theorem leaves_decAdjust (a : Word) (sub : Bool) (h : 4 ≤ lo) : Leaves lo hi st (decAdjust st a sub).st := .decFlags st _ _ h

/-- A decimal operation on one word of digits sets Z, or bi. -/
theorem leaves_decUnary (a r : Word) (h : 1 ≤ lo) (h' : 18 < lo ∨ hi < 18) :
    Leaves lo hi st (if decOk a then (⟨some r, setZ st (r = 0), none⟩ : Alu) else decBad st).st := by
  split
  · exact .setZ st _ h
  · exact leaves_decBad st h'

@[simp] theorem leaves_decShl (a b : Word) (h : 1 ≤ lo) (h' : 18 < lo ∨ hi < 18) : Leaves lo hi st (decShl st a b).st :=
  leaves_decUnary st a _ h h'
@[simp] theorem leaves_decShr (a b : Word) (h : 1 ≤ lo) (h' : 18 < lo ∨ hi < 18) : Leaves lo hi st (decShr st a b).st :=
  leaves_decUnary st a _ h h'
@[simp] theorem leaves_decToBin (a : Word) (h : 1 ≤ lo) (h' : 18 < lo ∨ hi < 18) : Leaves lo hi st (decToBin st a).st :=
  leaves_decUnary st a _ h h'

@[simp] theorem leaves_decFromBin (a : Word) (h : 4 ≤ lo) (h' : 16 < lo ∨ hi < 16) : Leaves lo hi st (decFromBin st a).st :=
  (Leaves.setZ st _ (by omega)).trans (.setV _ _ h h')

@[simp] theorem leaves_decCheck (a : Word) (h : 1 ≤ lo) : Leaves lo hi st (decCheck st a).st := .setZ st _ h

/-- A fused operation sets Z, N and C at most. -/
@[simp] theorem leaves_fuseBfx (a b : Word) (h : 2 ≤ lo) : Leaves lo hi st (fuseBfx st a b).st := .setZN st _ h
@[simp] theorem leaves_fuseBfxs (a b : Word) (h : 2 ≤ lo) : Leaves lo hi st (fuseBfxs st a b).st := .setZN st _ h
@[simp] theorem leaves_fuseBfi (d a b : Word) (h : 2 ≤ lo) : Leaves lo hi st (fuseBfi st d a b).st := .setZN st _ h
@[simp] theorem leaves_fusePsat4 (a b : Word) (h : 3 ≤ lo) : Leaves lo hi st (fusePsat4 st a b).st :=
  (Leaves.setZ st _ (by omega)).trans (.setC _ _ h)
@[simp] theorem leaves_fuseWsum4 (a b : Word) (h : 2 ≤ lo) : Leaves lo hi st (fuseWsum4 st a b).st := .setZN st _ h
@[simp] theorem leaves_fuseWsum4u (a b : Word) (h : 1 ≤ lo) : Leaves lo hi st (fuseWsum4u st a b).st := .setZ st _ h
@[simp] theorem leaves_fuseClzp (a : Word) (h : 1 ≤ lo) : Leaves lo hi st (fuseClzp st a).st := .setZ st _ h
@[simp] theorem leaves_fuseCrcc (a b : Word) (n : Nat) : Leaves lo hi st (fuseCrcc st a b n).st := .refl lo hi st

end Leaves

/-- The operations of the tables leave the trap enables, er, tl and pl. -/
theorem aluOps_leave : ∀ e ∈ aluOps, ∀ st d a b, Leaves 20 31 st (e.f st d a b).st := by simp [aluOps]
theorem immOps_leave : ∀ e ∈ immOps, ∀ st a i, Leaves 20 31 st (e.f st a i).st := by simp [immOps]
theorem decOps_leave : ∀ e ∈ decOps, ∀ st d a b, Leaves 20 31 st (e.f st d a b).st := by simp [decOps]

/-- No operation but the sums, differences and comparisons writes NC (R116). -/
theorem aluOps_leave_nc : ∀ e ∈ aluOps, e.fn ∉ [0x000, 0x001, 0x002, 0x003, 0x00C, 0x010] → ∀ st d a b,
    Leaves 8 15 st (e.f st d a b).st := by simp [aluOps]
theorem immOps_leave_nc : ∀ e ∈ immOps, (e.op, e.sel) ∉ [(0x02, 0), (0x04, 0), (0x04, 2)] → ∀ st a i,
    Leaves 8 15 st (e.f st a i).st := by simp [immOps]
theorem fuseOps_leave_nc : ∀ e ∈ fuseOps, ∀ st d a b, Leaves 8 15 st (e.f st d a b).st := by simp [fuseOps]
theorem decOps_leave_nc : ∀ e ∈ decOps, ∀ st d a b, Leaves 8 15 st (e.f st d a b).st := by simp [decOps]

/-- A string comparison puts NC back (R122). -/
theorem bits_strCmp (st x y : Word) : bits (strCmp st x y) 15 8 = bits st 15 8 := by
  rw [strCmp, setNC, bits_setBits _ _ _ _ (by decide) (by decide)]
  exact Nat.mod_eq_of_lt (bits_lt st 15 8)

/-! ## The statement on sums and differences -/

/-- What a sum or difference leaves, by its word, carry or borrow, overflow and nibble carries. -/
theorem sumFlags_shows (st r : Word) (c v : Bool) (nc : Nat) : let o : Alu := ⟨some r, sumFlags st r c v nc, ovf v st⟩
    o.d = some r ∧ stZ o.st = decide (r = 0) ∧ stN o.st = r.msb ∧ stC o.st = c ∧ stV o.st = v ∧ stVs o.st = (stVs st || stV o.st)
      ∧ (∀ i, 4 ≤ i → ¬ (8 ≤ i ∧ i ≤ 16) → bit o.st i = bit st i) ∧ o.trap = if stV o.st ∧ stOvt st then some 7 else none := by
  refine ⟨rfl, stZ_sumFlags _ _ _ _ _, stN_sumFlags _ _ _ _ _, stC_sumFlags _ _ _ _ _, stV_sumFlags _ _ _ _ _, ?_,
    fun i h4 h => sumFlags_other _ _ _ _ _ h4 h, ?_⟩
  · rw [stVs_sumFlags, stV_sumFlags]
  · rw [stV_sumFlags]; exact ovf_eq v st

/-- Settles O2: the flags are those of `sumFlags`; overflow is that the wrapped word is not the exact value. -/
theorem addAndSubtractFlags : Obligations.AddAndSubtractFlags := by
  unfold Obligations.AddAndSubtractFlags
  refine fun st a b c hc => ⟨?sum, ?difference, fun e he hn st d a b => (aluOps_leave_nc e he hn st d a b).bits,
    fun e he hn st a i => (immOps_leave_nc e he hn st a i).bits, fun e he st d a b => ?others, bits_strCmp⟩
  case sum =>
    obtain ⟨hd, hz, hn, hC, hV, hvs, hother, htrap⟩ := sumFlags_shows st (a + b + word c)
      (decide (2 ^ 32 ≤ a.toNat + b.toNat + c)) (overflows (a.toInt + b.toInt + c)) (addNc a b c)
    have h7 : stNc (aluAdd st a b c).st 7 = decide (2 ^ 32 ≤ a.toNat + b.toNat + c) := by
      rw [stNc_aluAdd st a b c (by decide), Nat.mod_eq_of_lt (b := 16 ^ 8) a.isLt, Nat.mod_eq_of_lt (b := 16 ^ 8) b.isLt]; rfl
    exact ⟨hd, hz, hn, hC, hV.trans (overflows_iff (toInt_sum a b hc)), fun i hi => stNc_aluAdd st a b c hi, h7.trans hC.symm, hvs,
      hother, htrap⟩
  case difference =>
    obtain ⟨hd, hz, hn, hC, hV, hvs, hother, htrap⟩ := sumFlags_shows st (a - b - word c)
      (decide (a.toNat < b.toNat + c)) (overflows (a.toInt - b.toInt - c)) (subNc a b c)
    have h7 : stNc (aluSub st a b c).st 7 = decide (a.toNat < b.toNat + c) := by
      rw [stNc_aluSub st a b c (by decide), Nat.mod_eq_of_lt (b := 16 ^ 8) a.isLt, Nat.mod_eq_of_lt (b := 16 ^ 8) b.isLt]
    exact ⟨hd, hz, hn, hC, hV.trans (overflows_iff (toInt_difference a b hc)), fun i hi => stNc_aluSub st a b c hi,
      h7.trans hC.symm, hvs, hother, htrap⟩
  case others =>
    rcases List.mem_append.mp he with he | he
    · exact (fuseOps_leave_nc e he st d a b).bits
    · exact (decOps_leave_nc e he st d a b).bits

/-! ## Shifts and divisions at the edges (R124) -/

@[simp] theorem stC_setC (st : Word) (b : Bool) : stC (setC st b) = b := by unfold stC; rw [bit_setC]; rfl
@[simp] theorem stC_setZN (st r : Word) : stC (setZN st r) = stC st := by unfold stC; rw [bit_setZN]; rfl
@[simp] theorem stV_setV (st : Word) (b : Bool) : stV (setV st b) = b := by unfold stV; rw [bit_setV]; rfl
@[simp] theorem stVs_setV (st : Word) (b : Bool) : stVs (setV st b) = (stVs st || b) := by unfold stVs; rw [bit_setV]; rfl
@[simp] theorem stV_setZN (st r : Word) : stV (setZN st r) = stV st := by unfold stV; rw [bit_setZN]; rfl
@[simp] theorem stVs_setZN (st r : Word) : stVs (setZN st r) = stVs st := by unfold stVs; rw [bit_setZN]; rfl

/-- A shift by `n`: the word and C by the range of the count. -/
theorem aluShl_eq (st a n : Word) : (aluShl st a n).d = some (if n.toNat < 32 then a <<< n.toNat else 0)
    ∧ stC (aluShl st a n).st = if n.toNat = 0 then stC st else if n.toNat < 32 then bit a (32 - n.toNat)
      else decide (n.toNat = 32) && bit a 0 := by
  refine ⟨rfl, (stC_setC _ _).trans ?_⟩
  split
  · rfl
  · split
    · rfl
    · by_cases h : n.toNat = 32 <;> simp [h, bit]

theorem aluShr_eq (st a n : Word) : (aluShr st a n).d = some (if n.toNat < 32 then a >>> n.toNat else 0)
    ∧ stC (aluShr st a n).st = if n.toNat = 0 then stC st else if n.toNat < 32 then bit a (n.toNat - 1)
      else decide (n.toNat = 32) && bit a 31 := by
  refine ⟨rfl, (stC_setC _ _).trans ?_⟩
  split
  · rfl
  · split
    · rfl
    · by_cases h : n.toNat = 32 <;> simp [h, bit]

theorem aluSar_eq (st a n : Word) :
    (aluSar st a n).d = some (if n.toNat < 32 then a.sshiftRight n.toNat else if bit a 31 then 0xFFFFFFFF else 0)
    ∧ stC (aluSar st a n).st = if n.toNat = 0 then stC st else if n.toNat < 32 then bit a (n.toNat - 1) else bit a 31 :=
  ⟨rfl, stC_setC _ _⟩

theorem aluRot_eq (st a n : Word) : (aluRot st a n).d = some (a.rotateLeft (n.toNat % 32))
    ∧ stC (aluRot st a n).st = if n.toNat % 32 = 0 then stC st else bit (a.rotateLeft (n.toNat % 32)) 0 := ⟨rfl, stC_setC _ _⟩

/-- A division by 0 gives 0 and the dividend, and sets dz (R124). -/
theorem divZero_shows (st a : Word) : (divZero st a).qu = 0 ∧ (divZero st a).rm = a ∧ stDz (divZero st a).st = true
    ∧ stV (divZero st a).st = stV st ∧ (divZero st a).trap = if stDzt st then some 6 else none := by
  refine ⟨rfl, rfl, ?_, ?_, rfl⟩
  · unfold stDz divZero; rw [bit_setBit]; rfl
  · unfold stV divZero; rw [bit_setBit]; rfl

/-- Operations that set Z and N alone, or nothing, leave V. -/
theorem aluOps_keep_V : ∀ e ∈ aluOps, e.fn ∈ [0x004, 0x005, 0x006, 0x007, 0x00E, 0x00F, 0x012, 0x013, 0x014, 0x015] → ∀ st d a b,
    stV (e.f st d a b).st = stV st := by
  have keep : ∀ st st', Leaves 3 3 st st' → stV st' = stV st := fun st st' h => h 3 (by decide) (by decide)
  have leave : ∀ e ∈ aluOps, e.fn ∈ [0x004, 0x005, 0x006, 0x007, 0x00E, 0x00F, 0x012, 0x013, 0x014, 0x015] → ∀ st d a b,
      Leaves 3 3 st (e.f st d a b).st := by simp [aluOps]
  exact fun e he hf st d a b => keep _ _ (leave e he hf st d a b)

theorem ovf_true (st : Word) : ovf true st = if stOvt st then some 7 else none := by simp [ovf_eq]

/-- What V brings along when an operation sets it. -/
theorem setV_true_shows (st : Word) : stV (setV st true) = true ∧ stVs (setV st true) = true := by simp

/-- A sum or difference that overflows sets V and vs, and traps OVF where that is enabled. -/
theorem sumFlags_overflows {o : Alu} {st r : Word} {c v : Bool} {nc : Nat} (ho : o = ⟨some r, sumFlags st r c v nc, ovf v st⟩)
    (hv : v = true) : o.d = some r ∧ stV o.st = true ∧ stVs o.st = true ∧ o.trap = if stOvt st then some 7 else none := by
  subst hv
  subst ho
  exact ⟨rfl, stV_sumFlags _ _ _ _ _, by simp, ovf_true st⟩

/-- Settles O3: the shifts by the range of their count; overflow and division by 0 by the flags that they set. -/
theorem arithmeticAtTheEdges : Obligations.ArithmeticAtTheEdges := by
  unfold Obligations.ArithmeticAtTheEdges
  refine ⟨fun st a n hn => ?zero, fun st a n h1 h31 => ?inside, fun st a n h32 => ?past, aluRot_eq, fun st o ho => ?extreme,
    fun st a q hq => ?byZero, fun st => ?minByMinusOne,
    fun st a b c => ⟨fun h => sumFlags_overflows rfl h, fun h => sumFlags_overflows rfl h⟩, aluOps_keep_V⟩
  case zero =>
    subst hn
    have hrot : a.rotateLeft 0 = a := by
      have h32 : a >>> 32 = 0 := BitVec.ushiftRight_eq_zero (Nat.le_refl 32)
      simp [BitVec.rotateLeft, BitVec.rotateLeftAux, h32]
    simp [aluShl_eq, aluShr_eq, aluSar_eq, aluRot_eq, hrot]
  case inside =>
    simp [aluShl_eq, aluShr_eq, aluSar_eq, show n.toNat < 32 by omega, show n.toNat ≠ 0 by omega]
  case past =>
    simp [aluShl_eq, aluShr_eq, aluSar_eq, show ¬ n.toNat < 32 by omega, show n.toNat ≠ 0 by omega]
  case extreme =>
    simp only [List.mem_cons, List.not_mem_nil, or_false] at ho
    rcases ho with rfl | rfl
    · exact sumFlags_overflows (c := true) (v := true) (nc := subNc 0 0x80000000 0) rfl rfl
    · exact ⟨rfl, (setV_true_shows _).1, (setV_true_shows _).2, ovf_true st⟩
  case byZero =>
    simp only [List.mem_cons, List.not_mem_nil, or_false] at hq
    rcases hq with rfl | rfl <;> exact divZero_shows st a
  case minByMinusOne =>
    exact ⟨rfl, rfl, (setV_true_shows _).1, (setV_true_shows _).2, ovf_true st⟩

end Sys2Proof.Machine
end

section
/-! PROOFS. The instructions of registers alone: ALU, immediate, decimal and fused (O1, O4, O13, O15). -/

namespace Sys2Proof.Machine

/-! ## Rows of one shape -/

/-- The row of a register-to-register instruction without further causes. -/
def regOpRow (op : Nat) (e : RegOp) : Row where
  is := isF3 op e.fn
  fields := fun _ => e.fields
  three := true
  run := regRun e.f

/-- Each ALU command issues its row (R115). -/
theorem aluOps_rows : ∀ e ∈ aluOps, ∀ t w s, exec (e.cmd t w) s = .next (issue (regOpRow 0x01 e) t w s) := by
  intro e he
  fin_cases he <;> exact fun _ _ _ => rfl

/-- Each immediate command issues its row (R117). -/
theorem immOps_rows : ∀ e ∈ immOps, ∀ t w s, exec (e.cmd t w) s = .next (issue (immRow e.op e.sel e.fields e.ext e.imm e.f) t w s) := by
  intro e he
  fin_cases he <;> exact fun _ _ _ => rfl

/-- Each fused command issues its row (R167). -/
theorem fuseOps_rows : ∀ e ∈ fuseOps, ∀ t w s, exec (e.cmd t w) s = .next (issue (fuseRow e.fn e.fields e.f) t w s) := by
  intro e he
  fin_cases he <;> exact fun _ _ _ => rfl

/-- A row of a decimal command (R128): outside a repeat it is a register instruction, and an event is counted beside it. -/
structure DecimalRow (e : RegOp) (r : Row) : Prop where
  exec : ∀ t w s, exec (e.cmd t w) s = .next (issue r t w s)
  is : r.is = isF3 0x07 e.fn
  fields : r.fields = fun _ => e.fields
  three : r.three = true
  clean : r.clean = fun _ => true
  early : r.early = fun _ _ _ => none
  run : ∀ t w s, Bare s t → r.run t w s = (regRun e.f t w s).also (fun s => pcEvent s t 0x16)

theorem decimalRow_of_decRow {c : Tid → Word → Instr} {fn : Nat} {fields : Fields} {f : Word → Word → Word → Alu}
    (h : ∀ t w s, exec (c t w) s = .next (issue (decRow fn fields f) t w s)) :
    DecimalRow ⟨c, fn, fields, fun st _ a b => f st a b⟩ (decRow fn fields f) := ⟨h, rfl, rfl, rfl, rfl, rfl, fun _ _ _ _ => rfl⟩

theorem decimalRow_of_decSumRow {c : Tid → Word → Instr} {fn : Nat} {f : Word → Word → Word → Nat → Alu} {cin : Word → Nat}
    (h : ∀ t w s, exec (c t w) s = .next (issue (decSumRow fn f cin) t w s)) :
    DecimalRow ⟨c, fn, .dab, fun st _ a b => f st a b (cin st)⟩ (decSumRow fn f cin) := by
  refine ⟨h, rfl, rfl, rfl, rfl, rfl, fun t w s hb => ?_⟩
  simp only [decSumRow, show (thread s t).pfx = .none from hb]

theorem decOps_rows : ∀ e ∈ decOps, ∃ r, DecimalRow e r := by
  simp only [decOps, List.forall_mem_cons]
  exact ⟨⟨_, decimalRow_of_decSumRow (cin := fun _ => 0) fun _ _ _ => rfl⟩,
    ⟨_, decimalRow_of_decSumRow (cin := fun st => (stC st).toNat) fun _ _ _ => rfl⟩,
    ⟨_, decimalRow_of_decSumRow (cin := fun _ => 0) fun _ _ _ => rfl⟩, ⟨_, decimalRow_of_decSumRow (cin := fun st => (stC st).toNat) fun _ _ _ => rfl⟩,
    ⟨_, decimalRow_of_decRow (f := fun st a _ => decAdjust st a false) fun _ _ _ => rfl⟩,
    ⟨_, decimalRow_of_decRow (f := fun st a _ => decAdjust st a true) fun _ _ _ => rfl⟩,
    ⟨_, decimalRow_of_decRow (f := decShl) fun _ _ _ => rfl⟩, ⟨_, decimalRow_of_decRow (f := decShr) fun _ _ _ => rfl⟩,
    ⟨_, decimalRow_of_decRow (f := fun st a _ => decToBin st a) fun _ _ _ => rfl⟩,
    ⟨_, decimalRow_of_decRow (f := fun st a _ => decFromBin st a) fun _ _ _ => rfl⟩,
    ⟨_, decimalRow_of_decRow (f := fun st a _ => decCheck st a) fun _ _ _ => rfl⟩, by simp⟩

/-! ## Immediates (R117, R131) -/

theorem bits_low {n : Nat} (w : BitVec n) (hi : Nat) : bits w hi 0 = w.toNat % 2 ^ (hi + 1) := by simp [bits]

/-- Sign extension by the library's. -/
theorem sext_eq (n v : Nat) (h : 0 < n) (h' : n ≤ 32) : sext n v = (BitVec.ofNat n v).signExtend 32 := by
  have hp : 2 ^ n ≤ 2 ^ 32 := Nat.pow_le_pow_right (by decide) h'
  have hm : (BitVec.ofNat n v).msb = decide (v / 2 ^ (n - 1) % 2 = 1) := by
    rw [BitVec.msb_eq_getLsbD_last, BitVec.getLsbD_ofNat, Nat.testBit_eq_decide_div_mod_eq]
    simp [h]
  apply BitVec.eq_of_toNat_eq
  have hlt : v % 2 ^ n < 2 ^ n := Nat.mod_lt _ (Nat.two_pow_pos n)
  rw [BitVec.toNat_signExtend, hm, BitVec.toNat_setWidth, BitVec.toNat_ofNat]
  unfold sext
  by_cases hb : v / 2 ^ (n - 1) % 2 = 1
  · simp only [hb, if_true, decide_true]
    rw [word, BitVec.toNat_ofNat, Nat.mod_eq_of_lt (b := 2 ^ 32) (by omega), Nat.mod_eq_of_lt (b := 2 ^ 32) (by omega)]
    omega
  · simp [hb, word]

theorem wImm_eq (w : Word) : word (wImm w) = w &&& 0x3FFF := by
  apply BitVec.eq_of_toNat_eq
  rw [word_toNat (by have := bits_lt w 13 0; unfold wImm; omega), wImm, bits_low, BitVec.toNat_and]
  exact (Nat.and_two_pow_sub_one_eq_mod w.toNat 14).symm

/-- Immediates without a prefix, and under EXT (R117, R131). -/
theorem imm_bare {s : State} {t : Nat} (w : Word) (h : Bare s t) :
    immZ s t w = (w &&& 0x3FFF) ∧ immS s t w = ((w &&& 0x3FFF).setWidth 14 : BitVec 14).signExtend 32 := by
  have he : extHi s t = none := by unfold extHi; rw [h]
  unfold immZ immS
  rw [he]
  refine ⟨wImm_eq w, ?_⟩
  rw [← wImm_eq]
  exact (sext_eq 14 _ (by decide) (by decide)).trans (by simp [word])

theorem imm_ext {s : State} {t : Nat} (w : Word) {hi : BitVec 18} (h : (thread s t).pfx = .ext hi) :
    immZ s t w = ((hi.setWidth 32) <<< 14 ||| (w &&& 0x3FFF)) ∧ immS s t w = immZ s t w := by
  have he : extHi s t = some hi := by unfold extHi; rw [h]
  unfold immZ immS
  rw [he]
  refine ⟨?_, rfl⟩
  have hw : wImm w < 2 ^ 14 := bits_lt w 13 0
  have hh := hi.isLt
  have hs : hi.toNat <<< 14 < 2 ^ 32 := by rw [Nat.shiftLeft_eq]; omega
  rw [← wImm_eq]
  apply BitVec.eq_of_toNat_eq
  rw [word_toNat (by omega), BitVec.toNat_or, word_toNat (by omega), BitVec.toNat_shiftLeft, BitVec.toNat_setWidth,
    Nat.mod_eq_of_lt (b := 2 ^ 32) (show hi.toNat < 2 ^ 32 by omega), Nat.mod_eq_of_lt (b := 2 ^ 32) hs,
    ← Nat.shiftLeft_add_eq_or_of_lt hw, Nat.shiftLeft_eq]

end Sys2Proof.Machine
end

section
/-! PROOFS. How a unit that issues ends: it runs, completes, completes and traps, or traps. -/

namespace Sys2Proof.Machine

/-! ## A word that issues runs its row -/

section Runs
variable {r : Row} {c : Instr} {s : State} {t : Nat} {w : Word}

/-- A word without a prefix, with good fields and no early cause, runs. -/
theorem runs_bare (hc : exec c s = .next (issue r t w s)) (ht : t < 1028) (hi : Issues s t) (hb : Bare s t) (hw : r.is w = true)
    (hf : FieldsOk (r.fields w) r.three w) (hclean : r.clean w = true) (he : r.early s t w = none) :
    exec c s = .next (applyRes s t false (r.run t w s)) := by
  rw [hc, issue_runs ht hi hw (early_none hb hf hclean he) hb.not_rpt]

/-- A word that EXT may precede, likewise. -/
theorem runs_ext (hc : exec c s = .next (issue r t w s)) (ht : t < 1028) (hi : Issues s t) (hb : BareOrExt s t) (hw : r.is w = true)
    (hx : r.ext = true) (hf : FieldsOk (r.fields w) r.three w) (hclean : r.clean w = true) (he : r.early s t w = none) :
    exec c s = .next (applyRes s t false (r.run t w s)) := by
  rw [hc, issue_runs ht hi hw (early_none_ext hb hx hf hclean he) hb.not_rpt]

/-- A word with an early cause is the precise trap of that cause. -/
theorem gives_early {code sub : Nat} (hc : exec c s = .next (issue r t w s)) (ht : t < 1028) (hi : Issues s t) (hw : r.is w = true)
    (he : earlyTrap r s t w = some (code, sub)) (hcode : code < 16) (hv : Enters s t code) :
    Gives c s (Precise s t code sub w) := by
  refine ⟨_, hc, ?_⟩
  rw [issue_early ht hi hw he]
  exact precise ht hcode hv hi.2.2.2.2

end Runs

/-! ## How a unit ends -/

section Ends
variable {c : Instr} {s s1 : State} {t : Nat} {th : Thread}

/-- The next word of a thread that keeps its PC and prefix. -/
theorem instrPc_congr (h : (thread s1 t).pc = (thread s t).pc ∧ (thread s1 t).pfx = (thread s t).pfx) : instrPc s1 t = instrPc s t := by
  simp only [instrPc, h.1, h.2]

/-- The vector of a trap lies in I-space. -/
theorem handlerPc_lt (s : State) (t : Nat) {code : Nat} (h : code < 16) : handlerPc s t code < 0x20000 := by
  have := bits_lt (nib s (nibOf t)).tvec 15 10
  unfold handlerPc
  omega

/-- A unit beside its thread leaves the vector of every trap. -/
theorem Beside.handlerPc (h : Beside s s1 t) (code : Nat) : handlerPc s1 t code = Machine.handlerPc s t code := by
  unfold Machine.handlerPc; rw [h.tvec]

/-- A unit beside its thread leaves whether a trap enters its handler, as long as it leaves tl. -/
theorem Beside.enters {code : Nat} (h : Beside s s1 t) (ht : t < 1028) (hcode : code < 16) (htl : stTl (thread s1 t).st = false)
    (hv : Enters s t code) : Enters s1 t code := by
  obtain ⟨hen, -, hbad⟩ := hv
  have hi := ispace_lt t ht
  have hp := handlerPc_lt s t hcode
  exact ⟨by rw [h.tvec]; exact hen, htl, by rw [h.handlerPc, h.badAt _ (by unfold dramBase; omega)]; exact hbad⟩

/-- A unit that changes its thread, beside counting, completes. -/
theorem gives_done (hc : exec c s = .next (applyRes s t false (.done s1))) (ht : t < 1028) (h : Beside s s1 t) (e : thread s1 t = th)
    (hf : th.stepping = false) (hp : th.pc = (thread s t).pc ∧ th.pfx = (thread s t).pfx) : Gives c s (Completes s t th) :=
  ⟨_, hc, done_of_beside ht h e hf hp⟩

/-- A unit that changes its thread, beside counting, completes, and then traps. -/
theorem gives_late {code : Nat} (hc : exec c s = .next (applyRes s t false (.late s1 code))) (ht : t < 1028) (hcode : code < 16)
    (h : Beside s s1 t) (e : thread s1 t = th) (hf : th.stepping = false)
    (hp : th.pc = (thread s t).pc ∧ th.pfx = (thread s t).pfx) (htl : stTl th.st = false) (hv : Enters s t code) :
    Gives c s (fun s' => Beside s s' t ∧ thread s' t = trapped s t code 0 (word (instrPc s t)) (word (nextPc s t)) th) := by
  have htl1 : stTl (thread s1 t).st = false := by rw [e]; exact htl
  have hpc : instrPc s1 t = instrPc s t := instrPc_congr (by rw [e]; exact hp)
  have hnext : nextPc s1 t = nextPc s t := by unfold nextPc; rw [hpc]
  obtain ⟨hb, hth⟩ := late_beside code ht hcode (Only.refl s1 t) (by rw [e]; exact hf) htl1 (h.enters ht hcode htl1 hv)
  have hres : applyRes s t false (.late s1 code) = applyRes s1 t false (.late s1 code) := by
    simp only [applyRes, hpc, hnext]
  refine ⟨_, hc, ?_⟩
  rw [hres]
  refine ⟨h.trans hb, hth.trans ?_⟩
  rw [hpc, hnext, e]
  unfold trapped
  rw [h.handlerPc]

/-- A unit that has no effect but a trap, which may have recorded something beside it. -/
theorem gives_trap {code sub : Nat} {tinfo : Word} (hc : exec c s = .next (applyRes s t false (.trap s1 code sub tinfo))) (ht : t < 1028)
    (hcode : code < 16) (h : Beside s s1 t) (e : thread s1 t = thread s t) (hf : (thread s t).stepping = false) (hv : Enters s t code) :
    Gives c s (Precise s t code sub tinfo) := by
  have hv1 : Enters s1 t code := h.enters ht hcode (by rw [e]; exact hv.2.1) hv
  obtain ⟨hb, hth⟩ := precise (sub := sub) (tinfo := tinfo) ht hcode hv1 (by rw [e]; exact hf)
  have hres : applyRes s t false (.trap s1 code sub tinfo)
      = stepEnd (takeTrap s1 t code sub tinfo (thread s1 t).pc.toNat (thread s1 t).pc.toNat) t := by
    simp only [applyRes, e]
  refine ⟨_, hc, ?_⟩
  rw [hres]
  refine ⟨h.trans hb, hth.trans ?_⟩
  rw [e]
  unfold trapped
  rw [h.handlerPc]

end Ends

/-! ## Instructions of registers alone -/

/-- The thread right after a register instruction has written d and ST. -/
def aluThread (s : State) (t d : Nat) (o : Alu) : Thread := { thread s t with w := (afterAlu s t d o).w, st := o.st }

/-- How a register instruction ends: it completes, or completes and traps. -/
theorem aluRes_eq (s : State) (t d : Nat) (o : Alu) : ∃ s1, Only s s1 t (aluThread s t d o)
    ∧ aluRes s t d o = match o.trap with
      | some code => .late s1 code
      | none => .done s1 := by
  have hst : Only s (setSt s t o.st) t { thread s t with st := o.st } := Only.modThread s t _
  unfold aluRes aluThread afterAlu
  cases hd : o.d with
  | none => exact ⟨_, hst, rfl⟩
  | some v => exact ⟨_, hst.mod (fun th => { th with w := Tbl.set (fun _ => 0) th.w d v }), rfl⟩

/-- The traps that a register instruction may take after it completes: OVF, or BCD without a result (R125). -/
def TrapsLate (o : Alu) : Prop := ∀ code, o.trap = some code → code < 16 ∧ (code = 8 → o.d = none)

section TrapsLate
variable (st : Word)

theorem trapsLate_ovf (d : Option Word) (st' : Word) (v : Bool) : TrapsLate ⟨d, st', ovf v st⟩ := fun code h => by
  simp only [ovf, Option.ite_none_right_eq_some, Option.some.injEq] at h
  omega

theorem trapsLate_none (d : Option Word) (st' : Word) : TrapsLate ⟨d, st', none⟩ := fun code h => by cases h

theorem trapsLate_decBad : TrapsLate (decBad st) := fun code h => by
  simp only [decBad, Option.ite_none_right_eq_some, Option.some.injEq] at h
  exact ⟨by omega, fun _ => rfl⟩

@[simp] theorem trapsLate_aluAdd (a b : Word) (c : Nat) : TrapsLate (aluAdd st a b c) := trapsLate_ovf st _ _ _
@[simp] theorem trapsLate_aluSub (a b : Word) (c : Nat) : TrapsLate (aluSub st a b c) := trapsLate_ovf st _ _ _
@[simp] theorem trapsLate_aluCmp (a b : Word) : TrapsLate (aluCmp st a b) := trapsLate_none _ _
@[simp] theorem trapsLate_aluLogic (r : Word) : TrapsLate (aluLogic st r) := trapsLate_none _ _
@[simp] theorem trapsLate_aluTest (r : Word) : TrapsLate (aluTest st r) := trapsLate_none _ _
@[simp] theorem trapsLate_aluMove (r : Word) : TrapsLate (aluMove st r) := trapsLate_none _ _
@[simp] theorem trapsLate_aluShl (a n : Word) : TrapsLate (aluShl st a n) := trapsLate_none _ _
@[simp] theorem trapsLate_aluShr (a n : Word) : TrapsLate (aluShr st a n) := trapsLate_none _ _
@[simp] theorem trapsLate_aluSar (a n : Word) : TrapsLate (aluSar st a n) := trapsLate_none _ _
@[simp] theorem trapsLate_aluRot (a n : Word) : TrapsLate (aluRot st a n) := trapsLate_none _ _
@[simp] theorem trapsLate_aluAbs (a : Word) : TrapsLate (aluAbs st a) := trapsLate_ovf st _ _ _
@[simp] theorem trapsLate_decAdjust (a : Word) (sub : Bool) : TrapsLate (decAdjust st a sub) := trapsLate_none _ _
@[simp] theorem trapsLate_decCheck (a : Word) : TrapsLate (decCheck st a) := trapsLate_none _ _
@[simp] theorem trapsLate_decFromBin (a : Word) : TrapsLate (decFromBin st a) := trapsLate_ovf st _ _ _

/-- A decimal operation traps BCD alone. -/
theorem trapsLate_decimal (p : Bool) (d : Option Word) (st' : Word) : TrapsLate (if p then ⟨d, st', none⟩ else decBad st) := by
  split
  · exact trapsLate_none d st'
  · exact trapsLate_decBad st

@[simp] theorem trapsLate_decAdd (a b : Word) (c : Nat) : TrapsLate (decAdd st a b c) := trapsLate_decimal st (decOk a && decOk b) _ _
@[simp] theorem trapsLate_decSub (a b : Word) (c : Nat) : TrapsLate (decSub st a b c) := trapsLate_decimal st (decOk a && decOk b) _ _
@[simp] theorem trapsLate_decShl (a b : Word) : TrapsLate (decShl st a b) := trapsLate_decimal st (decOk a) _ _
@[simp] theorem trapsLate_decShr (a b : Word) : TrapsLate (decShr st a b) := trapsLate_decimal st (decOk a) _ _
@[simp] theorem trapsLate_decToBin (a : Word) : TrapsLate (decToBin st a) := trapsLate_decimal st (decOk a) _ _

end TrapsLate

theorem aluOps_trapsLate : ∀ e ∈ aluOps, ∀ st d a b, TrapsLate (e.f st d a b) := by simp [aluOps]
theorem immOps_trapsLate : ∀ e ∈ immOps, ∀ st a i, TrapsLate (e.f st a i) := by simp [immOps]
theorem decOps_trapsLate : ∀ e ∈ decOps, ∀ st d a b, TrapsLate (e.f st d a b) := by simp [decOps]

/-- Fused operations never trap after completion. -/
theorem fuseOps_trap : ∀ e ∈ fuseOps, ∀ st d a b, (e.f st d a b).trap = none := by
  intro e he
  fin_cases he <;> exact fun _ _ _ _ => rfl

/-- What is counted beside an instruction: the thread is as before. -/
def Silent (f : State → State) (t : Nat) : Prop := ∀ s, Beside s (f s) t ∧ thread (f s) t = thread s t

theorem silent_id (t : Nat) : Silent id t := fun s => ⟨Beside.refl s t, rfl⟩
theorem silent_pcEvent {t : Nat} (ht : t < 1028) (evt : Nat) : Silent (fun s => pcEvent s t evt) t := fun s => Beside.pcEvent s evt 1 ht

theorem also_id (r : Res) : r.also id = r := by cases r <;> rfl

section Alu
variable {c : Instr} {s : State} {t d : Nat} {o : Alu} {f : State → State}

/-- A register instruction that does not trap completes. -/
theorem alu_completes (hc : exec c s = .next (applyRes s t false ((aluRes s t d o).also f))) (hf : Silent f t) (ht : t < 1028)
    (hs : (thread s t).stepping = false) (hn : o.trap = none) :
    Gives c s (fun s' => Beside s s' t ∧ thread s' t = afterAlu s t d o) := by
  obtain ⟨s1, h1, hres⟩ := aluRes_eq s t d o
  rw [hres, hn] at hc
  obtain ⟨hb, e⟩ := h1.toBeside
  obtain ⟨hb', e'⟩ := hf s1
  exact gives_done (th := aluThread s t d o) hc ht (hb.trans hb') (e'.trans e) hs ⟨rfl, rfl⟩

/-- A register instruction that leaves tl and traps first completes. -/
theorem alu_traps {code : Nat} (hc : exec c s = .next (applyRes s t false ((aluRes s t d o).also f))) (hf : Silent f t) (ht : t < 1028)
    (hs : (thread s t).stepping = false) (hn : o.trap = some code) (hcode : code < 16) (hl : Leaves 20 31 (thread s t).st o.st)
    (hv : Enters s t code) :
    Gives c s (fun s' => Beside s s' t
      ∧ thread s' t = trapped s t code 0 (word (instrPc s t)) (word (nextPc s t)) (aluThread s t d o)) := by
  obtain ⟨s1, h1, hres⟩ := aluRes_eq s t d o
  rw [hres, hn] at hc
  obtain ⟨hb, e⟩ := h1.toBeside
  obtain ⟨hb', e'⟩ := hf s1
  exact gives_late (th := aluThread s t d o) hc ht hcode (hb.trans hb') (e'.trans e) hs ⟨rfl, rfl⟩
    ((hl 29 (by decide) (by decide)).trans hv.2.1) hv

end Alu

/-! ## The tables run -/

section Tables
variable {s : State} {t : Tid} {w : Word}

theorem isF3_row {op fn : Nat} {f : Fields} (h : IsF3 op fn f w) : isF3 op fn w = true := by simp [isF3, h.1, h.2.1]
theorem isFI_row {op sel : Nat} {f : Fields} (h : IsFI op sel f w) : isFI op sel w = true := by simp [isFI, h.1, h.2.1]
theorem isFX_row {op sub : Nat} {f : Fields} (h : IsFX op sub f w) : isFX op sub w = true := by simp [isFX, h.1, h.2.1]

/-- An ALU instruction runs. -/
theorem aluOp_runs {e : RegOp} (he : e ∈ aluOps) (hw : IsF3 0x01 e.fn e.fields w) (hi : Issues s t) (hb : Bare s t) :
    exec (e.cmd t w) s = .next (applyRes s t false ((aluRes s t (wD w)
      (e.f (thread s t).st (wreg s t (wD w)) (wreg s t (wA w)) (wreg s t (wB w)))).also id)) := by
  rw [also_id]
  exact runs_bare (aluOps_rows e he t w s) t.isLt hi hb (isF3_row hw) hw.2.2 rfl rfl

/-- An immediate instruction runs, without a prefix or under an EXT that it admits. -/
theorem immOp_runs {e : ImmOp} (he : e ∈ immOps) (hw : IsFI e.op e.sel e.fields w) (hi : Issues s t)
    (hb : Bare s t ∨ (e.ext = true ∧ BareOrExt s t)) :
    exec (e.cmd t w) s = .next (applyRes s t false ((aluRes s t (wD w) (e.f (thread s t).st (wreg s t (wA w)) (e.imm s t w))).also id)) := by
  have hrow := immOps_rows e he t w s
  rw [also_id]
  rcases hb with hb | ⟨hx, hb⟩
  · exact runs_bare hrow t.isLt hi hb (isFI_row hw) hw.2.2 rfl rfl
  · exact runs_ext hrow t.isLt hi hb (isFI_row hw) hx hw.2.2 rfl rfl

/-- A decimal instruction runs outside a repeat. -/
theorem decOp_runs {e : RegOp} (he : e ∈ decOps) (hw : IsF3 0x07 e.fn e.fields w) (hi : Issues s t) (hb : Bare s t) :
    exec (e.cmd t w) s = .next (applyRes s t false ((aluRes s t (wD w)
      (e.f (thread s t).st (wreg s t (wD w)) (wreg s t (wA w)) (wreg s t (wB w)))).also (fun s => pcEvent s t 0x16))) := by
  obtain ⟨r, hr⟩ := decOps_rows e he
  have hf : FieldsOk (r.fields w) r.three w := by rw [hr.fields, hr.three]; exact hw.2.2
  exact (runs_bare (hr.exec t w s) t.isLt hi hb (by rw [hr.is]; exact isF3_row hw) hf (by rw [hr.clean]) (by rw [hr.early])).trans
    (by rw [hr.run t w s hb]; rfl)

end Tables

/-! ## The statements -/

/-- Settles O1: the rows run, and what they leave is `afterAlu`. -/
theorem aluAndImmediateInstructions : Obligations.AluAndImmediateInstructions := by
  unfold Obligations.AluAndImmediateInstructions
  exact ⟨fun e he t w s hw hi hb hn => alu_completes (aluOp_runs he hw hi hb) (silent_id t) t.isLt hi.2.2.2.2 hn,
    fun e he t w s hw hi hb hn => alu_completes (immOp_runs he hw hi hb) (silent_id t) t.isLt hi.2.2.2.2 hn,
    fun _ _ w hb => imm_bare w hb, fun _ _ w _ hx => imm_ext w hx⟩

/-- Settles O4: the rows run, complete, and take the trap with tl as before. -/
theorem trapsAfterCompletion : Obligations.TrapsAfterCompletion := by
  unfold Obligations.TrapsAfterCompletion
  refine ⟨fun e he t w s code hw hi hb hn hv => ?alu, fun e he t w s code hw hi hb hn hv => ?imm,
    fun e he t w s code hw hi hb hn hv => ?dec⟩
  case alu =>
    have hcode := (aluOps_trapsLate e he _ _ _ _ code hn).1
    exact alu_traps (aluOp_runs he hw hi hb) (silent_id t) t.isLt hi.2.2.2.2 hn hcode (aluOps_leave e he _ _ _ _) hv
  case imm =>
    have hcode := (immOps_trapsLate e he _ _ _ code hn).1
    exact alu_traps (immOp_runs he hw hi hb) (silent_id t) t.isLt hi.2.2.2.2 hn hcode (immOps_leave e he _ _ _) hv
  case dec =>
    obtain ⟨hcode, hbad⟩ := decOps_trapsLate e he _ _ _ _ code hn
    obtain ⟨s', hs', hb', hth⟩ := alu_traps (decOp_runs he hw hi hb) (silent_pcEvent t.isLt 0x16) t.isLt hi.2.2.2.2 hn hcode
      (decOps_leave e he _ _ _ _) hv
    exact ⟨s', hs', hb', hbad, hth⟩

/-! ## Packed decimal (R128) -/

/-- An invalid digit leaves d and the flags, and sets bi (R128). -/
theorem decimal_bad (st : Word) {a b : Word} (c : Nat) (h : decOk a = false ∨ decOk b = false) :
    decAdd st a b c = decBad st ∧ decSub st a b c = decBad st := by
  have hp : ¬ (decOk a && decOk b) = true := by rcases h with h | h <;> simp [h]
  exact ⟨if_neg hp, if_neg hp⟩

/-- DCVB gives the number of the digits, and DCVD of it the digits. -/
theorem decToBin_shows (st : Word) {a : Word} (h : decOk a = true) :
    (decToBin st a).d = some (word (decVal a)) ∧ (word (decVal a)).toNat = decVal a
      ∧ (decFromBin st (word (decVal a))).d = some a := by
  have hlt : decVal a < 100000000 := lowDigits_lt h (n := 8) (by omega)
  have hw : (word (decVal a)).toNat = decVal a := word_toNat (by omega)
  refine ⟨?_, hw, ?_⟩
  · unfold decToBin; rw [if_pos h]
  · unfold decFromBin
    dsimp only
    rw [hw, Nat.mod_eq_of_lt hlt, packDec_decVal h]
    simp [word]

/-- Settles O13: the rows run, and packed digits spell the sum, the ten's complement difference, and the number. -/
theorem packedDecimal : Obligations.PackedDecimal := by
  unfold Obligations.PackedDecimal
  refine ⟨fun e he t w s hw hi hb hn => alu_completes (decOp_runs he hw hi hb) (silent_pcEvent t.isLt 0x16) t.isLt hi.2.2.2.2 hn,
    fun st a b c hc ha hb => ⟨?sum, ?difference⟩, fun st a b c h o ho => ?bad, fun st a h => ?convert⟩
  case sum =>
    have hp := decOk_packDec (decVal a + decVal b + c)
    refine ⟨_, congrArg Alu.d (decAdd_ok st c ha hb), hp, ?_, ?_, ?_, ?_, ?_⟩
    · rw [← packDec_congr (n := 8) (Nat.mod_mod (decVal a + decVal b + c) 100000000)]
      exact decVal_packDec (Nat.mod_lt _ (by decide))
    all_goals rw [decAdd_ok st c ha hb]
    · exact stC_decFlags _ _ _
    · exact stZ_decFlags _ _ _
    · exact stN_decFlags _ _ _
    · exact stV_decFlags _ _ _
  case difference =>
    have hlb : decVal b < 100000000 := lowDigits_lt hb (n := 8) (by omega)
    refine ⟨_, congrArg Alu.d (decSub_ok st c ha hb), decOk_packDec _, ?_, ?_, ?_, ?_, ?_⟩
    · rw [← packDec_congr (n := 8) (Nat.mod_mod (100000000 + decVal a - (decVal b + c)) 100000000),
        decVal_packDec (Nat.mod_lt _ (by decide))]
      omega
    all_goals rw [decSub_ok st c ha hb]
    · exact stC_decFlags _ _ _
    · exact stZ_decFlags _ _ _
    · exact stN_decFlags _ _ _
    · exact stV_decFlags _ _ _
  case bad =>
    obtain ⟨hadd, hsub⟩ := decimal_bad st c h
    simp only [List.mem_cons, List.not_mem_nil, or_false, hadd, hsub, or_self] at ho
    subst ho
    exact ⟨rfl, rfl, rfl⟩
  case convert => exact ⟨_, decToBin_shows st h⟩

/-! ## Prefixes and fused operations (R130, R167) -/

/-- A thread that issues is RUNNING and has no load outstanding. -/
theorem Issues.running {s : State} {t : Nat} (hi : Issues s t) : (thread s t).state = .running ∧ (thread s t).load = none := by
  have h := hi.1
  simp only [canIssue, Bool.and_eq_true, decide_eq_true_eq, Option.isNone_iff_eq_none] at h
  obtain ⟨⟨⟨⟨⟨⟨hs, hl⟩, -⟩, -⟩, -⟩, -⟩, -⟩ := h
  exact ⟨hs, hl⟩

/-- A prefix that issues after no prefix, with its reserved fields 0, waits for its instruction. -/
theorem prefix_waits {s : State} {t : Nat} {w : Word} {p : Word → Prefix} {bad : Word → Option Nat} (hi : Issues s t) (hbad : bad w = none) :
    applyRes s t false (prefixRun p bad t w s) = setThread s t { thread s t with pfx := p w, rptPort := none } := by
  unfold prefixRun
  rw [hbad]
  simp only [applyRes, thread_modThread_same]
  rw [if_neg (by rw [hi.running.1]; decide)]
  rfl

/-- The RPT and EXT words without reserved fields. -/
theorem rptBad_none {w : Word} (h : bits w 25 24 ≤ 1) (h0 : bits w 23 0 = 0) : rptBad w = none := by
  unfold rptBad
  rw [if_neg (by omega), if_neg (by omega)]

theorem extBad_none {w : Word} (h : bits w 25 18 = 0) : extBad w = none := by
  unfold extBad
  rw [if_neg (by omega)]

/-- Settles O15: a prefix waits, or traps after another; a fused row runs under its class, and is UD 0x04 without it. -/
theorem prefixesAndFusedOperations : Obligations.PrefixesAndFusedOperations := by
  unfold Obligations.PrefixesAndFusedOperations
  refine ⟨fun t w s hi hb => ⟨fun hop h1 h0 => ?rpt, fun hop h0 => ?ext⟩, fun t w s hi18 hi hp hv hop h0 => ?double,
    fun e he t w s hw hi hb => ⟨fun hon => ?fused, fun hoff hv => ?off⟩⟩
  case rpt =>
    have hrun := runs_bare (r := rptRow) (c := .rpt t w) (s := s) rfl t.isLt hi hb (by simp [rptRow, hop]) ⟨rfl, rfl⟩ rfl
      (if_pos hb)
    rw [hrun]
    refine congrArg _ ((prefix_waits (p := fun w => .rpt (bit w 24)) hi (rptBad_none h1 h0)).trans ?_)
    have hdir : bit w 24 = decide (bits w 25 24 = 1) := by
      have hb24 := testBit_bits w 25 24 0
      rcases Nat.le_one_iff_eq_zero_or_eq_one.mp h1 with h | h <;> rw [h] at hb24 ⊢ <;> simpa using hb24.symm
    rw [hdir]
  case ext =>
    have hrun := runs_bare (r := extRow) (c := .ext t w) (s := s) rfl t.isLt hi hb (by simp [extRow, hop]) ⟨rfl, rfl⟩ rfl
      (if_pos hb)
    rw [hrun]
    refine congrArg _ ((prefix_waits (p := fun w => .ext (BitVec.ofNat 18 (bits w 17 0))) hi (extBad_none h0)).trans ?_)
    have hval : BitVec.ofNat 18 (bits w 17 0) = w.setWidth 18 := by
      apply BitVec.eq_of_toNat_eq
      simp [bits_low]
    rw [hval]
  case double =>
    refine gives_early (r := extRow) rfl t.isLt hi (by simp [extRow, hop]) ?_ (by decide) hv
    unfold earlyTrap
    simp [extRow, badReg, badUnused, doublePrefix, hp, extBad_none h0]
  case fused =>
    have hrun := runs_bare (fuseOps_rows e he t w s) t.isLt hi hb (isF3_row hw) hw.2.2 rfl (if_pos hon)
    rw [← also_id (Row.run _ _ _ _)] at hrun
    exact alu_completes hrun (silent_id t) t.isLt hi.2.2.2.2 (fuseOps_trap e he _ _ _ _)
  case off =>
    refine gives_early (fuseOps_rows e he t w s) t.isLt hi (isF3_row hw) ?_ (by decide) hv
    unfold earlyTrap
    simp [fuseRow, hw.2.2.1, hw.2.2.2, hoff]

end Sys2Proof.Machine
end

section
/-! PROOFS. Precise traps, branches and returns, products and quotients (O5, O7, O12). -/

namespace Sys2Proof.Machine

/-! ## Trap entry (R113, R132, R135, R137) -/

/-- An unused or wrong register field of an ALU instruction is UD 0x02 or 0x03 before any other cause. -/
theorem earlyTrap_badReg {r : Row} {s : State} {t : Nat} {w : Word} (h : badReg (r.fields w) w = true) :
    earlyTrap r s t w = some (0, 2) := by
  unfold earlyTrap
  rw [if_pos h]

theorem earlyTrap_badUnused {r : Row} {s : State} {t : Nat} {w : Word} (h : badReg (r.fields w) w = false)
    (h' : badUnused (r.fields w) r.three w = true) : earlyTrap r s t w = some (0, 3) := by
  unfold earlyTrap
  simp [h, h']

/-- A word with good fields and no cause of its own meets the PREFIX cause of the prefix before it. -/
theorem earlyTrap_prefix {r : Row} {s : State} {t : Nat} {w : Word} {p : Prefix} {k : Nat} (hf : FieldsOk (r.fields w) r.three w)
    (hclean : r.clean w = true) (he : r.early s t w = none) (hp : (thread s t).pfx = p) (hk : prefixTrap r w p = some k) :
    earlyTrap r s t w = some (5, k) := by
  unfold earlyTrap
  simp [hf.1, hf.2, hclean, he, hp, hk]

/-- BRK takes its trap (R119). -/
theorem brk_runs {s : State} {t : Nat} {w : Word} (ht : t < 1028) (hi : Issues s t) (hb : Bare s t) (hw : IsFX 0x15 0x03 .none w) :
    issue brkRow t w s = applyRes s t false (.trap s 9 0 (word (wX w))) :=
  issue_runs ht hi (isFX_row hw) (early_none hb hw.2.2 rfl rfl) hb.not_rpt

/-- Settles O5: BRK runs as a trap; each other word has the early cause of its rule. -/
theorem preciseTraps : Obligations.PreciseTraps := by
  unfold Obligations.PreciseTraps
  refine ⟨fun t w s hw hi hb hv => ?brk, fun t w s hop hi hv => ?reserved, fun e he t w s hop hfn hi => ?alu⟩
  case brk =>
    have hrun : exec (.brk t w) s = .next (applyRes s t false (.trap s 9 0 (word (wX w)))) := congrArg _ (brk_runs t.isLt hi hb hw)
    exact gives_trap hrun t.isLt (by decide) (Beside.refl s t) rfl hi.2.2.2.2 hv
  case reserved =>
    have hmajor : majorKnown w = false := by
      unfold majorKnown
      rcases hop with h | h | h | h <;> simp [h]
      omega
    have hrow : exec (.reservedOpcode t w) s = .next (issue reservedRow t w s) := by
      show Host.Outcome.next (reservedOpcode t w s) = _
      unfold reservedOpcode
      rw [if_neg (by omega), if_neg (by omega)]
    refine gives_early hrow t.isLt hi (by simp [reservedRow, hmajor]) ?_ (by decide) hv
    unfold earlyTrap
    simp [reservedRow, badReg, badUnused, hmajor]
  case alu =>
    have hrow := aluOps_rows e he t w s
    have hw : (regOpRow 0x01 e).is w = true := by simp [regOpRow, isF3, hop, hfn]
    refine ⟨fun hv hreg => ?_, fun hv hreg hun => ?_, fun hv hf ⟨x, hp⟩ => ?_, fun hv hf ⟨dir, hp⟩ => ?_⟩
    · exact gives_early hrow t.isLt hi hw (earlyTrap_badReg hreg) (by decide) hv
    · exact gives_early hrow t.isLt hi hw (earlyTrap_badUnused hreg hun) (by decide) hv
    · exact gives_early hrow t.isLt hi hw (earlyTrap_prefix hf rfl rfl hp rfl) (by decide) hv
    · exact gives_early hrow t.isLt hi hw (earlyTrap_prefix hf rfl rfl hp rfl) (by decide) hv

/-! ## Branches and returns (R118, R119, R139) -/

/-- The next word of a thread without a prefix. -/
theorem instrPc_bare {s : State} {t : Nat} (hb : Bare s t) : instrPc s t = (thread s t).pc.toNat := by
  simp [instrPc, show (thread s t).pfx = .none from hb]

theorem nextPc_bare {s : State} {t : Nat} (hb : Bare s t) : word (nextPc s t) = ((thread s t).pc + 4).setWidth 32 := by
  apply BitVec.eq_of_toNat_eq
  unfold nextPc
  rw [instrPc_bare hb, word_toNat (by omega), BitVec.toNat_setWidth, BitVec.toNat_add]
  exact (Nat.mod_eq_of_lt (by omega)).symm

theorem pcAfter_bare {s : State} {t : Nat} (hb : Bare s t) : pcAfter s t = (thread s t).pc + 4 := by
  unfold pcAfter nextPc
  rw [instrPc_bare hb]
  apply BitVec.eq_of_toNat_eq
  simp [BitVec.toNat_add]

/-- The target of a branch, as a PC (R118). -/
theorem branchTarget_bare {s : State} {t : Nat} (w : Word) (hb : Bare s t) :
    BitVec.ofNat 16 (branchTarget s t w % 65536) = (thread s t).pc + (4 * sext 20 (wOff w)).setWidth 16 := by
  unfold branchTarget
  rw [instrPc_bare hb]
  apply BitVec.eq_of_toNat_eq
  simp [word, BitVec.toNat_add, Nat.add_mod]

/-- A unit that jumps, beside counting. -/
theorem gives_jump {c : Instr} {s s1 : State} {t : Nat} {th : Thread} {pc : Nat} (hc : exec c s = .next (applyRes s t false (.jump s1 pc)))
    (ht : t < 1028) (h : Beside s s1 t) (e : thread s1 t = th) (hf : th.stepping = false) :
    Gives c s (fun s' => Beside s s' t ∧ thread s' t = { th with pc := BitVec.ofNat 16 (pc % 65536), pfx := .none }) :=
  ⟨_, hc, jump_of_beside pc ht h e hf⟩

/-- BR writes W23 where it links, then jumps or goes on. -/
theorem br_gives {t : Tid} {w : Word} {s : State} (hi : Issues s t) (hb : Bare s t) (hop : wOp w = 0x10) (hcond : wCond w ≠ 15)
    (h20 : bit w 20 = false) : Gives (.br t w) s (fun s' => Beside s s' t ∧ thread s' t =
      { (if wLink w then withW (thread s t) 23 (((thread s t).pc + 4).setWidth 32) else thread s t) with
        pc := if condHolds (wCond w) (thread s t).st then (thread s t).pc + (4 * sext 20 (wOff w)).setWidth 16 else (thread s t).pc + 4
        pfx := .none }) := by
  generalize hth : (if wLink w then withW (thread s t) 23 (((thread s t).pc + 4).setWidth 32) else thread s t) = th
  generalize hs1 : (if wLink w then setW s t 23 (word (nextPc s t)) else s) = s1
  have hlink : Only s s1 t th := by
    subst hth hs1
    split
    · rw [nextPc_bare hb]; exact Only.modThread s t _
    · exact Only.refl s t
  have hkeep : th.stepping = false ∧ th.pc = (thread s t).pc ∧ th.pfx = (thread s t).pfx := by
    subst hth
    split <;> exact ⟨hi.2.2.2.2, rfl, rfl⟩
  obtain ⟨hbs, he⟩ := hlink.toBeside
  have hrun := runs_bare (r := brRow) (c := .br t w) (s := s) rfl t.isLt hi hb (by simp [brRow, hop, hcond]) ⟨rfl, rfl⟩
    (by simp [brRow, h20]) rfl
  simp only [brRow, hs1] at hrun
  by_cases hc : condHolds (wCond w) (thread s t).st = true
  · rw [if_pos hc] at hrun ⊢
    obtain ⟨hbe, hev⟩ := Beside.pcEvent s1 0x09 1 t.isLt
    rw [← branchTarget_bare w hb]
    exact gives_jump hrun t.isLt (hbs.trans hbe) (hev.trans he) hkeep.1
  · rw [if_neg hc] at hrun ⊢
    rw [← pcAfter_bare hb]
    exact gives_done hrun t.isLt hbs he hkeep.1 hkeep.2

/-- A word address of the low half of a register (R119). -/
theorem jumpTarget_aligned {v : Word} (h : bits v 1 0 = 0) :
    v.toNat % 65536 % 4 = 0 ∧ BitVec.ofNat 16 (v.toNat % 65536 % 65536) = v.setWidth 16 := by
  rw [bits_low] at h
  refine ⟨by omega, ?_⟩
  apply BitVec.eq_of_toNat_eq
  simp

theorem jumpTarget_misaligned {v : Word} (h : bits v 1 0 ≠ 0) :
    v.toNat % 65536 % 4 ≠ 0 ∧ word (v.toNat % 65536) = v &&& 0xFFFF := by
  rw [bits_low] at h
  refine ⟨by omega, ?_⟩
  apply BitVec.eq_of_toNat_eq
  rw [word_toNat (by omega), BitVec.toNat_and]
  exact (Nat.and_two_pow_sub_one_eq_mod v.toNat 16).symm

section Jumps
variable {c : Instr} {t : Tid} {w : Word} {s : State} {f : State → State} {th : Thread}

/-- A jump to a word address, after what it writes. -/
theorem jumpTo_jumps (hc : exec c s = .next (applyRes s t false (jumpTo s t w f)))
    (ha : bits (wreg s t (wA w)) 1 0 = 0) (hf : Only s (f s) t th) (hst : th.stepping = false) :
    Gives c s (fun s' => Beside s s' t ∧ thread s' t = { th with pc := (wreg s t (wA w)).setWidth 16, pfx := .none }) := by
  obtain ⟨hal, hpc⟩ := jumpTarget_aligned ha
  have hj : jumpTo s t w f = .jump (f s) ((wreg s t (wA w)).toNat % 65536) := if_neg (by omega)
  rw [hj] at hc
  obtain ⟨hb, e⟩ := hf.toBeside
  rw [← hpc]
  exact gives_jump hc t.isLt hb e hst

/-- A jump to an address that is no word traps ALIGN with the target. -/
theorem jumpTo_traps (hc : exec c s = .next (applyRes s t false (jumpTo s t w f))) (hi : Issues s t)
    (ha : bits (wreg s t (wA w)) 1 0 ≠ 0) (hv : Enters s t 2) : Gives c s (Precise s t 2 0 ((wreg s t (wA w)) &&& 0xFFFF)) := by
  obtain ⟨hal, hti⟩ := jumpTarget_misaligned ha
  have hj : jumpTo s t w f = .trap s 2 0 (word ((wreg s t (wA w)).toNat % 65536)) := if_pos hal
  rw [hj, hti] at hc
  exact gives_trap hc t.isLt (by decide) (Beside.refl s t) rfl hi.2.2.2.2 hv

end Jumps

/-- A SYS instruction without early causes of its own runs. -/
theorem sys_runs {c : Instr} {s : State} {t : Nat} {w : Word} {sub : Nat} {fields : Fields} {run : Nat → Word → State → Res}
    (hc : exec c s = .next (issue (sysRow sub fields run) t w s)) (ht : t < 1028) (hi : Issues s t) (hb : Bare s t)
    (hw : IsFX 0x15 sub fields w) (hx : wX w = 0) : exec c s = .next (applyRes s t false (run t w s)) :=
  runs_bare hc ht hi hb (isFX_row hw) hw.2.2 (by simp [sysRow, hx]) rfl

/-- JALR writes its link register and jumps (R119). -/
theorem jalr_runs {s : State} {t : Tid} {w : Word} (hi : Issues s t) (hb : Bare s t) (hw : IsFX 0x15 0x02 .da w) (hx : wX w = 0) :
    exec (.jalr t w) s = .next (applyRes s t false (jumpTo s t w (fun s => setW s t (wD w) (word (nextPc s t))))) :=
  sys_runs (run := fun t w s => jumpTo s t w (fun s => setW s t (wD w) (word (nextPc s t)))) rfl t.isLt hi hb hw hx

/-- Settles O7: a branch and a jump leave their thread at the target; RTE leaves it at EPC and at the level of CAUSE. -/
theorem branchesAndReturns : Obligations.BranchesAndReturns := by
  unfold Obligations.BranchesAndReturns
  refine fun t w s hi hb => ⟨br_gives hi hb, fun hx ha => ⟨fun hw => ?jr, fun hw => ?jalr⟩, fun hx ha hv => ⟨fun hw => ?jrTrap, fun hw => ?jalrTrap⟩,
    fun hx hw => ⟨fun htl hl hm => ?rte, fun htl hv => ?rteTrap⟩⟩
  case jr =>
    exact jumpTo_jumps (f := id) (sys_runs (run := fun t w s => jumpTo s t w id) rfl t.isLt hi hb hw hx) ha (Only.refl s t) hi.2.2.2.2
  case jalr =>
    rw [← nextPc_bare hb]
    exact jumpTo_jumps (jalr_runs hi hb hw hx) ha (Only.modThread s t fun th => withW th (wD w) (word (nextPc s t))) hi.2.2.2.2
  case jrTrap =>
    exact jumpTo_traps (sys_runs (run := fun t w s => jumpTo s t w id) rfl t.isLt hi hb hw hx) hi ha hv
  case jalrTrap => exact jumpTo_traps (jalr_runs hi hb hw hx) hi ha hv
  case rte =>
    have hearly : rteRow.early s t w = none := by
      simp only [rteRow, htl, not_true_eq_false, if_false]
      rw [if_neg]
      rintro (h | ⟨h3, hlt⟩)
      · exact hl h
      · rcases hm with hm | hm
        · exact hm h3
        · omega
    have hrun := runs_bare (r := rteRow) (c := .rte t w) (s := s) rfl t.isLt hi hb (isFX_row hw) hw.2.2 (by simp [rteRow, hx]) hearly
    obtain ⟨hbs, he⟩ := (Only.modThread s t fun th => { th with
      st := setBits (setBit th.st 29 false) 31 30 (bits th.cause 21 20), pc := th.epc.setWidth 16 }).toBeside
    obtain ⟨s', hs', hb', hth⟩ := gives_jump hrun t.isLt hbs he hi.2.2.2.2
    refine ⟨s', hs', hb', hth.trans ?_⟩
    have hpc : BitVec.ofNat 16 ((thread s t).epc.toNat % 65536) = (thread s t).epc.setWidth 16 := by
      apply BitVec.eq_of_toNat_eq
      simp
    rw [hpc]
  case rteTrap =>
    refine gives_early (r := rteRow) rfl t.isLt hi (isFX_row hw) ?_ (by decide) hv
    unfold earlyTrap
    simp [rteRow, hw.2.2.1, hw.2.2.2, hx, htl]

/-! ## Products and quotients (R124, R126, R127) -/

/-- The two words of a product. -/
theorem high_word (p : BitVec 64) : (p >>> 32).setWidth 32 = p.extractLsb 63 32 := by
  apply BitVec.eq_of_toNat_eq
  simp

theorem low_word (p : BitVec 64) : p.setWidth 32 = p.extractLsb 31 0 := by
  apply BitVec.eq_of_toNat_eq
  simp

/-- A product waits behind the thread's pending products. -/
theorem product_gives {c : Instr} {t : Tid} {w : Word} {s : State} {fn : Nat} {f : State → Nat → Word → Word → BitVec 64}
    (hc : exec c s = .next (issue (productRow fn f) t w s)) (hi : Issues s t) (hb : Bare s t) (hw : IsF3 0x06 fn .ab w) :
    Gives c s (Completes s t { thread s t with products := (thread s t).products ++ [f s t (wreg s t (wA w)) (wreg s t (wB w))] }) := by
  obtain ⟨hbs, he⟩ := Beside.modThread s t
    (fun th => { th with products := th.products ++ [f s t (wreg s t (wA w)) (wreg s t (wB w))] })
  exact gives_done (runs_bare hc t.isLt hi hb (isF3_row hw) hw.2.2 rfl rfl) t.isLt hbs he hi.2.2.2.2 ⟨rfl, rfl⟩

/-- A division that does not trap: V and dz at once, the result behind the thread's pending quotients. -/
theorem quotient_gives {c : Instr} {t : Tid} {w : Word} {s : State} {fn : Nat} {f : Word → Word → Word → Quot} {q : Quot}
    (hc : exec c s = .next (issue (quotientRow fn f) t w s)) (hi : Issues s t) (hb : Bare s t) (hw : IsF3 0x06 fn .ab w)
    (hq : f (thread s t).st (wreg s t (wA w)) (wreg s t (wB w)) = q) (hn : q.trap = none) :
    Gives c s (Completes s t { thread s t with st := q.st, quotients := (thread s t).quotients ++ [(q.qu, q.rm)] }) := by
  obtain ⟨hbs, he⟩ := Beside.modThread s t (fun th => { th with st := q.st, quotients := th.quotients ++ [(q.qu, q.rm)] })
  have hrun := runs_bare hc t.isLt hi hb (isF3_row hw) hw.2.2 rfl rfl
  simp only [quotientRow, hq, hn] at hrun
  exact gives_done hrun t.isLt hbs he hi.2.2.2.2 ⟨rfl, rfl⟩

/-- An unsigned division by another divisor than 0 (R126). -/
theorem divUnsigned_shows (st a : Word) {b : Word} (h : b ≠ 0) :
    (divUnsigned st a b).qu.toNat = a.toNat / b.toNat ∧ (divUnsigned st a b).rm.toNat = a.toNat % b.toNat := by
  have ha := a.isLt
  have hq := Nat.div_le_self a.toNat b.toNat
  have hr := Nat.mod_le a.toNat b.toNat
  unfold divUnsigned
  rw [if_neg h]
  exact ⟨word_toNat (by omega), word_toNat (by omega)⟩

/-- A signed division truncates toward 0 (R126). -/
theorem divSigned_shows (st : Word) {a b : Word} (h : b ≠ 0) (ho : ¬ (a = 0x80000000 ∧ b = 0xFFFFFFFF)) :
    (divSigned st a b).qu.toInt = a.toInt.tdiv b.toInt ∧ (divSigned st a b).rm = a - (divSigned st a b).qu * b := by
  have hqu : (divSigned st a b).qu = BitVec.ofInt 32 (a.toInt.tdiv b.toInt) := by unfold divSigned; rw [if_neg h]
  have hrm : (divSigned st a b).rm = BitVec.ofInt 32 (a.toInt.tmod b.toInt) := by unfold divSigned; rw [if_neg h]
  rw [hrm, hqu]
  constructor
  · have hin := BitVec.toInt_sdiv_of_ne_or_ne a b (not_and_or.mp ho)
    rw [BitVec.toInt_ofInt, ← hin, BitVec.toInt_bmod_cancel]
  · apply BitVec.eq_of_toInt_eq
    rw [Int.tmod_def, BitVec.toInt_sub, BitVec.toInt_mul, BitVec.toInt_ofInt, BitVec.toInt_ofInt, mul_comm b.toInt]
    simp

/-- Settles O12: the rows append to the pending results, and landing takes the oldest. -/
theorem productsAndQuotients : Obligations.ProductsAndQuotients := by
  unfold Obligations.ProductsAndQuotients
  refine ⟨fun t w s hi hb => ⟨product_gives (f := fun _ _ => mulS) rfl hi hb, product_gives (f := fun _ _ => mulU) rfl hi hb,
      product_gives (f := fun s t a b => latestProduct s t + mulS a b) rfl hi hb, fun c hc hw hn => ?division⟩,
    fun t s => ⟨fun p r hp => ?product, fun q m r hq => ?quotient⟩⟩
  case division =>
    rcases List.mem_pair.mp hc with rfl | rfl
    · exact ⟨quotient_gives (f := divSigned) rfl hi hb hw rfl hn, fun _ h => by simp at h,
        fun h _ ho => divSigned_shows _ h ho⟩
    · exact ⟨quotient_gives (f := divUnsigned) rfl hi hb hw rfl hn, fun h _ => divUnsigned_shows _ _ h,
        fun _ h => by simp at h⟩
  case product =>
    show Host.Outcome.next (productLand t s) = _
    unfold productLand
    rw [hp]
    simp only [modThread, ← high_word, ← low_word]
  case quotient =>
    show Host.Outcome.next (quotientLand t s) = _
    unfold quotientLand
    rw [hq]
    rfl

end Sys2Proof.Machine
end

section
/-! PROOFS. What counting leaves of the settings, and of memory; what a store leaves of memory. -/

namespace Sys2Proof.Machine

/-! ## Counting leaves the settings (R360–R364) -/

/-- A register that no counter, sample or interrupt writes: outside the PERF page, from PG_IRQ_EN up to the counters. -/
abbrev Setting (a : Nat) : Prop := a / 0x1000 ≠ 9 ∧ 0x18 ≤ a % 0x1000 ∧ a % 0x1000 < 0x300

/-- The settings are as before. -/
def Settled (s s' : State) : Prop := ∀ a, Setting a → reg s' a = reg s a

theorem Settled.refl (s : State) : Settled s s := fun _ _ => rfl

theorem Settled.trans {s s' s'' : State} (h : Settled s s') (h' : Settled s' s'') : Settled s s'' :=
  fun a ha => (h' a ha).trans (h a ha)

theorem Settled.of_regs {s s' : State} (h : s'.regs = s.regs) : Settled s s' := fun a _ => reg_congr h a

theorem Settled.setReg (s : State) {a : Nat} (v : Word) (h : ¬ Setting a) : Settled s (Machine.setReg s a v) := fun b hb =>
  reg_setReg_other s v (by rintro rfl; exact h hb)

theorem Settled.setFlag (s : State) {a : Nat} (i : Nat) (b : Bool) (h : ¬ Setting a) : Settled s (Machine.setFlag s a i b) :=
  Settled.setReg s _ h

theorem Settled.irq (s : State) {page : Nat} (i : Nat) (hp : Based page) : Settled s (Machine.irq s page i) := fun a ha => by
  rw [reg_irq, if_neg]
  rintro rfl
  have : Reg.PG_IRQ_RAW page = page + 0x14 := rfl
  omega

/-- The addresses that counting writes on a Nib's page are no settings. -/
theorem not_setting_nib {n o : Nat} (h : 0x300 ≤ o) (h' : o < 0x1000) : ¬ Setting (Reg.nibPage n + o) := by
  have := nibPage_mod n
  unfold Setting
  omega

theorem Settled.postNotice (s : State) (n : Nat) (w : List Word) : Settled s (Machine.postNotice s n w) := by
  unfold Machine.postNotice
  dsimp only
  split
  · exact Settled.of_regs rfl
  · exact (Settled.irq s 2 (nibPage_mod n)).trans (Settled.of_regs rfl)

theorem Settled.takeSample (s : State) {n : Nat} (i t : Nat) (hn : n ≤ 128) : Settled s (Machine.takeSample s n i t) := by
  have hinfo : ¬ Setting (Reg.PC_SAMPLE_INFO n) := not_setting_nib (by omega) (by omega)
  have hpc : ¬ Setting (Reg.PC_SAMPLE_PC n) := not_setting_nib (by omega) (by omega)
  have hstw : ¬ Setting Reg.PF_SAMPLE_STW := fun h => h.1 rfl
  have hnib : ¬ Setting (Reg.PF_SAMPLE (n / 32)) := by unfold Setting Reg.PF_SAMPLE; omega
  unfold Machine.takeSample
  dsimp only
  split
  · exact Settled.setFlag s 30 true hinfo
  · have sampled : ∀ v x, Settled s (Machine.setReg (Machine.setReg { s with free := s.free + 1 } (Reg.PC_SAMPLE_PC n) v)
        (Reg.PC_SAMPLE_INFO n) x) := fun v x =>
      ((Settled.of_regs rfl).trans (Settled.setReg { s with free := s.free + 1 } v hpc)).trans (Settled.setReg _ x hinfo)
    split
    · exact (sampled _ _).trans (Settled.postNotice _ n _)
    · refine Settled.trans ?_ (Settled.irq _ 0 (by decide))
      split
      · exact (sampled _ _).trans (Settled.setFlag _ 0 true hstw)
      · exact (sampled _ _).trans (Settled.setFlag _ _ true hnib)
    · exact sampled _ _

theorem Settled.add48 (s : State) {a : Nat} (k : Nat) (h : ¬ Setting a) (h4 : ¬ Setting (a + 4)) : Settled s (Machine.add48 s a k).2 := by
  unfold Machine.add48
  exact (Settled.setReg s _ h).trans (Settled.setReg _ _ h4)

/-- What follows a count: the overflow bit, and a sample where it is asked for. -/
theorem Settled.overflow {s : State} {n : Nat} (i t : Nat) (sample : Bool) (hn : n ≤ 128) (r : Bool × State) :
    Settled s r.2 → Settled s (match r with
      | (false, s) => s
      | (true, s) =>
        let s := Machine.setFlag s (Reg.PC_OVF n) i true
        if sample then Machine.takeSample s n i t else s) := by
  obtain ⟨wrapped, s1⟩ := r
  intro h
  cases wrapped with
  | false => exact h
  | true =>
    have hovf := h.trans (Settled.setFlag s1 i true (not_setting_nib (n := n) (o := 0x304) (by omega) (by omega)))
    dsimp only
    split
    · exact hovf.trans (Settled.takeSample _ i t hn)
    · exact hovf

theorem Settled.pcCount (s : State) {n i : Nat} (t evt k : Nat) (hn : n ≤ 128) (hi : i < 8) : Settled s (Machine.pcCount n t evt k s i) := by
  have hlo : ¬ Setting (Reg.PC_CNT_LO n i) := by unfold Setting Reg.PC_CNT_LO; have := nibPage_mod n; omega
  have hhi : ¬ Setting (Reg.PC_CNT_LO n i + 4) := by unfold Setting Reg.PC_CNT_LO; have := nibPage_mod n; omega
  unfold Machine.pcCount
  extract_lets sel
  split
  · exact Settled.overflow i t _ hn _ (Settled.add48 s _ hlo hhi)
  · exact Settled.refl s

theorem Settled.pcEvent (s : State) (t evt k : Nat) : Settled s (Machine.pcEvent s t evt k) := by
  unfold Machine.pcEvent
  dsimp only
  split
  · exact Settled.refl s
  · have folded : ∀ l : List Nat, (∀ i ∈ l, i < 8) → ∀ u, Settled s u → Settled s (l.foldl (Machine.pcCount (nibOf t) t evt k) u) := by
      intro l
      induction l with
      | nil => exact fun _ u hu => hu
      | cons i l ih =>
        exact fun hl u hu => ih (fun j hj => hl j (.tail i hj)) _ (hu.trans (Settled.pcCount u t evt k (nibOf_le_steward t) (hl i (.head l))))
    exact folded _ (fun i hi => List.mem_range.mp hi) s (Settled.refl s)

theorem Settled.retire (s : State) (t : Nat) : Settled s (Machine.retire s t) :=
  (Settled.pcEvent s t 0x01 1).trans (Settled.of_regs rfl)

/-! ## The settings say where DRAM keeps a byte (R252, R259–R263) -/

section Mapping
variable {s s' : State}

/-- A register of a DRAM channel's page is a setting. -/
theorem setting_ddr {c o : Nat} (h : 0x18 ≤ o) (h' : o < 0x300) : Setting (Reg.ddrPage c + o) := by
  unfold Setting Reg.ddrPage
  omega

theorem Settled.geom (h : Settled s s') (c : Nat) : reg s' (Reg.DDR_GEOM c) = reg s (Reg.DDR_GEOM c) := h _ (setting_ddr (by omega) (by omega))

theorem Settled.ddrStat (h : Settled s s') (c : Nat) : reg s' (Reg.DDR_STAT c) = reg s (Reg.DDR_STAT c) := h _ (setting_ddr (by omega) (by omega))

theorem Settled.ddrImode (h : Settled s s') : reg s' (Reg.DDR_IMODE 0) = reg s (Reg.DDR_IMODE 0) := h _ (by decide)

/-- The registers of a region. -/
theorem Settled.region (h : Settled s s') {r : Nat} (hr : r < 16) : reg s' (Reg.DR_BASE 0 r) = reg s (Reg.DR_BASE 0 r)
    ∧ reg s' (Reg.DR_SIZE 0 r) = reg s (Reg.DR_SIZE 0 r) ∧ reg s' (Reg.DR_MAP 0 r) = reg s (Reg.DR_MAP 0 r) := by
  refine ⟨h _ ?_, h _ ?_, h _ ?_⟩ <;> simp only [Setting, Reg.DR_BASE, Reg.DR_SIZE, Reg.DR_MAP, Reg.ddrPage] <;> omega

theorem Settled.rankUnits (h : Settled s s') (c : Nat) : rankUnits s' c = rankUnits s c := by
  unfold Machine.rankUnits fld flag
  rw [h.geom]

theorem Settled.capUnits (h : Settled s s') (c : Nat) : capUnits s' c = capUnits s c := by
  unfold Machine.capUnits fld
  rw [h.geom, h.rankUnits]

theorem Settled.imode (h : Settled s s') : imode s' = imode s := flag_congr h.ddrImode 31

theorem Settled.imodeChans (h : Settled s s') : imodeChans s' = imodeChans s := by
  unfold Machine.imodeChans flag
  rw [h.ddrImode]

theorem Settled.imodeLimit (h : Settled s s') : imodeLimit s' = imodeLimit s := by
  unfold Machine.imodeLimit
  rw [h.imodeChans, funext h.capUnits]

theorem Settled.dramRegion (h : Settled s s') (a : Nat) : dramRegion s' a = dramRegion s a := by
  unfold Machine.dramRegion
  refine List.find?_congr fun r hr => ?_
  obtain ⟨hb, hz, -⟩ := h.region (List.mem_range.mp hr)
  unfold drValid drBase drSize flag fld
  rw [hb, hz]

/-- The region that holds an address is one of 16. -/
theorem dramRegion_lt {a r : Nat} (h : Machine.dramRegion s a = some r) : r < 16 := List.mem_range.mp (List.mem_of_find?_eq_some h)

theorem Settled.dramMap (h : Settled s s') (a : Nat) : dramMap s' a = dramMap s a := by
  unfold Machine.dramMap fld
  rw [h.imode, h.imodeChans, h.imodeLimit, h.ddrImode, h.dramRegion]
  cases hr : Machine.dramRegion s a with
  | none => rfl
  | some r =>
    obtain ⟨hb, -, hm⟩ := h.region (dramRegion_lt hr)
    simp only [drChan, drOff, drBase, fld, hb, hm]

theorem Settled.rankOf (h : Settled s s') (c off : Nat) : rankOf s' c off = rankOf s c off := by
  unfold Machine.rankOf
  rw [h.rankUnits]

theorem Settled.rankLost (h : Settled s s') (c k : Nat) : rankLost s' c k = rankLost s c k := by
  unfold Machine.rankLost
  rw [h.ddrStat]

theorem Settled.orderAt (h : Settled s s') (a : Nat) : orderAt s' a = orderAt s a := by
  unfold Machine.orderAt
  rw [h.imode, h.dramRegion]
  cases hr : Machine.dramRegion s a with
  | none => rfl
  | some r => simp only [fld, (h.region (dramRegion_lt hr)).2.2]

theorem Settled.cellOf (h : Settled s s') (c order off : Nat) : cellOf s' c order off = cellOf s c order off := by
  have hw : columnBits s' c = columnBits s c := by unfold columnBits flag; rw [h.geom]
  have hr : rowBits s' c = rowBits s c := by unfold rowBits fld; rw [h.geom]
  unfold Machine.cellOf bankRow columnOf
  rw [hw, hr]

theorem Settled.spareOf (h : Settled s s') (hd : s'.ddrs = s.ddrs) (c off : Nat) : spareOf s' c off = spareOf s c off := by
  unfold Machine.spareOf ddr
  rw [hd]
  simp only [h.rankOf, h.rankLost]

theorem Settled.dramCell (h : Settled s s') (hd : s'.ddrs = s.ddrs) (a : Nat) : dramCell s' a = dramCell s a := by
  unfold Machine.dramCell
  simp only [h.dramMap, h.rankLost, h.rankOf, h.spareOf hd, h.cellOf, h.orderAt]

theorem Settled.memKey (h : Settled s s') (hd : s'.ddrs = s.ddrs) (k : Nat) : memKey s' k = memKey s k := by
  unfold Machine.memKey
  rw [h.dramCell hd]

/-- The same memory, mapped the same way, reads the same. -/
theorem Settled.rd (h : Settled s s') (hd : s'.ddrs = s.ddrs) (hm : s'.mem = s.mem) (k : Nat) : rd s' k = rd s k := by
  unfold Machine.rd
  rw [h.memKey hd, hm]

end Mapping

/-- A unit that completes leaves memory as its instruction left it. -/
theorem rd_done (s s1 : State) {t : Nat} (ht : t < 1028) (k : Nat) : rd (applyRes s t false (.done s1)) k = rd s1 k := by
  have hset : Settled s1 (retire (advancePc s1 t (nextPc s1 t)) t) := (Settled.of_regs rfl).trans (Settled.retire _ t)
  have hb : Beside (advancePc s1 t (nextPc s1 t)) (retire (advancePc s1 t (nextPc s1 t)) t) t := (Beside.retire _ ht).1
  have hret : rd (retire (advancePc s1 t (nextPc s1 t)) t) k = rd s1 k := hset.rd (by rw [hb.1]; rfl) (by rw [hb.1]; rfl) k
  refine Eq.trans ?_ hret
  simp only [applyRes, Bool.false_eq_true, if_false]
  unfold stepEnd
  split <;> rfl

/-! ## Writing memory -/

/-- `s'` is `s` with another memory and other check bits: nothing else differs. -/
def MemOnly (s s' : State) : Prop := s' = { s with mem := s'.mem, badWords := s'.badWords, addrTags := s'.addrTags }

theorem MemOnly.refl (s : State) : MemOnly s s := rfl

theorem MemOnly.trans {s s' s'' : State} (h : MemOnly s s') (h' : MemOnly s' s'') : MemOnly s s'' := by
  unfold MemOnly at *
  rw [h', h]

theorem MemOnly.wr (s : State) (k : Nat) (b : Byte) : MemOnly s (Machine.wr s k b) := by
  unfold Machine.wr
  split <;> rfl

theorem MemOnly.wrBytes (s : State) (k : Nat) (bs : List Byte) : MemOnly s (Machine.wrBytes s k bs) := by
  induction bs generalizing s k with
  | nil => exact MemOnly.refl s
  | cons b bs ih => exact (MemOnly.wr s k b).trans (ih _ _)

theorem MemOnly.setBad (s : State) (k : Nat) (b : Bool) : MemOnly s (Machine.setBad s k b) := by
  unfold Machine.setBad
  split
  · split <;> rfl
  · rfl

theorem MemOnly.regs {s s' : State} (h : MemOnly s s') : s'.regs = s.regs := by rw [h]

theorem MemOnly.ddrs {s s' : State} (h : MemOnly s s') : s'.ddrs = s.ddrs := by rw [h]

theorem MemOnly.thread {s s' : State} (h : MemOnly s s') (t : Nat) : thread s' t = thread s t := by rw [h]; rfl

/-- On-chip bytes that are written read back, every other byte as before. -/
theorem rd_wrBytes (s : State) {k : Nat} {bs : List Byte} (h : k + bs.length ≤ dramBase) (j : Nat) :
    rd (wrBytes s k bs) j = if k ≤ j ∧ j < k + bs.length then bs.getD (j - k) 0 else rd s j := by
  induction bs generalizing s k with
  | nil => simp [wrBytes]
  | cons b bs ih =>
    rw [List.length_cons] at h
    have hk : memKey s k = some k := if_pos (by omega)
    have hj : (memKey s j = some k) = (j = k) := propext <| by
      unfold memKey
      split
      · exact Option.some_inj
      · simp only [Option.map_eq_some_iff]
        constructor
        · rintro ⟨l, -, hl⟩
          omega
        · omega
    rw [wrBytes, ih _ (by omega), rd_wr, List.length_cons]
    simp only [hk, hj, Option.isSome_some, true_and]
    rcases Nat.lt_trichotomy j k with hlt | rfl | hgt
    · rw [if_neg (by omega), if_neg (by omega), if_neg (by omega)]
    · rw [if_neg (by omega), if_pos rfl, if_pos (by omega), Nat.sub_self, List.getD_cons_zero]
    · obtain ⟨i, rfl⟩ : ∃ i, j = k + 1 + i := ⟨j - (k + 1), by omega⟩
      rw [show k + 1 + i - (k + 1) = i by omega, show k + 1 + i - k = i + 1 by omega, List.getD_cons_succ]
      by_cases hi : i < bs.length
      · rw [if_pos (by omega), if_pos (by omega)]
      · rw [if_neg (by omega), if_neg (by omega), if_neg (by omega)]

theorem storedAt_of_rd {s s' : State} {k : Nat} {bs : List Byte}
    (h : ∀ j, rd s' j = if k ≤ j ∧ j < k + bs.length then bs.getD (j - k) 0 else rd s j) : StoredAt s s' k bs := by
  refine ⟨fun i hi => ?_, fun j hj => ?_⟩
  · rw [h, if_pos (by omega), Nat.add_sub_cancel_left]
  · rw [h, if_neg (by omega)]

/-- What reads memory alone sees a store through whatever leaves memory. -/
theorem StoredAt.congr {s s1 s' : State} {k : Nat} {bs : List Byte} (h : StoredAt s s1 k bs) (e : ∀ j, rd s' j = rd s1 j) :
    StoredAt s s' k bs := ⟨fun i hi => (e _).trans (h.1 i hi), fun j hj => (e j).trans (h.2 j hj)⟩

/-- A word that hardware writes on chip (R49). -/
theorem wrWord_stores (s : State) {k : Nat} (v : Word) (h : k + 4 ≤ dramBase) :
    MemOnly s (wrWord s k v) ∧ StoredAt s (wrWord s k v) k (leBytes 4 v.toNat) := by
  have hb := MemOnly.setBad (wrBytes s k (leBytes 4 v.toNat)) k false
  refine ⟨(MemOnly.wrBytes s k _).trans hb, storedAt_of_rd fun j => ?_⟩
  have hl : k + (leBytes 4 v.toNat).length ≤ dramBase := by rw [leBytes_length]; exact h
  rw [← rd_wrBytes s hl]
  exact (Settled.of_regs hb.regs).rd hb.ddrs (setBad_mem _ _ _) j

/-- A unit that writes memory, and changes its thread beside counting, completes. -/
theorem gives_doneMem {c : Instr} {s s0 s1 : State} {t : Nat} {th : Thread} (hc : exec c s = .next (applyRes s t false (.done s1)))
    (ht : t < 1028) (hm : MemOnly s s0) (h : Beside s0 s1 t) (e : thread s1 t = th) (hf : th.stepping = false)
    (hp : th.pc = (thread s t).pc ∧ th.pfx = (thread s t).pfx) :
    Gives c s (fun s' => CompletesMem s t th s' ∧ ∀ j, rd s' j = rd s1 j) := by
  obtain ⟨hb, hth⟩ := done_of_beside ht h e hf (by rw [hm.thread]; exact hp)
  have hres : applyRes s0 t false (.done s1) = applyRes s t false (.done s1) := rfl
  rw [hres] at hb hth
  refine ⟨_, hc, ⟨?_, hth.trans ?_⟩, rd_done s s1 ht⟩
  · have hs0 : { s with
        mem := (applyRes s t false (.done s1)).mem
        badWords := (applyRes s t false (.done s1)).badWords
        addrTags := (applyRes s t false (.done s1)).addrTags } = s0 := by
      rw [hb.1, hm]
    rw [hs0]
    exact hb
  · rw [show pcAfter s0 t = pcAfter s t by unfold pcAfter nextPc instrPc; rw [hm.thread]]

end Sys2Proof.Machine
end

section
/-! PROOFS. The SYS instructions without a jump, and the moves of special registers (O8). -/

namespace Sys2Proof.Machine

/-- The thread's own I-space. -/
theorem word_address {v : Word} (h : bits v 1 0 = 0) : v.toNat % 65536 = bits v 15 0 ∧ v.toNat % 65536 % 4 = 0 := by
  rw [bits_low] at h
  exact ⟨(bits_low v 15).symm, by omega⟩

/-- At S and M nothing is privileged. -/
theorem privAtU_none {s : State} {t : Nat} (h : level s t ≠ 0) : privAtU s t = none := if_neg h

/-- No cause of a special register's move stands in the way. -/
theorem sprEarly_none {b : Bool} {s : State} {t : Nat} {w : Word} (hk : sprKnown (wX w) = true)
    (hr : b = true → sprReadOnly (wX w) = false) (hp : sprPriv (wX w) = true → level s t ≠ 0) : sprEarly b s t w = none := by
  unfold sprEarly
  rw [if_neg (by simp [hk]), if_neg (by rintro ⟨h, h'⟩; simp [hr h] at h')]
  split
  next h => exact privAtU_none (hp h)
  next => rfl

section System
variable {t : Tid} {w : Word} {s : State}

/-- A SYS instruction that has no effect but on the PC. -/
theorem sys_idle {c : Instr} {sub : Nat} {fields : Fields} {run : Nat → Word → State → Res} (hrow : exec c s = .next (issue (sysRow sub fields run) t w s))
    (hi : Issues s t) (hb : Bare s t) (hx : wX w = 0) (hw : IsFX 0x15 sub fields w) (hrun : run t w s = .done s) :
    Gives c s (Completes s t (thread s t)) := by
  have hc := sys_runs hrow t.isLt hi hb hw hx
  rw [hrun] at hc
  exact gives_done hc t.isLt (Beside.refl s t) rfl hi.2.2.2.2 ⟨rfl, rfl⟩

/-- CLC and SEC. -/
theorem carry_gives {c : Instr} {sub : Nat} {b : Bool} (hrow : exec c s = .next (issue (carryRow sub b) t w s))
    (hi : Issues s t) (hb : Bare s t) (hx : wX w = 0) (hw : IsFX 0x15 sub .none w) :
    Gives c s (Completes s t { thread s t with st := setBit (thread s t).st 2 b }) := by
  have hm := Beside.modThread s t fun th => { th with st := setC (thread s t).st b }
  exact gives_done (sys_runs hrow t.isLt hi hb hw hx) t.isLt hm.1 hm.2 hi.2.2.2.2 ⟨rfl, rfl⟩

/-- IST writes a word of the I-space. -/
theorem ist_gives (hi : Issues s t) (hb : Bare s t) (hx : wX w = 0) (hw : IsFX 0x15 0x08 .da w) (hl : level s t ≠ 0)
    (ha : bits (wreg s t (wA w)) 1 0 = 0) : Gives (.ist t w) s (fun s' => CompletesMem s t (thread s t) s'
      ∧ StoredAt s s' (ispace (nibOf t) + bits (wreg s t (wA w)) 15 0) (leBytes 4 (wreg s t (wD w)).toNat)) := by
  obtain ⟨haddr, hal⟩ := word_address ha
  have hrun := runs_bare (r := istRow) (c := .ist t w) (s := s) rfl t.isLt hi hb (isFX_row hw) hw.2.2 (by simp [istRow, sysRow, hx]) (privAtU_none hl)
  simp only [istRow, sysRow, haddr] at hrun
  rw [if_neg (by omega)] at hrun
  have hk : ispace (nibOf t) + bits (wreg s t (wA w)) 15 0 + 4 ≤ dramBase := by
    have := ispace_lt t t.isLt
    have := bits_lt (wreg s t (wA w)) 15 0
    unfold dramBase
    omega
  obtain ⟨hm, hst⟩ := wrWord_stores s (wreg s t (wD w)) hk
  obtain ⟨s', hs', hc, hrd⟩ := gives_doneMem hrun t.isLt hm (Beside.refl _ t) (hm.thread t) hi.2.2.2.2 ⟨rfl, rfl⟩
  exact ⟨s', hs', hc, hst.congr hrd⟩

/-- ILD reads a good word of the I-space. -/
theorem ild_gives (hi : Issues s t) (hb : Bare s t) (hx : wX w = 0) (hw : IsFX 0x15 0x09 .da w) (hl : level s t ≠ 0)
    (ha : bits (wreg s t (wA w)) 1 0 = 0) (hgood : badAt s (ispace (nibOf t) + bits (wreg s t (wA w)) 15 0) = false) :
    Gives (.ild t w) s (Completes s t (withW (thread s t) (wD w) (rdWord s (ispace (nibOf t) + bits (wreg s t (wA w)) 15 0)))) := by
  obtain ⟨haddr, hal⟩ := word_address ha
  have hrun := runs_bare (r := ildRow) (c := .ild t w) (s := s) rfl t.isLt hi hb (isFX_row hw) hw.2.2 (by simp [ildRow, sysRow, hx]) (privAtU_none hl)
  have hcheck := fetch_good (mid := nibMid (nibOf t)) (acc := 0) (nibOf_lt t t.isLt) (bits_lt (wreg s t (wA w)) 15 0) hgood hi.2.2.2.1
  rw [haddr] at hal
  simp only [ildRow, sysRow, hal, haddr, Nat.sub_zero, hcheck] at hrun
  have hm := Beside.modThread s t fun th => withW th (wD w) (rdWord s (ispace (nibOf t) + bits (wreg s t (wA w)) 15 0))
  exact gives_done hrun t.isLt hm.1 hm.2 hi.2.2.2.2 ⟨rfl, rfl⟩

/-- MFS reads a special register, and sets er where a write to it is pending. -/
theorem mfs_gives (hi : Issues s t) (hb : Bare s t) (hw : IsFX 0x14 0x00 .d w) (hk : sprKnown (wX w) = true)
    (hp : sprPriv (wX w) = true → level s t ≠ 0) :
    Gives (.mfs t w) s (Completes s t { withW (thread s t) (wD w) (sprRead s t (wX w)) with
      st := if sprPending s t (wX w) then setBit (thread s t).st 19 true else (thread s t).st }) := by
  have hrun := runs_bare (r := mfsRow) (c := .mfs t w) (s := s) rfl t.isLt hi hb (isFX_row hw) hw.2.2 rfl (sprEarly_none hk (by simp) hp)
  simp only [mfsRow] at hrun
  by_cases hpend : sprPending s t (wX w) = true
  · simp only [hpend, if_true] at hrun ⊢
    have hst := Beside.modThread s t fun th => { th with st := setBit (thread s t).st 19 true }
    have hev := Beside.pcEvent (setSt s t (setBit (thread s t).st 19 true)) 0x15 1 t.isLt
    have hd := Beside.modThread (pcEvent (setSt s t (setBit (thread s t).st 19 true)) t 0x15) t
      fun th => withW th (wD w) (sprRead s t (wX w))
    exact gives_done hrun t.isLt ((hst.1.trans hev.1).trans hd.1) (hd.2.trans (congrArg (withW · (wD w) _) (hev.2.trans hst.2))) hi.2.2.2.2
      ⟨rfl, rfl⟩
  · simp only [hpend, Bool.false_eq_true, if_false] at hrun ⊢
    have hd := Beside.modThread s t fun th => withW th (wD w) (sprRead s t (wX w))
    exact gives_done hrun t.isLt hd.1 hd.2 hi.2.2.2.2 ⟨rfl, rfl⟩

/-- MTS runs where its register takes writes at the thread's level. -/
theorem mts_runs (hi : Issues s t) (hb : Bare s t) (hw : IsFX 0x14 0x01 .a w) (hk : sprKnown (wX w) = true)
    (hr : sprReadOnly (wX w) = false) (hp : sprPriv (wX w) = true → level s t ≠ 0) :
    exec (.mts t w) s = .next (applyRes s t false (.done (sprWrite s t (wX w) (wreg s t (wA w))))) :=
  runs_bare (r := mtsRow) rfl t.isLt hi hb (isFX_row hw) hw.2.2 rfl (sprEarly_none hk (fun _ => hr) hp)

/-- MTS to a register of the thread. -/
theorem mts_gives {th : Thread} (hi : Issues s t) (hb : Bare s t) (hw : IsFX 0x14 0x01 .a w) (hk : sprKnown (wX w) = true)
    (hr : sprReadOnly (wX w) = false) (hp : sprPriv (wX w) = true → level s t ≠ 0)
    (hf : sprWrite s t (wX w) (wreg s t (wA w)) = setThread s t th)
    (hkeep : th.stepping = (thread s t).stepping ∧ th.pc = (thread s t).pc ∧ th.pfx = (thread s t).pfx) :
    Gives (.mts t w) s (Completes s t th) := by
  have hrun := mts_runs hi hb hw hk hr hp
  rw [hf] at hrun
  have hm := Beside.modThread s t (fun _ => th)
  exact gives_done hrun t.isLt hm.1 hm.2 (hkeep.1.trans hi.2.2.2.2) hkeep.2

/-- MTS to TVEC, the one special register of the Nib. -/
theorem mts_tvec (hi : Issues s t) (hb : Bare s t) (hw : IsFX 0x14 0x01 .a w) (hx : wX w = 0x10) (hl : level s t ≠ 0) :
    Gives (.mts t w) s (fun s' => (nib s' (nibOf t)).tvec = wreg s t (wA w) &&& tvecWritable
      ∧ thread s' t = { thread s t with pc := pcAfter s t, pfx := .none } ∧ (∀ u, u ≠ t.val → thread s' u = thread s u)
      ∧ (∀ k, rd s' k = rd s k)) := by
  have hrun := mts_runs hi hb hw (by rw [hx]; decide) (by rw [hx]; decide) (fun _ => hl)
  have htvec : sprWrite s t (wX w) (wreg s t (wA w)) = modNib s (nibOf t) (fun n => { n with tvec := wreg s t (wA w) &&& tvecWritable }) := by
    rw [hx]; rfl
  rw [htvec] at hrun
  generalize hs1 : modNib s (nibOf t) (fun n => { n with tvec := wreg s t (wA w) &&& tvecWritable }) = s1 at hrun
  have hth : ∀ u, thread s1 u = thread s u := fun u => by rw [← hs1]; rfl
  obtain ⟨hb1, hth1⟩ := done_of_beside (s := s1) t.isLt (Beside.refl s1 t) (hth t) hi.2.2.2.2 (by rw [hth]; exact ⟨rfl, rfl⟩)
  refine ⟨_, hrun, ?_, hth1.trans ?_, fun u hu => (hb1.2.1 u hu).trans (hth u), fun k => (rd_done s s1 t.isLt k).trans ?_⟩
  · exact hb1.tvec.trans (by rw [← hs1, nib_modNib, if_pos rfl])
  · rw [show pcAfter s1 t = pcAfter s t by unfold pcAfter nextPc instrPc; rw [hth]]
  · rw [← hs1]; rfl

end System

/-- Settles O8: each SYS instruction runs its row, and each special register is moved by its own lemma. -/
theorem systemAndSpecialRegisters : Obligations.SystemAndSpecialRegisters := by
  unfold Obligations.SystemAndSpecialRegisters
  refine fun t w s hi hb => ⟨fun hx => ⟨fun hw => sys_idle (run := fun _ _ s => .done s) rfl hi hb hx hw rfl, fun hw hp hq => ?mwait, fun hw he => ?fence,
    fun hw => sys_idle (run := fun _ _ s => .done s) rfl hi hb hx hw rfl, carry_gives rfl hi hb hx, carry_gives rfl hi hb hx,
    ist_gives hi hb hx, ild_gives hi hb hx⟩, mfs_gives hi hb, ?mts, mts_tvec hi hb⟩
  case mwait =>
    exact sys_idle (run := fun t _ s => if (thread s t).products.isEmpty && (thread s t).quotients.isEmpty then .done s else .hold)
      rfl hi hb hx hw (by simp [hp, hq])
  case fence =>
    exact sys_idle (run := fun t _ s => if (thread s t).stbuf.isEmpty then .done s else .hold) rfl hi hb hx hw (by simp [he])
  case mts =>
    intro hw
    simp only [List.forall_mem_cons, List.not_mem_nil, false_imp_iff, implies_true, and_true]
    refine ⟨?_, ?_, ?_, ?_, ?_, ?_, ?_, ?_, ?_, ?_⟩ <;>
      exact fun hx hp => mts_gives hi hb hw (by rw [hx]; decide) (by rw [hx]; decide) (by rw [hx]; exact hp)
        (by rw [hx]; rfl) ⟨rfl, rfl, rfl⟩

end Sys2Proof.Machine
end

section
/-! PROOFS. A trap that cannot enter its handler (O6). -/

namespace Sys2Proof.Machine

theorem pageAt_nibPage {n : Nat} (hn : n < 128) : pageAt (Reg.nibPage n / 0x1000) = some (.nib, n) := by
  have h : Reg.nibPage n / 0x1000 = 0x101 + 0x10 * (n / 8) + n % 8 := by unfold Reg.nibPage; rw [if_pos hn]; omega
  have hq : (0x101 + 0x10 * (n / 8) + n % 8 - 0x100) / 0x10 = n / 8 := by omega
  have hk : (0x101 + 0x10 * (n / 8) + n % 8) % 0x10 = n % 8 + 1 := by omega
  unfold pageAt
  rw [h]
  simp only [hq, hk]
  repeat rw [if_neg (by omega)]
  rw [if_pos (by omega), if_neg (by omega), if_pos (by omega)]
  exact congrArg some (Prod.ext rfl (by show 8 * (n / 8) + (n % 8 + 1 - 1) = n; omega))

/-- A Nib's page holds its own header. -/
theorem headerPage_nibPage {n : Nat} (hn : n < 128) : headerPage (Reg.nibPage n) = Reg.nibPage n := by
  unfold headerPage
  rw [pageAt_nibPage hn]

/-- The newest notice of a Nib is the one posted last. -/
theorem postNotice_last (s : State) (n : Nat) (w : List Word) : (nib (postNotice s n w) n).notices.getLast? = some w := by
  unfold postNotice
  rw [nib_modNib, if_pos rfl]
  exact List.getLast?_concat

/-- A trap that does not enter its handler is a fault with the record of the trap (R138). -/
theorem takeTrap_faults {s : State} {t code : Nat} (ht : t < 1028) (hcode : code < 16) (h : ¬ Enters s t code) (sub : Nat) (tinfo : Word)
    (epc pc : Nat) : takeTrap s t code sub tinfo epc pc
      = threadFault (pcEvent s t 0x0A) t (causeFor (thread s t) code sub) (word epc) tinfo pc := by
  obtain ⟨hb, hth⟩ := Beside.pcEvent s 0x0A 1 ht
  have hi := ispace_lt t ht
  have hp := handlerPc_lt s t hcode
  have hbad : badAt (pcEvent s t 0x0A) (ispace (nibOf t) + handlerPc s t code) = badAt s (ispace (nibOf t) + handlerPc s t code) :=
    hb.badAt _ (by unfold dramBase; omega)
  have hcause : causeWord (pcEvent s t 0x0A) t code sub = causeFor (thread s t) code sub := by
    unfold causeWord causeFor
    simp only [hth]
    cases (thread s t).pfx <;> simp
  unfold takeTrap
  simp only [hcause, hth, hb.tvec]
  refine if_pos ?_
  rw [show bits (nib s (nibOf t)).tvec 15 10 * 0x400 + 0x40 * code = handlerPc s t code from rfl, hbad]
  simpa only [not_and_or, Bool.not_eq_true, Bool.not_eq_false] using h

/-- A thread 1 to 7 of a Nib is no supervisor, and its records go to its own Nib (R162). -/
theorem isSupervisor_false {s : State} {t : Nat} (h : idxOf t ≠ 0) : isSupervisor s t = false := by simp [isSupervisor, h]

theorem noticeNib_own {s : State} {t : Nat} (h : idxOf t ≠ 0) : noticeNib s t = nibOf t := if_pos h

/-- What the fault of a thread 1 to 7 of a Nib leaves (R138, R161, R162). -/
theorem threadFault_parks (s : State) {t : Nat} (cause epc tinfo : Word) (pc : Nat) (ht : t < 1024) (hidx : idxOf t ≠ 0) :
    thread (threadFault s t cause epc tinfo pc) t = { thread s t with
      state := .parked, pc := BitVec.ofNat 16 pc, pfx := .none, waitPort := none, stepping := false, load := none }
    ∧ (∀ u, u ≠ t → thread (threadFault s t cause epc tinfo pc) u = thread s u)
    ∧ (∀ k, k < 0xFFF8000 → rd (threadFault s t cause epc tinfo pc) k = rd s k)
    ∧ (nib (threadFault s t cause epc tinfo pc) (nibOf t)).notices.getLast? = some [word (2 ^ 24 + t % 1024), cause, epc, tinfo,
        spsNow s, (thread s t).st, word pc, 0]
    ∧ flag (threadFault s t cause epc tinfo pc) (Reg.PG_ERR_STICKY (Reg.nibPage (nibOf t))) 0 = true := by
  have hn : nibOf t < 128 := by unfold nibOf; rw [if_neg (by omega)]; omega
  generalize hs1 : modThread s t (fun th => { th with
    state := .parked, pc := BitVec.ofNat 16 pc, pfx := .none, waitPort := none, stepping := false, load := none }) = s1
  generalize hs2 : postNotice s1 (nibOf t) [word (2 ^ 24 + t % 1024), cause, epc, tinfo, spsNow s, (thread s t).st, word pc, 0] = s2
  generalize hr : (⟨Reg.nibPage (nibOf t), 0, 0, 7, nibMid (nibOf t), 0, some (tidPid s2 t)⟩ : Report) = r
  have hpage : r.page = Reg.nibPage (nibOf t) := by rw [← hr]
  have hsrc : r.src = 0 := by rw [← hr]
  have hsev : r.sev = 0 := by rw [← hr]
  have hbased : Based r.page := by rw [hpage]; exact nibPage_mod _
  have he : threadFault s t cause epc tinfo pc = report s2 r := by
    unfold threadFault
    simp only [isSupervisor_false hidx, noticeNib_own hidx, if_neg (show nibOf t ≠ 128 by omega), hs1, hs2, ← hr]
    rfl
  obtain ⟨hrec, -⟩ := report_light s2 (l := []) hbased (.inl hsev)
  have hstk := report_sticky s2 hbased (by rw [hpage]; exact headerPage_nibPage hn) (.inl hsev) (by omega)
  have h1 : Only s s1 t _ := hs1 ▸ Only.modThread s t _
  have h2 : Counted s1 s2 (nibOf t) := hs2 ▸ Counted.postNotice _
  have hth : ∀ u, thread (report s2 r) u = thread s1 u := fun u => by
    rw [← h2.thread_eq u, hrec.1]
    rfl
  rw [he]
  refine ⟨(hth t).trans h1.2.1, fun u hu => (hth u).trans (h1.2.2 u hu), fun k hk => ?_, ?_, ?_⟩
  · have hkey : ∀ x : State, rd x k = kept x k := fun x => by
      unfold rd memKey
      rw [if_pos (by unfold dramBase; omega)]
      rfl
    have hm : s2.mem = s.mem := by rw [h2.1, h1.1]
    rw [hkey, hkey, hrec.2.2 k (.inl hk)]
    unfold kept
    rw [hm]
  · have hnib : nib (report s2 r) (nibOf t) = nib s2 (nibOf t) := by rw [hrec.1]; rfl
    rw [hnib, ← hs2]
    exact postNotice_last _ _ _
  · rw [hpage, hsrc] at hstk
    exact hstk

/-- Settles O6: the trap of BRK becomes a fault, which parks its thread. -/
theorem threadFaults : Obligations.ThreadFaults := by
  unfold Obligations.ThreadFaults
  intro t w s ht hidx hw hi hb hno
  obtain ⟨hev, hth⟩ := Beside.pcEvent s 0x0A 1 t.isLt
  have hsps : spsNow (pcEvent s t 0x0A) = spsNow s := by unfold spsNow; rw [hev.1]
  obtain ⟨hpark, hother, hrd, hlast, hsticky⟩ := threadFault_parks (pcEvent s t 0x0A) (causeFor (thread s t) 9 0)
    (word (thread s t).pc.toNat) (word (wX w)) (thread s t).pc.toNat ht hidx
  rw [hth] at hpark hlast
  rw [hsps] at hlast
  have hend : applyRes s t false (.trap s 9 0 (word (wX w))) = threadFault (pcEvent s t 0x0A) t (causeFor (thread s t) 9 0)
      (word (thread s t).pc.toNat) (word (wX w)) (thread s t).pc.toNat := by
    simp only [applyRes]
    rw [takeTrap_faults t.isLt (by decide) hno, stepEnd_off (by rw [hpark])]
  refine ⟨_, (congrArg _ (brk_runs t.isLt hi hb hw)).trans (congrArg _ hend), hpark.trans ?_, fun u hu => ?_, fun k hk => ?_, hlast, hsticky⟩
  · simp [show (thread s t).pfx = .none from hb, show (thread s t).stepping = false from hi.2.2.2.2]
  · exact (hother u hu).trans (hev.2.1 u hu)
  · refine (hrd k hk).trans ?_
    have hkey : k < dramBase := by unfold dramBase; omega
    unfold rd memKey
    rw [if_pos hkey, if_pos hkey, hev.1]

end Sys2Proof.Machine
end

section
/-! PROOFS. Accesses of a thread to memory: their checks, reads of local data, and stores (O10). -/

namespace Sys2Proof.Machine

/-! ## Checks of accesses (R107, R108, R135, R136) -/

/-- An access meets no check: it is aligned, allowed and not watched. -/
abbrev Passes (s : State) (t : Nat) (a : Access) : Prop :=
  a.addr % a.size = 0 ∧ (route s t a.addr a.wr).isSome = true ∧ watched s t a.addr a.rd a.wr = false

theorem accessFault_none {s : State} {t : Nat} {l : List Access} (h : ∀ a ∈ l, Passes s t a) : accessFault s t l = none := by
  have halign : l.find? (fun a => a.addr % a.size ≠ 0) = none := List.find?_eq_none.mpr fun a ha => by simp [(h a ha).1]
  have hroute : l.find? (fun a => (route s t a.addr a.wr).isNone) = none := List.find?_eq_none.mpr fun a ha => by
    simp [Option.isSome_iff_ne_none.mp (h a ha).2.1]
  unfold accessFault
  rw [halign, hroute]
  rfl

theorem watchTrap_none {s : State} {t : Nat} {l : List Access} (h : ∀ a ∈ l, Passes s t a) : watchTrap s t l = none := by
  have hwatch : l.find? (fun a => watched s t a.addr a.rd a.wr) = none := List.find?_eq_none.mpr fun a ha => by simp [(h a ha).2.2]
  unfold watchTrap
  rw [hwatch]
  rfl

theorem accessTrap_none {s : State} {t : Nat} {l : List Access} (h : ∀ a ∈ l, Passes s t a) : accessTrap s t l = none := by
  unfold accessTrap
  rw [accessFault_none h, watchTrap_none h]
  rfl

/-- A memory instruction whose accesses pass, with room for its stores and requests, goes on with the words that it reads. -/
theorem memRes_reads {s s1 : State} {t : Nat} {rds wrs : List Access} {vs : List Nat} {f : List Nat → State → Res}
    (h : ∀ a ∈ rds ++ wrs, Passes s t a) (hroom : wrs = [] ∨ (thread s t).stbuf.length < 4)
    (hdram : ∀ a ∈ rds, dramRoom s (keyOf s t a) = true) (hr : readWords t rds s = .ok (vs, s1)) : memRes s t rds wrs f = f vs s1 := by
  unfold memRes
  rw [accessFault_none h, watchTrap_none h]
  simp only [Option.or_none]
  rw [if_neg, hr]
  rintro (⟨hw, hfull⟩ | hno)
  · rcases hroom with rfl | hlt
    · exact hw rfl
    · exact hfull (decide_eq_true hlt)
  · exact hno (List.all_eq_true.mpr hdram)

/-! ## Local data (R107, R109) -/

theorem localData_bounds {n : Nat} (hn : n < 129) :
    0xE010000 ≤ localData n ∧ (localData n + 0x20000 ≤ 0xF800000 ∨ localData n = 0x10010000) := by
  unfold localData
  split <;> omega

/-- Local data lies on chip, outside the Ductus and the Blotter's log. -/
theorem localKey {n a : Nat} (hn : n < 129) (ha : a < 0x20000) : 0xE010000 ≤ localData n + a
    ∧ (localData n + a < 0xF800000 ∨ 0x10010000 ≤ localData n + a) ∧ localData n + a + 0x10000 < dramBase := by
  have := localData_bounds hn
  unfold dramBase
  omega

theorem route_local {s : State} {t a : Nat} {write : Bool} (h : a < 0x20000) : route s t a write = some (localData (nibOf t) + a) := if_pos h

theorem isLocal_local {n a : Nat} (h : a < 0x20000) : isLocal n (localData n + a) = true := by
  unfold isLocal
  simp [h]

theorem dramRoom_onchip {s : State} {k : Nat} (h : k < dramBase) : dramRoom s k = true := by
  unfold dramRoom dramPlace
  rw [if_pos h]

/-- The page that reports the check errors of local data. -/
theorem checkPage_local {s : State} {n a : Nat} (hn : n < 129) (ha : a < 0x20000) :
    checkPage s (localData n + a) = some (Reg.nibPage n, 5, none) := by
  unfold checkPage localData Reg.nibPage dramBase
  by_cases h : n = 128
  · subst h
    simp only [if_true]
    repeat rw [if_neg (by omega)]
    rw [if_pos (by omega), if_neg (by omega)]
  · simp only [if_neg h]
    repeat rw [if_neg (by omega)]
    rw [if_pos (by omega), show (0xE010000 + 0x30000 * n + a - 0xE000000) / 0x30000 = n by omega]

/-- A good word of local data reads good and records nothing. -/
theorem checkLoad_local {s : State} {t a acc : Nat} (ht : t < 1028) (ha : a < 0x20000) (hg : LocalGood s t a) :
    checkLoad s t (localData (nibOf t) + a) acc = (false, s) := by
  obtain ⟨hbad, harm⟩ := hg
  have hread : checkRead s (localData (nibOf t) + a) (nibMid (nibOf t)) acc = (false, s) := by
    unfold checkRead
    rw [checkPage_local (nibOf_lt t ht) ha]
    simp [hbad, takeInjection_none harm]
  unfold checkLoad
  rw [hread, ite_self]

/-- An access to a good word of the thread's own local data. -/
abbrev ReadsLocal (s : State) (t : Nat) (a : Access) : Prop := a.addr < 0x20000 ∧ LocalGood s t a.addr

theorem keyOf_local {s : State} {t : Nat} {a : Access} (h : a.addr < 0x20000) : keyOf s t a = localData (nibOf t) + a.addr := by
  unfold keyOf
  rw [route_local h]
  rfl

/-- Reads of good local data return what its thread sees there, and record nothing. -/
theorem readWords_local {s : State} {t : Nat} (ht : t < 1028) {l : List Access} (h : ∀ a ∈ l, ReadsLocal s t a) :
    readWords t l s = .ok (l.map (fun a => loadValue s t (localData (nibOf t) + a.addr) a.size), s) := by
  induction l with
  | nil => rfl
  | cons a l ih =>
    obtain ⟨ha, hg⟩ := h a (.head l)
    unfold readWords
    simp only [keyOf_local ha, isLocal_local ha, if_true, checkLoad_local ht ha hg, ih (fun b hb => h b (.tail a hb)), List.map_cons]

/-- A local access that passes. -/
theorem passes_local {s : State} {t : Nat} {a : Access} (h : LocalAt s t a.addr a.size a.rd a.wr) : Passes s t a :=
  ⟨h.1, by rw [route_local h.2.1]; rfl, h.2.2⟩

/-! ## Stores -/

/-- A posted store changes the store buffer alone. -/
theorem storeAt_only {s : State} {t k : Nat} {a : Access} (v : Nat) (hk : keyOf s t a = k) : Only s (storeAt s t a v) t { thread s t with
    stbuf := (thread s t).stbuf ++ [{ key := k, data := leBytes a.size v, home := if k < dramBase then none else memKey s k }] } := by
  subst hk
  exact Only.modThread s t fun th => { th with stbuf := th.stbuf ++
    [{ key := keyOf s t a, data := leBytes a.size v, home := if keyOf s t a < dramBase then none else memKey s (keyOf s t a) }] }

/-- The bytes of a store, written one after the other. -/
theorem foldl_zipIdx_mem (s : State) (k n : Nat) (bs : List Byte) (h : k + n + bs.length ≤ dramBase) :
    (bs.zipIdx n).foldl (fun m e => Tbl.set memDefault m (k + e.2) e.1) s.mem = (wrBytes s (k + n) bs).mem := by
  induction bs generalizing s n with
  | nil => rfl
  | cons b bs ih =>
    rw [List.length_cons] at h
    have hk : memKey s (k + n) = some (k + n) := if_pos (by omega)
    have hwr : wr s (k + n) b = { s with mem := Tbl.set memDefault s.mem (k + n) b } := by unfold wr; rw [hk]
    rw [List.zipIdx_cons, List.foldl_cons, wrBytes, hwr]
    exact ih { s with mem := Tbl.set memDefault s.mem (k + n) b } (n + 1) (by omega)

/-- A store of on-chip bytes writes them, and no other byte. -/
theorem storeKept_stores (s : State) {k : Nat} {bs : List Byte} (h : k + bs.length ≤ dramBase) :
    MemOnly s (storeKept s k k bs) ∧ StoredAt s (storeKept s k k bs) k bs := by
  have hmem : (storeKept s k k bs).mem = (wrBytes s k bs).mem := by
    rw [← Nat.add_zero k, ← foldl_zipIdx_mem s k 0 bs h]
    unfold storeKept
    dsimp only
    split <;> rfl
  have honly : MemOnly s (storeKept s k k bs) := by
    unfold storeKept
    dsimp only
    split <;> rfl
  have hb := MemOnly.wrBytes s k bs
  refine ⟨honly, storedAt_of_rd fun j => ?_⟩
  rw [← rd_wrBytes s h]
  exact Settled.rd (Settled.of_regs (honly.regs.trans hb.regs.symm)) (honly.ddrs.trans hb.ddrs.symm) hmem j

/-- A store that reaches on-chip memory outside the Ductus store and what lies above it. -/
theorem storeBytes_stores (s : State) {k : Nat} {bs : List Byte} (mid : Nat) (hk : ¬ (0xF800000 ≤ k ∧ k < 0x10000000)) (hlt : k < dramBase)
    (h : k + bs.length ≤ dramBase) : MemOnly s (storeBytes s k bs mid) ∧ StoredAt s (storeBytes s k bs mid) k bs := by
  have htpl : templateLocked s k = false := by
    unfold templateLocked
    rw [Bool.and_eq_false_iff, Bool.and_eq_false_iff]
    simp only [decide_eq_false_iff_not]
    omega
  have hmove : movesTemplate s k bs = false := by
    unfold movesTemplate
    simp only [Bool.and_eq_false_iff, decide_eq_false_iff_not]
    omega
  have hkey : memKey s k = some k := if_pos hlt
  have he : storeBytes s k bs mid = storeKept s k k bs := by
    unfold storeBytes
    rw [htpl, hmove, hkey, if_neg Bool.false_ne_true, if_neg (by simp; omega)]
  rw [he]
  exact storeKept_stores s h

/-- An access to on-chip memory through the fabric, with no injection armed on its check, is counted and nothing else. -/
theorem sharedAccess_onchip {s : State} {t k n : Nat} {write : Bool} (hk : k < dramBase) (ha : NoArm s Reg.blotterPage 6) :
    ∃ p, sharedAccess s t k n write = { s with perf := p } := by
  have hfabric : fabricCheck s (nibMid (nibOf t)) k = s := by unfold fabricCheck; rw [takeInjection_none ha]
  have hbw : ∀ (x : State) (i m : Nat), ∃ p, bw x i m = { x with perf := p } := fun x i m => by
    unfold bw
    split
    · exact ⟨x.perf, rfl⟩
    · exact ⟨_, rfl⟩
  have hkey : ∀ x : State, ∃ p, bwKey x k n write = { x with perf := p } := fun x => by
    unfold bwKey
    rw [if_pos hk]
    split
    · exact hbw x _ n
    split
    · exact hbw x 21 n
    split
    · exact hbw x 22 n
    split
    · exact ⟨x.perf, rfl⟩
    split
    · exact hbw x 23 n
    · exact ⟨x.perf, rfl⟩
  have hreq : ∀ x : State, dramRequest x k (nibMid (nibOf t)) write = x := fun x => by
    unfold dramRequest dramPlace
    rw [if_pos hk]
  obtain ⟨p, hp⟩ := hbw s (nibPort (nibOf t)) n
  obtain ⟨q, hq⟩ := hkey { s with perf := p }
  refine ⟨q, ?_⟩
  unfold sharedAccess
  simp only [hfabric, hp, hq, hreq]

/-- Each store command posts through its row (R120). -/
theorem storeOps_rows : ∀ e ∈ storeOps, ∀ t w s, exec (e.cmd t w) s = .next (issue (storeRow e.sz e.size) t w s) := by
  intro e he
  fin_cases he <;> exact fun _ _ _ => rfl

/-- The oldest posted store, of an on-chip key outside the Ductus store and what lies above it, is written (R143). -/
theorem drain_writes {t : Nat} {s : State} {e : PostedStore} {r : List PostedStore} (hb : (thread s t).stbuf = e :: r) (hh : e.home = none)
    (hk : e.key < dramBase) (hend : e.key + e.data.length ≤ dramBase) (hout : ¬ (0xF800000 ≤ e.key ∧ e.key < 0x10000000))
    (ha : isLocal (nibOf t) e.key = true ∨ NoArm s Reg.blotterPage 6) :
    StoredAt s (storeBufferDrain t s) e.key e.data ∧ thread (storeBufferDrain t s) t = { thread s t with stbuf := r }
      ∧ (∀ u, u ≠ t → thread (storeBufferDrain t s) u = thread s u) ∧ (∀ a, reg (storeBufferDrain t s) a = reg s a) := by
  have hpop := Only.modThread s t fun th => { th with stbuf := r }
  generalize hs1 : modThread s t (fun th => { th with stbuf := r }) = s1 at hpop
  have hcounted : ∃ p, (if isLocal (nibOf t) e.key then s1 else sharedAccess s1 t e.key e.data.length true) = { s1 with perf := p } := by
    split
    · exact ⟨s1.perf, rfl⟩
    · next hloc =>
      have harm : NoArm s1 Reg.blotterPage 6 := by
        rw [← hs1]
        exact ha.resolve_left hloc
      exact sharedAccess_onchip hk harm
  obtain ⟨p, hp⟩ := hcounted
  have he : storeBufferDrain t s = storeBytes { s1 with perf := p } e.key e.data (nibMid (nibOf t)) := by
    unfold storeBufferDrain drainOne
    simp only [hb, dramRoom_onchip hk, if_true, hs1, hp, hh, hk]
  obtain ⟨hm, hst⟩ := storeBytes_stores { s1 with perf := p } (nibMid (nibOf t)) hout hk hend
  have hregs : ∀ a, reg s1 a = reg s a := fun a => by rw [hpop.1]; rfl
  have hrd : ∀ j, rd { s1 with perf := p } j = rd s j := fun j =>
    Settled.rd (s := s) (fun a _ => hregs a) (by rw [hpop.1]) (by rw [hpop.1]) j
  rw [he]
  refine ⟨⟨hst.1, fun j hj => (hst.2 j hj).trans (hrd j)⟩, (hm.thread t).trans hpop.2.1, fun u hu => (hm.thread u).trans (hpop.2.2 u hu),
    fun a => (reg_congr hm.regs a).trans (hregs a)⟩

/-- Settles O10: a store posts one access that passes; a drain writes the oldest store. -/
theorem stores : Obligations.Stores := by
  unfold Obligations.Stores
  refine ⟨fun e he t w s k hw hi hb hal hroute hwatch hroom => ?_,
    fun t s e r hbuf hh hk hend hout _ ha => ⟨_, rfl, drain_writes hbuf hh hk hend hout ha⟩⟩
  have hrun := runs_ext (storeOps_rows e he t w s) t.isLt hi hb (isFI_row hw) rfl hw.2.2 rfl rfl
  have hpass : Passes s t ⟨effAddr s t w, e.size, false, true, false⟩ := ⟨hal, by rw [hroute]; rfl, hwatch⟩
  have hkey : keyOf s t ⟨effAddr s t w, e.size, false, true, false⟩ = k := congrArg (Option.getD · 0) hroute
  simp only [storeRow] at hrun
  rw [memRes_reads (by simpa using hpass) (.inr hroom) (by simp) rfl] at hrun
  obtain ⟨hbs, hth⟩ := (storeAt_only (wreg s t (wD w)).toNat hkey).toBeside
  exact gives_done hrun t.isLt hbs hth hi.2.2.2.2 ⟨rfl, rfl⟩

end Sys2Proof.Machine
end

section
/-! PROOFS. Atomics and string instructions (O11). -/

namespace Sys2Proof.Machine

/-! ## Registers and loads -/

theorem wreg_setW (s : State) (t i j : Nat) (v : Word) : wreg (setW s t i v) t j = if j = i then v else wreg s t j := by
  unfold wreg setW
  rw [thread_modThread_same]
  exact Tbl.get_set _ _ _ _ _

/-- With no posted store, a thread reads its own local data as it stands. -/
theorem loadValue_local {s : State} {t a : Nat} (ht : t < 1028) (ha : a + 4 ≤ 0x20000) (hb : (thread s t).stbuf = []) :
    word (loadValue s t (localData (nibOf t) + a) 4) = rdWord s (localData (nibOf t) + a) := by
  have hbyte : ∀ i ∈ List.range 4, loadByte s t (localData (nibOf t) + a + i) = rd s (localData (nibOf t) + a + i) := fun i hi => by
    have hk := localKey (nibOf_lt t ht) (show a + i < 0x20000 by have := List.mem_range.mp hi; omega)
    have hsee : seeByte s t (localData (nibOf t) + a + i) = rd s (localData (nibOf t) + a + i) := by
      unfold seeByte
      dsimp only
      rw [if_neg (by omega), if_neg (by omega), if_neg (by omega)]
    unfold loadByte
    rw [hb, hsee]
    rfl
  unfold loadValue rdWord rdLe rdBytes
  rw [List.map_congr_left hbyte]

/-! ## Atomics (R121) -/

/-- Each atomic command runs its row (R121). -/
theorem atomOps_rows : ∀ e ∈ atomOps, ∀ t w s, exec (e.cmd t w) s = .next (issue (atomRow e.fn e.fields e.f) t w s) := by
  intro e he
  fin_cases he <;> exact fun _ _ _ => rfl

/-- The thread after an atomic has read `old`: Z where its row sets it, and d. -/
def atomThread (th : Thread) (d : Nat) (old : Word) (z : Option Bool) : Thread :=
  { withW th d old with st := match z with | some z => setBit th.st 0 z | none => th.st }

/-- What an atomic changes of its thread, after its store. -/
theorem atom_sets {s : State} {t : Nat} {th : Thread} (h : thread s t = th) (d : Nat) (old : Word) (z : Option Bool) :
    Only s (setW (match z with | some b => setSt s t (setZ (thread s t).st b) | none => s) t d old) t (atomThread th d old z) := by
  subst h
  cases z with
  | none => exact Only.modThread s t fun th => withW th d old
  | some b => exact (Only.modThread s t fun th => { th with st := setZ (thread s t).st b }).mod fun th => withW th d old

/-- Memory after an atomic on key `k` has written what its row stores. -/
def atomStored (s : State) (k mid : Nat) : Option Word → State
  | some v => storeBytes s k (leBytes 4 v.toNat) mid
  | none => s

/-- The store of an atomic on local data. -/
theorem atomStored_stores (s : State) {k : Nat} (mid : Nat) (hk : ¬ (0xF800000 ≤ k ∧ k < 0x10000000)) (h : k + 4 ≤ dramBase) (v : Word) :
    MemOnly s (atomStored s k mid (some v)) ∧ StoredAt s (atomStored s k mid (some v)) k (leBytes 4 v.toNat) :=
  storeBytes_stores s mid hk (by omega) (by rw [leBytes_length]; exact h)

theorem atomStored_only (s : State) {k : Nat} (mid : Nat) (hk : ¬ (0xF800000 ≤ k ∧ k < 0x10000000)) (h : k + 4 ≤ dramBase)
    (o : Option Word) : MemOnly s (atomStored s k mid o) := by
  cases o with
  | none => exact MemOnly.refl s
  | some v => exact (atomStored_stores s mid hk h v).1

section Atomic
variable {s : State} {t : Tid} {w : Word}

/-- An atomic on a good word of its own local data, after every posted store: it stores what its row says and completes (R121). -/
theorem atomRun_local (f : Word → Word → Word → Option Word × Option Bool) (hb : (thread s t).stbuf = [])
    (hl : LocalAt s t (wreg s t (wA w)).toNat 4 false true) (hg : LocalGood s t (wreg s t (wA w)).toNat) :
    let k := localData (nibOf t) + (wreg s t (wA w)).toNat
    let o := f (rdWord s k) (wreg s t (wD w)) (wreg s t (wB w))
    ∃ s1, atomRun f t w s = .done s1
      ∧ Only (atomStored s k (nibMid (nibOf t)) o.1) s1 t (atomThread (thread s t) (wD w) (rdWord s k) o.2) := by
  intro k o
  obtain ⟨hal, hlt, hwatch⟩ := hl
  have hbounds : 0xE010000 ≤ k ∧ (k < 0xF800000 ∨ 0x10010000 ≤ k) ∧ k + 0x10000 < dramBase := localKey (nibOf_lt t t.isLt) hlt
  have hkey : keyOf s t ⟨(wreg s t (wA w)).toNat, 4, false, true, true⟩ = k := keyOf_local hlt
  have hread : readWords t [⟨(wreg s t (wA w)).toNat, 4, false, true, true⟩] s = .ok ([loadValue s t k 4], s) :=
    readWords_local t.isLt (by simpa using ⟨hlt, hg⟩)
  have hpass : ∀ a ∈ [(⟨(wreg s t (wA w)).toNat, 4, false, true, true⟩ : Access)], Passes s t a := by
    simpa using passes_local (a := ⟨(wreg s t (wA w)).toNat, 4, false, true, true⟩) ⟨hal, hlt, hwatch⟩
  have hold : word (loadValue s t k 4) = rdWord s k := loadValue_local t.isLt (by omega) hb
  refine ⟨_, ?_, atom_sets ((atomStored_only s _ (by omega) (by omega) o.1).thread t) (wD w) (rdWord s k) o.2⟩
  unfold atomRun
  simp only [accessTrap_none hpass, hkey, dramRoom_onchip (show k < dramBase by omega), hb, hread, List.headD_cons, hold]
  rw [if_neg (by simp)]
  rfl

/-- Each atomic completes with the old word in d, and stores what its row says. -/
theorem atom_gives {e : AtomOp} (he : e ∈ atomOps) (hw : IsF3 0x0B e.fn e.fields w) (hi : Issues s t) (hb : Bare s t)
    (hbuf : (thread s t).stbuf = []) (hl : LocalAt s t (wreg s t (wA w)).toNat 4 false true) (hg : LocalGood s t (wreg s t (wA w)).toNat) :
    let k := localData (nibOf t) + (wreg s t (wA w)).toNat
    let o := e.f (rdWord s k) (wreg s t (wD w)) (wreg s t (wB w))
    Gives (e.cmd t w) s (fun s' => CompletesMem s t (atomThread (thread s t) (wD w) (rdWord s k) o.2) s'
      ∧ ∀ j, rd s' j = rd (atomStored s k (nibMid (nibOf t)) o.1) j) := by
  intro k o
  have hbounds : 0xE010000 ≤ k ∧ (k < 0xF800000 ∨ 0x10010000 ≤ k) ∧ k + 0x10000 < dramBase := localKey (nibOf_lt t t.isLt) hl.2.1
  obtain ⟨s1, hrun, hset⟩ := atomRun_local e.f hbuf hl hg
  have hc := runs_bare (atomOps_rows e he t w s) t.isLt hi hb (isF3_row hw) hw.2.2 rfl rfl
  rw [show (atomRow e.fn e.fields e.f).run t w s = .done s1 from hrun] at hc
  obtain ⟨hbs, hth⟩ := hset.toBeside
  obtain ⟨s', hs', hdone, hrd⟩ := gives_doneMem hc t.isLt (atomStored_only s _ (by omega) (by omega) o.1) hbs hth hi.2.2.2.2 ⟨rfl, rfl⟩
  refine ⟨s', hs', hdone, fun j => (hrd j).trans ?_⟩
  exact Settled.rd (Settled.of_regs (by rw [hset.1])) (by rw [hset.1]) (by rw [hset.1]) j

end Atomic

/-! ## Strings (R122, R133) -/

section Strings
variable {s : State} {t : Tid} {w : Word} {i : Nat}

/-- A thread with one more word posted for key `k`. -/
def postWord (th : Thread) (k v : Nat) : Thread := { th with stbuf := th.stbuf ++ [⟨k, leBytes 4 v, none⟩] }

/-- A thread with the pointers in two registers stepped. -/
def bothStepped (th : Thread) (i j : Nat) (k : Word) : Thread :=
  withW (withW th i (Tbl.get (fun _ => 0) th.w i + k)) j (Tbl.get (fun _ => 0) th.w j + k)

/-- A word of local data is posted. -/
theorem storeWord_local (h : (wreg s t i).toNat < 0x20000) (v : Nat) : Only s (storeAt s t (wordWr s t i) v) t
    (postWord (thread s t) (localData (nibOf t) + (wreg s t i).toNat) v) := by
  have hk := localKey (nibOf_lt t t.isLt) h
  have hpost := storeAt_only (s := s) (t := t) (a := wordWr s t i) v (keyOf_local h)
  rwa [show (wordWr s t i).addr = (wreg s t i).toNat from rfl, if_pos (by omega)] at hpost

/-- Stepping two different registers writes both. -/
theorem stepTwo_only {s1 : State} {th : Thread} (h : Only s s1 t th) {i j : Nat} (hij : i ≠ j) (k : Word) :
    Only s (stepTwo s1 t i j k) t (bothStepped th i j k) := by
  have hw : ∀ x, wreg s1 t x = Tbl.get (fun _ => 0) th.w x := fun x => by unfold wreg; rw [h.2.1]
  have hj : wreg (setW s1 t i (Tbl.get (fun _ => 0) th.w i + k)) t j = Tbl.get (fun _ => 0) th.w j := by
    rw [wreg_setW, if_neg (Ne.symm hij), hw]
  unfold stepTwo bothStepped
  simp only [if_neg hij, hw i, hj]
  exact (h.mod fun th' => withW th' i (Tbl.get (fun _ => 0) th.w i + k)).mod fun th' => withW th' j (Tbl.get (fun _ => 0) th.w j + k)

theorem strStep_bare (h : Bare s t) : strStep s t = 4 := by unfold strStep; rw [h]

theorem strStep_rpt {dir : Bool} (h : (thread s t).pfx = .rpt dir) : strStep s t = stepOf dir := by unfold strStep; rw [h]

/-- A string instruction without a prefix runs. -/
theorem str_runs {c : Instr} {fn : Nat} {fields : Fields} {run : Nat → Word → State → Res} (hrow : exec c s = .next (issue (strRow fn fields run) t w s))
    (hi : Issues s t) (hb : Bare s t) (hw : IsF3 0x0C fn fields w) : exec c s = .next (applyRes s t false (run t w s)) :=
  runs_bare hrow t.isLt hi hb (isF3_row hw) hw.2.2 rfl rfl

/-- The reads of a string instruction: words of local data, all of them good. -/
theorem readWords_regs {l : List Nat} (h : ∀ i ∈ l, (wreg s t i).toNat < 0x20000 ∧ LocalGood s t (wreg s t i).toNat) :
    readWords t (l.map (wordRd s t)) s = .ok (l.map (fun i => loadValue s t (localData (nibOf t) + (wreg s t i).toNat) 4), s) := by
  have hread := readWords_local t.isLt (l := l.map (wordRd s t)) fun a ha => by
    obtain ⟨i, hi, rfl⟩ := List.mem_map.mp ha
    exact h i hi
  rw [List.map_map] at hread
  exact hread

/-- No read of local data waits for DRAM. -/
theorem dramRoom_regs {l : List Nat} (h : ∀ i ∈ l, (wreg s t i).toNat < 0x20000) :
    ∀ a ∈ l.map (wordRd s t), dramRoom s (keyOf s t a) = true := fun a ha => by
  obtain ⟨i, hi, rfl⟩ := List.mem_map.mp ha
  have hk := localKey (nibOf_lt t t.isLt) (h i hi)
  rw [keyOf_local (h i hi)]
  exact dramRoom_onchip (show localData (nibOf t) + (wreg s t i).toNat < dramBase by omega)

/-- WFIL posts W[b] to mem[d] and steps d. -/
theorem wfilRun_local (hl : LocalAt s t (wreg s t (wD w)).toNat 4 false true) (hroom : (thread s t).stbuf.length < 4) :
    ∃ s1, wfilRun t w s = .done s1 ∧ Only s s1 t (withW
      (postWord (thread s t) (localData (nibOf t) + (wreg s t (wD w)).toNat) (wreg s t (wB w)).toNat) (wD w) (wreg s t (wD w) + strStep s t)) := by
  refine ⟨_, ?_, (storeWord_local hl.2.1 _).mod fun th => withW th (wD w) (wreg s t (wD w) + strStep s t)⟩
  unfold wfilRun
  rw [memRes_reads (by simpa using passes_local (a := wordWr s t (wD w)) hl) (.inr hroom) (by simp) rfl]
  rfl

/-- WCPY posts mem[a] to mem[d] and steps both. -/
theorem wcpyRun_local (hda : wD w ≠ wA w) (ha : LocalAt s t (wreg s t (wA w)).toNat 4 true false) (hg : LocalGood s t (wreg s t (wA w)).toNat)
    (hd : LocalAt s t (wreg s t (wD w)).toNat 4 false true) (hroom : (thread s t).stbuf.length < 4) :
    ∃ s1, wcpyRun t w s = .done s1 ∧ Only s s1 t (bothStepped (postWord (thread s t) (localData (nibOf t) + (wreg s t (wD w)).toNat)
      (loadValue s t (localData (nibOf t) + (wreg s t (wA w)).toNat) 4)) (wD w) (wA w) (strStep s t)) := by
  refine ⟨_, ?_, stepTwo_only (storeWord_local hd.2.1 _) hda (strStep s t)⟩
  have hpass : ∀ a ∈ [wordRd s t (wA w)] ++ [wordWr s t (wD w)], Passes s t a := by
    simpa using ⟨passes_local (a := wordRd s t (wA w)) ha, passes_local (a := wordWr s t (wD w)) hd⟩
  have hdram : ∀ a ∈ [wordRd s t (wA w)], dramRoom s (keyOf s t a) = true := dramRoom_regs (l := [wA w]) (by simpa using ha.2.1)
  have hread : readWords t [wordRd s t (wA w)] s = .ok ([loadValue s t (localData (nibOf t) + (wreg s t (wA w)).toNat) 4], s) :=
    readWords_regs (l := [wA w]) (by simpa using ⟨ha.2.1, hg⟩)
  unfold wcpyRun
  rw [memRes_reads hpass (.inr hroom) hdram hread]
  rfl

/-- How WCMP and WSRCH end outside a repeat: their flags, and both pointers stepped. -/
theorem strCmpRun_local (ends : Bool) (hda : wD w ≠ wA w) (ha : LocalAt s t (wreg s t (wA w)).toNat 4 true false)
    (hga : LocalGood s t (wreg s t (wA w)).toNat) (hd : LocalAt s t (wreg s t (wD w)).toNat 4 true false)
    (hgd : LocalGood s t (wreg s t (wD w)).toNat) :
    ∃ s1, applyRes s t false (strCmpRun ends t w s) = applyRes s t false (.done s1)
      ∧ Only s s1 t (bothStepped { thread s t with
          st := (strCmp (thread s t).st (word (loadValue s t (localData (nibOf t) + (wreg s t (wD w)).toNat) 4))
            (word (loadValue s t (localData (nibOf t) + (wreg s t (wA w)).toNat) 4))) } (wD w) (wA w) (strStep s t)) := by
  generalize hst : strCmp (thread s t).st (word (loadValue s t (localData (nibOf t) + (wreg s t (wD w)).toNat) 4))
    (word (loadValue s t (localData (nibOf t) + (wreg s t (wA w)).toNat) 4)) = st
  have hset : Only s (setSt s t st) t { thread s t with st := st } := Only.modThread s t fun th => { th with st := st }
  refine ⟨_, ?_, stepTwo_only hset hda (strStep s t)⟩
  have hpass : ∀ a ∈ [wordRd s t (wD w), wordRd s t (wA w)] ++ [], Passes s t a := by
    simpa using ⟨passes_local (a := wordRd s t (wD w)) hd, passes_local (a := wordRd s t (wA w)) ha⟩
  have hdram : ∀ a ∈ [wordRd s t (wD w), wordRd s t (wA w)], dramRoom s (keyOf s t a) = true :=
    dramRoom_regs (l := [wD w, wA w]) (by simpa using ⟨hd.2.1, ha.2.1⟩)
  have hread : readWords t [wordRd s t (wD w), wordRd s t (wA w)] s
      = .ok ([loadValue s t (localData (nibOf t) + (wreg s t (wD w)).toNat) 4, loadValue s t (localData (nibOf t) + (wreg s t (wA w)).toNat) 4], s) :=
    readWords_regs (l := [wD w, wA w]) (by simpa using ⟨⟨hd.2.1, hgd⟩, ha.2.1, hga⟩)
  have hrun : strCmpRun ends t w s = if stZ st = ends then .stop (stepTwo (setSt s t st) t (wD w) (wA w) (strStep s t))
      else .done (stepTwo (setSt s t st) t (wD w) (wA w) (strStep s t)) := by
    rw [← hst]
    unfold strCmpRun
    rw [memRes_reads hpass (.inl rfl) hdram hread]
    rfl
  rw [hrun]
  split <;> rfl

/-- Under RPT a string instruction with good fields has no early cause. -/
theorem str_early_rpt {fn : Nat} {fields : Fields} {run : Nat → Word → State → Res} {dir : Bool} (hp : (thread s t).pfx = .rpt dir)
    (hw : IsF3 0x0C fn fields w) : earlyTrap (strRow fn fields run) s t w = none := by
  unfold earlyTrap
  simp [strRow, hw.2.2.1, hw.2.2.2, hp, prefixTrap]

/-- Under RPT with CNT at 0 no iteration runs (R133). -/
theorem issue_rpt_zero {r : Row} {dir : Bool} (hi : Issues s t) (hw : r.is w = true) (he : earlyTrap r s t w = none)
    (hp : (thread s t).pfx = .rpt dir) (hz : (thread s t).cnt = 0) : issue r t w s = applyRes s t false (.done s) := by
  obtain ⟨hcan, hfetch, hpipe, harm, -⟩ := hi
  unfold issue
  rw [if_neg (by simp [hw, hcan]), pipelineCheck_none hpipe]
  simp only [fetch_good (nibOf_lt t t.isLt) (instrPc_lt s t) hfetch harm, he, hp, hz, and_self, if_true]

/-- Under RPT with CNT above 0 an iteration runs (R133). -/
theorem issue_rpt_runs {r : Row} {dir : Bool} (hi : Issues s t) (hw : r.is w = true) (he : earlyTrap r s t w = none)
    (hp : (thread s t).pfx = .rpt dir) (hz : (thread s t).cnt ≠ 0) : issue r t w s = applyRes s t true (r.run t w s) := by
  obtain ⟨hcan, hfetch, hpipe, harm, -⟩ := hi
  unfold issue
  rw [if_neg (by simp [hw, hcan]), pipelineCheck_none hpipe]
  simp only [fetch_good (nibOf_lt t t.isLt) (instrPc_lt s t) hfetch harm, he, hp, hz, and_false, if_false]

/-- An iteration that is not the last counts CNT down and leaves the PC at the prefix (R133). -/
theorem iterates {s1 : State} {th : Thread} (h : Only s s1 t th) (hf : th.stepping = false) (hc : 1 < th.cnt.toNat) :
    Beside s (applyRes s t true (.done s1)) t ∧ thread (applyRes s t true (.done s1)) t = { th with cnt := th.cnt - 1 } := by
  have hm := h.mod fun th => { th with cnt := th.cnt - 1 }
  have hne : th.cnt - 1 ≠ 0 := fun h0 => by
    have := congrArg BitVec.toNat h0
    rw [BitVec.toNat_sub_of_le (BitVec.le_def.mpr (show (1 : Word).toNat ≤ th.cnt.toNat by simp; omega))] at this
    simp at this
    omega
  have hcount : countIteration s1 t = modThread s1 t (fun th => { th with cnt := th.cnt - 1 }) := by
    unfold countIteration
    rw [if_neg]
    rw [hm.2.1]
    exact hne
  obtain ⟨hbs, hth⟩ := hm.counted (Counted.retire t t.isLt)
  simp only [applyRes, if_true, hcount]
  rw [stepEnd_off (by rw [hth]; exact hf)]
  exact ⟨hbs, hth⟩

end Strings

/-- Settles O11: each atomic and string instruction on good local data runs as its lemma says. -/
theorem atomicsAndStrings : Obligations.AtomicsAndStrings := by
  unfold Obligations.AtomicsAndStrings
  refine ⟨fun e he t w s hw hi hb hbuf hl hg => ?atomic, fun t w s hi hb => ⟨fun hw hda ha hg hd hroom => ?wcpy, fun hw hl hroom => ?wfil,
    fun c hc hw hda hd hgd ha hga => ?compare⟩, fun t w s dir hi hp hw => ⟨fun hz => ?empty, fun hc hl hroom => ?iteration⟩⟩
  case atomic =>
    obtain ⟨s', hs', hdone, hrd⟩ := atom_gives he hw hi hb hbuf hl hg
    have hk := localKey (nibOf_lt t t.isLt) hl.2.1
    refine ⟨s', hs', hdone, ?_⟩
    split
    next v hv =>
      rw [hv] at hrd
      exact (atomStored_stores s _ (by omega) (by omega) v).2.congr hrd
    next hn =>
      rw [hn] at hrd
      exact hrd
  case wcpy =>
    obtain ⟨s1, hrun, hset⟩ := wcpyRun_local hda ha hg hd hroom
    have hc := str_runs (run := wcpyRun) (c := .wcpy t w) rfl hi hb hw
    rw [hrun] at hc
    rw [strStep_bare hb] at hset
    obtain ⟨hbs, hth⟩ := hset.toBeside
    exact gives_done hc t.isLt hbs hth hi.2.2.2.2 ⟨rfl, rfl⟩
  case wfil =>
    obtain ⟨s1, hrun, hset⟩ := wfilRun_local hl hroom
    have hc := str_runs (run := wfilRun) (c := .wfil t w) rfl hi hb hw
    rw [hrun] at hc
    rw [strStep_bare hb] at hset
    obtain ⟨hbs, hth⟩ := hset.toBeside
    exact gives_done hc t.isLt hbs hth hi.2.2.2.2 ⟨rfl, rfl⟩
  case compare =>
    have hrow : ∃ ends, exec c.1 s = .next (applyRes s t false (strCmpRun ends t w s)) := by
      rcases List.mem_pair.mp hc with rfl | rfl
      · exact ⟨false, str_runs rfl hi hb hw⟩
      · exact ⟨true, str_runs rfl hi hb hw⟩
    obtain ⟨ends, hrun⟩ := hrow
    obtain ⟨s1, he, hset⟩ := strCmpRun_local ends hda ha hga hd hgd
    rw [he] at hrun
    rw [strStep_bare hb] at hset
    obtain ⟨hbs, hth⟩ := hset.toBeside
    exact gives_done hrun t.isLt hbs hth hi.2.2.2.2 ⟨rfl, rfl⟩
  case empty =>
    have hc : exec (.wfil t w) s = .next (applyRes s t false (.done s)) :=
      congrArg _ (issue_rpt_zero hi (isF3_row hw) (str_early_rpt (run := wfilRun) hp hw) hp hz)
    exact gives_done hc t.isLt (Beside.refl s t) rfl hi.2.2.2.2 ⟨rfl, rfl⟩
  case iteration =>
    obtain ⟨s1, hrun, hset⟩ := wfilRun_local hl hroom
    have hcnt : (thread s t).cnt ≠ 0 := fun h0 => by rw [h0] at hc; exact absurd hc (by decide)
    have hex : exec (.wfil t w) s = .next (applyRes s t true (.done s1)) := by
      rw [← hrun]
      exact congrArg _ (issue_rpt_runs (r := strRow 0x001 .db wfilRun) hi (isF3_row hw) (str_early_rpt hp hw) hp hcnt)
    rw [strStep_rpt hp] at hset
    exact ⟨_, hex, iterates hset hi.2.2.2.2 hc⟩

end Sys2Proof.Machine
end

section
/-! PROOFS. Thread control (O18). -/

namespace Sys2Proof.Machine

/-! ## What leaves a thread alone -/

/-- Thread `t`, the partition of each Nib, and whether it is fenced, are as before. -/
structure LeavesThread (t : Nat) (s s' : State) : Prop where
  thread : thread s' t = thread s t
  pid : ∀ n < 128, reg s' (Reg.NIB_PID n) = reg s (Reg.NIB_PID n)
  fenced : ∀ n, (nib s' n).fenced = (nib s n).fenced

section LeavesThread
variable {t : Nat} {s s' s'' : State}

theorem LeavesThread.trans (h : LeavesThread t s s') (h' : LeavesThread t s' s'') : LeavesThread t s s'' :=
  ⟨h'.thread.trans h.thread, fun n hn => (h'.pid n hn).trans (h.pid n hn), fun n => (h'.fenced n).trans (h.fenced n)⟩

/-- A change of other fields than the threads, the Nibs and the registers. -/
theorem LeavesThread.of_eq (ht : s'.threads = s.threads) (hn : s'.nibs = s.nibs) (hr : s'.regs = s.regs) : LeavesThread t s s' :=
  ⟨by unfold Machine.thread; rw [ht], fun n _ => reg_congr hr _, fun n => by unfold nib; rw [hn]⟩

theorem LeavesThread.refl (t : Nat) (s : State) : LeavesThread t s s := .of_eq rfl rfl rfl

/-- The partition register of a Nib is no register of a page that is no Nib's. -/
theorem nibPid_ne {a n : Nat} (hn : n < 128) (h : a / 0x1000 % 16 = 0 ∨ 9 ≤ a / 0x1000 % 16) : a ≠ Reg.NIB_PID n := by
  rintro rfl
  have hpage : Reg.NIB_PID n = 0x101108 + 0x10000 * (n / 8) + 0x1000 * (n % 8) := by
    unfold Reg.NIB_PID Reg.nibPage
    rw [if_pos hn]
    omega
  omega

theorem LeavesThread.setReg (t : Nat) (s : State) {a : Nat} (v : Word) (h : a / 0x1000 % 16 = 0 ∨ 9 ≤ a / 0x1000 % 16) :
    LeavesThread t s (Machine.setReg s a v) :=
  ⟨rfl, fun _ hn => reg_setReg_other s v (Ne.symm (nibPid_ne hn h)), fun _ => rfl⟩

/-- A Nib's partition is a setting, and no header or Blotter register. -/
theorem nibPid_page {n : Nat} (hn : n < 128) : Setting (Reg.NIB_PID n) ∧ 0x100 ≤ Reg.NIB_PID n % 0x1000
    ∧ Reg.NIB_PID n / 0x1000 ≠ Reg.blotterPage / 0x1000 := by
  have hpage : Reg.NIB_PID n = 0x101108 + 0x10000 * (n / 8) + 0x1000 * (n % 8) := by
    unfold Reg.NIB_PID Reg.nibPage
    rw [if_pos hn]
    omega
  have hb : Reg.blotterPage / 0x1000 = 3 := rfl
  unfold Setting
  omega

theorem LeavesThread.note (t : Nat) (s : State) {page : Nat} (src access mid addr : Nat) (hp : Based page) :
    LeavesThread t s (Machine.note s page src access mid addr) := by
  obtain ⟨he, hr, -⟩ := Records.note s page src access mid addr (l := []) hp
  refine ⟨by rw [he]; rfl, fun n hn => ?_, fun n => by rw [he]; rfl⟩
  obtain ⟨-, h100, hb⟩ := nibPid_page hn
  exact hr _ (by simp) h100 hb

/-- A change beside another thread that keeps the settings. -/
theorem LeavesThread.of_beside {u : Nat} (h : Beside s s' u) (hs : Settled s s') (hu : t ≠ u) : LeavesThread t s s' := by
  obtain ⟨-, hth, hnib, ⟨b, l, hown⟩, -⟩ := h
  refine ⟨hth t hu, fun n hn => hs _ (nibPid_page hn).1, fun n => ?_⟩
  by_cases hn : n = nibOf u
  · rw [hn, hown]
  · rw [hnib n hn]

/-- The registers are as before while one thread changes. -/
theorem OnlyThread.settled {u : Nat} (h : OnlyThread s s' u) : Settled s s' := by
  obtain ⟨th, he, -⟩ := h
  exact Settled.of_regs (by rw [he])

/-- A delivery keeps the settings. -/
theorem Settled.deliverIn (s : State) (u : Nat) (v : PortVal) : Settled s (Machine.deliverIn s u v) := by
  have ends : ∀ x : State, OnlyThread s x u → Settled s (stepEnd (Machine.retire x u) u) := fun x hx => by
    have hret := hx.settled.trans (Settled.retire x u)
    unfold stepEnd
    split
    · exact hret.trans (Settled.of_regs rfl)
    · exact hret
  unfold Machine.deliverIn
  cases waitsOn s u with
  | none => exact Settled.refl s
  | some pd =>
    have took := fun f => ((OnlyThread.refl s u).putIn pd.2 v).mod f
    refine ends _ (OnlyThread.ite (OnlyThread.mod ?_ _) ?_) <;>
      exact OnlyThread.ite (took _).countIteration ((took _).mod _)

end LeavesThread

/-! ## Events of a Quill (R360) -/

/-- Registers of the Quill pages may differ, nothing else. -/
def OnQuillPages (s s' : State) : Prop := s' = { s with regs := s'.regs } ∧ ∀ a, a / 0x1000 % 16 ≠ 0 → reg s' a = reg s a

section OnQuillPages
variable {s s' s'' : State}

theorem OnQuillPages.refl (s : State) : OnQuillPages s s := ⟨rfl, fun _ _ => rfl⟩

theorem OnQuillPages.trans (h : OnQuillPages s s') (h' : OnQuillPages s' s'') : OnQuillPages s s'' :=
  ⟨by rw [h'.1, h.1], fun a ha => (h'.2 a ha).trans (h.2 a ha)⟩

theorem OnQuillPages.setReg (s : State) {a : Nat} (v : Word) (h : a / 0x1000 % 16 = 0) : OnQuillPages s (Machine.setReg s a v) :=
  ⟨rfl, fun _ hb => reg_setReg_other s v (by rintro rfl; exact hb h)⟩

theorem OnQuillPages.setFlag (s : State) {a : Nat} (i : Nat) (b : Bool) (h : a / 0x1000 % 16 = 0) :
    OnQuillPages s (Machine.setFlag s a i b) := OnQuillPages.setReg s _ h

theorem OnQuillPages.add48 (s : State) {a : Nat} (k : Nat) (h : a / 0x1000 % 16 = 0) (h4 : (a + 4) / 0x1000 % 16 = 0) :
    OnQuillPages s (Machine.add48 s a k).2 := by
  unfold Machine.add48
  exact (OnQuillPages.setReg s _ h).trans (OnQuillPages.setReg _ _ h4)

/-- What follows a count: the overflow bit. -/
theorem OnQuillPages.overflow {s : State} (q i : Nat) (r : Bool × State) : OnQuillPages s r.2 → OnQuillPages s (match r with
    | (false, s) => s
    | (true, s) => Machine.setFlag s (Reg.QPC_OVF q) i true) := by
  obtain ⟨wrapped, s1⟩ := r
  intro h
  cases wrapped with
  | false => exact h
  | true => exact h.trans (OnQuillPages.setFlag s1 i true (by unfold Reg.QPC_OVF Reg.quillPage; omega))

theorem OnQuillPages.qpcCount (s : State) (q evt : Nat) {i : Nat} (hi : i < 4) : OnQuillPages s (Machine.qpcCount q evt s i) := by
  have hlo : Reg.QPC_CNT_LO q i / 0x1000 % 16 = 0 := by unfold Reg.QPC_CNT_LO Reg.quillPage; omega
  have hhi : (Reg.QPC_CNT_LO q i + 4) / 0x1000 % 16 = 0 := by unfold Reg.QPC_CNT_LO Reg.quillPage; omega
  unfold Machine.qpcCount
  extract_lets sel
  split
  · exact OnQuillPages.overflow q i _ (OnQuillPages.add48 s 1 hlo hhi)
  · exact OnQuillPages.refl s

theorem OnQuillPages.qpcEvent (s : State) (q evt : Nat) : OnQuillPages s (Machine.qpcEvent s q evt) := by
  have folded : ∀ l : List Nat, (∀ i ∈ l, i < 4) → ∀ x, OnQuillPages s x → OnQuillPages s (l.foldl (Machine.qpcCount q evt) x) := by
    intro l
    induction l with
    | nil => exact fun _ x hx => hx
    | cons i l ih => exact fun hl x hx => ih (fun j hj => hl j (.tail i hj)) _ (hx.trans (OnQuillPages.qpcCount x q evt (hl i (.head l))))
  unfold Machine.qpcEvent
  split
  · exact OnQuillPages.refl s
  · exact folded _ (fun i hi => List.mem_range.mp hi) s (OnQuillPages.refl s)

theorem OnQuillPages.leaves (h : OnQuillPages s s') (t : Nat) : LeavesThread t s s' :=
  ⟨by rw [h.1]; rfl, fun n hn => h.2 _ fun h0 => nibPid_ne hn (.inl h0) rfl, fun n => by rw [h.1]; rfl⟩

end OnQuillPages

/-! ## Locks that pass on (R159, R160) -/

/-- The lock of a key. -/
abbrev lockAt (s : State) (k : Nat) : Lock := Tbl.get (fun _ => {}) s.locks k

/-- The keys of the locks of the Quill of thread `t`. -/
abbrev OwnKey (t k : Nat) : Prop := k / 256 = nibOf t / 8

/-- Thread `t` waits in no queue of its Quill's locks. -/
def InNoQueue (t : Nat) (s : State) : Prop := ∀ k, OwnKey t k → t ∉ (lockAt s k).queue

/-- A lock changes, and thread `t` is left alone. -/
structure LockPasses (t k : Nat) (v : Lock) (s s' : State) : Prop where
  leaves : LeavesThread t s s'
  at_ : ∀ j, lockAt s' j = if j = k then v else lockAt s j

section Locks
variable {t : Nat} {s : State}

theorem LockPasses.modLock (t : Nat) (s : State) (q k : Nat) (f : Lock → Lock) :
    LockPasses t (256 * q + k) (f (lock s q k)) s (Machine.modLock s q k f) :=
  ⟨.of_eq rfl rfl rfl, fun _ => Tbl.get_set _ _ _ _ _⟩

/-- A further change of the same lock. -/
theorem LockPasses.modLock_again {q k : Nat} {v : Lock} {s' : State} (h : LockPasses t (256 * q + k) v s s') (f : Lock → Lock) :
    LockPasses t (256 * q + k) (f v) s (Machine.modLock s' q k f) := by
  have hm := LockPasses.modLock t s' q k f
  have hv : lock s' q k = v := (h.at_ _).trans (if_pos rfl)
  refine ⟨h.leaves.trans hm.leaves, fun j => ?_⟩
  rw [hm.at_, h.at_, hv]
  split <;> rfl

/-- What leaves the locks alone passes on. -/
theorem LockPasses.keep {k : Nat} {v : Lock} {s' s'' : State} (h : LockPasses t k v s s') (h' : LeavesThread t s' s'')
    (hl : s''.locks = s'.locks) : LockPasses t k v s s'' :=
  ⟨h.leaves.trans h', fun j => by unfold lockAt; rw [hl]; exact h.at_ j⟩

/-- A lock that passes to thread `u`. -/
theorem LockPasses.lockGrant {q k u : Nat} {v : Lock} {s' : State} (h : LockPasses t (256 * q + k) v s s') :
    LockPasses t (256 * q + k) { v with owner := some u, broken := false } s (Machine.lockGrant s' q k u).2 := by
  have hm := h.modLock_again fun l => { l with owner := some u, broken := false }
  have hq : ∀ {x : State}, LockPasses t (256 * q + k) { v with owner := some u, broken := false } s x → ∀ evt,
      LockPasses t (256 * q + k) { v with owner := some u, broken := false } s (qpcEvent x q evt) := fun hx evt =>
    hx.keep ((OnQuillPages.qpcEvent _ q evt).leaves t) (by rw [(OnQuillPages.qpcEvent _ q evt).1])
  have hpage : Based (Reg.locksPage q) := by simp only [Based, Reg.locksPage]; omega
  unfold Machine.lockGrant
  dsimp only
  split
  · refine hq (((hq hm 0x40).keep (LeavesThread.setReg t _ _ ?_) rfl).keep (LeavesThread.note t _ _ _ _ _ hpage) ?_) 0x42
    · unfold Reg.LK_BROKEN_CNT Reg.locksPage
      omega
    · rw [(Records.note _ (Reg.locksPage q) 1 5 0 0 (l := []) hpage).1]
  · exact hq hm 0x40

/-- A delivery to another thread passes the locks by. -/
theorem LockPasses.deliverIn {k u : Nat} {v : Lock} {s' : State} (h : LockPasses t k v s s') (hu : t ≠ u) (x : PortVal) :
    LockPasses t k v s (Machine.deliverIn s' u x) := by
  have hb := deliverIn_beside s' u x
  exact h.keep (LeavesThread.of_beside hb (Settled.deliverIn s' u x) hu) (by rw [hb.1])

/-- A released lock is no longer its owner's: it is free, or the head of its queue has it (R159, R160). -/
theorem lockRelease_passes (q k : Nat) (broken : Bool) (h : t ∉ (lock s q k).queue) :
    ∃ v, LockPasses t (256 * q + k) v s (lockRelease s q k broken) ∧ v.owner ≠ some t ∧ t ∉ v.queue := by
  have h1 := LockPasses.modLock t s q k fun l => { l with owner := none, broken := l.broken || broken }
  have hq : lock (modLock s q k fun l => { l with owner := none, broken := l.broken || broken }) q k
      = { lock s q k with owner := none, broken := (lock s q k).broken || broken } := (h1.at_ _).trans (if_pos rfl)
  unfold lockRelease
  dsimp only
  rw [hq]
  cases hl : (lock s q k).queue with
  | nil => exact ⟨_, h1, by simp, by rw [hl]; simp⟩
  | cons u r =>
    rw [hl] at h
    have hu : t ≠ u := fun e => h (e ▸ .head r)
    have h2 := (h1.modLock_again fun l => { l with queue := r }).lockGrant (u := u)
    refine ⟨_, h2.deliverIn hu _, ?_, ?_⟩
    · simpa using Ne.symm hu
    · exact fun hr => h (.tail u hr)

/-- What releasing locks of its Quill as broken leaves: thread `t` still waits for none, and owns none but those that it owned
and that were not released. -/
structure Broken (t : Nat) (l : List (Nat × Lock)) (s s' : State) : Prop where
  leaves : LeavesThread t s s'
  noQueue : InNoQueue t s'
  owned : ∀ k, OwnKey t k → (lockAt s' k).owner = some t → (lockAt s k).owner = some t ∧ ∀ e ∈ l, e.1 ≠ k

theorem broken_foldl (l : List (Nat × Lock)) (hl : ∀ e ∈ l, OwnKey t e.1) (s : State) (h : InNoQueue t s) :
    Broken t l s (l.foldl (fun s e => lockRelease s (e.1 / 256) (e.1 % 256) true) s) := by
  induction l generalizing s with
  | nil => exact ⟨LeavesThread.refl t s, h, fun k _ ho => ⟨ho, by simp⟩⟩
  | cons e l ih =>
    have hkey : 256 * (e.1 / 256) + e.1 % 256 = e.1 := Nat.div_add_mod e.1 256
    obtain ⟨v, hp, hown, hque⟩ := lockRelease_passes (t := t) (s := s) (e.1 / 256) (e.1 % 256) true (by
      unfold lock
      rw [hkey]
      exact h e.1 (hl e (.head l)))
    rw [hkey] at hp
    have hnext : InNoQueue t (lockRelease s (e.1 / 256) (e.1 % 256) true) := fun k hk => by
      rw [hp.at_]
      split
      · exact hque
      · exact h k hk
    obtain ⟨hleaves, hno, howned⟩ := ih (fun e' he' => hl e' (.tail e he')) _ hnext
    refine ⟨hp.leaves.trans hleaves, hno, fun k hk ho => ?_⟩
    obtain ⟨ho', hrest⟩ := howned k hk ho
    rw [hp.at_] at ho'
    by_cases hke : k = e.1
    · rw [if_pos hke] at ho'
      exact absurd ho' hown
    · rw [if_neg hke] at ho'
      refine ⟨ho', fun e' he' => ?_⟩
      rcases List.mem_cons.mp he' with rfl | he'
      · exact Ne.symm hke
      · exact hrest e' he'

/-- After its locks are broken a thread owns none of its Quill (R160). -/
theorem breakLocks_frees (h : InNoQueue t s) : LeavesThread t s (breakLocks s t)
    ∧ ∀ k, OwnKey t k → (lockAt (breakLocks s t) k).owner ≠ some t := by
  have hb := broken_foldl (t := t) (s.locks.filter (fun e => e.2.owner = some t && e.1 / 256 = nibOf t / 8)) (fun e he => by
    have := (List.mem_filter.mp he).2
    simp only [Bool.and_eq_true, decide_eq_true_eq] at this
    exact this.2) s h
  refine ⟨hb.leaves, fun k hk ho => ?_⟩
  obtain ⟨hown, hno⟩ := hb.owned k hk ho
  have hmem : (k, lockAt s k) ∈ s.locks := mem_of_get_ne fun he => by
    have hnone : (lockAt s k).owner = none := by rw [show lockAt s k = {} from he]
    rw [hnone] at hown
    cases hown
  exact hno _ (List.mem_filter.mpr ⟨hmem, by simp [hown, hk]⟩) rfl

/-- A thread that leaves its waits stands in no queue of its Quill's locks (R146). -/
theorem leaveWaits_noQueue (t : Nat) (s : State) : InNoQueue t (leaveWaits s t) := by
  have folded : ∀ (es l : Tbl Lock), (∀ k, OwnKey t k → t ∈ (Tbl.get (fun _ => {}) l k : Lock).queue → ∃ v, (k, v) ∈ es) →
      ∀ k, OwnKey t k → t ∉ (Tbl.get (fun _ => {}) (es.foldl (fun l e => if e.1 / 256 = nibOf t / 8 then
        Tbl.set (fun _ => {}) l e.1 { e.2 with queue := e.2.queue.filter (· ≠ t) } else l) l) k : Lock).queue := by
    intro es
    induction es with
    | nil => exact fun l hl k hk hin => by simpa using hl k hk hin
    | cons e es ih =>
      refine fun l hl => ih _ fun k hk hin => ?_
      dsimp only at hin
      by_cases hke : k = e.1
      · subst hke
        rw [if_pos hk, Tbl.get_set_same] at hin
        simp at hin
      · have hin' : t ∈ (Tbl.get (fun _ => {}) l k : Lock).queue := by
          split at hin
          · rwa [Tbl.get_set_other _ _ _ hke] at hin
          · exact hin
        obtain ⟨v, hv⟩ := hl k hk hin'
        rcases List.mem_cons.mp hv with rfl | hv
        · exact absurd rfl hke
        · exact ⟨v, hv⟩
  refine folded s.locks s.locks fun k _ hin => ⟨_, mem_of_get_ne (d := fun _ => {}) fun he => ?_⟩
  rw [he] at hin
  exact absurd hin (List.not_mem_nil)

/-- A thread that leaves its waits keeps its registers. -/
theorem leaveWaits_leaves (t : Nat) (s : State) : LeavesThread t s (leaveWaits s t) := by
  refine ⟨rfl, fun _ _ => rfl, fun n => ?_⟩
  unfold leaveWaits nib
  dsimp only
  split
  · rw [Tbl.get_set]
    split
    next h => subst h; rfl
    next => rfl
  · rfl

end Locks

/-! ## Thread reset (R146, R161) -/

/-- A thread without a claim. -/
def unclaimed (th : Thread) : Thread := { th with claim := none }

/-- A claim that is dropped uncounted frees its channel's slot, and changes the thread's claim alone. -/
theorem dropClaim_drops (s : State) (t : Nat) : ∃ c, Only { s with chans := c } (dropClaim s t false) t (unclaimed (thread s t)) := by
  unfold dropClaim
  cases hc : (thread s t).claim with
  | none =>
    have hsame : unclaimed (thread s t) = thread s t := by
      unfold unclaimed
      rw [← hc]
    rw [hsame]
    exact ⟨s.chans, Only.refl s t⟩
  | some c =>
    simp only [Bool.false_eq_true, if_false]
    unfold freeClaim
    rw [hc]
    dsimp only
    split
    · exact ⟨s.chans, Only.modThread s t unclaimed⟩
    · exact ⟨_, Only.modThread (modChan s (nibOf t) c.ch fun ch => { ch with claimed := ch.claimed - 1 }) t unclaimed⟩

/-- A thread right after thread reset. -/
def resetOf (t : Nat) (th : Thread) : Thread := { th with
  w := [], st := stReset t, cnt := 0, ph := 0, pl := 0, qu := 0, rm := 0, epc := 0, cause := 0, tinfo := 0, pageSel := 0, pc := 0,
  state := .idle, before := .idle, stepping := false, waitPort := none, pfx := .none, load := none, staging := none, claim := none }

/-- Thread reset: the thread, its Quill's locks, and what the notice needs (R146, R160). -/
theorem resetThread_resets (s : State) (t : Nat) : thread (resetThread s t) t = resetOf t (thread s t)
    ∧ (∀ k, OwnKey t k → (lockAt (resetThread s t) k).owner ≠ some t)
    ∧ (∀ n < 128, reg (resetThread s t) (Reg.NIB_PID n) = reg s (Reg.NIB_PID n))
    ∧ ∀ n, (nib (resetThread s t) n).fenced = (nib s n).fenced := by
  obtain ⟨hbreak, hfree⟩ := breakLocks_frees (leaveWaits_noQueue t s)
  have hleaves := (leaveWaits_leaves t s).trans hbreak
  obtain ⟨c, hdrop⟩ := dropClaim_drops (breakLocks (leaveWaits s t) t) t
  obtain ⟨he, hth, -⟩ := hdrop.mod fun th => { th with
    w := [], st := stReset t, cnt := 0, ph := 0, pl := 0, qu := 0, rm := 0, epc := 0, cause := 0, tinfo := 0, pageSel := 0,
    pc := 0, state := .idle, before := .idle, stepping := false, waitPort := none, pfx := .none, load := none, staging := none }
  rw [hleaves.thread] at hth
  exact ⟨hth, fun k hk => by unfold resetThread; rw [he]; exact hfree k hk,
    fun n hn => by unfold resetThread; rw [he]; exact hleaves.pid n hn, fun n => by unfold resetThread; rw [he]; exact hleaves.fenced n⟩

/-- Where the notices of a thread go rests on the partitions of the Nibs and on which are fenced (R162). -/
theorem noticeNib_congr {s s' : State} {t : Nat} (ht : t < 1024) (hp : ∀ n < 128, reg s' (Reg.NIB_PID n) = reg s (Reg.NIB_PID n))
    (hf : ∀ n, (nib s' n).fenced = (nib s n).fenced) : noticeNib s' t = noticeNib s t := by
  have hpid : ∀ n < 128, nibPid s' n = nibPid s n := fun n hn => by unfold nibPid fld; rw [hp n hn]
  have hown : tidPid s' t = tidPid s t := hpid _ (by unfold nibOf; rw [if_neg (by omega)]; omega)
  have hsup : ∀ p, supervisorNib s' p = supervisorNib s p := fun p => by
    unfold supervisorNib
    exact List.find?_congr fun n hn => by rw [hpid n (List.mem_range.mp hn), hf]
  unfold noticeNib
  rw [hown, hsup]

/-- THR_RESET resets its thread and posts its notice (R146, R161). -/
theorem thrReset_resets (s : State) (t : Nat) : thread (thrReset t s) t = resetOf t (thread s t)
    ∧ (∀ k < 256, (lock (thrReset t s) (nibOf t / 8) k).owner ≠ some t)
    ∧ (t < 1024 → (nib (thrReset t s) (noticeNib s t)).notices.getLast? =
        some [word (3 * 2 ^ 24 + t % 1024), (thread s t).pc.setWidth 32, 0, 0, spsNow s, 0, 0, 0]) := by
  obtain ⟨hth, hlock, hpid, hfenced⟩ := resetThread_resets s t
  have hkey : ∀ k < 256, OwnKey t (256 * (nibOf t / 8) + k) := fun k hk => by unfold OwnKey; omega
  unfold thrReset
  dsimp only
  split
  next ht =>
    have hpost := Counted.postNotice (s := resetThread s t) (n := noticeNib (resetThread s t) t)
      [word (3 * 2 ^ 24 + t % 1024), (thread s t).pc.setWidth 32, 0, 0, spsNow s, 0, 0, 0]
    refine ⟨(hpost.thread_eq t).trans hth, fun k hk => ?_, fun _ => ?_⟩
    · unfold lock
      rw [hpost.1]
      exact hlock _ (hkey k hk)
    · rw [← noticeNib_congr ht hpid hfenced]
      exact postNotice_last _ _ _
  next ht => exact ⟨hth, fun k hk => hlock _ (hkey k hk), fun h => absurd h ht⟩

/-! ## The other controls (R141, R145, R147, R164) -/

/-- The newest pending results land (R141). -/
theorem landed_eq (th : Thread) : landed th = { th with
    products := [], quotients := []
    ph := ((th.products.getLast?).getD (th.ph ++ th.pl)).extractLsb 63 32
    pl := ((th.products.getLast?).getD (th.ph ++ th.pl)).extractLsb 31 0
    qu := ((th.quotients.getLast?).getD (th.qu, th.rm)).1
    rm := ((th.quotients.getLast?).getD (th.qu, th.rm)).2 } := by
  have hbit : ∀ i, (th.ph ++ th.pl : BitVec 64).getLsbD i = if i < 32 then th.pl.getLsbD i else th.ph.getLsbD (i - 32) :=
    fun i => BitVec.getLsbD_append
  have hph : (th.ph ++ th.pl).extractLsb 63 32 = th.ph := BitVec.eq_of_getLsbD_eq fun i hi => by
    rw [BitVec.getLsbD_extractLsb, hbit, if_neg (by omega), Nat.add_sub_cancel_left, decide_eq_true (by omega), Bool.true_and]
  have hpl : (th.ph ++ th.pl).extractLsb 31 0 = th.pl := BitVec.eq_of_getLsbD_eq fun i hi => by
    rw [BitVec.getLsbD_extractLsb, hbit, if_pos (by omega), Nat.zero_add, decide_eq_true (by omega), Bool.true_and]
  unfold landed
  cases hp : th.products.getLast? <;> cases hq : th.quotients.getLast? <;>
    simp only [Option.getD_none, Option.getD_some, hph, hpl, ← high_word, ← low_word]

/-- Discarded staged words are counted on the Nib's page (R155, R166). -/
theorem discardWords_counts (s : State) (n k : Nat) : reg (discardWords s n k) (Reg.MSG_DISCARD n) = reg s (Reg.MSG_DISCARD n) + word k
    ∧ ∀ u, thread (discardWords s n k) u = thread s u := by
  unfold discardWords
  split
  next h => exact ⟨by rw [h]; simp [word], fun _ => rfl⟩
  next =>
    obtain ⟨he, hr, -⟩ := Records.note (countN s (Reg.MSG_DISCARD n) k) (Reg.nibPage n) 0x02 5 0 0 (l := []) (nibPage_mod n)
    refine ⟨(hr _ (by simp) ?_ ?_).trans ?_, fun u => by rw [he]; rfl⟩
    · have := nibPage_mod n
      unfold Reg.MSG_DISCARD
      omega
    · have hb : Reg.blotterPage / 0x1000 = 3 := rfl
      unfold Reg.MSG_DISCARD Reg.nibPage Reg.stewardPage
      split <;> omega
    · exact reg_setReg_same _ _ _

/-- Settles O18: each control is its change of state; reset by the lemmas above. -/
theorem threadControl : Obligations.ThreadControl := by
  unfold Obligations.ThreadControl
  refine ⟨fun t s => ⟨fun h => ?start, fun h => ⟨?park, ?halt⟩, fun h => ?haltBlocked, fun h => ?unpark, fun h => ⟨?resume, ?step, fun d ws hs => ?discard⟩,
    ?reset⟩,
    landed_eq, fun n s i num hi hlt hnum h24 hcls => ⟨fun h => ⟨?read, fun v => ?write⟩, fun h => ?readOther⟩⟩
  case start => exact congrArg Host.Outcome.next (if_pos h)
  case park =>
    show Host.Outcome.next (parkThread s t) = _
    unfold parkThread
    rw [h]
    rfl
  case halt =>
    show Host.Outcome.next (thrHalt t s) = _
    unfold thrHalt
    rw [h]
    rfl
  case haltBlocked =>
    show Host.Outcome.next (thrHalt t s) = _
    unfold thrHalt
    rw [h]
    rfl
  case unpark => exact congrArg Host.Outcome.next (if_pos h)
  case resume => exact congrArg Host.Outcome.next (if_pos h)
  case step => exact congrArg Host.Outcome.next (if_pos h)
  case discard =>
    have hrun : exec (.thrDiscardStage t) s
        = .next (discardWords (modThread s t fun th => { th with staging := none }) (nibOf t) ws.length) := by
      show Host.Outcome.next (thrDiscardStage t s) = _
      unfold thrDiscardStage
      rw [h, hs]
    obtain ⟨hreg, hth⟩ := discardWords_counts (modThread s t fun th => { th with staging := none }) (nibOf t) ws.length
    obtain ⟨-, hown, hother⟩ := Only.modThread s t fun th => { th with staging := none }
    exact ⟨_, hrun, (hth t).trans hown, hreg, fun u hu => (hth u).trans (hother u hu)⟩
  case reset =>
    obtain ⟨hth, hlock, hnotice⟩ := thrReset_resets s t
    exact ⟨_, rfl, hth, fun _ => hlock, hnotice⟩
  case read =>
    show Host.Outcome.next (dbgDataAccess n none s) = _
    unfold dbgDataAccess
    simp only [hi, hnum, hcls]
    rw [if_pos ⟨hlt, h⟩]
    simp only [dbgRead, if_pos h24]
    rfl
  case write =>
    show Host.Outcome.next (dbgDataAccess n (some v) s) = _
    unfold dbgDataAccess
    simp only [hi, hnum, hcls]
    rw [if_pos ⟨hlt, h⟩]
    simp only [dbgWrite, if_pos h24]
    rfl
  case readOther =>
    show Host.Outcome.next (dbgDataAccess n none s) = _
    unfold dbgDataAccess
    simp only [hi]
    rw [if_neg fun hok => h hok.2]
    rfl

end Sys2Proof.Machine
end

section
/-! PROOFS. Loads (O9). -/

namespace Sys2Proof.Machine

/-! ## What a thread reads with a load -/

/-- What any thread reads with a load of shared on-chip memory, and what the threads are, is as before. -/
structure SameView (s s' : State) : Prop where
  threads : s'.threads = s.threads
  lineTags : s'.lineTags = s.lineTags
  copybook : s'.copybook = s.copybook
  pid : ∀ n < 128, reg s' (Reg.NIB_PID n) = reg s (Reg.NIB_PID n)
  mem : ∀ j < 0xFFF8000, kept s' j = kept s j

section SameView
variable {s s' s'' : State}

theorem SameView.refl (s : State) : SameView s s := ⟨rfl, rfl, rfl, fun _ _ => rfl, fun _ _ => rfl⟩

theorem SameView.trans (h : SameView s s') (h' : SameView s' s'') : SameView s s'' :=
  ⟨h'.threads.trans h.threads, h'.lineTags.trans h.lineTags, h'.copybook.trans h.copybook, fun n hn => (h'.pid n hn).trans (h.pid n hn),
    fun j hj => (h'.mem j hj).trans (h.mem j hj)⟩

theorem SameView.ite {a b : State} {c : Prop} [Decidable c] (ha : SameView s a) (hb : SameView s b) : SameView s (if c then a else b) := by
  split
  · exact ha
  · exact hb

/-- A change of other fields. -/
theorem SameView.of_eq (ht : s'.threads = s.threads) (hl : s'.lineTags = s.lineTags) (hc : s'.copybook = s.copybook) (hr : s'.regs = s.regs)
    (hm : s'.mem = s.mem) : SameView s s' :=
  ⟨ht, hl, hc, fun n _ => reg_congr hr _, fun j _ => by unfold kept; rw [hm]⟩

/-- A register that is no Nib's partition is stored. -/
theorem SameView.setReg (s : State) {a : Nat} (v : Word) (h : a % 0x1000 ≠ 0x108 ∨ a < 0x101000) : SameView s (Machine.setReg s a v) := by
  refine ⟨rfl, rfl, rfl, fun n hn => reg_setReg_other s v ?_, fun _ _ => rfl⟩
  rintro rfl
  unfold Reg.NIB_PID Reg.nibPage at h
  rw [if_pos hn] at h
  omega

theorem SameView.setFlag (s : State) {a : Nat} (i : Nat) (b : Bool) (h : a % 0x1000 ≠ 0x108 ∨ a < 0x101000) :
    SameView s (Machine.setFlag s a i b) := SameView.setReg s _ h

theorem SameView.count (s : State) {a : Nat} (h : a % 0x1000 ≠ 0x108 ∨ a < 0x101000) : SameView s (Machine.count s a) := SameView.setReg s _ h

theorem SameView.of_records (h : Records s s' []) : SameView s s' := by
  obtain ⟨he, hr, hm⟩ := h
  refine ⟨by rw [he], by rw [he], by rw [he], fun n hn => ?_, fun j hj => hm j (.inl hj)⟩
  obtain ⟨-, h100, hb⟩ := nibPid_page hn
  exact hr _ (by simp) h100 hb

theorem SameView.note (s : State) {page : Nat} (src access mid addr : Nat) (hp : Based page) :
    SameView s (Machine.note s page src access mid addr) := SameView.of_records (Records.note s page src access mid addr hp)

theorem SameView.irq (s : State) {page : Nat} (i : Nat) (hp : Based page) : SameView s (Machine.irq s page i) :=
  SameView.of_records (Records.withIrq (Records.setFlag s _ _ _ (.inr (.inl (by simp only [Reg.PG_IRQ_RAW]; omega)))))

theorem SameView.takeInjection (s : State) {page : Nat} (src : Nat) (hp : Based page) :
    ∃ o s1, Machine.takeInjection s page src = (o, s1) ∧ SameView s s1 := by
  unfold Machine.takeInjection
  dsimp only
  split
  · exact ⟨_, _, rfl, SameView.setFlag s 31 false (.inl (by simp only [Based] at hp; simp only [Reg.PG_INJECT]; omega))⟩
  · exact ⟨_, _, rfl, SameView.refl s⟩

/-- Events of a thread are counted. -/
theorem SameView.pcEvent (s : State) {t : Nat} (evt k : Nat) (ht : t < 1028) : SameView s (Machine.pcEvent s t evt k) := by
  obtain ⟨he, -⟩ := Counted.pcEvent (s := s) t evt k ht
  have hset := Settled.pcEvent s t evt k
  exact ⟨by rw [he], by rw [he], by rw [he], fun n hn => hset _ (nibPid_page hn).1, fun j _ => by unfold kept; rw [he]⟩

/-! ## FATAL and the fabric (R326, R328) -/

theorem SameView.journal (s : State) (ty pid : Nat) (data : List Byte) : SameView s (Machine.journal s ty pid data) := by
  unfold Machine.journal journalLost
  split
  · refine SameView.trans ?_ (SameView.note _ _ _ _ _ (show Based Reg.signetPage by decide))
    exact SameView.of_eq rfl rfl rfl rfl rfl
  · exact SameView.of_eq rfl rfl rfl rfl rfl

theorem SameView.fatalReaction (s : State) : SameView s (Machine.fatalReaction s) := by
  have hrun : ∀ x : State, SameView x (setRunning x false) := fun x =>
    SameView.ite (SameView.refl x) ((SameView.setFlag x (a := Reg.PH_STAT) 3 false (.inl (by decide))).trans
      (SameView.irq _ _ (show Based Reg.phasePage by decide)))
  have hmode : ∀ x : State, SameView x (Machine.setFlag x Reg.MODE_CUR 31 false) := fun x => SameView.setFlag x 31 false (.inl (by decide))
  have hzero : ∀ x : State, SameView x (accZero x) := fun x => SameView.of_eq rfl rfl rfl rfl rfl
  have halive : ∀ x : State, SameView x (stopAlive x 1) := fun x => by
    unfold stopAlive
    dsimp only
    refine SameView.ite (SameView.refl x) (SameView.trans ?_ (SameView.journal _ _ _ _))
    exact SameView.of_eq rfl rfl rfl rfl rfl
  unfold Machine.fatalReaction
  refine SameView.ite (SameView.refl s) ?_
  dsimp only
  have hsum := SameView.setFlag s (a := Reg.BL_SUMMARY) 31 true (.inl (by decide))
  generalize Machine.setFlag s Reg.BL_SUMMARY 31 true = s1 at hsum ⊢
  refine hsum.trans (SameView.trans ?_ ((hrun _).trans (halive _)))
  refine SameView.trans (SameView.trans ?_ (hmode _)) (hzero _)
  exact SameView.of_eq rfl rfl rfl rfl rfl

/-- A parity error of the fabric is FATAL, and leaves what loads read (R328). -/
theorem SameView.fabricCheck (s : State) (mid k : Nat) : SameView s (Machine.fabricCheck s mid k) := by
  obtain ⟨o, s1, e, h1⟩ := SameView.takeInjection s (page := Reg.blotterPage) 6 (by decide)
  unfold Machine.fabricCheck
  rw [e]
  cases o with
  | none => exact h1
  | some flip =>
    have hrec := SameView.of_records (Records.record s1 ⟨Reg.blotterPage, 6, 3, 0xD, mid, k, none⟩ (l := [])
      (show Based Reg.blotterPage by decide) (show 3 < 4 by decide))
    have hstat := SameView.setFlag (record s1 ⟨Reg.blotterPage, 6, 3, 0xD, mid, k, none⟩) (a := Reg.PG_STAT Reg.blotterPage) 3 true (.inl (by decide))
    exact (h1.trans (hrec.trans (hstat.trans (SameView.fatalReaction _)))).trans (SameView.of_eq rfl rfl rfl rfl rfl)

theorem SameView.sharedAccess (s : State) (t k n : Nat) (write : Bool) : SameView s (Machine.sharedAccess s t k n write) := by
  have hbw : ∀ (x : State) (i m : Nat), SameView x (Machine.bw x i m) := fun x i m => SameView.ite (SameView.refl x) (SameView.of_eq rfl rfl rfl rfl rfl)
  have hkey : ∀ x : State, SameView x (bwKey x k n write) := fun x => by
    unfold bwKey
    refine SameView.ite (hbw x _ n) (SameView.ite (hbw x _ n) (SameView.ite (hbw x _ n) (SameView.ite (SameView.refl x) (SameView.ite (hbw x _ n) ?_))))
    split
    · exact hbw x _ n
    · exact SameView.refl x
  have hreq : ∀ x : State, SameView x (dramRequest x k (nibMid (nibOf t)) write) := fun x => by
    unfold dramRequest
    split
    · exact SameView.refl x
    · exact SameView.of_eq rfl rfl rfl rfl rfl
  unfold Machine.sharedAccess
  exact (SameView.fabricCheck s _ k).trans ((hbw _ _ n).trans ((hkey _).trans (hreq _)))

/-! ## Check bits (R49, R108, R256, R337) -/

theorem SameView.countCheck (s : State) (k : Nat) (corrected bad : Bool) : SameView s (Machine.countCheck s k corrected bad) := by
  have hddr : ∀ c, Reg.DDR_CORR c % 0x1000 ≠ 0x108 ∧ Reg.DDR_UNCORR c % 0x1000 ≠ 0x108 := fun c => by
    unfold Reg.DDR_CORR Reg.DDR_UNCORR Reg.ddrPage
    omega
  unfold Machine.countCheck
  split
  · have hshow : SameView s (if bad then showRecovery s 4 0 else s) := SameView.ite (SameView.setReg s _ (.inl (by decide))) (SameView.refl s)
    refine hshow.trans (SameView.ite (SameView.refl _) (SameView.ite (SameView.count _ (.inl (by decide))) ?_))
    exact SameView.ite (SameView.of_eq rfl rfl rfl rfl rfl) (SameView.refl _)
  · split
    · exact SameView.refl s
    · next c off _ =>
      have hcorr : SameView s (if corrected then Machine.count s (Reg.DDR_CORR c) else s) :=
        SameView.ite (SameView.count s (.inl (hddr c).1)) (SameView.refl s)
      dsimp only
      have hunc : ∀ x, SameView x (if bad then Machine.count x (Reg.DDR_UNCORR c) else x) := fun x =>
        SameView.ite (SameView.count x (.inl (hddr c).2)) (SameView.refl x)
      have hrank : ∀ x r, SameView x (countRank x c r bad) := fun x r => SameView.of_eq rfl rfl rfl rfl rfl
      exact (hcorr.trans (hunc _)).trans (hrank _ _)

theorem SameView.checkRead (s : State) (k mid acc : Nat) : SameView s (Machine.checkRead s k mid acc).2 := by
  unfold Machine.checkRead
  split
  · exact SameView.refl s
  next page cor unc hpage =>
    have hp := checkPage_based hpage
    extract_lets report injected
    have hreport : ∀ x acc, SameView x (report x acc) := fun x acc => by
      cases unc with
      | none => exact SameView.refl x
      | some u => exact SameView.note x _ _ _ _ hp
    have hbad : ∀ x acc, SameView x (Machine.countCheck (report x acc) k false true) := fun x acc =>
      (hreport x acc).trans (SameView.countCheck _ _ _ _)
    have hinjected : ∀ x flip, SameView x (injected x flip).2 := fun x flip => by
      by_cases hf : flip = 0
      · simp only [injected, if_pos hf]
        exact (SameView.note x _ _ _ _ hp).trans (SameView.countCheck _ _ _ _)
      · simp only [injected, if_neg hf]
        exact hbad x _
    split
    · exact hbad s acc
    · obtain ⟨o, s1, e, h1⟩ := SameView.takeInjection s cor hp
      rw [e]
      cases o with
      | some flip => exact h1.trans (hinjected s1 flip)
      | none =>
        cases unc with
        | none => exact h1
        | some u =>
          obtain ⟨o', s2, e', h2⟩ := SameView.takeInjection s1 u hp
          dsimp only
          rw [e']
          cases o' with
          | some flip => exact (h1.trans h2).trans (hinjected s2 flip)
          | none => exact (h1.trans h2).trans (SameView.countCheck _ _ _ _)

theorem SameView.checkLoad (s : State) (t k : Nat) : SameView s (Machine.checkLoad s t k).2 := by
  unfold Machine.checkLoad
  split
  · exact SameView.refl s
  · exact SameView.checkRead s k _ _

/-! ## The value of a load -/

theorem SameView.thread (h : SameView s s') (t : Nat) : thread s' t = thread s t := by unfold Machine.thread; rw [h.threads]

theorem SameView.tidPid (h : SameView s s') (t : Nat) : tidPid s' t = tidPid s t := by
  unfold Machine.tidPid nibPid fld
  split
  · rfl
  next hn => rw [h.pid _ (by have := nibOf_le_steward t; omega)]

/-- A key below the log of the Blotter is kept at its own place. -/
theorem rd_low (s : State) {k : Nat} (h : k < 0xFFF8000) : rd s k = kept s k := by
  unfold rd memKey
  rw [if_pos (by unfold dramBase; omega)]
  rfl

theorem SameView.loadByte (h : SameView s s') (t : Nat) {k : Nat} (hk : k < 0xFFF8000) : loadByte s' t k = loadByte s t k := by
  have hentry : ∀ i, entry s' i = entry s i := fun i => by unfold entry; rw [h.copybook]
  have hrd : rd s' k = rd s k := by rw [rd_low s' hk, rd_low s hk, h.mem k hk]
  have hsee : seeByte s' t k = seeByte s t k := by
    unfold seeByte
    simp only [h.tidPid, level, h.thread, h.lineTags, hrd, hentry, entryByte]
    rw [if_neg (show ¬ (0xFFF8000 ≤ k ∧ k < 0x10000000) by omega), if_neg (show ¬ (0xFFF8000 ≤ k ∧ k < 0x10000000) by omega)]
    rfl
  unfold Machine.loadByte
  rw [h.thread, hsee]

theorem SameView.loadValue (h : SameView s s') (t : Nat) {k n : Nat} (hk : k + n ≤ 0xFFF8000) : loadValue s' t k n = loadValue s t k n := by
  unfold Machine.loadValue
  refine congrArg leNat (List.map_congr_left fun i hi => h.loadByte t ?_)
  have := List.mem_range.mp hi
  omega

end SameView

/-! ## Loads (R107–R109, R120, R143) -/

/-- Each load command runs its row (R120). -/
theorem loadOps_rows : ∀ e ∈ loadOps, (∀ t w s, exec (e.cmd t w) s = .next (issue (loadRow e.op e.sz e.size e.signed) t w s))
    ∧ e.size ∈ [1, 2, 4] := by
  intro e he
  fin_cases he <;> exact ⟨fun _ _ _ => rfl, by decide⟩

/-- A key that is no local data and below DRAM is the offset of its address. -/
theorem route_offset {s : State} {t a k : Nat} (h : route s t a false = some k) (hl : isLocal (nibOf t) k = false) (hk : k < dramBase) :
    0x10000000 ≤ a ∧ k = a - 0x10000000 := by
  have hlow : ¬ a < 0x20000 := fun hlt => by
    unfold route at h
    rw [if_pos hlt] at h
    rw [← Option.some.inj h, isLocal_local hlt] at hl
    cases hl
  unfold route at h
  dsimp only at h
  rw [if_neg hlow] at h
  split at h
  · cases h
  next hge =>
    refine ⟨by omega, ?_⟩
    split at h
    · exact (Option.some.inj (Option.ite_none_right_eq_some.mp h).2).symm
    split at h
    · split at h
      · cases h
      split at h
      · exact (Option.some.inj (Option.ite_none_left_eq_some.mp h).2).symm
      · exact (Option.some.inj h).symm
    split at h
    · exact (Option.some.inj (Option.ite_none_right_eq_some.mp h).2).symm
    split at h
    · split at h
      · have := Option.some.inj (Option.ite_none_right_eq_some.mp h).2
        unfold dramKey at this
        omega
      · cases h
    · cases h

/-- A shared on-chip key is as aligned as its address. -/
theorem route_aligned {s : State} {t a k n : Nat} (h : route s t a false = some k) (hl : isLocal (nibOf t) k = false) (hk : k < dramBase)
    (hn : n ∈ [1, 2, 4]) (ha : a % n = 0) : k % n = 0 := by
  obtain ⟨hle, hoff⟩ := route_offset h hl hk
  simp only [List.mem_cons, List.not_mem_nil, or_false] at hn
  obtain rfl | rfl | rfl := hn <;> omega

section Load
variable {s : State} {t : Tid} {w : Word} {e : LoadOp}

/-- A load runs. -/
theorem load_runs (he : e ∈ loadOps) (hw : IsFI e.op e.sz .da w) (hi : Issues s t) (hb : BareOrExt s t) :
    exec (e.cmd t w) s = .next (applyRes s t false (loadRun e.size e.signed t w s)) :=
  runs_ext ((loadOps_rows e he).1 t w s) t.isLt hi hb (isFI_row hw) rfl hw.2.2 rfl rfl

/-- A load of good local data completes at once. -/
theorem load_local (he : e ∈ loadOps) (hw : IsFI e.op e.sz .da w) (hi : Issues s t) (hb : BareOrExt s t)
    (hl : LocalAt s t (effAddr s t w) e.size true false) (hg : LocalGood s t (effAddr s t w)) :
    Gives (e.cmd t w) s (Completes s t (withW (thread s t) (wD w)
      (loadExtend e.signed e.size (loadValue s t (localData (nibOf t) + effAddr s t w) e.size)))) := by
  have hrun := load_runs he hw hi hb
  have hpass : ∀ a ∈ [(⟨effAddr s t w, e.size, true, false, false⟩ : Access)], Passes s t a := by
    simpa using passes_local (a := ⟨effAddr s t w, e.size, true, false, false⟩) hl
  have hkey : keyOf s t ⟨effAddr s t w, e.size, true, false, false⟩ = localData (nibOf t) + effAddr s t w := keyOf_local hl.2.1
  unfold loadRun at hrun
  simp only [accessTrap_none hpass, hkey, isLocal_local hl.2.1, if_true, checkLoad_local t.isLt hl.2.1 hg] at hrun
  have hm := Beside.modThread s t fun th => withW th (wD w) (loadExtend e.signed e.size (loadValue s t (localData (nibOf t) + effAddr s t w) e.size))
  exact gives_done hrun t.isLt hm.1 hm.2 hi.2.2.2.2 ⟨rfl, rfl⟩

/-- The load that a thread waits for. -/
def pending (e : LoadOp) (w : Word) (a k v : Nat) (bad : Bool) : PendingLoad :=
  { addr := a, key := k, size := e.size, signed := e.signed, d := wD w, value := v, bad := bad }

/-- A load of another key leaves the thread with the load outstanding. -/
theorem load_waits (he : e ∈ loadOps) (hw : IsFI e.op e.sz .da w) (hi : Issues s t) (hb : BareOrExt s t) {k : Nat}
    (hal : effAddr s t w % e.size = 0) (hroute : route s t (effAddr s t w) false = some k) (hl : isLocal (nibOf t) k = false)
    (hwatch : watched s t (effAddr s t w) true false = false) (hroom : dramRoom s k = true) :
    ∃ s1 bad, SameView s s1 ∧ exec (e.cmd t w) s = .next (modThread s1 t fun th => { th with
      load := some (pending e w (effAddr s t w) k (loadValue s1 t k e.size) bad) }) := by
  have hrun := load_runs he hw hi hb
  have hpass : ∀ a ∈ [(⟨effAddr s t w, e.size, true, false, false⟩ : Access)], Passes s t a := by
    simpa using (⟨hal, by rw [hroute]; rfl, hwatch⟩ : Passes s t ⟨effAddr s t w, e.size, true, false, false⟩)
  have hkey : keyOf s t ⟨effAddr s t w, e.size, true, false, false⟩ = k := congrArg (Option.getD · 0) hroute
  have hstate : (thread s t).state = .running := hi.running.1
  unfold loadRun at hrun
  simp only [accessTrap_none hpass, hkey, hl, hroom, Bool.false_eq_true, if_false, not_true_eq_false] at hrun
  generalize hx : pcEvent (sharedAccess s t k e.size false) t (if k < dramBase then 0x0B else 0x0C) = x at hrun
  have hview : SameView s x := hx ▸ (SameView.sharedAccess s t k e.size false).trans (SameView.pcEvent _ _ _ t.isLt)
  have hcheck := hview.trans (SameView.checkLoad x t k)
  generalize checkLoad x t k = r at hcheck hrun
  obtain ⟨bad, s1⟩ := r
  refine ⟨s1, bad, hcheck, hrun.trans ?_⟩
  have hth : (thread s1 t).state = .running := by rw [hcheck.thread]; exact hstate
  simp only [applyRes, thread_modThread_same]
  rw [if_neg (by rw [hth]; decide)]
  rfl

/-- A load of another key waits, with the bytes that the thread reads there. -/
theorem load_shared (he : e ∈ loadOps) (hw : IsFI e.op e.sz .da w) (hi : Issues s t) (hb : BareOrExt s t) {k : Nat}
    (hal : effAddr s t w % e.size = 0) (hroute : route s t (effAddr s t w) false = some k) (hl : isLocal (nibOf t) k = false)
    (hwatch : watched s t (effAddr s t w) true false = false) (hroom : dramRoom s k = true) :
    Gives (e.cmd t w) s (fun s' => canIssue s' t = false ∧ (thread s' t).w = (thread s t).w ∧ (thread s' t).pc = (thread s t).pc
      ∧ ∃ l, (thread s' t).load = some l ∧ l.addr = effAddr s t w ∧ l.key = k ∧ l.size = e.size ∧ l.signed = e.signed ∧ l.d = wD w
        ∧ (k < 0xFFF8000 → l.value = loadValue s t k e.size)) := by
  obtain ⟨s1, bad, hview, hrun⟩ := load_waits he hw hi hb hal hroute hl hwatch hroom
  have hw1 : (thread s1 t).w = (thread s t).w := congrArg Thread.w (hview.thread t)
  have hpc : (thread s1 t).pc = (thread s t).pc := congrArg Thread.pc (hview.thread t)
  refine ⟨_, hrun, ?_, by rw [thread_modThread_same]; exact hw1, by rw [thread_modThread_same]; exact hpc,
    pending e w (effAddr s t w) k (loadValue s1 t k e.size) bad, by rw [thread_modThread_same], rfl, rfl, rfl, rfl, rfl, fun hk => ?_⟩
  · simp [canIssue, thread_modThread_same]
  · have hsize := (loadOps_rows e he).2
    have hka := route_aligned hroute hl (by unfold dramBase; omega) hsize hal
    have hend : k + e.size ≤ 0xFFF8000 := by
      simp only [List.mem_cons, List.not_mem_nil, or_false] at hsize
      obtain h | h | h := hsize <;> rw [h] at hka ⊢ <;> omega
    exact hview.loadValue t hend

/-- A load whose access faults traps. -/
theorem load_traps (he : e ∈ loadOps) (hw : IsFI e.op e.sz .da w) (hi : Issues s t) (hb : BareOrExt s t) {code : Nat} (hcode : code < 16)
    (hf : accessFault s t [⟨effAddr s t w, e.size, true, false, false⟩] = some (.trap s code 0 (word (effAddr s t w)))) (hv : Enters s t code) :
    Gives (e.cmd t w) s (Precise s t code 0 (word (effAddr s t w))) := by
  have hrun := load_runs he hw hi hb
  unfold loadRun at hrun
  simp only [accessTrap, hf, Option.some_or] at hrun
  exact gives_trap hrun t.isLt hcode (Beside.refl s t) rfl hi.2.2.2.2 hv

theorem accessFault_misaligned {a : Access} (h : a.addr % a.size ≠ 0) : accessFault s t [a] = some (.trap s 2 0 (word a.addr)) := by
  simp [accessFault, h]

/-- No place answers an address between local data and the shared range. -/
theorem accessFault_hole {a : Access} (hal : a.addr % a.size = 0) (hlo : 0x20000 ≤ a.addr) (hhi : a.addr < 0x10000000) :
    accessFault s t [a] = some (.trap s 3 0 (word a.addr)) := by
  have hroute : route s t a.addr a.wr = none := by
    unfold route
    rw [if_neg (by omega), if_pos hhi]
  have hnote : noteDecode s t a.addr a.code = s := if_neg (by omega)
  simp [accessFault, hal, hroute, hnote]

end Load

/-! ## LOAD_DATA_RETURN (R108, R143) -/

section Return
variable {s : State} {t : Tid} {l : PendingLoad}

/-- The thread waits for no load. -/
def loadOver (s : State) (t : Nat) : State := modThread s t fun th => { th with load := none }

/-- A load that waits for nothing more ends (R108). -/
theorem loadDataReturn_ends (h : (thread s t).load = some l) (hw : loadWaiting s t l = false) :
    exec (.loadDataReturn t) s = .next (applyRes (loadOver s t) t false
      (if l.bad then .trap (loadOver s t) 0x0A 0 (wordAddr l.addr)
        else .done (setW (loadOver s t) t l.d (loadExtend l.signed l.size l.value)))) := by
  have hexec : exec (.loadDataReturn t) s = .next (loadDataReturn t s) := rfl
  rw [hexec]
  unfold loadDataReturn
  rw [h]
  dsimp only
  rw [hw]
  cases l.bad <;> rfl

theorem loadDataReturn_good (h : (thread s t).load = some l) (hs : (thread s t).stepping = false) (hw : loadWaiting s t l = false)
    (hb : l.bad = false) : Gives (.loadDataReturn t) s (Completes s t
      { withW (thread s t) l.d (loadExtend l.signed l.size l.value) with load := none }) := by
  have hm := ((Only.modThread s t fun th => { th with load := none }).mod fun th => withW th l.d (loadExtend l.signed l.size l.value)).toBeside
  have hend := loadDataReturn_ends h hw
  rw [hb] at hend
  exact gives_done hend t.isLt hm.1 hm.2 hs ⟨rfl, rfl⟩

theorem loadDataReturn_bad (h : (thread s t).load = some l) (hs : (thread s t).stepping = false) (hw : loadWaiting s t l = false)
    (hb : l.bad = true) (hv : Enters s t 0x0A) : Gives (.loadDataReturn t) s (Precise s t 0x0A 0 (wordAddr l.addr)) := by
  obtain ⟨hm, hth⟩ : Beside s (loadOver s t) t ∧ thread (loadOver s t) t = { thread s t with load := none } := Beside.modThread s t _
  have hend := loadDataReturn_ends h hw
  rw [hb] at hend
  have hv1 := hm.enters t.isLt (by decide) (by rw [hth]; exact hv.2.1) hv
  obtain ⟨hbeside, htrapped⟩ := precise (sub := 0) (tinfo := wordAddr l.addr) t.isLt (by decide) hv1 (by rw [hth]; exact hs)
  refine ⟨_, hend, hm.trans hbeside, htrapped.trans ?_⟩
  rw [hth, trapped, trapped, hm.handlerPc]
  rfl

end Return

/-- Settles O9: a load of local data completes in one step; one of shared memory or DRAM waits, and what it read is what the thread reads before
the issue, for the checks and the counting on the way change nothing that a load reads (`SameView`). -/
theorem loads : Obligations.Loads := by
  unfold Obligations.Loads
  refine ⟨fun e he t w s hw hi hb => ⟨load_local he hw hi hb, fun k => load_shared he hw hi hb, fun hal hv => ?misaligned,
    fun hal hlo hhi hv => ?hole⟩, fun t s l h hs hw => ⟨loadDataReturn_good h hs hw, loadDataReturn_bad h hs hw⟩⟩
  case misaligned => exact load_traps he hw hi hb (by decide) (accessFault_misaligned hal) hv
  case hole => exact load_traps he hw hi hb (by decide) (accessFault_hole hal hlo hhi) hv

end Sys2Proof.Machine
end

section
/-! PROOFS. INs and OUTs whose port changes more than their thread, and tables of which one entry changes. -/

namespace Sys2Proof.Machine

/-! ## One entry of a table -/

theorem tblAt_set {α : Type} [DecidableEq α] (d : Nat → α) (l : Tbl α) (k : Nat) (v : α) : TblAt d l (Tbl.set d l k v) k v :=
  ⟨Tbl.get_set_same d l k v, fun _ hj => Tbl.get_set_other d l v hj⟩

/-- An entry that changes twice is as it was left last. -/
theorem TblAt.trans {α : Type} {d : Nat → α} {l l' l'' : Tbl α} {k : Nat} {u v : α} (h : TblAt d l l' k u) (h' : TblAt d l' l'' k v) :
    TblAt d l l'' k v := ⟨h'.1, fun j hj => (h'.2 j hj).trans (h.2 j hj)⟩

/-! ## Ports that change the state (R123, R149) -/

/-- A thread that stands as thread `t` does: at the same unit, without a prefix, and not being stepped. -/
def AtUnit (s : State) (t : Nat) (th : Thread) : Prop := th.pc = (thread s t).pc ∧ th.pfx = .none ∧ th.stepping = false

section Ports
variable {ports : Nat → Bool} {t p : Nat} {w : Word} {s s1 : State} {th : Thread} {c : Instr} {P : State → Prop}

theorem Issues.unstepped (hi : Issues s t) : (thread s t).stepping = false := by
  obtain ⟨-, -, -, -, hstep⟩ := hi
  exact hstep

theorem atUnit_of_issues (hi : Issues s t) (hb : Bare s t) : AtUnit s t (thread s t) := ⟨rfl, hb, hi.unstepped⟩

/-- The word after the unit is the same in a state that has the thread at that unit. -/
theorem AtUnit.pcAfter (hu : AtUnit s t th) (hb : Bare s t) (e : thread s1 t = th) : pcAfter s1 t = Machine.pcAfter s t := by
  obtain ⟨hpc, hpfx, -⟩ := hu
  have hinstr : instrPc s1 t = instrPc s t := instrPc_congr ⟨by rw [e, hpc], by rw [e, hpfx]; exact hb.symm⟩
  unfold Machine.pcAfter nextPc
  rw [hinstr]

/-- An IN whose port gives `v` in the state `s1` completes from there: its thread takes `v`. -/
theorem gives_in {f : Nat → Nat → State → InRes} {v : PortVal} (hc : exec c s = .next (issue (inSpec ports f) t w s)) (ht : t < 1028)
    (hi : Issues s t) (hb : Bare s t) (hin : IsIn s t w p) (ho : ports p = true) (hf : f t p s = .give s1 v) (e : thread s1 t = th)
    (hu : AtUnit s t th)
    (hP : ∀ s', Beside s1 s' t → thread s' t = { tookIn th (wD w) v with pc := pcAfter s t, pfx := .none } → P s') : Gives c s P := by
  have ⟨_, hpfx, hstep⟩ := hu
  have hput := (Only.refl s1 t).putIn (by rw [e]; exact hpfx) (wD w) v
  obtain ⟨hbeside, hth⟩ := done_beside ht hput (by rw [e]; exact hstep) ⟨rfl, rfl⟩
  rw [e, hu.pcAfter hb e] at hth
  refine ⟨_, hc, hP _ ?_ ?_⟩ <;> rw [issue_in ht hi hb hin, inRow_bare hb hin.2.2 ho, hf]
  · exact hbeside
  · exact hth

/-- An IN whose port has nothing to give in the state `s1` blocks its thread there. -/
theorem gives_wait {f : Nat → Nat → State → InRes} (hc : exec c s = .next (issue (inSpec ports f) t w s)) (ht : t < 1028)
    (hi : Issues s t) (hb : Bare s t) (hin : IsIn s t w p) (ho : ports p = true) (hf : f t p s = .block s1)
    (e : thread s1 t = thread s t)
    (hP : P (setThread s1 t { thread s t with state := .blocked, waitPort := some (p, wD w) })) : Gives c s P := by
  have hrun : issue (inSpec ports f) t w s = setThread s1 t { thread s t with state := .blocked, waitPort := some (p, wD w) } := by
    rw [issue_in ht hi hb hin, inRow_bare hb hin.2.2 ho, hf, ← e]
    simp only [applyRes, thread_modThread_same, if_true]
    exact stepEnd_off (by rw [thread_modThread_same, e]; exact hi.unstepped)
  exact ⟨_, hc, hrun ▸ hP⟩

/-- An OUT whose port takes the word and leaves `s1` completes from there. -/
theorem gives_out {f : Nat → Nat → Word → State → Option State} (hc : exec c s = .next (issue (outSpec ports f) t w s)) (ht : t < 1028)
    (hi : Issues s t) (hb : Bare s t) (hout : IsOut s t w p) (ho : ports p = true) (hf : f t p (wreg s t (wD w)) s = some s1)
    (e : thread s1 t = th) (hu : AtUnit s t th)
    (hP : ∀ s', Beside s1 s' t → thread s' t = { th with pc := pcAfter s t, pfx := .none } → P s') : Gives c s P := by
  have ⟨_, _, hstep⟩ := hu
  obtain ⟨hbeside, hth⟩ := done_of_beside ht (Beside.refl s1 t) e hstep ⟨by rw [e], by rw [e]⟩
  rw [hu.pcAfter hb e] at hth
  refine ⟨_, hc, hP _ ?_ ?_⟩ <;> rw [issue_out ht hi hb hout, outRow_bare hb hout.2.2 ho, hf]
  · exact hbeside
  · exact hth

end Ports

/-- A thread blocked on a port outside a repeat, as `s1` holds it, runs on with what a delivery there gives it. -/
theorem deliverIn_wakes {s s1 : State} {u p d : Nat} {th : Thread} (v : PortVal) (hp : (thread s u).pfx = .none) (e : thread s1 u = th)
    (hu : AtUnit s u th) (hw : th.waitPort = some (p, d)) (hst : th.state = .blocked) :
    Beside s1 (deliverIn s1 u v) u
    ∧ thread (deliverIn s1 u v) u = { tookIn th d v with pc := pcAfter s u, pfx := .none, state := .running, waitPort := none } := by
  have ⟨_, hpfx, hstep⟩ := hu
  have h := deliverIn_bare v (Only.refl s1 u) (by rw [e]; exact hw) (by rw [e]; exact hst) (by rw [e]; exact hpfx) (by rw [e]; exact hstep)
    ⟨rfl, rfl⟩
  rwa [hu.pcAfter hp e, e] at h

end Sys2Proof.Machine
end

section
/-! PROOFS. Channels: claims, messages read and messages delivered (O19). -/

namespace Sys2Proof.Machine

/-! ## What changes one channel of a thread's Nib -/

/-- Channel `c` of the Nib of thread `t` is `v` and the thread is `th`; beside them only what the Nib counts differs. -/
structure ChanStep (s s1 : State) (t c : Nat) (v : Chan) (th : Thread) : Prop where
  beside : Beside { s with chans := s1.chans } s1 t
  at_ : ChanAt s s1 (nibOf t) c v
  left : thread s1 t = th

section ChanStep
variable {s s1 s2 : State} {t c : Nat} {v : Chan} {th : Thread}

theorem ChanStep.refl (s : State) (t c : Nat) : ChanStep s s t c (chan s (nibOf t) c) (thread s t) :=
  ⟨Beside.refl s t, ⟨rfl, fun _ _ => rfl⟩, rfl⟩

/-- What changes nothing but what lies beside the thread passes on. -/
theorem ChanStep.keep (h : ChanStep s s1 t c v th) (hb : Beside s1 s2 t) : ChanStep s s2 t c v (thread s2 t) := by
  have hc : s2.chans = s1.chans := by rw [hb.1]
  refine ⟨?_, ?_, rfl⟩
  · rw [hc]
    exact h.beside.trans hb
  · unfold ChanAt
    rw [hc]
    exact h.at_

theorem ChanStep.modThread (h : ChanStep s s1 t c v th) (f : Thread → Thread) : ChanStep s (modThread s1 t f) t c v (f th) := by
  obtain ⟨hb, hth⟩ := Beside.modThread s1 t f
  rw [h.left] at hth
  rw [← hth]
  exact h.keep hb

theorem ChanStep.pcEvent (h : ChanStep s s1 t c v th) (ht : t < 1028) (evt : Nat) : ChanStep s (pcEvent s1 t evt) t c v th := by
  obtain ⟨hb, hth⟩ := Beside.pcEvent s1 evt 1 ht
  rw [h.left] at hth
  rw [← hth]
  exact h.keep hb

theorem ChanStep.modChan (h : ChanStep s s1 t c v th) (f : Chan → Chan) :
    ChanStep s (modChan s1 (nibOf t) c f) t c (f v) th := by
  have hv : chan s1 (nibOf t) c = v := h.at_.1
  obtain ⟨e, hu, hn, hown, hr⟩ := h.beside
  refine ⟨⟨?_, hu, hn, hown, hr⟩, ?_, h.left⟩
  · unfold Machine.modChan
    dsimp only
    rw [e]
  · rw [← hv]
    exact h.at_.trans (tblAt_set _ _ _ _)

end ChanStep

/-! ## Claims (R155) -/

/-- The claim on the rest of a message whose word 0 has been taken: none of a message of one word. -/
def claimRest (ch : Nat) (rest : List Word) : Option Claim :=
  if rest = [] then none else some { ch := ch, total := rest.length + 1, words := rest }

/-- A message of a FIFO is claimed: its slot stays taken while words of it are unread. -/
theorem ChanStep.claimMsg {s s1 : State} {t c : Nat} {v : Chan} {th : Thread} (h : ChanStep s s1 t c v th) (ht : t < 1028) (hc : c ≠ 0)
    (x : Word) (rest : List Word) : ∃ s2, Machine.claimMsg s1 t c (x :: rest) = (x, s2)
      ∧ ChanStep s s2 t c (if rest = [] then v else { v with claimed := v.claimed + 1 }) { th with claim := claimRest c rest } := by
  have hev := h.pcEvent ht 0x11
  unfold Machine.claimMsg claimRest
  rw [if_neg hc]
  cases rest with
  | nil => exact ⟨_, rfl, hev.modThread fun th => { th with claim := none }⟩
  | cons y ys =>
    refine ⟨_, rfl, ?_⟩
    simp only [List.drop_one, List.tail_cons, List.isEmpty_cons, Bool.false_eq_true, hc, or_self, if_false, reduceCtorEq]
    exact (hev.modChan fun k => { k with claimed := k.claimed + 1 }).modThread
      fun th => { th with claim := some { ch := c, total := ys.length + 2, words := y :: ys } }

/-- A claim that is over frees its slot of the FIFO. -/
theorem ChanStep.freeClaim {s s1 : State} {t : Nat} {v : Chan} {th : Thread} {k : Claim} (h : ChanStep s s1 t k.ch v th)
    (hc : th.claim = some k) (hk : k.ch ≠ 0) :
    ChanStep s (freeClaim s1 t) t k.ch { v with claimed := v.claimed - 1 } { th with claim := none } := by
  unfold Machine.freeClaim
  rw [h.left, hc]
  simp only [if_neg hk]
  exact (h.modChan fun c => { c with claimed := c.claimed - 1 }).modThread fun th => { th with claim := none }

/-! ## What an IN on a channel does (R154–R156) -/

section ChanIn
variable {s : State} {t c : Nat}

/-- The next word of a claimed message, while more words of it are unread. -/
theorem chanIn_more {v u : Word} {rest : List Word} {tot : Nat} (h : (thread s t).claim = some ⟨c, tot, v :: u :: rest⟩) :
    chanIn t c s = .give (modThread s t fun th => { th with claim := some ⟨c, tot, u :: rest⟩ }) (.plain v) := by
  unfold chanIn
  simp [h]

/-- The last word of a claimed message. -/
theorem chanIn_last {v : Word} {tot : Nat} (h : (thread s t).claim = some ⟨c, tot, [v]⟩) :
    chanIn t c s = .give (freeClaim (modThread s t fun th => { th with claim := some ⟨c, tot, []⟩ }) t) (.plain v) := by
  unfold chanIn
  simp [h]

/-- The message at the head of a FIFO. -/
theorem chanIn_head {m : List Word} {more : List (List Word)} (h : (thread s t).claim = none) (hc : c ≠ 0)
    (hm : (chan s (nibOf t) c).msgs = m :: more) :
    chanIn t c s = .give (claimMsg (modChan s (nibOf t) c fun k => { k with msgs := more }) t c m).2
      (.plain (claimMsg (modChan s (nibOf t) c fun k => { k with msgs := more }) t c m).1) := by
  unfold chanIn
  rw [h]
  simp only [chanIn.take, if_neg hc, hm]

/-- The FD dealt first. -/
theorem chanIn_fd {f : FD} {more : List FD} (h : (thread s t).claim = none) (hf : (thread s t).ch0 = f :: more) :
    chanIn t 0 s = .give (modThread (pcEvent (modThread s t fun th => { th with ch0 := more }) t 0x0F) t fun th =>
      { th with claim := some ⟨0, 8, (fdWords f).drop 1⟩ }) (.plain f.w0) := by
  unfold chanIn
  rw [h]
  simp only [chanIn.take, hf, claimMsg]
  rfl

/-- An empty FIFO: the thread waits behind the other readers. -/
theorem chanIn_empty (h : (thread s t).claim = none) (hc : c ≠ 0) (hm : (chan s (nibOf t) c).msgs = []) :
    chanIn t c s = .block (modChan s (nibOf t) c fun k => { k with readers := k.readers ++ [t] }) := by
  unfold chanIn
  rw [h]
  simp only [chanIn.take, if_neg hc, hm]

end ChanIn

/-! ## CH_RECEIVE and RX_DROP -/

/-- The thread after an IN on a channel that returned `v` and left the claim `cl`. -/
def received (s : State) (t : Nat) (w v : Word) (cl : Option Claim) : Thread :=
  { tookIn (thread s t) (wD w) (.plain v) with claim := cl, pc := pcAfter s t, pfx := .none }

section Receive
variable {s : State} {t : Tid} {w : Word} {c : Nat}

/-- An IN whose port takes its word from a channel: the channel and the thread are as the port left them. -/
theorem receive_step {s1 : State} {v : Word} {k : Chan} {cl : Option Claim} (hi : Issues s t) (hb : Bare s t) (hc : c < 0x20)
    (hin : IsIn s t w c) (hf : chanIn t c s = .give s1 (.plain v)) (h : ChanStep s s1 t c k { thread s t with claim := cl }) :
    Gives (.chReceive t w) s (fun s' => Beside { s with chans := s'.chans } s' t ∧ thread s' t = received s t w v cl
      ∧ ChanAt s s' (nibOf t) c k) :=
  gives_in rfl t.isLt hi hb hin (decide_eq_true hc) hf h.left (atUnit_of_issues hi hb) fun _ hbeside hth =>
    ⟨(h.keep hbeside).beside, hth, (h.keep hbeside).at_⟩

/-- The words of a claimed message come one by one. -/
theorem receive_more {v u : Word} {rest : List Word} {tot : Nat} (hi : Issues s t) (hb : Bare s t) (hc : c < 0x20) (hin : IsIn s t w c)
    (h : (thread s t).claim = some ⟨c, tot, v :: u :: rest⟩) :
    Gives (.chReceive t w) s (fun s' => Beside s s' t ∧ thread s' t = received s t w v (some ⟨c, tot, u :: rest⟩)) :=
  ⟨_, rfl, in_completes t.isLt hi hb hin (by simpa using hc) (chanIn_more h) (Only.modThread s t _) hi.unstepped ⟨rfl, rfl⟩⟩

/-- The last word of a claimed message frees its slot. -/
theorem receive_last {v : Word} {tot : Nat} (hi : Issues s t) (hb : Bare s t) (hc : c < 0x20) (hin : IsIn s t w c) (h0 : c ≠ 0)
    (h : (thread s t).claim = some ⟨c, tot, [v]⟩) :
    Gives (.chReceive t w) s (fun s' => Beside { s with chans := s'.chans } s' t ∧ thread s' t = received s t w v none
      ∧ ChanAt s s' (nibOf t) c { chan s (nibOf t) c with claimed := (chan s (nibOf t) c).claimed - 1 }) := by
  have hread := (ChanStep.refl s t c).modThread fun th => { th with claim := some ⟨c, tot, []⟩ }
  exact receive_step hi hb hc hin (chanIn_last h) (hread.freeClaim (k := ⟨c, tot, []⟩) rfl h0)

/-- The message at the head of a FIFO is claimed. -/
theorem receive_head {v u : Word} {rest : List Word} {more : List (List Word)} (hi : Issues s t) (hb : Bare s t) (hc : c < 0x20)
    (hin : IsIn s t w c) (h0 : c ≠ 0) (h : (thread s t).claim = none) (hm : (chan s (nibOf t) c).msgs = (v :: u :: rest) :: more) :
    Gives (.chReceive t w) s (fun s' => Beside { s with chans := s'.chans } s' t
      ∧ thread s' t = received s t w v (some ⟨c, rest.length + 2, u :: rest⟩)
      ∧ ChanAt s s' (nibOf t) c { chan s (nibOf t) c with msgs := more, claimed := (chan s (nibOf t) c).claimed + 1 }) := by
  obtain ⟨s2, he, hstep⟩ := ((ChanStep.refl s t c).modChan fun k => { k with msgs := more }).claimMsg t.isLt h0 v (u :: rest)
  have hf := chanIn_head h h0 hm
  rw [he] at hf
  exact receive_step hi hb hc hin hf hstep

/-- The FD dealt first is claimed. -/
theorem receive_fd {f : FD} {more : List FD} (hi : Issues s t) (hb : Bare s t) (hin : IsIn s t w 0) (h : (thread s t).claim = none)
    (hf : (thread s t).ch0 = f :: more) :
    Gives (.chReceive t w) s (fun s' => Beside s s' t
      ∧ thread s' t = { received s t w f.w0 (some ⟨0, 8, (fdWords f).drop 1⟩) with ch0 := more }) := by
  obtain ⟨hb1, ht1⟩ := Beside.modThread s t fun th => { th with ch0 := more }
  obtain ⟨hb2, ht2⟩ := Beside.pcEvent (modThread s t fun th => { th with ch0 := more }) 0x0F 1 t.isLt
  obtain ⟨hb3, ht3⟩ := Beside.modThread (pcEvent (modThread s t fun th => { th with ch0 := more }) t 0x0F) t fun th =>
    { th with claim := some ⟨0, 8, (fdWords f).drop 1⟩ }
  rw [ht2, ht1] at ht3
  exact gives_in rfl t.isLt hi hb hin rfl (chanIn_fd h hf) ht3 (atUnit_of_issues hi hb) fun _ hbeside hth =>
    ⟨(hb1.trans (hb2.trans hb3)).trans hbeside, hth⟩

/-- With no message the thread blocks behind the other readers. -/
theorem receive_blocks (hi : Issues s t) (hb : Bare s t) (hc : c < 0x20) (hin : IsIn s t w c) (h0 : c ≠ 0)
    (h : (thread s t).claim = none) (hm : (chan s (nibOf t) c).msgs = []) :
    Gives (.chReceive t w) s (fun s' =>
      ChanAt s s' (nibOf t) c { chan s (nibOf t) c with readers := (chan s (nibOf t) c).readers ++ [t.val] }
      ∧ s' = setThread { s with chans := s'.chans } t { thread s t with state := .blocked, waitPort := some (c, wD w) }) :=
  gives_wait rfl t.isLt hi hb hin (decide_eq_true hc) (chanIn_empty h h0 hm) rfl ⟨tblAt_set _ _ _ _, rfl⟩

/-- RX_INFO shows the claim. -/
theorem rxInfo_gives (hi : Issues s t) (hb : Bare s t) (hin : IsIn s t w 0x20) :
    Gives (.rxInfo t w) s (fun s' => Beside s s' t ∧ thread s' t = received s t w (match (thread s t).claim with
      | some k => word (2 ^ 31 + k.ch * 2 ^ 16 + k.total * 2 ^ 8 + k.words.length)
      | none => 0) (thread s t).claim) :=
  ⟨_, rfl, in_completes t.isLt hi hb hin rfl rfl (Only.refl s t) hi.unstepped ⟨rfl, rfl⟩⟩

/-- RX_DROP ends the claim and frees its slot. -/
theorem rxDrop_gives {k : Claim} (hi : Issues s t) (hb : Bare s t) (hout : IsOut s t w 0x21) (hk : k.ch ≠ 0)
    (h : (thread s t).claim = some k) :
    Gives (.rxDrop t w) s (fun s' => Beside { s with chans := s'.chans } s' t
      ∧ thread s' t = { thread s t with claim := none, pc := pcAfter s t, pfx := .none }
      ∧ ChanAt s s' (nibOf t) k.ch { chan s (nibOf t) k.ch with claimed := (chan s (nibOf t) k.ch).claimed - 1 }) := by
  have hfree := (ChanStep.refl s t k.ch).freeClaim h hk
  have hdrop : dropClaim s t false = freeClaim s t := by
    unfold dropClaim
    simp [h]
  exact gives_out rfl t.isLt hi hb hout rfl (congrArg some hdrop) hfree.left (atUnit_of_issues hi hb) fun _ hbeside hth =>
    ⟨(hfree.keep hbeside).beside, hth, (hfree.keep hbeside).at_⟩

end Receive

/-! ## MESSAGE_DELIVER (R156, R158) -/

section Deliver
variable {s : State} {n c : Nat}

/-- A message for a FIFO with no reader waits at its end. -/
theorem chanPut_waits (m : List Word) (hn : (nib s n).fenced = false) (hr : (chan s n c).readers = []) :
    chanPut s n c m = modChan s n c fun k => { k with msgs := k.msgs ++ [m] } := by
  unfold chanPut
  simp [hn, hr]

/-- A message for a FIFO with readers goes to the one that blocked first. -/
theorem chanPut_reader (m : List Word) {u : Nat} {more : List Nat} (hn : (nib s n).fenced = false) (hr : (chan s n c).readers = u :: more) :
    chanPut s n c m = deliverIn (claimMsg (modChan s n c fun k => { k with readers := more }) u c m).2 u
      (.plain (claimMsg (modChan s n c fun k => { k with readers := more }) u c m).1) := by
  unfold chanPut
  simp [hn, hr]

/-- The reader that blocked first takes word 0 of a message, and claims the rest. -/
theorem chanPut_wakes {u d : Nat} {more : List Nat} (x : Word) (rest : List Word) (hc : c ≠ 0) (hu : u < 1028)
    (hnib : nibOf u = n) (hn : (nib s n).fenced = false) (hr : (chan s n c).readers = u :: more) (hst : (thread s u).state = .blocked)
    (hw : (thread s u).waitPort = some (c, d)) (hp : (thread s u).pfx = .none) (hstep : (thread s u).stepping = false) :
    (chanPut s n c (x :: rest)).sends = s.sends
    ∧ thread (chanPut s n c (x :: rest)) u = { tookIn (thread s u) d (.plain x) with
        claim := claimRest c rest, pc := pcAfter s u, state := .running, waitPort := none }
    ∧ (chan (chanPut s n c (x :: rest)) n c).readers = more
    ∧ (chan (chanPut s n c (x :: rest)) n c).msgs = (chan s n c).msgs := by
  subst hnib
  obtain ⟨s2, he, hs⟩ := ((ChanStep.refl s u c).modChan fun k => { k with readers := more }).claimMsg hu hc x rest
  obtain ⟨hb, hth⟩ := deliverIn_wakes (.plain x) hp hs.left ⟨rfl, hp, hstep⟩ hw hst
  have hfin := hs.keep hb
  rw [chanPut_reader _ hn hr, he]
  refine ⟨?_, hth.trans ?_, ?_, ?_⟩
  · rw [hfin.beside.1]
  · simp only [tookIn, withW, hp]
  · rw [show chan (deliverIn s2 u (.plain x)) (nibOf u) c = _ from hfin.at_.1]
    split <;> rfl
  · rw [show chan (deliverIn s2 u (.plain x)) (nibOf u) c = _ from hfin.at_.1]
    split <;> rfl

/-- The oldest message of a thread to a channel with room leaves the send queue for the channel. -/
theorem messageDeliver_puts {src dest ch : Nat} {m : Send}
    (hm : s.sends.find? (fun m => m.src = src && m.dest = dest && m.ch = ch) = some m) (hroom : chanRoom s dest ch = true) :
    messageDeliver src dest ch s = chanPut { s with sends := s.sends.erase m } dest ch m.words := by
  unfold messageDeliver
  simp only [hm]
  rw [if_pos (.inl hroom)]

end Deliver

/-- Settles O19: an IN on a channel by what its thread has claimed and its FIFO holds; a delivery by whether a reader waits. -/
theorem channelsReceive : Obligations.ChannelsReceive := by
  unfold Obligations.ChannelsReceive
  refine ⟨fun t w s c hi hb => ⟨fun hc hin => ⟨?more, ?last, ?head, ?fd, ?empty⟩, ?info, ?drop⟩,
    fun src dest ch s m h1 h31 hm hroom hn => ⟨?waits, ?wakes⟩⟩
  case more => exact fun v u rest tot h => receive_more hi hb hc hin h
  case last => exact fun v tot h0 h => receive_last hi hb hc hin (by omega) h
  case head => exact fun v u rest more h0 _ h hm => receive_head hi hb hc hin (by omega) h hm
  case fd =>
    intro f more h0 h hf
    subst h0
    exact receive_fd hi hb hin h hf
  case empty => exact fun h0 h hm => receive_blocks hi hb hc hin (by omega) h hm
  case info => exact fun hin => rxInfo_gives hi hb hin
  case drop => exact fun hout ch tot ws h0 h => rxDrop_gives (k := ⟨ch, tot, ws⟩) hi hb hout (Nat.ne_of_gt h0) h
  case waits =>
    intro hr
    have hput := (messageDeliver_puts hm hroom).trans (chanPut_waits (s := { s with sends := s.sends.erase m }) m.words hn hr)
    refine ⟨_, congrArg Host.Outcome.next hput, rfl, tblAt_set _ _ _ _⟩
  case wakes =>
    intro u more d v rest hr hu hnib hst hw hp hstep hwords
    obtain ⟨hsends, hth, hreaders, hmsgs⟩ := chanPut_wakes (s := { s with sends := s.sends.erase m }) v rest (Nat.ne_of_gt h1) hu hnib hn hr
      hst hw hp hstep
    have hput := messageDeliver_puts hm hroom
    rw [hwords] at hput
    refine ⟨_, congrArg Host.Outcome.next hput, hsends, hth.trans ?_, hreaders, hmsgs⟩
    rw [hwords]
    rfl

end Sys2Proof.Machine
end

section
/-! PROOFS. Supervisor notices and the deadlock detector (O23). -/

namespace Sys2Proof.Machine

/-! ## Counts with a NOTE -/

/-- An event that is counted and noted is counted once: the NOTE leaves the counter. -/
theorem reg_count_note (s : State) {a page : Nat} (src : Nat) (hp : Based page) (ha : 0x100 ≤ a % 0x1000) (hb : a / 0x1000 ≠ 3) :
    reg (note (count s a) page src) a = reg s a + 1 := by
  obtain ⟨-, hr, -⟩ := Records.note (count s a) page src 5 0 0 (l := []) hp
  rw [hr a List.not_mem_nil ha hb]
  exact reg_setReg_same s a _

/-! ## Notices (R161, R162) -/

/-- The oldest notice of a Nib goes to its CH31. -/
theorem noticeDeliver_writes {s : State} {n : Nat} {m : List Word} {r : List (List Word)} (hm : (nib s n).notices = m :: r)
    (hroom : chanRoom s n 31 = true) (hn : (nib s n).fenced = false) (hr : (chan s n 31).readers = []) :
    noticeDeliver n s = modChan (modNib s n fun b => { b with notices := r }) n 31 fun k => { k with msgs := k.msgs ++ [m] } := by
  unfold noticeDeliver
  simp only [hm]
  rw [if_pos (.inl hroom)]
  exact chanPut_waits m (by rw [nib_modNib, if_pos rfl]; exact hn) hr

/-- A posted notice is held behind the others, and DL_COUNT is no register of its interrupt. -/
theorem postNotice_posts (s : State) (n : Nat) (m : List Word) :
    (nib (postNotice s n m) n).notices = (nib s n).notices ++ [m] ∧ (postNotice s n m).threads = s.threads
    ∧ reg (postNotice s n m) (Reg.DL_COUNT n) = reg s (Reg.DL_COUNT n) := by
  have hne : Reg.DL_COUNT n ≠ Reg.PG_IRQ_RAW (Reg.nibPage n) := by unfold Reg.DL_COUNT Reg.PG_IRQ_RAW; omega
  unfold postNotice
  rw [nib_modNib, if_pos rfl]
  dsimp only
  split
  · exact ⟨rfl, rfl, rfl⟩
  · exact ⟨rfl, rfl, (reg_irq s _ 2 _).trans (if_neg hne)⟩

/-! ## DEADLOCK_DETECT (R163) -/

/-- The supervisor of a partition is one of the 128 Nibs. -/
theorem supervisorNib_lt {s : State} {p n : Nat} (h : supervisorNib s p = some n) : n < 128 :=
  List.mem_range.mp (List.mem_of_find?_eq_some h)

/-- The detector of partition `p`, whose supervisor is Nib `n`, finds it deadlocked (R163). -/
def DlQuiet (s : State) (p n : Nat) : Prop :=
  enField s (Reg.nibPage n) (Reg.DL_CTL n) 31 = true ∧ dlCand s p ≠ [] ∧ (∀ t ∈ dlCand s p, onChannel s t = true ∨ onLock s t = true)
    ∧ dlPending s p = false ∧ dlUnread s p = false

/-- The DEADLOCK notice of partition `p` to its supervisor on Nib `n` (R161, R163). -/
def deadlockNotice (s : State) (p n : Nat) : List Word :=
  [word (2 * 2 ^ 24 + 8 * n), word (dlCand s p).length, word ((dlCand s p).filter (onChannel s)).length,
    word ((dlCand s p).filter (onLock s)).length, spsNow s, word (fld s (Reg.DL_CTL n) 23 0), word p, 0]

theorem isDeadlock_deadlockNotice (s : State) (p : Nat) {n : Nat} (hn : n < 128) : isDeadlock p (deadlockNotice s p n) = true := by
  have hw : (word (2 * 2 ^ 24 + 8 * n)).toNat = 2 * 2 ^ 24 + 8 * n := by
    unfold word
    rw [BitVec.toNat_ofNat, Nat.mod_eq_of_lt (by omega)]
  have htype : bits (word (2 * 2 ^ 24 + 8 * n)) 31 24 = 2 := by
    unfold bits
    rw [hw, Nat.shiftRight_eq_div_pow]
    omega
  show (bits (word (2 * 2 ^ 24 + 8 * n)) 31 24 = 2 && word p = word p) = true
  rw [htype]
  simp

/-- A DEADLOCK notice that a Nib holds is unread. -/
theorem dlUnread_of_held {s : State} {p n : Nat} {m : List Word} (hm : m ∈ (nib s n).notices) (hd : isDeadlock p m = true) :
    dlUnread s p = true := by
  have hlisted : (n, nib s n) ∈ s.nibs := mem_of_get_ne fun he => by
    rw [show nib s n = {} from he] at hm
    exact absurd hm List.not_mem_nil
  unfold dlUnread
  rw [Bool.or_eq_true]
  exact .inl (List.any_eq_true.mpr ⟨_, hlisted, List.any_eq_true.mpr ⟨m, hm, hd⟩⟩)

/-- The detector acts exactly on a quiet partition. -/
theorem dlQuiet_iff (s : State) (p n : Nat) : DlQuiet s p n ↔ ¬ (¬ enField s (Reg.nibPage n) (Reg.DL_CTL n) 31 = true
    ∨ (dlCand s p).isEmpty = true ∨ ¬ (dlCand s p).all (fun t => onChannel s t || onLock s t) = true ∨ dlPending s p = true
    ∨ dlUnread s p = true) := by
  simp only [DlQuiet, not_or, Decidable.not_not, List.isEmpty_iff, List.all_eq_true, Bool.or_eq_true, ← Bool.not_eq_true, ne_eq]

theorem deadlockDetect_idle {s : State} {p n : Nat} (hs : supervisorNib s p = some n) (hq : ¬ DlQuiet s p n) : deadlockDetect p s = s := by
  unfold deadlockDetect
  simp only [hs]
  exact if_pos (Decidable.not_not.mp fun h => hq ((dlQuiet_iff s p n).mpr h))

/-- The state with the deadlock of partition `p` reported to its supervisor on Nib `n`. -/
def deadlockReported (s : State) (p n : Nat) : State :=
  note (count (postNotice s n (deadlockNotice s p n)) (Reg.DL_COUNT n)) (Reg.nibPage n) 0x01

/-- A report is one notice, unread, and one count; no thread changes. -/
theorem deadlockReported_reports (s : State) (p : Nat) {n : Nat} (hn : n < 128) :
    reg (deadlockReported s p n) (Reg.DL_COUNT n) = reg s (Reg.DL_COUNT n) + 1 ∧ dlUnread (deadlockReported s p n) p = true
    ∧ (deadlockReported s p n).threads = s.threads
    ∧ (nib (deadlockReported s p n) n).notices = (nib s n).notices ++ [deadlockNotice s p n] := by
  obtain ⟨hnotices, hthreads, hcount⟩ := postNotice_posts s n (deadlockNotice s p n)
  have hmod := nibPage_mod n
  have hpage : Reg.nibPage n / 0x1000 ≠ 3 := by
    unfold Reg.nibPage
    rw [if_pos hn]
    omega
  have hreg : reg (deadlockReported s p n) (Reg.DL_COUNT n) = _ := reg_count_note _ 0x01 hmod
    (by unfold Reg.DL_COUNT; omega) (by unfold Reg.DL_COUNT; omega)
  obtain ⟨he, -, -⟩ : Records _ (deadlockReported s p n) [] := Records.note _ _ _ _ _ _ hmod
  have hheld : (nib (deadlockReported s p n) n).notices = (nib s n).notices ++ [deadlockNotice s p n] := by
    rw [he]
    exact hnotices
  refine ⟨hreg.trans (by rw [hcount]), dlUnread_of_held (n := n) ?_ (isDeadlock_deadlockNotice s p hn), ?_, hheld⟩
  · rw [hheld]
    exact List.mem_concat_self
  · rw [he]
    exact hthreads

/-- A quiet partition whose supervisor waits on no port is reported, and nothing else happens. -/
theorem deadlockDetect_quiet {s : State} {p n : Nat} (hs : supervisorNib s p = some n) (hq : DlQuiet s p n)
    (hw : (thread s (8 * n)).waitPort = none) : deadlockDetect p s = deadlockReported s p n := by
  obtain ⟨-, -, hthreads, -⟩ := deadlockReported_reports s p (supervisorNib_lt hs)
  have hwaits : waitsOn (deadlockReported s p n) (8 * n) = none := by
    unfold waitsOn thread
    rw [hthreads]
    exact hw
  unfold deadlockDetect
  simp only [hs]
  rw [if_neg ((dlQuiet_iff s p n).mp hq)]
  unfold deadlockReported deadlockNotice at hwaits ⊢
  rw [hwaits]

/-- Settles O23: a held notice moves to CH31; a quiet partition is reported once, any other left alone. -/
theorem noticesAndDeadlock : Obligations.NoticesAndDeadlock := by
  unfold Obligations.NoticesAndDeadlock
  refine ⟨fun n s m r hm hroom hn hr => ?notice, fun p s n hs => ⟨fun hq hw => ?quiet, fun hq => ?idle⟩⟩
  case notice =>
    refine ⟨_, congrArg Host.Outcome.next (noticeDeliver_writes hm hroom hn hr), rfl, ?_, fun k hk => ?_, tblAt_set _ _ _ _⟩
    · rw [nib_modChan, nib_modNib, if_pos rfl]
    · rw [nib_modChan, nib_modNib, if_neg hk]
  case quiet => exact ⟨_, congrArg Host.Outcome.next (deadlockDetect_quiet hs hq hw), deadlockReported_reports s p (supervisorNib_lt hs)⟩
  case idle => exact congrArg Host.Outcome.next (deadlockDetect_idle hs hq)

end Sys2Proof.Machine
end

section
/-! PROOFS. Locks: acquired, tried, released and forced (O21). -/

namespace Sys2Proof.Machine

/-! ## The lock unit (R159, R160) -/

section LockUnit
variable {s s' s'' : State} {q k : Nat} {v : Lock}

/-- The lock that passes is the one entry that changes. -/
theorem LockPasses.lockAt {u : Nat} (h : LockPasses u (256 * q + k) v s s') : LockAt s s' q k v :=
  ⟨(h.at_ _).trans (if_pos rfl), fun j hj => (h.at_ j).trans (if_neg hj)⟩

theorem LockPasses.refl (u : Nat) (s : State) (q k : Nat) : LockPasses u (256 * q + k) (lock s q k) s s :=
  ⟨LeavesThread.refl u s, fun j => by
    split
    next hj => rw [hj]; rfl
    next => rfl⟩

/-- What changes beside a thread leaves the locks. -/
theorem LockAt.keep {u : Nat} (h : LockAt s s' q k v) (hb : Beside s' s'' u) : LockAt s s'' q k v := by
  unfold LockAt
  rw [hb.1]
  exact h

/-- What a thread of a Nib changes beside itself is no register of a lock unit. -/
theorem Beside.lockReg {t o : Nat} (h : Beside s s' t) (ht : t < 1024) (ho : o < 0x1000) :
    reg s' (Reg.locksPage q + o) = reg s (Reg.locksPage q + o) := by
  have hn : nibOf t = t / 8 := if_neg (by omega)
  have hpage : Reg.nibPage (nibOf t) = 0x101000 + 0x10000 * (t / 8 / 8) + 0x1000 * (t / 8 % 8) := by
    rw [hn]
    exact if_pos (by omega)
  have hmod := nibPage_mod (nibOf t)
  obtain ⟨-, -, -, -, hreg⟩ := h
  exact hreg _ (by unfold Reg.locksPage; omega) (by unfold Reg.locksPage; omega)

/-- A counter of a lock unit counts an event that is noted there. -/
theorem reg_lock_count (s : State) (q src : Nat) {o : Nat} (ho : 0x100 ≤ o ∧ o < 0x1000) :
    reg (note (count s (Reg.locksPage q + o)) (Reg.locksPage q) src) (Reg.locksPage q + o) = reg s (Reg.locksPage q + o) + 1 := by
  have hpage : Reg.locksPage q % 0x1000 = 0 := by unfold Reg.locksPage; omega
  exact reg_count_note s src hpage (by omega) (by unfold Reg.locksPage; omega)

/-- An event of a Quill is counted on its own page. -/
theorem reg_lock_qpcEvent (s : State) (q evt : Nat) {o : Nat} (ho : o < 0x1000) :
    reg (qpcEvent s q evt) (Reg.locksPage q + o) = reg s (Reg.locksPage q + o) :=
  (OnQuillPages.qpcEvent s q evt).2 _ (by unfold Reg.locksPage; omega)

/-- A counted and noted event of a lock unit changes no lock and no thread. -/
theorem lockNote_keeps (s : State) (q a src : Nat) : (note (count s a) (Reg.locksPage q) src).locks = s.locks
    ∧ ∀ u, thread (note (count s a) (Reg.locksPage q) src) u = thread s u := by
  have hpage : Based (Reg.locksPage q) := by simp only [Based, Reg.locksPage]; omega
  obtain ⟨he, -, -⟩ := Records.note (count s a) (Reg.locksPage q) src 5 0 0 (l := []) hpage
  exact ⟨by rw [he]; rfl, fun u => by rw [he]; rfl⟩

theorem lockAt_modLock (s : State) (q k : Nat) (f : Lock → Lock) : LockAt s (modLock s q k f) q k (f (lock s q k)) :=
  tblAt_set _ _ _ _

/-- The status of a granted lock. -/
theorem lockGrant_status (s : State) (q k t : Nat) : (lockGrant s q k t).1 = if (lock s q k).broken then stBroken else stOk := by
  unfold lockGrant
  dsimp only
  split <;> rfl

/-- A lock that is granted is its new owner's and broken no more; no thread changes. -/
theorem lockGrant_grants (s : State) (q k t : Nat) :
    LockAt s (lockGrant s q k t).2 q k { lock s q k with owner := some t, broken := false }
    ∧ ∀ u, thread (lockGrant s q k t).2 u = thread s u := by
  have hpass : ∀ u, LockPasses u (256 * q + k) { lock s q k with owner := some t, broken := false } s (lockGrant s q k t).2 := fun u =>
    (LockPasses.refl u s q k).lockGrant
  exact ⟨(hpass 0).lockAt, fun u => (hpass u).leaves.thread⟩

/-- The grant of a broken lock is counted. -/
theorem lockGrant_counts (t : Nat) (h : (lock s q k).broken = true) :
    reg (lockGrant s q k t).2 (Reg.LK_BROKEN_CNT q) = reg s (Reg.LK_BROKEN_CNT q) + 1 := by
  unfold lockGrant
  simp only [h, if_true]
  unfold Reg.LK_BROKEN_CNT
  rw [reg_lock_qpcEvent _ _ _ (by omega), reg_lock_count _ _ _ (by omega), reg_lock_qpcEvent _ _ _ (by omega)]
  rfl

/-- A released lock that nobody waits for is free. -/
theorem lockRelease_frees (b : Bool) (h : (lock s q k).queue = []) :
    lockRelease s q k b = modLock s q k fun l => { l with owner := none, broken := l.broken || b } := by
  have hq : (lock (modLock s q k fun l => { l with owner := none, broken := l.broken || b }) q k).queue = [] := by
    rw [show lock (modLock s q k fun l => { l with owner := none, broken := l.broken || b }) q k = _ from Tbl.get_set_same _ _ _ _]
    exact h
  unfold lockRelease
  simp only [hq]

/-- A lock that is forced from its owner passes to the head of its queue as broken. -/
theorem lockRelease_broken {u : Nat} {more : List Nat} (h : (lock s q k).queue = u :: more) :
    ∃ s2, lockRelease s q k true = deliverIn s2 u (.status stBroken true)
      ∧ LockAt s s2 q k { owner := some u, broken := false, queue := more } ∧ ∀ t, thread s2 t = thread s t := by
  generalize hs1 : (modLock s q k fun l => { l with owner := none, broken := l.broken || true }) = s1
  have hl1 : LockAt s s1 q k { owner := none, broken := true, queue := u :: more } := by
    rw [← h, ← hs1]
    have hset := lockAt_modLock s q k fun l => { l with owner := none, broken := l.broken || true }
    simp only [Bool.or_true] at hset ⊢
    exact hset
  have hv1 : lock s1 q k = { owner := none, broken := true, queue := u :: more } := hl1.1
  generalize hs2 : (modLock s1 q k fun l => { l with queue := more }) = s2
  have hl2 : LockAt s1 s2 q k { owner := none, broken := true, queue := more } := by
    have hset := lockAt_modLock s1 q k fun l => { l with queue := more }
    rw [hv1] at hset
    rw [← hs2]
    exact hset
  have hv2 : lock s2 q k = { owner := none, broken := true, queue := more } := hl2.1
  obtain ⟨hgrant, hthreads⟩ := lockGrant_grants s2 q k u
  have hst := lockGrant_status s2 q k u
  rw [hv2] at hgrant hst
  refine ⟨(lockGrant s2 q k u).2, ?_, hl1.trans (hl2.trans hgrant), fun t => ?_⟩
  · unfold lockRelease
    simp only [hs1, hv1, hs2, hst]
    rfl
  · rw [hthreads, ← hs2, ← hs1]
    rfl

end LockUnit

/-! ## The ports of a thread of a Nib (R149, R159) -/

section Ports
variable {s : State} {t : Tid} {w : Word} {k q : Nat}

/-- The lock that a port names. -/
theorem lockPort_div (hk : k < 256) : decide ((0x100 + k) / 256 = 1) = true := decide_eq_true (by omega)
theorem lockPort_mod (hk : k < 256) : (0x100 + k) % 256 = k := by omega

/-- ACQ of a free lock: the thread owns it. -/
theorem lkAcq_free (hk : k < 256) (ht : t.val < 1024) (hi : Issues s t) (hb : Bare s t) (hq : nibOf t / 8 = q)
    (hpid : lockPid s q k = tidPid s t) (hin : IsIn s t w (0x100 + k)) (ho : (lock s q k).owner = none) :
    Gives (.lkAcq t w) s (fun s' => LockAt s s' q k { lock s q k with owner := some t.val, broken := false }
      ∧ (∀ u, u ≠ t.val → thread s' u = thread s u)
      ∧ thread s' t = { tookIn (thread s t) (wD w) (.status (if (lock s q k).broken then stBroken else stOk) true) with
          pc := pcAfter s t, pfx := .none }
      ∧ ((lock s q k).broken = true → reg s' (Reg.LK_BROKEN_CNT q) = reg s (Reg.LK_BROKEN_CNT q) + 1)) := by
  obtain ⟨hlock, hthreads⟩ := lockGrant_grants s q k t
  rw [← lockGrant_status s q k t]
  refine gives_in rfl t.isLt hi hb hin (lockPort_div hk) ?_ (hthreads t) (atUnit_of_issues hi hb) fun s' hbeside hth =>
    ⟨hlock.keep hbeside, fun u hu => (hbeside.2.1 u hu).trans (hthreads u), hth,
      fun hbr => (hbeside.lockReg ht (by omega)).trans (lockGrant_counts t hbr)⟩
  simp [lockPort_mod hk, Nat.not_le.mpr ht, hq, hpid, ho]

/-- ACQ of a lock that another thread owns: the thread waits at the end of its queue. -/
theorem lkAcq_held {o : Nat} (hk : k < 256) (ht : t.val < 1024) (hi : Issues s t) (hb : Bare s t) (hq : nibOf t / 8 = q)
    (hpid : lockPid s q k = tidPid s t) (hin : IsIn s t w (0x100 + k)) (ho : (lock s q k).owner = some o) (hne : o ≠ t.val) :
    Gives (.lkAcq t w) s (fun s' => LockAt s s' q k { lock s q k with queue := (lock s q k).queue ++ [t.val] }
      ∧ thread s' t = { thread s t with state := .blocked, waitPort := some (0x100 + k, wD w) }) := by
  obtain ⟨he, -⟩ := OnQuillPages.qpcEvent (modLock s q k fun l => { l with queue := l.queue ++ [t.val] }) q 0x41
  refine gives_wait rfl t.isLt hi hb hin (lockPort_div hk)
    (s1 := qpcEvent (modLock s q k fun l => { l with queue := l.queue ++ [t.val] }) q 0x41) ?_ (by rw [he]; rfl)
    ⟨?_, (thread_setThread _ _ _ _).trans (if_pos rfl)⟩
  · simp [lockPort_mod hk, Nat.not_le.mpr ht, hq, hpid, ho, hne]
  · rw [he]
    exact lockAt_modLock s q k fun l => { l with queue := l.queue ++ [t.val] }

/-- ACQ of the thread's own lock returns ALREADY_DONE. -/
theorem lkAcq_own (hk : k < 256) (ht : t.val < 1024) (hi : Issues s t) (hb : Bare s t) (hq : nibOf t / 8 = q)
    (hpid : lockPid s q k = tidPid s t) (hin : IsIn s t w (0x100 + k)) (ho : (lock s q k).owner = some t.val) :
    Gives (.lkAcq t w) s (Completes s t (tookIn (thread s t) (wD w) (.status stAlready false))) := by
  refine gives_in rfl t.isLt hi hb hin (lockPort_div hk) (s1 := s) ?_ rfl (atUnit_of_issues hi hb) fun s' hbeside hth => ⟨hbeside, hth⟩
  simp [lockPort_mod hk, Nat.not_le.mpr ht, hq, hpid, ho]

/-- TRY of a free lock: the thread owns it, with no wait. -/
theorem lkTry_free (ht : t.val < 1024) (hi : Issues s t) (hb : Bare s t) (hq : nibOf t / 8 = q) (hout : IsOut s t w 0x2A)
    (hk : bits (wreg s t (wD w)) 7 0 = k) (hpid : lockPid s q k = tidPid s t) (ho : (lock s q k).owner = none) :
    Gives (.lkTry t w) s (fun s' => LockAt s s' q k { lock s q k with owner := some t.val, broken := false }
      ∧ thread s' t = { thread s t with
          pc := pcAfter s t, pfx := .none, lkRes := if (lock s q k).broken then stBroken else stOk }) := by
  obtain ⟨hlock, hthreads⟩ := lockGrant_grants s q k t
  obtain ⟨hb1, ht1⟩ := Beside.modThread (lockGrant s q k t).2 t fun th => { th with lkRes := (lockGrant s q k t).1 }
  rw [hthreads] at ht1
  rw [← lockGrant_status s q k t]
  refine gives_out rfl t.isLt hi hb hout rfl ?_ ht1 (atUnit_of_issues hi hb) fun s' hbeside hth => ⟨hlock.keep (hb1.trans hbeside), hth⟩
  simp [hk, Nat.not_le.mpr ht, hq, hpid, ho]

/-- TRY of a lock that has an owner says whose it is. -/
theorem lkTry_held {o : Nat} (ht : t.val < 1024) (hi : Issues s t) (hb : Bare s t) (hq : nibOf t / 8 = q) (hout : IsOut s t w 0x2A)
    (hk : bits (wreg s t (wD w)) 7 0 = k) (hpid : lockPid s q k = tidPid s t) (ho : (lock s q k).owner = some o) :
    Gives (.lkTry t w) s (Completes s t { thread s t with lkRes := if o = t.val then stAlready else stBusy }) := by
  obtain ⟨hb1, ht1⟩ := Beside.modThread s t fun th => { th with lkRes := if o = t.val then stAlready else stBusy }
  refine gives_out rfl t.isLt hi hb hout rfl ?_ ht1 (atUnit_of_issues hi hb) fun s' hbeside hth => ⟨hb1.trans hbeside, hth⟩
  simp [hk, Nat.not_le.mpr ht, hq, hpid, ho]

/-- TRY of another partition's lock is DENIED and counted. -/
theorem lkTry_denied (ht : t.val < 1024) (hi : Issues s t) (hb : Bare s t) (hq : nibOf t / 8 = q) (hout : IsOut s t w 0x2A)
    (hk : bits (wreg s t (wD w)) 7 0 = k) (hpid : lockPid s q k ≠ tidPid s t) :
    Gives (.lkTry t w) s (fun s' => s'.locks = s.locks
      ∧ thread s' t = { thread s t with pc := pcAfter s t, pfx := .none, lkRes := stDenied }
      ∧ reg s' (Reg.LK_DENIED_CNT q) = reg s (Reg.LK_DENIED_CNT q) + 1) := by
  obtain ⟨hlocks, hthreads⟩ := lockNote_keeps s q (Reg.LK_DENIED_CNT q) 0x02
  obtain ⟨hb1, ht1⟩ := Beside.modThread (lockDenied s q) t fun th => { th with lkRes := stDenied }
  rw [show thread (lockDenied s q) t = _ from hthreads t] at ht1
  refine gives_out rfl t.isLt hi hb hout rfl ?_ ht1 (atUnit_of_issues hi hb) fun s' hbeside hth =>
    ⟨?_, hth, ((hb1.trans hbeside).lockReg ht (by omega)).trans (reg_lock_count s q 0x02 (by omega))⟩
  · simp [hk, Nat.not_le.mpr ht, hq, hpid]
  · rw [(hb1.trans hbeside).1]
    exact hlocks

/-- TRY_RES returns the status of the last TRY. -/
theorem lkTryRes_gives (hi : Issues s t) (hb : Bare s t) (hin : IsIn s t w 0x2B) :
    Gives (.lkTryRes t w) s (Completes s t (tookIn (thread s t) (wD w)
      (.status (thread s t).lkRes (decide ((thread s t).lkRes = stOk ∨ (thread s t).lkRes = stBroken))))) :=
  gives_in rfl t.isLt hi hb hin rfl (s1 := s) (by rw [Bool.decide_or]) rfl (atUnit_of_issues hi hb) fun _ hbeside hth => ⟨hbeside, hth⟩

/-- REL of the thread's own lock that nobody waits for frees it. -/
theorem lkRel_frees (hk : k < 256) (ht : t.val < 1024) (hi : Issues s t) (hb : Bare s t) (hq : nibOf t / 8 = q)
    (hout : IsOut s t w (0x100 + k)) (ho : (lock s q k).owner = some t.val) (hw : (lock s q k).queue = []) :
    Gives (.lkRel t w) s (fun s' => LockAt s s' q k { lock s q k with owner := none }
      ∧ Beside { s with locks := s'.locks } s' t ∧ thread s' t = { thread s t with pc := pcAfter s t, pfx := .none }) := by
  refine gives_out rfl t.isLt hi hb hout (lockPort_div hk) (s1 := modLock s q k fun l => { l with owner := none }) ?_ rfl
    (atUnit_of_issues hi hb) fun s' hbeside hth => ⟨(lockAt_modLock s q k _).keep hbeside, ?_, hth⟩
  · simp [lockPort_mod hk, Nat.not_le.mpr ht, hq, ho, lockRelease_frees false hw]
  · rw [show s'.locks = _ by rw [hbeside.1]]
    exact hbeside

/-- REL of a lock that the thread does not own is only counted. -/
theorem lkRel_bad (hk : k < 256) (ht : t.val < 1024) (hi : Issues s t) (hb : Bare s t) (hq : nibOf t / 8 = q)
    (hout : IsOut s t w (0x100 + k)) (ho : (lock s q k).owner ≠ some t.val) :
    Gives (.lkRel t w) s (fun s' => s'.locks = s.locks ∧ thread s' t = { thread s t with pc := pcAfter s t, pfx := .none }
      ∧ reg s' (Reg.LK_BADREL_CNT q) = reg s (Reg.LK_BADREL_CNT q) + 1) := by
  obtain ⟨hlocks, hthreads⟩ := lockNote_keeps s q (Reg.LK_BADREL_CNT q) 0x00
  refine gives_out rfl t.isLt hi hb hout (lockPort_div hk) ?_ (hthreads t) (atUnit_of_issues hi hb) fun s' hbeside hth =>
    ⟨?_, hth, (hbeside.lockReg ht (by omega)).trans (reg_lock_count s q 0x00 (by omega))⟩
  · simp [lockPort_mod hk, Nat.not_le.mpr ht, hq, ho]
  · rw [hbeside.1]
    exact hlocks

end Ports

/-! ## LOCK_FORCE_RELEASE (R160) -/

/-- A lock that is forced from its owner, with nobody waiting, is free and broken. -/
theorem lockForceRelease_frees {s : State} {q : QuillId} {k : Fin 256} {o : Nat} (ho : (lock s q k).owner = some o)
    (hq : (lock s q k).queue = []) : Gives (.lockForceRelease q k) s (fun s' => s' = { s with locks := s'.locks }
      ∧ LockAt s s' q k { lock s q k with owner := none, broken := true }) := by
  have hset := lockAt_modLock s q k fun l => { l with owner := none, broken := l.broken || true }
  have hrun : lockForceRelease q k s = modLock s q k fun l => { l with owner := none, broken := l.broken || true } := by
    unfold lockForceRelease
    rw [if_pos (by rw [ho]; rfl), lockRelease_frees true hq]
  simp only [Bool.or_true] at hset hrun
  exact ⟨_, congrArg Host.Outcome.next hrun, rfl, hset⟩

/-- A lock that is forced from its owner passes to the thread that waits first, which runs on with BROKEN. -/
theorem lockForceRelease_passes {s : State} {q : QuillId} {k : Fin 256} {o u d p : Nat} {more : List Nat} (ho : (lock s q k).owner = some o)
    (hq : (lock s q k).queue = u :: more) (hst : (thread s u).state = .blocked) (hw : (thread s u).waitPort = some (p, d)) (hp : (thread s u).pfx = .none)
    (hstep : (thread s u).stepping = false) :
    Gives (.lockForceRelease q k) s (fun s' => LockAt s s' q k { owner := some u, broken := false, queue := more }
      ∧ Woken s s' u d (.status stBroken true)) := by
  obtain ⟨s2, he, hlock, hthreads⟩ := lockRelease_broken hq
  have hrun : lockForceRelease q k s = deliverIn s2 u (.status stBroken true) := by
    unfold lockForceRelease
    rw [if_pos (by rw [ho]; rfl), he]
  obtain ⟨hbeside, hth⟩ := deliverIn_wakes (.status stBroken true) hp (hthreads u) ⟨rfl, hp, hstep⟩ hw hst
  exact ⟨_, congrArg Host.Outcome.next hrun, hlock.keep hbeside, hth⟩

/-- Settles O21: each port by who owns the lock; a forced release by who waits for it. -/
theorem locks : Obligations.Locks := by
  unfold Obligations.Locks
  refine ⟨fun t w s k ht hi hb => ⟨fun hpid => ⟨?free, ?held, ?own, fun hout hk => ⟨?tryFree, ?tryHeld⟩⟩, ?tryDenied, ?tryRes, ?rel, ?badRel⟩,
    ?force, ?pass⟩
  case free => exact fun hin ho => lkAcq_free k.isLt ht hi hb rfl hpid hin ho
  case held => exact fun o hin ho hne => lkAcq_held k.isLt ht hi hb rfl hpid hin ho hne
  case own => exact fun hin ho => lkAcq_own k.isLt ht hi hb rfl hpid hin ho
  case tryFree => exact fun ho => lkTry_free ht hi hb rfl hout hk hpid ho
  case tryHeld => exact fun o ho => lkTry_held ht hi hb rfl hout hk hpid ho
  case tryDenied => exact fun hout hk hpid => lkTry_denied ht hi hb rfl hout hk hpid
  case tryRes => exact fun hin => lkTryRes_gives hi hb hin
  case rel => exact fun hout ho hq => lkRel_frees k.isLt ht hi hb rfl hout ho hq
  case badRel => exact fun hout ho => lkRel_bad k.isLt ht hi hb rfl hout ho
  case force => exact fun q k s o ho hq => lockForceRelease_frees ho hq
  case pass => exact fun q k s o u d more ho hq _ hst hw hp hstep => lockForceRelease_passes ho hq hst hw hp hstep

end Sys2Proof.Machine
end

section
/-! PROOFS. Sending and submitting: TX_DEST, TX_DATA, TX_ABORT, FD_SUBMIT and their statuses (O20). -/

namespace Sys2Proof.Machine

/-! ## What a refused send or submission leaves (R152, R157, R166) -/

/-- The send queue, the completions on their way and the egress queues are as before. -/
def SendsKept (s s' : State) : Prop := s'.sends = s.sends ∧ s'.compl = s.compl ∧ s'.queues = s.queues

theorem SendsKept.trans {s s' s'' : State} (h : SendsKept s s') (h' : SendsKept s' s'') : SendsKept s s'' :=
  ⟨h'.1.trans h.1, h'.2.1.trans h.2.1, h'.2.2.trans h.2.2⟩

theorem Beside.sendsKept {s s' : State} {t : Nat} (h : Beside s s' t) : SendsKept s s' := by
  refine ⟨?_, ?_, ?_⟩ <;> rw [h.1]

/-- A refusal is a NOTE: it sends nothing and changes no thread. -/
theorem refuseSend_keeps (s : State) (t : Nat) : SendsKept s (refuseSend s t) ∧ ∀ u, thread (refuseSend s t) u = thread s u := by
  obtain ⟨he, -, -⟩ : Records s (refuseSend s t) [] := Records.note s _ 0x03 1 _ 0 (nibPage_mod _)
  exact ⟨by refine ⟨?_, ?_, ?_⟩ <;> rw [he], fun u => by rw [he]; rfl⟩

/-! ## The statuses -/

section Status
variable {s : State} {t : Nat} {v : Word}

/-- A destination that the thread may write (R154, R157). -/
theorem destStatus_ok (h1 : 1 ≤ bits v 19 16) (h8 : bits v 19 16 ≤ 8) (hd : bits v 15 8 < 128) (h4 : 4 ≤ bits v 4 0) (h30 : bits v 4 0 ≤ 30)
    (hp : 1024 ≤ t ∨ nibPid s (bits v 15 8) = tidPid s t) : destStatus s t v = stOk := by
  unfold destStatus
  dsimp only
  rw [if_neg (by omega), if_neg (fun h => hp.elim (fun ht => absurd h.1 (Nat.not_lt.mpr ht)) h.2.2), if_neg (by split <;> omega)]

/-- A destination in another partition. -/
theorem destStatus_denied (ht : t < 1024) (h1 : 1 ≤ bits v 19 16) (h8 : bits v 19 16 ≤ 8) (hd : bits v 15 8 < 128)
    (hp : nibPid s (bits v 15 8) ≠ tidPid s t) : destStatus s t v = stDenied := by
  unfold destStatus
  dsimp only
  rw [if_neg (by omega), if_pos ⟨ht, hd, hp⟩]

/-- What an IN that returns a stored status leaves: the status in d, C and Z (R149). -/
theorem tookIn_status (th : Thread) (d : Nat) (x : Byte) : tookIn th d (.status x (decide (x = stOk)))
    = { withW th d (x.setWidth 32) with st := setBit (setBit th.st 2 (decide (x ≠ stOk))) 0 (decide (x = stOk)) } := by
  unfold tookIn PortVal.flags setZ setC
  rw [decide_not]
  rfl

end Status

/-! ## TX_DEST, TX_DATA and TX_ABORT (R157) -/

section Sending
variable {s : State} {t : Tid} {w : Word}

/-- TX_DEST to a channel that the thread may write starts an empty staging. -/
theorem txDest_ok (hi : Issues s t) (hb : Bare s t) (hout : IsOut s t w 0x24) (hs : (thread s t).staging = none)
    (hd : destStatus s t (wreg s t (wD w)) = stOk) :
    Gives (.txDest t w) s (Completes s t { thread s t with staging := some (wreg s t (wD w), []), txStat := stOk }) := by
  obtain ⟨hb1, ht1⟩ := Beside.modThread s t fun th => { th with staging := some (wreg s t (wD w), []), txStat := stOk }
  refine gives_out rfl t.isLt hi hb hout rfl ?_ ht1 (atUnit_of_issues hi hb) fun s' hbeside hth => ⟨hb1.trans hbeside, hth⟩
  simp [hs, hd]

/-- TX_DEST to another partition is DENIED and stages nothing. -/
theorem txDest_denied (hi : Issues s t) (hb : Bare s t) (hout : IsOut s t w 0x24) (hs : (thread s t).staging = none)
    (hd : destStatus s t (wreg s t (wD w)) = stDenied) :
    Gives (.txDest t w) s (fun s' => thread s' t = { thread s t with staging := none, txStat := stDenied, pc := pcAfter s t, pfx := .none }
      ∧ s'.sends = s.sends) := by
  obtain ⟨hb1, ht1⟩ := Beside.modThread s t fun th => { th with staging := none, txStat := stDenied }
  obtain ⟨hkept, hthreads⟩ := refuseSend_keeps (modThread s t fun th => { th with staging := none, txStat := stDenied }) t
  refine gives_out rfl t.isLt hi hb hout rfl ?_ ((hthreads t).trans ht1) (atUnit_of_issues hi hb) fun s' hbeside hth =>
    ⟨hth, ((hb1.sendsKept.trans hkept).trans hbeside.sendsKept).1⟩
  simp [hs, hd]

section Staged
variable {d : Word} {ws : List Word}

/-- TX_DATA before the last word stages it. -/
theorem txData_stages (hi : Issues s t) (hb : Bare s t) (hout : IsOut s t w 0x25) (hs : (thread s t).staging = some (d, ws))
    (hn : ws.length + 1 < bits d 19 16) :
    Gives (.txData t w) s (Completes s t { thread s t with staging := some (d, ws ++ [wreg s t (wD w)]) }) := by
  obtain ⟨hb1, ht1⟩ := Beside.modThread s t fun th => { th with staging := some (d, ws ++ [wreg s t (wD w)]) }
  refine gives_out rfl t.isLt hi hb hout rfl ?_ ht1 (atUnit_of_issues hi hb) fun s' hbeside hth => ⟨hb1.trans hbeside, hth⟩
  simp [hs, hn]

/-- The last word commits the message behind the send queue. -/
theorem txData_commits (hi : Issues s t) (hb : Bare s t) (hout : IsOut s t w 0x25) (hs : (thread s t).staging = some (d, ws))
    (hn : bits d 19 16 ≤ ws.length + 1) (hf : sendFull s t = false) :
    Gives (.txData t w) s (fun s' =>
      Beside { s with sends := s.sends ++ [⟨t, bits d 15 8, bits d 4 0, ws ++ [wreg s t (wD w)]⟩] } s' t
      ∧ thread s' t = { thread s t with staging := none, txStat := stOk, pc := pcAfter s t, pfx := .none }) := by
  obtain ⟨hb1, ht1⟩ := Beside.modThread { s with sends := s.sends ++ [⟨t, bits d 15 8, bits d 4 0, ws ++ [wreg s t (wD w)]⟩] } t
    fun th => { th with staging := none, txStat := stOk }
  obtain ⟨hb2, ht2⟩ := Beside.pcEvent (modThread { s with sends := s.sends ++ [⟨t, bits d 15 8, bits d 4 0, ws ++ [wreg s t (wD w)]⟩] } t
    fun th => { th with staging := none, txStat := stOk }) 0x10 1 t.isLt
  refine gives_out rfl t.isLt hi hb hout rfl ?_ (ht2.trans ht1) (atUnit_of_issues hi hb) fun s' hbeside hth =>
    ⟨(hb1.trans hb2).trans hbeside, hth⟩
  simp [hs, hf, Nat.not_lt.mpr hn]
  rfl

/-- With the send share full the last word sends nothing. -/
theorem txData_full (hi : Issues s t) (hb : Bare s t) (hout : IsOut s t w 0x25) (hs : (thread s t).staging = some (d, ws))
    (hn : bits d 19 16 ≤ ws.length + 1) (hf : sendFull s t = true) :
    Gives (.txData t w) s (fun s' => s'.sends = s.sends
      ∧ thread s' t = { thread s t with staging := none, txStat := stFull, pc := pcAfter s t, pfx := .none }) := by
  obtain ⟨hb1, ht1⟩ := Beside.modThread s t fun th => { th with staging := none, txStat := stFull }
  obtain ⟨hkept, hthreads⟩ := refuseSend_keeps (modThread s t fun th => { th with staging := none, txStat := stFull }) t
  refine gives_out rfl t.isLt hi hb hout rfl ?_ ((hthreads t).trans ht1) (atUnit_of_issues hi hb) fun s' hbeside hth =>
    ⟨((hb1.sendsKept.trans hkept).trans hbeside.sendsKept).1, hth⟩
  simp [hs, hf, Nat.not_lt.mpr hn]

end Staged

/-- TX_ABORT drops the staging. -/
theorem txAbort_drops (hi : Issues s t) (hb : Bare s t) (hout : IsOut s t w 0x27) :
    Gives (.txAbort t w) s (Completes s t { thread s t with staging := none }) :=
  ⟨_, rfl, out_completes t.isLt hi hb hout rfl rfl (Only.modThread s t fun th => { th with staging := none }) hi.unstepped ⟨rfl, rfl⟩⟩

/-- TX_STAT and FD_STAT return the stored status. -/
theorem txStat_returns (hi : Issues s t) (hb : Bare s t) (hin : IsIn s t w 0x26) :
    Gives (.txStat t w) s (Completes s t (tookIn (thread s t) (wD w) (.status (thread s t).txStat (decide ((thread s t).txStat = stOk))))) :=
  ⟨_, rfl, in_completes t.isLt hi hb hin rfl rfl (Only.refl s t) hi.unstepped ⟨rfl, rfl⟩⟩

theorem fdStat_returns (hi : Issues s t) (hb : Bare s t) (hin : IsIn s t w 0x29) :
    Gives (.fdStat t w) s (Completes s t (tookIn (thread s t) (wD w) (.status (thread s t).fdStat (decide ((thread s t).fdStat = stOk))))) :=
  ⟨_, rfl, in_completes t.isLt hi hb hin rfl rfl (Only.refl s t) hi.unstepped ⟨rfl, rfl⟩⟩

end Sending

/-! ## FD_SUBMIT (R152) -/

section Submitting
variable {s : State} {t : Tid} {w : Word} {f : FD}

/-- A thread whose submission has been resolved with status `x`. -/
def submitted (x : Byte) (th : Thread) : Thread := { th with fdStage := [], fdStat := x }

/-- An FD of a kind that no thread submits is refused. -/
theorem submitFd_refuses (t : Nat) (h : ¬ (fdKind f = 1 ∨ fdKind f = 5)) :
    submitFd s t f = modThread (refuseSend s t) t (submitted stRefused) := by
  obtain ⟨h1, h5⟩ := not_or.mp h
  unfold submitFd
  simp only [if_neg h1, if_neg h5, ite_self, true_or, if_true]
  rfl

/-- A COMPLETION for a slot of the thread's partition that waits for it is on its way (R212). -/
theorem submitFd_completes {x : Slot} (t : Nat) (hk : fdKind f = 1) (hs : slot s (fdSlot f) = some x) (hp : x.pid = tidPid s t)
    (hkey : fdKey x.fd = fdKey f) (hh : x.hole = false) (hd : x.done = none) (hc : s.compl.any (fun e => e.1 = fdSlot f) = false)
    (h6 : ¬ (t < 1024 ∧ partState s (tidPid s t) = 6)) :
    submitFd s t f = modThread { s with compl := s.compl ++ [(fdSlot f, f)] } t (submitted stOk) := by
  have hcheck : complCheck s t f = (stOk, { s with compl := s.compl ++ [(fdSlot f, f)] }) := by
    unfold complCheck
    simp [hs, hp, hkey, hh, hd, hc]
  unfold submitFd
  simp only [if_neg h6, if_pos hk, hcheck]
  rfl

/-- A word before the eighth is staged. -/
theorem fdSubmit_stages (hi : Issues s t) (hb : Bare s t) (hout : IsOut s t w 0x28) (hn : (thread s t).fdStage.length < 7) :
    Gives (.fdSubmit t w) s (Completes s t { thread s t with fdStage := (thread s t).fdStage ++ [wreg s t (wD w)] }) := by
  obtain ⟨hb1, ht1⟩ := Beside.modThread s t fun th => { th with fdStage := (thread s t).fdStage ++ [wreg s t (wD w)] }
  refine gives_out rfl t.isLt hi hb hout rfl ?_ ht1 (atUnit_of_issues hi hb) fun s' hbeside hth => ⟨hb1.trans hbeside, hth⟩
  simp [hn]

/-- The eighth word submits the FD that the eight spell: the unit completes from what that leaves. -/
theorem fdSubmit_eighth {l : List Word} {s0 : State} {x : Byte} {P : State → Prop} (hi : Issues s t) (hb : Bare s t)
    (hout : IsOut s t w 0x28) (hl : (thread s t).fdStage = l) (h7 : l.length = 7)
    (hf : submitFd s t (fdOf (l ++ [wreg s t (wD w)])) = modThread s0 t (submitted x)) (h0 : thread s0 t = thread s t)
    (hP : ∀ s', Beside s0 s' t → thread s' t = { submitted x (thread s t) with pc := pcAfter s t, pfx := .none } → P s') :
    Gives (.fdSubmit t w) s P := by
  obtain ⟨hb1, ht1⟩ := Beside.modThread s0 t (submitted x)
  rw [h0] at ht1
  refine gives_out rfl t.isLt hi hb hout rfl ?_ ht1 (atUnit_of_issues hi hb) fun s' hbeside hth => hP s' (hb1.trans hbeside) hth
  simp [hl, h7, hf]

end Submitting

/-- Settles O20: the destination by its status; a staged word by how many are there and by the send share; the eighth word of
an FD by its kind. -/
theorem sendingAndSubmitting : Obligations.SendingAndSubmitting := by
  unfold Obligations.SendingAndSubmitting
  refine fun t w s hi hb => ⟨fun hout hs => ⟨?dest, ?denied⟩, fun hout d ws hs => ⟨?stage, ?commit, ?full⟩, ?abort, ?txStat, ?fdStat,
    fun hout => ⟨?word, ?refuse, ?complete⟩⟩
  case dest => exact fun h1 h8 hd h4 h30 hp => txDest_ok hi hb hout hs (destStatus_ok h1 h8 hd h4 h30 hp)
  case denied => exact fun ht h1 h8 hd hp => txDest_denied hi hb hout hs (destStatus_denied ht h1 h8 hd hp)
  case stage => exact fun hn => txData_stages hi hb hout hs hn
  case commit => exact fun hn hf => txData_commits hi hb hout hs hn hf
  case full => exact fun hn hf => txData_full hi hb hout hs hn hf
  case abort => exact fun hout => txAbort_drops hi hb hout
  case txStat =>
    intro hin
    rw [← tookIn_status]
    exact txStat_returns hi hb hin
  case fdStat =>
    intro hin
    rw [← tookIn_status]
    exact fdStat_returns hi hb hin
  case word => exact fun hn => fdSubmit_stages hi hb hout hn
  case refuse =>
    intro l hl h7 hk
    obtain ⟨hkept, hthreads⟩ := refuseSend_keeps s t
    exact fdSubmit_eighth hi hb hout hl h7 (submitFd_refuses t hk) (hthreads t) fun s' hbeside hth =>
      ⟨(hkept.trans hbeside.sendsKept).2.1, (hkept.trans hbeside.sendsKept).2.2, hth⟩
  case complete =>
    intro l k x hl h7 f hk hslot hs hp hkey hh hd hc h6
    subst hslot
    exact fdSubmit_eighth hi hb hout hl h7 (submitFd_completes t hk hs hp hkey hh hd hc h6) rfl fun s' hbeside hth => ⟨hbeside, hth⟩

end Sys2Proof.Machine
end
